-- ==== Sys2Proof/Word.lean ====
section
/-! DEFINITION. The machine's words, and their plainest arithmetic (R218, R225, R303). -/

namespace Sys2Proof

/-- One byte of memory. -/
abbrev Byte := BitVec 8

/-- A 32-bit word: a scalar register, one lane of a vector register, an instruction word. -/
abbrev Word := BitVec 32

/-- A 64-bit pair, low half in the even register (R221). -/
abbrev DWord := BitVec 64

/-- A virtual address (R89). -/
abbrev VA := BitVec 52

/-- One bit per lane; lane L is bit L (R218: bit L mod 32 of mask word L div 32). -/
abbrev Mask := BitVec 96

/-- One row of a tile slice (R222). -/
abbrev Row := BitVec 1024

/-- One 128-byte line, byte k in bits [8k + 7 : 8k]. -/
abbrev Line := BitVec 1024

/-- The low word of a pair. -/
def lo32 (x : DWord) : Word := x.extractLsb' 0 32

/-- The high word of a pair. -/
def hi32 (x : DWord) : Word := x.extractLsb' 32 32

/-- The pair of a high and a low word. -/
def pair64 (hi lo : Word) : DWord := hi ++ lo

end Sys2Proof
end

