-- ==== Sys2Proof/Config.lean ====
section
/-! DEFINITION. What one machine fixes for good, and the free values: constants without a body, which no proof can see
through. -/

namespace Sys2Proof.Config

/-- A free value: what the spec leaves open at the n-th moment that leaves something open (DESIGN CHOICE, log 10). -/
opaque freeValue : Nat → BitVec 1024

/-- The leaf by which another device's global page table translates a window-10 address, at the n-th moment that leaves something
open; where its valid bit is clear, bits 1:0 and 3:2 give the reason and the level of the fault (R103, R104; DESIGN CHOICE, log 10). -/
opaque remoteEntry : Nat → Nat → BitVec 64

/-- The errors that ECC will meet from a clock on: where a copy of a line fails (0 to 7 the L2 of that die, 8 the memory-side cache,
9 DRAM), the line's location, whether the error cannot be corrected (R112, R113; DESIGN CHOICE, log 10). -/
opaque decay : Nat → List (Nat × Nat × Bool)

/-- Whether a core uses an expired copy while its renewal is in flight, which R133 permits and does not require, at the n-th
moment that leaves something open (DESIGN CHOICE, log 10). -/
opaque usesExpired : Nat → Bool

/-- The value a special function returns for an operand, before the bound of R301 is applied (DESIGN CHOICE, log 6): function number,
format code of R225, operand bits. -/
opaque specialFunction : Nat → Nat → Nat → Nat

/-- The quotient of the box test where the spec states none, ∞ − ∞ or ∞ / ∞ (R193; DESIGN CHOICE, log 10): box bound, ray origin, ray
direction; F32 encodings. -/
opaque boxQuotient : Nat → Nat → Nat → Nat

/-- How many steps the capping controller's model predicts will bring a die under its limit (R22; DESIGN CHOICE, log 9). -/
opaque predictedSteps : Nat → Nat

/-- How far above 0.65 V the capping controller sets `vcd` at a clock step, in mV, before its range is applied (R17; DESIGN CHOICE,
log 10). -/
opaque vcdAbove : Nat → Nat

/-- The lanes of the die-to-die links: one less than the number of which a link across the rows has twice and every other link three
times; the spec gives their proportions only (R13; DESIGN CHOICE, log 10). -/
opaque dieLanes : Nat

/-- The SHAKE256 digest of a checkpoint stream, from its bytes that are not zero (R85; DESIGN CHOICE, log 8). -/
opaque streamDigest : List (Nat × Byte) → List Byte

/-- SHAKE256 with an output of 64 bytes (R76, R79, R85; DESIGN CHOICE, log 8). -/
opaque shake256 : List Byte → List Byte

/-- Whether an Ed448 signature over a digest verifies under the Otbelin key of the ROM (R76, R77; DESIGN CHOICE, log 8). -/
opaque signatureValid : List Byte → List Byte → Bool

/-- The Ed448 signature of the device identity key over a digest, 114 bytes (R80; DESIGN CHOICE, log 8). -/
opaque identitySign : List Byte → List Byte

/-- The device serial number, 16 bytes (R80, R85; DESIGN CHOICE, log 8). -/
opaque serial : List Byte

/-- Byte k of the identity certificate (R80; DESIGN CHOICE, log 8). -/
opaque idcert : Nat → Byte

/-- The boot ROM's own version as measured (R79; DESIGN CHOICE, log 8). -/
opaque romVersion : List Byte

/-- The fused minimum image version (R77; DESIGN CHOICE, log 8). -/
opaque fusedMinVersion : Word

/-- The reason word and the results that the Director gives where the spec leaves them to it (R65; DESIGN CHOICE, log 12). -/
opaque directorWord : Nat → Word

/-- Whether the Director accepts a cue of a Director-defined kind (R65; DESIGN CHOICE, log 12). -/
opaque directorAccepts : List Byte → Bool

end Sys2Proof.Config
end

