-- ==== Sys2Proof/Syntax.lean ====
section
/-! DEFINITION. The abstract syntax: one constructor for every row of spec/opcode_table.json. A word of the opcode map
(R311) carries its fields as R303 cuts them; an event carries what arrives with it. -/

namespace Sys2Proof

/-- The fields of an instruction word (R303) and its literal word (R304; 0 when L = 0). -/
structure Fields where
  e   : Bool
  l   : Bool
  d   : BitVec 7
  a   : BitVec 7
  b   : BitVec 7
  x   : Bool
  lit : Word
  deriving DecidableEq, Repr

/-- A core die, CD0 to CD7 (R12). -/
abbrev Die := Fin 8

/-- A context tag (R92). -/
abbrev Ctx := BitVec 8

/-- A slot of the directory home table (R37). -/
abbrev Slot := Fin 64

/-- A device number of the partition (R37). -/
abbrev Device := BitVec 8

/-- A system-scope line's global address G (R37). -/
abbrev LineAddr := BitVec 41

/-- A program-counter slot of a group (R229). -/
inductive PcSel where
  | a | b
  deriving DecidableEq, Repr

/-- The kinds of flit (R30). -/
inductive FlitKind where
  | idle | payload | retry | marker
  deriving DecidableEq, Repr

/-- The states of a directory entry (R39). -/
inductive DirState where
  | i | s | e | o | m
  deriving DecidableEq, Repr

/-- What names the requester of a directory request: its device, the switch port it came in on, its transaction (R32). -/
structure FabReq where
  g    : LineAddr
  dev  : Device
  port : Fin 64
  txn  : Word
  deriving DecidableEq, Repr

/-- The registers that configure the event ring (R72). -/
inductive RingReg where
  | baseLo | baseHi | size
  deriving DecidableEq, Repr

/-- What step 6 of R77 found: the self-test of each die, the cache dies, HBM4 training, the die-to-die links. -/
structure BringUp where
  dieOk   : BitVec 8
  cacheOk : Bool
  hbmOk   : Bool
  linkOk  : Bool
  records : List (List Byte)
  deriving DecidableEq, Repr

/-- Why a checkpoint or a restore stopped (R88): reason words 2, 3 and 4. -/
inductive InterruptWhy where
  | poison | lostLink | refused
  deriving DecidableEq, Repr

/-- What ECC found in a sector (R112, R113). -/
inductive EccOutcome where
  | clean | corrected | uncorrectable
  deriving DecidableEq, Repr

/-- The sequencers of R157: one per die, the package sequencer, the system sequencer, one per core pair. -/
inductive TicketScope where
  | die (d : Die)
  | pkg
  | sys
  | pair (p : Nat)
  deriving DecidableEq, Repr

/-- Every step of the part: the 199 instruction words, then the 143 events. -/
inductive Instr where
  | nop (f : Fields)  -- NOP, R320
  | setm (f : Fields)  -- SETM, R321
  | getm (f : Fields)  -- GETM, R321
  | sysr (f : Fields)  -- SYSR, R322
  | sysw (f : Fields)  -- SYSW, R322
  | trap (f : Fields)  -- TRAP, R324
  | rtt (f : Fields)  -- RTT, R253
  | exit (f : Fields)  -- EXIT, R326
  | yield (f : Fields)  -- YIELD, R327
  | brkpt (f : Fields)  -- BRKPT, R324
  | wait (f : Fields)  -- WAIT, R328
  | waitx (f : Fields)  -- WAITX, R328
  | fence (f : Fields)  -- FENCE, R329
  | homeq (f : Fields)  -- HOMEQ, R330
  | launch (f : Fields)  -- LAUNCH, R331
  | recv (f : Fields)  -- RECV, R333
  | send (f : Fields)  -- SEND, R335
  | bankcfg (f : Fields)  -- BANKCFG, R121
  | bara (f : Fields)  -- BARA, R410
  | barw (f : Fields)  -- BARW, R410
  | baraw (f : Fields)  -- BARAW, R410
  | chkw (f : Fields)  -- CHKW, R411
  | wclr (f : Fields)  -- WCLR, R411
  | clnr (f : Fields)  -- CLNR, R412
  | invr (f : Fields)  -- INVR, R412
  | flsr (f : Fields)  -- FLSR, R412
  | pref (f : Fields)  -- PREF, R413
  | resid (f : Fields)  -- RESID, R413
  | bra (f : Fields)  -- BRA, R339
  | brz (f : Fields)  -- BRZ, R339
  | brnz (f : Fields)  -- BRNZ, R339
  | call (f : Fields)  -- CALL, R339
  | ret (f : Fields)  -- RET, R339
  | jmpr (f : Fields)  -- JMPR, R339
  | condIf (f : Fields)  -- IF, R231
  | condElse (f : Fields)  -- ELSE, R231
  | condEndif (f : Fields)  -- ENDIF, R231
  | loop (f : Fields)  -- LOOP, R231
  | brk (f : Fields)  -- BRK, R231
  | cont (f : Fields)  -- CONT, R231
  | endl (f : Fields)  -- ENDL, R231
  | split (f : Fields)  -- SPLIT, R233
  | join (f : Fields)  -- JOIN, R234
  | smov (f : Fields)  -- SMOV, R343
  | sadd (f : Fields)  -- SADD, R343
  | ssub (f : Fields)  -- SSUB, R343
  | smul (f : Fields)  -- SMUL, R343
  | smulh (f : Fields)  -- SMULH, R343
  | sand (f : Fields)  -- SAND, R343
  | sor (f : Fields)  -- SOR, R343
  | sxor (f : Fields)  -- SXOR, R343
  | sshl (f : Fields)  -- SSHL, R343
  | sshr (f : Fields)  -- SSHR, R343
  | ssra (f : Fields)  -- SSRA, R343
  | smin (f : Fields)  -- SMIN, R343
  | smax (f : Fields)  -- SMAX, R343
  | sceq (f : Fields)  -- SCEQ, R343
  | sclt (f : Fields)  -- SCLT, R343
  | scltu (f : Fields)  -- SCLTU, R343
  | ssel (f : Fields)  -- SSEL, R343
  | sadd64 (f : Fields)  -- SADD64, R343
  | ssub64 (f : Fields)  -- SSUB64, R343
  | spopc (f : Fields)  -- SPOPC, R343
  | sclz (f : Fields)  -- SCLZ, R343
  | sdivu (f : Fields)  -- SDIVU, R344
  | sremu (f : Fields)  -- SREMU, R344
  | sbfe (f : Fields)  -- SBFE, R345
  | vmov (f : Fields)  -- VMOV, R348
  | vbcast (f : Fields)  -- VBCAST, R348
  | vlane (f : Fields)  -- VLANE, R348
  | vadd (f : Fields)  -- VADD, R350
  | vsub (f : Fields)  -- VSUB, R350
  | vmul (f : Fields)  -- VMUL, R350
  | vfma (f : Fields)  -- VFMA, R350
  | vmin (f : Fields)  -- VMIN, R351
  | vmax (f : Fields)  -- VMAX, R351
  | vabs (f : Fields)  -- VABS, R350
  | vneg (f : Fields)  -- VNEG, R350
  | vdiv (f : Fields)  -- VDIV, R350
  | vrem (f : Fields)  -- VREM, R350
  | vmulh (f : Fields)  -- VMULH, R350
  | vand (f : Fields)  -- VAND, R354
  | vor (f : Fields)  -- VOR, R354
  | vxor (f : Fields)  -- VXOR, R354
  | vnot (f : Fields)  -- VNOT, R354
  | vshl (f : Fields)  -- VSHL, R354
  | vshr (f : Fields)  -- VSHR, R354
  | vsra (f : Fields)  -- VSRA, R354
  | vceq (f : Fields)  -- VCEQ, R352
  | vcne (f : Fields)  -- VCNE, R352
  | vclt (f : Fields)  -- VCLT, R352
  | vcle (f : Fields)  -- VCLE, R352
  | vcun (f : Fields)  -- VCUN, R352
  | vsel (f : Fields)  -- VSEL, R353
  | vpopc (f : Fields)  -- VPOPC, R354
  | vclz (f : Fields)  -- VCLZ, R354
  | vbfe (f : Fields)  -- VBFE, R354
  | vbfi (f : Fields)  -- VBFI, R354
  | vpand (f : Fields)  -- VPAND, R355
  | vpor (f : Fields)  -- VPOR, R355
  | vpnot (f : Fields)  -- VPNOT, R355
  | vrcp (f : Fields)  -- VRCP, R356
  | vrsq (f : Fields)  -- VRSQ, R356
  | vsqrt (f : Fields)  -- VSQRT, R356
  | vex2 (f : Fields)  -- VEX2, R356
  | vlg2 (f : Fields)  -- VLG2, R356
  | vsin (f : Fields)  -- VSIN, R356
  | vcos (f : Fields)  -- VCOS, R356
  | vflr (f : Fields)  -- VFLR, R356
  | vceil (f : Fields)  -- VCEIL, R356
  | vrnd (f : Fields)  -- VRND, R356
  | vclass (f : Fields)  -- VCLASS, R356
  | vmovi (f : Fields)  -- VMOVI, R357
  | vpset (f : Fields)  -- VPSET, R358
  | cvt (f : Fields)  -- CVT, R359
  | vpk2 (f : Fields)  -- VPK2, R360
  | vpk4 (f : Fields)  -- VPK4, R360
  | vpk8 (f : Fields)  -- VPK8, R360
  | vunpk (f : Fields)  -- VUNPK, R361
  | dot4 (f : Fields)  -- DOT4, R362
  | dot8 (f : Fields)  -- DOT8, R362
  | idot4 (f : Fields)  -- IDOT4, R362
  | qblk (f : Fields)  -- QBLK, R363
  | qblkn (f : Fields)  -- QBLKN, R363
  | vscl (f : Fields)  -- VSCL, R365
  | shfl (f : Fields)  -- SHFL, R367
  | shflx (f : Fields)  -- SHFLX, R367
  | voteany (f : Fields)  -- VOTEANY, R367
  | voteall (f : Fields)  -- VOTEALL, R367
  | ballot (f : Fields)  -- BALLOT, R367
  | gred (f : Fields)  -- GRED, R368
  | gscan (f : Fields)  -- GSCAN, R368
  | mma (f : Fields)  -- MMA, R374
  | mmaz (f : Fields)  -- MMAZ, R374
  | tzero (f : Fields)  -- TZERO, R376
  | tld (f : Fields)  -- TLD, R378
  | tst (f : Fields)  -- TST, R379
  | tfrag (f : Fields)  -- TFRAG, R381
  | tfill (f : Fields)  -- TFILL, R381
  | tmaxr (f : Fields)  -- TMAXR, R385
  | texps (f : Fields)  -- TEXPS, R386
  | tnorm (f : Fields)  -- TNORM, R387
  | tfft (f : Fields)  -- TFFT, R391
  | tfstg (f : Fields)  -- TFSTG, R390
  | tbrev (f : Fields)  -- TBREV, R389
  | twid (f : Fields)  -- TWID, R392
  | tscl (f : Fields)  -- TSCL, R383
  | tcvt (f : Fields)  -- TCVT, R382
  | ldb (f : Fields)  -- LDB, R396
  | ldh (f : Fields)  -- LDH, R396
  | ldw (f : Fields)  -- LDW, R396
  | ldd (f : Fields)  -- LDD, R396
  | ldq (f : Fields)  -- LDQ, R396
  | stb (f : Fields)  -- STB, R396
  | sth (f : Fields)  -- STH, R396
  | stw (f : Fields)  -- STW, R396
  | std (f : Fields)  -- STD, R396
  | stq (f : Fields)  -- STQ, R396
  | ldsw (f : Fields)  -- LDSW, R398
  | ldsd (f : Fields)  -- LDSD, R398
  | stsw (f : Fields)  -- STSW, R398
  | stsd (f : Fields)  -- STSD, R398
  | lduw (f : Fields)  -- LDUW, R399
  | ldud (f : Fields)  -- LDUD, R399
  | lduq (f : Fields)  -- LDUQ, R399
  | lldw (f : Fields)  -- LLDW, R400
  | lldq (f : Fields)  -- LLDQ, R400
  | lstw (f : Fields)  -- LSTW, R400
  | lstq (f : Fields)  -- LSTQ, R400
  | qenq (f : Fields)  -- QENQ, R401
  | qdeq (f : Fields)  -- QDEQ, R401
  | aadd (f : Fields)  -- AADD, R403
  | amin (f : Fields)  -- AMIN, R403
  | amax (f : Fields)  -- AMAX, R403
  | aand (f : Fields)  -- AAND, R403
  | aor (f : Fields)  -- AOR, R403
  | axor (f : Fields)  -- AXOR, R403
  | axch (f : Fields)  -- AXCH, R403
  | acas (f : Fields)  -- ACAS, R404
  | afadd (f : Fields)  -- AFADD, R405
  | radd (f : Fields)  -- RADD, R403
  | rfadd (f : Fields)  -- RFADD, R405
  | rmin (f : Fields)  -- RMIN, R403
  | rmax (f : Fields)  -- RMAX, R403
  | cpy (f : Fields)  -- CPY, R407
  | cpya (f : Fields)  -- CPYA, R407
  | cpyr (f : Fields)  -- CPYR, R407
  | cpyar (f : Fields)  -- CPYAR, R407
  | cpy2d (f : Fields)  -- CPY2D, R407
  | vapp (f : Fields)  -- VAPP, R418
  | vstamp (f : Fields)  -- VSTAMP, R420
  | vdrop (f : Fields)  -- VDROP, R421
  | vget (f : Fields)  -- VGET, R423
  | vconn (f : Fields)  -- VCONN, R424
  | vmrg (f : Fields)  -- VMRG, R425
  | vrwt (f : Fields)  -- VRWT, R426
  | vret (f : Fields)  -- VRET, R427
  | sight (f : Fields)  -- SIGHT, R429
  | sighta (f : Fields)  -- SIGHTA, R429
  | unassignedOpcode (w : Word)  -- UNASSIGNED_OPCODE, R308
  | loadReply (gid : Nat)  -- LOAD_REPLY, R148
  | storePerformed (gid : Nat)  -- STORE_PERFORMED, R150
  | atomicReply (gid : Nat)  -- ATOMIC_REPLY, R403
  | copyComplete (gid : Nat)  -- COPY_COMPLETE, R160
  | tileUnitDone (gid : Nat)  -- TILE_UNIT_DONE, R371
  | fifoReady (gid : Nat)  -- FIFO_READY, R401
  | launchAnswer (op : Nat)  -- LAUNCH_ANSWER, R331
  | wingsReply (op : Nat)  -- WINGS_REPLY, R241
  | engineAppend (op : Nat)  -- ENGINE_APPEND, R177
  | appendSealed (op : Nat)  -- APPEND_SEALED, R177
  | engineStamp (op : Nat)  -- ENGINE_STAMP, R178
  | stampReturn (op : Nat)  -- STAMP_RETURN, R178
  | engineDrop (op : Nat)  -- ENGINE_DROP, R421
  | engineGet (op : Nat)  -- ENGINE_GET, R423
  | engineConnect (op : Nat)  -- ENGINE_CONNECT, R424
  | engineMerge (op : Nat)  -- ENGINE_MERGE, R425
  | engineReweight (op : Nat)  -- ENGINE_REWEIGHT, R426
  | engineRetire (op : Nat)  -- ENGINE_RETIRE, R427
  | sightlineQuery (op : Nat)  -- SIGHTLINE_QUERY, R429
  | uwtResolution (core : Nat) (entry : Nat)  -- UWT_RESOLUTION, R162
  | renewalReply (gid : Nat)  -- RENEWAL_REPLY, R133
  | ticketGrant (scope : TicketScope)  -- TICKET_GRANT, R157
  | dependenceNotify (launch : Nat)  -- DEPENDENCE_NOTIFY, R200
  | teamEnd (team : Nat)  -- TEAM_END, R201
  | completionIncrement (launch : Nat)  -- COMPLETION_INCREMENT, R201
  | groupEnd (gid : Nat)  -- GROUP_END, R237
  | barrierPhaseComplete (team : Nat) (k : Fin 16)  -- BARRIER_PHASE_COMPLETE, R409
  | killRecordDelivery (die : Die)  -- KILL_RECORD_DELIVERY, R254
  | lateFault (gid : Nat)  -- LATE_FAULT, R252
  | watchdogExpiry (gid : Nat) (level : Fin 3)  -- WATCHDOG_EXPIRY, R256
  | spinDemotion (gid : Nat) (slot : PcSel)  -- SPIN_DEMOTION, R236
  | demotionEnd (gid : Nat) (slot : PcSel)  -- DEMOTION_END, R236
  | recvTimeout (gid : Nat)  -- RECV_TIMEOUT, R333
  | bankDrainComplete (pair : Nat) (bank : Fin 64)  -- BANK_DRAIN_COMPLETE, R122
  | rebaseComplete (die : Die) (slice : Fin 64)  -- REBASE_COMPLETE, R132
  | containmentAction (line : Nat)  -- CONTAINMENT_ACTION, R115
  | contextRestore (ctx : Ctx) (failed : Bool)  -- CONTEXT_RESTORE, R87
  | directorReady (die : Die)  -- DIRECTOR_READY, R77
  | ihlReadReply (refused : Bool) (line : Line)  -- IHL_READ_REPLY, R32
  | ihlWriteAck (refused : Bool)  -- IHL_WRITE_ACK, R32
  | ctLimitSweep (die : Die)  -- CT_LIMIT_SWEEP, R132
  | sweepComplete (slot : Slot)  -- SWEEP_COMPLETE, R52
  | railsInRange  -- RAILS_IN_RANGE, R18
  | powerRemoval  -- POWER_REMOVAL, R19
  | sensorSample (readings : List (BitVec 24))  -- SENSOR_SAMPLE, R16
  | thermalTripEvent  -- THERMAL_TRIP_EVENT, R27
  | thermTripNAssert  -- THERM_TRIP_N_ASSERT, R27
  | powerCapEvaluation (watts : List Nat)  -- POWER_CAP_EVALUATION, R22
  | plimWrite (die : Die) (watts : Word)  -- PLIM_WRITE, R21
  | railOutOfRange (rail : Fin 20)  -- RAIL_OUT_OF_RANGE, R78
  | flitSend (link : Nat) (kind : FlitKind) (vc : Fin 4) (msgs : List (List Byte))  -- FLIT_SEND, R33
  | flitReceive (link : Nat) (flit : List Byte)  -- FLIT_RECEIVE, R33
  | retryRequest (link : Nat) (seq : BitVec 16)  -- RETRY_REQUEST, R33
  | linkRetrain (link : Nat)  -- LINK_RETRAIN, R34
  | retrainComplete (link : Nat) (ok : Bool) (dropped : List Nat)  -- RETRAIN_COMPLETE, R35
  | readRequest (slot : Slot) (r : FabReq)  -- READ_REQUEST, R42
  | ownershipRequest (slot : Slot) (r : FabReq)  -- OWNERSHIP_REQUEST, R42
  | writeback (slot : Slot) (r : FabReq) (line : Line)  -- WRITEBACK, R42
  | ownershipNote (alternate primary : Slot) (g : LineAddr) (own : Device) (st : DirState)  -- OWNERSHIP_NOTE, R49
  | ownershipNoteAck (primary : Slot) (g : LineAddr)  -- OWNERSHIP_NOTE_ACK, R49
  | invalidationAcknowledgement (slot : Slot) (g : LineAddr) (port : Fin 64)  -- INVALIDATION_ACKNOWLEDGEMENT, R42
  | ownerData (slot : Slot) (g : LineAddr) (dev : Device) (dirty : Bool) (line : Line)  -- OWNER_DATA, R42
  | noCopyReply (slot : Slot) (g : LineAddr) (dev : Device)  -- NO_COPY_REPLY, R43
  | sweepAcknowledgement (dev : Device)  -- SWEEP_ACKNOWLEDGEMENT, R51
  | waitingNoticeTimer (slot : Slot)  -- WAITING_NOTICE_TIMER, R45
  | dataGrant (g : LineAddr) (st : DirState) (line : Line)  -- DATA_GRANT, R42
  | grantWithoutData (g : LineAddr)  -- GRANT_WITHOUT_DATA, R42
  | invalidation (slot : Slot) (g : LineAddr)  -- INVALIDATION, R47
  | forwardRead (slot : Slot) (g : LineAddr)  -- FORWARD_READ, R43
  | forwardInvalidate (slot : Slot) (g : LineAddr)  -- FORWARD_INVALIDATE, R42
  | writebackAcknowledgement (g : LineAddr)  -- WRITEBACK_ACKNOWLEDGEMENT, R42
  | waitingNotice (g : LineAddr)  -- WAITING_NOTICE, R45
  | invalidateAndWritebackSweep (first last : LineAddr) (lost : Slot)  -- INVALIDATE_AND_WRITEBACK_SWEEP, R51
  | switchLossDeclaration (slot : Slot) (bySwitch : Bool) (by_ : BitVec 8)  -- SWITCH_LOSS_DECLARATION, R50
  | switchLossTimeout (g : LineAddr)  -- SWITCH_LOSS_TIMEOUT, R50
  | ownershipNotesResend (lost : Slot)  -- OWNERSHIP_NOTES_RESEND, R53
  | hostMemoryRead (off : BitVec 48)  -- HOST_MEMORY_READ, R58
  | hostMemoryWrite (off : BitVec 48) (en : BitVec 128) (line : Line)  -- HOST_MEMORY_WRITE, R61
  | managementAccess (write : Bool) (off : BitVec 16) (value : Word)  -- MANAGEMENT_ACCESS, R59
  | evtAckWrite (value : Word)  -- EVT_ACK_WRITE, R70
  | evtReplayWrite (value : Word)  -- EVT_REPLAY_WRITE, R73
  | eventRingConfig (reg : RingReg) (value : Word)  -- EVENT_RING_CONFIG, R72
  | hmwSelWrite (value : Word)  -- HMW_SEL_WRITE, R58
  | bootCtlGo  -- BOOT_CTL_GO, R77
  | bootCtlClr  -- BOOT_CTL_CLR, R82
  | bootCtlRst  -- BOOT_CTL_RST, R82
  | mscmodeWrite (value : Word)  -- MSCMODE_WRITE, R109
  | cueArrival (off : BitVec 12) (bytes : List Byte)  -- CUE_ARRIVAL, R63
  | cueLaunch (die : Die)  -- CUE_LAUNCH, R65
  | cueMap (die : Die)  -- CUE_MAP, R67
  | cueUnmap (die : Die)  -- CUE_UNMAP, R67
  | cueCtxCreate (die : Die)  -- CUE_CTX_CREATE, R65
  | cueCtxDestroy (die : Die)  -- CUE_CTX_DESTROY, R88
  | cueKill (die : Die)  -- CUE_KILL, R88
  | cueCheckpoint (die : Die)  -- CUE_CHECKPOINT, R83
  | cueRestore (die : Die)  -- CUE_RESTORE, R85
  | cueAttest  -- CUE_ATTEST, R80
  | partitionHeader (die : Die)  -- PARTITION_HEADER, R66
  | partitionMembers (die : Die)  -- PARTITION_MEMBERS, R66
  | partitionHomeTable (die : Die)  -- PARTITION_HOME_TABLE, R66
  | partitionPortMap (die : Die)  -- PARTITION_PORT_MAP, R66
  | partitionCommit (die : Die)  -- PARTITION_COMMIT, R66
  | cueDirectorDefined (die : Die)  -- CUE_DIRECTOR_DEFINED, R65
  | eventWrite  -- EVENT_WRITE, R70
  | ihlInterrupt  -- IHL_INTERRUPT, R70
  | goTimeout  -- GO_TIMEOUT, R78
  | bootImageRead  -- BOOT_IMAGE_READ, R77
  | dieBringUpDone (r : BringUp)  -- DIE_BRING_UP_DONE, R77
  | readyTimeout  -- READY_TIMEOUT, R78
  | checkpointComplete  -- CHECKPOINT_COMPLETE, R84
  | checkpointInterrupt (why : InterruptWhy)  -- CHECKPOINT_INTERRUPT, R88
  | restoreStreamComplete  -- RESTORE_STREAM_COMPLETE, R85
  | restoreInterrupt (why : InterruptWhy) (streamed : Nat)  -- RESTORE_INTERRUPT, R88
  | incrementalCheckpoint (ctx : Ctx)  -- INCREMENTAL_CHECKPOINT, R86
  | invalidatePage (ctx : Ctx) (va : VA)  -- INVALIDATE_PAGE, R99
  | invalidateContext (ctx : Ctx)  -- INVALIDATE_CONTEXT, R99
  | invalidateAll  -- INVALIDATE_ALL, R99
  | invalidationComplete  -- INVALIDATION_COMPLETE, R99
  | mboundWrite (value : Word)  -- MBOUND_WRITE, R98
  | ctxtabWrite (high : Bool) (value : Word)  -- CTXTAB_WRITE, R98
  | llctlWrite (die : Die) (value : Word)  -- LLCTL_WRITE, R214
  | memCorrectedReport (die : Die) (channel : Fin 64) (count : Nat)  -- MEM_CORRECTED_REPORT, R112
  | patrolScrub (die : Die) (channel : Fin 64) (addr : Nat) (outcome : EccOutcome)  -- PATROL_SCRUB, R112
  | partitionReset (base : VA)  -- PARTITION_RESET, R116
  | leaseRenewal (core : Nat) (ctx : Ctx) (va : VA)  -- LEASE_RENEWAL, R129
  | sliceStore (core : Option Nat) (ctx : Ctx) (va : VA) (en : BitVec 128) (line : Line)  -- SLICE_STORE, R129
  | interdieCoherenceRequest (die : Die) (own : Bool) (ctx : Ctx) (va : VA)  -- INTERDIE_COHERENCE_REQUEST, R135
  | priorityAging (launch : Nat)  -- PRIORITY_AGING, R202
  | placement (die : Die)  -- PLACEMENT, R203
  | switchOut (core : Nat)  -- SWITCH_OUT, R206
  | shadowCopy (core : Nat)  -- SHADOW_COPY, R206
  | shadowStreamOut (core : Nat) (ctx : Ctx)  -- SHADOW_STREAM_OUT, R206
  | switchIn (core : Nat)  -- SWITCH_IN, R207
  | shadowStreamIn (core : Nat) (ctx : Ctx)  -- SHADOW_STREAM_IN, R207
  | groupExchange (active pending : Nat)  -- GROUP_EXCHANGE, R209
  | pendingPromotionTimeout (pending : Nat)  -- PENDING_PROMOTION_TIMEOUT, R209
  | runArbitration (quarter : Nat)  -- RUN_ARBITRATION, R211
  | loadLimitWindow (quarter : Nat)  -- LOAD_LIMIT_WINDOW, R212
  | tokenRelease (gid : Nat)  -- TOKEN_RELEASE, R213
  | mailboxService (gid : Nat)  -- MAILBOX_SERVICE, R435
  | linkReturn (link : Nat)  -- LINK_RETURN, R88
  | arenaClose (ctx : Ctx) (header : VA)  -- ARENA_CLOSE, R172
  deriving DecidableEq, Repr

end Sys2Proof
end

