-- ==== Sys2Proof/Machine/OpTable.lean ====
section
/-! DEFINITION. The opcode map as data (R303 to R317): for each word its opcode, the kinds of its operands, what it asks
of a literal, the types it accepts, what it checks before it runs. The decoder, the encoder and the decode checks of
R307 are written over this one table. -/

namespace Sys2Proof

/-- The kind of an operand position (R305, R306). -/
inductive Kind where
  | unused
  | v                 -- a vector register
  | vp                -- an even vector register, naming a pair
  | vq                -- a vector register that is a multiple of 4 (R395)
  | vT                -- V, or VP when the type in force is 64-bit (R346)
  | vSrc              -- CVT's source: V, or VP when its source type is 64-bit (R359)
  | vq64              -- ACAS: VP for 32 bits, V×4 for 64 (R402)
  | run (n : Nat)     -- the base of n consecutive vector registers
  | runE (n : Nat)    -- the base of as many registers as n elements of m.t fill
  | frag              -- a matrix fragment (R313)
  | s | sp
  | sTo (max : Nat)   -- a scalar register whose field is at most max
  | sBeats            -- a scalar register that begins one word per beat (R358, R367)
  | quad              -- an even scalar register at most 124 (R414)
  | vs | vsT          -- V or S; VP or SP when the type in force is 64-bit
  | base              -- a memory base, VP or SP (R393)
  | p | t
  | imm (max : Nat)   -- N: a small immediate from 0 to max
  | cvt               -- CVT's policy and source type (R306)
  | homeD | homeB     -- HOMEQ: S with SP, V with VP (R330)
  deriving DecidableEq, Repr

/-- Whether a word takes a literal (R304). -/
inductive LitRule where
  | none | opt | req
  deriving DecidableEq, Repr

/-- The types of `m.t` that a page lists (R228). -/
inductive Types where
  | notRead | any | arith | fma | cmp | gred | mma | not64
  | these (ts : List Nat)
  deriving DecidableEq, Repr

/-- What R239 requires. -/
inductive Conv where
  | none | converged | fullWidth
  deriving DecidableEq, Repr

/-- A value that the page checks as a control word, under ILLEGAL_FIELD. -/
inductive Ctl where
  | none | mode | bfe | wait | qblk | qblkn | frag | twid
  deriving DecidableEq, Repr

/-- An operand position. -/
inductive Pos where
  | d | a | b
  deriving DecidableEq, Repr

/-- The tag that a typed source must carry, where it is not RAW (R228). -/
inductive Want where
  | typ                -- m.t
  | code (t : Nat)
  | cvt                -- CVT's source type
  | pack               -- VPK: F32 for floating-point targets, I32 for integer targets (R360)
  | gred               -- m.t for operations 0 to 2 (R368)
  | frag               -- fragments and their scales (R374)
  | acc                -- the accumulator type of MMA
  | fill               -- TFILL: m.t where it is a register type (R381)
  | complex | scalable -- C32 or C16 in every slice (R388); a type TSCL scales (R383)
  | tileCvt            -- TCVT: complex with complex, real with real (R382)
  deriving DecidableEq, Repr

/-- One row of the opcode map. -/
structure Op where
  code  : Nat
  d     : Kind := .unused
  a     : Kind := .unused
  b     : Kind := .unused
  lit   : LitRule := .none
  types : Types := .notRead
  conv  : Conv := .none
  ctl   : Ctl := .none
  reads : List (Pos × Want) := []
  /-- Privileged (R312). -/
  priv  : Bool := false
  /-- Always ends its run (R309). -/
  ends  : Bool := false
  /-- X is a variant (R306). -/
  useX  : Bool := false
  deriving DecidableEq, Repr

/-! ### Types (R225) -/

/-- A 64-bit type: one element per register pair. -/
def wide (t : Nat) : Bool := t == 12 || t == 13

/-- Elements per 32-bit register; a 64-bit type counts as one per pair. -/
def elems : Nat → Nat
  | 3 | 4 | 5 => 2
  | 6 | 7 | 8 | 9 | 14 => 4
  | 10 | 11 => 8
  | _ => 1

/-- The width of an element in bits. -/
def elemBits : Nat → Nat
  | 3 | 4 | 5 => 16
  | 6 | 7 | 8 | 9 | 14 => 8
  | 10 | 11 => 4
  | 12 | 13 => 64
  | _ => 32

/-- Whether a page that lists these types accepts the code. -/
def Types.accept (ty : Types) (a : Nat) (t : Nat) : Bool :=
  match ty with
  | .notRead | .any | .mma => true
  | .arith => [2, 3, 4, 12, 0, 1, 5, 6, 7, 11, 13].contains t
  | .fma => [2, 3, 4, 12, 0, 1, 13].contains t
  | .cmp => [0, 1, 13, 2, 12].contains t
  | .gred => a ≥ 3 || [0, 1, 2].contains t
  | .not64 => !wide t
  | .these ts => ts.contains t

/-- The fragment registers of A or B for an input type of R313: data registers, then scale registers with X = 1. -/
def fragRegs : Nat → Option (Nat × Nat)
  | 12 | 2 => some (8, 0)
  | 3 | 4 | 6 => some (16, 0)
  | 8 | 9 => some (16, 1)
  | 10 => some (16, 2)
  | _ => none

/-! ### The words (R319, R337, R343, R348 to R368, R373, R395, R401, R402, R406, R408, R415) -/

namespace Op

def nop : Op := { code := 0x00 }
def setm : Op := { code := 0x01, b := .s, lit := .opt, ctl := .mode }
def getm : Op := { code := 0x02, d := .s }
def sysr : Op := { code := 0x03, d := .s, a := .imm 127 }
def sysw : Op := { code := 0x04, a := .imm 127, b := .s, lit := .opt }
def trap : Op := { code := 0x05, a := .imm 15, ends := true }
def rtt : Op := { code := 0x06, ends := true }
def exit : Op := { code := 0x07, ends := true }
def yield : Op := { code := 0x08, ends := true }
def brkpt : Op := { code := 0x09 }
def wait : Op := { code := 0x0A, lit := .req, ctl := .wait, ends := true }
def waitx : Op := { code := 0x0B, a := .imm 3, b := .s, ends := true }
def fence : Op := { code := 0x0C, useX := true }
def homeq : Op := { code := 0x0D, d := .homeD, b := .homeB }
def launch : Op := { code := 0x0E, d := .sp, b := .sp, priv := true }
def recv : Op := { code := 0x0F, d := .v, b := .s, lit := .opt, priv := true }
def send : Op := { code := 0x10, d := .s, b := .v, priv := true }
def bankcfg : Op := { code := 0x11, a := .sp, b := .s, lit := .opt, priv := true }
def bara : Op := { code := 0x12, d := .s, a := .imm 15 }
def barw : Op := { code := 0x13, a := .imm 15, b := .s, ends := true }
def baraw : Op := { code := 0x14, a := .imm 15, ends := true }
def chkw : Op := { code := 0x15, lit := .req, ends := true }
def wclr : Op := { code := 0x16 }
def clnr : Op := { code := 0x17, a := .sp, b := .s, lit := .opt }
def invr : Op := { code := 0x18, a := .sp, b := .s, lit := .opt }
def flsr : Op := { code := 0x19, a := .sp, b := .s, lit := .opt }
def pref : Op := { code := 0x1A, a := .sp, b := .s, lit := .opt }
def resid : Op := { code := 0x1B, a := .sp, b := .s, lit := .opt }
def bra : Op := { code := 0x20, lit := .req, ends := true }
def brz : Op := { code := 0x21, a := .s, lit := .req, ends := true }
def brnz : Op := { code := 0x22, a := .s, lit := .req, ends := true }
def call : Op := { code := 0x23, d := .sp, lit := .req, ends := true }
def ret : Op := { code := 0x24, a := .sp, ends := true }
def jmpr : Op := { code := 0x25, a := .s, ends := true }
def condIf : Op := { code := 0x26, a := .p, ends := true }
def condElse : Op := { code := 0x27, ends := true }
def condEndif : Op := { code := 0x28, ends := true }
def loop : Op := { code := 0x29, ends := true }
def brk : Op := { code := 0x2A, d := .imm 125, a := .p, ends := true }
def cont : Op := { code := 0x2B, d := .imm 125, a := .p, ends := true }
def endl : Op := { code := 0x2C, lit := .req, ends := true }
def split : Op := { code := 0x2D, a := .p, lit := .req, ends := true }
def join : Op := { code := 0x2E, ends := true }
def smov : Op := { code := 0x30, d := .s, b := .s, lit := .opt }
def sadd : Op := { code := 0x31, d := .s, a := .s, b := .s, lit := .opt }
def ssub : Op := { code := 0x32, d := .s, a := .s, b := .s, lit := .opt }
def smul : Op := { code := 0x33, d := .s, a := .s, b := .s, lit := .opt }
def smulh : Op := { code := 0x34, d := .s, a := .s, b := .s, lit := .opt }
def sand : Op := { code := 0x35, d := .s, a := .s, b := .s, lit := .opt }
def sor : Op := { code := 0x36, d := .s, a := .s, b := .s, lit := .opt }
def sxor : Op := { code := 0x37, d := .s, a := .s, b := .s, lit := .opt }
def sshl : Op := { code := 0x38, d := .s, a := .s, b := .s, lit := .opt }
def sshr : Op := { code := 0x39, d := .s, a := .s, b := .s, lit := .opt }
def ssra : Op := { code := 0x3A, d := .s, a := .s, b := .s, lit := .opt }
def smin : Op := { code := 0x3B, d := .s, a := .s, b := .s, lit := .opt }
def smax : Op := { code := 0x3C, d := .s, a := .s, b := .s, lit := .opt }
def sceq : Op := { code := 0x3D, d := .s, a := .s, b := .s, lit := .opt }
def sclt : Op := { code := 0x3E, d := .s, a := .s, b := .s, lit := .opt }
def scltu : Op := { code := 0x3F, d := .s, a := .s, b := .s, lit := .opt }
def ssel : Op := { code := 0x40, d := .s, a := .s, b := .s, lit := .opt }
def sadd64 : Op := { code := 0x41, d := .sp, a := .sp, b := .sp, lit := .opt }
def ssub64 : Op := { code := 0x42, d := .sp, a := .sp, b := .sp, lit := .opt }
def spopc : Op := { code := 0x43, d := .s, b := .s, lit := .opt }
def sclz : Op := { code := 0x44, d := .s, b := .s, lit := .opt }
def sdivu : Op := { code := 0x45, d := .s, a := .s, b := .s, lit := .opt }
def sremu : Op := { code := 0x46, d := .s, a := .s, b := .s, lit := .opt }
def sbfe : Op := { code := 0x47, d := .s, a := .s, b := .s, lit := .opt, ctl := .bfe }
def vmov : Op := { code := 0x50, d := .v, b := .vs, lit := .opt }
def vbcast : Op := { code := 0x51, d := .v, a := .v, b := .s, lit := .opt }
def vlane : Op := { code := 0x52, d := .v }
def vadd : Op :=
  { code := 0x53, d := .vT, a := .vT, b := .vsT, lit := .opt, types := .arith, reads := [(.a, .typ), (.b, .typ)] }
def vsub : Op :=
  { code := 0x54, d := .vT, a := .vT, b := .vsT, lit := .opt, types := .arith, reads := [(.a, .typ), (.b, .typ)] }
def vmul : Op :=
  { code := 0x55, d := .vT, a := .vT, b := .vsT, lit := .opt, types := .arith, reads := [(.a, .typ), (.b, .typ)] }
def vfma : Op :=
  { code := 0x56, d := .vT, a := .vT, b := .vsT, lit := .opt, types := .fma, reads := [(.d, .typ), (.a, .typ), (.b,
    .typ)] }
def vmin : Op :=
  { code := 0x57, d := .vT, a := .vT, b := .vsT, lit := .opt, types := .arith, reads := [(.a, .typ), (.b, .typ)] }
def vmax : Op :=
  { code := 0x58, d := .vT, a := .vT, b := .vsT, lit := .opt, types := .arith, reads := [(.a, .typ), (.b, .typ)] }
def vabs : Op := { code := 0x59, d := .vT, b := .vsT, lit := .opt, types := .arith, reads := [(.b, .typ)] }
def vneg : Op := { code := 0x5A, d := .vT, b := .vsT, lit := .opt, types := .arith, reads := [(.b, .typ)] }
def vdiv : Op :=
  { code := 0x5B, d := .vT, a := .vT, b := .vsT, lit := .opt, types := .fma, reads := [(.a, .typ), (.b, .typ)] }
def vrem : Op :=
  { code := 0x5C, d := .vT, a := .vT, b := .vsT, lit := .opt, types := .these [0, 1, 13], reads := [(.a, .typ), (.b,
    .typ)] }
def vmulh : Op :=
  { code := 0x5D, d := .vT, a := .vT, b := .vsT, lit := .opt, types := .these [0, 1], reads := [(.a, .typ), (.b,
    .typ)] }
def vand : Op := { code := 0x5E, d := .v, a := .v, b := .vs, lit := .opt }
def vor : Op := { code := 0x5F, d := .v, a := .v, b := .vs, lit := .opt }
def vxor : Op := { code := 0x60, d := .v, a := .v, b := .vs, lit := .opt }
def vnot : Op := { code := 0x61, d := .v, b := .vs, lit := .opt }
def vshl : Op := { code := 0x62, d := .v, a := .v, b := .vs, lit := .opt }
def vshr : Op := { code := 0x63, d := .v, a := .v, b := .vs, lit := .opt }
def vsra : Op := { code := 0x64, d := .v, a := .v, b := .vs, lit := .opt }
def vceq : Op :=
  { code := 0x65, d := .p, a := .vT, b := .vsT, lit := .opt, types := .cmp, reads := [(.a, .typ), (.b, .typ)] }
def vcne : Op :=
  { code := 0x66, d := .p, a := .vT, b := .vsT, lit := .opt, types := .cmp, reads := [(.a, .typ), (.b, .typ)] }
def vclt : Op :=
  { code := 0x67, d := .p, a := .vT, b := .vsT, lit := .opt, types := .cmp, reads := [(.a, .typ), (.b, .typ)] }
def vcle : Op :=
  { code := 0x68, d := .p, a := .vT, b := .vsT, lit := .opt, types := .cmp, reads := [(.a, .typ), (.b, .typ)] }
def vcun : Op :=
  { code := 0x69, d := .p, a := .vT, b := .vsT, lit := .opt, types := .these [2, 12], reads := [(.a, .typ), (.b,
    .typ)] }
def vsel : Op := { code := 0x6A, d := .v, a := .v, b := .vs, lit := .opt }
def vpopc : Op := { code := 0x6B, d := .v, b := .vs, lit := .opt }
def vclz : Op := { code := 0x6C, d := .v, b := .vs, lit := .opt }
def vbfe : Op := { code := 0x6D, d := .v, a := .v, b := .vs, lit := .opt, ctl := .bfe }
def vbfi : Op := { code := 0x6E, d := .v, a := .v, b := .vs, lit := .opt, ctl := .bfe }
def vpand : Op := { code := 0x6F, d := .p, a := .p, b := .p }
def vpor : Op := { code := 0x70, d := .p, a := .p, b := .p }
def vpnot : Op := { code := 0x71, d := .p, b := .p }
def vrcp : Op := { code := 0x72, d := .v, b := .v, types := .these [2, 3], reads := [(.b, .typ)] }
def vrsq : Op := { code := 0x73, d := .v, b := .v, types := .these [2, 3], reads := [(.b, .typ)] }
def vsqrt : Op := { code := 0x74, d := .v, b := .v, types := .these [2, 3], reads := [(.b, .typ)] }
def vex2 : Op := { code := 0x75, d := .v, b := .v, types := .these [2, 3], reads := [(.b, .typ)] }
def vlg2 : Op := { code := 0x76, d := .v, b := .v, types := .these [2, 3], reads := [(.b, .typ)] }
def vsin : Op := { code := 0x77, d := .v, b := .v, types := .these [2, 3], reads := [(.b, .typ)] }
def vcos : Op := { code := 0x78, d := .v, b := .v, types := .these [2, 3], reads := [(.b, .typ)] }
def vflr : Op := { code := 0x79, d := .vT, b := .vT, types := .these [2, 3, 4, 12], reads := [(.b, .typ)] }
def vceil : Op := { code := 0x7A, d := .vT, b := .vT, types := .these [2, 3, 4, 12], reads := [(.b, .typ)] }
def vrnd : Op := { code := 0x7B, d := .vT, b := .vT, types := .these [2, 3, 4, 12], reads := [(.b, .typ)] }
def vclass : Op := { code := 0x7C, d := .v, b := .vT, types := .these [2, 3, 4, 12], reads := [(.b, .typ)] }
def vmovi : Op := { code := 0x7D, d := .s, b := .vs, lit := .opt }
def vpset : Op := { code := 0x7E, d := .p, a := .sBeats }
def cvt : Op := { code := 0x80, d := .vT, a := .vSrc, b := .cvt, reads := [(.a, .cvt)] }
def vpk2 : Op := { code := 0x81, d := .v, a := .run 2, types := .these [3, 4, 5], reads := [(.a, .pack)] }
def vpk4 : Op := { code := 0x82, d := .v, a := .run 4, types := .these [8, 9, 6, 7], reads := [(.a, .pack)] }
def vpk8 : Op := { code := 0x83, d := .v, a := .run 8, types := .these [10, 11], reads := [(.a, .pack)] }
def vunpk : Op :=
  { code := 0x84, d := .v, a := .v, b := .s, lit := .opt, types := .these [3, 4, 5, 6, 7, 8, 9, 10, 11, 14],
    reads := [(.a, .typ)] }
def dot4 : Op :=
  { code := 0x85, d := .v, a := .v, b := .vs, lit := .opt, types := .these [8, 9], reads := [(.d, .code 2), (.a,
    .typ), (.b, .typ)] }
def dot8 : Op :=
  { code := 0x86, d := .v, a := .v, b := .vs, lit := .opt, types := .these [10], reads := [(.d, .code 2), (.a, .typ),
    (.b, .typ)] }
def idot4 : Op :=
  { code := 0x87, d := .v, a := .v, b := .vs, lit := .opt, types := .these [6, 7], reads := [(.d, .code 0), (.a,
    .typ), (.b, .typ)] }
def qblk : Op :=
  { code := 0x88, d := .runE 16, a := .run 16, b := .s, lit := .opt, types := .these [8, 9, 10], ctl := .qblk,
    reads := [(.a, .code 2)] }
def qblkn : Op :=
  { code := 0x89, d := .runE 16, a := .run 16, b := .s, lit := .opt, types := .these [8, 9, 10], ctl := .qblkn,
    reads := [(.a, .code 2)] }
def vscl : Op :=
  { code := 0x8A, d := .v, a := .v, b := .vs, lit := .opt, types := .these [2, 3, 4], reads := [(.a, .typ), (.b,
    .code 14)] }
def shfl : Op := { code := 0x90, d := .v, a := .v, b := .vs, lit := .opt, conv := .converged }
def shflx : Op := { code := 0x91, d := .v, a := .v, b := .vs, lit := .opt, conv := .converged }
def voteany : Op := { code := 0x92, d := .p, a := .p, conv := .converged }
def voteall : Op := { code := 0x93, d := .p, a := .p, conv := .converged }
def ballot : Op := { code := 0x94, d := .sBeats, a := .p, conv := .converged }
def gred : Op :=
  { code := 0x95, d := .v, a := .imm 5, b := .v, types := .gred, conv := .converged, reads := [(.b, .gred)] }
def gscan : Op :=
  { code := 0x96, d := .v, a := .imm 5, b := .v, types := .gred, conv := .converged, reads := [(.b, .gred)] }
def mma : Op :=
  { code := 0x98, d := .t, a := .frag, b := .frag, types := .mma, conv := .fullWidth, reads := [(.a, .frag), (.b,
    .frag), (.d, .acc)], useX := true }
def mmaz : Op :=
  { code := 0x99, d := .t, a := .frag, b := .frag, types := .mma, conv := .fullWidth, reads := [(.a, .frag), (.b,
    .frag)], useX := true }
def tzero : Op := { code := 0x9A, d := .t, conv := .fullWidth }
def tld : Op := { code := 0x9B, d := .t, a := .base, b := .vs, lit := .opt, conv := .fullWidth }
def tst : Op := { code := 0x9C, d := .t, a := .base, b := .vs, lit := .opt, conv := .fullWidth }
def tfrag : Op := { code := 0x9D, d := .v, a := .t, b := .s, lit := .opt, conv := .fullWidth, ctl := .frag }
def tfill : Op :=
  { code := 0x9E, d := .t, a := .v, b := .s, lit := .opt, conv := .fullWidth, ctl := .frag, reads := [(.a, .fill)] }
def tmaxr : Op := { code := 0x9F, d := .t, a := .t, conv := .fullWidth, reads := [(.d, .code 2), (.a, .code 2)] }
def texps : Op :=
  { code := 0xA0, d := .runE 32, a := .t, b := .t, types := .these [3, 4, 8, 9, 10], conv := .fullWidth,
    reads := [(.a, .code 2)] }
def tnorm : Op := { code := 0xA1, d := .t, conv := .fullWidth, reads := [(.d, .code 2)] }
def tfft : Op := { code := 0xA2, d := .t, b := .s, lit := .opt, conv := .fullWidth, reads := [(.d, .complex)] }
def tfstg : Op :=
  { code := 0xA3, d := .t, a := .s, b := .s, lit := .opt, conv := .fullWidth, reads := [(.d, .complex)] }
def tbrev : Op := { code := 0xA4, d := .t, b := .s, lit := .opt, conv := .fullWidth, reads := [(.d, .complex)] }
def twid : Op :=
  { code := 0xA5, d := .vp, a := .v, b := .s, lit := .opt, conv := .fullWidth, ctl := .twid, reads := [(.a,
    .code 1)] }
def tscl : Op := { code := 0xA6, d := .t, b := .s, lit := .opt, conv := .fullWidth, reads := [(.d, .scalable)] }
def tcvt : Op := { code := 0xA7, d := .t, a := .t, conv := .fullWidth, reads := [(.a, .tileCvt)] }
def ldb : Op := { code := 0xB0, d := .v, a := .base, b := .vs, lit := .opt, types := .not64 }
def ldh : Op := { code := 0xB1, d := .v, a := .base, b := .vs, lit := .opt, types := .not64 }
def ldw : Op := { code := 0xB2, d := .v, a := .base, b := .vs, lit := .opt, types := .not64 }
def ldd : Op := { code := 0xB3, d := .vp, a := .base, b := .vs, lit := .opt, types := .any }
def ldq : Op := { code := 0xB4, d := .vq, a := .base, b := .vs, lit := .opt, types := .any }
def stb : Op := { code := 0xB5, d := .v, a := .base, b := .vs, lit := .opt }
def sth : Op := { code := 0xB6, d := .v, a := .base, b := .vs, lit := .opt }
def stw : Op := { code := 0xB7, d := .v, a := .base, b := .vs, lit := .opt }
def std : Op := { code := 0xB8, d := .vp, a := .base, b := .vs, lit := .opt }
def stq : Op := { code := 0xB9, d := .vq, a := .base, b := .vs, lit := .opt }
def ldsw : Op := { code := 0xBA, d := .s, a := .sp, b := .s, lit := .opt }
def ldsd : Op := { code := 0xBB, d := .sp, a := .sp, b := .s, lit := .opt }
def stsw : Op := { code := 0xBC, d := .s, a := .sp, b := .s, lit := .opt }
def stsd : Op := { code := 0xBD, d := .sp, a := .sp, b := .s, lit := .opt }
def lduw : Op := { code := 0xBE, d := .v, a := .base, b := .vs, lit := .opt, types := .not64 }
def ldud : Op := { code := 0xBF, d := .vp, a := .base, b := .vs, lit := .opt, types := .any }
def lduq : Op := { code := 0xC0, d := .vq, a := .base, b := .vs, lit := .opt, types := .any }
def lldw : Op := { code := 0xC1, d := .v, a := .base, b := .vs, lit := .opt, types := .not64 }
def lldq : Op := { code := 0xC2, d := .vq, a := .base, b := .vs, lit := .opt, types := .any }
def lstw : Op := { code := 0xC3, d := .v, a := .base, b := .vs, lit := .opt }
def lstq : Op := { code := 0xC4, d := .vq, a := .base, b := .vs, lit := .opt }
def qenq : Op := { code := 0xC5, d := .v, a := .imm 7 }
def qdeq : Op := { code := 0xC6, d := .v, a := .imm 7 }
def aadd : Op :=
  { code := 0xC8, d := .vT, a := .base, b := .vs, lit := .opt, types := .these [0, 1, 13], reads := [(.d, .typ)] }
def amin : Op :=
  { code := 0xC9, d := .vT, a := .base, b := .vs, lit := .opt, types := .these [0, 1, 13, 2], reads := [(.d, .typ)] }
def amax : Op :=
  { code := 0xCA, d := .vT, a := .base, b := .vs, lit := .opt, types := .these [0, 1, 13, 2], reads := [(.d, .typ)] }
def aand : Op := { code := 0xCB, d := .vT, a := .base, b := .vs, lit := .opt }
def aor : Op := { code := 0xCC, d := .vT, a := .base, b := .vs, lit := .opt }
def axor : Op := { code := 0xCD, d := .vT, a := .base, b := .vs, lit := .opt }
def axch : Op := { code := 0xCE, d := .vT, a := .base, b := .vs, lit := .opt }
def acas : Op := { code := 0xCF, d := .vq64, a := .base, b := .vs, lit := .opt }
def afadd : Op :=
  { code := 0xD0, d := .v, a := .base, b := .vs, lit := .opt, types := .these [2, 3, 4], reads := [(.d, .typ)] }
def radd : Op :=
  { code := 0xD1, d := .vT, a := .base, b := .vs, lit := .opt, types := .these [0, 1, 13], reads := [(.d, .typ)] }
def rfadd : Op :=
  { code := 0xD2, d := .v, a := .base, b := .vs, lit := .opt, types := .these [2, 3, 4], reads := [(.d, .typ)] }
def rmin : Op :=
  { code := 0xD3, d := .vT, a := .base, b := .vs, lit := .opt, types := .these [0, 1, 13, 2], reads := [(.d, .typ)] }
def rmax : Op :=
  { code := 0xD4, d := .vT, a := .base, b := .vs, lit := .opt, types := .these [0, 1, 13, 2], reads := [(.d, .typ)] }
def cpy : Op := { code := 0xD5, d := .sp, a := .sp, b := .s, lit := .opt, conv := .fullWidth }
def cpya : Op := { code := 0xD6, d := .sp, a := .sp, b := .s, lit := .opt, conv := .fullWidth }
def cpyr : Op := { code := 0xD7, d := .sp, a := .sp, b := .s, lit := .opt, conv := .fullWidth }
def cpyar : Op := { code := 0xD8, d := .sp, a := .sp, b := .s, lit := .opt, conv := .fullWidth }
def cpy2d : Op := { code := 0xD9, d := .sp, a := .sp, b := .sTo 124, conv := .fullWidth }
def vapp : Op := { code := 0xE0, d := .run 3, a := .quad, b := .run 32 }
def vstamp : Op := { code := 0xE1, d := .sp, a := .quad }
def vdrop : Op := { code := 0xE2, a := .quad }
def vget : Op := { code := 0xE3, d := .run 32, a := .quad, b := .v }
def vconn : Op := { code := 0xE4, d := .run 10, a := .quad, b := .run 2 }
def vmrg : Op := { code := 0xE5, d := .run 5, a := .quad, b := .v }
def vrwt : Op := { code := 0xE6, d := .sp, a := .quad, b := .sTo 125 }
def vret : Op := { code := 0xE7, d := .run 2, a := .quad, b := .v }
def sight : Op := { code := 0xE8, d := .run 6, a := .quad, b := .run 9 }
def sighta : Op := { code := 0xE9, d := .run 6, a := .quad, b := .run 9 }

end Op

/-- The word that an instruction issues, with its fields; events are no words. -/
def Instr.word? : Instr → Option (Op × Fields)
  | .nop f => some (Op.nop, f)
  | .setm f => some (Op.setm, f)
  | .getm f => some (Op.getm, f)
  | .sysr f => some (Op.sysr, f)
  | .sysw f => some (Op.sysw, f)
  | .trap f => some (Op.trap, f)
  | .rtt f => some (Op.rtt, f)
  | .exit f => some (Op.exit, f)
  | .yield f => some (Op.yield, f)
  | .brkpt f => some (Op.brkpt, f)
  | .wait f => some (Op.wait, f)
  | .waitx f => some (Op.waitx, f)
  | .fence f => some (Op.fence, f)
  | .homeq f => some (Op.homeq, f)
  | .launch f => some (Op.launch, f)
  | .recv f => some (Op.recv, f)
  | .send f => some (Op.send, f)
  | .bankcfg f => some (Op.bankcfg, f)
  | .bara f => some (Op.bara, f)
  | .barw f => some (Op.barw, f)
  | .baraw f => some (Op.baraw, f)
  | .chkw f => some (Op.chkw, f)
  | .wclr f => some (Op.wclr, f)
  | .clnr f => some (Op.clnr, f)
  | .invr f => some (Op.invr, f)
  | .flsr f => some (Op.flsr, f)
  | .pref f => some (Op.pref, f)
  | .resid f => some (Op.resid, f)
  | .bra f => some (Op.bra, f)
  | .brz f => some (Op.brz, f)
  | .brnz f => some (Op.brnz, f)
  | .call f => some (Op.call, f)
  | .ret f => some (Op.ret, f)
  | .jmpr f => some (Op.jmpr, f)
  | .condIf f => some (Op.condIf, f)
  | .condElse f => some (Op.condElse, f)
  | .condEndif f => some (Op.condEndif, f)
  | .loop f => some (Op.loop, f)
  | .brk f => some (Op.brk, f)
  | .cont f => some (Op.cont, f)
  | .endl f => some (Op.endl, f)
  | .split f => some (Op.split, f)
  | .join f => some (Op.join, f)
  | .smov f => some (Op.smov, f)
  | .sadd f => some (Op.sadd, f)
  | .ssub f => some (Op.ssub, f)
  | .smul f => some (Op.smul, f)
  | .smulh f => some (Op.smulh, f)
  | .sand f => some (Op.sand, f)
  | .sor f => some (Op.sor, f)
  | .sxor f => some (Op.sxor, f)
  | .sshl f => some (Op.sshl, f)
  | .sshr f => some (Op.sshr, f)
  | .ssra f => some (Op.ssra, f)
  | .smin f => some (Op.smin, f)
  | .smax f => some (Op.smax, f)
  | .sceq f => some (Op.sceq, f)
  | .sclt f => some (Op.sclt, f)
  | .scltu f => some (Op.scltu, f)
  | .ssel f => some (Op.ssel, f)
  | .sadd64 f => some (Op.sadd64, f)
  | .ssub64 f => some (Op.ssub64, f)
  | .spopc f => some (Op.spopc, f)
  | .sclz f => some (Op.sclz, f)
  | .sdivu f => some (Op.sdivu, f)
  | .sremu f => some (Op.sremu, f)
  | .sbfe f => some (Op.sbfe, f)
  | .vmov f => some (Op.vmov, f)
  | .vbcast f => some (Op.vbcast, f)
  | .vlane f => some (Op.vlane, f)
  | .vadd f => some (Op.vadd, f)
  | .vsub f => some (Op.vsub, f)
  | .vmul f => some (Op.vmul, f)
  | .vfma f => some (Op.vfma, f)
  | .vmin f => some (Op.vmin, f)
  | .vmax f => some (Op.vmax, f)
  | .vabs f => some (Op.vabs, f)
  | .vneg f => some (Op.vneg, f)
  | .vdiv f => some (Op.vdiv, f)
  | .vrem f => some (Op.vrem, f)
  | .vmulh f => some (Op.vmulh, f)
  | .vand f => some (Op.vand, f)
  | .vor f => some (Op.vor, f)
  | .vxor f => some (Op.vxor, f)
  | .vnot f => some (Op.vnot, f)
  | .vshl f => some (Op.vshl, f)
  | .vshr f => some (Op.vshr, f)
  | .vsra f => some (Op.vsra, f)
  | .vceq f => some (Op.vceq, f)
  | .vcne f => some (Op.vcne, f)
  | .vclt f => some (Op.vclt, f)
  | .vcle f => some (Op.vcle, f)
  | .vcun f => some (Op.vcun, f)
  | .vsel f => some (Op.vsel, f)
  | .vpopc f => some (Op.vpopc, f)
  | .vclz f => some (Op.vclz, f)
  | .vbfe f => some (Op.vbfe, f)
  | .vbfi f => some (Op.vbfi, f)
  | .vpand f => some (Op.vpand, f)
  | .vpor f => some (Op.vpor, f)
  | .vpnot f => some (Op.vpnot, f)
  | .vrcp f => some (Op.vrcp, f)
  | .vrsq f => some (Op.vrsq, f)
  | .vsqrt f => some (Op.vsqrt, f)
  | .vex2 f => some (Op.vex2, f)
  | .vlg2 f => some (Op.vlg2, f)
  | .vsin f => some (Op.vsin, f)
  | .vcos f => some (Op.vcos, f)
  | .vflr f => some (Op.vflr, f)
  | .vceil f => some (Op.vceil, f)
  | .vrnd f => some (Op.vrnd, f)
  | .vclass f => some (Op.vclass, f)
  | .vmovi f => some (Op.vmovi, f)
  | .vpset f => some (Op.vpset, f)
  | .cvt f => some (Op.cvt, f)
  | .vpk2 f => some (Op.vpk2, f)
  | .vpk4 f => some (Op.vpk4, f)
  | .vpk8 f => some (Op.vpk8, f)
  | .vunpk f => some (Op.vunpk, f)
  | .dot4 f => some (Op.dot4, f)
  | .dot8 f => some (Op.dot8, f)
  | .idot4 f => some (Op.idot4, f)
  | .qblk f => some (Op.qblk, f)
  | .qblkn f => some (Op.qblkn, f)
  | .vscl f => some (Op.vscl, f)
  | .shfl f => some (Op.shfl, f)
  | .shflx f => some (Op.shflx, f)
  | .voteany f => some (Op.voteany, f)
  | .voteall f => some (Op.voteall, f)
  | .ballot f => some (Op.ballot, f)
  | .gred f => some (Op.gred, f)
  | .gscan f => some (Op.gscan, f)
  | .mma f => some (Op.mma, f)
  | .mmaz f => some (Op.mmaz, f)
  | .tzero f => some (Op.tzero, f)
  | .tld f => some (Op.tld, f)
  | .tst f => some (Op.tst, f)
  | .tfrag f => some (Op.tfrag, f)
  | .tfill f => some (Op.tfill, f)
  | .tmaxr f => some (Op.tmaxr, f)
  | .texps f => some (Op.texps, f)
  | .tnorm f => some (Op.tnorm, f)
  | .tfft f => some (Op.tfft, f)
  | .tfstg f => some (Op.tfstg, f)
  | .tbrev f => some (Op.tbrev, f)
  | .twid f => some (Op.twid, f)
  | .tscl f => some (Op.tscl, f)
  | .tcvt f => some (Op.tcvt, f)
  | .ldb f => some (Op.ldb, f)
  | .ldh f => some (Op.ldh, f)
  | .ldw f => some (Op.ldw, f)
  | .ldd f => some (Op.ldd, f)
  | .ldq f => some (Op.ldq, f)
  | .stb f => some (Op.stb, f)
  | .sth f => some (Op.sth, f)
  | .stw f => some (Op.stw, f)
  | .std f => some (Op.std, f)
  | .stq f => some (Op.stq, f)
  | .ldsw f => some (Op.ldsw, f)
  | .ldsd f => some (Op.ldsd, f)
  | .stsw f => some (Op.stsw, f)
  | .stsd f => some (Op.stsd, f)
  | .lduw f => some (Op.lduw, f)
  | .ldud f => some (Op.ldud, f)
  | .lduq f => some (Op.lduq, f)
  | .lldw f => some (Op.lldw, f)
  | .lldq f => some (Op.lldq, f)
  | .lstw f => some (Op.lstw, f)
  | .lstq f => some (Op.lstq, f)
  | .qenq f => some (Op.qenq, f)
  | .qdeq f => some (Op.qdeq, f)
  | .aadd f => some (Op.aadd, f)
  | .amin f => some (Op.amin, f)
  | .amax f => some (Op.amax, f)
  | .aand f => some (Op.aand, f)
  | .aor f => some (Op.aor, f)
  | .axor f => some (Op.axor, f)
  | .axch f => some (Op.axch, f)
  | .acas f => some (Op.acas, f)
  | .afadd f => some (Op.afadd, f)
  | .radd f => some (Op.radd, f)
  | .rfadd f => some (Op.rfadd, f)
  | .rmin f => some (Op.rmin, f)
  | .rmax f => some (Op.rmax, f)
  | .cpy f => some (Op.cpy, f)
  | .cpya f => some (Op.cpya, f)
  | .cpyr f => some (Op.cpyr, f)
  | .cpyar f => some (Op.cpyar, f)
  | .cpy2d f => some (Op.cpy2d, f)
  | .vapp f => some (Op.vapp, f)
  | .vstamp f => some (Op.vstamp, f)
  | .vdrop f => some (Op.vdrop, f)
  | .vget f => some (Op.vget, f)
  | .vconn f => some (Op.vconn, f)
  | .vmrg f => some (Op.vmrg, f)
  | .vrwt f => some (Op.vrwt, f)
  | .vret f => some (Op.vret, f)
  | .sight f => some (Op.sight, f)
  | .sighta f => some (Op.sighta, f)
  | .unassignedOpcode _ => none
  | .loadReply _ => none
  | .storePerformed _ => none
  | .atomicReply _ => none
  | .copyComplete _ => none
  | .tileUnitDone _ => none
  | .fifoReady _ => none
  | .launchAnswer _ => none
  | .wingsReply _ => none
  | .engineAppend _ => none
  | .appendSealed _ => none
  | .engineStamp _ => none
  | .stampReturn _ => none
  | .engineDrop _ => none
  | .engineGet _ => none
  | .engineConnect _ => none
  | .engineMerge _ => none
  | .engineReweight _ => none
  | .engineRetire _ => none
  | .sightlineQuery _ => none
  | .uwtResolution _ _ => none
  | .renewalReply _ => none
  | .ticketGrant _ => none
  | .dependenceNotify _ => none
  | .teamEnd _ => none
  | .completionIncrement _ => none
  | .groupEnd _ => none
  | .barrierPhaseComplete _ _ => none
  | .killRecordDelivery _ => none
  | .lateFault _ => none
  | .watchdogExpiry _ _ => none
  | .spinDemotion _ _ => none
  | .demotionEnd _ _ => none
  | .recvTimeout _ => none
  | .bankDrainComplete _ _ => none
  | .rebaseComplete _ _ => none
  | .containmentAction _ => none
  | .contextRestore _ _ => none
  | .directorReady _ => none
  | .ihlReadReply _ _ => none
  | .ihlWriteAck _ => none
  | .ctLimitSweep _ => none
  | .railsInRange => none
  | .powerRemoval => none
  | .sensorSample _ => none
  | .thermalTripEvent => none
  | .thermTripNAssert => none
  | .powerCapEvaluation _ => none
  | .plimWrite _ _ => none
  | .railOutOfRange _ => none
  | .flitSend _ _ _ _ => none
  | .flitReceive _ _ => none
  | .retryRequest _ _ => none
  | .linkRetrain _ => none
  | .retrainComplete _ _ _ => none
  | .readRequest _ _ => none
  | .ownershipRequest _ _ => none
  | .writeback _ _ _ => none
  | .ownershipNote _ _ _ _ _ => none
  | .ownershipNoteAck _ _ => none
  | .invalidationAcknowledgement _ _ _ => none
  | .ownerData _ _ _ _ _ => none
  | .noCopyReply _ _ _ => none
  | .sweepAcknowledgement _ => none
  | .waitingNoticeTimer _ => none
  | .dataGrant _ _ _ => none
  | .grantWithoutData _ => none
  | .invalidation _ _ => none
  | .forwardRead _ _ => none
  | .forwardInvalidate _ _ => none
  | .writebackAcknowledgement _ => none
  | .waitingNotice _ => none
  | .invalidateAndWritebackSweep _ _ _ => none
  | .switchLossDeclaration _ _ _ => none
  | .switchLossTimeout _ => none
  | .sweepComplete _ => none
  | .ownershipNotesResend _ => none
  | .hostMemoryRead _ => none
  | .hostMemoryWrite _ _ _ => none
  | .managementAccess _ _ _ => none
  | .evtAckWrite _ => none
  | .evtReplayWrite _ => none
  | .eventRingConfig _ _ => none
  | .hmwSelWrite _ => none
  | .bootCtlGo => none
  | .bootCtlClr => none
  | .bootCtlRst => none
  | .mscmodeWrite _ => none
  | .cueArrival _ _ => none
  | .cueLaunch _ => none
  | .cueMap _ => none
  | .cueUnmap _ => none
  | .cueCtxCreate _ => none
  | .cueCtxDestroy _ => none
  | .cueKill _ => none
  | .cueCheckpoint _ => none
  | .cueRestore _ => none
  | .cueAttest => none
  | .partitionHeader _ => none
  | .partitionMembers _ => none
  | .partitionHomeTable _ => none
  | .partitionPortMap _ => none
  | .partitionCommit _ => none
  | .cueDirectorDefined _ => none
  | .eventWrite => none
  | .ihlInterrupt => none
  | .goTimeout => none
  | .bootImageRead => none
  | .dieBringUpDone _ => none
  | .readyTimeout => none
  | .checkpointComplete => none
  | .checkpointInterrupt _ => none
  | .restoreStreamComplete => none
  | .restoreInterrupt _ _ => none
  | .incrementalCheckpoint _ => none
  | .invalidatePage _ _ => none
  | .invalidateContext _ => none
  | .invalidateAll => none
  | .invalidationComplete => none
  | .mboundWrite _ => none
  | .ctxtabWrite _ _ => none
  | .llctlWrite _ _ => none
  | .memCorrectedReport _ _ _ => none
  | .patrolScrub _ _ _ _ => none
  | .partitionReset _ => none
  | .leaseRenewal _ _ _ => none
  | .sliceStore _ _ _ _ _ => none
  | .interdieCoherenceRequest _ _ _ _ => none
  | .priorityAging _ => none
  | .placement _ => none
  | .switchOut _ => none
  | .shadowCopy _ => none
  | .shadowStreamOut _ _ => none
  | .switchIn _ => none
  | .shadowStreamIn _ _ => none
  | .groupExchange _ _ => none
  | .pendingPromotionTimeout _ => none
  | .runArbitration _ => none
  | .loadLimitWindow _ => none
  | .tokenRelease _ => none
  | .mailboxService _ => none
  | .linkReturn _ => none
  | .arenaClose _ _ => none

/-- The constructor of an assigned opcode (R311). -/
def Instr.ofCode : Nat → Option (Fields → Instr)
  | 0x00 => some .nop
  | 0x01 => some .setm
  | 0x02 => some .getm
  | 0x03 => some .sysr
  | 0x04 => some .sysw
  | 0x05 => some .trap
  | 0x06 => some .rtt
  | 0x07 => some .exit
  | 0x08 => some .yield
  | 0x09 => some .brkpt
  | 0x0A => some .wait
  | 0x0B => some .waitx
  | 0x0C => some .fence
  | 0x0D => some .homeq
  | 0x0E => some .launch
  | 0x0F => some .recv
  | 0x10 => some .send
  | 0x11 => some .bankcfg
  | 0x12 => some .bara
  | 0x13 => some .barw
  | 0x14 => some .baraw
  | 0x15 => some .chkw
  | 0x16 => some .wclr
  | 0x17 => some .clnr
  | 0x18 => some .invr
  | 0x19 => some .flsr
  | 0x1A => some .pref
  | 0x1B => some .resid
  | 0x20 => some .bra
  | 0x21 => some .brz
  | 0x22 => some .brnz
  | 0x23 => some .call
  | 0x24 => some .ret
  | 0x25 => some .jmpr
  | 0x26 => some .condIf
  | 0x27 => some .condElse
  | 0x28 => some .condEndif
  | 0x29 => some .loop
  | 0x2A => some .brk
  | 0x2B => some .cont
  | 0x2C => some .endl
  | 0x2D => some .split
  | 0x2E => some .join
  | 0x30 => some .smov
  | 0x31 => some .sadd
  | 0x32 => some .ssub
  | 0x33 => some .smul
  | 0x34 => some .smulh
  | 0x35 => some .sand
  | 0x36 => some .sor
  | 0x37 => some .sxor
  | 0x38 => some .sshl
  | 0x39 => some .sshr
  | 0x3A => some .ssra
  | 0x3B => some .smin
  | 0x3C => some .smax
  | 0x3D => some .sceq
  | 0x3E => some .sclt
  | 0x3F => some .scltu
  | 0x40 => some .ssel
  | 0x41 => some .sadd64
  | 0x42 => some .ssub64
  | 0x43 => some .spopc
  | 0x44 => some .sclz
  | 0x45 => some .sdivu
  | 0x46 => some .sremu
  | 0x47 => some .sbfe
  | 0x50 => some .vmov
  | 0x51 => some .vbcast
  | 0x52 => some .vlane
  | 0x53 => some .vadd
  | 0x54 => some .vsub
  | 0x55 => some .vmul
  | 0x56 => some .vfma
  | 0x57 => some .vmin
  | 0x58 => some .vmax
  | 0x59 => some .vabs
  | 0x5A => some .vneg
  | 0x5B => some .vdiv
  | 0x5C => some .vrem
  | 0x5D => some .vmulh
  | 0x5E => some .vand
  | 0x5F => some .vor
  | 0x60 => some .vxor
  | 0x61 => some .vnot
  | 0x62 => some .vshl
  | 0x63 => some .vshr
  | 0x64 => some .vsra
  | 0x65 => some .vceq
  | 0x66 => some .vcne
  | 0x67 => some .vclt
  | 0x68 => some .vcle
  | 0x69 => some .vcun
  | 0x6A => some .vsel
  | 0x6B => some .vpopc
  | 0x6C => some .vclz
  | 0x6D => some .vbfe
  | 0x6E => some .vbfi
  | 0x6F => some .vpand
  | 0x70 => some .vpor
  | 0x71 => some .vpnot
  | 0x72 => some .vrcp
  | 0x73 => some .vrsq
  | 0x74 => some .vsqrt
  | 0x75 => some .vex2
  | 0x76 => some .vlg2
  | 0x77 => some .vsin
  | 0x78 => some .vcos
  | 0x79 => some .vflr
  | 0x7A => some .vceil
  | 0x7B => some .vrnd
  | 0x7C => some .vclass
  | 0x7D => some .vmovi
  | 0x7E => some .vpset
  | 0x80 => some .cvt
  | 0x81 => some .vpk2
  | 0x82 => some .vpk4
  | 0x83 => some .vpk8
  | 0x84 => some .vunpk
  | 0x85 => some .dot4
  | 0x86 => some .dot8
  | 0x87 => some .idot4
  | 0x88 => some .qblk
  | 0x89 => some .qblkn
  | 0x8A => some .vscl
  | 0x90 => some .shfl
  | 0x91 => some .shflx
  | 0x92 => some .voteany
  | 0x93 => some .voteall
  | 0x94 => some .ballot
  | 0x95 => some .gred
  | 0x96 => some .gscan
  | 0x98 => some .mma
  | 0x99 => some .mmaz
  | 0x9A => some .tzero
  | 0x9B => some .tld
  | 0x9C => some .tst
  | 0x9D => some .tfrag
  | 0x9E => some .tfill
  | 0x9F => some .tmaxr
  | 0xA0 => some .texps
  | 0xA1 => some .tnorm
  | 0xA2 => some .tfft
  | 0xA3 => some .tfstg
  | 0xA4 => some .tbrev
  | 0xA5 => some .twid
  | 0xA6 => some .tscl
  | 0xA7 => some .tcvt
  | 0xB0 => some .ldb
  | 0xB1 => some .ldh
  | 0xB2 => some .ldw
  | 0xB3 => some .ldd
  | 0xB4 => some .ldq
  | 0xB5 => some .stb
  | 0xB6 => some .sth
  | 0xB7 => some .stw
  | 0xB8 => some .std
  | 0xB9 => some .stq
  | 0xBA => some .ldsw
  | 0xBB => some .ldsd
  | 0xBC => some .stsw
  | 0xBD => some .stsd
  | 0xBE => some .lduw
  | 0xBF => some .ldud
  | 0xC0 => some .lduq
  | 0xC1 => some .lldw
  | 0xC2 => some .lldq
  | 0xC3 => some .lstw
  | 0xC4 => some .lstq
  | 0xC5 => some .qenq
  | 0xC6 => some .qdeq
  | 0xC8 => some .aadd
  | 0xC9 => some .amin
  | 0xCA => some .amax
  | 0xCB => some .aand
  | 0xCC => some .aor
  | 0xCD => some .axor
  | 0xCE => some .axch
  | 0xCF => some .acas
  | 0xD0 => some .afadd
  | 0xD1 => some .radd
  | 0xD2 => some .rfadd
  | 0xD3 => some .rmin
  | 0xD4 => some .rmax
  | 0xD5 => some .cpy
  | 0xD6 => some .cpya
  | 0xD7 => some .cpyr
  | 0xD8 => some .cpyar
  | 0xD9 => some .cpy2d
  | 0xE0 => some .vapp
  | 0xE1 => some .vstamp
  | 0xE2 => some .vdrop
  | 0xE3 => some .vget
  | 0xE4 => some .vconn
  | 0xE5 => some .vmrg
  | 0xE6 => some .vrwt
  | 0xE7 => some .vret
  | 0xE8 => some .sight
  | 0xE9 => some .sighta
  | _ => none

end Sys2Proof
end

