-- ==== Sys2Proof/WellFormed.lean ====
section
/-! DEFINITION. Which instructions are well formed: the checks of R303 to R306 and of the reserved bits of literals that no
state takes part in. -/

namespace Sys2Proof

/-- A scalar field. -/
def isS (x : BitVec 7) : Bool := decide (96 ≤ x.toNat)

def isEven (x : BitVec 7) : Bool := x.toNat % 2 == 0

/-- CVT's source type (R306). -/
def Fields.cvtSource (f : Fields) : Nat := f.b.toNat / 4 % 16

/-- Whether a field value fits its kind (R305, R306), for the type in force, the beats of the group and the other
fields. -/
def Kind.ok (k : Kind) (ty beats : Nat) (f : Fields) (x : BitVec 7) : Bool :=
  let v := !isS x
  match k with
  | .unused => x == 0
  | .v => v
  | .vp => v && isEven x
  | .vq => v && x.toNat % 4 == 0
  | .vT => v && (!wide ty || isEven x)
  | .vSrc => v && (!wide f.cvtSource || isEven x)
  | .vq64 => v && isEven x && (!wide ty || x.toNat % 4 == 0)
  | .run _ => v
  | .runE _ => v
  | .frag => v && (ty != 12 || isEven x)
  | .s => isS x
  | .sp => isS x && isEven x
  | .sTo max => isS x && decide (x.toNat ≤ max)
  | .sBeats => isS x && decide (x.toNat + beats ≤ 128)
  | .quad => isS x && isEven x && decide (x.toNat ≤ 124)
  | .vs => true
  | .vsT => !wide ty || isEven x
  | .base => isEven x
  | .p => decide (x.toNat < 8)
  | .t => decide (x.toNat < 8)
  | .imm max => decide (x.toNat ≤ max)
  | .cvt => decide (x.toNat < 64) && f.cvtSource != 15 && ty != 14 && ty != 15
  | .homeD => isS x == isS f.b
  | .homeB => isEven x

/-- Bits `hi` to `lo` of a word as a number. -/
def bits (w : Word) (hi lo : Nat) : Nat := w.toNat / 2 ^ lo % 2 ^ (hi + 1 - lo)

/-- A mode that SETM refuses (R224, R321). -/
def modeBad (w : Word) : Bool := bits w 31 22 != 0 || decide (5 ≤ bits w 19 17)

/-- A WAIT literal with a reserved bit set (R317). -/
def waitBad (w : Word) : Bool := bits w 31 30 != 0 || bits w 23 22 != 0 || bits w 15 14 != 0 || bits w 7 6 != 0

/-- A literal field descriptor that R345 refuses. -/
def bfeBad (w : Word) : Bool := bits w 31 12 != 0 || decide (32 < bits w 10 5)

/-- A control word that R363, R381 or R392 refuses, where no register range takes part. -/
def Ctl.bad (c : Ctl) (lit : Bool) (w : Word) : Bool :=
  match c with
  | .none => false
  | .mode => modeBad w
  | .bfe => lit && bfeBad w
  | .wait => lit && waitBad w
  | .qblk => bits w 31 14 != 0 || bits w 13 9 != 0 || decide (96 ≤ bits w 6 0)
  | .qblkn => bits w 31 14 != 0 || decide (96 ≤ bits w 6 0)
  | .frag => bits w 31 11 != 0 || bits w 10 5 == 0 || decide (32 < bits w 10 5 + bits w 4 0)
  | .twid => bits w 31 7 != 0 || bits w 4 0 == 0 || decide (16 < bits w 4 0)

/-- The literal is there where it must be and only where it may be (R304, R318). -/
def LitRule.ok (r : LitRule) (l : Bool) : Bool :=
  match r with
  | .none => !l
  | .opt => true
  | .req => l

/-- A word whose fields fit under some state of the group. -/
def Fields.wellFormed (op : Op) (f : Fields) : Bool :=
  (f.l || f.lit == 0) && (!f.l || f.b == 0) && (op.useX || !f.x) && op.lit.ok f.l &&
  (!f.l || !op.ctl.bad true f.lit) &&
  [0, 12].any (fun ty => op.d.ok ty 1 f f.d && op.a.ok ty 1 f f.a && (f.l || op.b.ok ty 1 f f.b))

/-- Whether an instruction is well formed: a word as above; an unassigned word has an unassigned opcode; the links and
quarters an event names exist. -/
def Instr.wellFormed (i : Instr) : Bool :=
  match i.word? with
  | some (op, f) => f.wellFormed op
  | none =>
    match i with
    | .unassignedOpcode w => (Instr.ofCode (bits w 29 22)).isNone
    | .flitSend link _ _ msgs => decide (link < 31) && msgs.all (fun m => decide (m.length % 16 = 0))
    | .flitReceive link flit => decide (link < 31) && decide (flit.length = 256)
    | .retryRequest link _ => decide (link < 31)
    | .linkRetrain link => decide (link < 31)
    | .retrainComplete link _ _ => decide (link < 31)
    | .linkReturn link => decide (link < 31)
    | .loadLimitWindow q => decide (q < 2048)
    | .runArbitration q => decide (q < 2048)
    | .cueArrival _ bytes => decide (bytes.length ≤ 64)
    | _ => true

end Sys2Proof
end

