-- ==== Sys2Proof/Decode.lean ====
section
/-! DEFINITION. The decoder, total on any bytes, and the encoder, both over the opcode map (R303, R304, R308, R311). -/

namespace Sys2Proof

/-- Why bytes hold no instruction. -/
inductive DecodeError where
  /-- Fewer than four bytes. -/
  | noWord
  /-- L = 1 and fewer than four bytes after the word. -/
  | noLiteral
  deriving DecidableEq, Repr

/-- The opcode of a word (R303). -/
def opcode (w : Word) : Nat := (w.extractLsb' 22 8).toNat

/-- A literal word follows (R304); that of an unassigned opcode (R308) or of CVT (R306) is not read. -/
def takesLiteral (w : Word) : Bool := w.getLsbD 30 && opcode w != 0x80 && (Instr.ofCode (opcode w)).isSome

/-- The fields of a word (R303); the literal is 0 when L = 0. -/
def fieldsOf (w lit : Word) : Fields :=
  { e := w.getLsbD 31, l := w.getLsbD 30, d := w.extractLsb' 15 7, a := w.extractLsb' 8 7, b := w.extractLsb' 1 7,
    x := w.getLsbD 0, lit := if w.getLsbD 30 then lit else 0 }

/-- The instruction of a word and its literal. -/
def decodeWord (w lit : Word) : Instr :=
  match Instr.ofCode (opcode w) with
  | some c => c (fieldsOf w lit)
  | none => .unassignedOpcode w

/-- A little-endian word (R303). -/
def wordOfBytes (b0 b1 b2 b3 : Byte) : Word := b3 ++ b2 ++ b1 ++ b0

/-- The bytes of a word, lowest address first. -/
def bytesOfWord (w : Word) : List Byte :=
  [w.extractLsb' 0 8, w.extractLsb' 8 8, w.extractLsb' 16 8, w.extractLsb' 24 8]

/-- The instruction at the head of a list of bytes, and the bytes after it. -/
def decode : List Byte → Except DecodeError (Instr × List Byte)
  | b0 :: b1 :: b2 :: b3 :: rest =>
    let w := wordOfBytes b0 b1 b2 b3
    if takesLiteral w then
      match rest with
      | c0 :: c1 :: c2 :: c3 :: rest' => .ok (decodeWord w (wordOfBytes c0 c1 c2 c3), rest')
      | _ => .error .noLiteral
    else .ok (decodeWord w 0, rest)
  | _ => .error .noWord

/-- The word of an opcode and its fields (R303). -/
def wordOf (code : Nat) (f : Fields) : Word :=
  BitVec.ofBool f.e ++ BitVec.ofBool f.l ++ BitVec.ofNat 8 code ++ f.d ++ f.a ++ f.b ++ BitVec.ofBool f.x

/-- The words of an instruction: its word, and its literal where it has one. An event has no words. -/
def encodeWords (i : Instr) : List Word :=
  match i.word? with
  | some (op, f) => wordOf op.code f :: (if f.l then [f.lit] else [])
  | none =>
    match i with
    | .unassignedOpcode w => [w]
    | _ => []

/-- The bytes of an instruction, as memory holds them (R303). -/
def encode (i : Instr) : List Byte := (encodeWords i).flatMap bytesOfWord

/-- The instruction that the decoder reads from the bits `w`, numbered as spec/opcode_table.json numbers them: the first
word in bits 31 to 0, the literal in bits 63 to 32. -/
def decodeTableWord (nbits w : Nat) : Option Instr :=
  if nbits = 0 then none
  else
    let v := w % 2 ^ nbits
    match decode (bytesOfWord (BitVec.ofNat 32 v) ++ bytesOfWord (BitVec.ofNat 32 (v / 2 ^ 32))) with
    | .ok (i, _) => some i
    | .error _ => none

end Sys2Proof
end

