-- ==== Sys2Proof/Machine/Float.lean ====
section
/-! DEFINITION. Number formats and arithmetic (R287 to R302): exact values, and their roundings. An exact value is a
dyadic number; a quotient, a root or a power is kept to 256 significant bits with a sticky bit below them, which rounds
as the exact value does. -/

namespace Sys2Proof.Machine

open Sys2Proof

/-! ### Dyadic numbers -/

/-- The number m × 2^e. -/
structure Dy where
  m : Int
  e : Int
  deriving DecidableEq, Repr

/-- m × 2^k for a natural k. -/
def shl (m : Int) (k : Nat) : Int := m * (2 ^ k : Nat)

/-- The number as a multiple of 2^e', for e' at most e. -/
def Dy.at (x : Dy) (e' : Int) : Int := shl x.m (x.e - e').toNat

/-- Exact sum. -/
def Dy.add (x y : Dy) : Dy :=
  let e := min x.e y.e
  { m := x.at e + y.at e, e := e }

/-- Exact product. -/
def Dy.mul (x y : Dy) : Dy := { m := x.m * y.m, e := x.e + y.e }

def Dy.neg (x : Dy) : Dy := { m := -x.m, e := x.e }

def Dy.abs (x : Dy) : Dy := { m := x.m.natAbs, e := x.e }

def Dy.sub (x y : Dy) : Dy := x.add y.neg

def Dy.ofInt (n : Int) : Dy := { m := n, e := 0 }

def Dy.zero : Dy := Dy.ofInt 0

def Dy.isZero (x : Dy) : Bool := x.m == 0

def Dy.isNeg (x : Dy) : Bool := decide (x.m < 0)

/-- Exact comparison. -/
def Dy.lt (x y : Dy) : Bool := (x.sub y).isNeg

def Dy.le (x y : Dy) : Bool := !(y.lt x)

def Dy.eq (x y : Dy) : Bool := (x.sub y).isZero

/-- 2^k × x. -/
def Dy.scale (x : Dy) (k : Int) : Dy := { m := x.m, e := x.e + k }

/-- floor(log2 |x|) for a nonzero x. -/
def Dy.log2 (x : Dy) : Int := (Nat.log2 x.m.natAbs : Int) + x.e

/-- The greatest integer at most x. -/
def Dy.floor (x : Dy) : Int := if x.e ≥ 0 then shl x.m x.e.toNat else Int.fdiv x.m (2 ^ (-x.e).toNat : Nat)

/-- Append a sticky bit: 2n, or 2n + 1 when something was cut off. -/
def sticky (n : Nat) (inexact : Bool) : Nat := 2 * n + (if inexact then 1 else 0)

/-- The quotient |x| / |y| of nonzero numbers to 256 bits with a sticky bit, under the sign of x / y. -/
def Dy.div (x y : Dy) : Dy :=
  let n := x.m.natAbs
  let d := y.m.natAbs
  let k := (256 + Nat.log2 d) - Nat.log2 n
  let q := n * 2 ^ k / d
  let r := n * 2 ^ k % d
  let mag : Int := sticky q (r != 0)
  { m := if x.isNeg == y.isNeg then mag else -mag, e := x.e - y.e - k - 1 }

/-- Integer square root: bit k and the bits below it of the root, above the part `r` already found. -/
def isqrtFrom (n : Nat) : Nat → Nat → Nat
  | 0, r => if (r + 1) * (r + 1) ≤ n then r + 1 else r
  | k + 1, r =>
    let r' := r + 2 ^ (k + 1)
    isqrtFrom n k (if r' * r' ≤ n then r' else r)

/-- The integer square root. -/
def isqrt (n : Nat) : Nat := isqrtFrom n (Nat.log2 n / 2) 0

/-- The square root of a nonnegative number, with a sticky bit. -/
def Dy.sqrt (x : Dy) : Dy :=
  let n := x.m.natAbs
  -- make the exponent even and the radicand long
  let k0 := 520 - Nat.log2 n
  let k := if (x.e - k0) % 2 = 0 then k0 else k0 + 1
  let big := n * 2 ^ k
  let r := isqrt big
  { m := (sticky r (r * r != big) : Nat), e := (x.e - k) / 2 - 1 }

/-! ### Formats (R287) -/

/-- A floating-point format. -/
structure Fmt where
  ebits : Nat
  fbits : Nat
  bias  : Int
  /-- Infinity is encoded as E all ones with F = 0. -/
  inf   : Bool
  /-- NaN is encoded with E all ones (with F all ones where the format has no infinity). -/
  nan   : Bool
  /-- m.ftz flushes it (R293). -/
  flush : Bool
  deriving DecidableEq, Repr

def Fmt.f64 : Fmt := { ebits := 11, fbits := 52, bias := 1023, inf := true, nan := true, flush := true }
def Fmt.f32 : Fmt := { ebits := 8, fbits := 23, bias := 127, inf := true, nan := true, flush := true }
def Fmt.f16 : Fmt := { ebits := 5, fbits := 10, bias := 15, inf := true, nan := true, flush := true }
def Fmt.bf16 : Fmt := { ebits := 8, fbits := 7, bias := 127, inf := true, nan := true, flush := true }
def Fmt.e5m2 : Fmt := { ebits := 5, fbits := 2, bias := 15, inf := true, nan := true, flush := false }
def Fmt.e4m3 : Fmt := { ebits := 4, fbits := 3, bias := 7, inf := false, nan := true, flush := false }
def Fmt.e2m1 : Fmt := { ebits := 2, fbits := 1, bias := 1, inf := false, nan := false, flush := false }
/-- The block scale; its sign bit is fixed at 0 (R288). -/
def Fmt.ue4m3 : Fmt := Fmt.e4m3

/-- Width in bits. -/
def Fmt.bits (f : Fmt) : Nat := 1 + f.ebits + f.fbits

/-- E all ones. -/
def Fmt.emax (f : Fmt) : Nat := 2 ^ f.ebits - 1

/-- Exponent of the smallest normal. -/
def Fmt.emin (f : Fmt) : Int := 1 - f.bias

/-- Bits of the largest finite value, without the sign. -/
def Fmt.maxBits (f : Fmt) : Nat :=
  if f.inf then f.emax * 2 ^ f.fbits - 1
  else if f.nan then 2 ^ (f.ebits + f.fbits) - 2
  else 2 ^ (f.ebits + f.fbits) - 1

/-- Bits of infinity, without the sign. -/
def Fmt.infBits (f : Fmt) : Nat := f.emax * 2 ^ f.fbits

/-- The canonical quiet NaN (R289). -/
def Fmt.nanBits (f : Fmt) : Nat :=
  if f.inf then f.emax * 2 ^ f.fbits + 2 ^ (f.fbits - 1) else if f.nan then 2 ^ (f.ebits + f.fbits) - 1 else 0

/-- The sign bit's weight. -/
def Fmt.signBit (f : Fmt) : Nat := 2 ^ (f.ebits + f.fbits)

/-- The value of a floating-point encoding. -/
inductive FVal where
  | nan
  | inf (neg : Bool)
  | fin (neg : Bool) (mag : Dy)
  deriving DecidableEq, Repr

/-- The magnitude that bits without a sign hold. -/
def Fmt.mag (f : Fmt) (b : Nat) : Dy :=
  let ex := b / 2 ^ f.fbits
  let fr := b % 2 ^ f.fbits
  if ex = 0 then { m := fr, e := f.emin - f.fbits }
  else { m := ((2 ^ f.fbits + fr : Nat) : Int), e := f.emin - f.fbits + (ex - 1 : Int) }

/-- The value that an encoding holds (R287). -/
def Fmt.decode (f : Fmt) (b : Nat) : FVal :=
  let neg := b / f.signBit % 2 == 1
  let mg := b % f.signBit
  let ex := mg / 2 ^ f.fbits
  let fr := mg % 2 ^ f.fbits
  if ex = f.emax && f.inf then (if fr = 0 then .inf neg else .nan)
  else if ex = f.emax && f.nan && fr = 2 ^ f.fbits - 1 then .nan
  else .fin neg (f.mag mg)

/-- A subnormal operand read as zero of its sign under m.ftz (R293). -/
def Fmt.read (f : Fmt) (ftz : Bool) (b : Nat) : FVal :=
  match f.decode b with
  | .fin neg mag =>
    if ftz && f.flush && b % f.signBit < 2 ^ f.fbits then .fin neg Dy.zero else .fin neg mag
  | v => v

def FVal.isNaN : FVal → Bool
  | .nan => true
  | _ => false

def FVal.isInf : FVal → Bool
  | .inf _ => true
  | _ => false

/-- A zero of either sign. -/
def FVal.isZero : FVal → Bool
  | .fin _ m => m.isZero
  | _ => false

def FVal.isNeg : FVal → Bool
  | .inf n => n
  | .fin n _ => n
  | .nan => false

/-- The signed exact value of a finite number. -/
def FVal.signed : FVal → Dy
  | .fin n m => if n then m.neg else m
  | _ => Dy.zero

/-! ### Rounding (R292, R293, R294) -/

/-- The rounding modes of `m.rm` (R223). -/
inductive Rm where
  | rne | rz | rup | rdn
  deriving DecidableEq, Repr

def Rm.ofCode : Nat → Rm
  | 0 => .rne
  | 1 => .rz
  | 2 => .rup
  | _ => .rdn

/-- The sticky flags, in the order of `fxf` (R261). -/
structure Flags where
  iv : Bool
  dz : Bool
  of : Bool
  uf : Bool
  ix : Bool
  deriving DecidableEq, Repr

def Flags.none : Flags := { iv := false, dz := false, of := false, uf := false, ix := false }
def Flags.onlyIv : Flags := { Flags.none with iv := true }
def Flags.onlyDz : Flags := { Flags.none with dz := true }

def Flags.or (a b : Flags) : Flags :=
  { iv := a.iv || b.iv, dz := a.dz || b.dz, of := a.of || b.of, uf := a.uf || b.uf, ix := a.ix || b.ix }

/-- Bit 0 IV, 1 DZ, 2 OF, 3 UF, 4 IX (R261). -/
def Flags.bits (f : Flags) : BitVec 5 :=
  BitVec.ofBool f.ix ++ BitVec.ofBool f.uf ++ BitVec.ofBool f.of ++ BitVec.ofBool f.dz ++ BitVec.ofBool f.iv

/-- A result and the flags it raises. -/
structure FRes where
  bits  : Nat
  flags : Flags
  deriving DecidableEq, Repr

/-- |x| / 2^q rounded to an integer. -/
def roundMag (rm : Rm) (neg : Bool) (x : Dy) (q : Int) : Nat :=
  let n := x.m.natAbs
  if x.e ≥ q then n * 2 ^ (x.e - q).toNat
  else
    let k := (q - x.e).toNat
    let d := 2 ^ k
    let t := n / d
    let r := n % d
    match rm with
    | .rne => if 2 * r > d || (2 * r == d && t % 2 == 1) then t + 1 else t
    | .rz => t
    | .rup => if r != 0 && !neg then t + 1 else t
    | .rdn => if r != 0 && neg then t + 1 else t

/-- Bits with a sign. -/
def Fmt.signed (f : Fmt) (neg : Bool) (b : Nat) : Nat := if neg then f.signBit + b else b

/-- The result of an overflow (R292). -/
def Fmt.overflow (f : Fmt) (rm : Rm) (neg : Bool) : Nat :=
  if !f.inf then f.signed neg f.maxBits
  else
    match rm with
    | .rne => f.signed neg f.infBits
    | .rz => f.signed neg f.maxBits
    | .rup => if neg then f.signed neg f.maxBits else f.infBits
    | .rdn => if neg then f.signed neg f.infBits else f.maxBits

/-- What rounding an exact nonzero value found. -/
inductive Rounded where
  | beyond
  | val (bits : Nat) (tiny : Bool) (inexact : Bool)
  deriving DecidableEq, Repr

/-- Round a nonzero magnitude: overflow and tininess are judged with the exponent range unbounded (R292, R293). -/
def Fmt.roundRaw (f : Fmt) (rm : Rm) (neg : Bool) (x : Dy) : Rounded :=
  let a := x.abs
  let e := a.log2
  let qu := e - f.fbits
  let u : Dy := { m := (roundMag rm neg a qu : Nat), e := qu }
  if (f.mag f.maxBits).lt u then .beyond
  else
    let q := max qu (f.emin - f.fbits)
    let k := roundMag rm neg a q
    let v : Dy := { m := (k : Nat), e := q }
    .val ((q - (f.emin - f.fbits)).toNat * 2 ^ f.fbits + k) (u.lt { m := 1, e := f.emin }) (!(v.eq a))

/-- round(fmt, x, rm) of a finite exact value, with flushing under `ftz` where the format flushes; `zneg` is the sign that
an exact zero takes. -/
def Fmt.round (f : Fmt) (rm : Rm) (ftz : Bool) (zneg : Bool) (x : Dy) : FRes :=
  if x.isZero then { bits := f.signed zneg 0, flags := .none }
  else
    let neg := x.isNeg
    match f.roundRaw rm neg x with
    | .beyond => { bits := f.overflow rm neg, flags := { Flags.none with of := true, ix := true } }
    | .val b tiny inexact =>
      if tiny && ftz && f.flush then
        { bits := f.signed neg 0, flags := { Flags.none with uf := true, ix := true } }
      else { bits := f.signed neg b, flags := { Flags.none with uf := tiny && inexact, ix := inexact } }

/-- The canonical NaN as a result. -/
def Fmt.nanRes (f : Fmt) (fl : Flags) : FRes := { bits := f.nanBits, flags := fl }

/-- An exact infinite result: infinity, or an overflow where the format has none (R292). -/
def Fmt.infRes (f : Fmt) (neg : Bool) : FRes :=
  if f.inf then { bits := f.signed neg f.infBits, flags := .none }
  else { bits := f.signed neg f.maxBits, flags := { Flags.none with of := true, ix := true } }

/-- The result of an exact value with flags raised before the rounding. -/
def Fmt.finish (f : Fmt) (rm : Rm) (ftz : Bool) (fl : Flags) : FVal → FRes
  | .nan => f.nanRes fl
  | .inf n => let r := f.infRes n; { bits := r.bits, flags := fl.or r.flags }
  | .fin n m => let r := f.round rm ftz n (if n then m.neg else m); { bits := r.bits, flags := fl.or r.flags }

/-! ### Exact sums and products (R294, R298) -/

/-- The exact product, with IV for 0 × ∞. -/
def FVal.mul : FVal → FVal → FVal × Bool
  | .nan, _ => (.nan, false)
  | _, .nan => (.nan, false)
  | .inf a, .inf b => (.inf (a != b), false)
  | .inf a, .fin b m => if m.isZero then (.nan, true) else (.inf (a != b), false)
  | .fin a m, .inf b => if m.isZero then (.nan, true) else (.inf (a != b), false)
  | .fin a m, .fin b n => (.fin (a != b) (m.mul n), false)

/-- The exact sum of a list, with IV for infinities of both signs (R294, R298). The sign of an exact
zero is the common sign of zero terms, else − under RDN and + otherwise (R292). -/
def sumExact (rm : Rm) (ts : List FVal) : FVal × Bool :=
  let pinf := ts.any (fun t => t.isInf && !t.isNeg)
  let ninf := ts.any (fun t => t.isInf && t.isNeg)
  if ts.any FVal.isNaN then (.nan, pinf && ninf)
  else
    if pinf && ninf then (.nan, true)
    else if pinf then (.inf false, false)
    else if ninf then (.inf true, false)
    else
      let x := ts.foldl (fun acc t => acc.add t.signed) Dy.zero
      if x.isZero then
        let neg := if ts.all FVal.isNeg && ts != [] then true
                   else if ts.all (fun t => t.isZero && !t.isNeg) then false
                   else rm == .rdn
        (.fin neg Dy.zero, false)
      else (.fin x.isNeg x.abs, false)

/-- Negate a value. -/
def FVal.negate : FVal → FVal
  | .nan => .nan
  | .inf n => .inf (!n)
  | .fin n m => .fin (!n) m

/-- x + y, exact and rounded once (R347). -/
def Fmt.fadd (f : Fmt) (rm : Rm) (ftz : Bool) (x y : FVal) : FRes :=
  let (s, iv) := sumExact rm [x, y]
  f.finish rm ftz { Flags.none with iv := iv } s

/-- x − y. -/
def Fmt.fsub (f : Fmt) (rm : Rm) (ftz : Bool) (x y : FVal) : FRes := f.fadd rm ftz x y.negate

/-- x × y. -/
def Fmt.fmul (f : Fmt) (rm : Rm) (ftz : Bool) (x y : FVal) : FRes :=
  let (p, iv) := x.mul y
  f.finish rm ftz { Flags.none with iv := iv } p

/-- x × y + d with one rounding; IV for 0 × ∞ even when d is a NaN (R350). -/
def Fmt.ffma (f : Fmt) (rm : Rm) (ftz : Bool) (x y d : FVal) : FRes :=
  let (p, iv) := x.mul y
  let (s, iv') := sumExact rm [p, d]
  f.finish rm ftz { Flags.none with iv := iv || iv' } s

/-- x / y: IV for 0 / 0 and ∞ / ∞, DZ for a finite nonzero dividend over zero (R294). -/
def Fmt.fdiv (f : Fmt) (rm : Rm) (ftz : Bool) : FVal → FVal → FRes
  | .nan, _ => f.nanRes .none
  | _, .nan => f.nanRes .none
  | .inf _, .inf _ => f.nanRes .onlyIv
  | .inf a, .fin b _ => f.infRes (a != b)
  | .fin a _, .inf b => { bits := f.signed (a != b) 0, flags := .none }
  | .fin a m, .fin b n =>
    if n.isZero then
      if m.isZero then f.nanRes .onlyIv
      else { bits := f.signed (a != b) f.infBits, flags := .onlyDz }
    else if m.isZero then { bits := f.signed (a != b) 0, flags := .none }
    else
      let q := m.div n
      f.finish rm ftz .none (.fin (a != b) q)

/-- √x, correctly rounded; IV for a negative nonzero operand (R302). -/
def Fmt.fsqrt (f : Fmt) (rm : Rm) (ftz : Bool) : FVal → FRes
  | .nan => f.nanRes .none
  | .inf n => if n then f.nanRes .onlyIv else f.infRes false
  | .fin n m =>
    if m.isZero then { bits := f.signed n 0, flags := .none }
    else if n then f.nanRes .onlyIv
    else f.finish rm ftz .none (.fin false m.sqrt)

/-! ### Order (R351, R352) -/

/-- x < y on values that are not NaN, with −0 equal to +0. -/
def FVal.lt : FVal → FVal → Bool
  | .nan, _ => false
  | _, .nan => false
  | .inf a, .inf b => a && !b
  | .inf a, .fin _ _ => a
  | .fin _ _, .inf b => !b
  | x, y => x.signed.lt y.signed

/-- x = y, with −0 equal to +0 and a NaN equal to nothing. -/
def FVal.eqv : FVal → FVal → Bool
  | .nan, _ => false
  | _, .nan => false
  | .inf a, .inf b => a == b
  | .inf _, .fin _ _ => false
  | .fin _ _, .inf _ => false
  | x, y => x.signed.eq y.signed

/-- The encoding of a value that its format holds exactly. -/
def Fmt.encode (f : Fmt) (v : FVal) : Nat := (f.finish .rne false .none v).bits

/-- Minimum or maximum under R351: −0 below +0, a single NaN gives the other operand. -/
def Fmt.fminmax (f : Fmt) (isMax : Bool) (x y : FVal) : Nat :=
  match x, y with
  | .nan, .nan => f.nanBits
  | .nan, y => f.encode y
  | x, .nan => f.encode x
  | x, y =>
    let xBelow := x.lt y || (x.eqv y && x.isNeg && !y.isNeg)
    f.encode (if xBelow == isMax then y else x)

/-! ### Powers, logarithms and circular functions

Fixed point with 640 fractional bits. -/

/-- Fractional bits of the fixed point (DESIGN CHOICE, log 7). -/
def fxBits : Nat := 640

/-- 1 in fixed point. -/
def fxOne : Nat := 2 ^ fxBits

/-- atanh(1/k) by its series: the sum over j of 1 / ((2j + 1) k^(2j + 1)). -/
def fxAtanhInv (k : Nat) : Nat → Nat → Nat → Nat → Nat
  | 0, _, _, acc => acc
  | n + 1, j, t, acc => fxAtanhInv k n (j + 1) (t / (k * k)) (acc + t / (2 * j + 1))

/-- ln 2 = 2 atanh(1/3). -/
def fxLn2 : Nat := 2 * fxAtanhInv 3 220 0 (fxOne / 3) 0

/-- The sum of y^k / k! from the term `t` = y^j / j! on. -/
def fxExpSeries (y : Nat) : Nat → Nat → Nat → Nat → Nat
  | 0, _, _, acc => acc
  | n + 1, j, t, acc => fxExpSeries y n (j + 1) (t * y / fxOne / (j + 1)) (acc + t)

/-- 2^x for a dyadic x: exact for an integer, else with a sticky bit. An exponent beyond ±20,000 is cut there, which no
format of R287 tells apart. -/
def exp2 (x : Dy) : Dy :=
  let n := x.floor
  let n' := max (min n 20000) (-20000)
  let fr := x.sub (Dy.ofInt n)
  if fr.isZero then { m := 1, e := n' }
  else
    let fx := (fr.scale fxBits).floor.toNat
    let y := fx * fxLn2 / fxOne
    { m := ((sticky (fxExpSeries y 160 0 fxOne 0) true : Nat) : Int), e := n' - fxBits - 1 }

/-- The bits of log2 of a fixed-point number in [1, 2), by squaring. -/
def fxLog2Bits : Nat → Nat → Nat → Nat
  | 0, _, acc => acc
  | n + 1, y, acc =>
    let y2 := y * y / fxOne
    if y2 ≥ 2 * fxOne then fxLog2Bits n (y2 / 2) (2 * acc + 1) else fxLog2Bits n y2 (2 * acc)

/-- log2 x for x > 0: exact for a power of two, else its value to 256 fractional bits with a sticky bit. -/
def log2Dy (x : Dy) : Dy :=
  let e := x.log2
  let y := x.scale (-e)
  let fx := (y.scale fxBits).floor.toNat
  if fx = fxOne then Dy.ofInt e
  else
    let b := fxLog2Bits 256 fx 0
    (Dy.ofInt e).add { m := ((sticky b true : Nat) : Int), e := -257 }

/-- atan(1/k) by its alternating series, as the even and the odd terms apart. -/
def fxAtanInv (k : Nat) : Nat → Nat → Nat → Nat → Nat → Nat × Nat
  | 0, _, _, pos, neg => (pos, neg)
  | n + 1, j, t, pos, neg =>
    if j % 2 = 0 then fxAtanInv k n (j + 1) (t / (k * k)) (pos + t / (2 * j + 1)) neg
    else fxAtanInv k n (j + 1) (t / (k * k)) pos (neg + t / (2 * j + 1))

/-- π by Machin's formula. -/
def fxPi : Nat :=
  let (p5, n5) := fxAtanInv 5 150 0 (fxOne / 5) 0 0
  let (p239, n239) := fxAtanInv 239 60 0 (fxOne / 239) 0 0
  4 * (4 * (p5 - n5) - (p239 - n239))

/-- Alternating sum of y^j / j! over the j of one parity, from the term `t` = y^j / j! on. -/
def fxTrigSeries (y : Nat) : Nat → Nat → Nat → Bool → Nat → Nat → Nat
  | 0, _, _, _, pos, neg => pos - neg
  | n + 1, j, t, sgn, pos, neg =>
    let t' := t * y / fxOne / (j + 1) * y / fxOne / (j + 2)
    if sgn then fxTrigSeries y n (j + 2) t' false pos (neg + t) else fxTrigSeries y n (j + 2) t' true (pos + t) neg

/-- sin of a fixed-point angle in [0, π/4]. -/
def fxSin (y : Nat) : Nat := fxTrigSeries y 80 1 y false 0 0

/-- cos of a fixed-point angle in [0, π/4]. -/
def fxCos (y : Nat) : Nat := fxTrigSeries y 80 0 fxOne false 0 0

/-- sin 2πu for u in [0, 1/4] given as a dyadic; exact at 0 and 1/4. -/
def sinQuarter (u : Dy) : Dy :=
  if u.isZero then Dy.zero
  else if u.eq { m := 1, e := -2 } then Dy.ofInt 1
  else
    let eighth : Dy := { m := 1, e := -3 }
    if u.le eighth then
      -- keep relative precision for small angles: work on u × 2^k near 1
      let k := max 0 (-(u.log2) - 4)
      if k > 200 then
        let t := (u.m.natAbs * fxPi) * 2
        { m := ((sticky t true : Nat) : Int), e := u.e - fxBits - 1 }
      else
        let y := ((u.scale fxBits).mul { m := (fxPi : Int), e := 1 - fxBits }).floor.toNat
        { m := ((sticky (fxSin y) true : Nat) : Int), e := -(fxBits : Int) - 1 }
    else
      let w := ({ m := 1, e := -2 } : Dy).sub u
      let y := ((w.scale fxBits).mul { m := (fxPi : Int), e := 1 - fxBits }).floor.toNat
      { m := ((sticky (fxCos y) true : Nat) : Int), e := -(fxBits : Int) - 1 }

/-- sin 2πx for any dyadic number of turns (DESIGN CHOICE, log 7). -/
def sinTurns (x : Dy) : Dy :=
  let u := x.sub (Dy.ofInt x.floor)
  let half : Dy := { m := 1, e := -1 }
  let quarter : Dy := { m := 1, e := -2 }
  let (neg, u) := if half.le u then (true, u.sub half) else (false, u)
  let u := if quarter.lt u then half.sub u else u
  let r := sinQuarter u
  if neg then r.neg else r

/-- cos 2πx = sin 2π(x + 1/4) (DESIGN CHOICE, log 7). -/
def cosTurns (x : Dy) : Dy := sinTurns (x.add { m := 1, e := -2 })

end Sys2Proof.Machine
end

