-- ==== Sys2Proof/Machine/SMap.lean ====
section
/-! DEFINITION. Finite maps over Nat keys in one canonical form: keys strictly rising, and no entry equal to what an
unlisted key reads as. Memory, register files and every other indexed piece of State is one of these, so that equal
contents are equal data. -/

namespace Sys2Proof

/-- A finite map: the listed keys with their values. -/
abbrev SMap (α : Type) := List (Nat × α)

/-- The value at a key; `d` is what an unlisted key reads as. -/
def SMap.get {α : Type} (d : α) : SMap α → Nat → α
  | [], _ => d
  | (k, v) :: m, a => if a = k then v else SMap.get d m a

/-- The value at a key, or none where the key is not listed. -/
def SMap.find? {α : Type} : SMap α → Nat → Option α
  | [], _ => none
  | (k, v) :: m, a => if a = k then some v else SMap.find? m a

/-- Put a value at a key, in key order. -/
def SMap.insert {α : Type} (k : Nat) (v : α) : SMap α → SMap α
  | [] => [(k, v)]
  | (k', v') :: m =>
    if k < k' then (k, v) :: (k', v') :: m
    else if k = k' then (k, v) :: m
    else (k', v') :: SMap.insert k v m

/-- Remove a key. -/
def SMap.erase {α : Type} (m : SMap α) (k : Nat) : SMap α := m.filter (fun e => e.1 != k)

/-- Write a value at a key; writing what an unlisted key reads as removes the entry. -/
def SMap.set {α : Type} [DecidableEq α] (d : α) (m : SMap α) (k : Nat) (v : α) : SMap α :=
  if v = d then SMap.erase m k else SMap.insert k v m

/-- Every listed key is above `k`. -/
def SMap.above {α : Type} (k : Nat) (m : SMap α) : Prop := ∀ e ∈ m, k < e.1

/-- The canonical form: keys strictly rising. -/
def SMap.sorted {α : Type} : SMap α → Bool
  | [] => true
  | [_] => true
  | (k, _) :: (k', v') :: m => decide (k < k') && SMap.sorted ((k', v') :: m)

/-- The canonical form: keys strictly rising, no entry equal to the unlisted value. -/
def SMap.wf {α : Type} [DecidableEq α] (d : α) (m : SMap α) : Bool :=
  SMap.sorted m && m.all (fun e => decide (e.2 ≠ d))

/-- Change one entry that is listed. -/
def SMap.modify {α : Type} (m : SMap α) (k : Nat) (f : α → α) : SMap α :=
  m.map (fun e => if e.1 = k then (e.1, f e.2) else e)

/-- Write the values of a list at consecutive keys. -/
def SMap.setRun {α : Type} [DecidableEq α] (d : α) (m : SMap α) (k : Nat) : List α → SMap α
  | [] => m
  | v :: vs => SMap.setRun d (SMap.set d m k v) (k + 1) vs

/-- Of neighbours with one key, the last. -/
def SMap.lastOf {α : Type} : SMap α → SMap α
  | [] => []
  | [e] => [e]
  | e :: e' :: m => if e.1 = e'.1 then SMap.lastOf (e' :: m) else e :: SMap.lastOf (e' :: m)

/-- Two lists of entries as one map in canonical form; where both list a key, the second counts. -/
def SMap.join {α : Type} [DecidableEq α] (d : α) (m n : SMap α) : SMap α :=
  (SMap.lastOf ((m ++ n).mergeSort (fun a b => decide (a.1 ≤ b.1)))).filter (fun e => decide (e.2 ≠ d))

/-- The first key from `k` on, below `k + n`, that `p` accepts. -/
def firstFrom (p : Nat → Bool) (k : Nat) : Nat → Option Nat
  | 0 => none
  | n + 1 => if p k then some k else firstFrom p (k + 1) n

end Sys2Proof
end

