-- ==== Sys2Proof/Machine/State.lean ====
section
/-! DEFINITION. The state of the package as plain data, everything the spec gives the machine, the reasons a step can
stop, and the state after reset. -/

namespace Sys2Proof.Machine

open Sys2Proof

/-- Why the machine stops. -/
inductive Fault where
  /-- Raised by every instruction word once a thermal trip has stopped the core-die clocks, or while the package has
  no power or its dies stand in reset (R27, R18): no instruction runs. Safe: the hardware runs none either. -/
  | clocksStopped
  deriving DecidableEq, Repr

/-- Why a step has no meaning. -/
inductive Refusal where
  /-- Raised by an arm of exec that has no meaning yet. Safe: no claim can rest on it. -/
  | notModelled (mnemonic : String)
  /-- Raised by an instruction word when no group issues: there is nobody to execute it. Safe. -/
  | noIssuingGroup
  /-- Raised by step when the agenda holds an instruction word; only events land from outside. Safe. -/
  | notAnEvent
  deriving DecidableEq, Repr

/-! ### The group slot (R220, R229, R245, R265) -/

/-- The status of a program-counter slot (R265). -/
inductive SlotStatus where
  | empty | ready | joining | demoted
  deriving DecidableEq, Repr

/-- A RECV that waits (R333): its word, and until when it waits. -/
structure RecvWait where
  pc     : VA
  until_ : Option Nat
  deriving DecidableEq, Repr

/-- A BARAW that has arrived and waits (R410): its word, its barrier and the phase it arrived in. -/
structure BarWait where
  pc    : VA
  k     : Nat
  phase : Bool
  deriving DecidableEq, Repr

/-- What stays with a slot's word while others issue: the lanes that its first execution after an RTT may run (R105), a RECV or a
BARAW that waits at it. -/
structure SlotKept where
  replay : Option Mask
  recv   : Option RecvWait
  bar    : Option BarWait
  deriving DecidableEq, Repr

/-- Nothing stays with a slot. -/
def SlotKept.none : SlotKept := { replay := .none, recv := .none, bar := .none }

/-- One program-counter slot (R229), with its backward-branch count and the instructions its sibling has issued while it
was demoted (R236). -/
structure PcSlot where
  pc     : VA
  owned  : Mask
  enable : Mask
  status : SlotStatus
  back   : Nat
  sib    : Nat
  kept   : SlotKept := .none
  deriving DecidableEq, Repr

/-- An entry of the split stack (R233). -/
structure StackEntry where
  pc     : VA
  owned  : Mask
  enable : Mask
  kept   : SlotKept := .none
  deriving DecidableEq, Repr

/-- The control bank of a level (R245). `ts` and `pv` are the `tlevel` fields of the level while a higher level runs: the
slot that trapped into it, and whether it is privileged (R260, R265); `nx` is the slot next in alternation (R211). -/
structure CtlBank where
  hc    : SMap Nat
  hb    : Mask
  slotA : PcSlot
  slotB : PcSlot
  mark  : Nat
  m     : Word
  s26   : Word
  s27   : Word
  ts    : PcSel
  pv    : Bool
  nx    : PcSel
  deriving DecidableEq, Repr

/-- A trap bank `_l1` or `_l2` (R259). -/
structure TrapBank where
  cause : Word
  ret   : VA
  mask  : Mask
  addr  : VA
  word  : Word
  lit   : Word
  mode  : Word
  info  : Word
  deriving DecidableEq, Repr

/-- A late-fault record (R252). -/
structure LateRec where
  cause : Nat
  inner : Nat
  mask  : Mask
  addr  : VA
  word  : Word
  lit   : Word
  cls   : Nat
  more  : Bool
  deriving DecidableEq, Repr

/-- A register that an operation in flight has still to write (R240). -/
inductive RegRef where
  | v (k : Nat) | s (k : Nat) | p (k : Nat) | t (k : Nat)
  deriving DecidableEq, Repr

/-- The counters of R241; `none` is an access that no counter counts. -/
inductive CntClass where
  | ld | st | cp | xt | none
  deriving DecidableEq, Repr

/-- The functions of the atomics and reductions (R402). -/
inductive AtomicFn where
  | add | min | max | and | or | xor | xch | cas | fadd
  deriving DecidableEq, Repr

/-- The ordering kind that an access took at issue (R152, R157). -/
structure Order where
  acq : Bool
  rel : Bool
  sc  : Bool
  deriving DecidableEq, Repr

/-- The range maintenance instructions (R138). -/
inductive MaintFn where
  | clean | invalidate | flush
  deriving DecidableEq, Repr

/-- The operations of the Wings pipe (R415). -/
inductive WingsFn where
  | append | stamp | drop | get | connect | merge | reweight | retire | sight | sightAny
  deriving DecidableEq, Repr

/-- What an operation in flight does. -/
inductive OpKind where
  /-- A vector load of `bytes` per lane; LDB and LDH extend the sign when `signed` (R396). -/
  | load (bytes : Nat) (signed : Bool)
  /-- An understudy load (R162, R399). -/
  | watchLoad (bytes : Nat)
  /-- LDSW, LDSD (R398). -/
  | loadScalar (bytes : Nat)
  /-- A vector or scalar store (R396, R398). -/
  | store (bytes : Nat)
  | atomic (f : AtomicFn) (wide : Bool)
  | reduce (f : AtomicFn) (wide : Bool)
  | tileLoad
  | tileStore
  /-- A copy of `rows` rows of `rowBytes` bytes (R407). -/
  | copy (dst src : VA) (rows rowBytes dpitch spitch : Nat)
  | maintain (f : MaintFn) (base : VA) (count : Nat)
  /-- QENQ and QDEQ after their ring has been written or read (R401). -/
  | enqueue
  | dequeue
  | wings (f : WingsFn)
  /-- An operation of the Wings pipe whose results, in `data`, are on their way back (R241). -/
  | wingsReply (f : WingsFn)
  /-- LAUNCH, waiting for the Cue Unit's answer (R331). -/
  | launch (addr : VA)
  /-- The arrival of BARA or BARAW, waiting for its release (R410). -/
  | arrive (k : Nat)
  /-- The lanes of an EXIT, which leave the live mask when its release is performed (R326). -/
  | exit
  deriving DecidableEq, Repr

/-- An operation of a group that has issued and is not complete (R146, R241). `addrs` and `ptes` give each lane's address
and the page entry that it translated by at issue. `ticket` says that a seq-cst operation holds its ticket (R157), or that an
append or a stamp has taken its number at the engine, which `ptes` then holds at key 0 (R177, R178), or that a load goes by expired copies
whose renewal has not replied (R133). `deliver` are the lanes whose fills a drain has made deliver-only (R122); `whole` is the mask that
the faults of a scalar access report (R398). -/
structure MemOp where
  id     : Nat
  kind   : OpKind
  cls    : CntClass
  level  : Nat
  user   : Bool
  sel    : PcSel
  pc     : VA
  word   : Word
  lit    : Word
  order  : Order
  miss   : Bool
  lanes  : Mask
  addrs  : SMap Nat
  ptes   : SMap Nat
  data   : SMap Word
  regs   : List RegRef
  dst    : Nat
  ty     : Nat
  ticket : Bool
  done   : Bool
  deliver : Mask := 0
  whole  : Option Mask := .none
  deriving DecidableEq, Repr

/-- Whether a resident group is in an active or a pending slot of its quarter (R209). -/
inductive Residence where
  | active | pending
  deriving DecidableEq, Repr

/-- A load token (R213): since when it is held, and the load runs begun with it. -/
structure Token where
  since : Nat
  runs  : Nat
  deriving DecidableEq, Repr

/-- A group slot (R220, R229, R243, R245, R259, R265). `dead` marks a killed group of which operations already sent are
still to complete (R238); `stalled` lists the slots whose last word could
not issue (R209), `wants` marks a group that waits for a load token (R213); `yielded` lists the
groups that come first after a YIELD (R327). `holdSel` is the slot whose
word the whole group waits for (R328, R329), `draining` the banks that it waits for (R336). -/
structure Group where
  die      : Nat
  core     : Nat
  quarter  : Nat
  slot     : Nat
  ctx      : Ctx
  team     : Nat
  gidx     : Nat
  lid      : Word
  tidx     : Word × Word × Word
  tdim     : Word × Word × Word
  gcount   : Nat
  arg      : DWord
  nvr      : Nat
  ntile    : Nat
  gwc      : Nat
  v        : SMap Word
  vtag     : SMap Nat
  s        : SMap Word
  p        : SMap Mask
  trow     : SMap Row
  ttag     : SMap Nat
  rmax     : SMap Word
  rsum     : SMap Word
  m        : Word
  live     : Mask
  slotA    : PcSlot
  slotB    : PcSlot
  nextSel  : PcSel
  stack    : List StackEntry
  hc       : SMap Nat
  hb       : Mask
  fxf      : BitVec 5
  troute   : BitVec 17
  lvl      : Nat
  pv       : Bool
  ts       : PcSel
  hintDrop : Word
  tvecUser : VA
  tvecDev  : VA
  tsave    : VA
  clkHi    : Option Word
  bank0    : CtlBank
  bank1    : CtlBank
  trap1    : TrapBank
  trap2    : TrapBank
  late     : SMap (Option LateRec)
  wd1      : Nat
  wd2      : Nat
  wdAt     : Nat
  ops      : List MemOp
  nextOp   : Nat
  yielded  : Option (List Nat)
  place    : Residence
  readyAt  : Nat
  activeAt : Nat
  victims  : List Nat
  token    : Option Token
  wants    : Bool
  stalled  : List PcSel
  longStall : Bool
  holdSel  : Option PcSel
  draining : List Nat
  dead     : Bool
  deriving DecidableEq, Repr

/-! ### Memory -/

/-- Memory: the bytes of the listed addresses, in the canonical form of `Memory.wf`. An address is a location: of device memory,
of host memory, of a bank. -/
abbrev Memory := SMap (BitVec 8)

/-- What an unlisted address reads as (DESIGN CHOICE, log 1). -/
def Memory.unlisted : BitVec 8 := 0

/-- The byte at an address. -/
def Memory.read (m : Memory) (a : Nat) : BitVec 8 := SMap.get Memory.unlisted m a

/-- The canonical form: addresses strictly rising, no entry equal to what an unlisted address reads as. -/
def Memory.wf (m : Memory) : Bool := SMap.wf Memory.unlisted m

/-! ### On-chip memory (R119, R127, R128, R135, R162) -/

/-- The attributes that a leaf entry gives its page (R101). -/
structure PageAttr where
  sh  : Nat
  ms  : Bool
  swm : Bool
  ro  : Bool
  x   : Bool
  us  : Bool
  apk : Nat
  shp : Nat
  deriving DecidableEq, Repr

/-- The modes of a bank (R119). -/
inductive BankMode where
  | cache | scratch | fifo
  deriving DecidableEq, Repr

/-- A cluster SRAM bank (R120); `next` is the configuration that its drain ends in (R122). -/
structure Bank where
  mode : BankMode
  core : Nat
  fifo : Nat
  clm  : Option Nat
  drn  : Bool
  next : Option (BankMode × Nat × Nat)
  deriving DecidableEq, Repr

/-- A line copy in an L1 (R92, R127, R129). -/
structure L1Line where
  ctx     : Ctx
  line    : Nat
  attr    : PageAttr
  data    : Line
  wts     : Nat
  rts     : Nat
  filled  : Nat
  expired : Bool
  used    : Nat
  loader  : Option Nat
  deriving DecidableEq, Repr

/-- The state of an understudy watch entry (R162). -/
inductive WatchState where
  | pending | confirmed | struck
  deriving DecidableEq, Repr

/-- An entry of a core's Understudy Watch Table (R162); `op` is the number of the load that took it. -/
structure Watch where
  gid   : Nat
  op    : Nat
  level : Nat
  ctx   : Ctx
  line  : Nat
  wts   : Nat
  state : WatchState
  deriving DecidableEq, Repr

/-- A shadow context of a core (R206, R262). -/
structure Shadow where
  ctx   : Ctx
  since : Nat
  deriving DecidableEq, Repr

/-- A core: its logical time, L1, watch table, active and shadow contexts, the contexts that wait in memory, the launch
that has pre-empted it and is to be placed (R205). -/
structure Core where
  ct        : Nat
  l1        : SMap (Option L1Line)
  uwt       : List Watch
  active    : Option Ctx
  shadows   : List Shadow
  inMem     : List Ctx
  switching : Bool
  claim     : Option Nat
  deriving DecidableEq, Repr

/-- The tile word that a quarter's matrix unit works on: its group, and the registers that it has still to release (R371). -/
structure TileWork where
  gid  : Nat
  regs : List RegRef
  deriving DecidableEq, Repr

/-- A quarter's scheduler (R211, R212). -/
structure Quarter where
  last     : Nat
  limit    : Nat
  hits     : Nat
  winStart : Nat
  unit     : Option TileWork
  deriving DecidableEq, Repr

/-- An L2 slice (R128, R130, R132, R157). -/
structure Slice where
  base   : Nat
  mrts   : Nat
  sweep  : Bool
  ticket : Nat
  deriving DecidableEq, Repr

/-- A line held by a die's L2 (R128, R135, R137): MOESI state, timestamps as offsets, attributes, device-physical
location, and for software-managed and system-scope lines its bytes and byte dirty mask. -/
structure L2Line where
  st      : DirState
  wts     : Nat
  rts     : Nat
  attr    : PageAttr
  loc     : Nat
  dirty   : BitVec 128
  data    : Line
  touched : Nat
  deriving DecidableEq, Repr

/-- What a slice, or a die, is asked for by no operation in flight, and must wait: a line of PREF, which goes to an L1, or of RESID
(R413); a request between dies (R135); a store that reaches its slice (R129). -/
inductive SliceReq where
  | fetch (core gid : Nat) (ctx : Ctx) (va : VA) (priv l1 : Bool)
  | die (die : Nat) (own : Bool) (ctx : Ctx) (va : VA)
  | store (core : Option Nat) (ctx : Ctx) (va : VA) (bytes : List (Nat × Byte))
  deriving DecidableEq, Repr

/-- The inter-die directory entry at a home slice (R135). -/
structure DieDir where
  st      : DirState
  sharers : BitVec 8
  owner   : Nat
  touched : Nat
  deriving DecidableEq, Repr

/-- A parameter set (R185). -/
structure ParamSet where
  q    : Nat
  r    : Nat
  w    : Nat
  fcur : Nat
  npf  : Nat
  ntot : Nat
  eta  : Nat
  deriving DecidableEq, Repr

/-- An open arena, with what its engine holds of it: the counter, the stamp table with the launches that own its stamps, the
parameter sets and the slot of the one in force (R171), and the extent that it was opened with (R170). `drops` are the launches whose
stamps the Cue Unit has dropped and the engine not yet (R422). -/
structure Arena where
  ctx    : Ctx
  header : VA
  drops  : List Word
  nsm1   : Nat
  gbits  : Nat
  grid   : VA
  ctr    : Nat
  stamps : SMap (Option (Nat × Word))
  sets   : SMap (Option ParamSet)
  pslot  : Nat
  deriving DecidableEq, Repr

/-! ### Launches and teams (R196 to R202, R409) -/

/-- The fields of a launch block (R196). -/
structure LaunchBlock where
  entry  : DWord
  tdim   : Word × Word × Word
  gwc    : Nat
  ngrp   : Nat
  nvr    : Nat
  ntile  : Nat
  scrb   : Nat
  fifon  : Word
  prio   : Nat
  pair   : Bool
  dep    : Bool
  ctx    : Ctx
  depva  : DWord
  depval : DWord
  cmpva  : DWord
  argp   : DWord
  deriving DecidableEq, Repr

/-- A launch that the Cue Unit queues or tracks (R199, R201). -/
structure Launch where
  blk         : LaunchBlock
  die         : Nat
  level       : Nat
  queued      : Bool
  ready       : Bool
  nextTeam    : Nat
  ended       : Nat
  incs        : Nat
  pendingIncs : Nat
  faultSent   : Bool
  discarding  : Bool
  lastLost    : Bool
  lastValue   : DWord
  agedFrom    : Nat
  href        : Word
  deriving DecidableEq, Repr

/-- A resident team (R197, R201, R409): its groups, claimed banks, FIFO rings and barriers. -/
structure Team where
  lid     : Nat
  index   : Nat
  die     : Nat
  core    : Nat
  paired  : Bool
  ctx     : Ctx
  scrb    : Nat
  groups  : List Nat
  ended   : List Nat
  scratch : List Nat
  fifoBk  : SMap (List Nat)
  fifos   : SMap (List Line)
  ph      : BitVec 16
  arrived : SMap (BitVec 16)
  losses  : Nat
  deriving DecidableEq, Repr

/-- The per-die units: cue queue and hardware queue (R333), Cue Unit queues (R199), launch count (R198), per-die
registers (R214, R259), the earliest next placement (R203), the body of the Director image that was loaded (R77). -/
structure DieState where
  cues        : List (List Byte)
  hw          : List (List Byte)
  queues      : SMap (List Nat)
  launchCount : Nat
  llthr       : BitVec 8
  hvec        : VA
  hsav        : VA
  cimtab      : DWord
  banksel     : BitVec 6
  kills       : List (List Byte)
  placeAt     : Nat
  image       : List Byte
  deriving DecidableEq, Repr

/-- The last committed incremental checkpoint of a context (R86): its number, the bytes of the context's pages by location. -/
structure Checkpoint where
  number : Nat
  bytes  : Memory
  deriving DecidableEq, Repr

/-- A context (R97, R65, R86 to R88): `ckptAt` is when its next incremental checkpoint is due, `guarded` are its pages that are mapped
read-only since the last one (R99), each by its first address and kind, `redo` the launches that have completed since then,
`failures` the restores that have failed within the interval. -/
structure Context where
  killed    : Bool
  resilient : Bool
  safe      : DWord
  safeSize  : DWord
  interval  : Word
  ckpts     : Nat
  ckptAt    : Nat
  guarded   : List (VA × Nat)
  failures  : Nat
  saved     : Option Checkpoint
  redo      : List (Nat × Launch)
  heldEvts  : List (List Byte)
  deriving DecidableEq, Repr

/-! ### Package (R16 to R27, R58 to R88) -/

/-- The parts (R1, R29): MZ880-1T, which the module MZM880-1T-L carries too, and MZ880-768. -/
inductive Part where
  | mz880t1 | mz880s768
  deriving DecidableEq, Repr

/-- C, the size of a memory channel in MiB (R2, R95). -/
def Part.channelMiB (p : Part) : Nat :=
  match p with
  | .mz880t1 => 2048
  | .mz880s768 => 1536

/-- Where a start stands (R77). -/
inductive BootPhase where
  | rails | waitGo | readImage | bringUp | waitReady | running | minimal | failed | off
  deriving DecidableEq, Repr

/-- The failed-start record (R59, R81), which power removal keeps, with what the next boot must know: that a start raised
`count` and no reason is recorded for it yet, that a thermal trip is still to be recorded. -/
structure FStart where
  why0  : BitVec 8
  why1  : BitVec 8
  why2  : BitVec 8
  count : Nat
  begun : Bool
  trip  : Bool
  deriving DecidableEq, Repr

/-- Per-die power state (R22, R60); `vcd` is the voltage in mV that the capping controller sets (R17). -/
structure DiePower where
  vcd   : Nat
  lim   : Nat
  step  : Nat
  gate  : Nat
  beyond : Bool
  therm : Bool
  watts : Nat
  below : Nat
  deriving DecidableEq, Repr

/-- The checkpoint or restore in progress (R83, R85). -/
structure Stream where
  restore : Bool
  href    : Word
  die     : Nat
  safe    : DWord
  size    : DWord
  started : Nat
  deriving DecidableEq, Repr

/-- The package, its boot and its management registers. `image` is the body that step 7 of R77 has loaded into every core die,
`directors` tells on which dies the Director has been started. -/
structure Package where
  part      : Part
  powered   : Bool
  rails     : BitVec 20
  dieReset  : Bool
  sensors   : SMap Word
  power     : SMap DiePower
  tripped   : Option (Nat × BitVec 16)
  thermN    : Bool
  fstart    : FStart
  tripTold  : Bool
  phase     : BootPhase
  mode      : Nat
  diesUp    : BitVec 8
  cause     : Nat
  imgVer    : Word
  goAt      : Nat
  mscmode   : BitVec 8
  mscActive : BitVec 8
  measure   : List Byte
  log       : List (Nat × Nat × List Byte)
  stream    : Option Stream
  image     : List Byte
  directors : BitVec 8
  deriving DecidableEq, Repr

/-- Who waits for an answer over the IHL: an operation of a group, or the completion increment of a launch. -/
inductive IhlOwner where
  | op (gid id : Nat)
  | increment (lid : Nat)
  deriving DecidableEq, Repr

/-- A write or read that the device has sent over the IHL (R32, R70): the bytes of a write, the address and leaf by which its group
stores, and what has come back for a read, with whether it was refused. `rmw` marks the read of an atomic (R159), with whether its
write has been acknowledged. -/
structure IhlAccess where
  addr  : Nat
  write : Bool
  owner : IhlOwner
  data  : List (Nat × Byte)
  reply : Option (Line × Bool)
  va    : VA
  leaf  : DWord
  rmw   : Option Bool
  deriving DecidableEq, Repr

/-- What the host has asked for in order (R61, R63): accesses of the memory window, and accepted cues that wait for the writes before
them to be performed. `txn` numbers the transaction that the answer carries (R32). -/
inductive HostReq where
  | read (va : VA) (txn : Word)
  | write (va : VA) (bytes : List (Nat × Byte)) (txn : Word)
  | cue (die : Nat) (cue : List Byte)
  deriving DecidableEq, Repr

/-- The host interface (R58 to R74). `window` is what waits for its turn at the memory window, `waitEvts` are the events of Directors
that wait for room in the hold. `replies` is what the host has been answered, newest last; `attests` are
the ATTEST cues that IO0 has accepted and not answered; `intr` says that an interrupt is due, `intrAt` from when on it may be
sent, `intrs` how many have been. -/
structure HostIf where
  mem       : Memory
  cueRcvd   : Word
  cueDup    : Word
  refused   : Bool
  evtNext   : Word
  evtSent   : Word
  evtAck    : Word
  baseLo    : Word
  baseHi    : Word
  size      : Word
  ringOk    : Bool
  hold      : List (List Byte)
  dropped   : Nat
  store     : List (List Byte)
  replayAt  : Option Word
  intr      : Bool
  intrAt    : Nat
  intrs     : Nat
  attests   : List (List Byte)
  hmwSel    : Nat
  imgLo     : Word
  imgHi     : Word
  imgLen    : Word
  replies   : List (List Byte)
  inFlight  : List IhlAccess
  window    : List HostReq
  waitEvts  : List (List Byte)
  deriving DecidableEq, Repr

/-! ### Links and the fabric (R30 to R57) -/

/-- One end of a link (R31 to R35); `askDue` is a retry request that waits for room in the replay buffer. -/
structure Link where
  up      : Bool
  train   : Bool
  seqNext : BitVec 16
  expect  : BitVec 16
  acked   : BitVec 16
  replay  : List (List Byte)
  outbox  : List (List Byte)
  inbox   : List (List Byte)
  credit  : SMap Nat
  owed    : SMap Nat
  retryOf : BitVec 16
  retries : Nat
  trains  : Nat
  failed  : Nat
  width   : Nat
  askDue  : Bool
  deriving DecidableEq, Repr

/-- A slot of the home table (R37, R50, R66). -/
structure HomeSlot where
  ident : BitVec 8
  live  : Bool
  dead  : Bool
  deriving DecidableEq, Repr

/-- A directory entry of a Flyloft (R39). -/
structure DirEntry where
  age  : Nat
  st   : DirState
  busy : Bool
  gla  : LineAddr
  own  : Device
  shv  : BitVec 64
  deriving DecidableEq, Repr

/-- A transaction in progress at a Flyloft (R42, R45, R46, R49): what it was asked, the ports whose acknowledgements it
awaits, the owner it has forwarded to, the data it has and whether an owner gave it dirty, whether a note is still to be
acknowledged, the line that it evicts first. Where this device stands with others behind one port, the peer at that port answers
after all of them (R40): `selfDue` tells that it awaits this device, `restDue` that it awaits another one. -/
structure Txn where
  req     : FabReq
  owning  : Bool
  acks    : BitVec 64
  selfDue : Bool
  restDue : Bool
  owner   : Option Device
  data    : Option Line
  dirty   : Bool
  noteDue : Bool
  evict   : Option LineAddr
  deriving DecidableEq, Repr

/-- A Flyloft in one home-table slot: directory, transactions, waiting requests, ownership notes held for other
primaries, how many of its own notes of a line have no acknowledgement yet, the messages it has sent to other devices, the evictions it has counted. -/
structure Switch where
  dir     : SMap (Option DirEntry)
  txns    : SMap (Option Txn)
  waiting : List (Bool × FabReq)
  notes   : SMap (Option (Device × DirState))
  unacked : SMap Nat
  sent    : List (Device × List Byte)
  evicted : Nat
  deriving DecidableEq, Repr

/-- A system-scope line held by this device, or its pending miss (R40, R47): `miss` tells whether ownership is asked for,
`waited` when it was asked for or last noticed, `wbWait` that a writeback is not acknowledged. -/
structure SysLine where
  st     : DirState
  data   : Line
  miss   : Option Bool
  waited : Nat
  wbWait : Bool
  deriving DecidableEq, Repr

/-- A recovery sweep at this home device (R51, R52): its chunks, first the one that is broadcast, each by its first and last line; the
devices that have still to acknowledge that chunk, the lines written back, when it began, the transaction in which its chunk was
broadcast. -/
structure Sweep where
  slot    : Nat
  chunks  : List (LineAddr × LineAddr)
  awaited : BitVec 256
  written : Nat
  started : Nat
  txn     : Word
  deriving DecidableEq, Repr

/-- The sweeps of the other home devices for a lost switch, as this device knows them (R52): the chunks that it has acknowledged and that
are not known to be complete, those that are, and whether the sweeps have ended. -/
structure Abroad where
  slot   : Nat
  swept  : List (LineAddr × LineAddr)
  served : List (LineAddr × LineAddr)
  ended  : Bool
  deriving DecidableEq, Repr

/-- A message on its way between this device and the switches, or between switches (R32); `peerAck` is this device's acknowledgement
of an invalidation to the peer switch that its port shares (R40). -/
inductive FabMsg where
  | read (slot : Nat) (r : FabReq)
  | own (slot : Nat) (r : FabReq)
  | writeback (slot : Nat) (r : FabReq) (line : Line)
  | note (alt prim : Nat) (g : LineAddr) (own : Device) (st : DirState)
  | noteAck (prim : Nat) (g : LineAddr)
  | invAck (slot : Nat) (g : LineAddr) (port : Nat)
  | peerAck (slot : Nat) (g : LineAddr)
  | ownerData (slot : Nat) (g : LineAddr) (dev : Device) (dirty : Bool) (line : Line)
  | noCopy (slot : Nat) (g : LineAddr) (dev : Device)
  | grant (g : LineAddr) (st : DirState) (line : Line)
  | grantBare (g : LineAddr)
  | inval (slot : Nat) (g : LineAddr)
  | fwdRead (slot : Nat) (g : LineAddr)
  | fwdInv (slot : Nat) (g : LineAddr)
  | wbAck (g : LineAddr)
  | notice (g : LineAddr)
  | sweep (first last : LineAddr) (lost : Nat) (txn : Word)
  | sweepAck (dev : Device) (txn : Word)
  deriving DecidableEq, Repr

/-- Partition configuration (R66); `hasHdr`, `hasMembers`, `homeSet` and `hasPorts` tell which blocks are staged. -/
structure PartCfg where
  devno   : Device
  count   : Nat
  n       : Nat
  gen     : DWord
  members : BitVec 256
  homes   : SMap HomeSlot
  ports   : SMap (BitVec 16)
  hasHdr  : Bool
  hasMembers : Bool
  homeSet : BitVec 4
  hasPorts : Bool
  deriving DecidableEq, Repr

/-- The fabric as this device sees it, and the Flyloft switches. `remote` is the memory of other devices; `unsent` lists the
lost switches whose notes have not been sent again (R53), `away` marks the devices that cannot be reached (R54), `abroad` the lost
switches for which other home devices still sweep (R52), `wire` the messages on their way, `sent` those this device has sent to
other devices, `nextTxn` the number of its next transaction (R32). -/
structure Fabric where
  cfg      : PartCfg
  staged   : PartCfg
  inForce  : Bool
  fenced   : Bool
  sweeps   : List Sweep
  unsent   : List Nat
  away     : BitVec 256
  abroad   : List Abroad
  wire     : List FabMsg
  lines    : SMap (Option SysLine)
  remote   : Memory
  switches : SMap Switch
  seqSlot  : Nat
  ticket   : Nat
  sent     : List (List Byte)
  nextTxn  : Word
  deriving DecidableEq, Repr

/-! ### Device memory (R95, R98, R99, R112, R113) -/

/-- The span of an invalidation (R98). -/
inductive Span where
  | page (ctx : Ctx) (va : VA)
  | context (ctx : Ctx)
  | all
  deriving DecidableEq, Repr

/-- Where a poisoned line was lost (R69, event 0x21); `shared` marks a range lost with a device out of reach, which is of the
partition-shared row whatever maps it (R54). -/
structure Poison where
  ctx    : Ctx
  va     : VA
  wher   : Nat
  shared : Bool
  deriving DecidableEq, Repr

/-- A line of the memory-side cache (R106 to R108): the location of its first byte, the 64-byte sectors that it holds and those that
are dirty. A line of native mode has two sectors. -/
structure MscLine where
  tag   : Nat
  valid : BitVec 32
  dirty : BitVec 32
  deriving DecidableEq, Repr

/-- Where a copy of a line stands: in the L2 of a die, in the memory-side cache, in DRAM (R112). -/
inductive EccPlace where
  | l2 (die : Nat) | baseDie | dram
  deriving DecidableEq, Repr

/-- An error that ECC meets when the copy of a line at a place is read (R112, R113). -/
structure Flaw where
  place : EccPlace
  line  : Nat
  bad   : Bool
  deriving DecidableEq, Repr

/-- Device memory, translation and containment. `dram` is the coherent value of each location: the home slice, the
memory-side cache and the DRAM hold one value between them (R106, R129). `msc` lists the lines of each set of the memory-side caches, the
least recently touched first, `foot` what their predictors have recorded. `flaws` are errors that nothing has met yet, `corr`
the times of each channel's corrections within the last second, `quiet` until when it reports none. `diePool` and `pkgPool` count the frames that the Director
has taken from the top of each pool, `freed` lists those that it has taken back, by pool and frame; `mapping` the pages that it has mapped on a
request, whose invalidation it awaits (R435). -/
structure DevMem where
  dram    : Memory
  tcache  : SMap DWord
  ctxtab  : DWord
  mbound  : Nat
  xiva    : DWord
  xiBusy  : Bool
  xiNow   : Option Span
  xiWait  : List Span
  poison  : SMap (Option Poison)
  corr    : SMap (List Nat)
  quiet   : SMap Nat
  msc     : SMap (List MscLine)
  foot    : SMap (BitVec 32)
  flaws   : List Flaw
  diePool : SMap Nat
  pkgPool : Nat
  freed   : List (Nat × Nat)
  retired : List (Nat × Nat)
  mapping : List (Ctx × VA)
  resets  : Nat
  deriving DecidableEq, Repr

/-! ### The state -/

/-- The slot that issues now: the group, its program-counter slot, the words its run has issued, whether a load was among
them (R210, R213). -/
structure Cursor where
  gid   : Nat
  sel   : PcSel
  count : Nat
  load  : Bool
  deriving DecidableEq, Repr

/-- The machine's state. -/
structure State where
  pkg      : Package
  host     : HostIf
  links    : SMap Link
  fab      : Fabric
  mem      : DevMem
  banks    : SMap (Option Bank)
  bankMem  : Memory
  cores    : SMap Core
  quarters : SMap Quarter
  slices   : SMap Slice
  l2       : SMap (Option L2Line)
  dieDir   : SMap (Option DieDir)
  asks     : List SliceReq
  arenas   : List Arena
  dies     : SMap DieState
  contexts : SMap (Option Context)
  launches : SMap (Option Launch)
  teams    : SMap (Option Team)
  groups   : SMap (Option Group)
  specs    : SMap (Option Group)
  pkgTick  : Nat
  pairTick : SMap Nat
  clk      : Nat
  agenda   : List Instr
  cur      : Option Cursor
  freeCtr  : Nat
  deriving DecidableEq, Repr

/-! ### The values at reset -/

/-- A die's power state at reset (R21, R60). -/
def DiePower.reset : DiePower :=
  { vcd := 900, lim := 270, step := 0, gate := 0, beyond := false, therm := false, watts := 0, below := 0 }

/-- A core at reset (R132). -/
def Core.reset : Core :=
  { ct := 0, l1 := [], uwt := [], active := none, shadows := [], inMem := [], switching := false,
    claim := none }

/-- A quarter at reset: nothing issued yet, so that slot 0 comes first; L = 8 (R212). -/
def Quarter.reset : Quarter := { last := 15, limit := 8, hits := 0, winStart := 0, unit := none }

/-- A slice at reset (R132). -/
def Slice.reset : Slice := { base := 0, mrts := 0, sweep := false, ticket := 0 }

/-- A die's units at reset (R198, R214). -/
def DieState.reset : DieState :=
  { cues := [], hw := [], queues := [], launchCount := 0, llthr := 32, hvec := 0, hsav := 0, cimtab := 0, banksel := 0,
    kills := [], placeAt := 0, image := [] }

/-- A bank at device start: cache mode, serving core n mod 2 of its pair (R119). -/
def Bank.reset (bank : Nat) : Bank :=
  { mode := .cache, core := bank % 2, fifo := 0, clm := none, drn := false, next := none }

/-- A link before it is brought up. -/
def Link.reset : Link :=
  { up := false, train := false, seqNext := 0, expect := 0, acked := 0, replay := [], outbox := [], inbox := [],
    credit := [], owed := [], retryOf := 0, retries := 0, trains := 0, failed := 0, width := 0,
    askDue := false }

/-- A home-table slot before any partition configuration. -/
def HomeSlot.reset : HomeSlot := { ident := 0, live := false, dead := false }

/-- A switch with nothing in its directory. -/
def Switch.reset : Switch := { dir := [], txns := [], waiting := [], notes := [], unacked := [], sent := [], evicted := 0 }

/-- No partition configuration. -/
def PartCfg.reset : PartCfg :=
  { devno := 0, count := 0, n := 0, gen := 0, members := 0, homes := [], ports := [], hasHdr := false, hasMembers := false,
    homeSet := 0, hasPorts := false }

/-- The fabric before any partition configuration (R57). -/
def Fabric.reset : Fabric :=
  { cfg := .reset, staged := .reset, inForce := false, fenced := false, sweeps := [], unsent := [], away := 0, abroad := [],
    wire := [], lines := [], remote := [], switches := [], seqSlot := 0, ticket := 0, sent := [], nextTxn := 0 }

/-- Device memory at power-up (R98). -/
def DevMem.reset : DevMem :=
  { dram := [], tcache := [], ctxtab := 0, mbound := 0, xiva := 0, xiBusy := false, xiNow := none, xiWait := [],
    poison := [], corr := [], quiet := [], msc := [], foot := [], flaws := [], diePool := [], pkgPool := 0, freed := [], retired := [],
    mapping := [], resets := 0 }

/-- The host interface at power-up (R59, R63, R72, R75). -/
def HostIf.reset : HostIf :=
  { mem := [], cueRcvd := 0, cueDup := 0, refused := false, evtNext := 1, evtSent := 0, evtAck := 0, baseLo := 0,
    baseHi := 0, size := 0, ringOk := false, hold := [], dropped := 0, store := [], replayAt := none, intr := false,
    intrAt := 0, intrs := 0, attests := [], hmwSel := 0, imgLo := 0, imgHi := 0, imgLen := 0, replies := [], inFlight := [],
    window := [], waitEvts := [] }

/-- The package when power has been applied and no rail is in range yet; `hstat.mode` reads its reset value 1 (R59). -/
def Package.reset (part : Part) (f : FStart) : Package :=
  { part := part, powered := true, rails := 0, dieReset := true, sensors := [], power := [], tripped := none, thermN := false,
    fstart := f, tripTold := false, phase := .rails, mode := 1, diesUp := 0, cause := 0, imgVer := 0, goAt := 0,
    mscmode := 0, mscActive := 0, measure := [], log := [], stream := none, image := [], directors := 0 }

/-- A package of a part at power-up with the failed-start record `f`, which power removal keeps (R19). -/
def State.powerUp (part : Part) (f : FStart) : State :=
  { pkg := .reset part f, host := .reset, links := [], fab := .reset, mem := .reset, banks := [], bankMem := [], cores := [],
    quarters := [], slices := [], l2 := [], dieDir := [], asks := [], arenas := [], dies := [], contexts := [], launches := [],
    teams := [], groups := [], specs := [], pkgTick := 0, pairTick := [], clk := 0, agenda := [], cur := none,
    freeCtr := 0 }

/-- The machine right after reset: an MZ880-1T (DESIGN CHOICE, log 14), power applied, a failed-start record that counts no failed
start. -/
def State.reset : State := .powerUp .mz880t1 { why0 := 0, why1 := 0, why2 := 0, count := 0, begun := false, trip := false }

end Sys2Proof.Machine
end

