-- ==== Sys2Proof/Machine/Operands.lean ====
section
/-! DEFINITION. Operands: the registers of a group as words name them (R220 to R230, R305), memory operands (R393), and the
elements of packed types (R225). -/

namespace Sys2Proof.Machine

open Sys2Proof

/-! ### Widths and masks (R218) -/

/-- Lanes of a group: 32, 64 or 96. -/
def Group.lanes (g : Group) : Nat := 32 * (g.gwc + 1)

/-- Beats of a group: 1, 2 or 3. -/
def Group.beats (g : Group) : Nat := g.gwc + 1

/-- The lanes of the width. -/
def Group.full (g : Group) : Mask := BitVec.ofNat 96 (2 ^ g.lanes - 1)

/-- Lane `l` of a mask. -/
def lane (m : Mask) (l : Nat) : Bool := m.getLsbD l

/-- The lanes of a mask, in ascending order. -/
def lanesOf (m : Mask) : List Nat := (List.range 96).filter (fun l => m.getLsbD l)

/-- The mask of the lanes that a test accepts. -/
def maskOf (p : Nat → Bool) : Mask := BitVec.ofNat 96 ((List.range 96).foldl (fun a l => if p l then a + 2 ^ l else a) 0)

/-- Mask word k: lanes 32k to 32k + 31. -/
def maskWord (m : Mask) (k : Nat) : Word := m.extractLsb' (32 * k) 32

/-- Replace mask word k. -/
def setMaskWord (m : Mask) (k : Nat) (w : Word) : Mask :=
  (m &&& ~~~((0xFFFFFFFF#96) <<< (32 * k))) ||| (w.setWidth 96 <<< (32 * k))

/-! ### The mode register (R223) -/

/-- The element type in force, `m.t`. -/
def Group.ty (g : Group) : Nat := bits g.m 7 4

/-- `m.rm`. -/
def Group.rm (g : Group) : Rm := Rm.ofCode (bits g.m 9 8)

/-- `m.ftz`. -/
def Group.ftz (g : Group) : Bool := g.m.getLsbD 10

/-- `m.sati`. -/
def Group.sati (g : Group) : Bool := g.m.getLsbD 11

/-- `m.xe`, in the order of `fxf`. -/
def Group.xe (g : Group) : BitVec 5 := g.m.extractLsb' 12 5

/-- `m.mo`. -/
def Group.mo (g : Group) : Nat := bits g.m 19 17

/-- A value written to `m` with `gw` holding the group width code (R224). -/
def Group.modeWord (g : Group) (w : Word) : Word :=
  (w &&& 0xFFCFFFFF#32) ||| (BitVec.ofNat 32 g.gwc <<< 20)

/-! ### Program-counter slots (R229) -/

def Group.slotOf (g : Group) : PcSel → PcSlot
  | .a => g.slotA
  | .b => g.slotB

def Group.setSlot (g : Group) (sel : PcSel) (p : PcSlot) : Group :=
  match sel with
  | .a => { g with slotA := p }
  | .b => { g with slotB := p }

def otherSel : PcSel → PcSel
  | .a => .b
  | .b => .a

/-- The empty slot. -/
def PcSlot.none : PcSlot := { pc := 0, owned := 0, enable := 0, status := .empty, back := 0, sib := 0 }

/-- Move the PC of a slot. -/
def Group.setPc (g : Group) (sel : PcSel) (pc : VA) : Group := g.setSlot sel { g.slotOf sel with pc := pc }

/-- Lanes with `hc` = 0. -/
def Group.unheld (g : Group) : Mask := g.hc.foldl (fun m e => if e.2 = 0 then m else m &&& ~~~((1#96) <<< e.1)) (~~~0)

/-- The lanes of the running level whose EXIT waits for its release (R326). -/
def Group.leaving (g : Group) : Mask :=
  g.ops.foldl (fun m o => if o.kind = .exit ∧ o.done = false ∧ o.level = g.lvl then m ||| o.lanes else m) 0

/-- The lanes that the first word of a slot after an RTT may run (R105). -/
def Group.replayMask (g : Group) (sel : PcSel) : Mask := (g.slotOf sel).kept.replay.getD (~~~0)

/-- The enabled lanes of a slot with `hc` = 0, as R239 counts them: a replay and an EXIT that waits for its release take none away. -/
def Group.enabledFree (g : Group) (sel : PcSel) : Mask := (g.slotOf sel).enable &&& g.unheld

/-- `en0`: the enabled lanes of a slot with `hc` = 0 (R318), but for lanes that are leaving, and in a replay those that it leaves
out (R105). -/
def Group.en0 (g : Group) (sel : PcSel) : Mask :=
  g.enabledFree sel &&& ~~~g.leaving &&& g.replayMask sel

/-! ### Register reads -/

/-- Scalar register k, 0 to 31: `s28` to `s30` read the enable mask, `s31` reads zero (R220, R229). -/
def Group.sRead (g : Group) (sel : PcSel) (k : Nat) : Word :=
  if k = 31 then 0
  else if 28 ≤ k then maskWord (g.slotOf sel).enable (k - 28)
  else SMap.get 0 g.s k

/-- The scalar register of a field of kind S. -/
def Group.sField (g : Group) (sel : PcSel) (x : BitVec 7) : Word := g.sRead sel (x.toNat - 96)

/-- The pair of a field of kind SP; field 126 reads `am2` and zero (R305). -/
def Group.spField (g : Group) (sel : PcSel) (x : BitVec 7) : DWord :=
  pair64 (g.sRead sel (x.toNat - 95)) (g.sRead sel (x.toNat - 96))

/-- Predicate k; `p0` reads all ones (R220). -/
def Group.pRead (g : Group) (k : Nat) : Mask := if k = 0 then g.full else SMap.get 0 g.p k

/-- Lane l of vector register k. -/
def Group.vRead (g : Group) (k l : Nat) : Word := SMap.get 0 g.v (96 * k + l)

/-- The tag of vector register k; RAW is 15 (R225). -/
def Group.tagOf (g : Group) (k : Nat) : Nat := SMap.get 15 g.vtag k

/-- The key of slice b of tile t. -/
def sliceKey (t b : Nat) : Nat := 3 * t + b

/-- The key of row i of slice b of tile t. -/
def rowKey (t b i : Nat) : Nat := 32 * sliceKey t b + i

/-- The row of tile t that lane l holds (R222). -/
def Group.rowOf (g : Group) (t l : Nat) : Row := SMap.get 0 g.trow (rowKey t (l / 32) (l % 32))

/-- The tag of slice b of tile t; F32 at group start (R208). -/
def Group.sliceTag (g : Group) (t b : Nat) : Nat := SMap.get 2 g.ttag (sliceKey t b)

/-- The lanes that pass the guard (R226). -/
def Group.guard (g : Group) : Mask :=
  let p := g.pRead (bits g.m 2 0)
  if g.m.getLsbD 3 then ~~~p &&& g.full else p

/-- The executing lanes of a guarded word (R230). -/
def Group.exec (g : Group) (sel : PcSel) : Mask := g.en0 sel &&& g.guard

/-! ### Register writes -/

/-- Write scalar register k: `s28` to `s30` are masked with the owned mask, `s31` discards (R220, R229). -/
def Group.sWrite (g : Group) (sel : PcSel) (k : Nat) (w : Word) : Group :=
  if k = 31 then g
  else if 28 ≤ k then
    let p := g.slotOf sel
    g.setSlot sel { p with enable := setMaskWord p.enable (k - 28) w &&& p.owned }
  else { g with s := SMap.set 0 g.s k w }

/-- Write the register of a field of kind S. -/
def Group.sPut (g : Group) (sel : PcSel) (x : BitVec 7) (w : Word) : Group := g.sWrite sel (x.toNat - 96) w

/-- Write the pair of a field of kind SP. -/
def Group.spPut (g : Group) (sel : PcSel) (x : BitVec 7) (w : DWord) : Group :=
  (g.sWrite sel (x.toNat - 96) (lo32 w)).sWrite sel (x.toNat - 95) (hi32 w)

/-- Write predicate k in the lanes of a mask; `p0` discards (R305). -/
def Group.pWrite (g : Group) (k : Nat) (m : Mask) (v : Mask) : Group :=
  if k = 0 then g
  else { g with p := SMap.set 0 g.p k ((g.pRead k &&& ~~~m) ||| (v &&& m &&& g.full)) }

/-- Write one lane of vector register k. -/
def Group.vSet (g : Group) (k l : Nat) (w : Word) : Group := { g with v := SMap.set 0 g.v (96 * k + l) w }

/-- Write vector register k in the given lanes. -/
def Group.vWrite (g : Group) (k : Nat) (ls : List Nat) (val : Nat → Word) : Group :=
  { g with v := ls.foldl (fun m l => SMap.set 0 m (96 * k + l) (val l)) g.v }

/-- Set the tag of vector register k. -/
def Group.setTag (g : Group) (k t : Nat) : Group := { g with vtag := SMap.set 15 g.vtag k t }

/-- Set the tags of n registers from k on. -/
def Group.setTags (g : Group) (k t : Nat) : Nat → Group
  | 0 => g
  | n + 1 => (g.setTag k t).setTags (k + 1) t n

/-- Write the row of tile t that lane l holds. -/
def Group.setRow (g : Group) (t l : Nat) (r : Row) : Group :=
  { g with trow := SMap.set 0 g.trow (rowKey t (l / 32) (l % 32)) r }

/-- Set the tag of every slice of tile t (R370). -/
def Group.setSliceTags (g : Group) (t ty : Nat) : Group :=
  { g with ttag := (List.range g.beats).foldl (fun m b => SMap.set 2 m (sliceKey t b) ty) g.ttag }

/-! ### Operands of words (R304, R305, R346) -/

/-- The 32-bit value of a VS operand in a lane. -/
def Group.vs (g : Group) (sel : PcSel) (x : BitVec 7) (l : Nat) : Word :=
  if isS x then g.sField sel x else g.vRead x.toNat l

/-- Operand B as a 32-bit value in a lane: register or literal. -/
def Group.opB (g : Group) (sel : PcSel) (f : Fields) (l : Nat) : Word := if f.l then f.lit else g.vs sel f.b l

/-- Operand B of a scalar word: register or literal. -/
def Group.sB (g : Group) (sel : PcSel) (f : Fields) : Word := if f.l then f.lit else g.sField sel f.b

/-- A literal as an F64: the word read as F32 and widened exactly (R304). -/
def widenLit (w : Word) : DWord := BitVec.ofNat 64 (Fmt.f64.encode (Fmt.f32.decode w.toNat))

/-- A literal as a 64-bit operand of type `ty`: an integer pair is sign-extended, an F64 is widened (R304). -/
def lit64 (ty : Nat) (w : Word) : DWord := if ty = 12 then widenLit w else w.signExtend 64

/-- The value of vector register pair k in a lane. -/
def Group.vPair (g : Group) (k l : Nat) : DWord := pair64 (g.vRead (k + 1) l) (g.vRead k l)

/-- The element-holding value of operand field `x` in a lane for type `ty`: 32 bits, or a pair for a 64-bit type. -/
def Group.typed (g : Group) (sel : PcSel) (ty : Nat) (x : BitVec 7) (l : Nat) : Nat :=
  if wide ty then (if isS x then g.spField sel x else g.vPair x.toNat l).toNat else (g.vs sel x l).toNat

/-- Operand B, register or literal, for type `ty`. -/
def Group.typedB (g : Group) (sel : PcSel) (ty : Nat) (f : Fields) (l : Nat) : Nat :=
  if f.l then (if wide ty then (lit64 ty f.lit).toNat else f.lit.toNat) else g.typed sel ty f.b l

/-- Element k of a register value (R225). -/
def elem (ty : Nat) (x k : Nat) : Nat := x / 2 ^ (elemBits ty * k) % 2 ^ elemBits ty

/-- A register value from its elements, element 0 lowest. -/
def packElems (ty : Nat) : List Nat → Nat
  | [] => 0
  | e :: es => e % 2 ^ elemBits ty + 2 ^ elemBits ty * packElems ty es

/-- Write a 32-bit or pair destination of type `ty` in the given lanes and set its tags. -/
def Group.putTyped (g : Group) (ty : Nat) (k : Nat) (ls : List Nat) (val : Nat → Nat) : Group :=
  if wide ty then
    let g1 := g.vWrite k ls (fun l => BitVec.ofNat 32 (val l))
    let g2 := g1.vWrite (k + 1) ls (fun l => BitVec.ofNat 32 (val l / 2 ^ 32))
    g2.setTags k ty 2
  else (g.vWrite k ls (fun l => BitVec.ofNat 32 (val l))).setTag k ty

/-! ### Memory operands (R393) -/

/-- The base of a memory operand in a lane. -/
def Group.base (g : Group) (sel : PcSel) (x : BitVec 7) (l : Nat) : DWord :=
  if isS x then g.spField sel x else g.vPair x.toNat l

/-- The offset of a memory operand in a lane, sign-extended. -/
def Group.offset (g : Group) (sel : PcSel) (f : Fields) (l : Nat) : DWord := (g.opB sel f l).signExtend 64

/-- The effective address of a lane: the sum modulo 2^64, of which the access uses bits [51:0]. -/
def Group.ea (g : Group) (sel : PcSel) (f : Fields) (l : Nat) : VA :=
  (g.base sel f.a l + g.offset sel f l).setWidth 52

/-- The address of a pair, bits [51:0]. -/
def vaOf (x : DWord) : VA := x.setWidth 52

end Sys2Proof.Machine

namespace Sys2Proof

open Machine

/-! ### Run lengths of register operands (R221, R313, R346) -/

/-- How many vector registers an operand field names from its base on. -/
def Kind.vlen (k : Kind) (ty : Nat) (f : Fields) (x : BitVec 7) : Nat :=
  match k with
  | .v => 1
  | .vp => 2
  | .vq => 4
  | .vT => if wide ty then 2 else 1
  | .vSrc => if wide f.cvtSource then 2 else 1
  | .vq64 => if wide ty then 4 else 2
  | .run n => n
  | .runE n => n / elems ty
  | .frag =>
    match fragRegs ty with
    | some (n, sc) => if f.x then n + sc else n
    | none => 1
  | .vs => if isS x then 0 else 1
  | .vsT => if isS x then 0 else if wide ty then 2 else 1
  | .base => if isS x then 0 else 2
  | .homeD => if isS x then 0 else 1
  | .homeB => if isS x then 0 else 2
  | _ => 0

/-- The scalar registers an operand field names: base and number. -/
def Kind.slen (k : Kind) (ty beats : Nat) (x : BitVec 7) : Nat :=
  match k with
  | .s => 1
  | .sp => 2
  | .sTo m => if m = 124 then 4 else 3
  | .sBeats => beats
  | .quad => 4
  | .vs => if isS x then 1 else 0
  | .vsT => if isS x then (if wide ty then 2 else 1) else 0
  | .base => if isS x then 2 else 0
  | .homeD => if isS x then 1 else 0
  | .homeB => if isS x then 2 else 0
  | _ => 0

/-- The operands of a word with their fields; B is no register when a literal stands for it. -/
def Op.operands (op : Op) (f : Fields) : List (Kind × BitVec 7) :=
  [(op.d, f.d), (op.a, f.a)] ++ (if f.l then [] else [(op.b, f.b)])

/-- The control word of a word that has one: its literal, or the scalar in B. -/
def Op.control (op : Op) (f : Fields) (g : Group) (sel : PcSel) : Word :=
  if op.ctl = .none then 0 else g.sB sel f

/-- The vector registers that an operand names: base field and number. TFRAG and TFILL take the number from their control
word (R381). -/
def Op.vrun (op : Op) (f : Fields) (g : Group) (sel : PcSel) (o : Kind × BitVec 7) : Nat × Nat :=
  let n := o.1.vlen g.ty f o.2
  (o.2.toNat, if op.ctl = .frag && n == 1 then bits (op.control f g sel) 10 5 else n)

/-- Every register that a word names, for the scoreboard (R240); QBLK names its scale register in the control word (R363). -/
def Op.named (op : Op) (f : Fields) (g : Group) (sel : PcSel) : List RegRef :=
  (if op.ctl = .qblk ∨ op.ctl = .qblkn then [.v (bits (op.control f g sel) 6 0)] else []) ++
  (op.operands f).flatMap fun o =>
    let (r, n) := op.vrun f g sel o
    (List.range n).map (fun k => RegRef.v (r + k)) ++
    (List.range (o.1.slen g.ty g.beats o.2)).map (fun k => RegRef.s (o.2.toNat - 96 + k)) ++
    (match o.1 with
     | .p => [.p o.2.toNat]
     | .t => [.t o.2.toNat]
     | _ => [])

end Sys2Proof
end

