-- ==== Sys2Proof/Machine/Ops.lean ====
section
/-! DEFINITION. Named operations over the state: lookups and updates of its parts, taking a trap and returning from one
(R245 to R254), killing a group and escalating a context (R238, R254, R255), emptying a program-counter slot (R235). -/

namespace Sys2Proof.Machine

open Sys2Proof

/-! ### Keys -/

/-- The key of a group slot: slot s of a quarter of a core of a die. -/
def gidOf (die core quarter slot : Nat) : Nat := ((die * 64 + core) * 4 + quarter) * 16 + slot

/-- The key of a core. -/
def coreKey (die core : Nat) : Nat := die * 64 + core

/-- The key of a quarter. -/
def quarterKey (core quarter : Nat) : Nat := core * 4 + quarter

/-- The key of a group's own place. -/
def Group.gid (g : Group) : Nat := gidOf g.die g.core g.quarter g.slot

/-- The key of a group's core. -/
def Group.coreId (g : Group) : Nat := coreKey g.die g.core

/-- The key of a group's core pair. -/
def Group.pairId (g : Group) : Nat := g.coreId / 2

/-- The key of team `idx` of a launch. -/
def teamKey (lid : Word) (idx : Nat) : Nat := lid.toNat * 2 ^ 32 + idx

/-- The key of the team that a group belongs to. -/
def Group.teamId (g : Group) : Nat := teamKey g.lid g.team

/-! ### Lookups and updates -/

def State.group? (s : State) (gid : Nat) : Option Group := SMap.get none s.groups gid

def State.setGroup (s : State) (gid : Nat) (g : Group) : State :=
  { s with groups := SMap.set none s.groups gid (some g) }

def State.removeGroup (s : State) (gid : Nat) : State := { s with groups := SMap.set none s.groups gid none }

def State.core (s : State) (k : Nat) : Core := SMap.get Core.reset s.cores k

def State.setCore (s : State) (k : Nat) (c : Core) : State := { s with cores := SMap.set Core.reset s.cores k c }

def State.quarter (s : State) (k : Nat) : Quarter := SMap.get Quarter.reset s.quarters k

def State.setQuarter (s : State) (k : Nat) (q : Quarter) : State :=
  { s with quarters := SMap.set Quarter.reset s.quarters k q }

def State.slice (s : State) (k : Nat) : Slice := SMap.get Slice.reset s.slices k

def State.setSlice (s : State) (k : Nat) (x : Slice) : State := { s with slices := SMap.set Slice.reset s.slices k x }

def State.die (s : State) (d : Nat) : DieState := SMap.get DieState.reset s.dies d

def State.setDie (s : State) (d : Nat) (x : DieState) : State := { s with dies := SMap.set DieState.reset s.dies d x }

def State.context? (s : State) (c : Nat) : Option Context := SMap.get none s.contexts c

def State.setContext (s : State) (c : Nat) (x : Context) : State :=
  { s with contexts := SMap.set none s.contexts c (some x) }

def State.removeContext (s : State) (c : Nat) : State := { s with contexts := SMap.set none s.contexts c none }

def State.launch? (s : State) (lid : Nat) : Option Launch := SMap.get none s.launches lid

def State.setLaunch (s : State) (lid : Nat) (x : Launch) : State :=
  { s with launches := SMap.set none s.launches lid (some x) }

def State.removeLaunch (s : State) (lid : Nat) : State := { s with launches := SMap.set none s.launches lid none }

def State.team? (s : State) (k : Nat) : Option Team := SMap.get none s.teams k

def State.setTeam (s : State) (k : Nat) (t : Team) : State := { s with teams := SMap.set none s.teams k (some t) }

def State.removeTeam (s : State) (k : Nat) : State := { s with teams := SMap.set none s.teams k none }

/-- The key of a bank: bank n of a core pair. -/
def bankKey (pair bank : Nat) : Nat := pair * 64 + bank

/-- A bank; one that nothing has configured is as at device start (R119). -/
def State.bank (s : State) (k : Nat) : Bank := (SMap.get none s.banks k).getD (Bank.reset (k % 64))

def State.setBank (s : State) (k : Nat) (b : Bank) : State :=
  { s with banks := SMap.set none s.banks k (if b = Bank.reset (k % 64) then none else some b) }

/-- The issuing slot, unless it is one of group `gid`. -/
def State.curWithout (s : State) (gid : Nat) : Option Cursor :=
  match s.cur with
  | some c => if c.gid = gid then none else some c
  | none => none

/-- Add an event that lands after those already waiting (DESIGN CHOICE, log 3). -/
def State.post (s : State) (e : Instr) : State := { s with agenda := s.agenda ++ [e] }

/-- The resident groups that a test accepts, in key order. -/
def State.groupsWhere (s : State) (p : Group → Bool) : List (Nat × Group) :=
  s.groups.filterMap fun e =>
    match e.2 with
    | some g => if p g then some (e.1, g) else none
    | none => none

/-- The launches that a test accepts, in key order. -/
def State.launchesWhere (s : State) (p : Launch → Bool) : List (Nat × Launch) :=
  s.launches.filterMap fun e =>
    match e.2 with
    | some l => if p l then some (e.1, l) else none
    | none => none

/-- The teams that a test accepts, in key order. -/
def State.teamsWhere (s : State) (p : Team → Bool) : List (Nat × Team) :=
  s.teams.filterMap fun e =>
    match e.2 with
    | some t => if p t then some (e.1, t) else none
    | none => none

/-- The next free value, and the state with its counter advanced (DESIGN CHOICE, log 10). -/
def State.free (s : State) : BitVec 1024 × State := (Config.freeValue s.freeCtr, { s with freeCtr := s.freeCtr + 1 })

/-- Only a package that has power does it (R19). -/
def State.ifPowered (s : State) (h : State → State) : State := if s.pkg.powered then h s else s

/-- The number of the IHL among the links (R69). -/
def ihl : Nat := 0

def State.link (s : State) (n : Nat) : Link := SMap.get Link.reset s.links n

/-- The IHL carries traffic. -/
def State.ihlUp (s : State) : Bool := (s.link ihl).up && !(s.link ihl).train

/-- C of this part in MiB (R95). -/
def State.channelMiB (s : State) : Nat := s.pkg.part.channelMiB

/-- Memory of each core die in MiB (R2, R85). -/
def State.dieMiB (s : State) : Nat := 64 * s.channelMiB

/-- Whether instruction words can run: power on, dies out of reset, no thermal trip (R18, R27). -/
def State.running (s : State) : Bool := s.pkg.powered && !s.pkg.dieReset && s.pkg.tripped.isNone

/-- The bytes of a 64-bit value, lowest first. -/
def bytes64 (x : DWord) : List Byte := bytesOfWord (lo32 x) ++ bytesOfWord (hi32 x)

/-- The first n bytes of a number, lowest first. -/
def bytesNat (n x : Nat) : List Byte := (List.range n).map (fun k => BitVec.ofNat 8 (x / 2 ^ (8 * k)))

/-- A number from its bytes, lowest first. -/
def natOfBytes : List Byte → Nat
  | [] => 0
  | b :: bs => b.toNat + 256 * natOfBytes bs

/-- Bytes `off` to `off + n − 1` of a list as a number. -/
def field (bs : List Byte) (off n : Nat) : Nat := natOfBytes ((bs.drop off).take n)

/-- A list cut or padded with zeros to n bytes. -/
def padTo (n : Nat) (bs : List Byte) : List Byte := (bs ++ List.replicate (n - bs.length) 0).take n

/-- The element of a list with the least key, the first among equals. -/
def leastBy (key : Nat → Nat) : List Nat → Option Nat
  | [] => none
  | x :: xs => some (xs.foldl (fun a y => if key y < key a then y else a) x)

/-! ### Causes (R257) -/

namespace Cause
def illegalOp : Nat := 0x01
def illegalField : Nat := 0x02
def privileged : Nat := 0x03
def formatTag : Nat := 0x04
def convergence : Nat := 0x05
def splitOverflow : Nat := 0x06
def nestOverflow : Nat := 0x07
def uncheckedWatch : Nat := 0x08
def regRange : Nat := 0x09
def misaligned : Nat := 0x0A
def translation : Nat := 0x0B
def protection : Nat := 0x0C
def apertureWrite : Nat := 0x0D
def scratchRange : Nat := 0x0E
def window : Nat := 0x0F
def intDiv0 : Nat := 0x10
def fpInvalid : Nat := 0x11
def cvtOverflow : Nat := 0x16
def mmaType : Nat := 0x17
def fftPlan : Nat := 0x18
def arena : Nat := 0x19
def arenaFull : Nat := 0x1A
def vertexId : Nat := 0x1B
def bvhNode : Nat := 0x1C
def launch : Nat := 0x1D
def cue : Nat := 0x1E
def bankConfig : Nat := 0x1F
def uncorrectable : Nat := 0x20
def breakpoint : Nat := 0x21
def step : Nat := 0x22
def watchdog : Nat := 0x23
def copyFault : Nat := 0x24
def asyncFault : Nat := 0x25
def fifo : Nat := 0x26
def firmware : Nat := 0x30
def trap : Nat := 0x38
end Cause

/-- The kinds of a cause (R251). -/
inductive TrapKind where
  | before | after | next | late
  deriving DecidableEq, Repr

/-- The kind of each cause (R257). -/
def kindOf (cause : Nat) : TrapKind :=
  if 0x10 ≤ cause ∧ cause ≤ 0x16 then .after
  else if (0x19 ≤ cause ∧ cause ≤ 0x1C) ∨ cause = 0x24 ∨ cause = 0x25 then .late
  else if cause = 0x22 ∨ cause = 0x23 ∨ 0x30 ≤ cause then .next
  else .before

/-- What a trap reports: its cause, `tmask`, `taddr` and `tinfo`; `free` marks bits of `tinfo` that the spec leaves open
(DESIGN CHOICE, log 10). -/
structure TrapInfo where
  cause : Nat
  mask  : Mask
  addr  : VA := 0
  info  : Word := 0
  free  : Word := 0
  deriving DecidableEq, Repr

/-! ### Trap entry and RTT (R246, R248, R253) -/

/-- The control bank of level k, 0 or 1; level 2 is never banked. -/
def Group.bank (g : Group) (k : Nat) : CtlBank := if k = 0 then g.bank0 else g.bank1

/-- The trap bank of level k, 1 or 2. -/
def Group.trapBank (g : Group) (k : Nat) : TrapBank := if k = 1 then g.trap1 else g.trap2

def Group.setTrapBank (g : Group) (k : Nat) (t : TrapBank) : Group :=
  if k = 1 then { g with trap1 := t } else { g with trap2 := t }

/-- Whether `troute` routes a cause to the user vector (R248). -/
def Group.routed (g : Group) (cause : Nat) : Bool :=
  if 0x10 ≤ cause ∧ cause ≤ 0x16 then g.troute.getLsbD (8 + (cause - 0x10))
  else if cause = Cause.breakpoint then g.troute.getLsbD 15
  else if 0x38 ≤ cause ∧ cause ≤ 0x3F then g.troute.getLsbD (cause - 0x38)
  else false

/-- The cause goes to `tvec_user`. -/
def Group.toUser (g : Group) (cause : Nat) : Bool := g.routed cause && g.tvecUser != 0

/-- The chosen vector (R248). -/
def Group.vector (g : Group) (cause : Nat) : VA := if g.toUser cause then g.tvecUser else g.tvecDev

/-- Privileged code: the level is privileged (R248). -/
def Group.privileged (g : Group) : Bool := g.pv

/-- `s26:s27` of a group. -/
def Group.setS2627 (g : Group) (x : DWord) : Group :=
  { g with s := SMap.set 0 (SMap.set 0 g.s 26 (lo32 x)) 27 (hi32 x) }

/-- A slot of which a demotion has ended: the counts restart (R236). -/
def PcSlot.undemote (p : PcSlot) : PcSlot :=
  if p.status = .demoted then { p with status := .ready, back := 0, sib := 0 } else p

/-- Bring the watchdog count of the running level up to date: it counts every clock that the group runs at that level (R256). -/
def Group.wdTick (g : Group) (clk : Nat) : Group :=
  { g with
    wd1 := if g.lvl = 1 then g.wd1 + (clk - g.wdAt) else g.wd1
    wd2 := if g.lvl = 2 then g.wd2 + (clk - g.wdAt) else g.wd2
    wdAt := clk }

/-- The level whose watchdog count has run out (R256). -/
def Group.watchdogDue (g : Group) (clk : Nat) : Option (Fin 3) :=
  if g.lvl = 1 ∧ 2 ^ 24 ≤ g.wd1 + (clk - g.wdAt) then some 1
  else if g.lvl = 2 ∧ 2 ^ 24 ≤ g.wd2 + (clk - g.wdAt) then some 2 else none

/-- What level L's bank keeps while a handler runs (R211, R245). -/
def Group.saved (g : Group) : CtlBank :=
  { hc := g.hc, hb := g.hb, slotA := g.slotA.undemote, slotB := g.slotB.undemote, mark := g.stack.length, m := g.m,
    s26 := SMap.get 0 g.s 26, s27 := SMap.get 0 g.s 27, ts := g.ts, pv := g.pv, nx := g.nextSel }

/-- Take a trap at level 0 or 1 with a nonzero vector: R246. -/
def Group.enter (g : Group) (sel : PcSel) (t : TrapInfo) (tret : VA) (word lit : Word) : Group :=
  let bank := g.saved
  let tb : TrapBank :=
    { cause := BitVec.ofNat 32 t.cause, ret := tret, mask := t.mask, addr := t.addr, word := word, lit := lit, mode := g.m,
      info := t.info }
  let g1 := (g.setTrapBank (g.lvl + 1) tb).setS2627 (g.tsave.setWidth 64 + BitVec.ofNat 64 (256 * g.lvl))
  { g1 with
    bank0 := if g.lvl = 0 then bank else g.bank0
    bank1 := if g.lvl = 0 then g.bank1 else bank
    lvl := g.lvl + 1
    pv := !g.toUser t.cause || g.ctx == 0
    ts := sel
    slotA := { pc := g.vector t.cause, owned := g.live, enable := g.live, status := .ready, back := 0, sib := 0 }
    slotB := .none
    nextSel := .a
    stalled := []
    longStall := false
    holdSel := none
    hc := g.hc.filter (fun e => !lane g.live e.1)
    hb := g.hb &&& ~~~g.live
    m := BitVec.ofNat 32 g.gwc <<< 20
    wd1 := if g.lvl = 0 then 0 else g.wd1
    wd2 := if g.lvl = 0 then g.wd2 else 0 }

/-- `tinfo` bit 0 of TRANSLATION and PROTECTION, `rpl` (R104) (DEDUCED, log 19). -/
def TrapBank.replays (t : TrapBank) : Bool :=
  (t.cause == BitVec.ofNat 32 Cause.translation || t.cause == BitVec.ofNat 32 Cause.protection) && t.info.getLsbD 0

/-- A group may issue again; one in a pending slot is ready from now on (R209). -/
def Group.unstall (g : Group) (clk : Nat) : Group :=
  { g with
    stalled := []
    longStall := false
    readyAt := if g.stalled.isEmpty then g.readyAt else clk }

/-- The groups that a test accepts may issue again. -/
def State.unstall (s : State) (p : Nat → Group → Bool) : State :=
  { s with groups := s.groups.map (fun (e : Nat × Option Group) =>
      (e.1, e.2.map (fun g => if p e.1 g then g.unstall s.clk else g))) }

/-! ### Emptying a slot (R235) -/

/-- The split-stack depth below which entries belong to lower levels. -/
def Group.mark (g : Group) : Nat := if g.lvl = 0 then 0 else (g.bank (g.lvl - 1)).mark

/-- A slot has become empty: a sibling waiting at JOIN passes it, and the top entry of this level is popped into the
empty slot (DEDUCED, log 18). -/
def Group.slotEmptied (g : Group) (sel : PcSel) : Group :=
  let o := (g.slotOf (otherSel sel)).undemote
  let o := if o.status = .joining then { o with pc := o.pc + 4, status := .ready } else o
  let g := (g.setSlot sel .none).setSlot (otherSel sel) o
  match g.stack with
  | e :: rest =>
    if g.mark < g.stack.length then
      { g.setSlot sel { pc := e.pc, owned := e.owned, enable := e.enable, status := .ready, back := 0, sib := 0, kept := e.kept } with
        stack := rest }
    else g
  | [] => g

/-- Empty every slot of the running level that owns no lane any more. -/
def Group.emptied (g : Group) : Group :=
  let one := fun (g : Group) (sel : PcSel) =>
    if (g.slotOf sel).status != .empty && (g.slotOf sel).owned == 0 then g.slotEmptied sel else g
  one (one g .a) .b

/-- A slot without some lanes. -/
def PcSlot.without (p : PcSlot) (m : Mask) : PcSlot :=
  { p with
    owned := p.owned &&& ~~~m
    enable := p.enable &&& ~~~m }

/-- Lanes leave the live mask and the owned and enable masks of their slots, at every level; slots that this empties follow R235, those
of a lower level when it is returned to (R237, R326). -/
def Group.leave (g : Group) (m : Mask) : Group :=
  let thin := fun (xs : List StackEntry) => (xs.map (fun e => { e with
    owned := e.owned &&& ~~~m
    enable := e.enable &&& ~~~m })).filter (fun e => e.owned != 0)
  let bank := fun (b : CtlBank) => { b with
    slotA := b.slotA.without m
    slotB := b.slotB.without m
    mark := (thin (g.stack.drop (g.stack.length - b.mark))).length }
  { g with
    live := g.live &&& ~~~m
    slotA := g.slotA.without m
    slotB := g.slotB.without m
    bank0 := bank g.bank0
    bank1 := bank g.bank1
    stack := thin g.stack }.emptied

/-! ### Return from a trap (R253) -/

/-- The slot that a return comes back to: what stays with its word, unless the handler has moved `tret` to another, and the replay
that the bank asks for (R105). -/
def PcSlot.returned (p : PcSlot) (tb : TrapBank) : PcSlot :=
  let kept := if p.pc = tb.ret then p.kept else .none
  { p with
    pc := tb.ret
    kept := if tb.replays then { kept with replay := some tb.mask } else kept }

/-- Return from level 1 or 2: R253, with the replay of R105 and the watchdog of R256 (DEDUCED, log 19). -/
def Group.rtt (g : Group) : Group :=
  let tb := g.trapBank g.lvl
  let b := g.bank (g.lvl - 1)
  let back := { g with
    m := g.modeWord tb.mode
    hc := b.hc
    hb := b.hb
    slotA := b.slotA
    slotB := b.slotB
    stack := g.stack.drop (g.stack.length - b.mark)
    lvl := g.lvl - 1
    pv := b.pv
    ts := b.ts
    nextSel := b.nx
    holdSel := none
    wd1 := if g.lvl = 2 && tb.cause == BitVec.ofNat 32 Cause.watchdog then 0 else g.wd1 }
  let back := ((back.setS2627 (pair64 b.s27 b.s26)).setSlot g.ts ((back.slotOf g.ts).returned tb)).emptied
  back.setTrapBank g.lvl { tb with info := if tb.replays then tb.info &&& ~~~1 else tb.info }

/-! ### Kill and escalation (R238, R254, R255) -/

/-- Whether an operation already sent completes after its group is killed: everything but a store still queued. -/
def MemOp.survives (o : MemOp) : Bool :=
  match o.kind with
  | .store _ | .tileStore | .reduce _ _ | .enqueue | .arrive _ | .exit | .maintain _ _ _ => false
  | _ => !o.done

/-- Free the watch entries of a group (R165). -/
def Core.freeWatches (c : Core) (gid : Nat) (level : Option Nat) : Core :=
  { c with uwt := c.uwt.filter fun w => !(w.gid == gid && (match level with
                                                          | some l => w.level == l
                                                          | none => true)) }

/-- Kill a group (R238) (DESIGN CHOICE, log 28). -/
def State.killGroup (s : State) (gid : Nat) : State :=
  match s.group? gid with
  | none => s
  | some g =>
    let s := s.setCore g.coreId ((s.core g.coreId).freeWatches gid none)
    let s := { s with
      cur := s.curWithout gid
      specs := SMap.set none s.specs gid none }
    let ops := g.ops.filter MemOp.survives
    if ops.isEmpty then s.removeGroup gid
    else s.setGroup gid { g with dead := true, ops := ops, live := 0, slotA := .none, slotB := .none, token := none,
                                 late := [] }

/-- A claimed bank returns: scratch banks to lent state with every line invalid, FIFO banks to unclaimed (R124). -/
def State.releaseBanks (s : State) (pair : Nat) (team : Nat) : State :=
  { s with banks := (s.banks.map fun e =>
      match e.2 with
      | some b => if e.1 / 64 = pair ∧ b.clm = some team then (e.1, some { b with clm := none }) else e
      | none => e).filter (fun e => e.2 != some (Bank.reset (e.1 % 64))) }

/-- A resident team is gone: its banks become unclaimed. -/
def State.dropTeam (s : State) (k : Nat) : State :=
  match s.team? k with
  | none => s
  | some t => (s.releaseBanks (coreKey t.die t.core / 2) k).removeTeam k

/-- Take the launches that a test names off the queues of a die. -/
def DieState.unqueue (d : DieState) (p : Nat → Bool) : DieState :=
  { d with queues := (d.queues.map (fun q => (q.1, q.2.filter (fun lid => !p lid)))).filter (fun q => q.2 != []) }

/-- A launch of a killed context is off its queue and adds nothing to its completion word. -/
def Launch.discardIf (l : Launch) (c : Ctx) : Launch :=
  if l.blk.ctx == c then { l with queued := false, discarding := true, ready := false } else l

/-- A core holds a context no longer. -/
def Core.forget (k : Core) (c : Ctx) : Core :=
  { k with
    active := if k.active == some c then none else k.active
    shadows := k.shadows.filter (fun x => x.ctx != c)
    inMem := k.inMem.filter (fun x => x != c) }

/-- Take every group, team and queued launch of a context off the package (R254). The launches that had not completed
stay listed, discarding, until the Director reports them. -/
def State.killContext (s : State) (c : Ctx) : State :=
  let s := (s.groupsWhere (fun g => g.ctx == c && !g.dead)).foldl (fun s e => s.killGroup e.1) s
  let s := (s.teamsWhere (fun t => t.ctx == c)).foldl (fun s e => s.dropTeam e.1) s
  let inCtx := fun lid => (s.launch? lid).any (fun l => l.blk.ctx == c)
  let s := { s with dies := s.dies.map (fun (e : Nat × DieState) => (e.1, e.2.unqueue inCtx)) }
  let s := { s with launches := s.launches.map (fun (e : Nat × Option Launch) => (e.1, e.2.map (fun (l : Launch) => l.discardIf c))) }
  { s with cores := s.cores.map (fun (e : Nat × Core) => (e.1, e.2.forget c)) }

/-- The kill record of R255. -/
def killRecord (g : Group) (t : TrapInfo) (why : Nat) (tret : VA) (word : Word) : List Byte :=
  bytesNat 1 1 ++ bytesNat 1 g.die ++ bytesNat 1 g.ctx.toNat ++ bytesNat 1 why ++ bytesOfWord g.lid ++
  bytesNat 1 g.core ++ bytesNat 1 g.quarter ++ bytesNat 1 g.slot ++ bytesNat 1 g.gidx ++ bytesNat 4 g.team ++
  bytesNat 1 t.cause ++ bytesNat 1 g.trap2.cause.toNat ++ bytesNat 1 g.trap1.cause.toNat ++
  bytesNat 1 g.lvl ++ bytesNat 8 tret.toNat ++ bytesNat 8 t.addr.toNat ++ bytesOfWord word ++
  bytesNat 8 g.trap2.ret.toNat ++ bytesNat 8 g.trap1.ret.toNat ++
  bytesOfWord t.info ++ bytesNat 4 0

/-- Escalate: kill the context and hand the record to the Director's die; in context 0, reset the device (R254, R115). -/
def State.escalate (s : State) (g : Group) (record : List Byte) : State :=
  let s := s.killContext g.ctx
  if g.ctx = 0 then
    { s with mem := { s.mem with resets := s.mem.resets + 1 } }.post (.containmentAction 0)
  else
    let s := match s.context? g.ctx.toNat with
      | some x => s.setContext g.ctx.toNat { x with killed := true }
      | none => s
    let d := s.die g.die
    if h : g.die < 8 then (s.setDie g.die { d with kills := d.kills ++ [record] }).post (.killRecordDelivery ⟨g.die, h⟩)
    else s

/-- Take a trap in slot `sel` of a group for the word at `pc` (R246, R250, R251, R254): the one operation by which every
cause is taken. The run ends. -/
def State.takeTrap (s : State) (gid : Nat) (sel : PcSel) (t : TrapInfo) (pc : VA) (word lit : Word) : State :=
  match s.group? gid with
  | none => s
  | some g =>
    let (fv, s) := if t.free = 0 then (0#1024, s) else s.free
    let t := { t with info := (t.info &&& ~~~t.free) ||| (fv.setWidth 32 &&& t.free) }
    let tret := match kindOf t.cause with
      | .before | .after => pc
      | .next | .late => (g.slotOf sel).pc
    let s := { s with cur := s.curWithout gid }
    if g.lvl = 2 then s.escalate g (killRecord g t 0 tret word)
    else if g.vector t.cause = 0 then s.escalate g (killRecord g t 1 tret word)
    else s.setGroup gid (((g.setPc sel tret).wdTick s.clk).enter sel t tret word lit)

end Sys2Proof.Machine
end

