-- ==== Sys2Proof/Machine/Checks.lean ====
section
/-! DEFINITION. The checks of a word before it runs, in the order of R250 and R307: ILLEGAL_OP, PRIVILEGED, ILLEGAL_FIELD,
REG_RANGE, FORMAT_TAG, MMA_TYPE, CONVERGENCE. -/

namespace Sys2Proof.Machine

open Sys2Proof

/-- A trap that is not per lane: `tmask` holds `en0` (R250). -/
def Group.trapWhole (g : Group) (sel : PcSel) (cause : Nat) (info : Nat) : TrapInfo :=
  { cause := cause, mask := g.en0 sel, info := BitVec.ofNat 32 info }

/-- ILLEGAL_FIELD reporting field k (R257). -/
def Group.badField (g : Group) (sel : PcSel) (k : Nat) : TrapInfo := g.trapWhole sel Cause.illegalField k

/-! ### System register numbers (R258, R259, R322) -/

/-- The level of the trap bank that a register number lies in. -/
def bankOf (n : Nat) : Option Nat :=
  if 0x30 ≤ n ∧ n ≤ 0x3B then some 1 else if 0x40 ≤ n ∧ n ≤ 0x4B then some 2 else none

/-- Numbers that R259 assigns. -/
def sysAssigned (n : Nat) : Bool :=
  decide (n ≤ 0x18) || (decide (0x20 ≤ n) && decide (n ≤ 0x23)) || (bankOf n).isSome ||
  (decide (0x50 ≤ n) && decide (n ≤ 0x53)) || (decide (0x60 ≤ n) && decide (n ≤ 0x6F))

/-- Read-only numbers: identity, clock, counters, the RO registers of a bank, `xistat`, `bankst`. -/
def sysReadOnly (n : Nat) : Bool :=
  decide (n ≤ 0x0F) || (decide (0x11 ≤ n) && decide (n ≤ 0x15)) || n == 0x17 || n == 0x18 || n == 0x20 ||
  n == 0x66 || n == 0x68 || ((bankOf n).isSome && [0x0, 0x6, 0x7, 0x8, 0x9].contains (n % 16))

/-- The bank access is one that R258 permits. -/
def Group.bankOk (g : Group) (n : Nat) : Bool :=
  match bankOf n with
  | some k => if g.privileged then decide (k ≤ g.lvl) else k == g.lvl
  | none => true

/-- SYSR or SYSW may not name this register (R322). -/
def Group.sysBad (g : Group) (write : Bool) (n : Nat) : Bool :=
  !sysAssigned n || (write && sysReadOnly n) || !g.bankOk n

/-- A value that SYSW refuses (R322). -/
def sysValueBad (n : Nat) (w : Word) : Bool :=
  if n = 0x10 then bits w 31 5 != 0
  else if n = 0x23 then bits w 31 17 != 0
  else if n = 0x21 ∨ n = 0x50 then bits w 1 0 != 0
  else if n = 0x22 ∨ n = 0x51 ∨ n = 0x53 then bits w 31 20 != 0
  else if n = 0x52 then bits w 8 0 != 0
  else if (bankOf n).isSome then
    if n % 16 = 2 then bits w 31 20 != 0 else if n % 16 = 0xA then modeBad w else false
  else false

/-- FORMAT_TAG (R228, R257); `fr` marks "tag read" as a free value where several tags would do (DEDUCED, log 17). -/
def Group.tagTrap (g : Group) (sel : PcSel) (x : BitVec 7) (found read : Nat) (fr : Bool) : TrapInfo :=
  { g.trapWhole sel Cause.formatTag (x.toNat + 256 * found + 4096 * read) with free := if fr then 0xF000 else 0 }

/-- The registers of a run from r on that carry neither the tag nor RAW: the first tag found (DEDUCED, log 17). -/
def Group.badTag (g : Group) (r n tag : Nat) : Option Nat :=
  ((List.range n).map (fun k => g.tagOf (r + k))).find? (fun t => t != 15 && t != tag)

/-- The first slice tag of a tile that a test rejects. -/
def Group.badSlice (g : Group) (t : Nat) (ok : Nat → Bool) : Option Nat :=
  ((List.range g.beats).map (g.sliceTag t)).find? (fun x => !ok x)

/-- The accumulator type of MMA (R313). -/
def accType (ty : Nat) : Nat := if ty = 12 then 12 else if ty = 6 then 0 else 2

/-- A complex tile type. -/
def isComplex (t : Nat) : Bool := t == 14 || t == 15

/-- Lanes of fragment `x` whose scale bytes have bit 7 set (R288, R315). -/
def Group.scaleBits (g : Group) (x : BitVec 7) (n sc : Nat) : Mask :=
  maskOf fun l => decide (l < g.lanes) && (List.range sc).any (fun k => g.vRead (x.toNat + n + k) l &&& 0x80808080 != 0)

/-- What R239 finds wrong: bits 0 to 3 of `tinfo`. -/
def Group.convergence (g : Group) (sel : PcSel) (c : Conv) : Nat :=
  (if g.enabledFree sel = g.live then 0 else 1) + (if (g.slotOf (otherSel sel)).status = .empty then 0 else 2) +
  (if g.stack.isEmpty then 0 else 4) + (if c = .fullWidth ∧ g.live ≠ g.full then 8 else 0)

end Sys2Proof.Machine

namespace Sys2Proof

open Machine

/-! ### Decode checks (R307) -/

/-- PRIVILEGED (R312): `tinfo` holds the opcode and the register number. -/
def Op.privCheck (op : Op) (f : Fields) (g : Group) (sel : PcSel) : Option TrapInfo :=
  if g.privileged then none
  else if op.priv || (op.code == 0x05 && decide (8 ≤ f.a.toNat) && decide (f.a.toNat ≤ 15)) then
    some (g.trapWhole sel Cause.privileged op.code)
  else if (op.code == 0x03 || op.code == 0x04) && decide (0x50 ≤ f.a.toNat) then
    some (g.trapWhole sel Cause.privileged (op.code + 256 * f.a.toNat))
  else none

/-- The type in force for the width of operands: `m.t` where the page reads and accepts it. -/
def Op.typeFor (op : Op) (f : Fields) (g : Group) : Nat :=
  match op.types with
  | .notRead =>
    -- AAND, AOR, AXOR, AXCH and ACAS are 64 bits wide under a 64-bit `m.t` (R402)
    g.ty
  | ty => if ty.accept f.a.toNat g.ty then g.ty else 0

/-- X is unused, or MMA's X = 1 for a type without scales (R313). -/
def Op.xBad (op : Op) (f : Fields) (g : Group) : Bool :=
  f.x && (!op.useX || (op.types == .mma && (match fragRegs g.ty with
                                             | some (_, 0) => true
                                             | _ => false)))

/-- A control word that overlaps its own runs: QBLK's scale register within the source or element run (R363). Under an `m.t` that the
page does not list there is no element run. -/
def Op.overlap (op : Op) (f : Fields) (g : Group) (w : Word) : Bool :=
  (op.ctl == .qblk || op.ctl == .qblkn) && op.types.accept f.a.toNat g.ty &&
  (let r := bits w 6 0
   let n := 16 / elems g.ty
   (decide (f.a.toNat ≤ r) && decide (r < f.a.toNat + 16)) || (decide (f.d.toNat ≤ r) && decide (r < f.d.toNat + n)))

/-- ILLEGAL_FIELD, in the order of R307 step 3 (DEDUCED, log 16). -/
def Op.fieldCheck (op : Op) (f : Fields) (g : Group) (sel : PcSel) : Option TrapInfo :=
  let ty := op.typeFor f g
  let n := g.beats
  let isSys := op.code == 0x03 || op.code == 0x04
  let num := f.a.toNat
  if f.l && f.b != 0 then some (g.badField sel 3)
  else if !op.d.ok ty n f f.d then some (g.badField sel 1)
  else if !op.a.ok ty n f f.a then some (g.badField sel 2)
  else if isSys && g.sysBad (op.code == 0x04) num then some (g.badField sel (2 + 256 * num))
  else if !f.l && !op.b.ok ty n f f.b then some (g.badField sel 3)
  else if op.xBad f g then some (g.badField sel 3)
  else if !op.lit.ok f.l then some (g.badField sel 4)
  else
    let w := op.control f g sel
    let at_ := if f.l then 4 else 3
    if op.code == 0x04 && sysValueBad num (g.sB sel f) then some (g.badField sel (at_ + 256 * num))
    else if op.ctl.bad f.l w || op.overlap f g w then some (g.badField sel at_)
    else if !op.types.accept f.a.toNat g.ty then some (g.badField sel 5)
    else none

/-- REG_RANGE of one operand (R221, R346). -/
def Op.rangeBad (op : Op) (f : Fields) (g : Group) (sel : PcSel) (o : Kind × BitVec 7) : Bool :=
  let (r, n) := op.vrun f g sel o
  (n != 0 && decide (g.nvr < r + n)) || (o.1 == .t && decide (g.ntile ≤ o.2.toNat))

/-- REG_RANGE: the first operand at or beyond `nvr` or `ntile`, in the order D, A, B (DEDUCED, log 16). -/
def Op.rangeCheck (op : Op) (f : Fields) (g : Group) (sel : PcSel) : Option TrapInfo :=
  match (op.operands f).find? (op.rangeBad f g sel) with
  | some o => some (g.trapWhole sel Cause.regRange o.2.toNat)
  | none =>
    if (op.ctl == .qblk || op.ctl == .qblkn) && decide (g.nvr ≤ bits (op.control f g sel) 6 0) then
      some (g.trapWhole sel Cause.regRange (bits (op.control f g sel) 6 0))
    else none

/-- The operand at a position. -/
def Op.posAt (op : Op) (f : Fields) : Pos → Kind × BitVec 7
  | .d => (op.d, f.d)
  | .a => (op.a, f.a)
  | .b => (op.b, f.b)

/-- FORMAT_TAG of one typed source (DEDUCED, log 17). -/
def Op.tagCheck (op : Op) (f : Fields) (g : Group) (sel : PcSel) (r : Pos × Want) : Option TrapInfo :=
  let (k, x) := op.posAt f r.1
  let ty := g.ty
  let isTile := k == Kind.t
  if !isTile && (isS x || (r.1 == .b && f.l)) then none
  else
    let run := op.vrun f g sel (k, x)
    let reg := fun tag => (g.badTag run.1 run.2 tag).map (fun t => g.tagTrap sel x t tag false)
    let tile := fun (ok : Nat → Bool) (read : Nat) (fr : Bool) =>
      (g.badSlice x.toNat ok).map (fun t => g.tagTrap sel x t read fr)
    match r.2 with
    | .typ => reg ty
    | .code t => if isTile then tile (· == t) t false else reg t
    | .cvt => reg f.cvtSource
    | .pack => reg (if [5, 6, 7, 11].contains ty then 0 else 2)
    | .gred => if f.a.toNat < 3 then reg ty else none
    | .frag =>
      match fragRegs ty with
      | some (n, sc) =>
        match g.badTag run.1 n ty with
        | some t => some (g.tagTrap sel x t ty false)
        | none => (g.badTag (run.1 + n) (if f.x then sc else 0) 14).map (fun t => g.tagTrap sel x t 14 false)
      | none => none
    | .acc => tile (· == accType ty) (accType ty) false
    | .fill => if ty < 14 then reg ty else none
    | .complex =>
      let t0 := g.sliceTag x.toNat 0
      if isComplex t0 then tile (· == t0) t0 false else some (g.tagTrap sel x t0 0 true)
    | .scalable => tile (fun t => [2, 3, 4, 14, 15].contains t) 0 true
    | .tileCvt => tile (fun t => isComplex t == isComplex ty) 0 true

/-- The first FORMAT_TAG of the typed sources. -/
def Op.tagsCheck (op : Op) (f : Fields) (g : Group) (sel : PcSel) : Option TrapInfo :=
  if op.types == .mma && (fragRegs g.ty).isNone then some (g.trapWhole sel Cause.mmaType g.ty)
  else op.reads.findSome? (op.tagCheck f g sel)

/-- Lanes whose scale bytes, as the word reads them, have bit 7 set, with the field that holds them (R288) (DEDUCED, log 20). -/
def Op.scaleLanes (op : Op) (f : Fields) (g : Group) (sel : PcSel) : List (BitVec 7 × Mask) :=
  let ex := g.exec sel
  if op.types == .mma then
    match fragRegs g.ty with
    | some (n, sc) => if f.x then [(f.a, g.scaleBits f.a n sc), (f.b, g.scaleBits f.b n sc)] else []
    | none => []
  else if op.code == 0x8A then [(f.b, maskOf fun l => lane ex l && (g.opB sel f l &&& 0x8080 != 0))]
  else if op.code == 0x84 && g.ty == 14 then
    [(f.a, maskOf fun l => lane ex l && decide (128 ≤ elem 14 (g.vRead f.a.toNat l).toNat ((g.sB sel f).toNat % 4)))]
  else if op.code == 0x80 && f.cvtSource == 14 then
    [(f.a, maskOf fun l => lane ex l && (List.range (min 4 (elems g.ty))).any
      (fun k => decide (128 ≤ elem 14 (g.vRead f.a.toNat l).toNat k)))]
  else []

/-- FORMAT_TAG for a scale byte with its sign bit set (R288). -/
def Op.scaleCheck (op : Op) (f : Fields) (g : Group) (sel : PcSel) : Option TrapInfo :=
  ((op.scaleLanes f g sel).find? (fun e => e.2 != 0)).map fun e =>
    { cause := Cause.formatTag, mask := e.2, info := BitVec.ofNat 32 (e.1.toNat + 256 * 14 + 4096 * 14) }

/-- CONVERGENCE (R239). -/
def Op.convCheck (op : Op) (_f : Fields) (g : Group) (sel : PcSel) : Option TrapInfo :=
  if op.conv = .none then none
  else
    let n := g.convergence sel op.conv
    if n = 0 then none
    else some { cause := Cause.convergence, info := BitVec.ofNat 32 n,
                mask := (g.live &&& ~~~(g.enabledFree sel)) ||| (if 8 ≤ n then g.full &&& ~~~g.live else 0) }

/-- The decode checks and CONVERGENCE: the first cause found, in the order of R250 and R307 (DEDUCED, log 16). -/
def Op.check (op : Op) (f : Fields) (g : Group) (sel : PcSel) : Option TrapInfo :=
  if op.code == 0x06 && g.lvl == 0 then some (g.trapWhole sel Cause.illegalOp 0)
  else
    (op.privCheck f g sel).or <| (op.fieldCheck f g sel).or <| (op.rangeCheck f g sel).or <|
    (op.tagsCheck f g sel).or <| (op.scaleCheck f g sel).or <| op.convCheck f g sel

end Sys2Proof
end

