-- ==== Sys2Proof/Machine/Flags.lean ====
section
/-! DEFINITION. The sticky flags that a word raises and the arithmetic trap it then takes (R250, R257, R261, R294, R347). -/

namespace Sys2Proof.Machine

open Sys2Proof

/-- The flags that lanes raised; a lane may stand more than once. -/
abbrev LaneFlags := List (Nat × Flags)

/-- All flags raised, in the order of `fxf`. -/
def flagsOf (fl : LaneFlags) : BitVec 5 := fl.foldl (fun a e => a ||| e.2.bits) 0

/-- The lanes that raised flag k. -/
def flagLanes (fl : LaneFlags) (k : Nat) : Mask :=
  fl.foldl (fun m e => if e.2.bits.getLsbD k then m ||| ((1#96) <<< e.1) else m) 0

/-- Raise flags into `fxf` (R261). -/
def Group.raise (g : Group) (fl : LaneFlags) : Group := { g with fxf := g.fxf ||| flagsOf fl }

/-- The lowest-numbered enabled cause that any lane raised: FP_INVALID + k for flag k (R250, R257). -/
def Group.fpTrap (g : Group) (fl : LaneFlags) : Option TrapInfo :=
  ((List.range 5).find? (fun k => g.xe.getLsbD k && (flagsOf fl).getLsbD k)).map fun k =>
    { cause := Cause.fpInvalid + k, mask := flagLanes fl k, info := (flagsOf fl).setWidth 32 }

/-- What a word that touches only its group does: it completes, traps leaving the group so, or does not issue yet. -/
inductive GRes where
  | done (g : Group)
  | trap (t : TrapInfo) (g : Group)
  | wait

/-- Complete with flags raised, taking the arithmetic trap they enable (R347). -/
def Group.finish (g : Group) (fl : LaneFlags) : GRes :=
  match g.fpTrap fl with
  | none => .done (g.raise fl)
  | some t => .trap t (g.raise fl)

/-- Complete, then take INT_DIV0 for the lanes that divided by zero (R290, R344). -/
def Group.finishDiv (g : Group) (m : Mask) : GRes :=
  if m = 0 then .done g else .trap { cause := Cause.intDiv0, mask := m } g

/-- Complete a conversion: the arithmetic causes, then CVT_OVERFLOW for the lanes that overflowed under TRAP (R295, R359). -/
def Group.finishCvt (g : Group) (fl : LaneFlags) (beyond : Mask) : GRes :=
  match g.fpTrap fl with
  | some t => .trap t (g.raise fl)
  | none =>
    if beyond = 0 then .done (g.raise fl)
    else .trap { cause := Cause.cvtOverflow, mask := beyond, info := (flagsOf fl).setWidth 32 } (g.raise fl)

end Sys2Proof.Machine
end

