-- ==== Sys2Proof/Machine/Arith.lean ====
section
/-! DEFINITION. Arithmetic on words and on typed elements (R290, R343, R345, R347, R350, R351). -/

namespace Sys2Proof.Machine

open Sys2Proof

/-! ### Words -/

def boolWord (b : Bool) : Word := if b then 1 else 0

/-- A signed number clamped to w bits. -/
def clampS (w : Nat) (x : Int) : Int := max (-(2 ^ (w - 1) : Nat)) (min ((2 ^ (w - 1) : Nat) - 1) x)

/-- A number clamped to unsigned w bits. -/
def clampU (w : Nat) (x : Int) : Int := max 0 (min ((2 ^ w : Nat) - 1) x)

/-- A + B, clamped as I32 when saturating (R343). -/
def scalarAdd (sat : Bool) (x y : Word) : Word := if sat then BitVec.ofInt 32 (clampS 32 (x.toInt + y.toInt)) else x + y

/-- A − B, clamped as I32 when saturating (R343). -/
def scalarSub (sat : Bool) (x y : Word) : Word := if sat then BitVec.ofInt 32 (clampS 32 (x.toInt - y.toInt)) else x - y

/-- Bits [63:32] of the signed product. -/
def mulHigh (x y : Word) : Word := (x.signExtend 64 * y.signExtend 64).extractLsb' 32 32

/-- Bits [63:32] of the unsigned product. -/
def mulHighU (x y : Word) : Word := (x.setWidth 64 * y.setWidth 64).extractLsb' 32 32

/-- The shift amount B[5:0]. -/
def shiftBy (y : Word) : Nat := y.toNat % 64

/-- A shifted left by B[5:0]; 0 at 32 and above (R343). -/
def shiftLeft (x y : Word) : Word := x <<< shiftBy y

/-- A shifted right by B[5:0] with zeros; 0 at 32 and above (R343). -/
def shiftRight (x y : Word) : Word := x >>> shiftBy y

/-- A shifted right by B[5:0] with sign copies; all sign copies at 32 and above (R343). -/
def shiftArith (x y : Word) : Word := x.sshiftRight (shiftBy y)

def signedMin (x y : Word) : Word := if y.slt x then y else x

def signedMax (x y : Word) : Word := if x.slt y then y else x

/-- The number of set bits. -/
def popcount (x : Word) : Word := BitVec.ofNat 32 ((List.range 32).filter (fun k => x.getLsbD k)).length

/-- The number of leading zero bits; 32 for 0. -/
def leadingZeros (x : Word) : Word := if x = 0 then 32 else BitVec.ofNat 32 (31 - Nat.log2 x.toNat)

/-- x div y; by zero all ones (R290, R344). -/
def divUnsigned (x y : Word) : Word := if y = 0 then ~~~0 else x / y

/-- x mod y; by zero x (R290, R344). -/
def remUnsigned (x y : Word) : Word := if y = 0 then x else x % y

/-- Width w' of the field that a descriptor selects: min(w, 32 − p) (R345). -/
def fieldWidth (d : Word) : Nat := min (bits d 10 5) (32 - bits d 4 0)

/-- The field of x that descriptor d selects, extended (R345). -/
def bitField (x d : Word) : Word :=
  let p := bits d 4 0
  let w := fieldWidth d
  let v := x.toNat / 2 ^ p % 2 ^ w
  if w = 0 then 0
  else if d.getLsbD 11 && decide (2 ^ (w - 1) ≤ v) then BitVec.ofInt 32 ((v : Int) - (2 ^ w : Nat))
  else BitVec.ofNat 32 v

/-- y with the field that descriptor d selects replaced by the low bits of x (R354). -/
def insertField (y x d : Word) : Word :=
  let p := bits d 4 0
  let w := fieldWidth d
  let m : Word := BitVec.ofNat 32 ((2 ^ w - 1) * 2 ^ p)
  (y &&& ~~~m) ||| ((x <<< p) &&& m)

/-- The 64-bit value of operand B of SADD64 and SSUB64: a pair, or a literal sign-extended (R304, R342). -/
def Group.spB (g : Group) (sel : PcSel) (f : Fields) : DWord :=
  if f.l then f.lit.signExtend 64 else g.spField sel f.b

/-! ### Element types (R225, R290) -/

/-- The floating-point format of a type code. -/
def fmtOf : Nat → Option Fmt
  | 2 => some .f32
  | 3 => some .f16
  | 4 => some .bf16
  | 8 => some .e4m3
  | 9 => some .e5m2
  | 10 => some .e2m1
  | 12 => some .f64
  | 14 => some .ue4m3
  | _ => none

/-- An unsigned integer type. -/
def unsignedTy (ty : Nat) : Bool := ty == 1 || ty == 7

/-- The value of an integer element. -/
def intOf (ty x : Nat) : Int :=
  let w := elemBits ty
  let v := x % 2 ^ w
  if !unsignedTy ty && decide (2 ^ (w - 1) ≤ v) then (v : Int) - (2 ^ w : Nat) else v

/-- The bits of an integer modulo 2^w. -/
def wrapTo (w : Nat) (x : Int) : Nat := (x % (2 ^ w : Nat)).toNat

/-- The limits of an integer type. -/
def clampTy (ty : Nat) (x : Int) : Int := if unsignedTy ty then clampU (elemBits ty) x else clampS (elemBits ty) x

/-- An integer result: saturated when `sat`, else wrapping (R290). -/
def intRes (ty : Nat) (sat : Bool) (x : Int) : FRes :=
  { bits := wrapTo (elemBits ty) (if sat then clampTy ty x else x), flags := .none }

/-- The arithmetic of R350. -/
inductive AOp where
  | add | sub | mul | fma | min | max | abs | neg | div | rem | mulh
  deriving DecidableEq, Repr

/-- The integer results of R350. Division truncates; by zero it gives all ones and the dividend (R290). -/
def AOp.int (o : AOp) (ty : Nat) (sati : Bool) (x y d : Nat) : FRes :=
  let sat := sati && ty != 13
  let a := intOf ty x
  let b := intOf ty y
  match o with
  | .add => intRes ty sat (a + b)
  | .sub => intRes ty sat (a - b)
  | .mul => intRes ty false (a * b)
  | .fma => intRes ty false (a * b + intOf ty d)
  | .min => intRes ty false (if b < a then b else a)
  | .max => intRes ty false (if a < b then b else a)
  | .abs => intRes ty false b.natAbs
  | .neg => intRes ty false (-b)
  | .div => intRes ty false (if b = 0 then -1 else Int.tdiv a b)
  | .rem => intRes ty false (if b = 0 then a else Int.tmod a b)
  | .mulh => intRes ty false (a * b / (2 ^ elemBits ty : Nat))

/-- The floating-point results of R350 and R351. -/
def AOp.float (o : AOp) (fm : Fmt) (rm : Rm) (ftz : Bool) (x y d : Nat) : FRes :=
  let a := fm.read ftz x
  let b := fm.read ftz y
  match o with
  | .add => fm.fadd rm ftz a b
  | .sub => fm.fsub rm ftz a b
  | .mul => fm.fmul rm ftz a b
  | .fma => fm.ffma rm ftz a b (fm.read ftz d)
  | .min => { bits := fm.fminmax false a b, flags := .none }
  | .max => { bits := fm.fminmax true a b, flags := .none }
  | .abs => { bits := fm.encode (match b with
                                  | .fin _ m => .fin false m
                                  | .inf _ => .inf false
                                  | .nan => .nan), flags := .none }
  | .neg => { bits := fm.encode b.negate, flags := .none }
  | .div => fm.fdiv rm ftz a b
  | .rem | .mulh => { bits := 0, flags := .none }

/-- One element of R350 under the type and modes in force. -/
def AOp.elem (o : AOp) (ty : Nat) (rm : Rm) (ftz sati : Bool) (x y d : Nat) : FRes :=
  match fmtOf ty with
  | some fm => o.float fm rm ftz x y d
  | none => o.int ty sati x y d

/-- All elements of a register value of a type: results packed, flags joined. -/
def mapElems (ty : Nat) (h : Nat → FRes) : FRes :=
  let rs := (List.range (elems ty)).map h
  { bits := packElems ty (rs.map (fun r => r.bits)), flags := rs.foldl (fun a r => a.or r.flags) .none }

/-- Results of the executing lanes: the values to write and the flags raised. -/
def laneResults (ls : List Nat) (h : Nat → FRes) : List (Nat × FRes) := ls.map (fun l => (l, h l))

/-- The value of a lane among results. -/
def valueAt (rs : List (Nat × FRes)) (l : Nat) : Nat :=
  match rs.find? (fun e => e.1 == l) with
  | some e => e.2.bits
  | none => 0

/-- The flags among results. -/
def flagsAt (rs : List (Nat × FRes)) : LaneFlags := rs.map (fun e => (e.1, e.2.flags))

end Sys2Proof.Machine
end

