-- ==== Sys2Proof/Machine/Notify.lean ====
section
/-! DEFINITION. What the device tells the host and the Directors: events (R68 to R70), hardware messages (R334). -/

namespace Sys2Proof.Machine

open Sys2Proof

/-- Replace bytes of a list from an offset on. -/
def overlay (bs : List Byte) (off : Nat) (xs : List Byte) : List Byte := bs.take off ++ xs ++ bs.drop (off + xs.length)

/-- A 64-byte block from its fields; unlisted bytes are zero. -/
def block64 (fields : List (Nat × List Byte)) : List Byte :=
  fields.foldl (fun bs e => overlay bs e.1 e.2) (List.replicate 64 0)

/-- Event sources (R68). -/
def srcLink : Nat := 0xFE
def srcIo : Nat := 0xFF

/-- An event (R68): kind, source, the cue it answers, context, body fields. -/
structure Event where
  kind : Nat
  src  : Nat
  href : Word := 0
  ctx  : Nat := 0
  body : List (Nat × List Byte) := []

/-- The 64 bytes of an event with its number. -/
def Event.bytes (e : Event) (eseq : Word) : List Byte :=
  block64 ([(0, bytesOfWord eseq), (4, bytesNat 1 e.kind), (5, bytesNat 1 e.src), (8, bytesOfWord e.href),
            (12, bytesNat 1 e.ctx)] ++ e.body)

/-- The events that wait to be written (R70). -/
def holdSize : Nat := 1024

/-- Put an event into the hold under the next number. -/
def State.holdEvent (s : State) (bytes : Word → List Byte) : State :=
  let n := s.host.evtNext
  { s with host := { s.host with hold := s.host.hold ++ [bytes n], evtNext := n + 1 } }.post .eventWrite

/-- A hardware event: beyond the hold it is counted and takes no number (R70). -/
def State.hwEvent (s : State) (e : Event) : State :=
  if s.host.hold.length < holdSize then s.holdEvent e.bytes
  else { s with host := { s.host with dropped := s.host.dropped + 1 } }

/-- The hold takes an event of a Director: it has room, and none waits before it. -/
def HostIf.hasRoom (h : HostIf) : Bool := decide (h.hold.length < holdSize) && h.waitEvts.isEmpty

/-- The bytes of an event that a Director sends: they wait for room, and are never dropped (R70, R335; DESIGN CHOICE, log 12). -/
def State.dirBytes (s : State) (bs : List Byte) : State :=
  if s.host.hasRoom then s.holdEvent (fun n => overlay bs 0 (bytesOfWord n))
  else { s with host := { s.host with waitEvts := s.host.waitEvts ++ [bs] } }

/-- An event that a Director sends. -/
def State.dirEvent (s : State) (e : Event) : State := s.dirBytes (e.bytes 0)

/-- The events of Directors that wait go into the hold while it has room, at most `n` of them. -/
def State.letIn (s : State) : Nat → State
  | 0 => s
  | n + 1 =>
    match s.host.waitEvts with
    | [] => s
    | bs :: rest =>
      if s.host.hold.length < holdSize then
        ({ s with host := { s.host with waitEvts := rest } }.holdEvent (fun n => overlay bs 0 (bytesOfWord n))).letIn n
      else s

/-- A hardware message of R334. -/
def hwMessage (mkind die ctx : Nat) (lid : Word) (addr cause : Nat) : List Byte :=
  block64 [(0, bytesNat 1 mkind), (1, bytesNat 1 die), (2, bytesNat 1 ctx), (4, bytesOfWord lid), (8, bytesNat 8 addr),
           (16, bytesNat 1 cause)]

/-- Put a message into the hardware queue of a die. -/
def State.tellDirector (s : State) (die : Nat) (m : List Byte) : State :=
  let d := s.die die
  s.setDie die { d with hw := d.hw ++ [m] }

end Sys2Proof.Machine
end

