-- ==== Sys2Proof/Machine/Place.lean ====
section
/-! DEFINITION. Where a line of DRAM lies, and the report of one that is lost (R95, R96, R111, R114, R69). -/

namespace Sys2Proof.Machine

open Sys2Proof

/-! ### Where a line of DRAM lies (R95) -/

/-- A line by pool, frame and place: `pool` 0 to 7 is a die's, 8 the package's; `slot` is the channel slot of a die-pinned frame, or
the die that holds a line of a package frame. -/
structure LinePlace where
  pool  : Nat
  frame : Nat
  die   : Nat
  chan  : Nat
  slot  : Nat

/-- The place of a location. -/
def placeOfLine (mbound key : Nat) : LinePlace :=
  let (n, a) := (key / 2 ^ 31, key % 2 ^ 31)
  let low := mbound * 2 ^ 20
  if a < low then { pool := n / 64, frame := a / 1024, die := n / 64, chan := n % 64, slot := a % 1024 / 128 }
  else { pool := 8, frame := (a - low) / 128, die := n / 64, chan := n % 64, slot := n / 64 }

/-- The line index within its page when the page is placed plainly. -/
def LinePlace.index (p : LinePlace) : Nat := p.slot * 64 + (p.chan ^^^ (p.slot * 9))

/-- The line index under a rotation of the slots (R111). -/
def LinePlace.indexAt (p : LinePlace) (k : Nat) : Nat :=
  let r := (p.slot + 8 - k % 8) % 8
  r * 64 + (p.chan ^^^ (r * 9))

/-- The device-physical address of a line (R96). -/
def LinePlace.phys (p : LinePlace) : Nat := p.frame * 65536 + p.index * 128

/-- The owner rows of R114. -/
inductive OwnerRow where
  | team | context | partition | device
  deriving DecidableEq, Repr

/-- The code of an owner row (R69). -/
def OwnerRow.code (r : OwnerRow) : Nat :=
  match r with
  | .team => 0
  | .context => 1
  | .partition => 2
  | .device => 3

/-- MEM_UNCORRECTABLE, of a line at a die, a channel and a device-physical address. -/
def State.reportLoss (s : State) (place : Nat × Nat × Nat) (row : OwnerRow) (c : Ctx) (va : VA) (wher : Nat) : State :=
  let (die, chan, phys) := place
  s.hwEvent { kind := 0x21, src := die, ctx := c.toNat, body := [(16, bytesNat 1 row.code), (17, bytesNat 1 wher),
    (18, bytesNat 1 die), (19, bytesNat 1 chan), (20, bytesNat 1 c.toNat), (24, bytesNat 8 va.toNat), (32, bytesNat 8 phys)] }

end Sys2Proof.Machine
end

