-- ==== Sys2Proof/Machine/Links.lean ====
section
/-! DEFINITION. The links and their layer: numbers, routes, flits with their CRC, messages, credits, the replay buffer, and what a
link holds when it comes up (R13, R14, R30 to R35, R69). -/

namespace Sys2Proof.Machine

open Sys2Proof

/-! ### Link numbers (R69) -/

/-- The IFL links. -/
def iflLinks : List Nat := (List.range 16).map (0x10 + ·)

/-- The die-to-die links. -/
def dieLinks : List Nat := (List.range 14).map (0x20 + ·)

/-- A die-to-die link. -/
def isDieLink (n : Nat) : Bool := decide (0x20 ≤ n) && decide (n < 0x2E)

/-- An IFL link. -/
def isIfl (n : Nat) : Bool := decide (0x10 ≤ n) && decide (n < 0x20)

/-- A link that exists. -/
def isLink (n : Nat) : Bool := n == ihl || isIfl n || isDieLink n

/-! ### Routes between dies (R13, R14) -/

/-- A die of the mesh: CD0 to CD7 are 0 to 7, IO0 is 8, IO1 is 9 (R32). -/
abbrev Node := Fin 10

/-- The I/O die that carries an IFL: links 0 to 7 are on IO0, 8 to 15 on IO1 (R12). -/
def iflNode (n : Nat) : Node := if n < 0x18 then 8 else 9

/-- The in-row link between positions p and p + 1 of a row. -/
def rowLink (row p : Nat) : Nat := 0x20 + 3 * row + p

/-- The links along a row from one position to another, in the order in which a request crosses them. -/
def alongRow (row a b : Nat) : List Nat :=
  if a ≤ b then (List.range (b - a)).map (fun k => rowLink row (a + k))
  else (List.range (a - b)).map (fun k => rowLink row (a - 1 - k))

/-- The link of an I/O die to the core die at its end of a row. -/
def ioLink (io row : Nat) : Nat := 0x2A + 2 * io + row

/-- The position in a row at which an I/O die stands. -/
def ioEnd (io : Nat) : Nat := 3 * io

/-- The links that a request from one die to another crosses (R14). -/
def route (src dst : Node) : List Nat :=
  let (s, d) := (src.val, dst.val)
  if s < 8 then
    if d < 8 then alongRow (s / 4) (s % 4) (d % 4) ++ (if s / 4 = d / 4 then [] else [0x26 + d % 4])
    else alongRow (s / 4) (s % 4) (ioEnd (d - 8)) ++ [ioLink (d - 8) (s / 4)]
  else if d < 8 then ioLink (s - 8) (d / 4) :: alongRow (d / 4) (ioEnd (s - 8)) (d % 4)
  else if s = d then []
  else ioLink (s - 8) 0 :: (alongRow 0 (ioEnd (s - 8)) (ioEnd (d - 8)) ++ [ioLink (d - 8) 0])

/-! ### The CRC (R30) -/

/-- The generator. -/
def crcPoly : BitVec 64 := 0x42F0E1EBA9EA3693

/-- Shift the register by one bit. -/
def crcShift (r : BitVec 64) : BitVec 64 := if r.getLsbD 63 then (r <<< 1) ^^^ crcPoly else r <<< 1

/-- One byte enters, most significant bit first. -/
def crcByte (r : BitVec 64) (b : Byte) : BitVec 64 :=
  (List.range 8).foldl (fun r _ => crcShift r) (r ^^^ (b.setWidth 64 <<< 56))

/-- CRC-64 of bytes: initial value and final XOR all ones. -/
def crc64 (bs : List Byte) : BitVec 64 := ~~~(bs.foldl crcByte (~~~0))

/-! ### Messages (R32) -/

/-- The message types, each with its channel and its length in units. -/
def msgTypes : List (Nat × Nat × Nat) :=
  [(0x01, 0, 1), (0x02, 0, 1), (0x03, 0, 9), (0x04, 0, 1), (0x05, 0, 1), (0x06, 0, 10), (0x11, 1, 9), (0x12, 1, 9), (0x13, 1, 9),
   (0x14, 1, 1), (0x15, 1, 1), (0x16, 1, 1), (0x17, 1, 1), (0x18, 1, 1), (0x19, 1, 1), (0x1A, 1, 2), (0x1B, 1, 9), (0x1C, 1, 1),
   (0x21, 2, 1), (0x22, 2, 9), (0x23, 2, 9), (0x24, 2, 1), (0x25, 2, 1), (0x26, 2, 1), (0x31, 3, 5), (0x32, 3, 5), (0x33, 3, 2),
   (0x34, 3, 2), (0x35, 3, 1)]

/-- A message (R32): its header, and the units after it. -/
def message (mtype srcp : Nat) (txn : Word) (opd : Nat) (body : List Byte) : List Byte :=
  bytesNat 1 mtype ++ bytesNat 1 (1 + body.length / 16) ++ bytesNat 2 srcp ++ bytesOfWord txn ++ bytesNat 8 opd ++ body

/-- The message type is one of the table. -/
def knownType (t : Nat) : Bool := msgTypes.any (fun e => e.1 == t)

/-- The messages of a body, from byte `at_` of the flit on, or none where one is not acceptable; zeros end the body. -/
def messages (body : List Byte) : Nat → Option (List (List Byte))
  | 0 => some []
  | n + 1 =>
    let (t, len) := (field body 0 1, field body 1 1)
    if body.length < 16 ∨ body.all (· == 0) = true then some []
    else if knownType t && decide (1 ≤ len) && decide (16 * len ≤ body.length) then
      (messages (body.drop (16 * len)) n).map (fun ms => body.take (16 * len) :: ms)
    else none

/-- A message that may be sent on a channel: of the table, with its length. -/
def sendableMsg (vc : Nat) (m : List Byte) : Bool :=
  msgTypes.any (fun e => e.1 == field m 0 1 && e.2.1 == vc && e.2.2 == field m 1 1 && m.length == 16 * e.2.2)

/-! ### Flits (R30) -/

/-- The code of a kind. -/
def kindCode (k : FlitKind) : Nat :=
  match k with
  | .idle => 0
  | .payload => 1
  | .retry => 2
  | .marker => 3

/-- The 256 bytes of a flit. -/
def flitBytes (seq ack : BitVec 16) (kind : FlitKind) (vc : Nat) (cred : Nat) (body : List Byte) : List Byte :=
  let bs := bytesNat 2 seq.toNat ++ bytesNat 2 ack.toNat ++ bytesNat 1 (kindCode kind) ++ bytesNat 1 vc ++ bytesNat 2 cred ++
    padTo 240 body
  bs ++ bytes64 (crc64 bs)

/-- The flit is whole: 256 bytes, a CRC that agrees, a kind that is sent, acceptable messages. -/
def flitGood (f : List Byte) : Bool :=
  f.length == 256 && field f 248 8 == (crc64 (f.take 248)).toNat && decide (field f 4 1 ≤ 3) &&
  (messages ((f.drop 8).take 240) 16).isSome

/-! ### A link -/

def State.setLink (s : State) (n : Nat) (l : Link) : State := { s with links := SMap.set Link.reset s.links n l }

/-- A link between the rows of the mesh. -/
def isCross (n : Nat) : Bool := decide (0x26 ≤ n) && decide (n < 0x2A)

/-- The lanes that a link has (R4): the die-to-die links have them in the proportion 3 in a row, 3 to an I/O die, 2 across (R13). -/
def lanesOfLink (n : Nat) : Nat :=
  if n = ihl then 32 else if isIfl n then 8 else (if isCross n then 2 else 3) * (Config.dieLanes + 1)

/-- The width below which a link goes down (R35); the half of an odd number of lanes is rounded down (DESIGN CHOICE, log 21). -/
def minWidth (n : Nat) : Nat := if n = ihl then 16 else if isIfl n then 4 else lanesOfLink n / 2

/-- The credits of each channel when a link comes up (R31). -/
def startCredit (n : Nat) : SMap Nat := (List.range 4).map (fun v => (v, if isDieLink n then 256 else 512))

/-- A link comes up. -/
def Link.begin (n : Nat) : Link :=
  { Link.reset with
    up := true
    acked := 0xFFFF
    credit := startCredit n
    width := lanesOfLink n }

/-- Links come up that are not. -/
def State.linksUp (s : State) (ns : List Nat) : State :=
  ns.foldl (fun s n => if (s.link n).up then s else s.setLink n (.begin n)) s

/-- The flits that no acknowledgement has released. -/
def replaySize : Nat := 512

/-- The credits that the next flit returns, and what is owed after it. -/
def Link.returnCredit (l : Link) : Nat × SMap Nat :=
  (List.range 4).foldl (fun (acc : Nat × SMap Nat) v =>
    let n := min 15 (SMap.get 0 l.owed v)
    (acc.1 + n * 16 ^ v, SMap.set 0 acc.2 v (SMap.get 0 l.owed v - n))) (0, l.owed)

/-- Send a flit: payload and retry flits are numbered and kept. -/
def Link.emit (l : Link) (kind : FlitKind) (vc : Nat) (body : List Byte) : Link :=
  let (cred, owed) := l.returnCredit
  let f := flitBytes l.seqNext (l.expect - 1) kind vc cred body
  let numbered := kind == .payload || kind == .retry
  { l with
    outbox := l.outbox ++ [f]
    owed := owed
    replay := if numbered then l.replay ++ [f] else l.replay
    seqNext := if numbered then l.seqNext + 1 else l.seqNext }

/-- The length of a message in credits. -/
def msgUnits (m : List Byte) : Nat := m.length / 16

/-- A payload may go: its messages fit one flit, its channel has the credits, the replay buffer has room. -/
def Link.maySend (l : Link) (vc : Nat) (msgs : List (List Byte)) : Bool :=
  let n := (msgs.map msgUnits).sum
  msgs.all (sendableMsg vc) && decide (1 ≤ n) && decide (n ≤ 15) && decide (n ≤ SMap.get 0 l.credit vc) &&
  decide (l.replay.length < replaySize)

/-- FLIT_SEND: nothing is sent while the link is down or retrains, or where the flit may not go. -/
def Link.send (l : Link) (kind : FlitKind) (vc : Nat) (msgs : List (List Byte)) : Link :=
  if !l.up || l.train then l
  else
    match kind with
    | .payload =>
      if l.maySend vc msgs then
        let n := (msgs.map msgUnits).sum
        ({ l with credit := SMap.set 0 l.credit vc (SMap.get 0 l.credit vc - n) }).emit .payload vc msgs.flatten
      else l
    | .retry => if l.replay.length < replaySize then l.emit .retry 0 [] else l
    | .idle => l.emit .idle 0 []
    | .marker => l.emit .marker 0 []

/-- The number of a flit. -/
def flitSeq (f : List Byte) : BitVec 16 := BitVec.ofNat 16 (field f 0 2)

/-- Flits that an acknowledgement releases: those not ahead of it. -/
def Link.release (l : Link) (ack : BitVec 16) : Link :=
  { l with
    replay := l.replay.filter (fun f => decide (0 < (flitSeq f - ack).toInt))
    acked := ack }

/-- Resend every kept flit from a number on, in order (R33). -/
def Link.resend (l : Link) (seq : BitVec 16) : Link :=
  { l with outbox := l.outbox ++ l.replay.filter (fun f => decide (0 ≤ (flitSeq f - seq).toInt)) }

/-- Send a retry request, or keep it due until the replay buffer has room for it. -/
def Link.requestRetry (l : Link) : Link :=
  if l.replay.length < replaySize then { l with askDue := false }.emit .retry 0 [] else { l with askDue := true }

/-- Ask for the first number that is missing (R33); after 16 requests for one number without success the link retrains (R34). A request
that waits for room in the replay buffer counts as made (DESIGN CHOICE, log 21). -/
def Link.askRetry (l : Link) : Link :=
  let n := if l.retries ≠ 0 ∧ l.retryOf = l.expect then l.retries + 1 else 1
  let l := ({ l with
    retryOf := l.expect
    retries := n }).requestRetry
  if 16 ≤ n then { l with
    train := true
    trains := l.trains + 1 } else l

/-- What an accepted flit brings: acknowledgement, credits, messages taken up at once, a retry request answered; a request of this end
that is due goes where there is room now, or is done with where the missing flit has come. A `vc` byte above 3 is taken modulo 4: R30
names the channels 0 to 3, and calls only a bad kind corrupt (DESIGN CHOICE, log 21). -/
def Link.accept (l : Link) (f : List Byte) : Link :=
  let ms := (messages ((f.drop 8).take 240) 16).getD []
  let kind := field f 4 1
  let vc := field f 5 1 % 4
  let cred := fun (v : Nat) => field f 6 2 / 16 ^ v % 16
  let l := l.release (BitVec.ofNat 16 (field f 2 2))
  let l := { l with
    expect := if kind = 1 ∨ kind = 2 then l.expect + 1 else l.expect
    retries := 0
    askDue := l.askDue && kind != 1 && kind != 2
    credit := (List.range 4).foldl (fun c v => SMap.set 0 c v (SMap.get 0 c v + cred v)) l.credit
    inbox := l.inbox ++ ms
    owed := SMap.set 0 l.owed vc (SMap.get 0 l.owed vc + (ms.map msgUnits).sum) }
  let l := if l.askDue then l.requestRetry else l
  if kind = 2 then l.resend (BitVec.ofNat 16 (field f 2 2) + 1) else l

/-- FLIT_RECEIVE (R33): in order and whole, it is accepted; behind, it is a duplicate; else a retry is requested. -/
def Link.receive (l : Link) (f : List Byte) : Link :=
  if !l.up || l.train then l
  else if !flitGood f then l.askRetry
  else
    let d := (flitSeq f - l.expect).toInt
    if d = 0 then l.accept f
    else if d < 0 then l
    else l.askRetry

end Sys2Proof.Machine
end

