-- ==== Sys2Proof/Machine/Translate.lean ====
section
/-! DEFINITION. Homing, page tables and permissions (R89 to R104, R110, R111, R141). -/

namespace Sys2Proof.Machine

open Sys2Proof

/-! ### Homing (R91) -/

/-- The window of an address (R89). -/
def windowOf (va : VA) : Nat := va.toNat / 2 ^ 48

/-- The offset within the window. -/
def offsetOf (va : VA) : Nat := va.toNat % 2 ^ 48

/-- The line index i = VA[15:7]. -/
def lineIndex (va : VA) : Nat := va.toNat / 128 % 512

/-- The channel and slice of a line index: i[5:0] xor the two copies of i[8:6]. -/
def sliceOf (i : Nat) : Nat := (i % 64) ^^^ (i / 64 * 9)

/-- The die that homes a line. -/
def homeDie (va : VA) : Nat := if windowOf va < 8 then windowOf va else lineIndex va / 64

/-- The slice that homes a line. -/
def homeSlice (va : VA) : Nat := sliceOf (lineIndex va)

/-- What HOMEQ answers (R330). -/
def homeWord (ownDie : Nat) (va : VA) : Word :=
  let w := windowOf va
  if w = 14 then BitVec.ofNat 32 (256 * ownDie + 0x7F)
  else if w = 12 ∨ w = 13 ∨ w = 15 then 0xFF7F#32
  else BitVec.ofNat 32 (256 * homeDie va + homeSlice va)

/-- The line address that holds an address. -/
def lineOf (va : VA) : VA := va &&& ~~~0x7F

/-! ### DRAM locations (R95, R96) -/

/-- The key of a byte of a channel. -/
def dramKey (die channel addr : Nat) : Nat := (die * 64 + channel) * 2 ^ 31 + addr

/-- The location of line index `i` of package frame f: the key of its first byte. -/
def packageLine (mbound i f : Nat) : Nat := dramKey (i / 64) (sliceOf i) (mbound * 2 ^ 20 + f * 128)

/-- The location of slot s of die-pinned frame f of die n, in the channel of line index i. -/
def pinnedLine (n i f s : Nat) : Nat := dramKey n (sliceOf i) (f * 1024 + s * 128)

/-- The location of a device-physical byte (R96). -/
def physKey (s : State) (d : Nat) : Nat := packageLine s.mem.mbound (d / 128 % 512) (d / 65536) + d % 128

/-- A byte of device memory; power-on contents read 0 (DESIGN CHOICE, log 1). -/
def State.dramByte (s : State) (k : Nat) : Byte := SMap.get 0 s.mem.dram k

def State.setDram (s : State) (k : Nat) (b : Byte) : State :=
  { s with mem := { s.mem with dram := SMap.set 0 s.mem.dram k b } }

/-- n bytes from a device-physical address, little-endian. -/
def State.phys (s : State) (d n : Nat) : Nat :=
  natOfBytes ((List.range n).map (fun k => s.dramByte (physKey s (d + k))))

/-- Write bytes at a device-physical address. -/
def State.setPhys (s : State) (d : Nat) (bs : List Byte) : State :=
  bs.zipIdx.foldl (fun s e => s.setDram (physKey s (d + e.2)) e.1) s

/-! ### Descriptors and shape records (R97, R110) -/

/-- n bytes at an offset of the descriptor of a context. -/
def State.descriptor (s : State) (c : Ctx) (off n : Nat) : Nat :=
  s.phys (s.mem.ctxtab.toNat % 2 ^ 48 + 64 * c.toNat + off) n

/-- Window-10 access of a context: 0 none, 1 read, 2 read and write (R97). -/
def State.fabricAccess (s : State) (c : Ctx) : Nat :=
  let v := s.descriptor c 32 1
  if v ≤ 2 then v else 0

/-- A shape record (R110). -/
structure Shape where
  rows  : Nat
  rowb  : Nat
  pitch : Nat
  base  : Nat
  deriving DecidableEq, Repr

/-- Record k of a context's shape table; without a table every record is inactive with base 0 (DESIGN CHOICE, log 22). -/
def State.shape (s : State) (c : Ctx) (k : Nat) : Shape :=
  let t := s.descriptor c 8 8
  if t = 0 then { rows := 0, rowb := 0, pitch := 0, base := 0 }
  else
    let a := t + 16 * k
    { rows := s.phys a 2, rowb := s.phys (a + 2) 2, pitch := s.phys (a + 4) 4, base := s.phys (a + 8) 8 }

/-- A malformed record (R110). -/
def Shape.malformed (r : Shape) : Bool :=
  decide (256 < r.rows) ||
  (r.rows != 0 && (r.rowb == 0 || r.rowb % 128 != 0 || decide (4096 < r.rowb) || r.pitch % 128 != 0 ||
                   decide (r.pitch < r.rowb)))

/-- The rotation of a page bound to an active record (R111); a page below `base` gives a difference modulo 2^64
(DESIGN CHOICE, log 22). -/
def Shape.rotation (r : Shape) (page : Nat) : Nat :=
  if r.rows = 0 ∨ r.pitch = 0 ∨ r.rowb = 0 then 0
  else
    let d := (page + 2 ^ 64 - r.base % 2 ^ 64) % 2 ^ 64
    (d / r.pitch % r.rows + d % r.pitch / r.rowb) % 8

/-! ### Page entries (R101, R102) -/

/-- Bits `hi` to `lo` of an entry. -/
def ebits (e : DWord) (hi lo : Nat) : Nat := e.toNat / 2 ^ lo % 2 ^ (hi + 1 - lo)

/-- The attributes of a leaf. -/
def leafAttr (e : DWord) : PageAttr :=
  { sh := ebits e 62 61, ms := e.getLsbD 60, swm := e.getLsbD 59, ro := e.getLsbD 58, x := e.getLsbD 57,
    us := e.getLsbD 56, apk := ebits e 55 52, shp := ebits e 51 48 }

/-- Why a walk ended: the entry's `why` and `lvl` of R104. -/
structure WalkFault where
  why : Nat
  lvl : Nat
  deriving DecidableEq, Repr

/-- The level at which a page kind is a leaf (R100). -/
def leafLevel (psz : Nat) : Nat := if psz = 2 then 3 else 4

/-- The piece of a large page that an address lies in (R95). -/
def pieceOf (psz : Nat) (va : VA) : Nat :=
  let g := va.toNat / 65536
  if psz = 1 then g % 32 else if psz = 2 then g % 16384 else 0

/-- Frames that a page maps. -/
def framesOf (psz : Nat) : Nat := if psz = 1 then 32 else if psz = 2 then 16384 else 1

/-- The fields of a leaf break the rules of its window (R102, R141). -/
def leafMalformed (s : State) (c : Ctx) (w : Nat) (e : DWord) : Bool :=
  let a := leafAttr e
  let f := ebits e 47 16
  let psz := ebits e 15 14
  ebits e 13 0 != 0 || f % framesOf psz != 0 || (s.shape c a.shp).malformed ||
  (if w < 8 ∨ w = 8 then decide (2 ≤ a.sh) || a.apk != 0
   else if w = 9 then a.sh != 3 || a.apk != 0 || a.ms || a.swm
   else if w = 10 then a.sh != 2 || a.apk != 0 || a.swm
   else
     let r := s.shape c a.shp
     let ek := ebits e 47 46
     let part := ebits e 45 44
     decide (2 ≤ a.sh) || (a.apk != 1 && a.apk != 2) || a.ms || a.swm || r.rows != 0 ||
     ebits e 43 40 != 0 || ek == 3 || (a.apk == 1 && part != 0) || (a.apk == 2 && ek != 2 && decide (2 ≤ part)))

/-- Frames of the package pool. -/
def packageFrames (s : State) : Nat := (s.channelMiB - s.mem.mbound) * 8192

/-- A leaf names a frame outside its pool (R95, R102, R141). -/
def leafOutside (s : State) (w : Nat) (e : DWord) : Bool :=
  let f := ebits e 47 16
  let n := framesOf (ebits e 15 14)
  if w < 8 then decide (s.mem.mbound * 1024 < f + n)
  else if w = 9 then false
  else if w = 11 then
    let src := ebits e 39 16
    decide (packageFrames s < src + n + (if ebits e 55 52 = 2 then 1 else 0))
  else decide (packageFrames s < f + n)

/-- The index of an address at a level from 1 to 4 (R100). -/
def levelIndex (va : VA) (level : Nat) : Nat := va.toNat / 2 ^ (52 - 9 * level) % 512

/-- The last `n` levels of a walk, from the table at `table` (R100 to R102): the leaf, or why there is none. -/
def walkFrom (s : State) (c : Ctx) (va : VA) (table : Nat) : Nat → Except WalkFault DWord
  | 0 => .error { why := 1, lvl := 3 }
  | n + 1 =>
    let level := 4 - n
    let e : DWord := BitVec.ofNat 64 (s.phys (table + 8 * levelIndex va level) 8)
    let psz := ebits e 15 14
    let w := windowOf va
    if !e.getLsbD 63 then .error { why := 0, lvl := level - 1 }
    else if psz = 3 then
      if level = 4 ∨ ebits e 62 48 ≠ 0 ∨ ebits e 9 0 ≠ 0 then .error { why := 1, lvl := level - 1 }
      else if packageFrames s ≤ ebits e 47 16 then .error { why := 2, lvl := level - 1 }
      else walkFrom s c va (ebits e 47 16 * 65536 + ebits e 13 10 * 4096) n
    else if leafLevel psz ≠ level ∨ leafMalformed s c w e then .error { why := 1, lvl := level - 1 }
    else if leafOutside s w e then .error { why := 2, lvl := level - 1 }
    else .ok e

/-- A walk of the tables of a context. -/
def walk (s : State) (c : Ctx) (va : VA) : Except WalkFault DWord :=
  let root := s.descriptor c 0 8
  if root % 2 = 0 then .error { why := 0, lvl := 0 }
  else walkFrom s c va (root / 4096 % 2 ^ 36 * 4096) 4

/-- The tag under which an address is held: tag 0 in window 10 (R92). -/
def tagFor (c : Ctx) (va : VA) : Ctx := if windowOf va = 10 then 0 else c

/-- The key of a translation-cache entry: tag and 64 KiB page. -/
def tkey (c : Ctx) (va : VA) : Nat := c.toNat * 2 ^ 36 + va.toNat / 65536

/-- The leaf that an address translates by: from the translation cache, or a walk (R94, R100). -/
def leafOf (s : State) (c : Ctx) (va : VA) : Except WalkFault DWord :=
  match SMap.find? s.mem.tcache (tkey c va) with
  | some e => .ok e
  | none => walk s c va

/-- The channel keeps a translation that a walk gave. -/
def State.cacheLeaf (s : State) (c : Ctx) (va : VA) (e : DWord) : State :=
  { s with mem := { s.mem with tcache := SMap.set 0 s.mem.tcache (tkey c va) e } }

/-! ### Permissions (R90, R103) -/

/-- The kinds of access. -/
inductive Access where
  | read | write | fetch
  deriving DecidableEq, Repr

/-- R103 refuses the access. -/
def permBad (a : PageAttr) (acc : Access) (priv : Bool) : Bool :=
  (acc == .write && a.ro) || (acc == .fetch && !a.x) || (!a.us && !priv)

/-- What a lane of an access meets at its channel. -/
structure MFault where
  cause : Nat
  why   : Nat
  lvl   : Nat
  fab   : Bool
  deriving DecidableEq, Repr

/-- `tinfo` of TRANSLATION and PROTECTION (R104). -/
def MFault.info (m : MFault) (write : Bool) : Nat :=
  if m.cause = Cause.translation ∨ m.cause = Cause.protection then
    64 * m.why + 16 * m.lvl + (if m.fab then 8 else 0) + (if write then 4 else 0) + 1
  else 0

/-- `tinfo` of a cause of R90 at an address (R104, R257). -/
def issueInfo (cause : Nat) (va : VA) (write : Bool) : Nat :=
  if cause = Cause.window then windowOf va else ({ cause := cause, why := 0, lvl := 0, fab := false } : MFault).info write

/-- The device that a window-10 address names (R89). -/
def deviceOf (va : VA) : Nat := va.toNat / 2 ^ 40 % 256

/-- A device is a member of the partition. -/
def State.isMember (s : State) (d : Nat) : Bool := s.fab.inForce && s.fab.cfg.members.getLsbD d

/-- The window-10 address is homed by this device. -/
def State.ownFabric (s : State) (va : VA) : Bool := s.fab.inForce && deviceOf va == s.fab.cfg.devno.toNat

/-- What the home device's global page table gives for a window-10 address: by this device's own tables, or by those of another
device, which are free (R103). -/
def homeLeaf (s : State) (va : VA) : Except WalkFault DWord :=
  if s.ownFabric va then leafOf s 0 va
  else
    let e := Config.remoteEntry s.freeCtr va.toNat
    if e.getLsbD 63 then .ok ((e &&& ~~~0x68F0000000000000) ||| 0x4000000000000000)
    else .error { why := ebits e 1 0 % 3, lvl := ebits e 3 2 }

/-- PROTECTION for a walk that has found a leaf (R103, R104). -/
def protFault (e : DWord) (why : Nat) (fab : Bool) : MFault :=
  { cause := Cause.protection, why := why, lvl := leafLevel (ebits e 15 14) - 1, fab := fab }

/-- Translate an access and check R103: the leaf, or what the channel reports. In window 10 the home device refuses a write to a
page with `ro` = 1; that `us` = 0 fails there too, with reason 0, is DEDUCED (log 19). -/
def translate (s : State) (c : Ctx) (acc : Access) (priv : Bool) (va : VA) : Except MFault DWord :=
  if windowOf va = 10 then
    if acc = .write ∧ s.fabricAccess c = 1 then .error { cause := Cause.protection, why := 0, lvl := 0, fab := false }
    else
      match homeLeaf s va with
      | .error e => .error { cause := Cause.translation, why := e.why, lvl := e.lvl, fab := true }
      | .ok e =>
        if acc = .write ∧ (leafAttr e).ro then .error (protFault e 3 true)
        else if !(leafAttr e).us ∧ !priv then .error (protFault e 0 true)
        else .ok e
  else
    match leafOf s c va with
    | .error e => .error { cause := Cause.translation, why := e.why, lvl := e.lvl, fab := false }
    | .ok e => if permBad (leafAttr e) acc priv then .error (protFault e 0 false) else .ok e

/-- The issue checks of R90 for an access of n bytes; the highest-numbered cause wins (DEDUCED, log 36). -/
def issueCheck (s : State) (g : Group) (scrb : Nat) (va : VA) (n : Nat) : Option Nat :=
  let w := windowOf va
  if w = 12 ∨ w = 13 ∨ w = 15 then some Cause.window
  else if w = 10 ∧ !s.isMember (deviceOf va) then some Cause.window
  else if w = 10 ∧ s.fabricAccess g.ctx = 0 then some Cause.protection
  else if w = 14 ∧ scrb < offsetOf va + n then some Cause.scratchRange
  else none

/-! ### Where a line lies -/

/-- The key of the first byte of a line of device memory that a leaf maps (R95, R111). Windows 0 to 8 and 10. -/
def lineKey (s : State) (c : Ctx) (va : VA) (e : DWord) : Nat :=
  let w := windowOf va
  let i := lineIndex va
  let f := ebits e 47 16 + pieceOf (ebits e 15 14) va
  if w < 8 then
    let k := (s.shape c (leafAttr e).shp).rotation (va.toNat / 65536 * 65536)
    pinnedLine w i f ((i / 64 + k) % 8)
  else packageLine s.mem.mbound i f

/-- The host address of a window-9 address (R101). -/
def hostAddr (va : VA) (e : DWord) : Nat :=
  (ebits e 47 16 + pieceOf (ebits e 15 14) va) % 2 ^ 32 * 65536 + va.toNat % 65536

end Sys2Proof.Machine
end

