-- ==== Sys2Proof/Machine/BaseDie.lean ====
section
/-! DEFINITION. The memory-side caches of the stack base dies: which lines they hold, never what a line reads as (R106 to R109;
DESIGN CHOICE, log 5). -/

namespace Sys2Proof.Machine

open Sys2Proof

/-- The channel that holds a location. -/
def locChannel (loc : Nat) : Nat := loc / 2 ^ 31

/-- The HBM4 stack of a channel: 2n and 2n + 1 belong to CDn, each with 32 channels (R12, R106). -/
def stackOf (chan : Nat) : Nat := chan / 32

/-- The cache die of a slice, below its core die: cache die k holds slices 16k to 16k + 15 (R12). -/
def cacheDieOf (slice : Nat) : Nat := slice % 64 / 16

/-- The die of that channel, which homes the location. -/
def locDie (loc : Nat) : Nat := locChannel loc / 64

/-- The location is one of device memory. -/
def isDram (loc : Nat) : Bool := decide (loc < 2 ^ 40)

/-- The base die of a location runs its cache in compatibility mode (R109). -/
def State.compat (s : State) (loc : Nat) : Bool := s.pkg.mscActive.getLsbD (locDie loc)

/-- Bytes of a line of the cache. -/
def State.mscBytes (s : State) (loc : Nat) : Nat := if s.compat loc then 2048 else 128

/-- The first location of the cache line that a location lies in. -/
def State.mscTag (s : State) (loc : Nat) : Nat := loc / s.mscBytes loc * s.mscBytes loc

/-- The set of a location in its channel's 2 MiB of 16 ways; which address bits select it is a DESIGN CHOICE (log 5). -/
def State.mscSet (s : State) (loc : Nat) : Nat :=
  locChannel loc * 1024 + loc % 2 ^ 31 / s.mscBytes loc % (if s.compat loc then 64 else 1024)

/-- The sectors that the 128 bytes of a line take. -/
def State.mscWant (s : State) (loc : Nat) : BitVec 32 := if s.compat loc then 3#32 <<< (loc % 2048 / 64) else 3

/-- The line of the cache that holds a location, in its set. -/
def State.mscFind (s : State) (loc : Nat) : Option MscLine :=
  (SMap.get [] s.mem.msc (s.mscSet loc)).find? (fun x => x.tag == s.mscTag loc)

/-- The cache holds the 128 bytes of a line. -/
def State.mscHolds (s : State) (loc : Nat) : Bool :=
  isDram loc && (s.mscFind loc).any (fun x => x.valid &&& s.mscWant loc == s.mscWant loc)

/-- The entry of the footprint predictor of a base die, which serves 32 channels, for a line (R108; which entry: DESIGN CHOICE, log 5). -/
def footKey (tag : Nat) : Nat := locChannel tag / 32 * 4096 + tag % 2 ^ 31 / 2048 % 4096

/-- A line leaves the cache: a dirty one is written to DRAM, and in compatibility mode its footprint is recorded: every
sector that it holds, the predicted ones too (R108 does not say which: DESIGN CHOICE, log 5). -/
def State.mscLeave (s : State) (y : MscLine) : State :=
  if s.compat y.tag then { s with mem := { s.mem with foot := SMap.set 0 s.mem.foot (footKey y.tag) y.valid } } else s

/-- A line enters its set as the most recently touched; the least recently touched of sixteen leaves. -/
def State.mscPut (s : State) (loc : Nat) (x : MscLine) : State :=
  let k := s.mscSet loc
  let ys := (SMap.get [] s.mem.msc k).filter (fun y => y.tag != x.tag)
  let out := ys.take (ys.length - 15)
  let s := out.foldl State.mscLeave s
  { s with mem := { s.mem with msc := SMap.set [] s.mem.msc k (ys.drop (ys.length - 15) ++ [x]) } }

/-- A line is taken out of its set. -/
def State.mscDrop (s : State) (loc : Nat) : State :=
  let k := s.mscSet loc
  { s with mem := { s.mem with
    msc := SMap.set [] s.mem.msc k ((SMap.get [] s.mem.msc k).filter (fun y => y.tag != s.mscTag loc)) } }

/-- An L2 reads a line of its channel: in native mode a hit moves the line, with its dirtiness, to L2 (R107); in compatibility mode a
miss allocates a line with the demanded sectors and the predicted ones (R108). -/
def State.mscRead (s : State) (loc : Nat) : State × Bool :=
  if s.compat loc then
    match s.mscFind loc with
    | some x => (s.mscPut loc { x with valid := x.valid ||| s.mscWant loc }, false)
    | none => (s.mscPut loc { tag := s.mscTag loc, valid := s.mscWant loc ||| SMap.get 0 s.mem.foot (footKey (s.mscTag loc)),
                              dirty := 0 }, false)
  else
    match s.mscFind loc with
    | some x => (s.mscDrop loc, x.dirty != 0)
    | none => (s, false)

/-- An L2 evicts a line of its channel: in native mode it enters the cache (R107); in compatibility mode the sectors present take it
(R108). -/
def State.mscEvict (s : State) (loc : Nat) (dirty : Bool) : State :=
  let want := s.mscWant loc
  if s.compat loc then
    match s.mscFind loc with
    | some x => s.mscPut loc { x with dirty := if dirty then x.dirty ||| (want &&& x.valid) else x.dirty }
    | none => s
  else s.mscPut loc { tag := s.mscTag loc, valid := want, dirty := if dirty then want else 0 }

end Sys2Proof.Machine
end

