-- ==== Sys2Proof/Machine/Mem.lean ====
section
/-! DEFINITION. Memory as a core sees it: L1 copies and timestamp leases (R127 to R133), the slices and the directory between
dies (R134 to R137, R443), scratch, host memory, apertures (R141 to R144), and what a store or an atomic does at its
slice. The coherent value of a line is held once, in device memory; L1 copies and the copies of software-managed lines
hold their own bytes (DESIGN CHOICE, log 5). -/

namespace Sys2Proof.Machine

open Sys2Proof

/-- What an access to memory does: it is performed, or it must wait, with what it has asked for recorded. -/
inductive Acc (α : Type) where
  | done (s : State) (a : α)
  | blocked (s : State)

/-! ### Bytes of lines -/

/-- A line from its bytes, byte 0 lowest. -/
def lineOfBytes (f : Nat → Byte) : Line := BitVec.ofNat 1024 (natOfBytes ((List.range 128).map f))

/-- Byte k of a line. -/
def byteOf (l : Line) (k : Nat) : Byte := l.extractLsb' (8 * k) 8

/-- n bytes of a line from byte k on, little-endian. -/
def lineField (l : Line) (k n : Nat) : Nat := l.toNat / 2 ^ (8 * k) % 2 ^ (8 * n)

/-- Replace byte k of a line. -/
def setByte (l : Line) (k : Nat) (b : Byte) : Line :=
  (l &&& ~~~((0xFF#1024) <<< (8 * k))) ||| (b.setWidth 1024 <<< (8 * k))

/-- Replace the bytes that a store writes: a list of offsets in the line and bytes. -/
def setBytes (l : Line) (bs : List (Nat × Byte)) : Line := bs.foldl (fun l e => setByte l e.1 e.2) l

/-- The offsets and bytes of a store of n bytes of a number at offset k. -/
def storeBytes (k n x : Nat) : List (Nat × Byte) := (List.range n).map (fun j => (k + j, BitVec.ofNat 8 (x / 2 ^ (8 * j))))

/-- The 128 bytes of device memory from a key on. -/
def State.dramLine (s : State) (key : Nat) : Line := lineOfBytes (fun k => s.dramByte (key + k))

/-- Write bytes of a line of device memory. -/
def State.setDramBytes (s : State) (key : Nat) (bs : List (Nat × Byte)) : State :=
  bs.foldl (fun s e => s.setDram (key + e.1) e.2) s

/-! ### L1 (R92, R127) -/

/-- The key of a way of a set of an L1: set and bank. -/
def l1Key (va : VA) (bank : Nat) : Nat := va.toNat / 128 % 128 * 64 + bank

/-- The ways of a core: its cache-mode banks and its lent banks that are not draining (R127). -/
def State.ways (s : State) (core : Nat) : List Nat :=
  (List.range 64).filter fun n =>
    let b := s.bank (bankKey (core / 2) n)
    !b.drn && b.core == core % 2 && (b.mode == .cache || (b.mode == .scratch && b.clm.isNone))

/-- A line number: VA[51:7]. -/
def lineNo (va : VA) : Nat := va.toNat / 128

/-- The way of an L1 that holds a line. -/
def State.l1Find (s : State) (core : Nat) (c : Ctx) (va : VA) : Option (Nat × L1Line) :=
  (s.ways core).findSome? fun n =>
    match SMap.get none (s.core core).l1 (l1Key va n) with
    | some x => if x.ctx == c && x.line == lineNo va then some (n, x) else none
    | none => none

def State.setL1 (s : State) (core key : Nat) (x : Option L1Line) : State :=
  let k := s.core core
  s.setCore core { k with l1 := SMap.set none k.l1 key x }

/-- A copy that a load may use without a renewal (R129). -/
def L1Line.valid (x : L1Line) (ct clk : Nat) : Bool := !x.expired && decide (ct ≤ x.rts) && decide (clk < x.filled + 1024)

/-- The way that a miss replaces: an empty one, else the least recently used, the lowest bank among equals (R127). -/
def State.victim (s : State) (core : Nat) (va : VA) : Option Nat :=
  let age := fun n => match SMap.get none (s.core core).l1 (l1Key va n) with
    | some x => x.used + 1
    | none => 0
  match s.ways core with
  | [] => none
  | w :: ws => some (ws.foldl (fun b n => if age n < age b then n else b) w)

/-- The tag of an evicted line enters the victim tags of the group that last loaded it, of which it keeps 8 (R212). -/
def State.noteVictim (s : State) (y : Option L1Line) : State :=
  match y with
  | none => s
  | some y =>
    match y.loader.bind (fun gid => (s.group? gid).map (fun g => (gid, g))) with
    | some (gid, g) =>
      let vs := g.victims ++ [y.line]
      s.setGroup gid { g with victims := vs.drop (vs.length - 8) }
    | none => s

/-- A load miss on a victim tag of its group counts a hit for the quarter, and the tag is gone (R212). -/
def State.victimHit (s : State) (gid : Nat) (va : VA) : State :=
  match s.group? gid with
  | some g =>
    if g.victims.contains (lineNo va) then
      let k := quarterKey g.coreId g.quarter
      let s := s.setGroup gid { g with victims := g.victims.erase (lineNo va) }
      s.setQuarter k { s.quarter k with hits := (s.quarter k).hits + 1 }
    else s
  | none => s

/-- Install or refresh a copy (R129); a core with no way keeps none (R123). `loader` is the group that loaded it. -/
def State.installL1 (s : State) (core : Nat) (x : L1Line) (va : VA) : State :=
  match s.l1Find core x.ctx va with
  | some (n, _) => s.setL1 core (l1Key va n) (some x)
  | none =>
    match s.victim core va with
    | some n => (s.noteVictim (SMap.get none (s.core core).l1 (l1Key va n))).setL1 core (l1Key va n) (some x)
    | none => s

/-- Mark expired the copies of a core that a test accepts. -/
def Core.expire (k : Core) (p : L1Line → Bool) : Core :=
  { k with l1 := k.l1.map (fun e => (e.1, e.2.map (fun x => if p x then { x with expired := true } else x))) }

/-- A lease-end to every L1 of a die (R131, R132). -/
def State.leaseEnd (s : State) (die : Nat) (p : L1Line → Bool) : State :=
  { s with cores := s.cores.map (fun e => if e.1 / 64 = die then (e.1, Core.expire e.2 p) else e) }

/-- An acquire that takes no timestamp marks every copy of the core expired (R153). -/
def State.expireAll (s : State) (core : Nat) : State := s.setCore core ((s.core core).expire (fun _ => true))

/-- Raise the time of a core; a time of 2^63 makes the die sweep (R132). -/
def State.raiseCt (s : State) (core t : Nat) : State :=
  let k := s.core core
  let ct := max k.ct t
  let s := s.setCore core { k with ct := ct }
  if h : 2 ^ 63 ≤ ct ∧ core / 64 < 8 then s.post (.ctLimitSweep ⟨core / 64, h.2⟩) else s

/-! ### Watch entries (R162) -/

/-- Strike the pending entries that a test accepts. -/
def Core.strike (k : Core) (p : Watch → Bool) : Core :=
  { k with uwt := k.uwt.map (fun w => if w.state == .pending && p w then { w with state := .struck } else w) }

/-- Strike on every core of the package. -/
def State.strikeAll (s : State) (p : Watch → Bool) : State :=
  { s with cores := s.cores.map (fun e => (e.1, Core.strike e.2 p)) }

/-! ### Slices (R128 to R132) -/

/-- The key of a slice. -/
def sliceKeyOf (die slice : Nat) : Nat := die * 64 + slice

/-- The key of a line held by a die's L2. -/
def l2Key (die : Nat) (c : Ctx) (va : VA) : Nat := (die * 256 + c.toNat) * 2 ^ 45 + lineNo va

/-- The die, tag and line number of an L2 key. -/
def l2KeyDie (k : Nat) : Nat := k / 2 ^ 53

def l2KeyCtx (k : Nat) : Ctx := BitVec.ofNat 8 (k / 2 ^ 45)

def l2KeyLine (k : Nat) : Nat := k % 2 ^ 45

def State.l2At (s : State) (k : Nat) : Option L2Line := SMap.get none s.l2 k

def State.setL2 (s : State) (k : Nat) (x : Option L2Line) : State := { s with l2 := SMap.set none s.l2 k x }

/-- The slice of an L2 key. -/
def l2KeySlice (k : Nat) : Nat := sliceKeyOf (l2KeyDie k) (sliceOf (l2KeyLine k % 512))

/-- The copies of one location that the test on keys accepts: all synonyms (R93). -/
def State.copiesOf (s : State) (loc : Nat) (p : Nat → Bool) : List (Nat × L2Line) :=
  s.l2.filterMap fun e =>
    match e.2 with
    | some x => if x.loc == loc && p e.1 then some (e.1, x) else none
    | none => none

/-- The copies of a location in the slice of a die. -/
def State.copiesIn (s : State) (loc die : Nat) : List (Nat × L2Line) := s.copiesOf loc (fun k => l2KeyDie k == die)

/-! ### Rebase sweeps (R132) -/

/-- The offset at which a slice must rebase (R132). -/
def rebaseAt : Nat := 2 ^ 32 - 2 ^ 16

/-- Begin a rebase sweep (R132). -/
def State.beginRebase (s : State) (sk : Nat) : State :=
  let s := s.setSlice sk { s.slice sk with sweep := true }
  let s := s.leaseEnd (sk / 64) (fun y => sliceOf (y.line % 512) == sk % 64)
  let s := s.strikeAll (fun w => sliceOf (w.line % 512) == sk % 64)
  if h : sk / 64 < 8 ∧ sk % 64 < 64 then s.post (.rebaseComplete ⟨sk / 64, h.1⟩ ⟨sk % 64, h.2⟩) else s

/-! ### System-scope lines at this device, and those of a location of its memory (R37, R93) -/

/-- The global address of a window-10 address (R37). -/
def globalOf (va : VA) : LineAddr := va.extractLsb' 7 41

/-- The window-10 address of a line. -/
def fabricVa (g : LineAddr) : VA := BitVec.ofNat 52 (10 * 2 ^ 48 + g.toNat * 128)

/-- The device that homes a line. -/
def homeDevice (g : LineAddr) : Device := g.extractLsb' 33 8

/-- A system-scope line that nothing has touched. -/
def SysLine.none : SysLine := { st := .i, data := 0, miss := .none, waited := 0, wbWait := false }

def State.sysLine (s : State) (g : LineAddr) : SysLine := (SMap.get .none s.fab.lines g.toNat).getD .none

def State.setSysLine (s : State) (g : LineAddr) (x : SysLine) : State :=
  { s with fab := { s.fab with lines := SMap.set .none s.fab.lines g.toNat (if x = .none then .none else some x) } }

/-- The home memory of a line as one key of device memory, where this device homes it. -/
def State.homeKey (s : State) (g : LineAddr) : Option Nat :=
  match leafOf s 0 (fabricVa g) with
  | .ok e => some (lineKey s 0 (fabricVa g) e)
  | .error _ => none

/-- The system-scope lines that this device holds of a location of its own memory. -/
def State.sysNames (s : State) (loc : Nat) : List LineAddr :=
  if !s.fab.inForce then []
  else s.fab.lines.filterMap (fun (e : Nat × Option SysLine) =>
    let g : LineAddr := BitVec.ofNat 41 e.1
    if homeDevice g = s.fab.cfg.devno ∧ e.2.any (fun y => y.st != .i) ∧ s.homeKey g = some loc then some g else none)

/-- Bytes written to a location of device memory are in every system-scope line of it. -/
def State.writeNames (s : State) (loc : Nat) (bs : List (Nat × Byte)) : State :=
  (s.sysNames loc).foldl (fun s g =>
    let y := s.sysLine g
    s.setSysLine g { y with data := setBytes y.data bs, st := .m }) s

/-! ### Leaving an L2 (R130, R131, R135, R137) -/

/-- A line leaves an L2: its leases end, the slice remembers its `rts`, pending watches are struck (R130, R131, R162). -/
def State.leaveL2 (s : State) (k : Nat) (x : L2Line) : State :=
  let sl := s.slice (l2KeySlice k)
  let s := s.setSlice (l2KeySlice k) { sl with mrts := max sl.mrts x.rts }
  let s := s.leaseEnd (l2KeyDie k) (fun y => y.ctx == l2KeyCtx k && y.line == l2KeyLine k)
  (s.strikeAll (fun w => w.ctx == l2KeyCtx k && w.line == l2KeyLine k)).setL2 k none

/-- The line number is one of window 11. -/
def isAperture (n : Nat) : Bool := n / 2 ^ 41 == 11

/-- Bytes of a source line have changed: every aperture line is gone from every L2 and expired in every L1 (R144; that all go is
DESIGN CHOICE, log 22). -/
def State.dropApertures (s : State) : State :=
  let s := { s with cores := s.cores.map (fun (e : Nat × Core) => (e.1, e.2.expire (fun y => isAperture y.line))) }
  (s.l2.filter (fun (e : Nat × Option L2Line) => isAperture (l2KeyLine e.1))).foldl (fun s e =>
    match e.2 with
    | some x => s.leaveL2 e.1 x
    | none => s) s

/-- A copy with its bytes changed by a write that its slice performs on behalf of no core (R443). -/
def L2Line.takeBytes (x : L2Line) (bs : List (Nat × Byte)) : L2Line :=
  { x with
    data := setBytes x.data bs
    wts := x.rts + 1
    rts := x.rts + 1 }

/-- Dirty bytes of a software-managed line arrive at the home: device memory takes them, and every name of the line there, whose
leases end as those of any write on behalf of no core (R93, R137; that a writeback is one is DEDUCED, log 23); apertures are built
again (R144). -/
def State.toHome (s : State) (loc : Nat) (bs : List (Nat × Byte)) : State :=
  if bs.isEmpty then s
  else
    let s := ((s.setDramBytes loc bs).writeNames loc bs).dropApertures
    (s.copiesIn loc (locDie loc)).foldl (fun s e =>
      let s := s.setL2 e.1 (some (e.2.takeBytes bs))
      let s := s.leaseEnd (locDie loc) (fun y => y.ctx == l2KeyCtx e.1 && y.line == l2KeyLine e.1)
      if rebaseAt ≤ e.2.rts + 1 then s.beginRebase (l2KeySlice e.1) else s) s

/-- The dirty bytes of a copy. -/
def L2Line.dirtyBytes (x : L2Line) : List (Nat × Byte) :=
  ((List.range 128).filter (fun j => x.dirty.getLsbD j)).map (fun j => (j, byteOf x.data j))

/-- The dirty bytes of a copy have been written back: no synonym in its slice keeps them dirty (R93, R137). -/
def State.cleanCopies (s : State) (loc die : Nat) (m : BitVec 128) : State :=
  (s.copiesIn loc die).foldl (fun s e => s.setL2 e.1 (some { e.2 with dirty := e.2.dirty &&& ~~~m })) s

def State.dieEntry (s : State) (loc : Nat) : DieDir :=
  (SMap.get none s.dieDir loc).getD { st := .i, sharers := 0, owner := 0, touched := 0 }

def State.setDieEntry (s : State) (loc : Nat) (x : DieDir) : State :=
  { s with dieDir := SMap.set none s.dieDir loc (if x.st = .i then none else some x) }

/-- The last copy that a die has of a line leaves it: the owner's M or O is written back, as R42 has it (R135). E and S leave
silently. -/
def State.dieWriteback (s : State) (loc die : Nat) (st : DirState) : State :=
  let d := s.dieEntry loc
  if d.owner ≠ die ∨ !(s.copiesIn loc die).isEmpty then s
  else
    match d.st, st with
    | .e, .m | .m, .m => s.setDieEntry loc { d with st := .i }
    | .o, .m | .o, .o => s.setDieEntry loc { d with
        st := .s
        owner := 0
        sharers := d.sharers &&& ~~~((1#8) <<< die) }
    | _, _ => s

/-- Remove a line from an L2. Dirty bytes of a software-managed copy go to the home (R137), an owner's writeback to the directory
(R135). -/
def State.dropL2 (s : State) (k : Nat) : State :=
  match s.l2At k with
  | none => s
  | some x =>
    let s := ((s.leaveL2 k x).toHome x.loc x.dirtyBytes).cleanCopies x.loc (l2KeyDie k) x.dirty
    s.dieWriteback x.loc (l2KeyDie k) x.st

/-- The location that stands for a host line. -/
def hostLoc (a : Nat) : Nat := 2 ^ 62 + a

/-- The location that stands for a window-10 line, or a derived line. -/
def virtualLoc (c : Ctx) (va : VA) : Nat := 2 ^ 63 + (c.toNat * 2 ^ 52 + va.toNat)

/-- The location of the line of an address (R93). -/
def lineLoc (s : State) (c : Ctx) (va : VA) (e : DWord) : Nat :=
  let w := windowOf va
  if w ≤ 8 ∨ (w = 10 ∧ s.ownFabric va = true) then lineKey s c va e
  else if w = 9 then hostLoc (hostAddr (lineOf va) e)
  else virtualLoc (tagFor c va) (lineOf va)

/-- The bytes of a line as its home holds them: a software-managed copy of the home slice, or device memory (R137). -/
def State.homeCopy (s : State) (loc : Nat) : Line :=
  match (s.copiesIn loc (locDie loc)).find? (fun e => e.2.attr.swm) with
  | some e => e.2.data
  | none => s.dramLine loc

/-! ### Between dies (R135, R42 with dies for devices) -/

/-- The slice whose directory keeps a location, and the set of it: which address bits select the set is a DESIGN CHOICE (log 5). -/
def dirSet (loc : Nat) : Nat × Nat :=
  if isDram loc then (locChannel loc, loc % 2 ^ 31 / 128 % 8192)
  else
    let va : VA := BitVec.ofNat 52 loc
    (sliceKeyOf (homeDie va) (homeSlice va), va.toNat / 65536 % 8192)

/-- A new directory entry of a full set of sixteen ways: the least recently touched entry is evicted, and no other die keeps a copy
of its line (R46, R136). -/
def State.makeEntry (s : State) (loc : Nat) : State :=
  if (SMap.get none s.dieDir loc).isSome then s
  else
    let mates := (s.dieDir.filter (fun (e : Nat × Option DieDir) => decide (dirSet e.1 = dirSet loc))).map (fun e => e.1)
    if mates.length < 16 then s
    else
      match leastBy (fun l => (s.dieEntry l).touched) mates with
      | none => s
      | some l =>
        let s := (s.copiesOf l (fun k => l2KeyDie k != (dirSet l).1 / 64)).foldl (fun s e => s.dropL2 e.1) s
        s.setDieEntry l { st := .i, sharers := 0, owner := 0, touched := 0 }

/-- The owner die wrote its copy. -/
def State.ownerDirty (s : State) (loc owner : Nat) : Bool :=
  (s.copiesIn loc owner).any (fun e => e.2.st == .m || e.2.st == .o)

/-- Set the state of the copies of a location on a die. -/
def State.setCopies (s : State) (loc die : Nat) (st : DirState) : State :=
  (s.copiesIn loc die).foldl (fun s e => s.setL2 e.1 (some { e.2 with st := st })) s

/-- A die reads a line that another die homes, or the home reads a line that another die owns. A directory entry is touched by every read
that the die's own slice serves in S or O too, not by the owner's (R136 does not say what touches one: DESIGN CHOICE, log 5). -/
def State.dieRead (s : State) (loc die home : Nat) : State :=
  let d := s.dieEntry loc
  let bit : BitVec 8 := (1#8) <<< die
  let add := fun (st : DirState) (own : Nat) (sh : BitVec 8) =>
    if die = home then s.setDieEntry loc { d with st := st, owner := own, sharers := sh, touched := s.clk }
    else (s.setDieEntry loc { d with st := st, owner := own, sharers := sh ||| bit, touched := s.clk })
  match d.st with
  | .i => if die = home then s else (s.makeEntry loc).setDieEntry loc { st := .e, sharers := bit, owner := die, touched := s.clk }
  | .s => (add .s 0 d.sharers).setCopies loc die .s
  | .o => if d.owner = die then s else (add .o d.owner d.sharers).setCopies loc die .s
  | _ =>
    if d.owner = die then s
    else if s.ownerDirty loc d.owner then
      ((add .o d.owner d.sharers).setCopies loc d.owner .o).setCopies loc die .s
    else ((add .s 0 (d.sharers ||| ((1#8) <<< d.owner))).setCopies loc d.owner .s).setCopies loc die .s

/-- A die takes ownership of a line: every copy on another die is removed, the home's included (R42, R131, R135, R148). -/
def State.dieOwn (s : State) (loc die home : Nat) : State :=
  let s := (s.copiesOf loc (fun k => l2KeyDie k != die)).foldl (fun s e => s.dropL2 e.1) s
  if die = home then s.setDieEntry loc { st := .i, sharers := 0, owner := 0, touched := 0 }
  else (s.makeEntry loc).setDieEntry loc { st := .m, sharers := (1#8) <<< die, owner := die, touched := s.clk }

/-- No link of the way between two dies retrains (R14, R34). -/
def State.pathOpen (s : State) (a b : Nat) : Bool :=
  if h : a < 10 ∧ b < 10 then (route ⟨a, by omega⟩ ⟨b, by omega⟩).all (fun n => !(s.link n).train) else true

/-- Neither way between two dies is closed. -/
def State.roundTrip (s : State) (a b : Nat) : Bool := s.pathOpen a b && s.pathOpen b a

/-- Requests of a slice's die to the fabric wait: every IFL that is up is reached only over links that retrain (R12, R14, R34). -/
def State.fabricClosed (s : State) (die : Nat) : Bool :=
  let ups := iflLinks.filter (fun n => (s.link n).up)
  !ups.isEmpty && ups.all (fun n => !s.roundTrip die (iflNode n).val)

/-! ### Apertures (R141 to R144) -/

/-- A byte of a package frame under an extent limit: at or above X it reads zero; X = 0 sets no limit. -/
def apertureByte (s : State) (x : Nat) (frame off : Nat) : Byte :=
  let d := frame * 65536 + off
  if x ≠ 0 ∧ x ≤ d then 0
  else
    let k := physKey s d
    byteOf (s.homeCopy (k / 128 * 128)) (k % 128)

/-- The byte of source frame `src` that byte o of a transposing page reads (R142). -/
def transposed (e o : Nat) : Nat :=
  let t := o / 16384
  let w := o % 16384
  let y := w / (128 * e)
  let x := w % (128 * e) / e
  t * 16384 + x * 128 + y * e + w % e

/-- Value j of a dequantising page, as BF16 (R143). -/
def dequantised (s : State) (x src ek part j : Nat) : Nat :=
  let n := part * 32768 + j
  let (fmt, off) := if ek = 0 then (Fmt.e4m3, n) else if ek = 1 then (Fmt.e5m2, n) else (Fmt.e2m1, n / 2)
  if x ≠ 0 ∧ x ≤ src * 65536 + off then 0
  else
    let b := (apertureByte s x src off).toNat
    let code := if ek = 2 then b / 16 ^ (n % 2) % 16 else b
    let sc := (apertureByte s x (src + 1) (n / 16)).toNat
    if 127 ≤ sc then Fmt.bf16.nanBits
    else
      let (p, _) := (fmt.decode code).mul (Fmt.ue4m3.decode sc)
      (Fmt.bf16.finish .rne false .none p).bits

/-- The 128 bytes of an aperture line (DESIGN CHOICE, log 22). -/
def apertureLine (s : State) (c : Ctx) (va : VA) (e : DWord) : Line :=
  let a := leafAttr e
  let x := (s.shape c a.shp).base
  let src := ebits e 39 16 + pieceOf (ebits e 15 14) va
  let ek := ebits e 47 46
  let o := va.toNat % 65536 / 128 * 128
  if a.apk = 1 then lineOfBytes (fun k => apertureByte s x src (transposed (2 ^ ek) (o + k)))
  else
    lineOfBytes (fun k => BitVec.ofNat 8 (dequantised s x src ek (ebits e 45 44) ((o + k) / 2) / 256 ^ (k % 2)))

/-! ### Host memory (R58, R76) -/

/-- A byte of host memory; power-on contents read 0 (DESIGN CHOICE, log 1). -/
def State.hostByte (s : State) (a : Nat) : Byte := SMap.get 0 s.host.mem a

def State.setHost (s : State) (a : Nat) (b : Byte) : State :=
  { s with host := { s.host with mem := SMap.set 0 s.host.mem a b } }

def State.hostLine (s : State) (a : Nat) : Line := lineOfBytes (fun k => s.hostByte (a + k))

def State.setHostBytes (s : State) (a : Nat) (bs : List (Nat × Byte)) : State :=
  bs.foldl (fun s e => s.setHost (a + e.1) e.2) s

/-- The n bytes of host memory from `a` on are the given ones, and zero where none is given. -/
def State.putHostRange (s : State) (a n : Nat) (bs : Memory) : State :=
  let rest := s.host.mem.filter (fun e => decide (e.1 < a) || decide (a + n ≤ e.1))
  { s with host := { s.host with mem := SMap.join 0 rest bs } }

/-- Bytes of host memory as a list. -/
def State.hostBytes (s : State) (a n : Nat) : List Byte := (List.range n).map (fun k => s.hostByte (a + k))

/-! ### Scratch (R125) -/

/-- The byte of scratch offset o of a team. -/
def scratchKey (t : Team) (o : Nat) : Nat :=
  bankKey (coreKey t.die t.core / 2) (t.scratch.getD (o / 16384) 0) * 16384 + o % 16384

/-- n bytes of scratch, little-endian. -/
def State.scratch (s : State) (t : Team) (o n : Nat) : Nat :=
  natOfBytes ((List.range n).map (fun k => SMap.get 0 s.bankMem (scratchKey t (o + k))))

def State.setScratch (s : State) (t : Team) (o : Nat) (bs : List (Nat × Byte)) : State :=
  { s with bankMem := bs.foldl (fun m e => SMap.set 0 m (scratchKey t (o + e.1)) e.2) s.bankMem }

/-! ### Poison (R113) -/

/-- The poison of the line at a location. -/
def State.poisoned (s : State) (loc : Nat) : Bool := (SMap.get none s.mem.poison loc).isSome

end Sys2Proof.Machine
end

