-- ==== Sys2Proof/Machine/Fabric.lean ====
section
/-! DEFINITION. System-scope lines as this device holds them, the home table, what the device asks of the switches (R37, R38, R40, R41,
R45, R47, R57), and how lines enter and leave an L2 for want of room. -/

namespace Sys2Proof.Machine

open Sys2Proof

/-! ### The home table (R38) -/

/-- A slot of the home table that is marked live and not dead. -/
def PartCfg.live (c : PartCfg) (k : Nat) : Bool :=
  let h := SMap.get HomeSlot.reset c.homes k
  decide (k < c.n) && h.live && !h.dead

/-- h of R38. -/
def fabHash (g : LineAddr) : Nat :=
  ((g.setWidth 32 : Word) ^^^ (((g.extractLsb' 32 9).setWidth 32 : Word) <<< 11) ^^^ ((g.setWidth 32 : Word) >>> 13)).toNat

/-- The first live slot from `k` on, modulo N, that is not `past`. -/
def PartCfg.nextLive (c : PartCfg) (k : Nat) (past : Option Nat) : Option Nat :=
  (firstFrom (fun j => c.live (j % c.n) && past != some (j % c.n)) k c.n).map (· % c.n)

/-- The slot that the hash gives as primary. -/
def PartCfg.primary0 (c : PartCfg) (g : LineAddr) : Nat := fabHash g % c.n

/-- The slot that the hash gives as alternate. -/
def PartCfg.alternate0 (c : PartCfg) (g : LineAddr) : Nat :=
  (c.primary0 g + 1 + fabHash g / 2 ^ 16 % (c.n - 1)) % c.n

/-- The primary of a line: the hashed slot, or its alternate once that slot is dead (R38, R51). -/
def PartCfg.primary (c : PartCfg) (g : LineAddr) : Option Nat :=
  if c.n = 0 then none
  else if c.live (c.primary0 g) then some (c.primary0 g)
  else if c.n < 2 then none
  else c.nextLive (c.alternate0 g) none

/-- The alternate of a line, past its primary; none where N is 1. -/
def PartCfg.alternate (c : PartCfg) (g : LineAddr) : Option Nat :=
  if c.n < 2 then none else c.nextLive (c.alternate0 g) (c.primary g)

/-! ### Lines at this device -/

/-- The switch port of a device (DESIGN CHOICE, log 21). -/
def portOf (d : Device) : Fin 64 := ⟨d.toNat % 64, Nat.mod_lt _ (by decide)⟩

/-- The device holds the line so that it may read it, or write it (R40). -/
def SysLine.held (x : SysLine) (own : Bool) : Bool :=
  match x.st with
  | .i => false
  | .s | .o => !own
  | .e | .m => true

/-- The device holds what memory does not. -/
def SysLine.dirty (x : SysLine) : Bool := x.st == .m || x.st == .o

/-! ### Lines of this device that others hold (R93) -/

/-- A line of a location of this device's memory that another device holds, so that this one must ask for it first: to write, where
any copy is elsewhere; to read, where another owns it (R93, R40). -/
def State.heldAbroad (s : State) (loc : Nat) (own : Bool) : Option LineAddr :=
  if !s.fab.inForce then none
  else
    let mine := s.fab.cfg.devno
    let here : BitVec 64 := (1#64) <<< (portOf mine).val
    s.fab.switches.findSome? (fun (e : Nat × Switch) => e.2.dir.findSome? (fun (d : Nat × Option DirEntry) =>
      match d.2 with
      | some x =>
        let away := x.st != .i && x.st != .s && x.own != mine
        let shared := x.st != .i && x.shv &&& ~~~here != 0
        if homeDevice x.gla = mine ∧ (away || (own && shared)) = true ∧ !(s.sysLine x.gla).held own = true ∧
            s.homeKey x.gla = some loc then some x.gla else none
      | none => none))

/-! ### Messages -/

/-- Put a message on its way. -/
def State.carry (s : State) (m : FabMsg) : State := { s with fab := { s.fab with wire := s.fab.wire ++ [m] } }

/-- What names this device as the requester for a line, in its next transaction. -/
def State.asRequester (s : State) (g : LineAddr) : FabReq :=
  { g := g, dev := s.fab.cfg.devno, port := portOf s.fab.cfg.devno, txn := s.fab.nextTxn }

/-- The next transaction has its number (R32). -/
def State.useTxn (s : State) : State := { s with fab := { s.fab with nextTxn := s.fab.nextTxn + 1 } }

/-- Send a request for a line to its primary. -/
def State.request (s : State) (g : LineAddr) (own : Bool) : State :=
  match s.fab.cfg.primary g with
  | some k => (s.carry (if own then .own k (s.asRequester g) else .read k (s.asRequester g))).useTxn
  | none => s

/-- Send a dirty line back through its switch. -/
def State.sendBack (s : State) (slot : Nat) (g : LineAddr) (l : Line) : State := (s.carry (.writeback slot (s.asRequester g) l)).useTxn

/-- Ask for a window-10 line that the device does not hold so; at most one request for a line is in flight (R45). -/
def State.missSys (s : State) (va : VA) (own : Bool) : State :=
  let g := globalOf va
  let y := s.sysLine g
  if y.miss.isSome then s
  else (s.setSysLine g { y with
    miss := some own
    waited := s.clk }).request g own

/-- Take a line out of the device's slices and L1s. -/
def State.forgetSys (s : State) (g : LineAddr) : State :=
  let y := s.sysLine g
  let s := s.dropL2 (l2Key (homeDie (fabricVa g)) 0 (fabricVa g))
  s.setSysLine g { y with
    st := .i
    data := 0 }

/-- Give up a line: written back where it is dirty, dropped without a word where it is not (R41). -/
def State.evictSys (s : State) (g : LineAddr) : State :=
  let y := s.sysLine g
  if y.st = .i then s
  else if y.dirty then
    match s.fab.cfg.primary g with
    | some k => ((s.setSysLine g { y with
        wbWait := true
        waited := s.clk }).forgetSys g).sendBack k g y.data
    | none => s.forgetSys g
  else s.forgetSys g

/-! ### Room in an L2 (R4, R107, R108, R130) -/

/-- The lines that a slice holds: 16 MiB of 128 bytes (R4). -/
def sliceLines : Nat := 131072

/-- A copy differs from what lies below its L2. -/
def L2Line.isDirty (x : L2Line) : Bool := x.st == .m || x.st == .o || x.dirty != 0

/-- Lines that the memory-side cache takes: not those of `ms` pages, nor of windows 9 to 11 (R106). -/
def mscTakes (a : PageAttr) (window loc : Nat) : Bool := isDram loc && !a.ms && decide (window ≤ 8)

/-- A line leaves an L2 for want of room. What its home channel receives of it, all but a line that leaves another die's L2 unwritten,
goes to the memory-side cache, which in native mode holds no line that an L2 holds (R107, R108); a system-scope line is given up to the
fabric (R41). -/
def State.evictL2 (s : State) (k : Nat) : State :=
  match s.l2At k with
  | none => s
  | some x =>
    let va : VA := BitVec.ofNat 52 (l2KeyLine k * 128)
    if windowOf va = 10 then (s.evictSys (globalOf va)).dropL2 k
    else
      let s := s.dropL2 k
      if mscTakes x.attr (windowOf va) x.loc && (locDie x.loc == l2KeyDie k || x.isDirty) &&
          (s.compat x.loc || (s.copiesOf x.loc (fun _ => true)).isEmpty) then s.mscEvict x.loc x.isDirty else s

/-- A slice that is full evicts its least recently touched line (which one goes, and when, is a DESIGN CHOICE, log 5). -/
def State.makeWay (s : State) (sk : Nat) : State :=
  let ks := (s.l2.filter (fun (e : Nat × Option L2Line) => l2KeySlice e.1 == sk)).map (fun e => e.1)
  if ks.length < sliceLines then s
  else
    match leastBy (fun k => ((s.l2At k).map (fun x => x.touched)).getD 0) ks with
    | some k => s.evictL2 k
    | none => s

/-- A fill of an L2 of any die that no other L2 answers reads the line's channel, through the memory-side cache; whether it comes
dirty. What another die takes is written to DRAM on its way (DESIGN CHOICE, log 5). -/
def State.fillFrom (s : State) (die : Nat) (va : VA) (loc : Nat) (a : PageAttr) : State × Bool :=
  let fromMemory := (s.copiesOf loc (fun _ => true)).all (fun e => l2KeyDie e.1 != locDie loc && (e.2.attr.swm || e.2.st == .s))
  if mscTakes a (windowOf va) loc && fromMemory then
    let (s, dirty) := s.mscRead loc
    (s, dirty && locDie loc == die)
  else (s, false)

/-- The line of an L2, installed with `wts` = `rts` = `mrts` where the slice does not hold it (R130). -/
def State.ensureL2 (s : State) (die : Nat) (c : Ctx) (va : VA) (e : DWord) : State × L2Line :=
  let k := l2Key die c va
  match s.l2At k with
  | some x => (s, x)
  | none =>
    let loc := lineLoc s c va e
    let a := leafAttr e
    let (s, dirty) := (s.makeWay (l2KeySlice k)).fillFrom die va loc a
    let m := (s.slice (l2KeySlice k)).mrts
    -- a synonym in the slice shares its bytes and its dirty mask (R93)
    let twin := (s.copiesIn loc die).find? (fun y => y.2.attr.swm)
    let x : L2Line := { st := if dirty then .m else .e, wts := m, rts := m, attr := a, loc := loc,
                        dirty := if a.swm then (twin.map (fun y => y.2.dirty)).getD 0 else 0, touched := s.clk,
                        data := if a.swm then (twin.map (fun y => y.2.data)).getD (s.homeCopy loc) else 0 }
    (s.setL2 k (some x), x)

end Sys2Proof.Machine
end

