-- ==== Sys2Proof/Machine/Access.lean ====
section
/-! DEFINITION. Loads, stores and atomics at their lines, by window and page kind (R129, R134, R137, R144, R148, R153,
R159, R443). -/

namespace Sys2Proof.Machine

open Sys2Proof

/-! ### Hooks that other chapters fill -/

/-- The address ranges of an arena: its header with its slots, and its buckets (R170). -/
def Arena.ranges (a : Arena) : List (Nat × Nat) :=
  [(a.header.toNat, 4096 + 128 * (a.nsm1 + 1)), (a.grid.toNat, 8 * 2 ^ a.gbits)]

/-- The lines of a page at `va` of a context that lie at a location. -/
def State.pageHas (s : State) (c : Ctx) (va : VA) (loc : Nat) (within : Nat → Bool) : Bool :=
  let e := if windowOf va = 10 && !s.ownFabric va then .ok 0 else leafOf s c va
  match e with
  | .error _ => false
  | .ok e => (List.range 512).any (fun k =>
      within (va.toNat + 128 * k) && lineLoc s c (va + BitVec.ofNat 52 (128 * k)) e == loc)

/-- The line at a location is engine-owned: a header, slot or bucket line of an open arena, by whatever name it is reached (R93,
R173). An arena's lines are those that its addresses map to now (DESIGN CHOICE, log 26). -/
def State.engineOwned (s : State) (loc : Nat) : Bool :=
  s.arenas.any fun a => a.ranges.any fun r =>
    (List.range ((r.1 % 65536 + r.2 + 65535) / 65536)).any fun p =>
      s.pageHas (tagFor a.ctx a.header) (BitVec.ofNat 52 ((r.1 / 65536 + p) * 65536)) loc
        (fun x => decide (r.1 < x + 128) && decide (x < r.1 + r.2))

/-! ### Where an access goes -/

/-- An access that is performed at the home slice on behalf of no core of its die (R134, R443) (DESIGN CHOICE, log 23). -/
def remoteAccess (core : Nat) (va : VA) (a : PageAttr) : Bool :=
  homeDie va != core / 64 && (windowOf va == 10 || (a.sh == 0 && windowOf va != 9))

/-- The die whose slice serves an access (DESIGN CHOICE, log 23). -/
def serveDie (core : Nat) (va : VA) (a : PageAttr) : Nat := if remoteAccess core va a then homeDie va else core / 64

/-- The slice that serves an access (DESIGN CHOICE, log 23). -/
def serveSlice (core : Nat) (va : VA) (a : PageAttr) : Nat := sliceKeyOf (serveDie core va a) (homeSlice va)

/-- The bytes of a line as the L2 of a die gives them. -/
def lineData (s : State) (c : Ctx) (va : VA) (e : DWord) (x : L2Line) : Line :=
  let w := windowOf va
  if w = 9 then s.hostLine (hostAddr (lineOf va) e)
  else if w = 10 then (s.sysLine (globalOf va)).data
  else if w = 11 then apertureLine s c va e
  else if x.attr.swm then x.data
  else s.homeCopy x.loc

/-- The line is kept coherent between dies (R134, R137). -/
def coherentPkg (va : VA) (a : PageAttr) : Bool := a.sh == 1 && !a.swm && windowOf va != 9 && windowOf va != 10

/-- The line takes part in the coherence between dies: one of a `pkg` page, or a system-scope line of this device's own memory, which
is one unit with its `pkg` synonyms (R93). -/
def State.betweenDies (s : State) (va : VA) (a : PageAttr) : Bool := coherentPkg va a || (windowOf va == 10 && s.ownFabric va)

/-- The reconcile sweep in progress covers the page of an address (R139). -/
def spanHolds (x : Span) (t : Ctx) (va : VA) (e : DWord) : Bool :=
  match x with
  | .page c a => c == t && a.toNat / (65536 * framesOf (ebits e 15 14)) == va.toNat / (65536 * framesOf (ebits e 15 14))
  | .context c => c == t
  | .all => true

/-- The line of an L2 key is a software-managed one of the span. -/
def spanManaged (x : Span) (e : DWord) (y : Nat × Option L2Line) : Bool :=
  y.2.any (fun l => l.attr.swm) && spanHolds x (l2KeyCtx y.1) (BitVec.ofNat 52 (l2KeyLine y.1 * 128)) e

/-- An access stalls while a reconcile sweep over its span is in progress, the sweep of an invalidation whose span has software-managed
lines (R139). -/
def State.reconciling (s : State) (t : Ctx) (va : VA) (e : DWord) (loc : Nat) : Bool :=
  s.mem.xiNow.any (fun x => spanHolds x t va e &&
    ((leafAttr e).swm || (s.copiesOf loc (fun _ => true)).any (fun y => y.2.attr.swm) || s.l2.any (spanManaged x e)))

/-- The dies that a request for a line goes to besides the one that serves it: the home, where that one has not what it needs, and
from there the owner that is read, or every die that loses its copy (R135, R443). -/
def State.asked (s : State) (die : Nat) (va : VA) (a : PageAttr) (loc : Nat) (own : Bool) : List Nat :=
  let home := homeDie va
  if windowOf va = 9 then []
  else if !s.betweenDies va a then (if die = home ∨ !(s.copiesIn loc die).isEmpty then [] else [home])
  else
    let d := s.dieEntry loc
    let others := ((s.copiesOf loc (fun k => l2KeyDie k != die)).map (fun e => l2KeyDie e.1)).eraseDups
    let owner := if d.st = .i ∨ d.st = .s ∨ d.owner = die then [] else [d.owner]
    if own then
      if die = home ∨ (d.owner = die ∧ (d.st = .e ∨ d.st = .m)) then others else home :: others
    else if die = home then owner
    else if !(s.copiesIn loc die).isEmpty then []
    else home :: owner

/-- A request that a die sends on behalf of another is held: a slice that it concerns sweeps, or a link on its way retrains (R14, R34,
R132). -/
def State.lineHeld (s : State) (src die : Nat) (va : VA) (a : PageAttr) (loc : Nat) (own : Bool) : Bool :=
  let home := homeDie va
  let ds := s.asked die va a loc own
  (die :: ds).any (fun d => (s.slice (sliceKeyOf d (homeSlice va))).sweep) ||
  !s.roundTrip src die || (!ds.isEmpty && !s.roundTrip die home) || ds.any (fun d => !s.roundTrip home d)

/-- What an access of a core must wait for: a reconcile sweep, a slice's sweep, a link that retrains (R14, R132, R139). `die` is the
die that serves it. -/
def State.mustWait (s : State) (core die : Nat) (t : Ctx) (va : VA) (e : DWord) (own : Bool) : Bool :=
  let loc := lineLoc s t va e
  s.reconciling t va e loc || s.lineHeld (core / 64) die va (leafAttr e) loc own ||
  (windowOf va == 9 && !s.roundTrip (core / 64) 8) ||
  (windowOf va == 10 && !s.ownFabric va && s.fabricClosed (homeDie va))

/-- What must first be asked of the fabric for an access: its own system-scope line, or a synonym of its location that another
device holds (R93). -/
def State.fabricNeed (s : State) (va : VA) (loc : Nat) (own : Bool) : Option LineAddr :=
  if windowOf va = 10 then
    if !(s.sysLine (globalOf va)).held own then some (globalOf va)
    else if s.ownFabric va then s.heldAbroad loc own
    else none
  else if windowOf va ≤ 8 then s.heldAbroad loc own
  else none

/-! ### Loads (R129) -/

/-- A read at the slice that serves a die: the line with the L2's record of it. `core` names the die (DESIGN CHOICE, log 5). -/
def State.sliceRead (s : State) (core : Nat) (c : Ctx) (va : VA) (e : DWord) : Acc (Line × L2Line) :=
  let a := leafAttr e
  let t := tagFor c va
  let die := serveDie core va a
  if s.mustWait core die t va e false then .blocked s
  else
    match s.fabricNeed va (lineLoc s t va e) false with
    | some g => .blocked (s.missSys (fabricVa g) false)
    | none =>
      let (s, x0) := s.ensureL2 die t va e
      let s := if s.betweenDies va a then s.dieRead x0.loc die (homeDie va) else s
      let x := (s.l2At (l2Key die t va)).getD x0
      .done s (lineData s c va e x, x)

/-- A renewal or miss at the slice: the line's data and version, its lease extended, the core's copy installed unless a drain has made
the fill deliver-only (R122); the core's time rises to the version read even where it keeps no copy (R123). A renewal may take the offset of `rts` beyond 32 bits: the rule has only stores
begin a sweep (R132; DESIGN CHOICE, log 23). -/
def State.renew (s : State) (core gid : Nat) (c : Ctx) (va : VA) (e : DWord) (keep : Bool) : Acc (Line × Nat) :=
  let a := leafAttr e
  let t := tagFor c va
  match s.sliceRead core c va e with
  | .blocked s => .blocked s
  | .done s (data, x) =>
    let base := (s.slice (serveSlice core va a)).base
    -- no lease is granted across dies, nor to a core without a way (R123, R443)
    if remoteAccess core va a then .done s (data, base + x.wts)
    else if (s.ways core).isEmpty then .done (s.raiseCt core (base + x.wts)) (data, base + x.wts)
    else
      let ct := (s.core core).ct
      let newRts := max (base + x.rts) (max (base + x.wts) ct + 64)
      let s := s.setL2 (l2Key (serveDie core va a) t va) (some { x with rts := newRts - base, touched := s.clk })
      let s := s.raiseCt core (base + x.wts)
      let y : L1Line :=
        { ctx := t, line := lineNo va, attr := a, data := data, wts := base + x.wts, rts := newRts, filled := s.clk,
          expired := false, used := s.clk, loader := some gid }
      .done (if keep then s.installL1 core y va else s) (data, base + x.wts)

/-- A load of a line by a core: its L1 copy while the lease stands, else a renewal; an acquire raises the core's time to
the version read, or expires every copy where it has none (R129, R153). -/
def State.loadLine (s : State) (core gid : Nat) (c : Ctx) (va : VA) (e : DWord) (acq keep : Bool) : Acc Line :=
  let t := tagFor c va
  if s.reconciling t va e (lineLoc s t va e) then .blocked s
  else
    match s.l1Find core t va with
    | some (n, x) =>
      if x.valid (s.core core).ct s.clk then
        let s := s.setL1 core (l1Key va n) (some { x with used := s.clk, loader := some gid })
        .done (if acq then s.raiseCt core x.wts else s) x.data
      else
        match s.renew core gid c va e keep with
        | .done s (l, _) => .done s l
        | .blocked s => .blocked s
    | none =>
      match (s.victimHit gid va).renew core gid c va e keep with
      | .done s (l, _) => .done (if acq && remoteAccess core va (leafAttr e) then s.expireAll core else s) l
      | .blocked s => .blocked s

/-! ### Stores (R129) -/

/-- The store rule at a slice for a location held there under any number of names: every synonym takes the new `wts`
(R93, R129). `ct` is the core's time, or 0 on behalf of no core (R443). -/
def State.storeRule (s : State) (die sk loc ct : Nat) : Acc Nat :=
  let base := (s.slice sk).base
  let xs := s.copiesIn loc die
  let top := xs.foldl (fun m e => max m e.2.rts) 0
  let wts := max ct (base + top + 1)
  if rebaseAt ≤ wts - base then .blocked (s.beginRebase sk)
  else
    let stamp := fun (x : L2Line) => { x with st := DirState.m, wts := wts - base, rts := wts - base, touched := s.clk }
    .done (xs.foldl (fun s e => s.setL2 e.1 (some (stamp e.2))) s) wts

/-- The names, tag and line number, that a location has in the L2s: all synonyms are one unit (R93). -/
def State.namesOf (s : State) (loc : Nat) : List (Ctx × Nat) :=
  (s.copiesOf loc (fun _ => true)).map (fun e => (l2KeyCtx e.1, l2KeyLine e.1))

/-- A store or atomic performed on a watched line makes the slice notify the Cue Unit (R200). -/
def State.notifyDeps (s : State) (names : List (Ctx × Nat)) : State :=
  (s.launchesWhere (fun l => l.queued && !l.ready && l.blk.dep &&
    names.contains (tagFor l.blk.ctx (vaOf l.blk.depva), lineNo (vaOf l.blk.depva)))).foldl (fun s e => s.post (.dependenceNotify e.1)) s

/-- What a store or atomic at a line tells the watchers of the line, under any of its names (R93, R162, R200). -/
def State.touched (s : State) (t : Ctx) (va : VA) (loc : Nat) : State :=
  let names := (t, lineNo va) :: s.namesOf loc
  (s.strikeAll (fun w => names.contains (w.ctx, w.line))).notifyDeps names

/-- The address is one of a package frame of this device, which apertures may read. -/
def State.isSource (s : State) (va : VA) : Bool := windowOf va == 8 || (windowOf va == 10 && s.ownFabric va)

/-- The storing core's present copy takes the bytes (R129). It is no use of the copy: R127 does not say which accesses are, and here the
loads that read a valid copy and the renewals are (DESIGN CHOICE, log 5). -/
def State.updateL1 (s : State) (core : Nat) (c : Ctx) (va : VA) (bs : List (Nat × Byte)) (wts : Nat) : State :=
  match s.l1Find core c va with
  | some (n, x) => s.setL1 core (l1Key va n) (some { x with data := setBytes x.data bs, wts := wts, rts := wts })
  | none => s

/-- The software-managed copies of a location in the slice of a die take bytes: every synonym is written (R93). `dirties` tells that
they are not the home's yet (R137). -/
def State.writeCopies (s : State) (loc die : Nat) (bs : List (Nat × Byte)) (dirties : Bool) : State :=
  ((s.copiesIn loc die).filter (fun y => y.2.attr.swm)).foldl (fun s y => s.setL2 y.1 (some { y.2 with
    data := setBytes y.2.data bs
    dirty := if dirties then bs.foldl (fun m b => m ||| ((1#128) <<< b.1)) y.2.dirty else y.2.dirty })) s

/-- Bytes written at the home of a location: device memory takes them and every name of the line there (R93). -/
def State.writeHome (s : State) (loc : Nat) (bs : List (Nat × Byte)) : State :=
  ((s.setDramBytes loc bs).writeCopies loc (locDie loc) bs false).writeNames loc bs

/-- A write on behalf of no core ends every lease on the line in the slice's die, under each of its names (R443). -/
def State.endLeases (s : State) (loc die : Nat) : State :=
  let names := (s.copiesIn loc die).map (fun k => (l2KeyCtx k.1, l2KeyLine k.1))
  s.leaseEnd die (fun y => names.contains (y.ctx, y.line))

/-- The bytes of a store are written where the line's value stands: those of a software-managed line in its copies, which the other
names of the line at its home share (R93, R137). -/
def State.putBytes (s : State) (va : VA) (a : PageAttr) (die loc : Nat) (bs : List (Nat × Byte)) : State :=
  if windowOf va = 10 then
    let y := s.sysLine (globalOf va)
    let s := s.setSysLine (globalOf va) { y with data := setBytes y.data bs, st := .m }
    if s.ownFabric va then s.writeHome loc bs else s
  else if a.swm then
    let s := s.writeCopies loc die bs true
    if die = locDie loc then s.writeNames loc bs else s
  else s.writeHome loc bs

/-- Write bytes of a line at the slice that serves `die`, with `ct` and the copies elsewhere as R129 and R443 say. `outside`
tells that the access is on behalf of no core of the die (DESIGN CHOICE, log 5). -/
def State.writeAt (s : State) (die : Nat) (c : Ctx) (va : VA) (e : DWord) (ct : Nat) (outside : Bool)
    (bs : List (Nat × Byte)) : Acc Nat :=
  let a := leafAttr e
  let t := tagFor c va
  let sk := sliceKeyOf die (homeSlice va)
  match s.fabricNeed va (lineLoc s t va e) true with
  | some g => .blocked (s.missSys (fabricVa g) true)
  | none =>
    if s.reconciling t va e (lineLoc s t va e) || s.lineHeld die die va a (lineLoc s t va e) true then .blocked s
    else
      let (s, x) := s.ensureL2 die t va e
      let s := if s.betweenDies va a then s.dieOwn x.loc die (homeDie va) else s
      match s.storeRule die sk x.loc ct with
      | .blocked s => .blocked s
      | .done s wts =>
        let s := s.putBytes va a die x.loc bs
        let s := if outside then s.endLeases x.loc die else s
        let s := s.touched t va x.loc
        .done (if s.isSource va then s.dropApertures else s) wts

/-- What a store found at its line. -/
inductive Stored where
  | performed
  | refused     -- an engine-owned line (R173)
  | sent        -- over the IHL, not yet acknowledged (R148)
  deriving DecidableEq, Repr

/-- A store of bytes of one line by a core (R129, R134, R137, R148, R173). A store to a poisoned line is discarded (R113)
(DESIGN CHOICE, log 5). One to window 9 goes to the host; its slice takes it when the host has acknowledged it (R148). -/
def State.storeLine (s : State) (core : Nat) (c : Ctx) (va : VA) (e : DWord) (bs : List (Nat × Byte)) : Acc Stored :=
  let a := leafAttr e
  let t := tagFor c va
  if s.engineOwned (lineLoc s c va e) then .done s .refused
  else if s.poisoned (lineLoc s c va e) then .done s .performed
  else if s.mustWait core (serveDie core va a) t va e true then .blocked s
  else if windowOf va = 9 then .done s .sent
  else
    let outside := remoteAccess core va a
    match s.writeAt (serveDie core va a) c va e (if outside then 0 else (s.core core).ct) outside bs with
    | .blocked s => .blocked s
    | .done s wts => .done (if outside then s else (s.raiseCt core wts).updateL1 core t va bs wts) .performed

/-- The host has acknowledged a store of a core to a line of window 9: the store rule at the slice of the core's own die (R128,
R129, R134, R148). -/
def State.hostStored (s : State) (core : Nat) (c : Ctx) (va : VA) (e : DWord) (bs : List (Nat × Byte)) : Acc Unit :=
  let die := core / 64
  let sk := sliceKeyOf die (homeSlice va)
  if (s.slice sk).sweep then .blocked s
  else
    let (s, x) := s.ensureL2 die c va e
    match s.storeRule die sk x.loc (s.core core).ct with
    | .blocked s => .blocked s
    | .done s wts => .done (((s.raiseCt core wts).updateL1 core c va bs wts).touched c va x.loc) ()

/-! ### Atomics (R159) -/

/-- Write back and remove every cached copy of a location, for an atomic in the base die (R106, R159). -/
def State.removeCopies (s : State) (loc : Nat) : State :=
  let s := (s.copiesOf loc (fun _ => true)).foldl (fun s e => s.dropL2 e.1) s
  s.setDieEntry loc { st := .i, sharers := 0, owner := 0, touched := 0 }

/-- The n bytes at an address as the place where an atomic runs holds them. -/
def State.atomicOld (s : State) (c : Ctx) (va : VA) (e : DWord) (n : Nat) : Nat :=
  let w := windowOf va
  let k := va.toNat % 128
  if w = 9 then lineField (s.hostLine (hostAddr (lineOf va) e)) k n
  else if w = 10 then lineField (s.sysLine (globalOf va)).data k n
  else lineField (s.homeCopy (lineLoc s c va e)) k n

/-- An atomic in the base die of its line, which first loses every cached copy (R106, R159). A system-scope line of another device is
brought here, performed on and given back at once: no message of R32 asks a base die of another device (DESIGN CHOICE, log 23). -/
def State.baseDieAtomic (s : State) (c : Ctx) (va : VA) (e : DWord) (n : Nat) (f : Nat → Nat) : Acc Nat :=
  let loc := lineLoc s c va e
  match s.fabricNeed va loc true with
  | some g => .blocked (s.missSys (fabricVa g) true)
  | none =>
    let s := s.removeCopies loc
    let old := s.atomicOld c va e n
    let bs := storeBytes (va.toNat % 128) n (f old)
    let s := (s.putBytes va { leafAttr e with swm := false } 0 loc bs).touched (tagFor c va) va loc
    let s := if windowOf va = 10 then s.evictSys (globalOf va) else s
    .done (if s.isSource va then s.dropApertures else s) old

/-- An atomic of n bytes at its line, window 9 apart: the old value, and whether the line refused it (R159, R173). It runs at the home
slice, in the base die on `ms` pages, in window 10 at the slice that holds the line. -/
def State.atomicLine (s : State) (core : Nat) (c : Ctx) (va : VA) (e : DWord) (n : Nat) (f : Nat → Nat) :
    Acc (Nat × Stored) :=
  let a := leafAttr e
  let t := tagFor c va
  if s.engineOwned (lineLoc s c va e) then .done s (s.atomicOld c va e n, .refused)
  else if s.mustWait core (homeDie va) t va e true then .blocked s
  else if a.ms then
    match s.baseDieAtomic c va e n f with
    | .blocked s => .blocked s
    | .done s old => .done s (old, .performed)
  else
    let old := s.atomicOld c va e n
    let bs := storeBytes (va.toNat % 128) n (f old)
    let outside := homeDie va != core / 64
    match s.writeAt (homeDie va) c va e (if outside then 0 else (s.core core).ct) outside bs with
    | .blocked s => .blocked s
    | .done s wts => .done (if outside then s else (s.raiseCt core wts).updateL1 core t va bs wts) (old, .performed)

/-- An atomic takes its value without a timestamp of the core's own die (R153). -/
def timeless (core : Nat) (va : VA) (a : PageAttr) : Bool := homeDie va != core / 64 || a.ms || windowOf va == 9

end Sys2Proof.Machine
end

