-- ==== Sys2Proof/Machine/Ecc.lean ====
section
/-! DEFINITION. Errors that ECC meets in DRAM, in the memory-side cache and in the L2 slices, when the copy of a line is read (R112,
R113, R115). Which copies fail, and when, is free (DESIGN CHOICE, log 15). -/

namespace Sys2Proof.Machine

open Sys2Proof

/-- The key of a channel. -/
def channelKey (die chan : Nat) : Nat := die * 64 + chan

/-! ### Corrected errors (R112) -/

/-- A channel that has corrected 1,024 errors within one second says so, unless it has in the second before (R112). -/
def State.reportCorrected (s : State) (die chan count : Nat) : State :=
  let k := channelKey die chan
  if count < 1024 ∨ s.clk < SMap.get 0 s.mem.quiet k then s
  else
    { s with mem := { s.mem with
      quiet := SMap.set 0 s.mem.quiet k (s.clk + 1400000000)
      corr := SMap.set [] s.mem.corr k [] } }.hwEvent
        { kind := 0x20, src := die, body := [(16, bytesNat 1 die), (17, bytesNat 1 chan), (20, bytesNat 4 count)] }

/-- A channel has corrected an error: those of the last second count. -/
def State.noteCorrected (s : State) (ch : Nat) : State :=
  let ts := (SMap.get [] s.mem.corr ch).filter (fun t => decide (s.clk < t + 1400000000)) ++ [s.clk]
  { s with mem := { s.mem with corr := SMap.set [] s.mem.corr ch ts } }.reportCorrected (ch / 64) (ch % 64) ts.length

/-! ### Uncorrectable errors (R113) -/

/-- A location that an L2 holds and that an error can meet: not a line of the host, which no L2 holds (R134). -/
def isCached (loc : Nat) : Bool := isDram loc || decide (2 ^ 63 ≤ loc)

/-- The die, channel and device-physical address of a line; a line of another device, or of an aperture, has those of its home slice and
no address of this device's memory (DESIGN CHOICE, log 15). -/
def State.linePlace (s : State) (loc : Nat) (va : VA) : Nat × Nat × Nat :=
  if isDram loc then
    let p := placeOfLine s.mem.mbound loc
    (p.die, p.chan, p.phys)
  else (homeDie va, homeSlice va, 0)

/-- RECOVERED: which copy was refetched or rewritten (R69; that `source` names the failing copy is DEDUCED, log 15). -/
def State.recovered (s : State) (src loc : Nat) (va : VA) : State :=
  let (die, chan, phys) := s.linePlace loc va
  s.hwEvent { kind := 0x08, src := die, body := [(16, bytesNat 1 src), (17, bytesNat 1 die), (18, bytesNat 1 chan),
    (24, bytesNat 8 phys), (32, bytesNat 8 va.toNat)] }

/-- A line is poisoned, until the containment action that is due rewrites it. -/
def State.poisonLine (s : State) (loc wher : Nat) (c : Ctx) (va : VA) : State :=
  let q : Poison := { ctx := c, va := va, wher := wher, shared := false }
  { s with mem := { s.mem with poison := SMap.set none s.mem.poison loc (some q) } }.post (.containmentAction loc)

/-- The place that a number names (log 10). -/
def EccPlace.ofNat (n : Nat) : EccPlace := if n < 8 then .l2 n else if n = 8 then .baseDie else .dram

/-- A clock passes, while the package is powered (R19); ECC will meet the errors that the memories have taken in it. -/
def State.passClock (s : State) : State := s.ifPowered (fun s =>
  let new := (Config.decay s.clk).map (fun x => ({ place := .ofNat x.1, line := x.2.1, bad := x.2.2 } : Flaw))
  { s with
    clk := s.clk + 1
    mem := { s.mem with flaws := s.mem.flaws ++ new } })

/-- A copy of the line at a place cannot be corrected either. -/
def State.failsAt (s : State) (p : EccPlace) (loc : Nat) : Bool := s.mem.flaws.any (fun f => f.place == p && f.line == loc && f.bad)

/-- The memory-side cache holds a correct copy. -/
def State.goodMsc (s : State) (loc : Nat) : Bool := s.mscHolds loc && !s.failsAt .baseDie loc

/-- The L2 of some die that the test accepts holds a correct copy. -/
def State.goodL2 (s : State) (loc : Nat) (p : Nat → Bool) : Bool :=
  (s.copiesOf loc (fun k => p (l2KeyDie k))).any (fun e => !s.failsAt (.l2 (l2KeyDie e.1)) loc)

/-- Memory, or whatever else a line is filled from, holds it correctly. -/
def State.goodBelow (s : State) (loc : Nat) : Bool := s.goodMsc loc || !s.failsAt .dram loc

/-- The copy that a die's L2 holds of a line differs from what lies below it. -/
def State.dirtyIn (s : State) (loc die : Nat) : Bool :=
  (s.copiesIn loc die).any (fun e => e.2.isDirty ||
    (l2KeyLine e.1 / 2 ^ 41 == 10 && (s.sysLine (globalOf (BitVec.ofNat 52 (l2KeyLine e.1 * 128)))).dirty))

/-- An uncorrectable error in a copy of a line: it is refetched, or rewritten, where the copy is clean and a correct one exists; else
the line is poisoned (R113, R115). -/
def State.loseCopy (s : State) (place : EccPlace) (loc : Nat) (c : Ctx) (va : VA) : State :=
  match place with
  | .l2 d =>
    if (s.copiesIn loc d).isEmpty then s
    else if s.dirtyIn loc d then s.poisonLine loc 1 c va
    else if s.goodL2 loc (· != d) || s.goodBelow loc then s.recovered 0 loc va
    else s.poisonLine loc 0 c va
  | .baseDie =>
    let clean := (s.mscFind loc).any (fun x => x.dirty &&& s.mscWant loc == 0)
    if !s.mscHolds loc then s
    else if clean && (s.goodL2 loc (fun _ => true) || !s.failsAt .dram loc) then s.recovered 1 loc va
    else s.poisonLine loc 2 c va
  | .dram => if s.goodL2 loc (fun _ => true) || s.goodMsc loc then s.recovered 2 loc va else s.poisonLine loc 3 c va

/-- An error is met: it is no more, and was corrected, or is handled. -/
def State.meetFlaw (s : State) (f : Flaw) (c : Ctx) (va : VA) : State :=
  let s := { s with mem := { s.mem with flaws := s.mem.flaws.erase f } }
  let (die, chan, _) := s.linePlace f.line va
  if f.bad then s.loseCopy f.place f.line c va else s.noteCorrected (channelKey die chan)

/-- The place from which the L2 of a die reads a line. -/
def State.readPlace (s : State) (die loc : Nat) : EccPlace :=
  if !(s.copiesIn loc die).isEmpty then .l2 die
  else if !(s.copiesIn loc (locDie loc)).isEmpty then .l2 (locDie loc)
  else if s.mscHolds loc then .baseDie
  else .dram

/-- The copy of a line that an access of a core reads has an error that nothing has met. -/
def State.meetsFlaw (s : State) (core : Nat) (c : Ctx) (va : VA) (e : DWord) : Bool :=
  let loc := lineLoc s c va e
  isCached loc && s.mem.flaws.any (fun f => f.line == loc && f.place == s.readPlace (serveDie core va (leafAttr e)) loc)

/-- An access of a core to a line meets the errors of the copy that it reads; a write reads the sectors that it does not fill. -/
def State.meetLine (s : State) (core : Nat) (c : Ctx) (va : VA) (e : DWord) : State :=
  let loc := lineLoc s c va e
  if s.mem.flaws.isEmpty || !isCached loc then s
  else
    let p := s.readPlace (serveDie core va (leafAttr e)) loc
    (s.mem.flaws.filter (fun f => f.line == loc && f.place == p)).foldl (fun s f => s.meetFlaw f c va) s

end Sys2Proof.Machine
end

