-- ==== Sys2Proof/Machine/Issue.lean ====
section
/-! DEFINITION. How a word issues: the scoreboard, the checks, its own effect, and what its completion moves: the run, the
clock, the spin detector, the watchdog, STEP (R210, R230, R236, R240, R250, R256, R309). -/

namespace Sys2Proof.Machine

open Sys2Proof

/-- The word that issues: who issues it and where it stands. -/
structure Env where
  gid  : Nat
  sel  : PcSel
  pc   : VA
  next : VA
  op   : Op
  f    : Fields

/-- The instruction word. -/
def Env.word (e : Env) : Word := wordOf e.op.code e.f

/-- What the effect of a word does to the state: it completes, traps leaving the state so, or does not issue yet. -/
inductive Res where
  | ok (s : State)
  | trap (t : TrapInfo) (s : State)
  | wait (s : State)
  /-- It does not issue yet, and no other word of the group does before it. -/
  | waitAll (s : State)
  /-- It has begun, keeps what it has changed, and goes on waiting at its own address. -/
  | hold (s : State)

/-! ### Scoreboard and classes of words -/

/-- The scalar registers `s28` to `s30`, which hold the enable mask. -/
def maskRegs : List RegRef := [.s 28, .s 29, .s 30]

/-- Registers that operations in flight have still to write. -/
def Group.pendingRegs (g : Group) : List RegRef := (g.ops.filter (fun o => !o.done)).flatMap (fun o => o.regs)

/-- A vector register. -/
def RegRef.isVector : RegRef → Bool
  | .v _ => true
  | _ => false

/-- The word must wait for a register in flight (R240): one that it names, or the mask that every word reads. VMOVI counts
as a writer of every vector register (R357). -/
def Group.hazard (g : Group) (op : Op) (f : Fields) (sel : PcSel) : Bool :=
  let pend := g.pendingRegs
  (!pend.isEmpty &&
   (pend.any (fun r => (op.named f g sel).contains r || maskRegs.contains r) ||
    (op.code == 0x7D && pend.any RegRef.isVector)))

/-- The words that the matrix unit of a quarter runs: every tile word but TLD and TST (R371). -/
def isUnitCode (c : Nat) : Bool := decide (0x98 ≤ c) && decide (c ≤ 0xA7) && c != 0x9B && c != 0x9C

/-- The word must wait for its quarter's matrix unit: a tile word for the unit itself, any word of the group for what the unit has
still to release (R240, R371). -/
def State.unitHazard (s : State) (gid : Nat) (g : Group) (op : Op) (f : Fields) (sel : PcSel) : Bool :=
  (s.quarter (quarterKey g.coreId g.quarter)).unit.any fun w =>
    isUnitCode op.code || (w.gid == gid && ((op.named f g sel).any w.regs.contains ||
      (op.code == 0x7D && w.regs.any RegRef.isVector)))

/-- The quarter's matrix unit works for a group (R372). -/
def State.inUnit (s : State) (gid : Nat) : Bool := (s.quarter (gid / 16)).unit.any (fun w => w.gid == gid)

/-- The words that a group waits at for a long time: WAIT, WAITX, BARW, BARAW and CHKW (R209), QENQ and QDEQ (R401). -/
def isLongWait (c : Nat) : Bool := [0x0A, 0x0B, 0x13, 0x14, 0x15, 0xC5, 0xC6].contains c

/-- What the word waits for in flight is an L2 miss or a Wings pipe result (R209). -/
def Group.awaitsLong (g : Group) (op : Op) (f : Fields) (sel : PcSel) : Bool :=
  g.ops.any fun o => !o.done &&
    (o.miss || (match o.kind with
      | .wings _ | .wingsReply _ => true
      | _ => false)) &&
    o.regs.any (fun r => (op.named f g sel).contains r || maskRegs.contains r)

/-- Stores, TST among them (R379), atomics and reductions, which restart the count of R236. -/
def isStoreCode (c : Nat) : Bool :=
  c == 0x9C ||
  (decide (0xB5 ≤ c) && decide (c ≤ 0xB9)) || c == 0xBC || c == 0xBD || c == 0xC3 || c == 0xC4 || c == 0xC5 ||
  (decide (0xC8 ≤ c) && decide (c ≤ 0xD4))

/-- Barrier instructions. -/
def isBarrierCode (c : Nat) : Bool := decide (0x12 ≤ c) && decide (c ≤ 0x14)

/-- Words that can transfer control backwards within a level: 0x20 to 0x2D and CHKW. -/
def isTransferCode (c : Nat) : Bool := (decide (0x20 ≤ c) && decide (c ≤ 0x2D)) || c == 0x15

/-- A write of `s28` to `s30` has changed the enable mask of a slot (R229, R236). -/
def PcSlot.masked (p p' : PcSlot) : Bool := p.owned == p'.owned && p.enable != p'.enable

/-- Some written lane changed its value (R236); the banks hold what replies write for a lower level. -/
def Group.changed (g g' : Group) : Bool :=
  g.slotA.masked g'.slotA || g.slotB.masked g'.slotB || decide (g.bank0 ≠ g'.bank0) || decide (g.bank1 ≠ g'.bank1) ||
  decide (g.v ≠ g'.v) || decide (g.s ≠ g'.s) || decide (g.p ≠ g'.p) || decide (g.trow ≠ g'.trow) ||
  decide (g.rmax ≠ g'.rmax) || decide (g.rsum ≠ g'.rsum) || decide (g.m ≠ g'.m)

/-- The spin detector's counts after a word (R236): the slot's backward branches, its demoted sibling's wait. -/
def Group.spin (g0 g1 : Group) (e : Env) : Group :=
  let p := g1.slotOf e.sel
  let restart := g0.changed g1 || isStoreCode e.op.code
  let b := if restart then 0 else p.back
  let b := if isTransferCode e.op.code && decide (p.pc.toNat < e.pc.toNat) then b + 1 else b
  let g2 := if p.status = .empty then g1 else g1.setSlot e.sel { p with back := min b 64 }
  let o := g2.slotOf (otherSel e.sel)
  if o.status = .demoted then g2.setSlot (otherSel e.sel) { o with sib := o.sib + 1 } else g2

/-- The slot has spun 64 times beside a sibling. -/
def Group.spins (g : Group) (sel : PcSel) : Bool :=
  decide (64 ≤ (g.slotOf sel).back) && (g.slotOf sel).status == .ready && (g.slotOf (otherSel sel)).status != .empty

/-- The sibling of a demoted slot ends the demotion with this word (R236). -/
def Group.endsDemotion (g : Group) (e : Env) : Bool :=
  let o := g.slotOf (otherSel e.sel)
  o.status == .demoted &&
  (isStoreCode e.op.code || isBarrierCode e.op.code || decide (1024 ≤ o.sib) ||
   (g.slotOf e.sel).status == .joining || (g.slotOf e.sel).status == .empty)

/-- Loads, which need a token to issue (R213). -/
def isLoadCode (c : Nat) : Bool :=
  (decide (0xB0 ≤ c) && decide (c ≤ 0xB4)) || c == 0xBA || c == 0xBB || (decide (0xBE ≤ c) && decide (c ≤ 0xC2)) || c == 0x9B

/-- The run goes on, or ends after this word (R309). -/
def Env.runOn (e : Env) (s : State) : Option Cursor :=
  match s.cur with
  | some c =>
    if e.f.e || e.op.ends || decide (24 ≤ c.count + 1) then none
    else some { c with
      count := c.count + 1
      load := c.load || isLoadCode e.op.code }
  | none => none

/-- The quarter's round robin goes on after this group, and the group's other slot is next (R211); a level that an RTT has returned to
keeps the slot that was next there (R245). -/
def State.noteIssue (s : State) (gid : Nat) (sel : PcSel) (lvl : Nat) : State :=
  match s.group? gid with
  | none => s
  | some g =>
    let k := quarterKey g.coreId g.quarter
    (s.setQuarter k { s.quarter k with last := g.slot }).setGroup gid
      { g with nextSel := if g.lvl = lvl then otherSel sel else g.nextSel }

/-- A run that comes to its first load counts against the group's token; a token that four runs have used goes back when
the run ends (R213). -/
def State.noteLoad (s : State) (e : Env) (c : Option Cursor) : State :=
  match s.group? e.gid with
  | none => s
  | some g =>
    let first := isLoadCode e.op.code && c.any (fun c => !c.load)
    let s := if first then
        s.setGroup e.gid { g with token := g.token.map (fun t => { t with runs := t.runs + 1 }) }
      else s
    match s.cur, s.group? e.gid with
    | none, some g => if g.token.any (fun t => decide (4 ≤ t.runs)) then s.setGroup e.gid { g with token := none } else s
    | _, _ => s

/-- What the completion of a word moves. `g0` is the group as the word found it. -/
def State.retire (s : State) (e : Env) (g0 : Group) : State :=
  let c := s.cur
  let s := ({ s with cur := e.runOn s, clk := s.clk + g0.beats }.noteIssue e.gid e.sel g0.lvl).noteLoad e c
  match s.group? e.gid with
  | none => s
  | some g1 =>
    if g1.dead then s
    else
      let g2 := if g1.lvl = g0.lvl then Group.spin g0 g1 e else g1
      let s := s.setGroup e.gid g2
      let s := if g2.spins e.sel then s.post (.spinDemotion e.gid e.sel) else s
      let s := if g2.endsDemotion e then s.post (.demotionEnd e.gid (otherSel e.sel)) else s
      let s := match g2.watchdogDue s.clk with
        | some l => s.post (.watchdogExpiry e.gid l)
        | none => s
      if g0.lvl = 0 && g0.troute.getLsbD 16 then
        let sel := if (g2.slotOf e.sel).status = .empty then otherSel e.sel else e.sel
        s.takeTrap e.gid sel { cause := Cause.step, mask := g2.en0 sel } e.pc e.word e.f.lit
      else s

/-- The counts that a word which traps after its effect still moves (DESIGN CHOICE, log 4). -/
def State.account (s : State) (e : Env) (g0 : Group) : State :=
  let s := { s with clk := s.clk + g0.beats }.noteIssue e.gid e.sel g0.lvl
  match s.group? e.gid with
  | some g1 => s.setGroup e.gid (Group.spin g0 g1 e)
  | none => s

/-- The replay of a slot ends with its first word (R105); a word that leaves the level finds its own there. -/
def State.endReplay (s : State) (gid : Nat) (sel : PcSel) (g0 : Group) : State :=
  match s.group? gid with
  | some g =>
    let p := g.slotOf sel
    if (g0.slotOf sel).kept.replay.isSome && g.lvl == g0.lvl then
      s.setGroup gid (g.setSlot sel { p with kept := { p.kept with replay := none } })
    else s
  | none => s

/-- The run breaks before a word that must wait, for one of the long waits of R209 or for another (R211, R240)
(DESIGN CHOICE, log 27). -/
def State.stall (s : State) (gid : Nat) (sel : PcSel) (long : Bool) : State :=
  let s := { s with cur := none, clk := s.clk + 1 }
  match s.group? gid with
  | some g => s.setGroup gid { g with
      stalled := if g.stalled.contains sel then g.stalled else g.stalled ++ [sel]
      longStall := g.longStall || long }
  | none => s

/-- The group comes to a load without a token: it is not ready until it receives one (R213) (DESIGN CHOICE, log 27). -/
def State.wantToken (s : State) (gid : Nat) (sel : PcSel) : State :=
  match s.group? gid with
  | some g => (s.setGroup gid { g with wants := true }).stall gid sel false
  | none => s

/-- A load of the group stands on an expired copy, and its renewal has not replied (R133). -/
def State.speculates (s : State) (gid : Nat) : Bool := (SMap.get none s.specs gid).isSome

/-- The words that wait for a speculation to resolve (R133). -/
def waitsForSpec (c : Nat) : Bool :=
  (decide (0xC8 ≤ c) && decide (c ≤ 0xD9)) || (decide (0xE0 ≤ c) && decide (c ≤ 0xE9)) || isBarrierCode c ||
  [0x04, 0x05, 0x06, 0x07, 0x0C, 0x0E, 0x0F, 0x10, 0x11, 0x15, 0x16, 0xC5, 0xC6].contains c

/-- The whole group waits: for a word of its other slot, or for banks to drain (R328, R329, R336). -/
def State.held (s : State) (g : Group) (sel : PcSel) : Bool :=
  g.holdSel == some (otherSel sel) || g.draining.any (fun k => (s.bank k).drn)

/-- The slot stays at its word. -/
def State.backTo (s : State) (e : Env) : State :=
  match s.group? e.gid with
  | some g => s.setGroup e.gid (g.setPc e.sel e.pc)
  | none => s

/-! ### Who may issue (R209, R211, R213) -/

/-- A slot may issue: it is ready, some of its lanes are not leaving, and the group does not wait for a word of the other. -/
def Group.eligible (g : Group) (sel : PcSel) : Bool :=
  (g.slotOf sel).status == .ready && (g.slotOf sel).owned &&& ~~~g.leaving != 0 && g.holdSel != some (otherSel sel)

/-- The slot about to issue, alternating between two that may (R211). -/
def Group.pick (g : Group) : Option PcSel :=
  if g.eligible g.nextSel then some g.nextSel
  else if g.eligible (otherSel g.nextSel) then some (otherSel g.nextSel)
  else none

/-- The slot about to issue, leaving out those whose last word could not. -/
def Group.pickOpen (g : Group) : Option PcSel :=
  let ok := fun (sel : PcSel) => g.eligible sel && !g.stalled.contains sel
  if ok g.nextSel then some g.nextSel else if ok (otherSel g.nextSel) then some (otherSel g.nextSel) else none

/-- An incremental checkpoint of a resilient context is due: the context is paused for it (R86). It waits for a link that is down
and for a stream in progress (DESIGN CHOICE, log 34). -/
def State.ckptDue (s : State) (c : Ctx) : Bool :=
  (s.context? c.toNat).any (fun x => x.resilient && !x.killed && x.interval != 0 && decide (x.ckptAt ≤ s.clk)) &&
  s.ihlUp && s.pkg.stream.isNone

/-- The group's context is active on its core and not paused for a checkpoint (R83, R86), and nothing of it is in progress that
issues no further run. -/
def State.runnable (s : State) (gid : Nat) (g : Group) : Bool :=
  !g.dead && (s.core g.coreId).active == some g.ctx && !(s.core g.coreId).switching && !s.speculates gid &&
  (g.ctx == 0 || (s.pkg.stream.isNone && !s.ckptDue g.ctx))

/-- The group may issue at all: it is runnable and in an active slot. -/
def State.issuable (s : State) (gid : Nat) (g : Group) : Bool := g.place == .active && s.runnable gid g

/-- The group is ready: some slot may issue, its banks have drained, and it waits for no token. -/
def State.ready (s : State) (gid : Nat) (g : Group) : Bool :=
  s.runnable gid g && g.pickOpen.isSome && !(g.wants && g.token.isNone) && !g.draining.any (fun k => (s.bank k).drn)

/-- The word that a cursor's slot issues. -/
def Cursor.env (c : Cursor) (g : Group) (op : Op) (f : Fields) : Env :=
  let pc := (g.slotOf c.sel).pc
  { gid := c.gid, sel := c.sel, pc := pc, next := pc + (if f.l then 8 else 4), op := op, f := f }

/-- The group as the effect of its word finds it: the slot's PC at the next word, nothing that holds it back. -/
def Group.begun (g : Group) (e : Env) : Group :=
  { g.setPc e.sel e.next with
    stalled := []
    longStall := false
    holdSel := none
    draining := [] }

/-- Issue a word: scoreboard, checks, effect, completion. The effect finds the slot's PC at the next word (DEDUCED, log 13). -/
def issue (op : Op) (f : Fields) (body : Env → Group → State → Res) (s : State) : Host.Outcome State Fault Refusal :=
  if !s.running then .fault .clocksStopped
  else
    match s.cur with
    | none => .refused .noIssuingGroup
    | some c =>
      match s.group? c.gid with
      | none => .refused .noIssuingGroup
      | some g =>
        let e := c.env g op f
        let spec := s.speculates c.gid
        if g.hazard op f c.sel || s.unitHazard c.gid g op f c.sel || s.held g c.sel || (spec && waitsForSpec op.code) then
          .next (s.stall c.gid c.sel (spec || g.awaitsLong op f c.sel))
        else if isLoadCode op.code && g.token.isNone then .next (s.wantToken c.gid c.sel)
        else
          match op.check f g c.sel with
          | some t =>
            .next (if spec then s.stall c.gid c.sel true
              else ((s.noteIssue e.gid e.sel g.lvl).endReplay c.gid c.sel g).takeTrap c.gid c.sel t e.pc e.word f.lit)
          | none =>
            let g' := g.begun e
            match body e g' (s.setGroup c.gid g') with
            | .ok s' => .next ((s'.endReplay c.gid c.sel g).retire e g)
            | .trap t s' =>
              .next (if spec then s.stall c.gid c.sel true
                else ((s'.endReplay c.gid c.sel g).account e g).takeTrap c.gid c.sel t e.pc e.word f.lit)
            | .wait s' => .next ((s'.setGroup c.gid g).stall c.gid c.sel (isLongWait op.code))
            | .waitAll s' => .next ((s'.setGroup c.gid { g with holdSel := some c.sel }).stall c.gid c.sel (isLongWait op.code))
            | .hold s' => .next ((s'.backTo e).stall c.gid c.sel (isLongWait op.code))

/-- Issue a word whose effect touches only its group. -/
def issueReg (op : Op) (f : Fields) (body : PcSel → Group → GRes) (s : State) : Host.Outcome State Fault Refusal :=
  issue op f (fun e g s =>
    match body e.sel g with
    | .done g' => .ok (s.setGroup e.gid g')
    | .trap t g' => .trap t (s.setGroup e.gid g')
    | .wait => .wait s) s

/-- Issue a word that always completes and touches only its group. -/
def issueSimple (op : Op) (f : Fields) (body : PcSel → Group → Group) (s : State) : Host.Outcome State Fault Refusal :=
  issueReg op f (fun sel g => .done (body sel g)) s

/-- Issue a word whose opcode is unassigned: it traps ILLEGAL_OP, and its literal is not read (R308) (DEDUCED, log 13). -/
def issueUnassigned (w : Word) (s : State) : Host.Outcome State Fault Refusal :=
  if !s.running then .fault .clocksStopped
  else
    match s.cur with
    | none => .refused .noIssuingGroup
    | some c =>
      match s.group? c.gid with
      | none => .refused .noIssuingGroup
      | some g =>
        if g.pendingRegs.any maskRegs.contains || s.held g c.sel || s.speculates c.gid then
          .next (s.stall c.gid c.sel (s.speculates c.gid))
        else .next (((s.noteIssue c.gid c.sel g.lvl).endReplay c.gid c.sel g).takeTrap c.gid c.sel (g.trapWhole c.sel Cause.illegalOp 0) (g.slotOf c.sel).pc w 0)

end Sys2Proof.Machine
end

