-- ==== Sys2Proof/Machine/Requests.lean ====
section
/-! DEFINITION. Operations in flight: how a memory word checks and registers its accesses at issue, in what order a group's
operations may be performed, and what performing each of them does (R90, R104, R146 to R166, R173, R241, R252, R393 to
R405). -/

namespace Sys2Proof.Machine

open Sys2Proof

/-! ### Counters and the list of operations (R241) -/

/-- The value of a counter: the operations of its class from the oldest incomplete one on. -/
def Group.cnt (g : Group) (c : CntClass) : Nat := (g.ops.filter (fun o => o.cls == c)).length

/-- Drop the completed operations that no older incomplete one of their class keeps counted. -/
def cleanOps : List MemOp → List CntClass → List MemOp
  | [], _ => []
  | o :: os, held =>
    if o.done then
      if o.cls != .none && held.contains o.cls then o :: cleanOps os held else cleanOps os held
    else o :: cleanOps os (o.cls :: held)

/-- Add an operation to a group, in program order. -/
def Group.push (g : Group) (o : MemOp) : Group :=
  { g with ops := g.ops ++ [{ o with id := g.nextOp }], nextOp := g.nextOp + 1 }

/-- Replace an operation of a group. -/
def Group.setOp (g : Group) (o : MemOp) : Group := { g with ops := g.ops.map (fun x => if x.id = o.id then o else x) }

/-- The operations that are not complete. -/
def Group.undone (g : Group) : List MemOp := g.ops.filter (fun o => !o.done)

/-- A counter stands at 63, so that an instruction which raises it waits. -/
def Group.cntFull (g : Group) (c : CntClass) : Bool := c != .none && decide (63 ≤ g.cnt c)

/-! ### Ordering (R150 to R157, R160) -/

/-- The ordering kind of a relaxed access. -/
def Order.relaxed : Order := { acq := false, rel := false, sc := false }

/-- The ordering kind of a load under `m.mo` (R152). -/
def Group.loadOrder (g : Group) : Order := { acq := g.mo == 1 || g.mo == 3 || g.mo == 4, rel := false, sc := false }

/-- The ordering kind of a store. -/
def Group.storeOrder (g : Group) : Order := { acq := false, rel := decide (2 ≤ g.mo), sc := false }

/-- The ordering kind of an atomic with return. -/
def Group.atomicOrder (g : Group) : Order :=
  { acq := g.mo == 1 || g.mo == 3 || g.mo == 4, rel := decide (2 ≤ g.mo), sc := g.mo == 4 }

/-- The ordering kind of a reduction. -/
def Group.reduceOrder (g : Group) : Order := { acq := g.mo == 4, rel := decide (2 ≤ g.mo), sc := g.mo == 4 }

/-- A load of any kind. -/
def OpKind.isLoad : OpKind → Bool
  | .load _ _ | .watchLoad _ | .loadScalar _ | .atomic _ _ | .tileLoad | .dequeue => true
  | .wings f | .wingsReply f => match f with
    | .get | .connect | .merge | .sight | .sightAny => true
    | _ => false
  | _ => false

/-- A store of any kind. -/
def OpKind.isStore : OpKind → Bool
  | .store _ | .atomic _ _ | .reduce _ _ | .tileStore | .maintain _ _ _ | .enqueue => true
  | _ => false

/-- A load that reads memory and nothing else. -/
def OpKind.isPlainLoad : OpKind → Bool
  | .load _ _ | .watchLoad _ | .loadScalar _ | .tileLoad => true
  | _ => false

/-- A load of memory, or an atomic. -/
def OpKind.readsMemory (k : OpKind) : Bool :=
  k.isPlainLoad || (match k with
    | .atomic _ _ => true
    | _ => false)

/-- A LAUNCH whose block the Cue Unit has still to read. -/
def OpKind.isLaunch : OpKind → Bool
  | .launch _ => true
  | _ => false

/-- The operations of a group before one that are not complete. -/
def Group.before (g : Group) (o : MemOp) : List MemOp := (g.ops.takeWhile (fun x => x.id != o.id)).filter (fun x => !x.done)

/-- Whether an operation of a group may be performed now: no acquire before it is outstanding, a release waits for
everything before it, loads go in order among loads and stores among stores, a store after the loads before it, which total store
order asks for and R380 where they overlap; nothing that writes goes before a LAUNCH has read its block (R332); Wings operations in
order among themselves (R150, R153, R154, R161) (DESIGN CHOICE, log 24). -/
def Group.mayPerform (g : Group) (o : MemOp) : Bool :=
  let before := g.before o
  let wings := fun (k : OpKind) => match k with
    | .wings _ => true
    | _ => false
  let copy := fun (k : OpKind) => match k with
    | .copy _ _ _ _ _ _ => true
    | _ => false
  before.all (fun x => !x.order.acq || copy x.kind) && (!o.order.rel || before.isEmpty) &&
  (!o.kind.isLoad || before.all (fun x => !x.kind.isLoad)) &&
  (!o.kind.isStore || before.all (fun x => !x.kind.isStore && !x.kind.readsMemory)) &&
  (o.kind.isPlainLoad || before.all (fun x => !x.kind.isLaunch)) &&
  (!wings o.kind || before.all (fun x => !wings x.kind)) &&
  (!o.kind.isLoad || before.all (fun x => x.kind != .tileStore)) &&
  (!(o.kind == .wings .sight || o.kind == .wings .sightAny) || before.all (fun x => !x.kind.isStore)) &&
  (o.kind != .tileLoad || before.all (fun x => !x.kind.isStore)) &&
  (!copy o.kind || !o.order.acq || before.all (fun x => !x.kind.isLoad))

/-! ### Events of operations -/

/-- The event that performs an operation of group `gid`. -/
def MemOp.event (o : MemOp) (gid : Nat) : Option Instr :=
  let key := gid * 2 ^ 32 + o.id
  match o.kind with
  | .load _ _ | .watchLoad _ | .loadScalar _ | .tileLoad => some (.loadReply gid)
  | .store _ | .reduce _ _ | .tileStore | .maintain _ _ _ => some (.storePerformed gid)
  | .atomic _ _ => some (.atomicReply gid)
  | .copy _ _ _ _ _ _ => some (.copyComplete gid)
  | .launch _ => some (.launchAnswer key)
  | .wings f =>
    some (match f with
      | .append => if o.ticket then .appendSealed key else .engineAppend key
      | .stamp => if o.ticket then .stampReturn key else .engineStamp key
      | .drop => .engineDrop key
      | .get => .engineGet key
      | .connect => .engineConnect key
      | .merge => .engineMerge key
      | .reweight => .engineReweight key
      | .retire => .engineRetire key
      | .sight | .sightAny => .sightlineQuery key)
  | .wingsReply _ => some (.wingsReply key)
  | .enqueue | .dequeue | .arrive _ | .exit => none

/-- Post an event unless it already waits. -/
def State.postOnce (s : State) (e : Instr) : State := if s.agenda.contains e then s else s.post e

/-- Let every operation of a group that is not complete try again (DESIGN CHOICE, log 24). -/
def State.wake (s : State) (gid : Nat) : State :=
  match s.group? gid with
  | none => s
  | some g =>
    let s := if s.speculates gid then s.postOnce (.renewalReply gid) else s
    (g.undone.filterMap (fun o => o.event gid)).foldl State.postOnce s

/-- Let every operation in flight, and every completion increment, try again. -/
def State.wakeAll (s : State) : State :=
  let s := (s.groups.map (fun e => e.1)).foldl State.wake s
  (s.launchesWhere (fun l => decide (0 < l.pendingIncs))).foldl (fun s e => s.postOnce (.completionIncrement e.1)) s

/-- The stalled groups of a team may try again. -/
def State.wakeStalled (s : State) (tid : Nat) : State :=
  (s.groupsWhere (fun g => g.teamId == tid && !g.stalled.isEmpty)).foldl (fun s e => s.postOnce (.fifoReady e.1)) s

/-! ### Barriers (R409) -/

/-- A group's arrived bit for barrier k. -/
def Team.hasArrived (t : Team) (k i : Nat) : Bool := (SMap.get (0#16) t.arrived i).getLsbD k

/-- Set the arrived bit of group i for barrier k. -/
def Team.arrive (t : Team) (k i : Nat) : Team :=
  { t with arrived := SMap.set 0 t.arrived i (SMap.get (0#16) t.arrived i ||| ((1#16) <<< k)) }

/-- The indices of the groups that still count. -/
def Team.counting (t : Team) : List Nat := (List.range t.groups.length).filter (fun i => !t.ended.contains i)

/-- Every group that counts has arrived at barrier k. -/
def Team.complete (t : Team) (k : Nat) : Bool := !t.counting.isEmpty && t.counting.all (t.hasArrived k)

/-- Post the completion of every phase of a team that is complete. -/
def State.postPhases (s : State) (tid : Nat) : State :=
  match s.team? tid with
  | none => s
  | some t => (List.finRange 16).foldl
      (fun s (k : Fin 16) => if t.complete k.val then s.postOnce (.barrierPhaseComplete tid k) else s) s

/-- A group arrives at barrier k. -/
def State.arriveAt (s : State) (g : Group) (k : Nat) : State :=
  match s.team? g.teamId with
  | none => s
  | some t => (s.setTeam g.teamId (t.arrive k g.gidx)).postPhases g.teamId

/-! ### Completion -/

/-- A group without live lanes whose counters are zero ends (R237). -/
def State.postEnd (s : State) (gid : Nat) : State :=
  match s.group? gid with
  | some g => if g.live = 0 && g.undone.isEmpty && !g.dead then s.postOnce (.groupEnd gid) else s
  | none => s

/-- The release of an arrival or an EXIT that has nothing before it. -/
def Group.headOp (g : Group) : Option MemOp :=
  match g.undone with
  | o :: _ =>
    match o.kind with
    | .arrive _ | .exit => some o
    | _ => none
  | [] => none

/-- Perform the arrivals and exits whose releases have been performed (R156, R326, R410). -/
def State.settle (s : State) (gid : Nat) : Nat → State
  | 0 => s
  | n + 1 =>
    match s.group? gid with
    | none => s
    | some g =>
      match g.headOp with
      | none => s
      | some o =>
        let g' := g.setOp { o with done := true }
        let g' := { g' with ops := cleanOps g'.ops [] }
        let s := match o.kind with
          | .arrive k => (s.setGroup gid g').arriveAt g k
          | _ => (s.setGroup gid (g'.leave o.lanes)).postEnd gid
        s.settle gid n

/-- A killed group whose last operation has completed is gone (R238) (DESIGN CHOICE, log 28). -/
def State.bury (s : State) (gid : Nat) : State :=
  match s.group? gid with
  | some g => if g.dead && g.undone.isEmpty then s.removeGroup gid else s
  | none => s

/-- Store an operation back; a complete one lets those that waited for it try again, and may end the group. -/
def State.putOp (s : State) (gid : Nat) (o : MemOp) : State :=
  match s.group? gid with
  | none => s
  | some g =>
    let g' := g.setOp o
    let g' := { g' with ops := cleanOps g'.ops [] }
    let s := s.setGroup gid (if o.done then g'.unstall s.clk else g')
    if o.done then (((s.settle gid (g.ops.length + 1)).wake gid).postEnd gid).bury gid else s

/-- Count a backward-branch run again from zero: a reply wrote a lane with a changed value (R236). -/
def Group.restart (g : Group) (o : MemOp) : Group :=
  let slot := fun (p : PcSlot) => { p with back := 0 }
  let bank := fun (b : CtlBank) => match o.sel with
    | .a => { b with slotA := slot b.slotA }
    | .b => { b with slotB := slot b.slotB }
  if o.level = g.lvl then g.setSlot o.sel (slot (g.slotOf o.sel))
  else if g.lvl < o.level then g
  else if o.level = 0 then { g with bank0 := bank g.bank0 }
  else { g with bank1 := bank g.bank1 }

/-- Record a late fault against the level at which the operation issued, and have it taken (R252) (DESIGN CHOICE, log 28). -/
def State.lateFail (s : State) (gid : Nat) (o : MemOp) (cause inner cls : Nat) (lanes : Mask) (addr : VA) : State :=
  match s.group? gid with
  | none => s
  | some g =>
    if g.dead || lanes = 0 then s
    else
      let r : LateRec :=
        match SMap.get none g.late o.level with
        | some r => { r with more := true }
        | none => { cause := cause, inner := inner, mask := lanes, addr := addr, word := o.word, lit := o.lit, cls := cls,
                    more := false }
      (s.setGroup gid { g with late := SMap.set none g.late o.level (some r) }).postOnce (.lateFault gid)

/-! ### Lines and lanes of an operation -/

/-- The address that a lane of an operation accesses. -/
def MemOp.addr (o : MemOp) (l : Nat) : VA := BitVec.ofNat 52 (SMap.get 0 o.addrs l)

/-- The leaf that a lane translated by at issue. -/
def MemOp.pte (o : MemOp) (l : Nat) : DWord := BitVec.ofNat 64 (SMap.get 0 o.ptes l)

/-- Word k of a lane's data. -/
def MemOp.word' (o : MemOp) (l k : Nat) : Word := SMap.get 0 o.data (4 * l + k)

/-- A lane's data as a number. -/
def MemOp.datum (o : MemOp) (l : Nat) : Nat :=
  (o.word' l 0).toNat + 2 ^ 32 * ((o.word' l 1).toNat + 2 ^ 32 * ((o.word' l 2).toNat + 2 ^ 32 * (o.word' l 3).toNat))

/-- Take a lane out of those still to perform. -/
def MemOp.drop (o : MemOp) (l : Nat) : MemOp := { o with lanes := o.lanes &&& ~~~((1#96) <<< l) }

/-- The lane addresses of an operation lie in team scratch. -/
def isScratch (va : VA) : Bool := windowOf va == 14

/-- The location of a byte, the same for every synonym (R93). -/
def State.byteLoc (s : State) (c : Ctx) (va : VA) (e : DWord) : Nat := lineLoc s c va e + va.toNat % 128

/-- What a queued store of a group has still to write: the location, the length and the value of each of its lanes. A tile store
translates when it is performed (R379): its location is that of the leaf that stands now. -/
def State.queuedWrites (s : State) (g : Group) (y : MemOp) : List (Nat × Nat × Nat) :=
  match y.kind with
  | .store m => (lanesOf y.lanes).map (fun l => (s.byteLoc g.ctx (y.addr l) (y.pte l), m, y.datum l))
  | .tileStore => (lanesOf y.lanes).filterMap (fun l =>
      let va := y.addr l
      let row := (List.range 32).foldl (fun x k => x + (SMap.get 0 y.data (32 * l + k)).toNat * 2 ^ (32 * k)) 0
      if isScratch va then some (s.byteLoc g.ctx va 0, 128, row)
      else
        match leafOf s g.ctx va with
        | .ok e => some (s.byteLoc g.ctx va e, 128, row)
        | .error _ => none)
  | _ => []

/-- The bytes that queued stores before operation `o` give to n bytes of a location, over the bytes memory has (R150, R380). -/
def State.forwarded (s : State) (g : Group) (o : MemOp) (loc n x : Nat) : Nat :=
  let stores := (g.ops.takeWhile (fun y => y.id != o.id)).filter (fun y => !y.done)
  stores.foldl (fun x y => (s.queuedWrites g y).foldl (fun x w =>
    (List.range w.2.1).foldl (fun x j =>
      if loc ≤ w.1 + j ∧ w.1 + j < loc + n then
        let k := w.1 + j - loc
        x - x / 2 ^ (8 * k) % 256 * 2 ^ (8 * k) + w.2.2 / 2 ^ (8 * j) % 256 * 2 ^ (8 * k)
      else x) x) x) x

/-- A group's scratch size (R90, R125). -/
def State.scrbOf (s : State) (g : Group) : Nat :=
  match s.team? g.teamId with
  | some t => t.scrb
  | none => 0

/-! ### Checks and translation at issue (R90, R103, R104, R394) -/

/-- The first lane of a mask. -/
def firstLane (m : Mask) : Nat := (lanesOf m).headD 0

/-- A trap of lanes, with the address of the lowest-numbered one. -/
def laneTrap (cause : Nat) (m : Mask) (addr : Nat → VA) (info : Nat) : TrapInfo :=
  { cause := cause, mask := m, addr := addr (firstLane m), info := BitVec.ofNat 32 info }

/-- MISALIGNED, the causes of R90 and APERTURE_WRITE for an access of n bytes by the lanes of a mask (R394). -/
def State.accessCheck (s : State) (g : Group) (m : Mask) (addr : Nat → VA) (n : Nat) (write : Bool) : Option TrapInfo :=
  let mis := maskOf fun l => lane m l && (addr l).toNat % n != 0
  if mis ≠ 0 then some (laneTrap Cause.misaligned mis addr 0)
  else
    let scrb := s.scrbOf g
    let cause := fun l => (issueCheck s g scrb (addr l) n).getD 0
    let top := (lanesOf m).foldl (fun a l => max a (cause l)) 0
    if top ≠ 0 then
      let bad := maskOf fun l => lane m l && cause l == top
      some (laneTrap top bad addr (issueInfo top (addr (firstLane bad)) write))
    else
      let ap := maskOf fun l => lane m l && write && windowOf (addr l) == 11
      if ap ≠ 0 then some (laneTrap Cause.apertureWrite ap addr 0) else none

/-- What the channel finds for one address: its leaf, or a fault (R103, R104, R113). Scratch is not translated. -/
def State.channel (s : State) (c : Ctx) (priv write : Bool) (va : VA) : Except MFault DWord :=
  if isScratch va then .ok 0
  else
    match translate s c (if write then .write else .read) priv va with
    | .error f => .error f
    | .ok e =>
      if s.poisoned (lineLoc s c va e) then .error { cause := Cause.uncorrectable, why := 0, lvl := 0, fab := false }
      else .ok e

/-- The attributes of the copy that an access of a core hits, in its L1 or in the slice that serves it (R92). -/
def State.hitAttr (s : State) (core : Nat) (c : Ctx) (va : VA) (e : DWord) : Option PageAttr :=
  let t := tagFor c va
  match s.l1Find core t va with
  | some (_, x) => some x.attr
  | none => (s.l2At (l2Key (serveDie core va (leafAttr e)) t va)).map (fun x => x.attr)

/-- What the channel finds for a group's access: a hit is checked against the attributes copied with the line too (R92, R103). -/
def State.channelFor (s : State) (g : Group) (priv write : Bool) (va : VA) : Except MFault DWord :=
  match s.channel g.ctx priv write va with
  | .error f => .error f
  | .ok e =>
    if !isScratch va && (s.hitAttr g.coreId g.ctx va e).any (fun a => permBad a (if write then .write else .read) priv) then
      .error (protFault e 0 false)
    else .ok e

/-- The leaves of the lanes that the channel accepts, and the faults of the others. -/
def State.channels (s : State) (g : Group) (m : Mask) (addr : Nat → VA) (write : Bool) :
    List (Nat × DWord) × List (Nat × MFault) :=
  (lanesOf m).foldr (fun l (acc : List (Nat × DWord) × List (Nat × MFault)) =>
    match s.channelFor g g.privileged write (addr l) with
    | .ok e => ((l, e) :: acc.1, acc.2)
    | .error f => (acc.1, (l, f) :: acc.2)) ([], [])

/-- The lines of the lanes that the channel accepts meet the errors of ECC (R112, R113). -/
def State.meetLanes (s : State) (g : Group) (m : Mask) (addr : Nat → VA) (write : Bool) : State :=
  if s.mem.flaws.isEmpty then s
  else (lanesOf m).foldl (fun s l =>
    if isScratch (addr l) then s
    else
      match s.channelFor g g.privileged write (addr l) with
      | .ok e => s.meetLine g.coreId g.ctx (addr l) e
      | .error _ => s) s

/-- The lanes of a list. -/
def maskOfList {α : Type} (xs : List (Nat × α)) : Mask := xs.foldl (fun m e => m ||| ((1#96) <<< e.1)) 0

/-- The trap for the lanes that the channels refused: PROTECTION before TRANSLATION before UNCORRECTABLE; `tmask` holds
every lane that was not performed (R104, R250). Of lanes that fault differently `taddr` is that of the lowest of the whole mask, and
`why`, `lvl` and `fab` are those of the lowest lane with the reported cause (DESIGN CHOICE, log 19). -/
def channelTrap (bad : List (Nat × MFault)) (addr : Nat → VA) (write : Bool) : Option TrapInfo :=
  let has := fun c => bad.any (fun e => e.2.cause == c)
  if bad.isEmpty then none
  else
    let cause := if has Cause.apertureWrite then Cause.apertureWrite else if has Cause.protection then Cause.protection
      else if has Cause.translation then Cause.translation else Cause.uncorrectable
    let m := maskOfList bad
    let f := ((bad.find? (fun e => e.2.cause == cause)).map (fun e => e.2)).getD
      { cause := cause, why := 0, lvl := 0, fab := false }
    some (laneTrap cause m addr (f.info write))

/-- The channels keep the translations used. -/
def State.cacheLeaves (s : State) (c : Ctx) (xs : List (Nat × DWord)) (addr : Nat → VA) : State :=
  xs.foldl (fun s e => if isScratch (addr e.1) ∨ windowOf (addr e.1) = 10 then s else s.cacheLeaf c (addr e.1) e.2) s

/-! ### Watches (R162, R163) -/

/-- The entries of a group at its level. -/
def State.watches (s : State) (g : Group) : List Watch :=
  (s.core g.coreId).uwt.filter (fun w => w.gid == g.gid && w.level == g.lvl)

/-- A release-class operation while the group holds unfreed entries (R163). -/
def State.uncheckedTrap (s : State) (g : Group) (sel : PcSel) : Option TrapInfo :=
  let n := (s.watches g).length
  if n = 0 then none else some (g.trapWhole sel Cause.uncheckedWatch n)

/-- Free the entries of a group at its level. -/
def State.freeLevel (s : State) (g : Group) : State :=
  s.setCore g.coreId ((s.core g.coreId).freeWatches g.gid (some g.lvl))

/-! ### Registering an operation -/

/-- An operation as a word issues it. -/
def Env.newOp (e : Env) (g : Group) (kind : OpKind) (cls : CntClass) (order : Order) (lanes : Mask) : MemOp :=
  { id := 0, kind := kind, cls := cls, level := g.lvl, user := !g.privileged, sel := e.sel, pc := e.pc, word := e.word,
    lit := e.f.lit, order := order, miss := false, lanes := lanes, addrs := [], ptes := [], data := [], regs := [], dst := 0, ty := g.ty,
    ticket := false, done := false }

/-- Register an operation and post the event that performs it. -/
def State.issueOp (s : State) (gid : Nat) (g : Group) (o : MemOp) : State :=
  let s := s.setGroup gid (g.push o)
  match ({ o with id := g.nextOp } : MemOp).event gid with
  | some ev => s.post ev
  | none => s.settle gid (g.ops.length + 2)

/-- The vector registers of a run. -/
def vRegs (k n : Nat) : List RegRef := (List.range n).map (fun j => .v (k + j))

/-- The lanes of an operation with their addresses and leaves. -/
def laneMap (xs : List (Nat × DWord)) (addr : Nat → VA) : SMap Nat × SMap Nat :=
  (xs.map (fun e => (e.1, (addr e.1).toNat)), xs.map (fun e => (e.1, e.2.toNat)))

/-- The data of lanes, `n` words each. -/
def laneData (ls : List Nat) (n : Nat) (val : Nat → Nat → Word) : SMap Word :=
  ls.flatMap (fun l => (List.range n).map (fun k => (4 * l + k, val l k)))

/-- An access of a group finds its line neither in its L1 nor in the slice that serves it: an L2 miss (R209). -/
def State.missesL2 (s : State) (g : Group) (va : VA) (e : DWord) : Bool :=
  !isScratch va && (s.hitAttr g.coreId g.ctx va e).isNone

/-- A memory access of lanes: what it accesses, and how it counts. -/
structure AccessReq where
  kind  : OpKind
  cls   : CntClass
  order : Order
  /-- The lanes that run. -/
  lanes : Mask
  addr  : Nat → VA
  /-- The bytes that alignment and bounds hold to. -/
  size  : Nat
  write : Bool
  /-- Registers released by the reply. -/
  regs  : List RegRef
  dst   : Nat
  /-- Data sampled at issue: words per lane, and their values. -/
  words : Nat
  data  : Nat → Nat → Word
  /-- The mask that the faults of a scalar access report (R398). -/
  whole : Option Mask := none

/-- Issue an access that translates at issue: the test of R163, the checks of R394, the channels' faults; the lanes that
pass are registered, and a trap takes the others (R104, R394). `tag` is what the destination registers come to carry. -/
def issueAccess (e : Env) (g : Group) (s : State) (r : AccessReq) (tag : Group → Group) : Res :=
  let unchecked := if r.order.rel then s.uncheckedTrap g e.sel else none
  match unchecked with
  | some t => .trap t s
  | none =>
    if r.lanes = 0 then
      -- nothing is accessed and no counter rises; the kind still orders (R394)
      if r.order.rel && !g.undone.isEmpty then .wait s else .ok (s.setGroup e.gid (tag g))
    else if g.cntFull r.cls then .wait s
    else
      match s.accessCheck g r.lanes r.addr r.size r.write with
      | some t => .trap t s
      | none =>
        let s := s.meetLanes g r.lanes r.addr r.write
        let (good, bad) := s.channels g r.lanes r.addr r.write
        let s := s.cacheLeaves g.ctx good r.addr
        let m := maskOfList good
        let (addrs, ptes) := laneMap good r.addr
        let o := { e.newOp g r.kind r.cls r.order m with
          addrs := addrs
          ptes := ptes
          data := laneData (lanesOf m) r.words r.data
          miss := good.any (fun x => s.missesL2 g (r.addr x.1) x.2)
          regs := r.regs
          dst := r.dst
          whole := r.whole }
        let s := if m = 0 then s else s.issueOp e.gid (tag g) o
        match channelTrap bad r.addr r.write with
        | some t => .trap t s
        | none => .ok s

/-! ### Performing loads (R129, R148, R396, R399) -/

/-- Write a scalar register from a reply: banked registers of a lower level are written in their bank. -/
def Group.scalarReply (g : Group) (o : MemOp) (k : Nat) (w : Word) : Group :=
  let inBank := fun (h : CtlBank → CtlBank) =>
    if o.level = 0 then { g with bank0 := h g.bank0 } else { g with bank1 := h g.bank1 }
  let masked := fun (p : PcSlot) => { p with enable := setMaskWord p.enable (k - 28) w &&& p.owned }
  if k = 31 then g
  else if o.level ≥ g.lvl then g.sWrite o.sel k w
  else if k = 26 then inBank (fun b => { b with s26 := w })
  else if k = 27 then inBank (fun b => { b with s27 := w })
  else if 28 ≤ k then
    inBank (fun b => match o.sel with
      | .a => { b with slotA := masked b.slotA }
      | .b => { b with slotB := masked b.slotB })
  else { g with s := SMap.set 0 g.s k w }

/-- The 32-bit value of n loaded bytes, n at most 4 (R396). -/
def extendLoad (n : Nat) (signed : Bool) (x : Nat) : Word :=
  let v := x % 2 ^ (8 * n)
  if signed && decide (2 ^ (8 * n - 1) ≤ v) then BitVec.ofInt 32 ((v : Int) - (2 ^ (8 * n) : Nat)) else BitVec.ofNat 32 v

/-- Write what a load returned for a lane. -/
def Group.loadWrite (g : Group) (o : MemOp) (l x : Nat) : Group :=
  let words := fun (n : Nat) => (List.range n).foldl
    (fun (a : Group) k => a.vSet (o.dst + k) l (BitVec.ofNat 32 (x / 2 ^ (32 * k)))) g
  match o.kind with
  | .load n sg => if n ≤ 4 then g.vSet o.dst l (extendLoad n sg x) else words (n / 4)
  | .watchLoad n => words (n / 4)
  | .loadScalar n => (List.range (n / 4)).foldl
      (fun (a : Group) k => a.scalarReply o (o.dst + k) (BitVec.ofNat 32 (x / 2 ^ (32 * k)))) g
  | _ => g

/-- Bytes per lane of a load. -/
def OpKind.loadBytes : OpKind → Nat
  | .load n _ => n
  | .watchLoad n => n
  | .loadScalar n => n
  | _ => 0

/-- The read of a line that an owner has sent. -/
def State.hostAsked (s : State) (w : IhlOwner) (a : Nat) : Option IhlAccess :=
  s.host.inFlight.find? (fun r => !r.write && r.addr == a && r.owner == w)

/-- What the host has answered to a read of a line of window 9 by an operation. -/
def State.hostReply (s : State) (gid : Nat) (o : MemOp) (a : Nat) : Option (Line × Bool) :=
  (s.hostAsked (.op gid o.id) a).bind (fun r => r.reply)

/-- The answer to an owner has been used. -/
def State.forgetReply (s : State) (w : IhlOwner) (a : Nat) : State :=
  { s with host := { s.host with inFlight := s.host.inFlight.filter (fun r => r.write || r.addr != a || r.owner != w) } }

/-- The answer has been used. -/
def State.useReply (s : State) (gid : Nat) (o : MemOp) (a : Nat) : State := s.forgetReply (.op gid o.id) a

/-- A write of the device to a line of the host is not acknowledged. -/
def State.hostWriting (s : State) (line : Nat) : Bool := s.host.inFlight.any (fun r => r.write && r.addr / 128 * 128 == line)

/-- A read of a line of the host has not come back. -/
def State.hostReading (s : State) (line : Nat) : Bool :=
  s.host.inFlight.any (fun r => !r.write && r.addr == line && r.reply.isNone)

/-- Ask the host for a line of window 9, once per owner and line, and not while a write of the device to the line is unacknowledged,
which the answer must not undo (R32, R149). The model's host answers with its memory. -/
def State.askFor (s : State) (w : IhlOwner) (a : Nat) (rmw : Option Bool) : State :=
  if (s.hostAsked w a).isSome || s.hostWriting a then s
  else
    let r : IhlAccess := { addr := a, write := false, owner := w, data := [], reply := none, va := 0, leaf := 0, rmw := rmw }
    { s with host := { s.host with inFlight := s.host.inFlight ++ [r] } }.post (.ihlReadReply false (s.hostLine a))

/-- Ask the host for a line on behalf of an operation. -/
def State.askHost (s : State) (gid : Nat) (o : MemOp) (a : Nat) : State := s.askFor (.op gid o.id) a none

/-- A write of an owner at a host address waits for its acknowledgement. -/
def State.hasTold (s : State) (w : IhlOwner) (a : Nat) : Bool :=
  s.host.inFlight.any (fun r => r.write && r.addr == a && r.owner == w)

/-- A write of an operation at a host address waits for its acknowledgement. -/
def State.toldHost (s : State) (gid : Nat) (o : MemOp) (a : Nat) : Bool := s.hasTold (.op gid o.id) a

/-- Send a write of bytes to the host; its acknowledgement performs it (R32, R148). -/
def State.tellFor (s : State) (w : IhlOwner) (a : Nat) (bs : List (Nat × Byte)) (va : VA) (e : DWord) : State :=
  let r : IhlAccess := { addr := a, write := true, owner := w, data := bs, reply := none, va := va, leaf := e, rmw := none }
  { s with host := { s.host with inFlight := s.host.inFlight ++ [r] } }.post (.ihlWriteAck false)

/-- Send a write of an operation, by the address and leaf of its store. -/
def State.tellHost (s : State) (gid : Nat) (o : MemOp) (va : VA) (e : DWord) (bs : List (Nat × Byte)) : State :=
  s.tellFor (.op gid o.id) (hostAddr va e) bs va e

/-- Accesses of the device that write a line of the host wait: a read of it has not come back (R149), or an atomic of another owner
stands between its read and its write (R159). -/
def State.hostLocked (s : State) (w : IhlOwner) (line : Nat) : Bool :=
  s.hostReading line || s.host.inFlight.any (fun r => !r.write && r.addr == line && r.rmw.isSome && r.owner != w)

/-- An atomic of n bytes in window 9: IO0 reads the host's line, modifies it and writes it back, and the atomic is performed when
the host has acknowledged the write; the old value (R148, R159). -/
def State.hostRmw (s : State) (w : IhlOwner) (va : VA) (e : DWord) (n : Nat) (f : Nat → Nat) : Acc Nat :=
  let line := hostAddr (lineOf va) e
  let k := va.toNat % 128
  match s.hostAsked w line with
  | none => .blocked (if s.hostLocked w line then s else s.askFor w line (some false))
  | some r =>
    match r.reply with
    | none => .blocked s
    | some (l, _) =>
      let old := lineField l k n
      if r.rmw = some true then .done ((s.forgetReply w line).wakeAll.postOnce .eventWrite) old
      else if s.hasTold w (line + k) then .blocked s
      else .blocked (s.tellFor w (line + k) (storeBytes 0 n (f old)) va e)

/-- The core has a copy of the line that a load may use. -/
def State.l1Valid (s : State) (core : Nat) (c : Ctx) (va : VA) : Bool :=
  match s.l1Find core (tagFor c va) va with
  | some (_, x) => x.valid (s.core core).ct s.clk
  | none => false

/-- The leaf by which a lane that has waited is performed: the one that stands now, or where none permits the access any more, the
one of issue, by which the line leaves no copy (R94, R99, R139; DEDUCED, log 22). The leaf of a line of another device is that device's. -/
def State.leafNow (s : State) (g : Group) (o : MemOp) (write : Bool) (l : Nat) : DWord × Bool :=
  let va := o.addr l
  if (windowOf va = 10 && !s.ownFabric va) || isScratch va then (o.pte l, false)
  else
    match translate s g.ctx (if write then .write else .read) (!o.user) va with
    | .ok e => (e, false)
    | .error _ => (o.pte l, true)

/-- No copy of a line stays under its name where the access by a leaf that stands no more has left one. -/
def State.dropName (s : State) (core : Nat) (c : Ctx) (va : VA) (stale : Bool) : State :=
  if !stale then s
  else
    let t := tagFor c va
    let s := if windowOf va = 10 then s.evictSys (globalOf va) else s
    let s := (s.dropL2 (l2Key (core / 64) t va)).dropL2 (l2Key (homeDie va) t va)
    match s.l1Find core t va with
    | some (n, _) => s.setL1 core (l1Key va n) none
    | none => s

/-- The n bytes that a lane of a load reads, or what it waits for. -/
def State.loadLane (s : State) (gid : Nat) (g : Group) (o : MemOp) (l n : Nat) : Acc Nat :=
  let va := o.addr l
  let (e, stale) := s.leafNow g o false l
  if isScratch va then
    match s.team? g.teamId with
    | some t => .done s (s.scratch t (offsetOf va) n)
    | none => .done s 0
  else
    let host := hostAddr (lineOf va) e
    let read := fun (s : State) =>
      match s.loadLine g.coreId gid g.ctx va e o.order.acq (!lane o.deliver l) with
      | .done s line => Acc.done (s.dropName g.coreId g.ctx va stale) (lineField line (va.toNat % 128) n)
      | .blocked s => .blocked s
    if windowOf va = 9 && !s.l1Valid g.coreId g.ctx va then
      match s.hostReply gid o host with
      | none => .blocked (s.askHost gid o host)
      | some (line, true) => .done (s.useReply gid o host) (lineField line (va.toNat % 128) n)
      | some (_, false) => read (s.useReply gid o host)
    else read s

/-- One lane of a load: performed and taken off the operation, or still waiting. -/
def State.loadStep (gid : Nat) (n : Nat) (acc : State × MemOp) (l : Nat) : State × MemOp :=
  let (s, o) := acc
  match s.group? gid with
  | none => acc
  | some g =>
    match s.loadLane gid g o l n with
    | .blocked s => (s, o)
    | .done s x =>
      let x := s.forwarded g o (s.byteLoc g.ctx (o.addr l) (o.pte l)) n x
      match s.group? gid with
      | none => (s, o)
      | some g =>
        let g' := g.loadWrite o l x
        (s.setGroup gid (if g.changed g' then g'.restart o else g'), o.drop l)

/-- The copy of a line that a core holds, expired or not. -/
def State.l1Copy (s : State) (core : Nat) (c : Ctx) (va : VA) : Option L1Line :=
  (s.l1Find core (tagFor c va) va).map (fun x => x.2)

/-- A relaxed load may go on with expired copies (R133): every lane has a copy, some copy needs a renewal, and nothing but
stores of the group is in flight besides it (DESIGN CHOICE, log 25). -/
def State.maySpeculate (s : State) (gid : Nat) (g : Group) (o : MemOp) : Bool :=
  let ls := lanesOf o.lanes
  let copied := fun l => !isScratch (o.addr l) && (s.l1Copy g.coreId g.ctx (o.addr l)).isSome
  !o.order.acq && !s.speculates gid && !ls.isEmpty && ls.all copied &&
  ls.any (fun l => !s.l1Valid g.coreId g.ctx (o.addr l)) &&
  g.undone.all (fun x => x.id == o.id || (match x.kind with
    | .store _ => true
    | _ => false)) &&
  Config.usesExpired s.freeCtr

/-- A number as two words of a lane's data. -/
def wordPair (l n : Nat) : SMap Word := [(4 * l, BitVec.ofNat 32 n), (4 * l + 1, BitVec.ofNat 32 (n / 2 ^ 32))]

/-- Take the copies' data while the renewal is in flight. The load stays incomplete, with nothing more to write; the group as it was is
kept for a replay, its load with the versions of the copies (DESIGN CHOICE, log 25). -/
def State.speculate (s : State) (gid : Nat) (g : Group) (o : MemOp) : State :=
  let n := o.kind.loadBytes
  let copy := fun l => s.l1Copy g.coreId g.ctx (o.addr l)
  let versions := (lanesOf o.lanes).flatMap (fun l => wordPair l (((copy l).map (fun x => x.wts)).getD 0))
  let s := { s with
    specs := SMap.set none s.specs gid (some (g.setOp { o with data := versions }))
    freeCtr := s.freeCtr + 1 }
  let g' := (lanesOf o.lanes).foldl (fun (h : Group) l =>
    let line := ((copy l).map (fun x => x.data)).getD 0
    h.loadWrite o l (s.forwarded g o (s.byteLoc g.ctx (o.addr l) (o.pte l)) n (lineField line ((o.addr l).toNat % 128) n))) g
  ((s.setGroup gid ((if g.changed g' then g'.restart o else g').unstall s.clk)).postOnce (.renewalReply gid)).putOp gid { o with
    lanes := 0
    regs := []
    ticket := true }

/-- Perform what can be performed of a load. -/
def State.performLoadNow (s : State) (gid : Nat) (o : MemOp) : State :=
  let (s, o) := (lanesOf o.lanes).foldl (State.loadStep gid o.kind.loadBytes) (s, o)
  s.putOp gid { o with done := o.lanes == 0 }

/-- Perform a load: from its copies while their renewal is in flight, or for good; one that has gone by its copies waits for their
renewal (R148). -/
def State.performLoad (s : State) (gid : Nat) (o : MemOp) : State :=
  match s.group? gid with
  | none => s
  | some g =>
    if o.ticket then s
    else if s.maySpeculate gid g o then s.speculate gid g o
    else s.performLoadNow gid o

/-- Renew the copies that a speculation used: whether all have the version that was used; none where a renewal waits. -/
def State.renewCopies (s : State) (gid : Nat) (g : Group) (o : MemOp) : List Nat → Bool → State × Option Bool
  | [], same => (s, some same)
  | l :: ls, same =>
    let va := o.addr l
    let (e, stale) := s.leafNow g o false l
    match s.renew g.coreId gid g.ctx va e (!lane o.deliver l) with
    | .blocked s => (s, none)
    | .done s (_, wts) => (s.dropName g.coreId g.ctx va stale).renewCopies gid g o ls (same && wts == o.datum l)

/-- The group of a replay: as it was before the load, in the place that it has now, ready from now on (R133, R209). -/
def Group.replayed (g0 g : Group) (o : MemOp) (clk : Nat) : Group :=
  { g0.setOp { o with data := [] } with
    place := g.place
    activeAt := g.activeAt
    readyAt := clk
    token := g.token
    wants := g.wants
    victims := g.victims }

/-- Free the watch entries that loads of a group from a number on have taken (R162). -/
def State.freeSince (s : State) (g : Group) (gid op : Nat) : State :=
  let k := s.core g.coreId
  s.setCore g.coreId { k with uwt := k.uwt.filter (fun w => w.gid != gid || decide (w.op < op)) }

/-- The renewal of a speculation replies: the data stands and the load is performed, or the group is replayed from the load (R133)
(DESIGN CHOICE, log 25). -/
def State.resolveSpec (s : State) (gid : Nat) : State :=
  match SMap.get none s.specs gid, s.group? gid with
  | some g0, some g =>
    match g0.undone.find? (fun o => o.kind.isLoad) with
    | none => { s with specs := SMap.set none s.specs gid none }.wake gid
    | some o =>
      match s.renewCopies gid g0 o (lanesOf o.lanes) true with
      | (s, none) => s
      | (s, some same) =>
        let s := { s with specs := SMap.set none s.specs gid none }
        match s.group? gid with
        | none => s
        | some g1 =>
          if same then
            let s := s.setGroup gid { g1 with readyAt := s.clk }
            (match g.undone.find? (fun x => x.id == o.id) with
              | some x => (s.putOp gid { x with
                  ticket := false
                  done := true }).wake gid
              | none => s.wake gid)
          else
            let s := ({ s with cur := s.curWithout gid }.freeSince g gid g0.nextOp).setGroup gid (g0.replayed g1 o s.clk)
            (s.unstall (fun k _ => k == gid)).wake gid
  | _, _ => s.wake gid

/-- The local copy of a line that an understudy load may use: data and the version it has (R162). -/
def State.localCopy (s : State) (core : Nat) (c : Ctx) (va : VA) (e : DWord) : Option (Line × Nat) :=
  let w := windowOf va
  let t := tagFor c va
  if w = 9 ∨ w = 11 ∨ w = 14 then none
  else
    match s.l1Find core t va with
    | some (_, x) => some (x.data, x.wts)
    | none =>
      match s.l2At (l2Key (core / 64) t va) with
      | some x => if remoteAccess core va (leafAttr e) then none
          else some (lineData s c va e x, (s.slice (l2KeySlice (l2Key (core / 64) t va))).base + x.wts)
      | none => none

/-- The entries that an understudy load needs: one per distinct line with a local copy that the group does not watch at
its level yet. -/
def State.newWatches (s : State) (gid : Nat) (g : Group) (o : MemOp) : List Watch :=
  (lanesOf o.lanes).foldl (fun (ws : List Watch) l =>
    let va := o.addr l
    let t := tagFor g.ctx va
    match s.localCopy g.coreId g.ctx va (o.pte l) with
    | none => ws
    | some (_, wts) =>
      let same := fun (w : Watch) => w.gid == gid && w.level == o.level && w.ctx == t && w.line == lineNo va
      if ws.any same || (s.core g.coreId).uwt.any same then ws
      else ws ++ [{ gid := gid, op := o.id, level := o.level, ctx := t, line := lineNo va, wts := wts, state := .pending }]) []

/-- The operation that an understudy load has just registered takes its data (R162): from local copies at once, with entries where there
is room for all that it needs; the other lanes go on as an ordinary relaxed load. -/
def State.takeWatch (s : State) (gid id : Nat) : State :=
  match s.group? gid with
  | none => s
  | some g =>
    match g.undone.find? (fun o => o.id == id) with
    | none => s
    | some o =>
      let k := s.core g.coreId
      let ws := s.newWatches gid g o
      let mine := (k.uwt.filter (fun w => w.gid == gid)).length
      if decide (64 < k.uwt.length + ws.length) || decide (16 < mine + ws.length) then s
      else
        let step := fun (acc : State × MemOp) (l : Nat) =>
          match acc.1.group? gid, s.localCopy g.coreId g.ctx (o.addr l) (o.pte l) with
          | some g1, some (line, _) =>
            let n := o.kind.loadBytes
            let x := s.forwarded g o (s.byteLoc g.ctx (o.addr l) (o.pte l)) n (lineField line ((o.addr l).toNat % 128) n)
            let g' := g1.loadWrite o l x
            (acc.1.setGroup gid (if g1.changed g' then g'.restart o else g'), acc.2.drop l)
          | _, _ => acc
        let (s1, o1) := (lanesOf o.lanes).foldl step (s, o)
        let s2 := s1.setCore g.coreId { k with uwt := k.uwt ++ ws }
        let s3 := (List.range ws.length).foldl (fun s j => s.post (.uwtResolution g.coreId (k.uwt.length + j))) s2
        s3.putOp gid { o1 with done := o1.lanes == 0 }

/-- An understudy load waits at issue: an acquire before it is outstanding (R153), or a line that it would read from a local copy is held
by a sweep (R132, R139). -/
def State.watchHeld (s : State) (g : Group) (m : Mask) (addr : Nat → VA) : Bool :=
  g.undone.any (fun x => x.order.acq && (match x.kind with
    | .copy _ _ _ _ _ _ => false
    | _ => true)) ||
  (lanesOf m).any (fun l =>
    !isScratch (addr l) && (match leafOf s g.ctx (addr l) with
      | .error _ => false
      | .ok e =>
        let t := tagFor g.ctx (addr l)
        s.reconciling t (addr l) e (lineLoc s t (addr l) e) ||
        ((s.l1Find g.coreId t (addr l)).isNone && (s.slice (serveSlice g.coreId (addr l) (leafAttr e))).sweep)))

/-! ### Performing stores (R149, R150) -/

/-- One lane of a store: performed, refused at an engine-owned line, sent to the host, or still waiting. -/
def State.storeStep (gid : Nat) (n : Nat) (acc : State × MemOp × List Nat) (l : Nat) : State × MemOp × List Nat :=
  let (s, o, bad) := acc
  match s.group? gid with
  | none => (s, o.drop l, bad)
  | some g =>
    let va := o.addr l
    if isScratch va then
      match s.team? g.teamId with
      | some t => (s.setScratch t (offsetOf va) (storeBytes 0 n (o.datum l)), o.drop l, bad)
      | none => (s, o.drop l, bad)
    else
      let (e, stale) := s.leafNow g o true l
      if windowOf va = 9 && (s.toldHost gid o (hostAddr va e) || s.hostLocked (.op gid o.id) (hostAddr (lineOf va) e)) then acc
      else
        match s.storeLine g.coreId g.ctx va e (storeBytes (va.toNat % 128) n (o.datum l)) with
        | .blocked s => (s, o, bad)
        | .done s .performed => (s.dropName g.coreId g.ctx va stale, o.drop l, bad)
        | .done s .refused => (s, o.drop l, bad ++ [l])
        | .done s .sent => (s.tellHost gid o va e (storeBytes 0 n (o.datum l)), o, bad)

/-- The lanes of a list as a mask. -/
def maskOfLanes (ls : List Nat) : Mask := ls.foldl (fun m l => m ||| ((1#96) <<< l)) 0

/-- The late fault of lanes refused at an engine-owned line: ARENA of class 4 (R173), ASYNC_FAULT of class 2 for a reduction (R403). A
scalar store reports the whole mask (R398). -/
def State.lateOwned (s : State) (gid : Nat) (o : MemOp) (bad : List Nat) : State :=
  let m := if bad.isEmpty then 0 else o.whole.getD (maskOfLanes bad)
  let va := o.addr (bad.headD 0)
  match o.kind with
  | .reduce _ _ => s.lateFail gid o Cause.asyncFault Cause.arena 2 m va
  | _ => s.lateFail gid o Cause.arena 0 4 m va

/-- Perform what can be performed of a store, in ascending lane order, so that the highest lane's bytes stand (R149). -/
def State.performStore (s : State) (gid : Nat) (o : MemOp) (n : Nat) : State :=
  let (s, o', bad) := (lanesOf o.lanes).foldl (State.storeStep gid n) (s, o, [])
  (s.lateOwned gid o bad).putOp gid { o' with done := o'.lanes == 0 }

/-! ### Atomics and reductions (R157, R159, R402 to R405) -/

/-- AFADD on the elements of a word: RNE, subnormals kept (R405). -/
def atomicFadd (ty old v : Nat) : Nat :=
  let fm := (fmtOf ty).getD .f32
  packElems ty ((List.range (elems ty)).map (fun k =>
    (fm.fadd .rne false (fm.decode (elem ty old k)) (fm.decode (elem ty v k))).bits))

/-- The new value at the address (R402, R404); `c` is what ACAS compares with. -/
def AtomicFn.apply (fn : AtomicFn) (ty bits old v c : Nat) : Nat :=
  let pick := fun (isMax : Bool) =>
    match fmtOf ty with
    | some fm => fm.fminmax isMax (fm.decode old) (fm.decode v)
    | none => if (intOf ty v < intOf ty old) == isMax then old else v
  match fn with
  | .add => (old + v) % 2 ^ bits
  | .min => pick false
  | .max => pick true
  | .and => old &&& v
  | .or => old ||| v
  | .xor => old ^^^ v
  | .xch => v
  | .cas => if old = c then v else old
  | .fadd => atomicFadd ty old v

/-- The sequencer of a lane of a seq-cst access (R157). -/
def scopeOf (g : Group) (va : VA) (e : DWord) : TicketScope :=
  let w := windowOf va
  if w = 14 then .pair g.pairId
  else if w = 10 then .sys
  else if w = 9 ∨ (leafAttr e).sh = 1 then .pkg
  else if h : homeDie va < 8 then .die ⟨homeDie va, h⟩ else .pkg

/-- The sequencers that an operation takes its ticket from (DESIGN CHOICE, log 24). -/
def scopesOf (g : Group) (o : MemOp) : List TicketScope :=
  (o.ptes.map (fun (e : Nat × Nat) => scopeOf g (o.addr e.1) (o.pte e.1))).eraseDups

/-- The value and the comparand of a lane of an atomic: ACAS holds the comparand first (R403, R404). -/
def MemOp.operands (o : MemOp) (fn : AtomicFn) (wide : Bool) (l : Nat) : Nat × Nat :=
  let w := fun k => (o.word' l k).toNat
  if wide then (if fn = .cas then (w 2 + 2 ^ 32 * w 3, w 0 + 2 ^ 32 * w 1) else (w 0 + 2 ^ 32 * w 1, 0))
  else if fn = .cas then (w 1, w 0) else (w 0, 0)

/-- Write the old value of a lane into its destination. -/
def Group.atomicWrite (g : Group) (o : MemOp) (wide : Bool) (l x : Nat) : Group :=
  let g := g.vSet o.dst l (BitVec.ofNat 32 x)
  if wide then g.vSet (o.dst + 1) l (BitVec.ofNat 32 (x / 2 ^ 32)) else g

/-- One lane of an atomic or reduction, at the place that R159 gives. -/
def State.atomicStep (gid : Nat) (fn : AtomicFn) (wide ret : Bool) (acc : State × MemOp × List Nat) (l : Nat) :
    State × MemOp × List Nat :=
  let (s, o, bad) := acc
  match s.group? gid with
  | none => (s, o.drop l, bad)
  | some g =>
    let n := if wide then 8 else 4
    let va := o.addr l
    let (v, c) := o.operands fn wide l
    let f := fun old => fn.apply o.ty (8 * n) old v c
    let reply := fun (s : State) (x : Nat) =>
      if ret then
        match s.group? gid with
        | some g =>
          let g' := g.atomicWrite o wide l x
          s.setGroup gid (if g.changed g' then g'.restart o else g')
        | none => s
      else s
    if isScratch va then
      match s.team? g.teamId with
      | some t =>
        let old := s.scratch t (offsetOf va) n
        (reply (s.setScratch t (offsetOf va) (storeBytes 0 n (f old))) old, o.drop l, bad)
      | none => (s, o.drop l, bad)
    else
      let (e, stale) := s.leafNow g o true l
      let after := fun (s : State) =>
        let s := s.dropName g.coreId g.ctx va stale
        if o.order.acq && timeless g.coreId va (leafAttr e) then s.expireAll g.coreId else s
      if windowOf va = 9 then
        match s.hostRmw (.op gid o.id) va e n f with
        | .blocked s => (s, o, bad)
        | .done s old => (reply (after s) old, o.drop l, bad)
      else
        match s.atomicLine g.coreId g.ctx va e n f with
        | .blocked s => (s, o, bad)
        | .done s (_, .refused) => (reply s (2 ^ (8 * n) - 1), o.drop l, bad ++ [l])
        | .done s (old, _) => (reply (after s) old, o.drop l, bad)

/-- Perform what can be performed of an atomic or reduction, in ascending lane order; a seq-cst one takes its ticket
first. -/
def State.performAtomic (s : State) (gid : Nat) (g : Group) (o : MemOp) (fn : AtomicFn) (wide ret : Bool) : State :=
  if o.order.sc && !o.ticket then
    match scopesOf g o with
    | sc :: _ => s.postOnce (.ticketGrant sc)
    | [] => s.putOp gid { o with done := true }
  else
    -- lanes stay in order: a lane that waits holds back those after it
    let step := fun (acc : (State × MemOp × List Nat) × Bool) (l : Nat) =>
      if acc.2 then acc
      else
        let r := State.atomicStep gid fn wide ret acc.1 l
        (r, lane r.2.1.lanes l)
    let ((s, o', bad), _) := (lanesOf o.lanes).foldl step ((s, o, []), false)
    let s := if o.ticket && o'.lanes == 0 then (scopesOf g o).foldl (fun s sc => s.postOnce (.ticketGrant sc)) s else s
    (s.lateOwned gid o bad).putOp gid { o' with done := o'.lanes == 0 }

/-- A late access of one lane translates when it is performed: the causes of R90, then the channel's. -/
def State.lateChannel (s : State) (g : Group) (o : MemOp) (write : Bool) (va : VA) (n : Nat) : Except Nat DWord :=
  match issueCheck s g (s.scrbOf g) va n with
  | some c => .error c
  | none =>
    if write && windowOf va == 11 then .error Cause.apertureWrite
    else
      match s.channelFor g (!o.user) write va with
      | .ok e => .ok e
      | .error f => .error f.cause

/-- A reduction translates its lanes at its first performance; the lanes that fault are taken late (R252, R403). -/
def State.performReduce (s : State) (gid : Nat) (g : Group) (o : MemOp) (fn : AtomicFn) (wide : Bool) : State :=
  let n := if wide then 8 else 4
  let s := s.meetLanes g o.lanes o.addr true
  let rs := (lanesOf o.lanes).map (fun l => (l, s.lateChannel g o true (o.addr l) n))
  let bad := rs.filterMap (fun e => match e.2 with
    | .error c => some (e.1, c)
    | .ok _ => none)
  let good := rs.filterMap (fun e => match e.2 with
    | .ok x => some (e.1, x)
    | .error _ => none)
  let s := match bad with
    | (l, c) :: _ => s.lateFail gid o Cause.asyncFault c 2 (maskOfList bad) (o.addr l)
    | [] => s
  let o := { o with
    lanes := maskOfList good
    ptes := good.map (fun e => (e.1, e.2.toNat)) }
  if good.isEmpty then s.putOp gid { o with done := true }
  else (s.putOp gid o).performAtomic gid g o fn wide false

end Sys2Proof.Machine
end

