-- ==== Sys2Proof/Machine/Atomics.lean ====
section
/-! DEFINITION. Atomics and reductions, 0xC8 to 0xD4 (R402 to R405). -/

namespace Sys2Proof.Machine

open Sys2Proof

/-- Registers of a value of the type in force: one, or a pair. -/
def Group.valueRegs (g : Group) : Nat := if wide g.ty then 2 else 1

/-- An atomic with return (R403). -/
def atomic (fn : AtomicFn) (e : Env) (g : Group) (s : State) : Res :=
  let d := e.f.d.toNat
  let n := g.valueRegs
  issueAccess e g s
    { kind := .atomic fn (wide g.ty), cls := .ld, order := g.atomicOrder, lanes := g.exec e.sel,
      addr := g.ea e.sel e.f, size := 4 * n, write := true, regs := vRegs d n, dst := d,
      words := if fn = .cas then 2 * n else n, data := fun l k => g.vRead (d + k) l }
    (fun g => g.setTags d g.ty n)

/-- A reduction: its checks at issue are R394's; it translates when it is performed (R252, R403). -/
def reduction (fn : AtomicFn) (e : Env) (g : Group) (s : State) : Res :=
  let d := e.f.d.toNat
  let n := g.valueRegs
  let order := g.reduceOrder
  let m := g.exec e.sel
  match if order.rel then s.uncheckedTrap g e.sel else none with
  | some t => .trap t s
  | none =>
    if m = 0 then (if order.rel && !g.undone.isEmpty then .wait s else .ok s)
    else if g.cntFull .st then .wait s
    else
      match s.accessCheck g m (g.ea e.sel e.f) (4 * n) true with
      | some t => .trap t s
      | none =>
        .ok (s.issueOp e.gid g { e.newOp g (.reduce fn (wide g.ty)) .st order m with
          addrs := (lanesOf m).map (fun l => (l, (g.ea e.sel e.f l).toNat))
          data := laneData (lanesOf m) n (fun l k => g.vRead (d + k) l) })

/-- R402: old + v, wrapping. -/
def execAadd (f : Fields) (s : State) : Host.Outcome State Fault Refusal :=
  issue Op.aadd f (atomic .add) s

/-- R402: the smaller of old and v. -/
def execAmin (f : Fields) (s : State) : Host.Outcome State Fault Refusal :=
  issue Op.amin f (atomic .min) s

/-- R402: the larger of old and v. -/
def execAmax (f : Fields) (s : State) : Host.Outcome State Fault Refusal :=
  issue Op.amax f (atomic .max) s

/-- R402: old and v. -/
def execAand (f : Fields) (s : State) : Host.Outcome State Fault Refusal :=
  issue Op.aand f (atomic .and) s

/-- R402: old or v. -/
def execAor (f : Fields) (s : State) : Host.Outcome State Fault Refusal :=
  issue Op.aor f (atomic .or) s

/-- R402: old xor v. -/
def execAxor (f : Fields) (s : State) : Host.Outcome State Fault Refusal :=
  issue Op.axor f (atomic .xor) s

/-- R402: v. -/
def execAxch (f : Fields) (s : State) : Host.Outcome State Fault Refusal :=
  issue Op.axch f (atomic .xch) s

/-- R404: n when old equals c bit for bit. -/
def execAcas (f : Fields) (s : State) : Host.Outcome State Fault Refusal :=
  issue Op.acas f (atomic .cas) s

/-- R405: the rounded sums of the elements. -/
def execAfadd (f : Fields) (s : State) : Host.Outcome State Fault Refusal :=
  issue Op.afadd f (atomic .fadd) s

/-- R402: old + v, wrapping. -/
def execRadd (f : Fields) (s : State) : Host.Outcome State Fault Refusal :=
  issue Op.radd f (reduction .add) s

/-- R405: the rounded sums of the elements. -/
def execRfadd (f : Fields) (s : State) : Host.Outcome State Fault Refusal :=
  issue Op.rfadd f (reduction .fadd) s

/-- R402: the smaller of old and v. -/
def execRmin (f : Fields) (s : State) : Host.Outcome State Fault Refusal :=
  issue Op.rmin f (reduction .min) s

/-- R402: the larger of old and v. -/
def execRmax (f : Fields) (s : State) : Host.Outcome State Fault Refusal :=
  issue Op.rmax f (reduction .max) s

end Sys2Proof.Machine
end

