-- ==== Sys2Proof/Machine/Vector.lean ====
section
/-! DEFINITION. Vector instructions, 0x50 to 0x7E but the special functions (R348 to R358). -/

namespace Sys2Proof.Machine

open Sys2Proof

/-! ### Shared shapes -/

/-- The executing lanes, in ascending order. -/
def Group.execLanes (g : Group) (sel : PcSel) : List Nat := lanesOf (g.exec sel)

/-- Write one value per executing lane to D and its tag. -/
def Group.putV (g : Group) (sel : PcSel) (f : Fields) (tag : Nat) (h : Nat → Word) : Group :=
  (g.vWrite f.d.toNat (g.execLanes sel) h).setTag f.d.toNat tag

/-- Typed arithmetic: every element of every executing lane (R349). -/
def Group.typedOp (g : Group) (sel : PcSel) (f : Fields) (o : AOp) : List (Nat × FRes) :=
  let ty := g.ty
  laneResults (g.execLanes sel) fun l =>
    let x := g.typed sel ty f.a l
    let y := g.typedB sel ty f l
    let d := g.typed sel ty f.d l
    mapElems ty (fun k => o.elem ty g.rm g.ftz g.sati (elem ty x k) (elem ty y k) (elem ty d k))

/-- Write the results of typed arithmetic, raise its flags, take its trap (R347, R349). -/
def Group.typedArith (g : Group) (sel : PcSel) (f : Fields) (o : AOp) : GRes :=
  let rs := g.typedOp sel f o
  (g.putTyped g.ty f.d.toNat (g.execLanes sel) (valueAt rs)).finish (flagsAt rs)

/-- The executing lanes whose divisor is an integer zero (R290, R350). -/
def Group.zeroDivisors (g : Group) (sel : PcSel) (f : Fields) : Mask :=
  if (fmtOf g.ty).isSome then 0
  else maskOf fun l => lane (g.exec sel) l && g.typedB sel g.ty f l == 0

/-- Typed division: INT_DIV0 for the lanes that divide an integer by zero (R350). -/
def Group.typedDiv (g : Group) (sel : PcSel) (f : Fields) (o : AOp) : GRes :=
  if g.zeroDivisors sel f = 0 then g.typedArith sel f o
  else
    let rs := g.typedOp sel f o
    (g.putTyped g.ty f.d.toNat (g.execLanes sel) (valueAt rs)).finishDiv (g.zeroDivisors sel f)

/-- The compares of R352. -/
inductive Cmp where
  | eq | ne | lt | le | un
  deriving DecidableEq, Repr

/-- A compare of floating-point values, and whether it raises IV. -/
def Cmp.float (c : Cmp) (x y : FVal) : Bool × Bool :=
  let un := x.isNaN || y.isNaN
  match c with
  | .eq => (x.eqv y, false)
  | .ne => (!x.eqv y, false)
  | .lt => (x.lt y, un)
  | .le => (x.lt y || x.eqv y, un)
  | .un => (un, false)

/-- A compare of integers. -/
def Cmp.int (c : Cmp) (x y : Int) : Bool :=
  match c with
  | .eq => x == y
  | .ne => x != y
  | .lt => decide (x < y)
  | .le => decide (x ≤ y)
  | .un => false

/-- A compare under the type in force: the result, and whether it raises IV. -/
def Cmp.typed (c : Cmp) (ty : Nat) (ftz : Bool) (x y : Nat) : Bool × Bool :=
  match fmtOf ty with
  | some fm => c.float (fm.read ftz x) (fm.read ftz y)
  | none => (c.int (intOf ty x) (intOf ty y), false)

/-- A compare in every executing lane (R352). -/
def Group.compare (g : Group) (sel : PcSel) (f : Fields) (c : Cmp) : GRes :=
  let rs := (g.execLanes sel).map fun l =>
    (l, c.typed g.ty g.ftz (g.typed sel g.ty f.a l) (g.typedB sel g.ty f l))
  let m := maskOf fun l => rs.any (fun e => e.1 == l && e.2.1)
  (g.pWrite f.d.toNat (g.exec sel) m).finish
    (rs.map (fun e => (e.1, if e.2.2 then Flags.onlyIv else Flags.none)))

/-! ### Moves (R348) -/

/-- R348: D := B, bits and tag. -/
def execVmov (f : Fields) (s : State) : Host.Outcome State Fault Refusal :=
  issueSimple Op.vmov f (fun sel g =>
    g.putV sel f (if f.l || isS f.b then 15 else g.tagOf f.b.toNat) (g.opB sel f)) s

/-- R348: D := lane B mod lanes of A. -/
def execVbcast (f : Fields) (s : State) : Host.Outcome State Fault Refusal :=
  issueSimple Op.vbcast f (fun sel g =>
    let k := (g.sB sel f).toNat % g.lanes
    g.putV sel f (g.tagOf f.a.toNat) (fun _ => g.vRead f.a.toNat k)) s

/-- R348: D := the lane number. -/
def execVlane (f : Fields) (s : State) : Host.Outcome State Fault Refusal :=
  issueSimple Op.vlane f (fun sel g => g.putV sel f 1 (fun l => BitVec.ofNat 32 l)) s

/-! ### Typed arithmetic (R349 to R351) -/

/-- R350: the add row. -/
def execVadd (f : Fields) (s : State) : Host.Outcome State Fault Refusal :=
  issueReg Op.vadd f (fun sel g => g.typedArith sel f .add) s

/-- R350: the sub row. -/
def execVsub (f : Fields) (s : State) : Host.Outcome State Fault Refusal :=
  issueReg Op.vsub f (fun sel g => g.typedArith sel f .sub) s

/-- R350: the mul row. -/
def execVmul (f : Fields) (s : State) : Host.Outcome State Fault Refusal :=
  issueReg Op.vmul f (fun sel g => g.typedArith sel f .mul) s

/-- R350: the fma row. -/
def execVfma (f : Fields) (s : State) : Host.Outcome State Fault Refusal :=
  issueReg Op.vfma f (fun sel g => g.typedArith sel f .fma) s

/-- R350: the min row. -/
def execVmin (f : Fields) (s : State) : Host.Outcome State Fault Refusal :=
  issueReg Op.vmin f (fun sel g => g.typedArith sel f .min) s

/-- R350: the max row. -/
def execVmax (f : Fields) (s : State) : Host.Outcome State Fault Refusal :=
  issueReg Op.vmax f (fun sel g => g.typedArith sel f .max) s

/-- R350: the abs row. -/
def execVabs (f : Fields) (s : State) : Host.Outcome State Fault Refusal :=
  issueReg Op.vabs f (fun sel g => g.typedArith sel f .abs) s

/-- R350: the neg row. -/
def execVneg (f : Fields) (s : State) : Host.Outcome State Fault Refusal :=
  issueReg Op.vneg f (fun sel g => g.typedArith sel f .neg) s

/-- R350: the mulh row. -/
def execVmulh (f : Fields) (s : State) : Host.Outcome State Fault Refusal :=
  issueReg Op.vmulh f (fun sel g => g.typedArith sel f .mulh) s

/-- R350: the div row. -/
def execVdiv (f : Fields) (s : State) : Host.Outcome State Fault Refusal :=
  issueReg Op.vdiv f (fun sel g => g.typedDiv sel f .div) s

/-- R350: the rem row. -/
def execVrem (f : Fields) (s : State) : Host.Outcome State Fault Refusal :=
  issueReg Op.vrem f (fun sel g => g.typedDiv sel f .rem) s

/-! ### Compares and select (R352, R353) -/

/-- R352: x = y. -/
def execVceq (f : Fields) (s : State) : Host.Outcome State Fault Refusal :=
  issueReg Op.vceq f (fun sel g => g.compare sel f .eq) s

/-- R352: not x = y. -/
def execVcne (f : Fields) (s : State) : Host.Outcome State Fault Refusal :=
  issueReg Op.vcne f (fun sel g => g.compare sel f .ne) s

/-- R352: x < y. -/
def execVclt (f : Fields) (s : State) : Host.Outcome State Fault Refusal :=
  issueReg Op.vclt f (fun sel g => g.compare sel f .lt) s

/-- R352: x ≤ y. -/
def execVcle (f : Fields) (s : State) : Host.Outcome State Fault Refusal :=
  issueReg Op.vcle f (fun sel g => g.compare sel f .le) s

/-- R352: x or y is a NaN. -/
def execVcun (f : Fields) (s : State) : Host.Outcome State Fault Refusal :=
  issueReg Op.vcun f (fun sel g => g.compare sel f .un) s

/-- R353: the guard selects A or B in every enabled, unheld lane. -/
def execVsel (f : Fields) (s : State) : Host.Outcome State Fault Refusal :=
  issueSimple Op.vsel f (fun sel g =>
    let ta := g.tagOf f.a.toNat
    let tb := if f.l || isS f.b then 15 else g.tagOf f.b.toNat
    (g.vWrite f.d.toNat (lanesOf (g.en0 sel))
      (fun l => if lane g.guard l then g.vRead f.a.toNat l else g.opB sel f l)).setTag f.d.toNat
      (if tb = ta ∨ tb = 15 then ta else 15)) s

/-! ### Bit operations (R354) -/

/-- R354: A and B. -/
def execVand (f : Fields) (s : State) : Host.Outcome State Fault Refusal :=
  issueSimple Op.vand f (fun sel g => g.putV sel f 15 (fun l => g.vRead f.a.toNat l &&& g.opB sel f l)) s

/-- R354: A or B. -/
def execVor (f : Fields) (s : State) : Host.Outcome State Fault Refusal :=
  issueSimple Op.vor f (fun sel g => g.putV sel f 15 (fun l => g.vRead f.a.toNat l ||| g.opB sel f l)) s

/-- R354: A xor B. -/
def execVxor (f : Fields) (s : State) : Host.Outcome State Fault Refusal :=
  issueSimple Op.vxor f (fun sel g => g.putV sel f 15 (fun l => g.vRead f.a.toNat l ^^^ g.opB sel f l)) s

/-- R354: not B. -/
def execVnot (f : Fields) (s : State) : Host.Outcome State Fault Refusal :=
  issueSimple Op.vnot f (fun sel g => g.putV sel f 15 (fun l => ~~~(g.opB sel f l))) s

/-- R354: A shifted left by B[5:0]. -/
def execVshl (f : Fields) (s : State) : Host.Outcome State Fault Refusal :=
  issueSimple Op.vshl f (fun sel g => g.putV sel f 15 (fun l => shiftLeft (g.vRead f.a.toNat l) (g.opB sel f l))) s

/-- R354: A shifted right with zeros. -/
def execVshr (f : Fields) (s : State) : Host.Outcome State Fault Refusal :=
  issueSimple Op.vshr f (fun sel g => g.putV sel f 15 (fun l => shiftRight (g.vRead f.a.toNat l) (g.opB sel f l))) s

/-- R354: A shifted right with sign copies. -/
def execVsra (f : Fields) (s : State) : Host.Outcome State Fault Refusal :=
  issueSimple Op.vsra f (fun sel g => g.putV sel f 15 (fun l => shiftArith (g.vRead f.a.toNat l) (g.opB sel f l))) s

/-- R354: the number of set bits of B. -/
def execVpopc (f : Fields) (s : State) : Host.Outcome State Fault Refusal :=
  issueSimple Op.vpopc f (fun sel g => g.putV sel f 1 (fun l => popcount (g.opB sel f l))) s

/-- R354: the leading zero bits of B. -/
def execVclz (f : Fields) (s : State) : Host.Outcome State Fault Refusal :=
  issueSimple Op.vclz f (fun sel g => g.putV sel f 1 (fun l => leadingZeros (g.opB sel f l))) s

/-- R354: the field of A that B describes. -/
def execVbfe (f : Fields) (s : State) : Host.Outcome State Fault Refusal :=
  issueSimple Op.vbfe f (fun sel g => g.putV sel f 15 (fun l => bitField (g.vRead f.a.toNat l) (g.opB sel f l))) s

/-- R354: D with the field that B describes replaced by the low bits of A. -/
def execVbfi (f : Fields) (s : State) : Host.Outcome State Fault Refusal :=
  issueSimple Op.vbfi f (fun sel g => g.putV sel f 15 (fun l => insertField (g.vRead f.d.toNat l) (g.vRead f.a.toNat l) (g.opB sel f l))) s

/-! ### Predicate logic (R355) -/

/-- R355: p[A] and p[B]. -/
def execVpand (f : Fields) (s : State) : Host.Outcome State Fault Refusal :=
  issueSimple Op.vpand f (fun sel g => g.pWrite f.d.toNat (g.exec sel) (g.pRead f.a.toNat &&& g.pRead f.b.toNat)) s

/-- R355: p[A] or p[B]. -/
def execVpor (f : Fields) (s : State) : Host.Outcome State Fault Refusal :=
  issueSimple Op.vpor f (fun sel g => g.pWrite f.d.toNat (g.exec sel) (g.pRead f.a.toNat ||| g.pRead f.b.toNat)) s

/-- R355: not p[B]. -/
def execVpnot (f : Fields) (s : State) : Host.Outcome State Fault Refusal :=
  issueSimple Op.vpnot f (fun sel g => g.pWrite f.d.toNat (g.exec sel) (~~~(g.pRead f.b.toNat))) s

/-! ### Handlers (R357, R358) -/

/-- R357: write B to the vector register that scalar D numbers, in the executing lanes; its tag stays. -/
def execVmovi (f : Fields) (s : State) : Host.Outcome State Fault Refusal :=
  issueReg Op.vmovi f (fun sel g =>
    let n := (g.sField sel f.d).toNat
    if g.nvr ≤ n then
      .trap { cause := Cause.regRange, mask := g.exec sel, info := BitVec.ofNat 32 (min n 127) } g
    else .done (g.vWrite n (g.execLanes sel) (g.opB sel f))) s

/-- The mask that the scalars from field x on hold, one word per beat (R358). -/
def Group.maskTriple (g : Group) (sel : PcSel) (x : Nat) : Mask :=
  maskOf fun l => decide (l < g.lanes) && (g.sRead sel (x - 96 + l / 32)).getLsbD (l % 32)

/-- R358: p[D] := the mask triple at A, in the executing lanes. -/
def execVpset (f : Fields) (s : State) : Host.Outcome State Fault Refusal :=
  issueSimple Op.vpset f (fun sel g => g.pWrite f.d.toNat (g.exec sel) (g.maskTriple sel f.a.toNat)) s

end Sys2Proof.Machine
end

