-- ==== Sys2Proof/Machine/Convert.lean ====
section
/-! DEFINITION. Conversion, packing, dot products and block scaling, 0x80 to 0x8A (R295 to R298, R359 to R365). -/

namespace Sys2Proof.Machine

open Sys2Proof

/-- A converted element, its flags, and whether it overflowed. -/
structure CRes where
  bits  : Nat
  flags : Flags
  beyond : Bool
  deriving DecidableEq, Repr

/-- The value of an element of any type. -/
def valueOf (ty : Nat) (ftz : Bool) (x : Nat) : FVal :=
  match fmtOf ty with
  | some fm => fm.read ftz x
  | none => let i := intOf ty x; .fin (decide (i < 0)) (Dy.ofInt i.natAbs)

/-- OF and IX. -/
def Flags.overflow : Flags := { Flags.none with of := true, ix := true }

/-- What an overflowing value of a sign becomes in a floating-point target (R295). -/
def policyFloat (fm : Fmt) (pol : Nat) (neg : Bool) : Nat :=
  if !fm.nan || pol = 0 then fm.signed neg fm.maxBits
  else if !fm.inf || pol = 2 then fm.nanBits
  else fm.signed neg fm.infBits

/-- Round a value once into a floating-point format, with overflow by policy (R295). -/
def toFloat (fm : Fmt) (pol : Nat) (rm : Rm) (ftz : Bool) (v : FVal) : CRes :=
  let beyond := fun n => ({ bits := policyFloat fm pol n, flags := .overflow, beyond := true } : CRes)
  match v with
  | .nan => { bits := fm.nanBits, flags := if fm.nan then .none else .onlyIv, beyond := false }
  | .inf n => beyond n
  | .fin n m =>
    if m.isZero then { bits := fm.signed n 0, flags := .none, beyond := false }
    else
      match fm.roundRaw rm n m with
      | .beyond => beyond n
      | .val _ _ _ =>
        let r := fm.round rm ftz n (FVal.signed v)
        { bits := r.bits, flags := r.flags, beyond := false }

/-- Round a value once to an integer type; an overflow gives the limit of its sign (R295, R359). -/
def toInteger (ty : Nat) (rm : Rm) (v : FVal) : CRes :=
  let w := elemBits ty
  let limit := fun (n : Bool) =>
    ({ bits := wrapTo w (clampTy ty (if n then -(2 ^ 70 : Nat) else (2 ^ 70 : Nat))), flags := .overflow, beyond := true } : CRes)
  match v with
  | .nan => { bits := 0, flags := .onlyIv, beyond := false }
  | .inf n => limit n
  | .fin n m =>
    let k : Int := if n then -(roundMag rm n m 0 : Nat) else (roundMag rm n m 0 : Nat)
    if clampTy ty k ≠ k then limit n
    else { bits := wrapTo w k, flags := { Flags.none with ix := !(Dy.ofInt k.natAbs).eq m }, beyond := false }

/-- The conversions that R295 calls exact, source to target. -/
def exactCvt (src dst : Nat) : Bool :=
  src == dst || ([3, 4].contains src && [2, 12].contains dst) || (src == 2 && dst == 12) ||
  ([8, 9, 10, 14].contains src && [2, 3, 4, 12].contains dst)

/-- An exact conversion: NaNs become canonical, `m.ftz` applies, no flag (R295, R359). -/
def convertExact (src dst : Nat) (ftz : Bool) (x : Nat) : Nat :=
  match fmtOf dst with
  | none => x
  | some fm =>
    match valueOf src ftz x with
    | .nan => fm.nanBits
    | .inf n => fm.signed n fm.infBits
    | .fin n m => (fm.round .rne ftz n (FVal.signed (.fin n m))).bits

/-- convert(x, T, policy, rm) of R359. -/
def convert (src dst pol : Nat) (rm : Rm) (ftz : Bool) (x : Nat) : CRes :=
  if exactCvt src dst then { bits := convertExact src dst ftz x, flags := .none, beyond := false }
  else
    match fmtOf dst with
    | some fm => toFloat fm pol rm ftz (valueOf src ftz x)
    | none => toInteger dst rm (valueOf src ftz x)

/-- Converted elements packed into a register value of the target type. -/
def packCvt (dst : Nat) (rs : List CRes) : CRes :=
  { bits := packElems dst (rs.map (fun r => r.bits)), flags := rs.foldl (fun a r => a.or r.flags) .none,
    beyond := rs.any (fun r => r.beyond) }

/-- Write converted registers, raise flags, and take the traps; `trap` is policy 3. -/
def Group.putCvt (g : Group) (sel : PcSel) (f : Fields) (trap : Bool) (h : Nat → CRes) : GRes :=
  let rs := (g.execLanes sel).map (fun l => (l, h l))
  let res := rs.map (fun e => (e.1, ({ bits := e.2.bits, flags := e.2.flags } : FRes)))
  let beyond := maskOf fun l => trap && rs.any (fun e => e.1 == l && e.2.beyond)
  (g.putTyped g.ty f.d.toNat (g.execLanes sel) (valueAt res)).finishCvt (flagsAt res) beyond

/-- R359: convert the elements of A, of the type in B, into `m.t`. -/
def execCvt (f : Fields) (s : State) : Host.Outcome State Fault Refusal :=
  issueReg Op.cvt f (fun sel g =>
    let src := f.cvtSource
    let dst := g.ty
    let pol := f.b.toNat % 4
    g.putCvt sel f (pol == 3) (fun l =>
      let x := g.typed sel src f.a l
      packCvt dst ((List.range (min (elems src) (elems dst))).map
        (fun k => convert src dst pol g.rm g.ftz (elem src x k))))) s

/-- VPK of n registers (R360). -/
def Group.pack (g : Group) (sel : PcSel) (f : Fields) (n : Nat) : GRes :=
  let dst := g.ty
  let src := if (fmtOf dst).isSome then 2 else 0
  g.putCvt sel f false (fun l =>
    packCvt dst ((List.range n).map (fun k => convert src dst 0 g.rm g.ftz (g.vRead (f.a.toNat + k) l).toNat)))

/-- R360: two values into one register. -/
def execVpk2 (f : Fields) (s : State) : Host.Outcome State Fault Refusal :=
  issueReg Op.vpk2 f (fun sel g => g.pack sel f 2) s

/-- R360: four values into one register. -/
def execVpk4 (f : Fields) (s : State) : Host.Outcome State Fault Refusal :=
  issueReg Op.vpk4 f (fun sel g => g.pack sel f 4) s

/-- R360: eight values into one register. -/
def execVpk8 (f : Fields) (s : State) : Host.Outcome State Fault Refusal :=
  issueReg Op.vpk8 f (fun sel g => g.pack sel f 8) s

/-- The tag of VUNPK's result (R361). -/
def unpackTag (ty : Nat) : Nat := if (fmtOf ty).isSome then 2 else if unsignedTy ty then 1 else 0

/-- R361: element B mod e of A, widened. -/
def execVunpk (f : Fields) (s : State) : Host.Outcome State Fault Refusal :=
  issueSimple Op.vunpk f (fun sel g =>
    let ty := g.ty
    let k := (g.sB sel f).toNat % elems ty
    g.putV sel f (unpackTag ty) (fun l =>
      let x := elem ty (g.vRead f.a.toNat l).toNat k
      if (fmtOf ty).isSome then BitVec.ofNat 32 (convertExact ty 2 g.ftz x) else BitVec.ofInt 32 (intOf ty x))) s

/-! ### Dot products (R298, R362) -/

/-- The dot product of packed floating-point elements and an F32 accumulator. -/
def dotFloat (ty : Nat) (rm : Rm) (ftz : Bool) (x y d : Nat) : FRes :=
  let ps := (List.range (elems ty)).map (fun k => (valueOf ty false (elem ty x k)).mul (valueOf ty false (elem ty y k)))
  let (t, iv) := sumExact rm (Fmt.f32.read ftz d :: ps.map (fun p => p.1))
  Fmt.f32.finish rm ftz { Flags.none with iv := iv || ps.any (fun p => p.2) } t

/-- The dot product of packed integers and an I32 accumulator, modulo 2^32. -/
def dotInt (ty x y : Nat) (d : Word) : Word :=
  d + BitVec.ofInt 32 (((List.range (elems ty)).map (fun k => intOf ty (elem ty x k) * intOf ty (elem ty y k))).foldl (· + ·) 0)

/-- DOT4 and DOT8 in every executing lane. -/
def Group.dot (g : Group) (sel : PcSel) (f : Fields) : GRes :=
  let rs := laneResults (g.execLanes sel) fun l =>
    dotFloat g.ty g.rm g.ftz (g.vRead f.a.toNat l).toNat (g.opB sel f l).toNat (g.vRead f.d.toNat l).toNat
  (g.putTyped 2 f.d.toNat (g.execLanes sel) (valueAt rs)).finish (flagsAt rs)

/-- R362: four products. -/
def execDot4 (f : Fields) (s : State) : Host.Outcome State Fault Refusal :=
  issueReg Op.dot4 f (fun sel g => g.dot sel f) s

/-- R362: eight products. -/
def execDot8 (f : Fields) (s : State) : Host.Outcome State Fault Refusal :=
  issueReg Op.dot8 f (fun sel g => g.dot sel f) s

/-- R362: four integer products. -/
def execIdot4 (f : Fields) (s : State) : Host.Outcome State Fault Refusal :=
  issueSimple Op.idot4 f (fun sel g =>
    g.putV sel f 0 (fun l => dotInt g.ty (g.vRead f.a.toNat l).toNat (g.opB sel f l).toNat (g.vRead f.d.toNat l))) s

/-! ### Block scaling (R296, R297, R363 to R365) -/

/-- A block: its scale byte, its elements, and what it raises. -/
structure Block where
  scale : Nat
  elems : List Nat
  flags : Flags
  deriving DecidableEq, Repr

/-- The smallest UE4M3 code whose value times Tmax is at least amax; none where even 448 is too small. -/
def blockScale (tmax amax : Dy) : Option Nat :=
  firstFrom (fun c => amax.le (((Fmt.ue4m3.decode c).signed).mul tmax)) 1 0x7E

/-- One element of a block: the exact quotient rounded once, held to ±Tmax. -/
def blockElem (fm : Fmt) (rm : Rm) (sc : Dy) (x : FVal) : FRes :=
  match x with
  | .fin n m =>
    if m.isZero then { bits := fm.signed n 0, flags := .none }
    else
      match fm.roundRaw rm n (m.div sc) with
      | .beyond => { bits := fm.signed n fm.maxBits, flags := .overflow }
      | .val b tiny ix => { bits := fm.signed n b, flags := { Flags.none with uf := tiny && ix, ix := ix } }
  | _ => { bits := 0, flags := .none }

/-- QBLKN of the first c of 16 values (R296, R297). -/
def quantise (fm : Fmt) (rm : Rm) (c : Nat) (xs : List FVal) : Block :=
  let used := xs.take c
  let fill := fun (es : List Nat) => es ++ List.replicate (16 - es.length) 0
  if used.any (fun x => x.isNaN || x.isInf) then
    { scale := 0x7F, elems := fill (used.map (fun _ => fm.nanBits)), flags := .onlyIv }
  else
    let amax := used.foldl (fun (a : Dy) x => if a.lt x.signed.abs then x.signed.abs else a) Dy.zero
    if amax.isZero then { scale := 0x38, elems := fill [], flags := .none }
    else
      let tmax := fm.mag fm.maxBits
      let sc := blockScale tmax amax
      let code := sc.getD 0x7E
      let rs := used.map (blockElem fm rm (Fmt.ue4m3.decode code).signed)
      let fl := rs.foldl (fun a r => a.or r.flags) .none
      { scale := code, elems := fill (rs.map (fun r => r.bits)),
        flags := if sc.isNone then fl.or .overflow else fl }

/-- The element registers of a block, e elements each. -/
def blockRegs (ty : Nat) : Nat → List Nat → List Word
  | 0, _ => []
  | n + 1, es => BitVec.ofNat 32 (packElems ty (es.take (elems ty))) :: blockRegs ty n (es.drop (elems ty))

/-- Replace byte k of a word. -/
def setWordByte (w : Word) (k b : Nat) : Word :=
  (w &&& ~~~((0xFF#32) <<< (8 * k))) ||| (BitVec.ofNat 32 (b % 256) <<< (8 * k))

/-- QBLK and QBLKN: one block in every executing lane. -/
def Group.block (g : Group) (sel : PcSel) (f : Fields) (counted : Bool) : GRes :=
  let ty := g.ty
  let fm := (fmtOf ty).getD .e4m3
  let w := g.sB sel f
  let c := if counted then min 16 (bits w 13 9) else 16
  let sreg := bits w 6 0
  let sb := bits w 8 7
  let ls := g.execLanes sel
  let n := 16 / elems ty
  let bs := ls.map fun l =>
    (l, quantise fm g.rm c ((List.range 16).map (fun k => Fmt.f32.decode (g.vRead (f.a.toNat + k) l).toNat)))
  let g1 := bs.foldl (fun (a : Group) e =>
    let regs := blockRegs ty n e.2.elems
    let a := (List.range n).foldl (fun (a : Group) k => a.vSet (f.d.toNat + k) e.1 (regs.getD k 0)) a
    a.vSet sreg e.1 (setWordByte (a.vRead sreg e.1) sb e.2.scale)) g
  ((g1.setTags f.d.toNat ty n).setTag sreg 14).finish (bs.map (fun e => (e.1, e.2.flags)))

/-- R363: a block of 16 values. -/
def execQblk (f : Fields) (s : State) : Host.Outcome State Fault Refusal :=
  issueReg Op.qblk f (fun sel g => g.block sel f false) s

/-- R363: a block of the first c values. -/
def execQblkn (f : Fields) (s : State) : Host.Outcome State Fault Refusal :=
  issueReg Op.qblkn f (fun sel g => g.block sel f true) s

/-- One element times two scales, rounded once; a NaN factor raises nothing (R365). -/
def scaleElem (fm : Fmt) (rm : Rm) (ftz : Bool) (x s0 s1 : Nat) : FRes :=
  let a := fm.read ftz x
  let p := Fmt.ue4m3.decode s0
  let q := Fmt.ue4m3.decode s1
  if a.isNaN || p.isNaN || q.isNaN then fm.nanRes .none
  else
    let (t, iv) := a.mul p
    let (u, iv') := t.mul q
    fm.finish rm ftz { Flags.none with iv := iv || iv' } u

/-- R365: the elements of A times the scale bytes 0 and 1 of B. -/
def execVscl (f : Fields) (s : State) : Host.Outcome State Fault Refusal :=
  issueReg Op.vscl f (fun sel g =>
    let ty := g.ty
    let fm := (fmtOf ty).getD .f32
    let rs := laneResults (g.execLanes sel) fun l =>
      let x := (g.vRead f.a.toNat l).toNat
      let b := (g.opB sel f l).toNat
      mapElems ty (fun k => scaleElem fm g.rm g.ftz (elem ty x k) (b % 256) (b / 256 % 256))
    (g.putTyped ty f.d.toNat (g.execLanes sel) (valueAt rs)).finish (flagsAt rs)) s

end Sys2Proof.Machine
end

