-- ==== Sys2Proof/Machine/Tile.lean ====
section
/-! DEFINITION. Matrix and softmax instructions, 0x98 to 0xA0, 0xA6 and 0xA7 (R313 to R315, R369 to R376, R381 to R387). -/

namespace Sys2Proof.Machine

open Sys2Proof

/-! ### Rows (R222, R369) -/

/-- Bits of an element of a tile type; a component counts for a complex type. -/
def tileBits (t : Nat) : Nat := if t = 14 then 32 else if t = 15 then 16 else elemBits t

/-- Elements, or components, in a row of a tile type. -/
def rowElems (t : Nat) : Nat := 1024 / tileBits t

/-- The element type of a tile type's components. -/
def componentTy (t : Nat) : Nat := if t = 14 then 2 else if t = 15 then 3 else t

/-- Field k of width w of a row. -/
def rowField (w : Nat) (r : Row) (k : Nat) : Nat := r.toNat / 2 ^ (w * k) % 2 ^ w

/-- A row from its fields of width w, field 0 lowest. -/
def packRow (w : Nat) (xs : List Nat) : Row :=
  BitVec.ofNat 1024 (xs.foldr (fun x acc => x % 2 ^ w + 2 ^ w * acc) 0)

/-- `rowmax` of the row that lane l holds. -/
def Group.rowMax (g : Group) (t l : Nat) : Word := SMap.get 0 g.rmax (rowKey t (l / 32) (l % 32))

/-- `rowsum` of the row that lane l holds. -/
def Group.rowSum (g : Group) (t l : Nat) : Word := SMap.get 0 g.rsum (rowKey t (l / 32) (l % 32))

def Group.setRowMax (g : Group) (t l : Nat) (w : Word) : Group :=
  { g with rmax := SMap.set 0 g.rmax (rowKey t (l / 32) (l % 32)) w }

def Group.setRowSum (g : Group) (t l : Nat) (w : Word) : Group :=
  { g with rsum := SMap.set 0 g.rsum (rowKey t (l / 32) (l % 32)) w }

/-- The matrix unit of the quarter is taken by a tile word until it is done (R371). -/
def issueTile (op : Op) (f : Fields) (body : PcSel → Group → GRes) (s : State) : Host.Outcome State Fault Refusal :=
  issue op f (fun e g s =>
    let k := quarterKey g.coreId g.quarter
    let work : TileWork := { gid := e.gid, regs := { op with a := .unused, b := .unused }.named f g e.sel }
    let busy := fun (g : Group) =>
      ((s.setGroup e.gid g).setQuarter k { s.quarter k with unit := some work }).post (.tileUnitDone e.gid)
    match body e.sel g with
    | .done g' => .ok (busy g')
    | .trap t g' => .trap t (busy g')
    | .wait => .wait s) s

/-- Change a group lane by lane, collecting flags; every lane reads `g` as it was. -/
def Group.perLane (g : Group) (ls : List Nat) (h : Group → Nat → Group × List Flags) : Group × LaneFlags :=
  ls.foldl (fun acc l =>
    let r := h acc.1 l
    (r.1, acc.2 ++ r.2.map (fun fl => (l, fl)))) (g, [])

/-! ### MMA (R299, R313 to R315, R374) -/

/-- k of the shape, and the chunk K (R299, R313). -/
def mmaShape (ty : Nat) : Nat × Nat :=
  if ty = 12 then (4, 4) else if ty = 2 then (8, 8) else if ty = 3 ∨ ty = 4 then (32, 16)
  else if ty = 6 then (64, 64) else if ty = 10 then (128, 32) else (64, 32)

/-- The bits of element k of the fragment at `base` in a lane (R314). -/
def Group.fragBits (g : Group) (base l k : Nat) : Nat :=
  if g.ty = 12 then (g.vPair (base + 2 * k) l).toNat
  else
    let e := elems g.ty
    elem g.ty (g.vRead (base + k / e) l).toNat (k % e)

/-- Element k of a fragment, with its block scale when X = 1 (R315), and whether the product is invalid. -/
def Group.fragVal (g : Group) (fm : Fmt) (x : Bool) (base l k : Nat) : FVal × Bool :=
  let v := fm.read g.ftz (g.fragBits base l k)
  if x then
    let j := k / 16
    v.mul (Fmt.ue4m3.decode ((g.vRead (base + 16 + j / 4) l).toNat / 2 ^ (8 * (j % 4)) % 256))
  else (v, false)

/-- The values of a fragment's row or column in a lane. -/
def Group.fragRow (g : Group) (fm : Fmt) (x : Bool) (base l : Nat) : List (FVal × Bool) :=
  (List.range (mmaShape g.ty).1).map (g.fragVal fm x base l)

/-- One chunk added to the accumulator: exact inside, one rounding (R298, R299). -/
def mmaChunk (acc : Fmt) (rm : Rm) (ftz : Bool) (c : FRes) (ps : List ((FVal × Bool) × (FVal × Bool))) : FRes :=
  let terms := ps.map (fun p => (p.1.1.mul p.2.1, p.1.2 || p.2.2))
  let iv := terms.any (fun t => t.1.2 || t.2)
  let (sum, iv') := sumExact rm (acc.read ftz c.bits :: terms.map (fun t => t.1.1))
  let r := acc.finish rm ftz { Flags.none with iv := iv || iv' } sum
  { r with flags := c.flags.or r.flags }

/-- The chunks of an output element, in increasing order. -/
def mmaChunks (acc : Fmt) (rm : Rm) (ftz : Bool) (K : Nat) (c : FRes) (ps : List ((FVal × Bool) × (FVal × Bool))) :
    Nat → FRes
  | 0 => c
  | n + 1 => mmaChunks acc rm ftz K (mmaChunk acc rm ftz c (ps.take K)) (ps.drop K) n

/-- An I8 element: an exact sum that wraps. -/
def Group.mmaInt (g : Group) (a b la lb : Nat) (c : Nat) : Nat :=
  let n := (List.range 64).foldl
    (fun (x : Int) k => x + intOf 6 (g.fragBits a la k) * intOf 6 (g.fragBits b lb k)) (intOf 0 c)
  wrapTo 32 n

/-- The row of the result that lane l holds: its own row of A against the columns it keeps (R314, R374) (DEDUCED, log 20). -/
def Group.mmaRow (g : Group) (f : Fields) (zero : Bool) (l : Nat) : Row × List Flags :=
  let ty := g.ty
  let b := l / 32 * 32
  let old := g.rowOf f.d.toNat l
  let c0 := fun w k => if zero then 0 else rowField w old k
  let (A, B) := (f.a.toNat, f.b.toNat)
  if ty = 6 then (packRow 32 ((List.range 32).map (fun j => g.mmaInt A B l (b + j) (c0 32 j))), [])
  else
    let half := ty = 12
    let w := if half then 64 else 32
    let acc := if half then Fmt.f64 else Fmt.f32
    let fm := (fmtOf ty).getD .f32
    let la := if half then b + l % 16 else l
    let j0 := if half then l % 32 / 16 * 16 else 0
    let (k, K) := mmaShape ty
    let row := g.fragRow fm f.x A la
    let rs := (List.range (if half then 16 else 32)).map (fun j =>
      mmaChunks acc g.rm g.ftz K { bits := c0 w j, flags := .none } (row.zip (g.fragRow fm f.x B (b + j0 + j))) (k / K))
    (packRow w (rs.map (fun r => r.bits)), rs.map (fun r => r.flags))

/-- MMA and MMAZ: every executing lane's row; the tags become the accumulator type. -/
def Group.multiply (g : Group) (sel : PcSel) (f : Fields) (zero : Bool) : GRes :=
  let d := f.d.toNat
  let (g', fl) := g.perLane (lanesOf (g.exec sel)) (fun h l =>
    let (row, fs) := g.mmaRow f zero l
    (h.setRow d l row, fs))
  (g'.setSliceTags d (accType g.ty)).finish fl

/-- R374: accumulates. -/
def execMma (f : Fields) (s : State) : Host.Outcome State Fault Refusal :=
  issueTile Op.mma f (fun sel g => g.multiply sel f false) s

/-- R374, R375: from +0. -/
def execMmaz (f : Fields) (s : State) : Host.Outcome State Fault Refusal :=
  issueTile Op.mmaz f (fun sel g => g.multiply sel f true) s

/-- −∞ as F32. -/
def negInf : Word := 0xFF800000#32

/-- R376. -/
def execTzero (f : Fields) (s : State) : Host.Outcome State Fault Refusal :=
  issueTile Op.tzero f (fun sel g =>
    let d := f.d.toNat
    let g' := (lanesOf (g.exec sel)).foldl
      (fun (h : Group) l => ((h.setRow d l 0).setRowMax d l negInf).setRowSum d l 0) g
    .done (g'.setSliceTags d g.ty)) s

/-! ### TFRAG, TFILL (R381) -/

/-- The first word and the number of words that a control word names. -/
def fragWords (w : Word) : Nat × Nat := (bits w 4 0, bits w 10 5)

/-- The common tile type of a tile's slices where registers can carry it, else RAW. -/
def Group.commonTag (g : Group) (t : Nat) : Nat :=
  let ts := (List.range g.beats).map (g.sliceTag t)
  let t0 := ts.headD 15
  if t0 ≤ 13 && ts.all (· == t0) then t0 else 15

/-- R381: row words into vector registers. -/
def execTfrag (f : Fields) (s : State) : Host.Outcome State Fault Refusal :=
  issueTile Op.tfrag f (fun sel g =>
    let (first, n) := fragWords (g.sB sel f)
    let (d, t) := (f.d.toNat, f.a.toNat)
    let g' := (List.range n).foldl (fun (h : Group) w =>
      h.vWrite (d + w) (lanesOf (g.exec sel)) (fun l => BitVec.ofNat 32 (rowField 32 (g.rowOf t l) (first + w)))) g
    .done (g'.setTags d (g.commonTag t) n)) s

/-- R381: vector registers into row words. -/
def execTfill (f : Fields) (s : State) : Host.Outcome State Fault Refusal :=
  issueTile Op.tfill f (fun sel g =>
    let (first, n) := fragWords (g.sB sel f)
    let (d, a) := (f.d.toNat, f.a.toNat)
    let put := fun (h : Group) l =>
      let old := g.rowOf d l
      h.setRow d l (packRow 32 ((List.range 32).map (fun w =>
        if first ≤ w ∧ w < first + n then (g.vRead (a + (w - first)) l).toNat else rowField 32 old w)))
    .done (((lanesOf (g.exec sel)).foldl put g).setSliceTags d g.ty)) s

/-! ### TCVT, TSCL (R382, R383) -/

/-- R382: element by element under SAT, into the tile type of `m.t`. -/
def execTcvt (f : Fields) (s : State) : Host.Outcome State Fault Refusal :=
  issueTile Op.tcvt f (fun sel g =>
    let (d, a) := (f.d.toNat, f.a.toNat)
    let dst := g.ty
    let (g', fl) := g.perLane (lanesOf (g.exec sel)) (fun h l =>
      let src := g.sliceTag a (l / 32)
      let n := min (rowElems src) (rowElems dst)
      let rs := (List.range n).map (fun k =>
        convert (componentTy src) (componentTy dst) 0 g.rm g.ftz (rowField (tileBits src) (g.rowOf a l) k))
      (h.setRow d l (packRow (tileBits dst) (rs.map (fun r => r.bits))), rs.map (fun r => r.flags)))
    (g'.setSliceTags d dst).finish fl) s

/-- R383: every element times an F32, rounded once under RNE. -/
def execTscl (f : Fields) (s : State) : Host.Outcome State Fault Refusal :=
  issueTile Op.tscl f (fun sel g =>
    let d := f.d.toNat
    let c := Fmt.f32.decode (g.sB sel f).toNat
    let (g', fl) := g.perLane (lanesOf (g.exec sel)) (fun h l =>
      let t := g.sliceTag d (l / 32)
      let fm := (fmtOf (componentTy t)).getD .f32
      let rs := (List.range (rowElems t)).map (fun k =>
        fm.fmul .rne false (fm.decode (rowField (tileBits t) (g.rowOf d l) k)) c)
      (h.setRow d l (packRow (tileBits t) (rs.map (fun r => r.bits))), rs.map (fun r => r.flags)))
    g'.finish fl) s

/-! ### Online softmax (R384 to R387) -/

/-- The 32 F32 elements of a row. -/
def rowF32 (r : Row) : List Nat := (List.range 32).map (rowField 32 r)

/-- 2^(x − m), exact or with a sticky bit, of values that are not NaN and not equal (R385, R386). -/
def powDiff (x m : FVal) : FVal :=
  match x, m with
  | .inf true, _ => .fin false .zero
  | _, .inf false => .fin false .zero
  | .inf false, _ => .inf false
  | _, .inf true => .inf false
  | _, _ => .fin false (exp2 (x.signed.sub m.signed))

/-- The two values are the same number. -/
def sameValue (x y : FVal) : Bool := x.eqv y

/-- TMAXR for one lane: the accumulator's row rescaled to the new maximum (R385). -/
def Group.maxRow (g h : Group) (d a l : Nat) : Group × List Flags :=
  let fm := Fmt.f32
  let v := fm.decode
  let mo := (g.rowMax d l).toNat
  let mt := match rowF32 (g.rowOf a l) with
    | [] => mo
    | x :: xs => xs.foldl (fun m y => fm.fminmax true (v m) (v y)) x
  let mn := fm.fminmax true (v mo) (v mt)
  let one := fm.encode (.fin false (Dy.ofInt 1))
  let c : FRes := if sameValue (v mn) (v mo) then { bits := one, flags := .none }
    else fm.finish .rne false .none (powDiff (v mo) (v mn))
  let h := h.setRowMax d l (BitVec.ofNat 32 mn)
  if c.bits = 0 then ((h.setRow d l 0).setRowSum d l 0, [c.flags])
  else if c.bits = one then (h, [c.flags])
  else
    let rs := (rowF32 (g.rowOf d l)).map (fun x => fm.fmul .rne false (v x) (v c.bits))
    let sum := fm.fmul .rne false (v (g.rowSum d l).toNat) (v c.bits)
    ((h.setRow d l (packRow 32 (rs.map (fun r => r.bits)))).setRowSum d l (BitVec.ofNat 32 sum.bits),
     c.flags :: sum.flags :: rs.map (fun r => r.flags))

/-- R385. -/
def execTmaxr (f : Fields) (s : State) : Host.Outcome State Fault Refusal :=
  issueTile Op.tmaxr f (fun sel g =>
    let (g', fl) := g.perLane (lanesOf (g.exec sel)) (fun h l => g.maxRow h f.d.toNat f.a.toNat l)
    g'.finish fl) s

/-- One weight of TEXPS (R386). -/
def softWeight (fm : Fmt) (m s : FVal) : FRes :=
  if m = .inf true then { bits := 0, flags := .none }
  else if s.isNaN then { bits := fm.nanBits, flags := .onlyIv }
  else if sameValue s m then { bits := fm.encode (.fin false (Dy.ofInt 1)), flags := .none }
  else fm.finish .rne false .none (powDiff s m)

/-- TEXPS for one lane: the weights into the registers, their exact sum into `rowsum`. -/
def Group.expRow (g h : Group) (d a t l : Nat) : Group × List Flags :=
  let ty := g.ty
  let fm := (fmtOf ty).getD .f16
  let m := Fmt.f32.decode (g.rowMax t l).toNat
  let rs := (rowF32 (g.rowOf a l)).map (fun x => softWeight fm m (Fmt.f32.decode x))
  let (sum, iv) := sumExact .rne (Fmt.f32.decode (g.rowSum t l).toNat :: rs.map (fun r => fm.decode r.bits))
  let r := Fmt.f32.finish .rne false { Flags.none with iv := iv } sum
  let e := elems ty
  let h := (List.range (32 / e)).foldl (fun (h : Group) k =>
    h.vSet (d + k) l (BitVec.ofNat 32 (packElems ty (((rs.drop (k * e)).take e).map (fun r => r.bits))))) h
  (h.setRowSum t l (BitVec.ofNat 32 r.bits), r.flags :: rs.map (fun r => r.flags))

/-- R386. -/
def execTexps (f : Fields) (s : State) : Host.Outcome State Fault Refusal :=
  issueTile Op.texps f (fun sel g =>
    let (g', fl) := g.perLane (lanesOf (g.exec sel)) (fun h l => g.expRow h f.d.toNat f.a.toNat f.b.toNat l)
    (g'.setTags f.d.toNat g.ty (32 / elems g.ty)).finish fl) s

/-- R387: each row divided by its `rowsum`. -/
def execTnorm (f : Fields) (s : State) : Host.Outcome State Fault Refusal :=
  issueTile Op.tnorm f (fun sel g =>
    let t := f.d.toNat
    let (g', fl) := g.perLane (lanesOf (g.exec sel)) (fun h l =>
      let d := Fmt.f32.decode (g.rowSum t l).toNat
      if d.isZero then (h.setRow t l 0, [])
      else
        let rs := (rowF32 (g.rowOf t l)).map (fun x => Fmt.f32.fdiv .rne false (Fmt.f32.decode x) d)
        (h.setRow t l (packRow 32 (rs.map (fun r => r.bits))), rs.map (fun r => r.flags)))
    g'.finish fl) s

end Sys2Proof.Machine
end

