-- ==== Sys2Proof/Machine/Butterfly.lean ====
section
/-! DEFINITION. Butterfly instructions, 0xA2 to 0xA5 (R300, R316, R388 to R392). -/

namespace Sys2Proof.Machine

open Sys2Proof

/-! ### Plans (R316, R388) -/

/-- A decoded plan: the radix exponents of its stages, the inverse bit, the scale bits. -/
structure Plan where
  stages : List Nat
  inv    : Bool
  scale  : Nat
  deriving DecidableEq, Repr

/-- The plan that a word holds, or none where it is refused. -/
def planOf (w : Word) : Option Plan :=
  let n := bits w 3 0
  let code := fun k => w.toNat / 2 ^ (4 + 2 * k) % 4
  let scl := bits w 31 23
  if n = 0 ∨ 9 < n then none
  else if (List.range 9).any (fun k => if k < n then code k == 3 else code k != 0) then none
  else if 2 ^ n ≤ scl then none
  else some { stages := (List.range n).map (fun k => code k + 1), inv := w.getLsbD 22, scale := scl }

/-- log2 of the product of the radices before stage k. -/
def Plan.logM (p : Plan) (k : Nat) : Nat := (p.stages.take k).foldl (· + ·) 0

/-- log2 P. -/
def Plan.logP (p : Plan) : Nat := p.logM p.stages.length

/-- Points of a slice of a complex type. -/
def slicePoints (t : Nat) : Nat := if t = 14 then 512 else 1024

/-- The digit reversal of position i of a transform (R388). -/
def Plan.rev (p : Plan) (i : Nat) : Nat :=
  (List.range p.stages.length).foldl
    (fun acc k => acc + i / 2 ^ p.logM k % 2 ^ p.stages.getD k 0 * 2 ^ (p.logP - p.logM (k + 1))) 0

/-! ### Complex arithmetic (R300) -/

/-- The bits of the real and imaginary part of a point. -/
abbrev Point := Nat × Nat

/-- W(m, 2^lg) in a format, correctly rounded; conjugated when `inv`. -/
def twiddle (fm : Fmt) (inv : Bool) (m lg : Nat) : Point :=
  let x : Dy := { m := m, e := -(lg : Int) }
  let sn := sinTurns x
  let r := fun (y : Dy) => (fm.round .rne false false y).bits
  (r (cosTurns x), r (if inv then sn else sn.neg))

/-- A term of a sum: an operand times ±1, or times ±√2/2. -/
structure Term where
  neg  : Bool
  half : Bool
  v    : FVal

/-- The value with its sign. -/
def Term.val (t : Term) : FVal := if t.neg then t.v.negate else t.v

/-- a + b × √2/2 for a nonzero b, with a sticky bit: (2a + b√2) to 1,024 bits below the operands' least. -/
def surd (a b : Dy) : Dy :=
  let e := min a.e b.e
  let K := 1024
  let v0 := 2 * shl (a.at e) K
  let bb := (b.at e).natAbs
  let r : Int := isqrt (2 * bb * bb * 4 ^ K)
  let lo : Int := if b.isNeg then v0 - r - 1 else v0 + r
  -- the number lies strictly between lo and lo + 1
  let m : Int := if lo ≥ 0 then 2 * lo + 1 else -(2 * (-lo - 1) + 1)
  { m := m, e := e - K - 2 }

/-- The exact sum of terms under RNE: its value, whether it is invalid. -/
def sumTerms (ts : List Term) : FVal × Bool :=
  let (v, iv) := sumExact .rne (ts.map Term.val)
  match v with
  | .fin _ _ =>
    let part := fun h => ((ts.filter (fun t => t.half == h)).map (fun t => t.val.signed)).foldl Dy.add Dy.zero
    let b := part true
    let a := part false
    if b.isZero then (.fin a.isNeg a.abs, iv)
    else
      let x := surd a b
      (.fin x.isNeg x.abs, iv)
  | v => (v, iv)

/-- A component rounded once under RNE, subnormals kept; one that is exactly zero is +0, whatever the signs of its terms (R440). -/
def component (fm : Fmt) (scale : Nat) (r : FVal × Bool) : FRes :=
  let v := match r.1 with
    | .fin n m => FVal.fin (n && !m.isZero) (m.scale (-(scale : Int)))
    | v => v
  fm.finish .rne false { Flags.none with iv := r.2 } v

/-- A complex result. -/
def complexRes (fm : Fmt) (scale : Nat) (re im : FVal × Bool) : Point × Flags :=
  let x := component fm scale re
  let y := component fm scale im
  ((x.bits, y.bits), x.flags.or y.flags)

/-- The product of a point and a rounded twiddle; a component that is exactly zero contributes no term (R300). -/
def timesTwiddle (fm : Fmt) (y w : Point) : Point × Flags :=
  let v := fm.decode
  let prod := fun (neg : Bool) (a c : Nat) =>
    let (p, iv) := (v a).mul (v c)
    ((if neg then p.negate else p), iv)
  let sum := fun (ts : List (FVal × Bool)) =>
    let (x, iv) := sumExact .rne (ts.map (fun t => t.1))
    (x, iv || ts.any (fun t => t.2))
  let keep := fun (c : Nat) (t : FVal × Bool) => if (v c).isZero then [] else [t]
  complexRes fm 0 (sum (keep w.1 (prod false y.1 w.1) ++ keep w.2 (prod true y.2 w.2)))
    (sum (keep w.2 (prod false y.1 w.2) ++ keep w.1 (prod false y.2 w.1)))

/-- e^(−2πi k / 8), or its conjugate: its real and imaginary part as a sign and whether it is √2/2, none when zero. -/
def rootPart (inv : Bool) (k : Nat) : Option (Bool × Bool) × Option (Bool × Bool) :=
  let re := match k % 8 with
    | 0 => some (false, false)
    | 1 | 7 => some (false, true)
    | 3 | 5 => some (true, true)
    | 4 => some (true, false)
    | _ => none
  let im := match k % 8 with
    | 1 | 3 => some (!inv, true)
    | 2 => some (!inv, false)
    | 5 | 7 => some (inv, true)
    | 6 => some (inv, false)
    | _ => none
  (re, im)

/-- The terms that a twiddled input times a root gives to the two components. -/
def rootTerms (fm : Fmt) (inv : Bool) (k : Nat) (t : Point) : List Term × List Term :=
  let (re, im) := rootPart inv k
  let term := fun (c : Option (Bool × Bool)) (flip : Bool) (b : Nat) =>
    match c with
    | some (neg, half) => [({ neg := neg != flip, half := half, v := fm.decode b } : Term)]
    | none => []
  (term re false t.1 ++ term im true t.2, term im false t.1 ++ term re false t.2)

/-! ### Stages (R389, R390) -/

/-- Output p of the butterfly of stage k at block base and offset `at_`, from a function giving the slice's points
(DEDUCED, log 20). -/
def butterfly (fm : Fmt) (pl : Plan) (k : Nat) (a : Nat → Point) (n : Nat) : Point × List (Nat × Flags) :=
  let lr := pl.stages.getD k 1
  let r := 2 ^ lr
  let M := 2 ^ pl.logM k
  let lgB := pl.logM k + lr
  let B := 2 ^ lgB
  let j := n % B % M
  let p := n % B / M
  let base := n / B * B + j
  let ts := (List.range r).map (fun d =>
    let pos := base + d * M
    if d * j = 0 then (pos, a pos, Flags.none)
    else
      let (t, fl) := timesTwiddle fm (a pos) (twiddle fm pl.inv (d * j) lgB)
      (pos, t, fl))
  let terms := ts.zipIdx.map (fun x => rootTerms fm pl.inv (p * x.2 % r * (8 / r)) x.1.2.1)
  let scale := if pl.scale / 2 ^ k % 2 = 1 then lr else 0
  let (z, fl) := complexRes fm scale (sumTerms (terms.flatMap (fun t => t.1))) (sumTerms (terms.flatMap (fun t => t.2)))
  (z, (n, fl) :: (if p = 0 then ts.map (fun t => (t.1, t.2.2)) else []))

/-- The points of a slice. -/
def Group.points (g : Group) (t b : Nat) : Array Point :=
  let ty := g.sliceTag t b
  let w := tileBits ty
  ((List.range (slicePoints ty)).map (fun n =>
    let row := g.rowOf t (32 * b + n % 32)
    (rowField w row (2 * (n / 32)), rowField w row (2 * (n / 32) + 1)))).toArray

/-- Write the points of a slice back. -/
def Group.setPoints (g : Group) (t b : Nat) (ps : Array Point) : Group :=
  let ty := g.sliceTag t b
  let w := tileBits ty
  (List.range 32).foldl (fun (h : Group) i =>
    h.setRow t (32 * b + i) (packRow w ((List.range (slicePoints ty / 32)).flatMap (fun j =>
      let p := ps.getD (32 * j + i) (0, 0)
      [p.1, p.2])))) g

/-- The slices that a butterfly instruction processes: those of beats whose 32 lanes all execute (R370). -/
def Group.wholeBeats (g : Group) (sel : PcSel) : List Nat :=
  (List.range g.beats).filter (fun b => maskWord (g.exec sel) b == 0xFFFFFFFF#32)

/-- Digit reversal of every transform of a slice. -/
def bitReverse (pl : Plan) (a : Array Point) : Array Point :=
  let P := 2 ^ pl.logP
  ((List.range a.size).map (fun n => a.getD (n / P * P + pl.rev (n % P)) (0, 0))).toArray

/-- One stage over a slice, with the flags of the points. -/
def stage (fm : Fmt) (pl : Plan) (k : Nat) (a : Array Point) : Array Point × List (Nat × Flags) :=
  let rs := (List.range a.size).map (butterfly fm pl k (fun n => a.getD n (0, 0)))
  ((rs.map (fun r => r.1)).toArray, rs.flatMap (fun r => r.2))

/-- Stages from k on, n of them. -/
def stages (fm : Fmt) (pl : Plan) (k : Nat) (acc : Array Point × List (Nat × Flags)) : Nat → Array Point × List (Nat × Flags)
  | 0 => acc
  | n + 1 =>
    let r := stage fm pl k acc.1
    stages fm pl (k + 1) (r.1, acc.2 ++ r.2) n

/-- Apply a transformation of slices to the processed slices of tile D, after the plan's checks (R388). -/
def Group.butterflies (g : Group) (sel : PcSel) (f : Fields) (extra : Plan → Bool)
    (h : Fmt → Plan → Array Point → Array Point × List (Nat × Flags)) : GRes :=
  let w := g.sB sel f
  let d := f.d.toNat
  let ty := g.sliceTag d 0
  let bad := GRes.trap (g.trapWhole sel Cause.fftPlan w.toNat) g
  match planOf w with
  | none => bad
  | some pl =>
    if slicePoints ty < 2 ^ pl.logP || !extra pl then bad
    else
      let fm := (fmtOf (componentTy ty)).getD .f32
      let (g', fl) := (g.wholeBeats sel).foldl (fun (acc : Group × LaneFlags) b =>
        let r := h fm pl (g.points d b)
        (acc.1.setPoints d b r.1, acc.2 ++ r.2.map (fun e => (32 * b + e.1 % 32, e.2)))) (g, [])
      g'.finish fl

/-- R389. -/
def execTbrev (f : Fields) (s : State) : Host.Outcome State Fault Refusal :=
  issueTile Op.tbrev f (fun sel g => g.butterflies sel f (fun _ => true) (fun _ pl a => (bitReverse pl a, []))) s

/-- R390: the stage that scalar A names. -/
def execTfstg (f : Fields) (s : State) : Host.Outcome State Fault Refusal :=
  issueTile Op.tfstg f (fun sel g =>
    let k := (g.sField sel f.a).toNat
    g.butterflies sel f (fun pl => decide (k < pl.stages.length)) (fun fm pl a => stage fm pl k a)) s

/-- R391: TBREV, then every stage. -/
def execTfft (f : Fields) (s : State) : Host.Outcome State Fault Refusal :=
  issueTile Op.tfft f (fun sel g =>
    g.butterflies sel f (fun _ => true)
      (fun fm pl a => stages fm pl 0 (bitReverse pl a, []) pl.stages.length)) s

/-- R392: the twiddle generator. -/
def execTwid (f : Fields) (s : State) : Host.Outcome State Fault Refusal :=
  issueTile Op.twid f (fun sel g =>
    let w := g.sB sel f
    let lg := bits w 4 0
    let (d, a) := (f.d.toNat, f.a.toNat)
    let ls := lanesOf (g.exec sel)
    let tw := fun (fm : Fmt) (l : Nat) => twiddle fm (w.getLsbD 5) ((g.vRead a l).toNat % 2 ^ lg) lg
    if w.getLsbD 6 then
      .done ((g.vWrite d ls (fun l => let t := tw .f16 l; BitVec.ofNat 32 (t.1 + 2 ^ 16 * t.2))).setTag d 3)
    else
      let g1 := g.vWrite d ls (fun l => BitVec.ofNat 32 (tw .f32 l).1)
      .done ((g1.vWrite (d + 1) ls (fun l => BitVec.ofNat 32 (tw .f32 l).2)).setTags d 2 2)) s

end Sys2Proof.Machine
end

