-- ==== Sys2Proof/Machine/Copies.lean ====
section
/-! DEFINITION. Copies, 0xD5 to 0xD9 (R160, R406, R407). -/

namespace Sys2Proof.Machine

open Sys2Proof

/-- The shape of a copy: its ranges, rows, bytes per row and pitches. -/
structure CopyShape where
  dst    : VA
  src    : VA
  rows   : Nat
  bytes  : Nat
  dpitch : Nat
  spitch : Nat

/-- The operands of CPY, CPYA, CPYR and CPYAR: one row. -/
def plainShape (e : Env) (g : Group) : CopyShape :=
  { dst := vaOf (g.spField e.sel e.f.d), src := vaOf (g.spField e.sel e.f.a), rows := 1,
    bytes := (g.sB e.sel e.f).toNat, dpitch := 0, spitch := 0 }

/-- The operands of CPY2D: row bytes, row count, source pitch, destination pitch in four scalars (R406). -/
def rowShape (e : Env) (g : Group) : CopyShape :=
  let b := fun k => (g.sRead e.sel (e.f.b.toNat - 96 + k)).toNat
  { dst := vaOf (g.spField e.sel e.f.d), src := vaOf (g.spField e.sel e.f.a), rows := b 1, bytes := b 0, dpitch := b 3,
    spitch := b 2 }

/-- The copy moves no byte (DEDUCED, log 36). -/
def CopyShape.empty (c : CopyShape) : Bool := c.rows == 0 || c.bytes == 0

/-- The first address that is not a multiple of 16, the destination before the source; 0 where the fault lies elsewhere. -/
def CopyShape.misaligned (c : CopyShape) : Option VA :=
  if c.dst.toNat % 16 ≠ 0 then some c.dst
  else if c.src.toNat % 16 ≠ 0 then some c.src
  else if c.bytes % 16 ≠ 0 ∨ c.dpitch % 16 ≠ 0 ∨ c.spitch % 16 ≠ 0 then some 0
  else none

/-- The cause of R90 for a range, 0 where there is none: from its first row's start to its last row's end. -/
def State.rangeCause (s : State) (g : Group) (lo : VA) (len : Nat) : Nat :=
  let last := lo.toNat + len - 1
  let scrb := s.scrbOf g
  if last / 2 ^ 48 ≠ windowOf lo then Cause.window
  else max ((issueCheck s g scrb lo 1).getD 0) ((issueCheck s g scrb (BitVec.ofNat 52 last) 1).getD 0)

/-- The checks of R407 at issue. -/
def CopyShape.check (c : CopyShape) (s : State) (e : Env) (g : Group) : Option TrapInfo :=
  let trap := fun (cause : Nat) (va : VA) (write : Bool) =>
    { g.trapWhole e.sel cause (issueInfo cause va write) with addr := va }
  match c.misaligned with
  | some va => some (trap Cause.misaligned va false)
  | none =>
    if c.empty then none
    else
      let d := s.rangeCause g c.dst ((c.rows - 1) * c.dpitch + c.bytes)
      let a := s.rangeCause g c.src ((c.rows - 1) * c.spitch + c.bytes)
      if d < a then some (trap a c.src false)
      else if d ≠ 0 then some (trap d c.dst true)
      else if windowOf c.dst = 11 then some (trap Cause.apertureWrite c.dst true)
      else none

/-- Issue a copy. Without executing lanes it does nothing (R406). -/
def copyWord (acq rel : Bool) (shape : Env → Group → CopyShape) (e : Env) (g : Group) (s : State) : Res :=
  let m := g.exec e.sel
  if m = 0 then .ok s
  else
    match if rel then s.uncheckedTrap g e.sel else none with
    | some t => .trap t s
    | none =>
      let c := shape e g
      match c.check s e g with
      | some t => .trap t s
      | none =>
        if g.cntFull .cp then .wait s
        else
          .ok (s.issueOp e.gid g (e.newOp g (.copy c.dst c.src c.rows c.bytes c.dpitch c.spitch) .cp
            { acq := acq, rel := rel, sc := false } m))

/-- R406: no flag. -/
def execCpy (f : Fields) (s : State) : Host.Outcome State Fault Refusal :=
  issue Op.cpy f (copyWord false false plainShape) s

/-- R406: the acquire flag. -/
def execCpya (f : Fields) (s : State) : Host.Outcome State Fault Refusal :=
  issue Op.cpya f (copyWord true false plainShape) s

/-- R406: the release flag. -/
def execCpyr (f : Fields) (s : State) : Host.Outcome State Fault Refusal :=
  issue Op.cpyr f (copyWord false true plainShape) s

/-- R406: both flags. -/
def execCpyar (f : Fields) (s : State) : Host.Outcome State Fault Refusal :=
  issue Op.cpyar f (copyWord true true plainShape) s

/-- R406: rows, without flags. -/
def execCpy2d (f : Fields) (s : State) : Host.Outcome State Fault Refusal :=
  issue Op.cpy2d f (copyWord false false rowShape) s

/-! ### Performing a copy (R160, R407) -/

/-- What became of one chunk. -/
inductive Chunk where
  | moved (s : State)
  | waits (s : State)
  | failed (s : State) (cause : Nat) (va : VA)

/-- The 16 bytes at an address as the copy engine reads them at their page's scope. -/
def State.engineRead (s : State) (gid : Nat) (g : Group) (o : MemOp) (va : VA) (e : DWord) : Acc Nat :=
  let k := va.toNat % 128
  if isScratch va then
    match s.team? g.teamId with
    | some t => .done s (s.scratch t (offsetOf va) 16)
    | none => .done s 0
  else if windowOf va = 9 then
    let host := hostAddr (lineOf va) e
    match s.hostReply gid o host with
    | none => .blocked (s.askHost gid o host)
    | some (line, _) => .done (s.useReply gid o host) (lineField line k 16)
  else
    match s.sliceRead g.coreId g.ctx va e with
    | .blocked s => .blocked s
    | .done s (line, _) => .done s (lineField line k 16)

/-- Write a chunk at its home. -/
def State.engineWrite (s : State) (gid : Nat) (g : Group) (o : MemOp) (va : VA) (e : DWord) (x : Nat) : Chunk :=
  if isScratch va then
    match s.team? g.teamId with
    | some t => .moved (s.setScratch t (offsetOf va) (storeBytes 0 16 x))
    | none => .moved s
  else
    match s.storeLine g.coreId g.ctx va e (storeBytes (va.toNat % 128) 16 x) with
    | .blocked s => .waits s
    | .done s .performed => .moved s
    | .done s .refused => .failed s Cause.arena va
    | .done s .sent => .waits (s.tellHost gid o va e (storeBytes 0 16 x))

/-- Move one chunk. -/
def State.moveChunk (s : State) (gid : Nat) (g : Group) (o : MemOp) (dst src : VA) : Chunk :=
  let s := (s.meetLanes g 1 (fun _ => src) false).meetLanes g 1 (fun _ => dst) true
  match s.lateChannel g o false src 16 with
  | .error c => .failed s c src
  | .ok es =>
    match s.lateChannel g o true dst 16 with
    | .error c => .failed s c dst
    | .ok ed =>
      if windowOf dst = 9 && (s.toldHost gid o (hostAddr dst ed) || s.hostLocked (.op gid o.id) (hostAddr (lineOf dst) ed)) then .waits s
      else
        match s.engineRead gid g o src es with
        | .blocked s => .waits s
        | .done s x => s.engineWrite gid g o dst ed x

/-- Move the chunks from number `o.dst` on, at most n of them, ending at the first that waits or fails (R407). -/
def State.moveChunks (s : State) (gid : Nat) (o : MemOp) (c : CopyShape) : Nat → State
  | 0 => s.putOp gid { o with done := true }
  | n + 1 =>
    match s.group? gid with
    | none => s
    | some g =>
      let per := c.bytes / 16
      let (r, k) := (o.dst / per, o.dst % per)
      let dst := c.dst + BitVec.ofNat 52 (r * c.dpitch + 16 * k)
      let src := c.src + BitVec.ofNat 52 (r * c.spitch + 16 * k)
      match s.moveChunk gid g o dst src with
      | .moved s => s.moveChunks gid { o with dst := o.dst + 1 } c n
      | .waits s => s.putOp gid o
      | .failed s cause va => (s.lateFail gid o Cause.copyFault cause 1 o.lanes va).putOp gid { o with done := true }

/-- Perform what can be performed of a copy. -/
def State.performCopy (s : State) (gid : Nat) (o : MemOp) (c : CopyShape) : State :=
  s.moveChunks gid o c (if c.empty then 0 else c.rows * (c.bytes / 16) - o.dst)

end Sys2Proof.Machine
end

