-- ==== Sys2Proof/Machine/Sync.lean ====
section
/-! DEFINITION. Barriers, watches, maintenance and hints, 0x12 to 0x1B (R138, R164, R244, R408 to R413). -/

namespace Sys2Proof.Machine

open Sys2Proof

/-! ### Barriers (R409, R410) -/

/-- The phase of barrier k of a group's team. -/
def State.phase (s : State) (g : Group) (k : Nat) : Bool :=
  match s.team? g.teamId with
  | some t => t.ph.getLsbD k
  | none => false

/-- The group has arrived at barrier k in the present phase, or its arrival waits for its release. -/
def State.hasArrived (s : State) (g : Group) (k : Nat) : Bool :=
  (match s.team? g.teamId with
   | some t => t.hasArrived k g.gidx
   | none => false) ||
  g.undone.any (fun o => match o.kind with
    | .arrive j => j == k
    | _ => false)

/-- The arrival of an issuing group at barrier k: a release over its earlier accesses (R154, R156). -/
def Env.arrival (e : Env) (g : Group) (k : Nat) : MemOp :=
  e.newOp g (.arrive k) .none { acq := false, rel := true, sc := false } 0

/-- BARA: D := the phase it arrives in; the arrival follows its release. -/
def arriveWord (e : Env) (g : Group) (s : State) : Res :=
  let k := e.f.a.toNat
  match s.uncheckedTrap g e.sel with
  | some t => .trap t s
  | none =>
    if s.hasArrived g k then .wait s
    else .ok (s.issueOp e.gid (g.sPut e.sel e.f.d (if s.phase g k then 1 else 0)) (e.arrival g k))

/-- BARW: passes, as an acquire, once the phase differs from bit 0 of B. -/
def waitPhase (e : Env) (g : Group) (s : State) : Res :=
  if s.phase g e.f.a.toNat != (g.sField e.sel e.f.b).getLsbD 0 then .ok (s.expireAll g.coreId) else .wait s

/-- The BARAW at this word has arrived already. -/
def Group.arrivedIn (g : Group) (e : Env) : Option BarWait :=
  match (g.slotOf e.sel).kept.bar with
  | some w => if w.pc = e.pc ∧ w.k = e.f.a.toNat then some w else none
  | none => none

/-- A BARAW waits in a slot of the running level, or does no more. -/
def Group.setArrived (g : Group) (sel : PcSel) (w : Option BarWait) : Group :=
  let p := g.slotOf sel
  g.setSlot sel { p with kept := { p.kept with bar := w } }

/-- BARAW: arrives, and passes as an acquire once the phase has inverted. -/
def arriveWait (e : Env) (g : Group) (s : State) : Res :=
  let k := e.f.a.toNat
  match g.arrivedIn e with
  | some w =>
    if s.phase g k != w.phase then
      .ok ((s.setGroup e.gid (g.setArrived e.sel none)).expireAll g.coreId)
    else .wait s
  | none =>
    match s.uncheckedTrap g e.sel with
    | some t => .trap t s
    | none =>
      if s.hasArrived g k then .wait s
      else
        let w : BarWait := { pc := e.pc, k := k, phase := s.phase g k }
        .hold (s.issueOp e.gid (g.setArrived e.sel (some w)) (e.arrival g k))

/-- R410. -/
def execBara (f : Fields) (s : State) : Host.Outcome State Fault Refusal := issue Op.bara f arriveWord s

/-- R410. -/
def execBarw (f : Fields) (s : State) : Host.Outcome State Fault Refusal := issue Op.barw f waitPhase s

/-- R410. -/
def execBaraw (f : Fields) (s : State) : Host.Outcome State Fault Refusal := issue Op.baraw f arriveWait s

/-! ### Watches (R164, R411) -/

/-- CHKW: waits for every entry at the level, frees them, branches when one was struck. -/
def checkWatches (e : Env) (g : Group) (s : State) : Res :=
  let ws := s.watches g
  if ws.any (fun w => w.state == .pending) then .wait s
  else
    let s := s.freeLevel g
    if ws.any (fun w => w.state == .struck) then
      .ok (s.setGroup e.gid (g.setPc e.sel (e.pc + 4 * e.f.lit.signExtend 52)))
    else .ok s

/-- R164, R411. -/
def execChkw (f : Fields) (s : State) : Host.Outcome State Fault Refusal := issue Op.chkw f checkWatches s

/-- R164, R411. -/
def execWclr (f : Fields) (s : State) : Host.Outcome State Fault Refusal :=
  issue Op.wclr f (fun _ g s => .ok (s.freeLevel g)) s

/-! ### Maintenance of software-managed lines (R138, R412) -/

/-- CLNR, INVR and FLSR: one access of the group over a range. -/
def maintenance (fn : MaintFn) (e : Env) (g : Group) (s : State) : Res :=
  if g.cntFull .st then .wait s
  else
    let base := vaOf (g.spField e.sel e.f.a)
    .ok (s.issueOp e.gid g (e.newOp g (.maintain fn base (g.sB e.sel e.f).toNat) .st .relaxed 0))

/-- R412: the dirty bytes go to the home, the copies stay. -/
def execClnr (f : Fields) (s : State) : Host.Outcome State Fault Refusal := issue Op.clnr f (maintenance .clean) s

/-- R412: the copies are discarded with their dirty bytes. -/
def execInvr (f : Fields) (s : State) : Host.Outcome State Fault Refusal := issue Op.invr f (maintenance .invalidate) s

/-- R412: clean, then invalidate. -/
def execFlsr (f : Fields) (s : State) : Host.Outcome State Fault Refusal := issue Op.flsr f (maintenance .flush) s

/-- The effect on one line of an L2: dirty bytes that are cleaned are performed at the home (R138, R412). -/
def State.maintainLine (s : State) (fn : MaintFn) (k : Nat) : State :=
  match s.l2At k, fn with
  | none, _ => s
  | some x, .clean => ((s.setL2 k (some { x with dirty := 0 })).toHome x.loc x.dirtyBytes).cleanCopies x.loc (l2KeyDie k) x.dirty
  | some x, .invalidate => (s.setL2 k (some { x with dirty := 0 })).dropL2 k
  | some _, .flush => s.dropL2 k

/-- The lines of a range: every one that overlaps [base, base + count). -/
def inRange (base count n : Nat) : Bool :=
  decide (0 < count) && decide (base / 128 ≤ n) && decide (n ≤ (base + count - 1) / 128)

/-- Perform a maintenance operation over the software-managed lines of the context in the die's slices. -/
def State.performMaintain (s : State) (gid : Nat) (g : Group) (o : MemOp) (fn : MaintFn) (base : VA) (count : Nat) :
    State :=
  let hit := fun (e : Nat × Option L2Line) =>
    match e.2 with
    | some x => if x.attr.swm && l2KeyDie e.1 == g.die && l2KeyCtx e.1 == g.ctx &&
        inRange base.toNat count (l2KeyLine e.1) then some e.1 else none
    | none => none
  let ks := s.l2.filterMap hit
  -- lines that a sweep holds wait, and the instruction with them (R132, R139)
  let held := fun (k : Nat) => (s.slice (l2KeySlice k)).sweep || s.mem.xiNow.any (fun x =>
    match leafOf s g.ctx (BitVec.ofNat 52 (l2KeyLine k * 128)) with
    | .ok e => spanHolds x g.ctx (BitVec.ofNat 52 (l2KeyLine k * 128)) e
    | .error _ => true)
  if ks.any held then s else (ks.foldl (fun s k => s.maintainLine fn k) s).putOp gid { o with done := true }

/-! ### Hints (R244, R413) -/

/-- The leaf of a hinted line, or none where the hint is dropped. -/
def State.hintLeaf (s : State) (g : Group) (va : VA) : Option DWord :=
  if (issueCheck s g (s.scrbOf g) va 1).isSome || windowOf va == 11 then none
  else if isScratch va then some 0
  else
    match translate s g.ctx .read g.privileged va with
    | .ok e => some e
    | .error _ => none

/-- A dropped hint adds 1 to `hint_drop`, which saturates. -/
def Group.dropHint (g : Group) : Group :=
  { g with hintDrop := if g.hintDrop = 0xFFFFFFFF#32 then g.hintDrop else g.hintDrop + 1 }

/-- A request that nothing in flight stands for waits (R132, R413). -/
def State.ask (s : State) (r : SliceReq) : State := { s with asks := s.asks ++ [r] }

/-- The line of a hint is fetched, into an L1 with a lease or into its slice without; false where it must wait. -/
def State.fetchHint (s : State) (core gid : Nat) (c : Ctx) (va : VA) (leaf : DWord) (l1 : Bool) : State × Bool :=
  if l1 then
    match s.renew core gid c va leaf true with
    | .done s _ => (s, true)
    | .blocked s => (s, false)
  else
    match s.sliceRead core c va leaf with
    | .done s _ => (s, true)
    | .blocked s => (s, false)

/-- Fetch the line of a hint of a group, now or when it may be. -/
def State.hintLine (s : State) (g : Group) (gid : Nat) (va : VA) (leaf : DWord) (l1 : Bool) : State :=
  match s.fetchHint g.coreId gid g.ctx va leaf l1 with
  | (s, true) => s
  | (s, false) => s.ask (.fetch g.coreId gid g.ctx va g.privileged l1)

/-- PREF: fetch the line at the address into the core's L1 with a lease. -/
def prefetch (e : Env) (g : Group) (s : State) : Res :=
  let va := (g.spField e.sel e.f.a + (g.sB e.sel e.f).signExtend 64).setWidth 52
  match s.hintLeaf g va with
  | none => .ok (s.setGroup e.gid g.dropHint)
  | some leaf => .ok (if isScratch va then s else s.hintLine g e.gid va leaf true)

/-- The lines that RESID takes at most. -/
def residLines : Nat := 8192

/-- Fetch the lines from the k-th on into their slices: the state, and whether any was dropped. -/
def State.fetchLines (s : State) (g : Group) (gid first : Nat) (acc : Bool) : Nat → State × Bool
  | 0 => (s, acc)
  | n + 1 =>
    let va : VA := BitVec.ofNat 52 (first * 128)
    match s.hintLeaf g va with
    | none => s.fetchLines g gid (first + 1) true n
    | some leaf => (if isScratch va then s else s.hintLine g gid va leaf false).fetchLines g gid (first + 1) acc n

/-- RESID: fetch every line of [A, A + count) into the slices, at most 8,192 of them, without leases. -/
def residency (e : Env) (g : Group) (s : State) : Res :=
  let base := (vaOf (g.spField e.sel e.f.a)).toNat
  let count := (g.sB e.sel e.f).toNat
  let lines := if count = 0 then 0 else (base + count - 1) / 128 - base / 128 + 1
  let (s, dropped) := s.fetchLines g e.gid (base / 128) (decide (residLines < lines)) (min lines residLines)
  .ok (if dropped then s.setGroup e.gid g.dropHint else s)

/-- R413. -/
def execPref (f : Fields) (s : State) : Host.Outcome State Fault Refusal := issue Op.pref f prefetch s

/-- R413. -/
def execResid (f : Fields) (s : State) : Host.Outcome State Fault Refusal := issue Op.resid f residency s

end Sys2Proof.Machine
end

