-- ==== Sys2Proof/Machine/Registers.lean ====
section
/-! DEFINITION. System registers: what SYSR reads and SYSW writes, and the machine registers behind them (R98, R99, R120,
R214, R243, R258 to R261, R322, R323). -/

namespace Sys2Proof.Machine

open Sys2Proof

/-! ### Machine registers of the device (R98, R99) -/

/-- A context other than 0 exists. -/
def State.hasContexts (s : State) : Bool := s.contexts.any (fun e => e.1 != 0 && e.2.isSome)

/-- `mbound`: ignored while a context other than 0 exists, and above C. -/
def State.writeMbound (s : State) (w : Word) : State :=
  if s.hasContexts || decide (s.channelMiB < w.toNat) then s
  else { s with mem := { s.mem with mbound := w.toNat } }

/-- One half of `ctxtab`: ignored while a context other than 0 exists. -/
def State.writeCtxtab (s : State) (high : Bool) (w : Word) : State :=
  if s.hasContexts then s
  else
    let x := s.mem.ctxtab
    { s with mem := { s.mem with ctxtab := if high then pair64 w (lo32 x) else pair64 (hi32 x) w } }

/-- Start an invalidation, after the one in progress where there is one (R99). -/
def State.startInvalidation (s : State) (x : Span) : State :=
  if s.mem.xiBusy then { s with mem := { s.mem with xiWait := s.mem.xiWait ++ [x] } }
  else { s with mem := { s.mem with xiBusy := true, xiNow := some x } }.post .invalidationComplete

/-- What a word written to `xictl` names; none where the write is ignored. -/
def xiSpan (w : Word) (va : DWord) : Option Span :=
  let c : Ctx := w.setWidth 8
  if bits w 31 10 ≠ 0 then none
  else if bits w 9 8 = 0 then some (.page c (vaOf va))
  else if bits w 9 8 = 1 then some (.context c)
  else if bits w 9 8 = 2 then some .all
  else none

/-- `llctl`: a write sets `thr` for the writer's die (R214). -/
def State.writeLlctl (s : State) (die : Nat) (w : Word) : State :=
  s.setDie die { s.die die with llthr := w.extractLsb' 8 8 }

/-- `bankst` of a bank (R120). -/
def Bank.status (b : Bank) : Word :=
  let m := match b.mode with
    | .cache => 0
    | .scratch => 1
    | .fifo => 2
  let lent := b.mode == .scratch && b.clm.isNone
  BitVec.ofNat 32 (m * 2 ^ 30 + b.core % 2 * 2 ^ 29 + (if lent then 2 ^ 28 else 0) + (if b.clm.isSome then 2 ^ 27 else 0) +
    (if b.drn then 2 ^ 26 else 0) + b.fifo % 8 * 2 ^ 23)

/-! ### Reading (R259) -/

/-- The identity registers 0x00 to 0x0D (R243). -/
def Group.identity (g : Group) (n : Nat) : Word :=
  let nat := BitVec.ofNat 32
  match n with
  | 0 => nat g.die
  | 1 => nat g.core
  | 2 => nat g.quarter
  | 3 => nat (g.core / 2)
  | 4 => nat g.gidx
  | 5 => g.tidx.1
  | 6 => g.tidx.2.1
  | 7 => g.tidx.2.2
  | 8 => g.tdim.1
  | 9 => g.tdim.2.1
  | 10 => g.tdim.2.2
  | 11 => nat g.gcount
  | 12 => g.lid
  | _ => nat g.ctx.toNat

/-- `cnt` (R259). -/
def Group.counters (g : Group) : Word :=
  BitVec.ofNat 32 (g.cnt .ld + g.cnt .st * 2 ^ 8 + g.cnt .cp * 2 ^ 16 + g.cnt .xt * 2 ^ 24)

/-- `wstat` (R259). -/
def State.watchStatus (s : State) (g : Group) : Word :=
  let ws := s.watches g
  BitVec.ofNat 32 (ws.length % 32 + (ws.filter (fun w => w.state != .pending)).length % 32 * 2 ^ 8 +
    (ws.filter (fun w => w.state == .struck)).length % 32 * 2 ^ 16)

/-- `tlevel` (R260). -/
def Group.level (g : Group) : Word :=
  BitVec.ofNat 32 (g.lvl + (if g.pv then 4 else 0) + (if g.ts = .b then 8 else 0))

/-- Register +k of a trap bank. -/
def TrapBank.read (t : TrapBank) (k : Nat) : Word :=
  let lo := fun (x : VA) => x.setWidth 32
  let hi := fun (x : VA) => (x.extractLsb' 32 20).setWidth 32
  match k with
  | 0 => t.cause
  | 1 => lo t.ret
  | 2 => hi t.ret
  | 3 => maskWord t.mask 0
  | 4 => maskWord t.mask 1
  | 5 => maskWord t.mask 2
  | 6 => lo t.addr
  | 7 => hi t.addr
  | 8 => t.word
  | 9 => t.lit
  | 10 => t.mode
  | _ => t.info

/-- One half of an address or pair. -/
def halfOf (high : Bool) (x : DWord) : Word := if high then hi32 x else lo32 x

/-- The machine registers 0x60 to 0x6F. -/
def State.machineRead (s : State) (g : Group) (n : Nat) : Word :=
  let d := s.die g.die
  match n with
  | 0x60 => lo32 s.mem.ctxtab
  | 0x61 => hi32 s.mem.ctxtab
  | 0x62 => BitVec.ofNat 32 s.mem.mbound
  | 0x63 => lo32 s.mem.xiva
  | 0x64 => hi32 s.mem.xiva
  | 0x65 => 0
  | 0x66 => if s.mem.xiBusy then 1 else 0
  | 0x67 => d.banksel.setWidth 32
  | 0x68 => (s.bank (bankKey g.pairId d.banksel.toNat)).status
  | 0x69 => BitVec.ofNat 32 (d.llthr.toNat * 2 ^ 8 + (s.quarter (quarterKey g.coreId g.quarter)).limit)
  | 0x6A => lo32 (d.hvec.setWidth 64)
  | 0x6B => hi32 (d.hvec.setWidth 64)
  | 0x6C => lo32 (d.hsav.setWidth 64)
  | 0x6D => hi32 (d.hsav.setWidth 64)
  | 0x6E => lo32 d.cimtab
  | _ => hi32 d.cimtab

/-- The value SYSR gives for a register. -/
def State.sysRead (s : State) (g : Group) (n : Nat) : Word :=
  let half := fun (x : VA) => halfOf (n % 2 == 0) (x.setWidth 64)
  if n ≤ 0x0D then g.identity n
  else if n = 0x0E then BitVec.ofNat 32 s.clk
  else if n = 0x0F then g.clkHi.getD (BitVec.ofNat 32 (s.clk / 2 ^ 32))
  else if n = 0x10 then g.fxf.setWidth 32
  else if n = 0x11 then s.watchStatus g
  else if n = 0x12 then g.counters
  else if n ≤ 0x15 then maskWord g.live (n - 0x13)
  else if n = 0x16 then g.hintDrop
  else if n = 0x17 ∨ n = 0x18 then halfOf (n == 0x18) g.arg
  else if n = 0x20 then g.level
  else if n = 0x21 ∨ n = 0x22 then half g.tvecUser
  else if n = 0x23 then g.troute.setWidth 32
  else if 0x30 ≤ n ∧ n ≤ 0x3B then g.trap1.read (n - 0x30)
  else if 0x40 ≤ n ∧ n ≤ 0x4B then g.trap2.read (n - 0x40)
  else if n = 0x50 ∨ n = 0x51 then halfOf (n == 0x51) (g.tvecDev.setWidth 64)
  else if n = 0x52 ∨ n = 0x53 then halfOf (n == 0x53) (g.tsave.setWidth 64)
  else s.machineRead g n

/-! ### Writing (R258, R322) -/

/-- Replace one half of a pair. -/
def putHalf (high : Bool) (x : DWord) (w : Word) : DWord := if high then pair64 w (lo32 x) else pair64 (hi32 x) w

/-- Replace one half of an address. -/
def putVaHalf (high : Bool) (x : VA) (w : Word) : VA := (putHalf high (x.setWidth 64) w).setWidth 52

/-- The bits of `tinfo` that the reporting cause marks RW: `rpl` and `fab` of TRANSLATION and PROTECTION (R104). -/
def TrapBank.writable (t : TrapBank) : Word :=
  if t.cause == BitVec.ofNat 32 Cause.translation || t.cause == BitVec.ofNat 32 Cause.protection then 9 else 0

/-- Write register +k of a trap bank. Moving `tret` to another word turns replay off (R105). -/
def TrapBank.write (t : TrapBank) (full : Mask) (k : Nat) (w : Word) : TrapBank :=
  let moved := fun (r : VA) => { t with
    ret := r
    info := if t.replays && r != t.ret then t.info &&& ~~~1 else t.info }
  match k with
  | 1 => moved (putVaHalf false t.ret w)
  | 2 => moved (putVaHalf true t.ret w)
  | 3 | 4 | 5 => { t with mask := setMaskWord t.mask (k - 3) w &&& full }
  | 10 => { t with mode := w }
  | 11 => { t with info := (t.info &&& ~~~t.writable) ||| (w &&& t.writable) }
  | _ => t

/-- Write a register of the group, 0x10 to 0x53 (DEDUCED, log 19). -/
def Group.sysWrite (g : Group) (n : Nat) (w : Word) : Group :=
  if n = 0x10 then { g with fxf := w.setWidth 5 }
  else if n = 0x16 then { g with hintDrop := w }
  else if n = 0x21 ∨ n = 0x22 then { g with tvecUser := putVaHalf (n == 0x22) g.tvecUser w }
  else if n = 0x23 then { g with troute := w.setWidth 17 }
  else if 0x30 ≤ n ∧ n ≤ 0x3B then { g with trap1 := g.trap1.write g.full (n - 0x30) w }
  else if 0x40 ≤ n ∧ n ≤ 0x4B then { g with trap2 := g.trap2.write g.full (n - 0x40) w }
  else if n = 0x50 ∨ n = 0x51 then { g with tvecDev := putVaHalf (n == 0x51) g.tvecDev w }
  else if n = 0x52 ∨ n = 0x53 then { g with tsave := putVaHalf (n == 0x53) g.tsave w }
  else g

/-- Write a machine register of the device or of the group's die. -/
def State.machineWrite (s : State) (g : Group) (n : Nat) (w : Word) : State :=
  let d := s.die g.die
  match n with
  | 0x60 => s.writeCtxtab false w
  | 0x61 => s.writeCtxtab true w
  | 0x62 => s.writeMbound w
  | 0x63 => { s with mem := { s.mem with xiva := putHalf false s.mem.xiva w } }
  | 0x64 => { s with mem := { s.mem with xiva := putHalf true s.mem.xiva w } }
  | 0x65 =>
    match xiSpan w s.mem.xiva with
    | some x => s.startInvalidation x
    | none => s
  | 0x67 => s.setDie g.die { d with banksel := w.setWidth 6 }
  | 0x69 => s.writeLlctl g.die w
  | 0x6A => s.setDie g.die { d with hvec := putVaHalf false d.hvec w }
  | 0x6B => s.setDie g.die { d with hvec := putVaHalf true d.hvec w }
  | 0x6C => s.setDie g.die { d with hsav := putVaHalf false d.hsav w }
  | 0x6D => s.setDie g.die { d with hsav := putVaHalf true d.hsav w }
  | 0x6E => s.setDie g.die { d with cimtab := putHalf false d.cimtab w }
  | 0x6F => s.setDie g.die { d with cimtab := putHalf true d.cimtab w }
  | _ => s

end Sys2Proof.Machine
end

