-- ==== Sys2Proof/Machine/System.lean ====
section
/-! DEFINITION. System instructions, 0x00 to 0x11 (R319 to R336). -/

namespace Sys2Proof.Machine

open Sys2Proof

/-- R308. -/
def execUnassignedOpcode (w : Word) (s : State) : Host.Outcome State Fault Refusal := issueUnassigned w s

/-- R320: nothing changes. -/
def execNop (f : Fields) (s : State) : Host.Outcome State Fault Refusal := issueSimple Op.nop f (fun _ g => g) s

/-- R224, R321: `m` := B, with `gw` kept. -/
def execSetm (f : Fields) (s : State) : Host.Outcome State Fault Refusal :=
  issueSimple Op.setm f (fun sel g => { g with m := g.modeWord (g.sB sel f) }) s

/-- R321: D := `m`. -/
def execGetm (f : Fields) (s : State) : Host.Outcome State Fault Refusal :=
  issueSimple Op.getm f (fun sel g => g.sPut sel f.d (g.modeWord g.m)) s

/-- SYSR: a read of `clk_lo` latches `clk_hi` for the group's next read of it (R243). -/
def readSystem (e : Env) (g : Group) (s : State) : Res :=
  let n := e.f.a.toNat
  let w := s.sysRead g n
  let g := if n = 0x0E then { g with clkHi := some (BitVec.ofNat 32 (s.clk / 2 ^ 32)) }
    else if n = 0x0F then { g with clkHi := none } else g
  .ok (s.setGroup e.gid (g.sPut e.sel e.f.d w))

/-- SYSW: a machine register waits for the group's earlier accesses (R323), and `xictl` for an invalidation in progress
(R99). -/
def writeSystem (e : Env) (g : Group) (s : State) : Res :=
  let n := e.f.a.toNat
  let w := g.sB e.sel e.f
  if 0x60 ≤ n then
    if !g.undone.isEmpty || (n == 0x65 && s.mem.xiBusy && (xiSpan w s.mem.xiva).isSome) then .wait s
    else .ok (s.machineWrite g n w)
  else .ok (s.setGroup e.gid (g.sysWrite n w))

/-- R322. -/
def execSysr (f : Fields) (s : State) : Host.Outcome State Fault Refusal := issue Op.sysr f readSystem s

/-- R322. -/
def execSysw (f : Fields) (s : State) : Host.Outcome State Fault Refusal := issue Op.sysw f writeSystem s

/-- R324: the cause that k names. -/
def execTrap (f : Fields) (s : State) : Host.Outcome State Fault Refusal :=
  issueReg Op.trap f (fun sel g =>
    let k := f.a.toNat
    .trap (g.trapWhole sel (if k < 8 then Cause.trap + k else Cause.firmware + (k - 8)) 0) g) s

/-- R324: BREAKPOINT. -/
def execBrkpt (f : Fields) (s : State) : Host.Outcome State Fault Refusal :=
  issueReg Op.brkpt f (fun sel g => .trap (g.trapWhole sel Cause.breakpoint 0) g) s

/-- RTT: return from the level, free its watch entries, and let a late fault of the level returned to be taken (R252,
R253). -/
def returnFromTrap (e : Env) (g : Group) (s : State) : Res :=
  let s := s.freeLevel g
  let s := s.setGroup e.gid (g.wdTick s.clk).rtt
  .ok (if (SMap.get none g.late (g.lvl - 1)).isSome then s.postOnce (.lateFault e.gid) else s)

/-- R325. -/
def execRtt (f : Fields) (s : State) : Host.Outcome State Fault Refusal := issue Op.rtt f returnFromTrap s

/-- EXIT: the lanes of `en0` leave when the release is performed, and run nothing until then (R237, R326). -/
def exitLanes (e : Env) (g : Group) (s : State) : Res :=
  match s.uncheckedTrap g e.sel with
  | some t => .trap t s
  | none =>
    .ok (s.issueOp e.gid g (e.newOp g .exit .none { acq := false, rel := true, sc := false } (g.en0 e.sel)))

/-- R326. -/
def execExit (f : Fields) (s : State) : Host.Outcome State Fault Refusal := issue Op.exit f exitLanes s

/-- YIELD: the other active groups of the quarter that are ready come first (R327). -/
def yieldTurn (e : Env) (g : Group) (s : State) : Res :=
  let others := s.groupsWhere (fun x => x.die == g.die && x.core == g.core && x.quarter == g.quarter && x.place == .active &&
    x.slot != g.slot && s.ready x.gid x)
  .ok (s.setGroup e.gid { g with yielded := some (others.map (fun x => x.1)) })

/-- R327. -/
def execYield (f : Fields) (s : State) : Host.Outcome State Fault Refusal := issue Op.yield f yieldTurn s

/-- Every counter is at or below its threshold in a word (R317, R328). -/
def Group.below (g : Group) (w : Word) : Bool :=
  decide (g.cnt .ld ≤ bits w 5 0) && decide (g.cnt .st ≤ bits w 13 8) && decide (g.cnt .cp ≤ bits w 21 16) &&
  decide (g.cnt .xt ≤ bits w 29 24)

/-- R328. -/
def execWait (f : Fields) (s : State) : Host.Outcome State Fault Refusal :=
  issue Op.wait f (fun _ g s => if g.below f.lit then .ok s else .waitAll s) s

/-- The counter that WAITX names. -/
def counterOf (n : Nat) : CntClass := if n = 0 then .ld else if n = 1 then .st else if n = 2 then .cp else .xt

/-- R328. -/
def execWaitx (f : Fields) (s : State) : Host.Outcome State Fault Refusal :=
  issue Op.waitx f (fun e g s =>
    if g.cnt (counterOf f.a.toNat) ≤ min 63 (g.sField e.sel f.b).toNat then .ok s else .waitAll s) s

/-- FENCE: waits for every access before it, or only for the loads, then acts as an acquire (R155, R329). -/
def fence (e : Env) (g : Group) (s : State) : Res :=
  match s.uncheckedTrap g e.sel with
  | some t => .trap t s
  | none =>
    let open_ := if e.f.x then g.undone.any (fun o => o.kind.isLoad) else !g.undone.isEmpty
    if open_ then .waitAll s else .ok (s.expireAll g.coreId)

/-- R329. -/
def execFence (f : Fields) (s : State) : Host.Outcome State Fault Refusal := issue Op.fence f fence s

/-- HOMEQ: the scalar form answers for one pair, the vector form for each lane of `en0`. -/
def Group.homeQuery (g : Group) (sel : PcSel) (f : Fields) : Group :=
  if isS f.d then g.sPut sel f.d (homeWord g.die (vaOf (g.spField sel f.b)))
  else
    (g.vWrite f.d.toNat (lanesOf (g.en0 sel)) (fun l => homeWord g.die (vaOf (g.vPair f.b.toNat l)))).setTag f.d.toNat 1

/-- R330. -/
def execHomeq (f : Fields) (s : State) : Host.Outcome State Fault Refusal :=
  issueSimple Op.homeq f (fun sel g => g.homeQuery sel f) s

/-- LAUNCH: outside context 0 it traps; else the Cue Unit answers after the group's earlier accesses (R331). -/
def launchWord (e : Env) (g : Group) (s : State) : Res :=
  if g.ctx ≠ 0 then .trap (g.trapWhole e.sel Cause.launch 0) s
  else
    let d := e.f.d.toNat - 96
    .ok (s.issueOp e.gid g
      { e.newOp g (.launch (vaOf (g.spField e.sel e.f.b))) .none { acq := false, rel := true, sc := false } 1 with
        regs := [.s d, .s (d + 1)]
        dst := d })

/-- R331. -/
def execLaunch (f : Fields) (s : State) : Host.Outcome State Fault Refusal := issue Op.launch f launchWord s

/-- The message that a RECV takes: the oldest hardware message, else the oldest cue; its mark for lane 16; the queues
after it (R333). -/
def DieState.take (d : DieState) : Option (List Byte × Nat × DieState) :=
  match d.hw, d.cues with
  | m :: rest, _ => some (m, 2, { d with hw := rest })
  | [], m :: rest => some (m, 1, { d with cues := rest })
  | [], [] => none

/-- Write a message into the lanes of D: 64 bytes, the mark in lane 16, zeros elsewhere; the tag becomes RAW. -/
def Group.putMessage (g : Group) (k : Nat) (m : List Byte) (mark : Nat) : Group :=
  let val := fun l => if l < 16 then BitVec.ofNat 32 (field m (4 * l) 4) else if l = 16 then BitVec.ofNat 32 mark else 0
  (g.vWrite k (List.range g.lanes) val).setTag k 15

/-- The RECV that waits in a slot of the running level. -/
def Group.waiting (g : Group) (sel : PcSel) : Option RecvWait := (g.slotOf sel).kept.recv

/-- A RECV waits in a slot of the running level, or does no more. -/
def Group.setWaiting (g : Group) (sel : PcSel) (r : Option RecvWait) : Group :=
  let p := g.slotOf sel
  g.setSlot sel { p with kept := { p.kept with recv := r } }

/-- When the RECV at this word gives up: as it began to wait, or from now on. -/
def Group.deadline (g : Group) (e : Env) (clk : Nat) : Option Nat :=
  match (g.waiting e.sel).filter (fun r => r.pc == e.pc) with
  | some r => r.until_
  | none =>
    let b := g.sB e.sel e.f
    if b = 0xFFFFFFFF#32 then none else some (clk + b.toNat)

/-- RECV: outside context 0 it traps; else it takes a message, gives up, or waits (R333). -/
def receive (e : Env) (g : Group) (s : State) : Res :=
  if g.ctx ≠ 0 then .trap (g.trapWhole e.sel Cause.cue 0) s
  else
    let done := g.setWaiting e.sel none
    match (s.die g.die).take with
    | some (m, mark, d) =>
      let s := (s.setDie g.die d).setGroup e.gid (done.putMessage e.f.d.toNat m mark)
      .ok (if mark = 1 then s.expireAll g.coreId else s)
    | none =>
      let dl := g.deadline e s.clk
      if dl.any (fun t => decide (t ≤ s.clk)) then .ok (s.setGroup e.gid (done.putMessage e.f.d.toNat [] 0))
      else
        let r : RecvWait := { pc := e.pc, until_ := dl }
        .hold (s.setGroup e.gid (g.setWaiting e.sel (some r)))

/-- R333. -/
def execRecv (f : Fields) (s : State) : Host.Outcome State Fault Refusal := issue Op.recv f receive s

/-- The 64 bytes that lanes 0 to 15 of a register give. -/
def Group.message (g : Group) (k : Nat) : List Byte := (List.range 16).flatMap (fun l => bytesOfWord (g.vRead k l))

/-- The kinds of event that SEND may write (R335). -/
def sendable (kind : Nat) : Bool := (decide (0x02 ≤ kind) && decide (kind ≤ 0x0A)) || (decide (0x40 ≤ kind) && decide (kind ≤ 0x7F))

/-- SEND: a release that puts one event into the hold (R70, R335). -/
def sendEvent (e : Env) (g : Group) (s : State) : Res :=
  match s.uncheckedTrap g e.sel with
  | some t => .trap t s
  | none =>
    let m := g.message e.f.b.toNat
    if g.ctx ≠ 0 || !sendable (field m 4 1) then .trap (g.trapWhole e.sel Cause.cue 0) s
    else if !g.undone.isEmpty || !s.host.hasRoom then .wait s
    else
      let n := s.host.evtNext
      let s := s.setGroup e.gid (g.sPut e.sel e.f.d n)
      .ok (s.holdEvent (fun n => overlay (overlay m 0 (bytesOfWord n)) 5 [BitVec.ofNat 8 g.die, 0, 0]))

/-- R335. -/
def execSend (f : Fields) (s : State) : Host.Outcome State Fault Refusal := issue Op.send f sendEvent s

/-! ### BANKCFG (R121, R122, R336) -/

/-- The banks of a 64-bit mask, in ascending order. -/
def banksOf (m : DWord) : List Nat := (List.range 64).filter (fun n => m.getLsbD n)

/-- The configuration word is refused. -/
def bankWordBad (w : Word) : Bool := bits w 31 6 != 0 || bits w 5 4 == 3 || (bits w 5 4 != 2 && bits w 2 0 != 0)

/-- The mode that a configuration word names. -/
def bankModeOf (w : Word) : BankMode := if bits w 5 4 = 0 then .cache else if bits w 5 4 = 1 then .scratch else .fifo

/-- The lanes of a load of a core whose fill is outstanding for a bank: they have no copy that a load may use, and their line's copy
stands there or would be put there (R122). -/
def State.fillsInto (s : State) (bank : Nat) (g : Group) (o : MemOp) : Mask :=
  if o.done || !o.kind.isPlainLoad || !g.mayPerform o then 0
  else maskOf fun l => lane o.lanes l && !isScratch (o.addr l) && !s.l1Valid g.coreId g.ctx (o.addr l) &&
    (match s.l1Find g.coreId (tagFor g.ctx (o.addr l)) (o.addr l) with
      | some (n, _) => n == bank
      | none => s.victim g.coreId (o.addr l) == some bank)

/-- Every fill outstanding for a bank is deliver-only: those of loads in flight, of renewals of speculations, of PREF. -/
def State.deliverOnly (s : State) (pair bank : Nat) : State :=
  let mark := fun (g : Group) =>
    if g.coreId / 2 = pair then { g with ops := g.ops.map (fun o => { o with deliver := o.deliver ||| s.fillsInto bank g o }) } else g
  { s with
    groups := s.groups.map (fun (e : Nat × Option Group) => (e.1, e.2.map mark))
    specs := s.specs.map (fun (e : Nat × Option Group) => (e.1, e.2.map mark))
    asks := s.asks.map (fun r =>
      match r with
      | .fetch core gid c va priv l1 =>
        .fetch core gid c va priv (l1 && !(core / 2 == pair && s.victim core va == some bank))
      | _ => r) }

/-- Begin the drain of a bank into a new configuration. -/
def State.drainBank (s : State) (pair bank : Nat) (next : BankMode × Nat × Nat) : State :=
  let s := s.deliverOnly pair bank
  let s := s.setBank (bankKey pair bank) { s.bank (bankKey pair bank) with
    drn := true
    next := some next }
  if h : bank < 64 then s.post (.bankDrainComplete pair ⟨bank, h⟩) else s

/-- BANKCFG: BANK_CONFIG, or the drain of every bank of the mask; the group's later words wait for it. -/
def bankConfig (e : Env) (g : Group) (s : State) : Res :=
  let w := g.sB e.sel e.f
  let ns := banksOf (g.spField e.sel e.f.a)
  let trap := fun n => .trap (g.trapWhole e.sel Cause.bankConfig n) s
  if bankWordBad w || ns.isEmpty then trap (ns.headD 0)
  else
    match ns.find? (fun n => (s.bank (bankKey g.pairId n)).clm.isSome) with
    | some n => trap n
    | none =>
      let next := (bankModeOf w, bits w 3 3, bits w 2 0)
      let s := s.setGroup e.gid { g with draining := ns.map (bankKey g.pairId) }
      .ok (ns.foldl (fun s n => s.drainBank g.pairId n next) s)

/-- R336. -/
def execBankcfg (f : Fields) (s : State) : Host.Outcome State Fault Refusal := issue Op.bankcfg f bankConfig s

end Sys2Proof.Machine
end

