-- ==== Sys2Proof/Machine/TileMem.lean ====
section
/-! DEFINITION. TLD and TST, 0x9B and 0x9C (R377 to R380). -/

namespace Sys2Proof.Machine

open Sys2Proof

/-- The address of a lane's row: the scalar forms step by 128 bytes a lane (R377). -/
def Group.rowAddr (g : Group) (sel : PcSel) (f : Fields) (l : Nat) : VA :=
  let step := isS f.a && (f.l || isS f.b)
  g.ea sel f l + (if step then BitVec.ofNat 52 (128 * l) else 0)

/-- TLD: a load of a row per executing lane, counted by XT. -/
def tileLoad (e : Env) (g : Group) (s : State) : Res :=
  let d := e.f.d.toNat
  issueAccess e g s
    { kind := .tileLoad, cls := .xt, order := .relaxed, lanes := g.exec e.sel, addr := g.rowAddr e.sel e.f,
      size := 128, write := false, regs := [.t d], dst := d, words := 0, data := fun _ _ => 0 }
    (fun g => g.setSliceTags d g.ty)

/-- TST: a store of a row per executing lane, sampled at issue; it translates when it is performed. -/
def tileStore (e : Env) (g : Group) (s : State) : Res :=
  let d := e.f.d.toNat
  let m := g.exec e.sel
  let addr := g.rowAddr e.sel e.f
  if m = 0 then .ok s
  else if g.cntFull .xt then .wait s
  else
    match s.accessCheck g m addr 128 true with
    | some t => .trap t s
    | none =>
      .ok (s.issueOp e.gid g { e.newOp g .tileStore .xt .relaxed m with
        addrs := (lanesOf m).map (fun l => (l, (addr l).toNat))
        data := (lanesOf m).flatMap (fun l =>
          (List.range 32).map (fun k => (32 * l + k, (g.rowOf d l).extractLsb' (32 * k) 32))) })

/-- R378. -/
def execTld (f : Fields) (s : State) : Host.Outcome State Fault Refusal := issue Op.tld f tileLoad s

/-- R379. -/
def execTst (f : Fields) (s : State) : Host.Outcome State Fault Refusal := issue Op.tst f tileStore s

/-! ### Performing them -/

/-- One lane of a tile load. -/
def State.tileLoadStep (gid : Nat) (acc : State × MemOp) (l : Nat) : State × MemOp :=
  let (s, o) := acc
  match s.group? gid with
  | none => acc
  | some g =>
    match s.loadLane gid g o l 128 with
    | .blocked s => (s, o)
    | .done s x =>
      match s.group? gid with
      | none => (s, o)
      | some g =>
        let row : Row := BitVec.ofNat 1024 x
        let g' := g.setRow o.dst l row
        (s.setGroup gid (if g.rowOf o.dst l = row then g' else g'.restart o), o.drop l)

/-- Perform what can be performed of a tile load. -/
def State.performTileLoad (s : State) (gid : Nat) (o : MemOp) : State :=
  let (s, o) := (lanesOf o.lanes).foldl (State.tileLoadStep gid) (s, o)
  s.putOp gid { o with done := o.lanes == 0 }

/-- The row that a lane of a tile store holds. -/
def MemOp.row (o : MemOp) (l : Nat) : Nat :=
  (List.range 32).foldl (fun x k => x + (SMap.get 0 o.data (32 * l + k)).toNat * 2 ^ (32 * k)) 0

/-- What is still to do of a tile store: the state, the operation, the lanes refused at an engine-owned line, the lanes
that faulted with their causes. -/
structure TileStoring where
  s     : State
  o     : MemOp
  owned : List Nat
  bad   : List (Nat × Nat)

/-- One lane of a tile store: translated, then stored. -/
def TileStoring.step (gid : Nat) (a : TileStoring) (l : Nat) : TileStoring :=
  match a.s.group? gid with
  | none => { a with o := a.o.drop l }
  | some g =>
    let va := a.o.addr l
    match a.s.lateChannel g a.o true va 128 with
    | .error c => { a with
        o := a.o.drop l
        bad := a.bad ++ [(l, c)] }
    | .ok e =>
      let bs := storeBytes 0 128 (a.o.row l)
      if isScratch va then
        match a.s.team? g.teamId with
        | some t => { a with
            s := a.s.setScratch t (offsetOf va) bs
            o := a.o.drop l }
        | none => { a with o := a.o.drop l }
      else if windowOf va = 9 &&
          (a.s.toldHost gid a.o (hostAddr va e) || a.s.hostLocked (.op gid a.o.id) (hostAddr (lineOf va) e)) then a
      else
        match a.s.storeLine g.coreId g.ctx va e bs with
        | .blocked s => { a with s := s }
        | .done s .performed => { a with
            s := s
            o := a.o.drop l }
        | .done s .refused => { a with
            s := s
            o := a.o.drop l
            owned := a.owned ++ [l] }
        | .done s .sent => { a with
            s := s.tellHost gid a.o va e bs
            o := { a.o with ptes := SMap.set 0 a.o.ptes l e.toNat } }

/-- Perform what can be performed of a tile store; faults are taken late, as ASYNC_FAULT with class 2, a refusal at an
engine-owned line as ARENA with class 4 (R173, R252, R379). -/
def State.performTileStore (s : State) (gid : Nat) (o : MemOp) : State :=
  let a := (lanesOf o.lanes).foldl (TileStoring.step gid) { s := s, o := o, owned := [], bad := [] }
  let s := match a.bad with
    | (l, c) :: _ => a.s.lateFail gid o Cause.asyncFault c 2 (maskOfList a.bad) (o.addr l)
    | [] => a.s
  (s.lateOwned gid o a.owned).putOp gid { a.o with done := a.o.lanes == 0 }

end Sys2Proof.Machine
end

