-- ==== Sys2Proof/Machine/Completions.lean ====
section
/-! DEFINITION. Events by which operations in flight complete, and those of barriers, watches, traps and slots (R32, R122,
R132, R148 to R164, R236, R237, R241, R252, R256, R401, R409). -/

namespace Sys2Proof.Machine

open Sys2Proof

/-- Run the first operation of a group that a test on kinds accepts and that may be performed. -/
def State.runOp (s : State) (gid : Nat) (p : OpKind → Bool) (h : State → Group → MemOp → State) : State :=
  match s.group? gid with
  | none => s
  | some g =>
    match g.undone.find? (fun o => p o.kind && g.mayPerform o) with
    | some o => h s g o
    | none => s

/-- Loads: the oldest that may be performed is. -/
def State.replyLoads (s : State) (gid : Nat) : State :=
  s.runOp gid OpKind.isPlainLoad (fun s _ o =>
    match o.kind with
    | .tileLoad => s.performTileLoad gid o
    | _ => s.performLoad gid o)

/-- R148, R241. -/
def execLoadReply (gid : Nat) (s : State) : Host.Outcome State Fault Refusal := .next (s.replyLoads gid)

/-- Stores, reductions, tile stores and maintenance: the oldest that may be performed is; none while the group speculates
(R133). -/
def State.replyStores (s : State) (gid : Nat) : State :=
  if s.speculates gid then s
  else
    let stores := fun (k : OpKind) => match k with
      | .store _ | .reduce _ _ | .tileStore | .maintain _ _ _ => true
      | _ => false
    s.runOp gid stores (fun s g o =>
      match o.kind with
      | .store n => s.performStore gid o n
      | .reduce fn wide => s.performReduce gid g o fn wide
      | .maintain fn base count => s.performMaintain gid g o fn base count
      | _ => s.performTileStore gid o)

/-- R148, R150, R241. -/
def execStorePerformed (gid : Nat) (s : State) : Host.Outcome State Fault Refusal := .next (s.replyStores gid)

/-- R159, R403. -/
def execAtomicReply (gid : Nat) (s : State) : Host.Outcome State Fault Refusal :=
  let atomics := fun (k : OpKind) => match k with
    | .atomic _ _ => true
    | _ => false
  .next (s.runOp gid atomics (fun s g o =>
    match o.kind with
    | .atomic fn wide => s.performAtomic gid g o fn wide true
    | _ => s))

/-- Copies: the oldest that may go on does. -/
def State.runCopies (s : State) (gid : Nat) : State :=
  let copies := fun (k : OpKind) => match k with
    | .copy _ _ _ _ _ _ => true
    | _ => false
  s.runOp gid copies (fun s _ o =>
    match o.kind with
    | .copy dst src rows n dp sp => s.performCopy gid o { dst := dst, src := src, rows := rows, bytes := n, dpitch := dp, spitch := sp }
    | _ => s)

/-- R160. -/
def execCopyComplete (gid : Nat) (s : State) : Host.Outcome State Fault Refusal := .next (s.runCopies gid)

/-- R371: the matrix unit is free, and its results are released. -/
def execTileUnitDone (gid : Nat) (s : State) : Host.Outcome State Fault Refusal :=
  .next (let k := gid / 16
    let s := if (s.quarter k).unit.any (fun w => w.gid == gid) then s.setQuarter k { s.quarter k with unit := none } else s
    s.unstall (fun _ g => quarterKey g.coreId g.quarter == k))

/-- R401: a ring has room or entries, and the group that waited for it may issue. -/
def execFifoReady (gid : Nat) (s : State) : Host.Outcome State Fault Refusal :=
  .next (match s.group? gid with
    | some g => s.setGroup gid (g.unstall s.clk)
    | none => s)

/-- R133. -/
def execRenewalReply (gid : Nat) (s : State) : Host.Outcome State Fault Refusal := .next (s.resolveSpec gid)

/-! ### Watch entries (R162) -/

/-- The state in which the granting slice resolves an entry. -/
def State.resolved (s : State) (core : Nat) (w : Watch) : WatchState :=
  let va : VA := BitVec.ofNat 52 (w.line * 128)
  let k := l2Key (core / 64) w.ctx va
  match s.l2At k with
  | none => .struck
  | some x =>
    if homeDie va ≠ core / 64 then (if x.st = .i then .struck else .confirmed)
    else if (s.slice (l2KeySlice k)).base + x.wts = w.wts then .confirmed
    else .struck

/-- Resolve one entry of a core: the one named, or the first that is pending where that one is not. -/
def State.resolveWatch (s : State) (core entry : Nat) : State :=
  let k := s.core core
  let pending := fun (n : Nat) => (k.uwt[n]?).any (fun w => w.state == .pending)
  let n := if pending entry then some entry else (List.range k.uwt.length).find? pending
  match n with
  | none => s
  | some n =>
    let s := s.setCore core { k with uwt := k.uwt.zipIdx.map (fun e =>
      if e.2 = n then { e.1 with state := s.resolved core e.1 } else e.1) }
    s.unstall (fun gid _ => (k.uwt[n]?).any (fun w => w.gid == gid))

/-- R162. -/
def execUwtResolution (core entry : Nat) (s : State) : Host.Outcome State Fault Refusal :=
  .next (s.resolveWatch core entry)

/-! ### Sequencers (R157) -/

/-- Operations of all groups, with their groups. -/
def State.allOps (s : State) : List (Nat × Group × MemOp) :=
  (s.groupsWhere (fun _ => true)).flatMap (fun e => e.2.undone.map (fun o => (e.1, e.2, o)))

/-- Count a ticket at its sequencer. -/
def State.countTicket (s : State) (sc : TicketScope) : State :=
  match sc with
  | .die d =>
    let k := sliceKeyOf d.val 63
    s.setSlice k { s.slice k with ticket := (s.slice k).ticket + 1 }
  | .pkg => { s with pkgTick := s.pkgTick + 1 }
  | .sys => { s with fab := { s.fab with ticket := s.fab.ticket + 1 } }
  | .pair p => { s with pairTick := SMap.set 0 s.pairTick p (SMap.get 0 s.pairTick p + 1) }

/-- Grant the next ticket of a sequencer, unless the operation that holds the last one is not performed: to the first
operation that waits. -/
def State.grantTicket (s : State) (sc : TicketScope) : State :=
  let ops := s.allOps.filter (fun e => e.2.2.order.sc)
  let holds := fun (x : TicketScope) => ops.any (fun e => e.2.2.ticket && (scopesOf e.2.1 e.2.2).contains x)
  let next := ops.find? (fun e => !e.2.2.ticket && e.2.1.mayPerform e.2.2 && (scopesOf e.2.1 e.2.2).contains sc &&
    !(scopesOf e.2.1 e.2.2).any holds)
  match next with
  | none => s
  | some (gid, g, o) =>
    let s := (scopesOf g o).foldl State.countTicket s
    (s.setGroup gid (g.setOp { o with ticket := true })).wake gid

/-- R157. -/
def execTicketGrant (scope : TicketScope) (s : State) : Host.Outcome State Fault Refusal := .next (s.grantTicket scope)

/-! ### Answers over the IHL (R32, R148) -/

/-- The host's answer to the oldest read that waits for one. A reply carries the host's line; of a refused read the spec
gives no value (DESIGN CHOICE, log 10). -/
def State.hostAnswers (s : State) (refused : Bool) (line : Line) : State :=
  match s.host.inFlight.find? (fun r => !r.write && r.reply.isNone) with
  | none => s
  | some r =>
    let (line, s) := if refused then s.free else (line, s)
    let answered := { r with reply := some (line, refused) }
    let s := { s with host := { s.host with inFlight := s.host.inFlight.map (fun x => if x == r then answered else x) } }
    let s := if refused then s
      else s.setHostBytes r.addr ((List.range 128).map (fun k => (k, byteOf line k)))
    -- what waited for the line to come back goes on
    s.wakeAll.postOnce .eventWrite

/-- R32. -/
def execIhlReadReply (refused : Bool) (line : Line) (s : State) : Host.Outcome State Fault Refusal :=
  .next (s.hostAnswers refused line)

/-- An operation's write at a host address is acknowledged: its lane, or its chunk, is performed. -/
def State.hostWritten (s : State) (gid id addr : Nat) : State :=
  match s.group? gid with
  | none => s
  | some g =>
    match g.undone.find? (fun o => o.id == id) with
    | none => s
    | some o =>
      match o.kind with
      | .copy _ _ _ _ _ _ => (s.putOp gid { o with dst := o.dst + 1 }).postOnce (.copyComplete gid)
      | _ =>
        match (lanesOf o.lanes).find? (fun l => windowOf (o.addr l) == 9 && hostAddr (o.addr l) (o.pte l) == addr) with
        | none => s
        | some l =>
          let o' := o.drop l
          (s.putOp gid { o' with done := o'.lanes == 0 }).wake gid

/-- The slice of a store's own die takes an acknowledged write to a line of window 9 (R128, R129); one of no group, or of a group that
is gone, touches no core's time. -/
def State.ackStored (s : State) (r : IhlAccess) : Acc Unit :=
  let bs := r.data.map (fun e => (r.va.toNat % 128 + e.1, e.2))
  match r.owner with
  | .increment _ => .done s ()
  | .op gid _ =>
    match s.group? gid with
    | none => .done s ()
    | some g => s.hostStored g.coreId g.ctx r.va r.leaf bs

/-- The read of an atomic whose write has been acknowledged says so; else the write of an operation is performed. -/
def State.ackOwner (s : State) (r : IhlAccess) : State :=
  let line := r.addr / 128 * 128
  match (s.hostAsked r.owner line).bind (fun q => if q.rmw.isSome then some q else none) with
  | some q =>
    let s := { s with host := { s.host with inFlight := s.host.inFlight.map (fun x => if x == q then { q with rmw := some true } else x) } }
    (match r.owner with
      | .op gid _ => s.wake gid
      | .increment lid => s.postOnce (.completionIncrement lid))
  | none =>
    match r.owner with
    | .op gid id => s.hostWritten gid id r.addr
    | .increment _ => s

/-- The host's acknowledgement of the oldest write: its bytes stand in host memory, unless it was refused; the slice that takes it may
have to sweep first. -/
def State.hostAcks (s : State) (refused : Bool) : State :=
  match s.host.inFlight.find? (fun r => r.write) with
  | none => s
  | some r =>
    match (if refused then .done s () else s.ackStored r) with
    | .blocked s => s.post (.ihlWriteAck refused)
    | .done s _ =>
      let s := { s with host := { s.host with inFlight := s.host.inFlight.erase r } }
      let s := if refused then s else s.setHostBytes r.addr r.data
      (s.ackOwner r).wakeAll.postOnce .eventWrite

/-- R32. -/
def execIhlWriteAck (refused : Bool) (s : State) : Host.Outcome State Fault Refusal := .next (s.hostAcks refused)

/-! ### Barriers and the end of a group (R237, R409) -/

/-- A complete phase inverts and clears every arrived bit. -/
def State.endPhase (s : State) (tid k : Nat) : State :=
  match s.team? tid with
  | none => s
  | some t =>
    if t.complete k then
      let bit : BitVec 16 := (1#16) <<< k
      let arrived := (List.range t.groups.length).foldl
        (fun m i => SMap.set 0 m i (SMap.get 0 t.arrived i &&& ~~~bit)) t.arrived
      (s.setTeam tid { t with
        ph := t.ph ^^^ bit
        arrived := arrived }).wakeStalled tid
    else s

/-- R409. -/
def execBarrierPhaseComplete (team : Nat) (k : Fin 16) (s : State) : Host.Outcome State Fault Refusal :=
  .next (s.endPhase team k.val)

/-- A group ends: its slot is free, its barriers forget it, and the team may end (R201, R237, R409). -/
def State.endGroup (s : State) (gid : Nat) : State :=
  match s.group? gid with
  | none => s
  | some g =>
    if g.live = 0 && g.undone.isEmpty then
      let s := { s with cur := s.curWithout gid }
      let s := (s.setCore g.coreId ((s.core g.coreId).freeWatches gid none)).removeGroup gid
      match s.team? g.teamId with
      | none => s
      | some t =>
        let t' := { t with
          ended := t.ended ++ [g.gidx]
          arrived := SMap.set 0 t.arrived g.gidx 0 }
        let s := s.setTeam g.teamId t'
        if t'.counting.isEmpty then s.post (.teamEnd g.teamId) else s.postPhases g.teamId
    else s

/-- R237. -/
def execGroupEnd (gid : Nat) (s : State) : Host.Outcome State Fault Refusal := .next (s.endGroup gid)

/-! ### Traps that come from outside a word (R252, R256) -/

/-- The trap of a late-fault record. -/
def LateRec.info (r : LateRec) : TrapInfo :=
  { cause := r.cause, mask := r.mask, addr := r.addr,
    info := BitVec.ofNat 32 (2 ^ 31 + (if r.more then 2 ^ 30 else 0) + r.cls % 8 * 2 ^ 27 + r.inner % 64) }

/-- Take the late fault recorded for the group's level, before any run (R252). -/
def State.takeLate (s : State) (gid : Nat) : State :=
  match s.group? gid with
  | none => s
  | some g =>
    match SMap.get none g.late g.lvl, g.pick with
    | some r, some sel =>
      (s.setGroup gid { g with late := SMap.set none g.late g.lvl none }).takeTrap gid sel r.info (g.slotOf sel).pc r.word r.lit
    | _, _ => s

/-- R252: taken at once when the group is between runs; else its next arbitration takes it. -/
def execLateFault (gid : Nat) (s : State) : Host.Outcome State Fault Refusal :=
  .next (match s.group? gid with
    | some g => if s.issuable gid g && !(s.cur.any (fun c => c.gid == gid)) then s.takeLate gid else s
    | none => s)

/-- R256: WATCHDOG for the running level whose count has run out. -/
def State.takeWatchdog (s : State) (gid level : Nat) : State :=
  match s.group? gid with
  | none => s
  | some g =>
    match g.watchdogDue s.clk with
    | some l =>
      if l.val = level then
        let sel := match s.cur with
          | some c => if c.gid = gid then c.sel else g.pick.getD g.nextSel
          | none => g.pick.getD g.nextSel
        s.takeTrap gid sel (g.trapWhole sel Cause.watchdog level) (g.slotOf sel).pc 0 0
      else s
    | none => s

/-- R256. -/
def execWatchdogExpiry (gid : Nat) (level : Fin 3) (s : State) : Host.Outcome State Fault Refusal :=
  .next (s.takeWatchdog gid level.val)

/-! ### Spinning (R236) -/

/-- Demote a slot that has spun beside a sibling that can issue; a demotion of the sibling ends. -/
def Group.demote (g : Group) (sel : PcSel) : Group :=
  let p := g.slotOf sel
  let o := g.slotOf (otherSel sel)
  if decide (64 ≤ p.back) && p.status == .ready && o.status != .empty then
    if o.status = .joining then g.setSlot sel { p with back := 0 }
    else (g.setSlot (otherSel sel) o.undemote).setSlot sel { p with
      status := .demoted
      sib := 0 }
  else g

/-- R236. -/
def execSpinDemotion (gid : Nat) (slot : PcSel) (s : State) : Host.Outcome State Fault Refusal :=
  .next (match s.group? gid with
    | some g =>
      let g' := g.demote slot
      let here := s.cur.any (fun c => c.gid == gid && c.sel == slot) && (g'.slotOf slot).status == .demoted
      { s with cur := if here then none else s.cur }.setGroup gid g'
    | none => s)

/-- R236. -/
def execDemotionEnd (gid : Nat) (slot : PcSel) (s : State) : Host.Outcome State Fault Refusal :=
  .next (match s.group? gid with
    | some g => s.setGroup gid (g.setSlot slot (g.slotOf slot).undemote)
    | none => s)

/-- A RECV that waits at the slot gives up now. -/
def PcSlot.giveUp (p : PcSlot) (clk : Nat) : PcSlot :=
  { p with kept := { p.kept with recv := p.kept.recv.map (fun r => { r with until_ := r.until_.map (min clk) }) } }

/-- R333: a RECV that waits gives up. -/
def execRecvTimeout (gid : Nat) (s : State) : Host.Outcome State Fault Refusal :=
  .next (match s.group? gid with
    | some g =>
      s.setGroup gid ({ g with
        slotA := g.slotA.giveUp s.clk
        slotB := g.slotB.giveUp s.clk }.unstall s.clk)
    | none => s)

/-! ### Banks and slices (R122, R132) -/

/-- A core's L1 without the lines of one bank. -/
def Core.clearBank (k : Core) (bank : Nat) : Core := { k with l1 := k.l1.filter (fun e => e.1 % 64 != bank) }

/-- Invalidate every line of a bank and zero its bytes. -/
def State.clearBank (s : State) (pair bank : Nat) : State :=
  let s := s.setCore (2 * pair) ((s.core (2 * pair)).clearBank bank)
  let s := s.setCore (2 * pair + 1) ((s.core (2 * pair + 1)).clearBank bank)
  { s with bankMem := s.bankMem.filter (fun e => e.1 / 16384 != bankKey pair bank) }

/-- The end of a drain: the bank takes its new configuration. -/
def State.endDrain (s : State) (pair bank : Nat) : State :=
  let k := bankKey pair bank
  let b := s.bank k
  if b.drn then
    let b' := match b.next with
      | some (m, core, fifo) => { b with
          mode := m
          core := core
          fifo := fifo
          drn := false
          next := none }
      | none => { b with
          drn := false
          next := none }
    ((s.clearBank pair bank).setBank k b').unstall (fun _ g => g.draining.contains k)
  else s

/-- R122. -/
def execBankDrainComplete (pair : Nat) (bank : Fin 64) (s : State) : Host.Outcome State Fault Refusal :=
  .next (s.endDrain pair bank.val)

/-- The lines of a slice take offset zero. -/
def State.zeroOffsets (s : State) (sk : Nat) : State :=
  { s with l2 := s.l2.map (fun (e : Nat × Option L2Line) =>
      if l2KeySlice e.1 = sk then (e.1, e.2.map (fun x => { x with
        wts := 0
        rts := 0 })) else e) }

/-- The end of a rebase: the base rises above every timestamp of the slice (R132). -/
def State.rebase (s : State) (sk : Nat) : State :=
  let sl := s.slice sk
  if sl.sweep then
    let top := s.l2.foldl (fun m (e : Nat × Option L2Line) =>
      if l2KeySlice e.1 = sk then (match e.2 with
        | some x => max m (max x.wts x.rts)
        | none => m) else m) sl.mrts
    let s := (s.zeroOffsets sk).setSlice sk { sl with
      base := sl.base + top + 1
      mrts := 0
      sweep := false }
    s.wakeAll
  else s

/-- R132. -/
def execRebaseComplete (die : Fin 8) (slice : Fin 64) (s : State) : Host.Outcome State Fault Refusal :=
  .next (s.rebase (sliceKeyOf die.val slice.val))

/-- All slices of a die sweep together, and every base and core time of the die becomes zero (R132). -/
def State.sweepDie (s : State) (die : Nat) : State :=
  if s.cores.any (fun (e : Nat × Core) => e.1 / 64 == die && decide (2 ^ 63 ≤ e.2.ct)) then
    let s := s.leaseEnd die (fun _ => true)
    let s := s.strikeAll (fun _ => true)
    let s := (List.range 64).foldl (fun s n =>
      let sk := sliceKeyOf die n
      (s.zeroOffsets sk).setSlice sk { s.slice sk with
        base := 0
        mrts := 0
        sweep := false }) s
    { s with cores := s.cores.map (fun (e : Nat × Core) => if e.1 / 64 = die then (e.1, { e.2 with ct := 0 }) else e) }.wakeAll
  else s

/-- R132. -/
def execCtLimitSweep (die : Fin 8) (s : State) : Host.Outcome State Fault Refusal := .next (s.sweepDie die.val)

end Sys2Proof.Machine
end

