-- ==== Sys2Proof/Machine/Control.lean ====
section
/-! DEFINITION. Control instructions, 0x20 to 0x2E (R231 to R235, R337 to R341). They move the PC of the executing slot. -/

namespace Sys2Proof.Machine

open Sys2Proof

/-- A control word: its effect on the group, given the slot, the word's address and the group with its PC at the next
word. -/
def issueControl (op : Op) (f : Fields) (body : PcSel → VA → Group → GRes) (s : State) :
    Host.Outcome State Fault Refusal :=
  issue op f (fun e g s =>
    match body e.sel e.pc g with
    | .done g' => .ok (s.setGroup e.gid g')
    | .trap t g' => .trap t (s.setGroup e.gid g')
    | .wait => .wait s) s

/-- The target of a transfer: PC + 4 × literal (R304). -/
def targetOf (pc : VA) (lit : Word) : VA := pc + 4 * lit.signExtend 52

/-! ### Structured control (R231, R232) -/

/-- The hold count of a lane. -/
def Group.hold (g : Group) (l : Nat) : Nat := SMap.get 0 g.hc l

/-- Map the hold counts of the lanes in a mask. -/
def Group.mapHold (g : Group) (m : Mask) (h : Nat → Nat → Nat) : Group :=
  { g with hc := (lanesOf m).foldl (fun hc l => SMap.set 0 hc l (h l (g.hold l))) g.hc }

/-- Lanes of a mask whose hold count a test accepts. -/
def Group.holding (g : Group) (m : Mask) (p : Nat → Bool) : Mask := maskOf fun l => lane m l && p (g.hold l)

/-- NEST_OVERFLOW for enabled lanes that stand at 126 (R232). -/
def Group.nest (g : Group) (sel : PcSel) (k : Group → Group) : GRes :=
  let beyond := g.holding (g.slotOf sel).enable (fun n => decide (126 ≤ n))
  if beyond = 0 then .done (k g) else .trap { cause := Cause.nestOverflow, mask := beyond } g

/-- BRK and CONT: the lanes that take them hold for n + 1 levels, with `hb` set or clear. -/
def Group.breakOut (g : Group) (sel : PcSel) (f : Fields) (hb : Bool) : Group :=
  let m := g.en0 sel &&& g.pRead f.a.toNat
  let g' := g.mapHold m (fun _ _ => f.d.toNat + 1)
  { g' with hb := if hb then g'.hb ||| m else g'.hb &&& ~~~m }

/-- ENDL: lanes that continued return; the loop goes on while some lane runs, else the held lanes drop one level. -/
def Group.endLoop (g : Group) (sel : PcSel) (target : VA) : Group :=
  let en := (g.slotOf sel).enable
  let g1 := g.mapHold en (fun l n => if n = 1 && !lane g.hb l then 0 else n)
  if g1.holding en (· == 0) ≠ 0 then g1.setPc sel target
  else
    let g2 := g1.mapHold en (fun _ n => n - 1)
    { g2 with hb := g2.hb &&& ~~~(g2.holding en (· == 0)) }

/-! ### Two slots (R233, R234) -/

/-- SPLIT: the lanes of M leave for the other slot, whose occupant goes onto the split stack (DEDUCED, log 18). -/
def Group.splitOff (g : Group) (sel : PcSel) (m : Mask) (target : VA) : GRes :=
  let p := g.slotOf sel
  let o := g.slotOf (otherSel sel)
  let free := o.status == .empty
  if m = 0 then .done g
  else if m = p.owned then .done (g.setPc sel target)
  else if !free && decide (64 ≤ g.stack.length) then .trap { cause := Cause.splitOverflow, mask := g.en0 sel } g
  else
    let g := if free then g
      else { g with stack := { pc := o.pc, owned := o.owned, enable := o.enable, kept := o.kept } :: g.stack }
    let g := g.setSlot sel { p with
      owned := p.owned &&& ~~~m
      enable := p.enable &&& ~~~m }
    .done (g.setSlot (otherSel sel) { pc := target, owned := m, enable := m, status := .ready, back := 0, sib := 0 })

/-- JOIN at `pc` (R234): pass alone, merge with a sibling that waits here, or wait; of two that wait at different
addresses the lower passes (DEDUCED, log 18). -/
def Group.join (g : Group) (sel : PcSel) (pc : VA) : Group :=
  let p := g.slotOf sel
  let o := g.slotOf (otherSel sel)
  match o.status with
  | .empty => g
  | .joining =>
    if o.pc = pc then
      let a := g.slotA
      let g := g.setSlot .a { a with
        pc := pc + 4
        owned := p.owned ||| o.owned
        enable := p.enable ||| o.enable
        status := .ready }
      g.slotEmptied .b
    else if pc.toNat < o.pc.toNat then g
    else
      let g := g.setSlot sel { p with
        pc := pc
        status := .joining }
      g.setSlot (otherSel sel) { o with
        pc := o.pc + 4
        status := .ready }
  | _ => g.setSlot sel { p with
      pc := pc
      status := .joining }

/-- R339. -/
def execBra (f : Fields) (s : State) : Host.Outcome State Fault Refusal :=
  issueControl Op.bra f (fun sel pc g => .done (g.setPc sel (targetOf pc f.lit))) s

/-- R339: taken when A is zero. -/
def execBrz (f : Fields) (s : State) : Host.Outcome State Fault Refusal :=
  issueControl Op.brz f (fun sel pc g => .done (if g.sField sel f.a = 0 then g.setPc sel (targetOf pc f.lit) else g)) s

/-- R339: taken when A is not zero. -/
def execBrnz (f : Fields) (s : State) : Host.Outcome State Fault Refusal :=
  issueControl Op.brnz f (fun sel pc g => .done (if g.sField sel f.a ≠ 0 then g.setPc sel (targetOf pc f.lit) else g)) s

/-- R339: D takes the address of the next word. -/
def execCall (f : Fields) (s : State) : Host.Outcome State Fault Refusal :=
  issueControl Op.call f (fun sel pc g => .done ((g.spPut sel f.d ((pc + 8).setWidth 64)).setPc sel (targetOf pc f.lit))) s

/-- R339: to the pair in A. -/
def execRet (f : Fields) (s : State) : Host.Outcome State Fault Refusal :=
  issueControl Op.ret f (fun sel _ g => .done (g.setPc sel (vaOf (g.spField sel f.a)))) s

/-- R339: PC + 4 × A. -/
def execJmpr (f : Fields) (s : State) : Host.Outcome State Fault Refusal :=
  issueControl Op.jmpr f (fun sel pc g => .done (g.setPc sel (targetOf pc (g.sField sel f.a)))) s

/-- R231, R232: IF. -/
def execCondIf (f : Fields) (s : State) : Host.Outcome State Fault Refusal :=
  issueControl Op.condIf f (fun sel _ g => g.nest sel (fun g => g.mapHold (g.slotOf sel).enable (fun l n =>
    if 0 < n then n + 1 else if lane (g.pRead f.a.toNat) l then 0 else 1))) s

/-- R231: ELSE. -/
def execCondElse (f : Fields) (s : State) : Host.Outcome State Fault Refusal :=
  issueControl Op.condElse f (fun sel _ g => .done (g.mapHold (g.slotOf sel).enable (fun _ n => if n = 1 then 0 else if n = 0 then 1 else n))) s

/-- R231: ENDIF. -/
def execCondEndif (f : Fields) (s : State) : Host.Outcome State Fault Refusal :=
  issueControl Op.condEndif f (fun sel _ g => .done (g.mapHold (g.slotOf sel).enable (fun _ n => n - 1))) s

/-- R231, R232: LOOP. -/
def execLoop (f : Fields) (s : State) : Host.Outcome State Fault Refusal :=
  issueControl Op.loop f (fun sel _ g => g.nest sel (fun g => g.mapHold (g.slotOf sel).enable (fun _ n => if 0 < n then n + 1 else 0))) s

/-- R231: BRK. -/
def execBrk (f : Fields) (s : State) : Host.Outcome State Fault Refusal :=
  issueControl Op.brk f (fun sel _ g => .done (g.breakOut sel f true)) s

/-- R231: CONT. -/
def execCont (f : Fields) (s : State) : Host.Outcome State Fault Refusal :=
  issueControl Op.cont f (fun sel _ g => .done (g.breakOut sel f false)) s

/-- R231: ENDL. -/
def execEndl (f : Fields) (s : State) : Host.Outcome State Fault Refusal :=
  issueControl Op.endl f (fun sel pc g => .done (g.endLoop sel (targetOf pc f.lit))) s

/-- R233: SPLIT. -/
def execSplit (f : Fields) (s : State) : Host.Outcome State Fault Refusal :=
  issueControl Op.split f (fun sel pc g => g.splitOff sel (g.en0 sel &&& g.pRead f.a.toNat) (targetOf pc f.lit)) s

/-- R234: JOIN. -/
def execJoin (f : Fields) (s : State) : Host.Outcome State Fault Refusal :=
  issueControl Op.join f (fun sel pc g => .done (g.join sel pc)) s

end Sys2Proof.Machine
end

