-- ==== Sys2Proof/Machine/GroupWide.lean ====
section
/-! DEFINITION. Group-wide instructions, 0x90 to 0x96 (R366 to R368). They read lanes other than their own. -/

namespace Sys2Proof.Machine

open Sys2Proof

/-- A shuffle: lane L takes lane `src L` of A, or its own where that lane is beyond the width (R367). -/
def Group.shuffle (g : Group) (sel : PcSel) (f : Fields) (src : Nat → Nat) : Group :=
  g.putV sel f (g.tagOf f.a.toNat) (fun l => g.vRead f.a.toNat (if src l < g.lanes then src l else l))

/-- R367: lane B[L] of A. -/
def execShfl (f : Fields) (s : State) : Host.Outcome State Fault Refusal :=
  issueSimple Op.shfl f (fun sel g => g.shuffle sel f (fun l => (g.opB sel f l).toNat)) s

/-- R367: lane L xor B[L] of A. -/
def execShflx (f : Fields) (s : State) : Host.Outcome State Fault Refusal :=
  issueSimple Op.shflx f (fun sel g => g.shuffle sel f (fun l => l ^^^ (g.opB sel f l).toNat)) s

/-- Write one bit to every executing lane of predicate D. -/
def Group.pSpread (g : Group) (sel : PcSel) (f : Fields) (r : Bool) : Group :=
  g.pWrite f.d.toNat (g.exec sel) (if r then g.full else 0)

/-- R367: whether some executing lane of p[A] is set. -/
def execVoteany (f : Fields) (s : State) : Host.Outcome State Fault Refusal :=
  issueSimple Op.voteany f (fun sel g => g.pSpread sel f (g.exec sel &&& g.pRead f.a.toNat != 0)) s

/-- R367: whether every executing lane of p[A] is set. -/
def execVoteall (f : Fields) (s : State) : Host.Outcome State Fault Refusal :=
  issueSimple Op.voteall f (fun sel g => g.pSpread sel f (g.exec sel &&& ~~~(g.pRead f.a.toNat) == 0)) s

/-- R367: one scalar per beat with the executing lanes of p[A]. -/
def execBallot (f : Fields) (s : State) : Host.Outcome State Fault Refusal :=
  issueSimple Op.ballot f (fun sel g =>
    let m := g.exec sel &&& g.pRead f.a.toNat
    (List.range g.beats).foldl (fun (a : Group) b => a.sWrite sel (f.d.toNat - 96 + b) (maskWord m b)) g) s

/-- A reduction of 32-bit values under R368; an empty list reduces to 0. -/
def reduceWords (o ty : Nat) (rm : Rm) (ftz : Bool) (xs : List Nat) : FRes :=
  let fold := fun (h : Nat → Nat → Nat) =>
    ({ bits := match xs with
               | [] => 0
               | x :: r => r.foldl h x, flags := .none } : FRes)
  if o = 3 then fold (· &&& ·)
  else if o = 4 then fold (· ||| ·)
  else if o = 5 then fold (· ^^^ ·)
  else if ty = 2 then
    if o = 0 then
      let (t, iv) := sumExact rm (xs.map (Fmt.f32.read ftz))
      Fmt.f32.finish rm ftz { Flags.none with iv := iv } t
    else
      let r := fold (fun a b => Fmt.f32.fminmax (o == 2) (Fmt.f32.read ftz a) (Fmt.f32.read ftz b))
      { r with bits := Fmt.f32.encode (Fmt.f32.read ftz r.bits) }
  else if o = 0 then fold (fun a b => (a + b) % 2 ^ 32)
  else if o = 1 then fold (fun a b => if intOf ty b < intOf ty a then b else a)
  else fold (fun a b => if intOf ty a < intOf ty b then b else a)

/-- GRED and GSCAN: each executing lane takes the reduction of the executing lanes that `over` gives it. -/
def Group.reduce (g : Group) (sel : PcSel) (f : Fields) (beyond : Nat → List Nat) : GRes :=
  let o := f.a.toNat
  let ls := g.execLanes sel
  let rs := laneResults ls fun l =>
    reduceWords o g.ty g.rm g.ftz ((beyond l).map (fun k => (g.vRead f.b.toNat k).toNat))
  ((g.vWrite f.d.toNat ls (fun l => BitVec.ofNat 32 (valueAt rs l))).setTag f.d.toNat (if o < 3 then g.ty else 15)).finish
    (flagsAt rs)

/-- R368: the reduction of every executing lane, to every executing lane. -/
def execGred (f : Fields) (s : State) : Host.Outcome State Fault Refusal :=
  issueReg Op.gred f (fun sel g => g.reduce sel f (fun _ => g.execLanes sel)) s

/-- R368: the inclusive prefix over the executing lanes. -/
def execGscan (f : Fields) (s : State) : Host.Outcome State Fault Refusal :=
  issueReg Op.gscan f (fun sel g => g.reduce sel f (fun l => (g.execLanes sel).filter (fun k => decide (k ≤ l)))) s

end Sys2Proof.Machine
end

