-- ==== Sys2Proof/Machine/Engine.lean ====
section
/-! DEFINITION. What the Repertory engine computes: FP32 arithmetic, lobes, connection and merge weights, the hash grid
(R181 to R188). A number is its F32 encoding. -/

namespace Sys2Proof.Machine

open Sys2Proof

/-! ### Arithmetic (R182) -/

namespace F32

def dec (x : Nat) : FVal := Fmt.f32.decode x
def add (x y : Nat) : Nat := (Fmt.f32.fadd .rne false (dec x) (dec y)).bits
def sub (x y : Nat) : Nat := (Fmt.f32.fsub .rne false (dec x) (dec y)).bits
def mul (x y : Nat) : Nat := (Fmt.f32.fmul .rne false (dec x) (dec y)).bits
def div (x y : Nat) : Nat := (Fmt.f32.fdiv .rne false (dec x) (dec y)).bits
def sqrt (x : Nat) : Nat := (Fmt.f32.fsqrt .rne false (dec x)).bits
def neg (x : Nat) : Nat := Fmt.f32.encode (dec x).negate
def abs (x : Nat) : Nat := if (dec x).isNeg then neg x else x
def lt (x y : Nat) : Bool := (dec x).lt (dec y)
def eq (x y : Nat) : Bool := (dec x).eqv (dec y)
def le (x y : Nat) : Bool := lt x y || eq x y
def isNaN (x : Nat) : Bool := (dec x).isNaN
def isFinite (x : Nat) : Bool := !(dec x).isNaN && !(dec x).isInf

def zero : Nat := 0
def one : Nat := 0x3F800000
def two : Nat := 0x40000000
def four : Nat := 0x40800000
def pi : Nat := 0x40490FDB
def invPi : Nat := 0x3EA2F983

/-- An F16 value, exactly. -/
def ofF16 (x : Nat) : Nat := Fmt.f32.encode (Fmt.f16.decode x)

/-- A natural number, rounded once. -/
def ofNat (n : Nat) : Nat := (Fmt.f32.round .rne false false (Dy.ofInt n)).bits

end F32

/-- Three numbers: a point, a direction or a colour. -/
structure V3 where
  x : Nat
  y : Nat
  z : Nat
  deriving DecidableEq, Repr

namespace V3

def map (h : Nat → Nat) (a : V3) : V3 := { x := h a.x, y := h a.y, z := h a.z }
def zip (h : Nat → Nat → Nat) (a b : V3) : V3 := { x := h a.x b.x, y := h a.y b.y, z := h a.z b.z }
def zero : V3 := { x := 0, y := 0, z := 0 }
def add (a b : V3) : V3 := zip F32.add a b
def sub (a b : V3) : V3 := zip F32.sub a b
def mul (a b : V3) : V3 := zip F32.mul a b
def neg (a : V3) : V3 := map F32.neg a
/-- Multiply every component by a number. -/
def scale (a : V3) (k : Nat) : V3 := map (fun c => F32.mul c k) a
/-- Divide every component by a number. -/
def quot (a : V3) (k : Nat) : V3 := map (fun c => F32.div c k) a
def dot (a b : V3) : Nat := F32.add (F32.add (F32.mul a.x b.x) (F32.mul a.y b.y)) (F32.mul a.z b.z)
def normalize (a : V3) : V3 := a.quot (F32.sqrt (dot a a))
/-- The component of an axis. -/
def at_ (a : V3) (k : Nat) : Nat := if k = 0 then a.x else if k = 1 then a.y else a.z

end V3

/-! ### Records (R175, R183) -/

/-- +1 for a zero or a positive number, else −1. -/
def sgn (a : Nat) : Nat := if F32.eq a 0 || F32.lt 0 a then F32.one else F32.neg F32.one

/-- The unit vector that an octahedral pair decodes to. -/
def octahedral (p q : Nat) : V3 :=
  let z := F32.sub (F32.sub F32.one (F32.abs p)) (F32.abs q)
  if F32.lt z 0 then
    V3.normalize
      { x := F32.mul (F32.sub F32.one (F32.abs q)) (sgn p), y := F32.mul (F32.sub F32.one (F32.abs p)) (sgn q), z := z }
  else V3.normalize { x := p, y := q, z := z }

/-- What the engine reads of a record. -/
structure Vertex where
  pos   : V3
  nrm   : V3
  win   : V3
  thr   : V3
  dvcm  : Nat
  dvc   : Nat
  dvm   : Nat
  alb   : V3
  f0    : V3
  rgh   : Nat
  two   : Bool
  spec  : Bool
  frame : Nat
  light : Bool
  deriving DecidableEq, Repr

/-- A record decoded from its line. -/
def vertexOf (l : Line) : Vertex :=
  let w := fun k => lineField l k 4
  let h := fun k => F32.ofF16 (lineField l k 2)
  { pos := { x := w 0, y := w 4, z := w 8 }
    nrm := octahedral (h 12) (h 14)
    win := octahedral (h 16) (h 18)
    thr := { x := w 20, y := w 24, z := w 28 }
    dvcm := w 32
    dvc := w 36
    dvm := w 40
    alb := { x := h 44, y := h 46, z := h 48 }
    f0 := { x := h 50, y := h 52, z := h 54 }
    rgh := h 56
    two := lineField l 58 2 / 2 % 2 == 1
    spec := lineField l 58 2 % 2 == 1
    frame := lineField l 60 2
    light := 128 ≤ lineField l 63 1 }

/-! ### Lobes (R184) -/

/-- The GGX term: reflectance and pdf. -/
def ggx (v : Vertex) (n wi wo : V3) (ci co : Nat) : V3 × Nat :=
  let a := F32.mul v.rgh v.rgh
  let a2 := F32.mul a a
  let h := V3.normalize (wi.add wo)
  let ch := V3.dot n h
  let cd := V3.dot wi h
  if F32.eq a2 0 || F32.le cd 0 || F32.le ch 0 then (V3.zero, 0)
  else
    let t := F32.add (F32.mul (F32.mul ch ch) (F32.sub a2 F32.one)) F32.one
    let d := F32.div a2 (F32.mul F32.pi (F32.mul t t))
    let g1 := fun c => F32.div (F32.mul F32.two c)
      (F32.add c (F32.sqrt (F32.add a2 (F32.mul (F32.sub F32.one a2) (F32.mul c c)))))
    let g := F32.mul (g1 ci) (g1 co)
    let q := F32.sub F32.one cd
    let q5 := F32.mul (F32.mul (F32.mul q q) (F32.mul q q)) q
    let fr := v.f0.map (fun f => F32.add f (F32.mul (F32.sub F32.one f) q5))
    let den := F32.mul (F32.mul F32.four ci) co
    (fr.map (fun f => F32.div (F32.mul (F32.mul d g) f) den), F32.div (F32.mul d ch) (F32.mul F32.four cd))

/-- eval(L, n, wi, wo): the reflectance and the solid-angle pdf of sampling `wo` given `wi`. -/
def lobe (v : Vertex) (n wi wo : V3) : V3 × Nat :=
  let n := if v.two && F32.lt (V3.dot n wi) 0 then n.neg else n
  let ci := V3.dot n wi
  let co := V3.dot n wo
  if !(F32.lt 0 ci && F32.lt 0 co) then (V3.zero, 0)
  else
    let sum := fun (c : V3) => F32.add (F32.add c.x c.y) c.z
    let sr := sum v.alb
    let sf := sum v.f0
    let pd := if !v.spec || F32.eq (F32.add sr sf) 0 then F32.one else F32.div sr (F32.add sr sf)
    let fd := v.alb.scale F32.invPi
    if !v.spec then (fd, F32.mul co F32.invPi)
    else
      let (fs, ps) := ggx v n wi wo ci co
      (fd.add fs, F32.add (F32.mul pd (F32.mul co F32.invPi)) (F32.mul (F32.sub F32.one pd) ps))

/-! ### Connect (R187) -/

/-- What a connect returns: the contribution and the segment. -/
structure Connection where
  contrib : V3
  origin  : V3
  dir     : V3
  len     : Nat
  deriving DecidableEq, Repr

/-- One side of the weight: `p` × cosine / d2 times the quantities of the vertex reached. -/
def connectWeight (p c d2 eta : Nat) (v : Vertex) (rev : Nat) : Nat :=
  F32.mul (F32.div (F32.mul p c) d2)
    (F32.add (F32.add eta v.dvcm) (F32.mul (F32.add v.dvc (F32.mul eta v.dvm)) rev))

/-- The connect of eye vertex y to light vertex z under η. -/
def connect (y z : Vertex) (eta : Nat) : Connection :=
  let d := z.pos.sub y.pos
  let d2 := V3.dot d d
  if !(F32.lt 0 d2 && F32.isFinite d2) then { contrib := V3.zero, origin := y.pos, dir := V3.zero, len := 0 }
  else
    let len := F32.sqrt d2
    let w := d.quot len
    let (fy, py) := lobe y y.nrm y.win w
    let pyr := (lobe y y.nrm w y.win).2
    let (fz, pz) := lobe z z.nrm z.win w.neg
    let pzr := (lobe z z.nrm w.neg z.win).2
    let cy := F32.abs (V3.dot y.nrm w)
    let cz := F32.abs (V3.dot z.nrm w)
    let g := F32.div (F32.mul cy cz) d2
    let wl := connectWeight py cz d2 eta z pzr
    let we := connectWeight pz cy d2 eta y pyr
    let k := F32.div F32.one (F32.add (F32.add wl F32.one) we)
    { contrib := ((((y.thr.mul fy).scale g).mul fz).mul z.thr).scale k, origin := y.pos, dir := w, len := len }

/-! ### Merge (R188) -/

/-- One side of the weight of a merge. -/
def mergeWeight (v : Vertex) (eta p : Nat) : Nat :=
  F32.add (F32.div v.dvcm eta) (F32.mul (F32.add (F32.div v.dvc eta) v.dvm) p)

/-- What a summed candidate adds. -/
def mergeTerm (y : Vertex) (eta : Nat) (z : Vertex) : V3 :=
  let (fy, pdir) := lobe y y.nrm y.win z.win
  let prev := (lobe y y.nrm z.win y.win).2
  let k := F32.div F32.one (F32.add (F32.add (mergeWeight z eta pdir) F32.one) (mergeWeight y eta prev))
  ((y.thr.mul fy).mul z.thr).scale k

/-- The sum over the candidates in the order given, divided by η. -/
def mergeSum (y : Vertex) (eta : Nat) (zs : List Vertex) : V3 :=
  (zs.foldl (fun acc z => acc.add (mergeTerm y eta z)) V3.zero).quot eta

/-- z lies in the frame window of a set and within its radius of y. -/
def isCandidate (y z : Vertex) (r fcur w : Nat) : Bool :=
  let d := z.pos.sub y.pos
  decide ((fcur + 65536 - z.frame) % 65536 < w) && F32.lt (V3.dot d d) (F32.mul r r)

/-! ### The hash grid (R181) -/

/-- One cell coordinate. -/
def cellAxis (inv origin p : Nat) : Int :=
  match F32.dec (F32.mul (F32.sub p origin) inv) with
  | .nan => 0
  | .inf neg => if neg then -(2 ^ 31) else 2 ^ 31 - 1
  | .fin neg m =>
    let c := (if neg then m.neg else m).floor
    max (-(2 ^ 31)) (min (2 ^ 31 - 1) c)

/-- A cell: three coordinates. -/
abbrev Cell := Int × Int × Int

/-- The cell of a position. -/
def cellOf (cellsz : Nat) (origin pos : V3) : Cell :=
  let inv := F32.div F32.one cellsz
  (cellAxis inv origin.x pos.x, cellAxis inv origin.y pos.y, cellAxis inv origin.z pos.z)

/-- The bucket of a cell among 2^gbits. -/
def bucketOf (gbits : Nat) (c : Cell) : Nat :=
  let p := fun (x : Int) (k : Nat) => (BitVec.ofInt 32 x) * (BitVec.ofNat 32 k)
  (p c.1 0x8DA6B343 ^^^ p c.2.1 0xD8163841 ^^^ p c.2.2 0xCB1AB31F).toNat % 2 ^ gbits

/-- The distinct buckets of the 27 cells around a cell. -/
def bucketsAround (gbits : Nat) (c : Cell) : List Nat :=
  let d : List Int := [-1, 0, 1]
  (d.flatMap (fun x => d.flatMap (fun y => d.map (fun z => bucketOf gbits (c.1 + x, c.2.1 + y, c.2.2 + z))))).eraseDups

end Sys2Proof.Machine
end

