-- ==== Sys2Proof/Machine/Arena.lean ====
section
/-! DEFINITION. Arenas in memory and the operations of the Repertory engine on them (R170 to R180, R185, R437 to R439).
An engine operation on a lane either completes, or fails and leaves nothing changed, or waits for a line and is tried again
from its beginning. -/

namespace Sys2Proof.Machine

open Sys2Proof

/-- An arena as an operation names it: its context, its header, the privilege of who asks, its scope. -/
structure ArenaRef where
  ctx    : Ctx
  header : VA
  priv   : Bool
  sh     : Nat
  deriving DecidableEq, Repr

/-- Why an engine operation stops: a failure with its cause, inner cause and address, and whether it is that of the whole operation,
not of one lane; or a line to wait for. -/
inductive EStop where
  | fail (cause inner : Nat) (addr : VA) (whole : Bool)
  | wait (va : VA) (own : Bool)
  deriving DecidableEq, Repr

/-- A computation of the engine over the state. -/
abbrev Eng (α : Type) := StateT State (Except EStop) α

/-- Fail with a cause. -/
def engFail {α : Type} (cause : Nat) (addr : VA) : Eng α := fun _ => .error (.fail cause 0 addr false)

/-- What the state needs before a blocked access of a context can be performed. -/
def State.unblock (s : State) (c : Ctx) (va : VA) (own : Bool) : State :=
  let t := tagFor c va
  match if windowOf va = 10 then homeLeaf s va else leafOf s t va with
  | .error _ => s
  | .ok e =>
    if s.meetsFlaw (homeDie va * 64) c va e then (s.meetLine (homeDie va * 64) c va e).wakeAll
    else
      match s.fabricNeed va (lineLoc s t va e) own with
      | some g => s.missSys (fabricVa g) own
      | none =>
        let sk := sliceKeyOf (homeDie va) (homeSlice va)
        if !own || (s.slice sk).sweep then s else s.beginRebase sk

/-- An empty link. -/
def noSlot : Nat := 2 ^ 32 - 1

/-- All ones: no stamp, no retire number, a free slot. -/
def noNumber : Nat := 2 ^ 64 - 1

/-! ### Access to arena lines (R170, R171, R173, R443) -/

/-- The leaf that an engine access translates by; a page that breaks R170 fails with ARENA, a faulting one with ASYNC_FAULT
(R416). Writes ignore `pte.ro` (R173). -/
def engLeaf (c : Ctx) (priv write : Bool) (va : VA) (s : State) : Except EStop DWord :=
  let w := windowOf va
  if 8 < w ∧ w ≠ 10 then .error (.fail Cause.arena 0 va true)
  else if w = 10 && !s.isMember (deviceOf va) then .error (.fail Cause.asyncFault Cause.window va false)
  else if w = 10 && (s.fabricAccess c == 0 || (write && s.fabricAccess c == 1)) then
    .error (.fail Cause.asyncFault Cause.protection va false)
  else
    match translate s c .read priv va with
    | .error f => .error (.fail Cause.asyncFault f.cause va false)
    | .ok e =>
      if (leafAttr e).swm then .error (.fail Cause.arena 0 va true)
      else if s.meetsFlaw (homeDie va * 64) c va e then .error (.wait va false)
      else if s.poisoned (lineLoc s c va e) then .error (.fail Cause.asyncFault Cause.uncorrectable va false)
      else .ok e

/-- The leaf of a line of an arena, which must have the arena's scope. -/
def engPage (r : ArenaRef) (write : Bool) (va : VA) : Eng DWord := fun s =>
  match engLeaf r.ctx r.priv write va s with
  | .error x => .error x
  | .ok e =>
    if (leafAttr e).sh ≠ r.sh then .error (.fail Cause.arena 0 va true)
    else .ok (e, if windowOf va = 10 then s else s.cacheLeaf r.ctx va e)

/-- Read the line of an address on behalf of no core. -/
def engLine (r : ArenaRef) (va : VA) : Eng Line := do
  let e ← engPage r false va
  let s ← get
  match s.sliceRead (homeDie va * 64) r.ctx va e with
  | .blocked _ => fun _ => .error (.wait va false)
  | .done s (l, _) => fun _ => .ok (l, s)

/-- Read n bytes of one line. -/
def engRead (r : ArenaRef) (va : VA) (n : Nat) : Eng Nat := do
  let l ← engLine r va
  pure (lineField l (va.toNat % 128) n)

/-- Write bytes of one line on behalf of no core. -/
def engPut (r : ArenaRef) (va : VA) (bs : List (Nat × Byte)) : Eng Unit := do
  let e ← engPage r true va
  let s ← get
  match s.writeAt (homeDie va) r.ctx va e 0 true bs with
  | .blocked _ => fun _ => .error (.wait va true)
  | .done s _ => fun _ => .ok ((), s)

/-- Write a number of n bytes. -/
def engWrite (r : ArenaRef) (va : VA) (n x : Nat) : Eng Unit := engPut r va (storeBytes (va.toNat % 128) n x)

/-- Write the same byte to whole lines. -/
def engFill (r : ArenaRef) (va : VA) (b : Byte) : Nat → Eng Unit
  | 0 => pure ()
  | n + 1 => do
    engPut r va ((List.range 128).map (fun k => (k, b)))
    engFill r (va + 128) b n

/-! ### The header (R174) -/

/-- An address in the header. -/
def ArenaRef.at_ (r : ArenaRef) (off : Nat) : VA := r.header + BitVec.ofNat 52 off

def hRead (r : ArenaRef) (off n : Nat) : Eng Nat := engRead r (r.at_ off) n

def hWrite (r : ArenaRef) (off n x : Nat) : Eng Unit := engWrite r (r.at_ off) n x

/-- The address of slot i (R170). -/
def ArenaRef.slot (r : ArenaRef) (i : Nat) : VA := r.at_ (4096 + 128 * i)

/-- The bucket table's address; bits 63 to 52 of the field, of which R174 does not speak, are dropped (DESIGN CHOICE, log 26). -/
def gridOf (r : ArenaRef) : Eng VA := do
  let g ← hRead r 72 8
  pure (BitVec.ofNat 52 g)

/-- The arena as its engine holds it (R171). -/
def engArena (r : ArenaRef) : Eng Arena := fun s =>
  match s.arenas.find? (fun a => a.ctx == r.ctx && a.header == r.header) with
  | some a => .ok (a, s)
  | none => .error (.fail Cause.arena 0 r.header true)

/-- The engine changes what it holds of an arena. -/
def engHold (r : ArenaRef) (h : Arena → Arena) : Eng Unit :=
  modify fun s => { s with arenas := s.arenas.map (fun a => if a.ctx == r.ctx && a.header == r.header then h a else a) }

/-- The entries of the stamp table. -/
def Arena.entry (a : Arena) (k : Nat) : Option (Nat × Word) := SMap.get none a.stamps k

/-- The live stamps. -/
def Arena.live (a : Arena) : List Nat := (List.range 256).filterMap (fun k => (a.entry k).map (fun x => x.1))

/-- The entry of a live stamp. -/
def Arena.slotOf (a : Arena) (st : Nat) : Option Nat := (List.range 256).find? (fun k => (a.entry k).any (fun x => x.1 == st))

/-- The smallest live stamp; all ones when none is live. -/
def oldestOf (xs : List Nat) : Nat := xs.foldl min noNumber

/-- Set or free an entry of the stamp table; the header shows the change. -/
def setStamp (r : ArenaRef) (k : Nat) (x : Option (Nat × Word)) : Eng Unit := do
  engHold r (fun a => { a with stamps := SMap.set none a.stamps k x })
  let a ← engArena r
  hWrite r (1024 + 8 * k) 8 ((x.map (fun x => x.1)).getD noNumber)
  match x with
  | some (_, lid) => hWrite r (3072 + 4 * k) 4 lid.toNat
  | none => pure ()
  hWrite r 48 2 a.live.length
  hWrite r 88 8 (oldestOf a.live)

/-- Take a number (R176). -/
def takeNumber (r : ArenaRef) : Eng Nat := do
  let a ← engArena r
  if 2 ^ 64 - 2 ≤ a.ctr then engFail Cause.arena r.header
  else
    engHold r (fun a => { a with ctr := a.ctr + 1 })
    hWrite r 8 8 (a.ctr + 1)
    pure a.ctr

/-! ### Parameter sets (R185, R437, R438) -/

/-- The set in a slot. -/
def Arena.set (a : Arena) (k : Nat) : Option ParamSet := SMap.get none a.sets k

/-- The set in force at stamp S, with its slot: the one with the largest number below S. -/
def Arena.inForce (a : Arena) (st : Nat) : Option (Nat × ParamSet) :=
  ((List.range 16).filterMap (fun k => (a.set k).map (fun p => (k, p)))).foldl (fun (b : Option (Nat × ParamSet)) e =>
    if st ≤ e.2.q then b
    else
      match b with
      | some x => if x.2.q < e.2.q then some e else some x
      | none => some e) none

/-- The values that a reweight or the initial set carries are outside their limits. -/
def paramsBad (rad w npf cellsz : Nat) : Bool :=
  F32.isNaN rad || F32.lt rad 0 || F32.lt cellsz rad || w % 32 == 0 || decide (16 < w % 32) || w / 32 % 1024 != 0 ||
  decide (2 ^ 28 < npf)

/-- The sum of `npf` over the valid frame entries in the window. -/
def frameTotal (r : ArenaRef) (fcur w : Nat) : Nat → Eng Nat
  | 0 => pure 0
  | n + 1 => do
    let o := 128 + 8 * (15 - n)
    let f ← hRead r o 2
    let v ← hRead r (o + 2) 1
    let c ← hRead r (o + 4) 4
    let t ← frameTotal r fcur w n
    pure (t + (if v ≠ 0 ∧ (fcur + 65536 - f) % 65536 < w then c else 0))

/-- Install a set with number q in slot k and make it current (R185, R438). -/
def installSet (r : ArenaRef) (k q rad w fcur npf : Nat) : Eng Unit := do
  let fo := 128 + 8 * (fcur % 16)
  hWrite r fo 2 fcur
  hWrite r (fo + 2) 1 1
  hWrite r (fo + 4) 4 npf
  let ntot ← frameTotal r fcur (w % 32) 16
  let p : ParamSet :=
    { q := q, r := rad, w := w % 32, fcur := fcur, npf := npf, ntot := ntot,
      eta := F32.mul (F32.mul F32.pi (F32.mul rad rad)) (F32.ofNat ntot) }
  engHold r (fun a => { a with
    sets := SMap.set none a.sets k (some p)
    pslot := k })
  let o := 256 + 32 * k
  hWrite r o 8 p.q
  hWrite r (o + 8) 4 p.r
  hWrite r (o + 12) 2 (p.w + 2 ^ 15)
  hWrite r (o + 14) 2 p.fcur
  hWrite r (o + 16) 4 p.npf
  hWrite r (o + 20) 8 p.ntot
  hWrite r (o + 28) 4 p.eta
  hWrite r 47 1 k

/-! ### Opening (R172) -/

/-- The arena is open in the context. -/
def State.arenaOpen (s : State) (c : Ctx) (h : VA) : Bool := s.arenas.any (fun a => a.ctx == c && a.header == h)

/-- The fields that the program wrote are refused. -/
def headerBad (r : ArenaRef) : Eng Bool := do
  let magic ← hRead r 0 4
  let nsm1 ← hRead r 4 4
  let ctr ← hRead r 8 8
  let mcap ← hRead r 44 2
  let gbits ← hRead r 46 1
  let cell ← hRead r 52 4
  let ox ← hRead r 56 4
  let oy ← hRead r 60 4
  let oz ← hRead r 64 4
  let grid ← hRead r 72 8
  let rad ← hRead r 96 4
  let w ← hRead r 100 2
  let npf ← hRead r 104 4
  pure (magic != 0x41524E41 || ctr != 0 || nsm1 == noSlot || decide (4096 < mcap) || decide (gbits < 10) ||
    decide (24 < gbits) || !F32.isFinite cell || !F32.lt 0 cell || !(F32.isFinite ox && F32.isFinite oy && F32.isFinite oz) ||
    grid % 128 != 0 || paramsBad rad w npf cell)

/-- Clear the E fields, install the initial set, clear the buckets. Bytes of the header that R174 does not list stay as the program left
them (DESIGN CHOICE, log 26). -/
def initArena (r : ArenaRef) : Eng Unit := do
  hWrite r 24 8 0
  hWrite r 32 4 noSlot
  hWrite r 36 4 noSlot
  hWrite r 40 4 noSlot
  hWrite r 47 1 0
  hWrite r 48 2 0
  hWrite r 80 8 0
  hWrite r 88 8 noNumber
  engFill r (r.at_ 128) 0 5
  engFill r (r.at_ 1024) 0xFF 16
  engFill r (r.at_ 3072) 0 8
  let rad ← hRead r 96 4
  let w ← hRead r 100 2
  let fcur ← hRead r 102 2
  let npf ← hRead r 104 4
  installSet r 0 1 rad w fcur npf
  engHold r (fun a => { a with ctr := 2 })
  hWrite r 8 8 2
  let gbits ← hRead r 46 1
  let grid ← gridOf r
  engFill r grid 0xFF (2 ^ gbits / 16)
  hWrite r 16 8 1

/-- Open the arena that an operation names, unless it is open. -/
def openArena (r : ArenaRef) : Eng Unit := do
  let s ← get
  if s.arenaOpen r.ctx r.header then pure ()
  else if 16 ≤ (s.arenas.filter (fun a => a.ctx == r.ctx)).length then engFail Cause.arena r.header
  else
    let bad ← headerBad r
    if bad then engFail Cause.arena r.header
    else
      let nsm1 ← hRead r 4 4
      let gbits ← hRead r 46 1
      let grid ← gridOf r
      let a : Arena :=
        { ctx := r.ctx, header := r.header, drops := [], nsm1 := nsm1, gbits := gbits, grid := grid, ctr := 1, stamps := [],
          sets := [], pslot := 0 }
      modify (fun s => { s with arenas := s.arenas ++ [a] })
      initArena r

/-- The arena as an operation of a context names it, with the scope of its header's page. -/
def arenaRef (c : Ctx) (header : VA) (priv : Bool) (s : State) : Except EStop ArenaRef :=
  match engLeaf c priv false header s with
  | .error x => .error x
  | .ok e => .ok { ctx := c, header := header, priv := priv, sh := (leafAttr e).sh }

/-! ### The sealed frontier (R174, R178) -/

/-- The first numbers of the appends on an arena that are not sealed, other than those of operation `id` of group `gid`. -/
def State.unsealed (s : State) (c : Ctx) (header : VA) (gid id : Nat) : List Nat :=
  (s.groupsWhere (fun g => g.ctx == c)).flatMap (fun e => (e.2.ops.filter (fun o =>
    o.kind == .wings .append && o.ticket && !o.done && o.addr 0 == header && (e.1 != gid || o.id != id))).map
      (fun o => SMap.get 0 o.ptes 0))

/-- The largest number n with every append at or below n sealed. -/
def frontier (ctr : Nat) (firsts : List Nat) : Nat := firsts.foldl (fun m n => min m (n - 1)) (ctr - 1)

/-- Write the frontier. -/
def writeFront (r : ArenaRef) (firsts : List Nat) : Eng Unit := do
  let a ← engArena r
  hWrite r 16 8 (frontier a.ctr firsts)

/-! ### Slots, chains, reclamation (R175, R177, R180, R181, R439) -/

/-- The bucket entry of a position: its address. -/
def bucketAt (r : ArenaRef) (pos : V3) : Eng VA := do
  let gbits ← hRead r 46 1
  let cell ← hRead r 52 4
  let ox ← hRead r 56 4
  let oy ← hRead r 60 4
  let oz ← hRead r 64 4
  let grid ← gridOf r
  pure (grid + BitVec.ofNat 52 (8 * bucketOf gbits (cellOf cell { x := ox, y := oy, z := oz } pos)))

/-- Slot i holds no record: it was never used, or it is free. -/
def slotFree (r : ArenaRef) (i : Nat) : Eng Bool := do
  let hwm ← hRead r 24 8
  if hwm ≤ i then pure true
  else
    let a ← engRead r (r.slot i + 72) 8
    pure (a == noNumber)

/-- Take a slot: the head of the free list, else the next one never used. -/
def takeSlot (r : ArenaRef) : Eng Nat := do
  let fhead ← hRead r 32 4
  let hwm ← hRead r 24 8
  let nsm1 ← hRead r 4 4
  if fhead ≠ noSlot then
    let next ← engRead r (r.slot fhead) 4
    hWrite r 32 4 next
    pure fhead
  else if hwm ≤ nsm1 then
    hWrite r 24 8 (hwm + 1)
    pure hwm
  else engFail Cause.arenaFull r.header

/-- Link a slot at the tail of the chain of its bucket. -/
def linkSlot (r : ArenaRef) (i : Nat) (pos : V3) : Eng Unit := do
  let b ← bucketAt r pos
  let last ← engRead r (b + 4) 4
  if last = noSlot then engWrite r b 4 i else engWrite r (r.slot last + 68) 4 i
  engWrite r (b + 4) 4 i

/-- The slot before slot i in a chain. -/
def prevIn (r : ArenaRef) (i : Nat) : Nat → Nat → Eng (Option Nat)
  | 0, _ => pure none
  | n + 1, at_ =>
    if at_ = noSlot then pure none
    else do
      let next ← engRead r (r.slot at_ + 68) 4
      if next = i then pure (some at_) else prevIn r i n next

/-- Unlink a slot from the chain of its bucket. -/
def unlinkSlot (r : ArenaRef) (i : Nat) (pos : V3) : Eng Unit := do
  let b ← bucketAt r pos
  let first ← engRead r b 4
  let last ← engRead r (b + 4) 4
  let next ← engRead r (r.slot i + 68) 4
  let hwm ← hRead r 24 8
  if first = i then
    engWrite r b 4 next
    if last = i then engWrite r (b + 4) 4 noSlot else pure ()
  else
    match ← prevIn r i (hwm + 1) first with
    | none => pure ()
    | some p =>
      engWrite r (r.slot p + 68) 4 next
      if last = i then engWrite r (b + 4) 4 p else pure ()

/-- Reclaim the head of the retire queue if no live stamp can see it: whether there was one. -/
def reclaimOne (r : ArenaRef) : Eng Bool := do
  let i ← hRead r 36 4
  if i = noSlot then pure false
  else
    let a ← engArena r
    let rnum ← engRead r (r.slot i + 80) 8
    if oldestOf a.live < rnum then pure false
    else
      let l ← engLine r (r.slot i)
      let v := vertexOf l
      if v.light then unlinkSlot r i v.pos else pure ()
      let rnext ← engRead r (r.slot i + 88) 4
      let tail ← hRead r 40 4
      let next := if tail = i then noSlot else rnext
      hWrite r 36 4 next
      if tail = i then hWrite r 40 4 noSlot else pure ()
      let fhead ← hRead r 32 4
      engWrite r (r.slot i) 4 fhead
      engWrite r (r.slot i + 72) 8 noNumber
      hWrite r 32 4 i
      let nvert ← hRead r 80 8
      hWrite r 80 8 (nvert - 1)
      pure true

/-- Reclaim from the head of the queue on, each slot by itself: the state, and the fault that stopped it. -/
def reclaim (r : ArenaRef) : Nat → State → Except EStop (State × Option (Nat × Nat × VA))
  | 0, s => .ok (s, none)
  | n + 1, s =>
    match reclaimOne r s with
    | .ok (true, s) => reclaim r n s
    | .ok (false, s) => .ok (s, none)
    | .error (.fail c i a _) => .ok (s, some (c, i, a))
    | .error (.wait va own) => .error (.wait va own)

/-- Reclaim all that may be. -/
def reclaimAll (r : ArenaRef) (s : State) : Except EStop (State × Option (Nat × Nat × VA)) :=
  match hRead r 80 8 s with
  | .ok (n, s) => reclaim r (n + 1) s
  | .error (.fail c i a _) => .ok (s, some (c, i, a))
  | .error (.wait va own) => .error (.wait va own)

/-! ### Operations on one lane -/

/-- The record of an append as the engine writes it (R175, R177). -/
def newRecord (ws : Nat → Word) (n : Nat) : List (Nat × Byte) :=
  let word := fun (k : Nat) =>
    if k = 15 then ws 15 &&& ~~~0x40000000
    else if k = 17 ∨ k = 20 ∨ k = 21 ∨ k = 22 then 0xFFFFFFFF#32
    else if k = 18 then BitVec.ofNat 32 n
    else if k = 19 then BitVec.ofNat 32 (n / 2 ^ 32)
    else ws k
  (List.range 32).flatMap (fun k => storeBytes (4 * k) 4 (word k).toNat)

/-- A reserved bit of `lflg` or `vflg` is set. -/
def recordBad (ws : Nat → Word) : Bool := bits (ws 14) 31 18 != 0 || bits (ws 15) 29 24 != 0

/-- R177, R418. -/
def engAppend (r : ArenaRef) (ws : Nat → Word) : Eng (List Word) := do
  if recordBad ws then engFail Cause.vertexId r.header
  else
    let i ← takeSlot r
    let n ← takeNumber r
    engPut r (r.slot i) (newRecord ws n)
    let nvert ← hRead r 80 8
    hWrite r 80 8 (nvert + 1)
    let l ← engLine r (r.slot i)
    let v := vertexOf l
    if v.light then linkSlot r i v.pos else pure ()
    pure [BitVec.ofNat 32 i, BitVec.ofNat 32 n, BitVec.ofNat 32 (n / 2 ^ 32)]

/-- A number as two words. -/
def numberWords (n : Nat) : List Word := [BitVec.ofNat 32 n, BitVec.ofNat 32 (n / 2 ^ 32)]

/-- R178, R420: the number of the stamp, all ones when the table is full. -/
def engStamp (r : ArenaRef) (lid : Word) : Eng Nat := do
  let a ← engArena r
  match (List.range 256).find? (fun k => (a.entry k).isNone) with
  | none => pure noNumber
  | some k =>
    let n ← takeNumber r
    setStamp r k (some (n, lid))
    pure n

/-- The stamp is live (R179). -/
def stampLive (r : ArenaRef) (st : Nat) : Eng Unit := do
  let a ← engArena r
  if (a.slotOf st).isSome then pure () else engFail Cause.arena r.header

/-- R421, without the reclamation. -/
def engDrop (r : ArenaRef) (st : Nat) : Eng (List Word) := do
  let a ← engArena r
  match a.slotOf st with
  | none => engFail Cause.arena r.header
  | some k =>
    setStamp r k none
    pure []

/-- The line of a vertex that stamp S sees (R179). -/
def seen (r : ArenaRef) (st i : Nat) : Eng Line := do
  let nsm1 ← hRead r 4 4
  let free ← slotFree r i
  if nsm1 < i || free then engFail Cause.vertexId r.header
  else
    let l ← engLine r (r.slot i)
    if lineField l 72 8 ≤ st && (lineField l 80 8 == noNumber || decide (st < lineField l 80 8)) then pure l
    else engFail Cause.vertexId r.header

/-- R423. -/
def engGet (r : ArenaRef) (st i : Nat) : Eng (List Word) := do
  stampLive r st
  let l ← seen r st i
  pure ((List.range 32).map (fun k => BitVec.ofNat 32 (lineField l (4 * k) 4)))

/-- A seen vertex of a kind. -/
def seenKind (r : ArenaRef) (st i : Nat) (light : Bool) : Eng Vertex := do
  let l ← seen r st i
  let v := vertexOf l
  if v.light = light then pure v else engFail Cause.vertexId r.header

/-- The set in force at a stamp. -/
def setAt (r : ArenaRef) (st : Nat) : Eng ParamSet := do
  let a ← engArena r
  match a.inForce st with
  | some (_, p) => pure p
  | none => engFail Cause.arena r.header

/-- The words of three numbers. -/
def V3.words (a : V3) : List Word := [BitVec.ofNat 32 a.x, BitVec.ofNat 32 a.y, BitVec.ofNat 32 a.z]

/-- R187, R424. -/
def engConnect (r : ArenaRef) (st iy iz : Nat) : Eng (List Word) := do
  stampLive r st
  let y ← seenKind r st iy false
  let z ← seenKind r st iz true
  let p ← setAt r st
  let c := connect y z p.eta
  pure (c.contrib.words ++ c.origin.words ++ c.dir.words ++ [BitVec.ofNat 32 c.len])

/-- The candidates in a chain, with their append numbers. -/
def chainCandidates (r : ArenaRef) (st : Nat) (y : Vertex) (p : ParamSet) : Nat → Nat → Eng (List (Nat × Vertex))
  | 0, _ => pure []
  | n + 1, at_ =>
    if at_ = noSlot then pure []
    else do
      let l ← engLine r (r.slot at_)
      let z := vertexOf l
      let a := lineField l 72 8
      let sees := decide (a ≤ st) && (lineField l 80 8 == noNumber || decide (st < lineField l 80 8))
      let rest ← chainCandidates r st y p n (lineField l 68 4)
      pure (if sees && z.light && isCandidate y z p.r p.fcur p.w then (a, z) :: rest else rest)

/-- The candidates in the chains of several buckets. -/
def bucketCandidates (r : ArenaRef) (st : Nat) (y : Vertex) (p : ParamSet) (grid : VA) (fuel : Nat) :
    List Nat → Eng (List (Nat × Vertex))
  | [] => pure []
  | b :: bs => do
    let first ← engRead r (grid + BitVec.ofNat 52 (8 * b)) 4
    let xs ← chainCandidates r st y p fuel first
    let rest ← bucketCandidates r st y p grid fuel bs
    pure (xs ++ rest)

/-- Put a candidate among those sorted by append number. -/
def insertCandidate (x : Nat × Vertex) : List (Nat × Vertex) → List (Nat × Vertex)
  | [] => [x]
  | y :: ys => if x.1 ≤ y.1 then x :: y :: ys else y :: insertCandidate x ys

/-- R188, R425. -/
def engMerge (r : ArenaRef) (st i : Nat) : Eng (List Word) := do
  stampLive r st
  let p ← setAt r st
  let y ← seenKind r st i false
  if F32.eq p.r 0 then pure [0, 0, 0, 0, 0]
  else
    let gbits ← hRead r 46 1
    let cell ← hRead r 52 4
    let ox ← hRead r 56 4
    let oy ← hRead r 60 4
    let oz ← hRead r 64 4
    let mcap ← hRead r 44 2
    let hwm ← hRead r 24 8
    let grid ← gridOf r
    let xs ← bucketCandidates r st y p grid (hwm + 1)
      (bucketsAround gbits (cellOf cell { x := ox, y := oy, z := oz } y.pos))
    let sorted := xs.foldl (fun acc x => insertCandidate x acc) []
    let cap := if mcap = 0 then 256 else mcap
    let sum := mergeSum y p.eta ((sorted.take cap).map (fun e => e.2))
    pure (sum.words ++ [BitVec.ofNat 32 (min xs.length (2 ^ 32 - 1)), if cap < xs.length then 1 else 0])

/-- R185, R426: the set's number, or all ones where no slot is free. -/
def engReweight (r : ArenaRef) (rad w fcur npf : Nat) : Eng (List Word) := do
  let cell ← hRead r 52 4
  if paramsBad rad w npf cell then engFail Cause.arena r.header
  else
    let a ← engArena r
    let held := fun (k : Nat) => a.live.any (fun st => (a.inForce st).any (fun e => e.1 == k))
    match (List.range 16).find? (fun k => k != a.pslot && !held k) with
    | none => pure (numberWords noNumber)
    | some k =>
      let q ← takeNumber r
      installSet r k q rad w fcur npf
      pure (numberWords q)

/-- R180, R427, without the reclamation. -/
def engRetire (r : ArenaRef) (i : Nat) : Eng (List Word) := do
  let free ← slotFree r i
  if free then engFail Cause.vertexId r.header
  else
    let vflg ← engRead r (r.slot i + 63) 1
    if vflg / 64 % 2 = 1 then engFail Cause.vertexId r.header
    else
      let n ← takeNumber r
      engWrite r (r.slot i + 80) 8 n
      engWrite r (r.slot i + 63) 1 (vflg + 64)
      engWrite r (r.slot i + 88) 4 noSlot
      let tail ← hRead r 40 4
      if tail = noSlot then hWrite r 36 4 i else engWrite r (r.slot tail + 88) 4 i
      hWrite r 40 4 i
      pure (numberWords n)

/-! ### Drops by the Cue Unit (R180, R334, R422) -/

/-- The entries of the live stamps that a launch owns. -/
def Arena.owned (a : Arena) (lid : Word) : List Nat :=
  (List.range 256).filter (fun k => (a.entry k).any (fun x => x.2 == lid))

/-- Free the entries of a list. -/
def freeStamps (r : ArenaRef) : List Nat → Eng Unit
  | [] => pure ()
  | k :: ks => do
    setStamp r k none
    freeStamps r ks

/-- The message of a reclamation that no group takes; one of a context at a time stands in a die's queue. -/
def State.reclaimMessage (s : State) (c : Ctx) (header : VA) (lid : Word) (f : Nat × Nat × VA) : State :=
  let d := homeDie header
  let stands := (s.die d).hw.any (fun m => field m 0 1 == 5 && field m 2 1 == c.toNat)
  if stands then s
  else s.tellDirector d (hwMessage 5 d c.toNat lid (lineOf f.2.2).toNat (if f.1 = Cause.asyncFault then f.2.1 else f.1))

/-- What an arena owes has been done. -/
def State.paid (s : State) (a : Arena) : State :=
  { s with arenas := s.arenas.map (fun x => if x.ctx == a.ctx && x.header == a.header then { x with drops := [] } else x) }

/-- Perform the drops that an arena still owes, and reclaim where a stamp was dropped (R180). The engine frees the stamps even
where it cannot write them to the header, and a message of `mkind` 5 names the first launch of several whose drops are owed together
(DESIGN CHOICE, log 26). -/
def State.settleArena (s : State) (a : Arena) : Except EStop State :=
  match a.drops with
  | [] => .ok s
  | lid :: _ =>
    let ks := (a.drops.flatMap a.owned).eraseDups
    if ks.isEmpty then .ok (s.paid a)
    else
      let failed := fun (s : State) (f : Nat × Nat × VA) => s.reclaimMessage a.ctx a.header lid f
      let freed := fun (s : State) => { s with arenas := s.arenas.map (fun x =>
        if x.ctx == a.ctx && x.header == a.header then { x with stamps := x.stamps.filter (fun y => !ks.contains y.1) } else x) }
      match arenaRef a.ctx a.header true s with
      | .error (.wait va own) => .error (.wait va own)
      | .error (.fail c i x _) => .ok (failed (freed (s.paid a)) (c, i, x))
      | .ok r =>
        match freeStamps r ks s with
        | .error (.wait va own) => .error (.wait va own)
        | .error (.fail c i x _) => .ok (failed (freed (s.paid a)) (c, i, x))
        | .ok (_, s) =>
          match reclaimAll r (s.paid a) with
          | .error x => .error x
          | .ok (s, none) => .ok s
          | .ok (s, some f) => .ok (failed s f)

/-- The Cue Unit drops the stamps of a launch that it stops tracking (R422). -/
def State.dropStamps (s : State) (c : Ctx) (lid : Word) : State :=
  let s := { s with arenas := s.arenas.map (fun (a : Arena) => if a.ctx == c then { a with drops := a.drops ++ [lid] } else a) }
  (s.arenas.filter (fun a => a.ctx == c)).foldl (fun (s : State) a =>
    match s.settleArena a with
    | .ok s => s
    | .error (.wait va own) => s.unblock c va own
    | .error (.fail _ _ _ _) => s) s

end Sys2Proof.Machine
end

