-- ==== Sys2Proof/Machine/Sightline.lean ====
section
/-! DEFINITION. The Sightline unit: box and triangle tests and the traversal (R190 to R195, R428 to R430). -/

namespace Sys2Proof.Machine

open Sys2Proof

/-- A ray (R428). -/
structure Ray where
  org  : V3
  dir  : V3
  tmin : Nat
  tmax : Nat
  mask : Nat
  deriving DecidableEq, Repr

/-! ### Exact quotients (R9, R194) -/

/-- An exact value of the pseudocode: a quotient of integers with a positive divisor, an infinity, or none. -/
inductive Quo where
  | nan
  | inf (neg : Bool)
  | frac (num : Int) (den : Nat)
  deriving DecidableEq, Repr

/-- The exact value that F32 bits hold. -/
def Quo.of (x : Nat) : Quo :=
  match F32.dec x with
  | .nan => .nan
  | .inf n => .inf n
  | .fin n m =>
    let k := if n then -m.m else m.m
    if 0 ≤ m.e then .frac (shl k m.e.toNat) 1 else .frac k (2 ^ (-m.e).toNat)

/-- The sign is negative. -/
def Quo.neg? : Quo → Bool
  | .nan => false
  | .inf n => n
  | .frac n _ => decide (n < 0)

/-- The value is zero. -/
def Quo.isZero : Quo → Bool
  | .frac n _ => n == 0
  | _ => false

/-- −x. -/
def Quo.negate : Quo → Quo
  | .nan => .nan
  | .inf n => .inf (!n)
  | .frac n d => .frac (-n) d

/-- x + y. -/
def Quo.add : Quo → Quo → Quo
  | .nan, _ | _, .nan => .nan
  | .inf a, .inf b => if a = b then .inf a else .nan
  | .inf a, _ | _, .inf a => .inf a
  | .frac a b, .frac c d => .frac (a * d + c * b) (b * d)

/-- x − y. -/
def Quo.sub (x y : Quo) : Quo := x.add y.negate

/-- x × y. -/
def Quo.mul (x y : Quo) : Quo :=
  match x, y with
  | .nan, _ | _, .nan => .nan
  | .frac a b, .frac c d => .frac (a * c) (b * d)
  | _, _ => if x.isZero || y.isZero then .nan else .inf (x.neg? != y.neg?)

/-- x / y. -/
def Quo.div (x y : Quo) : Quo :=
  match x, y with
  | .nan, _ | _, .nan => .nan
  | .inf _, .inf _ => .nan
  | .inf _, _ => .inf (x.neg? != y.neg?)
  | .frac _ _, .inf _ => .frac 0 1
  | .frac a b, .frac c d => if c = 0 then .nan else .frac (a * d * c.sign) (b * c.natAbs)

/-- x < y. -/
def Quo.lt : Quo → Quo → Bool
  | .nan, _ | _, .nan => false
  | .inf a, .inf b => a && !b
  | .inf a, .frac _ _ => a
  | .frac _ _, .inf b => !b
  | .frac a b, .frac c d => decide (a * d < c * b)

/-- x ≤ y. -/
def Quo.le (x y : Quo) : Bool :=
  match x, y with
  | .nan, _ | _, .nan => false
  | _, _ => !y.lt x

/-- The value rounded once to F32; an exact zero is +0 (DESIGN CHOICE, log 26). -/
def Quo.round : Quo → Nat
  | .nan => Fmt.f32.nanBits
  | .inf n => Fmt.f32.signed n Fmt.f32.infBits
  | .frac n d =>
    (Fmt.f32.fdiv .rne false (.fin (decide (n < 0)) { m := n.natAbs, e := 0 }) (.fin false { m := d, e := 0 })).bits

/-- An accepted hit, with its exact distance. -/
structure Hit where
  t    : Quo
  u    : Nat
  v    : Nat
  prim : Nat
  geom : Nat
  back : Bool
  deriving DecidableEq, Repr

/-! ### Boxes (R193) -/

/-- (bound − o) / d, exact and rounded once toward −∞ or +∞. -/
def boxQuot (up : Bool) (bound o d : Nat) : Nat :=
  let (diff, bad) := sumExact .rne [F32.dec bound, (F32.dec o).negate]
  if bad || (diff.isInf && (F32.dec d).isInf) then Config.boxQuotient bound o d
  else if diff.isZero && (F32.dec d).isZero then Fmt.f32.signed (!up) Fmt.f32.infBits
  else (Fmt.f32.fdiv (if up then .rup else .rdn) false diff (F32.dec d)).bits

/-- The entry distance of a box, if the ray enters it. -/
def boxEntry (ray : Ray) (tmax : Quo) (lo hi : V3) : Option Nat :=
  let axis := fun k => (lo.at_ k, hi.at_ k, ray.org.at_ k, ray.dir.at_ k)
  let bad := fun k => F32.isNaN (lo.at_ k) || F32.isNaN (hi.at_ k) || F32.lt (hi.at_ k) (lo.at_ k)
  let mm := fun (isMax : Bool) x y => Fmt.f32.fminmax isMax (F32.dec x) (F32.dec y)
  let near := fun k => let (l, h, o, d) := axis k; mm false (boxQuot false l o d) (boxQuot false h o d)
  let far := fun k => let (l, h, o, d) := axis k; mm true (boxQuot true l o d) (boxQuot true h o d)
  if bad 0 || bad 1 || bad 2 then none
  else
    let enter := mm true ray.tmin (mm true (near 0) (mm true (near 1) (near 2)))
    let leave := mm false (far 0) (mm false (far 1) (far 2))
    if F32.le enter leave && (Quo.of enter).le tmax then some enter else none

/-! ### Triangles (R191, R194) -/

/-- A triangle record. -/
structure Tri where
  a    : V3
  b    : V3
  c    : V3
  prim : Nat
  geom : Nat
  flg  : Nat
  deriving DecidableEq, Repr

/-- The axis of largest magnitude, lowest index among equals. -/
def mainAxis (d : V3) : Nat :=
  let k := if F32.lt (F32.abs d.x) (F32.abs d.y) then 1 else 0
  if F32.lt (F32.abs (d.at_ k)) (F32.abs d.z) then 2 else k

/-- A vertex as a ray sees it: the three values of R194. -/
structure Seen where
  x : Quo
  y : Quo
  z : Quo

/-- The edge function a.x × b.y − a.y × b.x, exact. -/
def edge (a b : Seen) : Quo := (a.x.mul b.y).sub (a.y.mul b.x)

/-- The test of a triangle in the interval (tmin, tmax]: exact, but for U, V and W, whose signs are those of the exact values and
which are then rounded (R9, R194). Where an infinity leaves no value the triangle is missed (DESIGN CHOICE, log 26). -/
def triangleHit (ray : Ray) (tmax : Quo) (tri : Tri) : Option Hit :=
  let d := ray.dir
  let kz := mainAxis d
  let k1 := (kz + 1) % 3
  let k2 := (k1 + 1) % 3
  let (kx, ky) := if F32.lt (d.at_ kz) 0 then (k2, k1) else (k1, k2)
  let dir := fun k => Quo.of (d.at_ k)
  let sx := (dir kx).div (dir kz)
  let sy := (dir ky).div (dir kz)
  let sz := (Quo.frac 1 1).div (dir kz)
  let see := fun (p : V3) =>
    let e := fun k => (Quo.of (p.at_ k)).sub (Quo.of (ray.org.at_ k))
    ({ x := (e kx).sub (sx.mul (e kz)), y := (e ky).sub (sy.mul (e kz)), z := sz.mul (e kz) } : Seen)
  let a := see tri.a
  let b := see tri.b
  let c := see tri.c
  let ue := edge c b
  let ve := edge a c
  let we := edge b a
  let zero := Quo.frac 0 1
  if (ue.lt zero || ve.lt zero || we.lt zero) && (zero.lt ue || zero.lt ve || zero.lt we) then none
  else
    let u := Quo.of ue.round
    let v := Quo.of ve.round
    let w := Quo.of we.round
    let det := (u.add v).add w
    if det.isZero || (tri.flg / 256 % 2 == 1 && det.lt zero) then none
    else
      let t := (((u.mul a.z).add (v.mul b.z)).add (w.mul c.z)).div det
      if (Quo.of ray.tmin).lt t && t.le tmax then
        some { t := t, u := (v.div det).round, v := (w.div det).round, prim := tri.prim, geom := tri.geom, back := det.lt zero }
      else none

/-! ### Memory (R416, R430) -/

/-- The query as it stands: whose it is, and its bases. -/
structure Query where
  gid   : Nat
  op    : MemOp
  nodes : VA
  tris  : VA
  any   : Bool
  deriving DecidableEq, Repr

/-- A relaxed read of n bytes of one line by the query's group; `at_` is the address that a fault reports. -/
def sightRead (q : Query) (va : VA) (n : Nat) (at_ : VA) (s : State) : Except EStop (Nat × State) :=
  match s.group? q.gid with
  | none => .error (.fail Cause.asyncFault Cause.translation at_ false)
  | some g =>
    let c := g.ctx
    let fault := fun (k : Nat) => Except.error (.fail Cause.asyncFault k at_ false)
    if windowOf va = 12 ∨ windowOf va = 13 ∨ windowOf va = 15 then fault Cause.window
    else
      match issueCheck s g (s.scrbOf g) va n, s.channelFor g (!q.op.user) false va with
      | some k, _ => fault k
      | none, .error f => fault f.cause
      | none, .ok e =>
        let of_ := fun (l : Line) => lineField l (va.toNat % 128) n
        if isScratch va then
          match s.team? g.teamId with
          | some t => .ok (s.scratch t (offsetOf va) n, s)
          | none => .ok (0, s)
        else if s.meetsFlaw g.coreId c va e then .error (.wait va false)
        else if windowOf va = 9 && !s.l1Valid g.coreId c va then
          match s.hostReply q.gid q.op (hostAddr (lineOf va) e) with
          | some (l, _) => .ok (of_ l, s)
          | none => .error (.wait va false)
        else
          match s.loadLine g.coreId q.gid c va e false true with
          | .done s l => .ok (of_ l, s)
          | .blocked _ => .error (.wait va false)

/-- Read a triangle in three chunks; one with a reserved bit breaks R192. -/
def readTriangle (q : Query) (i : Nat) (s : State) : Except EStop (Tri × State) := do
  let base := q.tris + BitVec.ofNat 52 (48 * i)
  let (x, s) ← sightRead q base 16 base s
  let (y, s) ← sightRead q (base + 16) 16 base s
  let (z, s) ← sightRead q (base + 32) 16 base s
  let all := x + 2 ^ 128 * (y + 2 ^ 128 * z)
  let w := fun k => all / 2 ^ (32 * k) % 2 ^ 32
  if 512 ≤ w 11 then .error (.fail Cause.bvhNode 0 base false)
  else
    .ok ({ a := { x := w 0, y := w 1, z := w 2 }, b := { x := w 3, y := w 4, z := w 5 },
           c := { x := w 6, y := w 7, z := w 8 }, prim := w 9, geom := w 10, flg := w 11 }, s)

/-- A child that the ray enters: its entry distance and its reference. -/
abbrev Child := Nat × Nat

/-- Put a child among those sorted by entry distance, after its equals. -/
def insertChild (x : Child) : List Child → List Child
  | [] => [x]
  | y :: ys => if F32.lt x.1 y.1 then x :: y :: ys else y :: insertChild x ys

/-- The children of a node that the ray enters, in the order of R195. -/
def enteredChildren (ray : Ray) (tmax : Quo) (l : Line) : List Child :=
  let w := fun k => lineField l k 4
  let box := fun (k : Nat) => ({ x := w k, y := w (k + 4), z := w (k + 8) } : V3)
  let kids := (List.range 4).filterMap (fun i =>
    if lineField l 1 1 / 2 ^ i % 2 = 1 then
      (boxEntry ray tmax (box (16 + 24 * i)) (box (28 + 24 * i))).map (fun e => (e, w (112 + 4 * i)))
    else none)
  kids.foldl (fun acc x => insertChild x acc) []

/-- The walk so far: what remains to visit, the hit, the nodes visited. -/
structure Walk where
  stack   : List Child
  hit     : Option Hit
  visited : Nat
  deriving DecidableEq, Repr

/-- tmax as the accepted hits have lowered it. -/
def Walk.tmax (w : Walk) (ray : Ray) : Quo :=
  match w.hit with
  | some h => h.t
  | none => Quo.of ray.tmax

/-- Test a leaf's triangles from the i-th on, in index order. -/
def testLeaf (q : Query) (ray : Ray) (i : Nat) : Nat → Walk → State → Except EStop (Walk × State)
  | 0, w, s => .ok (w, s)
  | n + 1, w, s =>
    match readTriangle q i s with
    | .error x => .error x
    | .ok (tri, s) =>
      let w' :=
        if tri.flg % 256 &&& ray.mask = 0 then w
        else
          match triangleHit ray (w.tmax ray) tri, w.hit with
          | some h, none => { w with hit := some h }
          | some h, some old => if h.t.lt old.t then { w with hit := some h } else w
          | none, _ => w
      if q.any && w'.hit.isSome then .ok ({ w' with stack := [] }, s) else testLeaf q ray (i + 1) n w' s

/-- Nodes that a query visits at most (R192). -/
def maxNodes : Nat := 2 ^ 20

/-- Walk what remains. -/
def walkBvh (q : Query) (ray : Ray) : Nat → Walk → State → Except EStop (Walk × State)
  | 0, w, s => .ok (w, s)
  | n + 1, w, s =>
    match w.stack with
    | [] => .ok (w, s)
    | (enter, ref) :: rest =>
      let w := { w with stack := rest }
      if (w.tmax ray).lt (Quo.of enter) then walkBvh q ray n w s
      else if 2 ^ 31 ≤ ref then
        match testLeaf q ray (ref % 2 ^ 27) (ref / 2 ^ 27 % 16 + 1) w s with
        | .error x => .error x
        | .ok (w, s) => walkBvh q ray n w s
      else
        let base := q.nodes + BitVec.ofNat 52 (128 * ref)
        if maxNodes ≤ w.visited then .error (.fail Cause.bvhNode 0 base false)
        else
          match sightRead q base 128 base s with
          | .error x => .error x
          | .ok (x, s) =>
            let l : Line := BitVec.ofNat 1024 x
            if lineField l 0 1 ≠ 0xB4 ∨ 16 ≤ lineField l 1 1 ∨ lineField l 2 14 ≠ 0 then
              .error (.fail Cause.bvhNode 0 base false)
            else
              walkBvh q ray n { w with
                stack := enteredChildren ray (w.tmax ray) l ++ rest
                visited := w.visited + 1 } s

/-- The words of a miss. -/
def missWords : List Word := [0x7F800000#32, 0, 0, 0xFFFFFFFF#32, 0xFFFFFFFF#32, 0]

/-- The words of a hit. -/
def Hit.words (h : Hit) : List Word :=
  [BitVec.ofNat 32 h.t.round, BitVec.ofNat 32 h.u, BitVec.ofNat 32 h.v, BitVec.ofNat 32 h.prim, BitVec.ofNat 32 h.geom,
   if h.back then 3 else 1]

/-- A ray that is a miss without anything read (R429). -/
def Ray.idle (r : Ray) : Bool :=
  [r.org.x, r.org.y, r.org.z, r.dir.x, r.dir.y, r.dir.z, r.tmin, r.tmax].any F32.isNaN || !F32.lt r.tmin r.tmax ||
  (F32.eq r.dir.x 0 && F32.eq r.dir.y 0 && F32.eq r.dir.z 0)

/-- One query: node 0 is visited first. -/
def runQuery (q : Query) (ray : Ray) (s : State) : Except EStop (List Word × State) :=
  if ray.idle then .ok (missWords, s)
  else
    match walkBvh q ray (5 * maxNodes + 8) { stack := [(ray.tmin, 0)], hit := none, visited := 0 } s with
    | .error x => .error x
    | .ok (w, s) => .ok ((w.hit.map Hit.words).getD missWords, s)

end Sys2Proof.Machine
end

