-- ==== Sys2Proof/Machine/Wings.lean ====
section
/-! DEFINITION. The words of the Wings pipe, 0xE0 to 0xE9, and the events of the Repertory engine and the Sightline unit
(R414 to R431). -/

namespace Sys2Proof.Machine

open Sys2Proof

/-! ### Shapes (R415) -/

/-- Words that a lane of an operation's destination run takes. -/
def WingsFn.words : WingsFn → Nat
  | .append => 3
  | .stamp | .reweight | .retire => 2
  | .drop => 0
  | .get => 32
  | .connect => 10
  | .merge => 5
  | .sight | .sightAny => 6

/-- One operation for the group, with scalar operands. -/
def WingsFn.once : WingsFn → Bool
  | .stamp | .drop | .reweight => true
  | _ => false

/-- Source words per lane. -/
def WingsFn.reads : WingsFn → Nat
  | .append => 32
  | .stamp | .drop => 0
  | .get | .merge | .retire => 1
  | .connect => 2
  | .reweight => 3
  | .sight | .sightAny => 9

/-- A Sightline query. -/
def WingsFn.isSight : WingsFn → Bool
  | .sight | .sightAny => true
  | _ => false

/-- The tags that the destination run takes (R418, R423 to R428). -/
def WingsFn.tags (f : WingsFn) (g : Group) (d : Nat) : Group :=
  match f with
  | .append | .retire => g.setTags d 1 f.words
  | .get => g.setTags d 15 32
  | .connect => g.setTags d 2 10
  | .merge => (g.setTags d 2 3).setTags (d + 3) 1 2
  | .sight | .sightAny => (g.setTags d 2 3).setTags (d + 3) 1 3
  | .stamp | .drop | .reweight => g

/-! ### Issue (R414, R416) -/

/-- The pairs s(A):s(A + 1) and s(A + 2):s(A + 3) of the base quad. -/
def Group.quad (g : Group) (sel : PcSel) (x : BitVec 7) : DWord × DWord :=
  let k := x.toNat - 96
  (pair64 (g.sRead sel (k + 1)) (g.sRead sel k), pair64 (g.sRead sel (k + 3)) (g.sRead sel (k + 2)))

/-- The addresses of the quad, with the alignment that each must have. -/
def WingsFn.bases (f : WingsFn) (q : DWord × DWord) : List (VA × Nat) :=
  if f.isSight then [(vaOf q.1, 128), (vaOf q.2, 16)] else [(vaOf q.1, 4096)]

/-- The causes of R416 at issue. -/
def State.wingsCheck (s : State) (g : Group) (m : Mask) (bs : List (VA × Nat)) : Option TrapInfo :=
  match bs.find? (fun b => b.1.toNat % b.2 != 0) with
  | some b => some { cause := Cause.misaligned, mask := m, addr := b.1 }
  | none =>
    let cause := fun (b : VA × Nat) => (issueCheck s g (s.scrbOf g) b.1 1).getD 0
    let top := bs.foldl (fun a b => max a (cause b)) 0
    if top = 0 then none
    else
      let va := ((bs.find? (fun b => cause b == top)).map (fun b => b.1)).getD 0
      some { cause := top, mask := m, addr := va, info := BitVec.ofNat 32 (issueInfo top va false) }

/-- A word of the Wings pipe: the test of R163, the checks, then one operation with its sources sampled. -/
def wingsWord (fn : WingsFn) (e : Env) (g : Group) (s : State) : Res :=
  match if fn == .append then s.uncheckedTrap g e.sel else none with
  | some t => .trap t s
  | none =>
    let m := g.exec e.sel
    let d := e.f.d.toNat
    let b := e.f.b.toNat
    let q := g.quad e.sel e.f.a
    let tagged := fn.tags g d
    if m = 0 then .ok (s.setGroup e.gid tagged)
    else if g.cntFull .xt then .wait s
    else
      match s.wingsCheck g m (fn.bases q) with
      | some t => .trap t s
      | none =>
        let order : Order := { acq := fn == .stamp, rel := fn == .append, sc := false }
        let data := if fn.once then (List.range fn.reads).map (fun k => (k, g.sRead e.sel (b - 96 + k)))
          else (lanesOf m).flatMap (fun l => (List.range fn.reads).map (fun k => (32 * l + k, g.vRead (b + k) l)))
        let regs := if fn == .drop then []
          else if fn.once then [.s (d - 96), .s (d - 96 + 1)]
          else vRegs d fn.words
        .ok (s.issueOp e.gid tagged { e.newOp g (.wings fn) .xt order m with
          addrs := [(0, q.1.toNat % 2 ^ 52), (1, q.2.toNat)]
          data := data
          regs := regs
          dst := if fn.once then d - 96 else d })

/-! ### Replies (R416) -/

/-- A failure: its lane, cause, inner cause and address. -/
abbrev LaneFail := Nat × Nat × Nat × VA

/-- Source word k of a lane, or of a "once" operation. -/
def MemOp.src (o : MemOp) (l k : Nat) : Word := SMap.get 0 o.data (32 * l + k)

/-- Write the words of a lane's destination run. -/
def Group.wingsWrite (g : Group) (fn : WingsFn) (o : MemOp) (r : Nat × List Word) : Group :=
  r.2.zipIdx.foldl (fun (g : Group) w =>
    if fn.once then g.scalarReply o (o.dst + w.2) w.1 else g.vSet (o.dst + w.2) r.1 w.1) g

/-- The late fault of an operation's failing lanes: the lowest lane's cause, every failing lane. -/
def State.wingsFault (s : State) (gid : Nat) (fn : WingsFn) (o : MemOp) (bad : List LaneFail) : State :=
  match bad with
  | [] => s
  | (_, c, i, a) :: _ =>
    let m := if fn.once then o.lanes else maskOfLanes (bad.map (fun x => x.1))
    s.lateFail gid o c i 3 m (if fn.isSight then a else o.addr 0)

/-- The results of every lane; a failing one's words are all ones. -/
def wingsResults (fn : WingsFn) (good : List (Nat × List Word)) (bad : List LaneFail) : List (Nat × List Word) :=
  good ++ bad.map (fun x => (x.1, List.replicate fn.words 0xFFFFFFFF#32))

/-- Words as an operation keeps them. -/
def resultData (rs : List (Nat × List Word)) : SMap Word :=
  rs.flatMap (fun r => r.2.zipIdx.map (fun w => (32 * r.1 + w.2, w.1)))

/-- An operation's results are ready, and its reply is on its way. -/
def State.wingsReady (s : State) (gid : Nat) (fn : WingsFn) (o : MemOp) (data : SMap Word) : State :=
  (s.putOp gid { o with
    kind := .wingsReply fn
    data := data }).post (.wingsReply (gid * 2 ^ 32 + o.id))

/-- The reply: the results are written and the operation is complete; those of a killed group are dropped (R241, R431). -/
def State.wingsDone (s : State) (gid : Nat) (o : MemOp) (fn : WingsFn) : State :=
  match s.group? gid with
  | none => s
  | some g =>
    let ls := if fn.once then [0] else lanesOf o.lanes
    let rs := ls.map (fun l => (l, (List.range fn.words).map (o.src l)))
    let s := if g.dead then s
      else
        let g' := rs.foldl (fun (h : Group) r => h.wingsWrite fn o r) g
        let s := s.setGroup gid (if g.changed g' then g'.restart o else g')
        -- a stamp is an acquire without a timestamp (R153)
        if fn == .stamp then s.expireAll g.coreId else s
    s.putOp gid { o with done := true }

/-- R241. -/
def State.wingsReply (s : State) (key : Nat) : State :=
  let gid := key / 2 ^ 32
  match s.group? gid with
  | none => s
  | some g =>
    match g.undone.find? (fun o => o.id == key % 2 ^ 32) with
    | none => s
    | some o =>
      match o.kind with
      | .wingsReply fn => s.wingsDone gid o fn
      | _ => s

/-! ### The engine at work (R171, R417) -/

/-- What an operation at the engine came to. -/
structure EngOut where
  s    : State
  good : List (Nat × List Word)
  bad  : List LaneFail

/-- Take the lanes in ascending order; a lane that fails leaves nothing changed (DESIGN CHOICE, log 26). -/
def takeLanes (f : Nat → Eng (List Word)) : List Nat → EngOut → Except EStop EngOut
  | [], x => .ok x
  | l :: ls, x =>
    match f l x.s with
    | .ok (ws, s) => takeLanes f ls { x with
        s := s
        good := x.good ++ [(l, ws)] }
    | .error (.fail c i a false) => takeLanes f ls { x with bad := x.bad ++ [(l, c, i, a)] }
    | .error (.fail c i a true) => .error (.fail c i a true)
    | .error (.wait va own) => .error (.wait va own)

/-- Every lane of an operation fails. -/
def allFail (s : State) (ls : List Nat) (c i : Nat) (a : VA) : EngOut := { s := s, good := [], bad := ls.map (fun l => (l, c, i, a)) }

/-- The lanes of an operation; a page that breaks R170, whichever lane meets it, fails the operation, which then leaves nothing
changed. -/
def engineLanes (f : Nat → Eng (List Word)) (ls : List Nat) (s : State) : Except EStop EngOut :=
  match takeLanes f ls { s := s, good := [], bad := [] } with
  | .error (.fail c i a _) => .ok (allFail s ls c i a)
  | x => x

/-- Reclaim after an operation; a fault that it meets fails every lane, which keep what they did (R180) (DESIGN CHOICE, log 26). -/
def engineReclaim (r : ArenaRef) (ls : List Nat) (x : EngOut) : Except EStop EngOut :=
  match reclaimAll r x.s with
  | .ok (s, none) => .ok { x with s := s }
  | .ok (s, some (c, i, a)) => .ok (allFail s ls c i a)
  | .error e => .error e

/-- Write the frontier after an operation; the header cannot be reached where that fails. -/
def engineFront (r : ArenaRef) (firsts : List Nat) (x : EngOut) : Except EStop EngOut :=
  match writeFront r firsts x.s with
  | .ok (_, s) => .ok { x with s := s }
  | .error (.fail _ _ _ _) => .ok x
  | .error (.wait va own) => .error (.wait va own)

/-- An operation at the engine of its arena: the arena is opened if need be and pays what it owes, then the lanes run, then
`after` (DESIGN CHOICE, log 26). -/
def State.engineWork (s : State) (g : Group) (o : MemOp) (ls : List Nat)
    (f : ArenaRef → Nat → Eng (List Word)) (after : ArenaRef → EngOut → Except EStop EngOut) : Except EStop EngOut :=
  match arenaRef g.ctx (o.addr 0) (!o.user) s with
  | .error (.wait va own) => .error (.wait va own)
  | .error (.fail c i a _) => .ok (allFail s ls c i a)
  | .ok r =>
    match openArena r s with
    | .error (.wait va own) => .error (.wait va own)
    | .error (.fail c i a _) => .ok (allFail s ls c i a)
    | .ok (_, s) =>
      let owed := s.arenas.filter (fun a => a.ctx == r.ctx && a.header == r.header)
      match owed.foldlM (fun (s : State) a => s.settleArena a) s with
      | .error e => .error e
      | .ok s =>
        match engineLanes (f r) ls s with
        | .error e => .error e
        | .ok x => after r x

/-- Run an operation of the Wings pipe that may be performed, named by its key. -/
def State.wingsOp (s : State) (key : Nat) (fn : WingsFn) (taken : Bool)
    (h : State → Nat → Group → MemOp → Except EStop State) : State :=
  let gid := key / 2 ^ 32
  match s.group? gid with
  | none => s
  | some g =>
    match g.undone.find? (fun o => o.id == key % 2 ^ 32 && o.kind == .wings fn && o.ticket == taken && g.mayPerform o) with
    | none => s
    | some o =>
      match h s gid g o with
      | .ok s => s
      | .error (.wait va own) => s.unblock g.ctx va own
      | .error (.fail _ _ _ _) => s

/-- An operation whose reply follows at once. -/
def State.engineReply (s : State) (key : Nat) (fn : WingsFn) (f : MemOp → ArenaRef → Nat → Eng (List Word))
    (after : List Nat → ArenaRef → EngOut → Except EStop EngOut) : State :=
  s.wingsOp key fn false (fun s gid g o =>
    let ls := if fn.once then [0] else lanesOf o.lanes
    let after' := fun (r : ArenaRef) (x : EngOut) =>
      match after ls r x with
      | .error e => .error e
      | .ok x => engineFront r (x.s.unsealed g.ctx (o.addr 0) gid o.id) x
    match s.engineWork g o ls (f o) after' with
    | .error e => .error e
    | .ok x => .ok ((x.s.wingsFault gid fn o x.bad).wingsReady gid fn o (resultData (wingsResults fn x.good x.bad))))

/-- Nothing follows the lanes. -/
def noAfter (_ : List Nat) (_ : ArenaRef) (x : EngOut) : Except EStop EngOut := .ok x

/-- The stamp that an operation names. -/
def MemOp.stamp (o : MemOp) : Nat := SMap.get 0 o.addrs 1

/-! ### Appends (R177, R418, R419) -/

/-- The engine numbers the lanes of an append and writes their records; the reply waits for the seal. -/
def State.engineAppends (s : State) (key : Nat) : State :=
  s.wingsOp key .append false (fun s gid g o =>
    let first := fun (x : EngOut) => x.good.head?.map (fun r =>
      (r.2.getD 1 0).toNat + 2 ^ 32 * (r.2.getD 2 0).toNat)
    let after := fun (r : ArenaRef) (x : EngOut) =>
      engineFront r ((first x).toList ++ x.s.unsealed g.ctx (o.addr 0) gid o.id) x
    match s.engineWork g o (lanesOf o.lanes) (fun r l => engAppend r (o.src l)) after with
    | .error e => .error e
    | .ok x =>
      let s := x.s.wingsFault gid .append o x.bad
      let data := resultData (wingsResults .append x.good x.bad)
      match first x with
      | none => .ok (s.wingsReady gid .append o data)
      | some n =>
        .ok ((s.putOp gid { o with
          ticket := true
          ptes := [(0, n)]
          data := data }).post (.appendSealed key)))

/-- The stamps of an arena that wait for a seal may return. -/
def State.wakeStamps (s : State) (c : Ctx) (header : Nat) : State :=
  (s.groupsWhere (fun g => g.ctx == c)).foldl (fun s e =>
    (e.2.undone.filter (fun o => o.kind == .wings .stamp && o.ticket && SMap.get 0 o.addrs 0 == header)).foldl
      (fun s o => s.postOnce (.stampReturn (e.1 * 2 ^ 32 + o.id))) s) s

/-- An append is sealed: the frontier moves, and the lanes' replies are written. -/
def State.sealAppend (s : State) (key : Nat) : State :=
  s.wingsOp key .append true (fun s gid g o =>
    let x : EngOut := { s := s, good := [], bad := [] }
    let moved := match arenaRef g.ctx (o.addr 0) (!o.user) s with
      | .error (.wait va own) => Except.error (EStop.wait va own)
      | .error (.fail _ _ _ _) => .ok x
      | .ok r => engineFront r (s.unsealed g.ctx (o.addr 0) gid o.id) x
    match moved with
    | .error e => .error e
    | .ok x => .ok ((x.s.wingsReady gid .append o o.data).wakeStamps g.ctx (SMap.get 0 o.addrs 0)))

/-! ### Stamps (R178, R420) -/

/-- The engine takes a stamp's number; the stamp returns when every append below it is sealed. -/
def State.engineStamps (s : State) (key : Nat) : State :=
  s.wingsOp key .stamp false (fun s gid g o =>
    match s.engineWork g o [0] (fun r _ => do
        let n ← engStamp r g.lid
        pure (numberWords n)) (fun r x => engineFront r (x.s.unsealed g.ctx (o.addr 0) gid o.id) x) with
    | .error e => .error e
    | .ok x =>
      let n := (x.good.head?.map (fun r => (r.2.getD 0 0).toNat + 2 ^ 32 * (r.2.getD 1 0).toNat)).getD noNumber
      if n = noNumber then
        .ok ((x.s.wingsFault gid .stamp o x.bad).wingsReady gid .stamp o (resultData (wingsResults .stamp x.good x.bad)))
      else
        .ok ((x.s.putOp gid { o with
          ticket := true
          ptes := [(0, n)] }).post (.stampReturn key)))

/-- A stamp returns once the frontier has reached the number before it. -/
def State.returnStamp (s : State) (key : Nat) : State :=
  s.wingsOp key .stamp true (fun s gid g o =>
    let n := SMap.get 0 o.ptes 0
    if (s.unsealed g.ctx (o.addr 0) gid o.id).all (fun m => decide (n ≤ m)) then
      .ok (s.wingsReady gid .stamp o (resultData [(0, numberWords n)]))
    else .ok s)

/-! ### Sightline queries (R428 to R430) -/

/-- The ray of a lane. -/
def MemOp.ray (o : MemOp) (l : Nat) : Ray :=
  let w := fun k => (o.src l k).toNat
  { org := { x := w 0, y := w 1, z := w 2 }, dir := { x := w 3, y := w 4, z := w 5 }, tmin := w 6, tmax := w 7,
    mask := w 8 % 256 }

/-- What a query waits for: the host's line, or a line of the fabric or of a slice that sweeps. -/
def State.sightWait (s : State) (gid : Nat) (g : Group) (o : MemOp) (va : VA) : State :=
  if windowOf va = 9 then
    match s.channelFor g (!o.user) false va with
    | .ok e => s.askHost gid o (hostAddr (lineOf va) e)
    | .error _ => s
  else s.unblock g.ctx va false

/-- Run a query's lanes. -/
def State.runSight (s : State) (key : Nat) : State :=
  let go := fun (fn : WingsFn) (s : State) => s.wingsOp key fn false (fun s gid g o =>
    let q : Query := { gid := gid, op := o, nodes := o.addr 0, tris := o.addr 1, any := fn == .sightAny }
    match engineLanes (fun l s => runQuery q (o.ray l) s) (lanesOf o.lanes) s with
    | .error (.wait va _) => .ok (s.sightWait gid g o va)
    | .error e => .error e
    | .ok x =>
      let s := { x.s with host := { x.s.host with
        inFlight := x.s.host.inFlight.filter (fun r => r.write || r.owner != IhlOwner.op gid o.id) } }
      .ok ((s.wingsFault gid fn o x.bad).wingsReady gid fn o (resultData (wingsResults fn x.good x.bad))))
  go .sightAny (go .sight s)

/-! ### The words -/

/-- R418. -/
def execVapp (f : Fields) (s : State) : Host.Outcome State Fault Refusal := issue Op.vapp f (wingsWord .append) s

/-- R420. -/
def execVstamp (f : Fields) (s : State) : Host.Outcome State Fault Refusal := issue Op.vstamp f (wingsWord .stamp) s

/-- R421. -/
def execVdrop (f : Fields) (s : State) : Host.Outcome State Fault Refusal := issue Op.vdrop f (wingsWord .drop) s

/-- R423. -/
def execVget (f : Fields) (s : State) : Host.Outcome State Fault Refusal := issue Op.vget f (wingsWord .get) s

/-- R424. -/
def execVconn (f : Fields) (s : State) : Host.Outcome State Fault Refusal := issue Op.vconn f (wingsWord .connect) s

/-- R425. -/
def execVmrg (f : Fields) (s : State) : Host.Outcome State Fault Refusal := issue Op.vmrg f (wingsWord .merge) s

/-- R426. -/
def execVrwt (f : Fields) (s : State) : Host.Outcome State Fault Refusal := issue Op.vrwt f (wingsWord .reweight) s

/-- R427. -/
def execVret (f : Fields) (s : State) : Host.Outcome State Fault Refusal := issue Op.vret f (wingsWord .retire) s

/-- R429: the closest hit. -/
def execSight (f : Fields) (s : State) : Host.Outcome State Fault Refusal := issue Op.sight f (wingsWord .sight) s

/-- R429: any hit. -/
def execSighta (f : Fields) (s : State) : Host.Outcome State Fault Refusal := issue Op.sighta f (wingsWord .sightAny) s

/-! ### The events -/

/-- R177, R418. -/
def execEngineAppend (op : Nat) (s : State) : Host.Outcome State Fault Refusal := .next (s.engineAppends op)

/-- R177. -/
def execAppendSealed (op : Nat) (s : State) : Host.Outcome State Fault Refusal := .next (s.sealAppend op)

/-- R178. -/
def execEngineStamp (op : Nat) (s : State) : Host.Outcome State Fault Refusal := .next (s.engineStamps op)

/-- R178, R420. -/
def execStampReturn (op : Nat) (s : State) : Host.Outcome State Fault Refusal := .next (s.returnStamp op)

/-- R421. -/
def execEngineDrop (op : Nat) (s : State) : Host.Outcome State Fault Refusal :=
  .next (s.engineReply op .drop (fun o r _ => engDrop r o.stamp) (fun ls r x => if x.bad.isEmpty then engineReclaim r ls x else .ok x))

/-- R423. -/
def execEngineGet (op : Nat) (s : State) : Host.Outcome State Fault Refusal :=
  .next (s.engineReply op .get (fun o r l => engGet r o.stamp (o.src l 0).toNat) noAfter)

/-- R424. -/
def execEngineConnect (op : Nat) (s : State) : Host.Outcome State Fault Refusal :=
  .next (s.engineReply op .connect (fun o r l => engConnect r o.stamp (o.src l 0).toNat (o.src l 1).toNat) noAfter)

/-- R425. -/
def execEngineMerge (op : Nat) (s : State) : Host.Outcome State Fault Refusal :=
  .next (s.engineReply op .merge (fun o r l => engMerge r o.stamp (o.src l 0).toNat) noAfter)

/-- R185, R426. -/
def execEngineReweight (op : Nat) (s : State) : Host.Outcome State Fault Refusal :=
  .next (s.engineReply op .reweight (fun o r _ =>
    let w := fun k => (o.src 0 k).toNat
    engReweight r (w 0) (w 1 % 65536) (w 1 / 65536) (w 2)) noAfter)

/-- R180, R427. -/
def execEngineRetire (op : Nat) (s : State) : Host.Outcome State Fault Refusal :=
  .next (s.engineReply op .retire (fun o r l => engRetire r (o.src l 0).toNat)
    (fun ls r x => engineReclaim r ls x))

/-- R429. -/
def execSightlineQuery (op : Nat) (s : State) : Host.Outcome State Fault Refusal := .next (s.runSight op)

/-- R241. -/
def execWingsReply (op : Nat) (s : State) : Host.Outcome State Fault Refusal := .next (s.wingsReply op)

/-- R172: the Director closes an arena, and its stamps go with it. -/
def execArenaClose (ctx : Ctx) (header : VA) (s : State) : Host.Outcome State Fault Refusal :=
  .next { s with arenas := s.arenas.filter (fun a => !(a.ctx == ctx && a.header == header)) }

end Sys2Proof.Machine
end

