-- ==== Sys2Proof/Machine/Launch.lean ====
section
/-! DEFINITION. Launches: the block and its checks, the queues, the dependence word, the end of a team, completion increments
and kill records (R196 to R202, R254, R331 to R334). -/

namespace Sys2Proof.Machine

open Sys2Proof

/-! ### The launch block (R196 to R198) -/

/-- The fields of a launch block. -/
def blockOf (l : Line) : LaunchBlock :=
  let n := fun (o k : Nat) => lineField l o k
  let w := fun (o : Nat) => BitVec.ofNat 32 (n o 4)
  let d := fun (o : Nat) => BitVec.ofNat 64 (n o 8)
  { entry := d 0, tdim := (w 8, w 12, w 16), gwc := n 20 1, ngrp := n 21 1, nvr := n 22 1, ntile := n 23 1,
    scrb := n 24 4, fifon := w 28, prio := n 32 1, pair := n 33 1 % 2 == 1, dep := n 33 1 / 2 % 2 == 1,
    ctx := BitVec.ofNat 8 (n 34 1), depva := d 40, depval := d 48, cmpva := d 56, argp := d 64 }

/-- T, the teams of a launch. -/
def LaunchBlock.teams (b : LaunchBlock) : Nat := b.tdim.1.toNat * b.tdim.2.1.toNat * b.tdim.2.2.toNat

/-- The lanes of each group. -/
def LaunchBlock.lanes (b : LaunchBlock) : Nat := 32 * (b.gwc + 1)

/-- q, the groups of a team on one quarter at most. -/
def LaunchBlock.perQuarter (b : LaunchBlock) : Nat :=
  let qs := if b.pair then 8 else 4
  (b.ngrp + qs - 1) / qs

/-- The vector register bytes that a team takes of each quarter. -/
def LaunchBlock.vBytes (b : LaunchBlock) : Nat := b.perQuarter * b.lanes * b.nvr * 4

/-- The tile store bytes that a team takes of each quarter. -/
def LaunchBlock.tBytes (b : LaunchBlock) : Nat := b.perQuarter * b.ntile * (b.gwc + 1) * 4096

/-- The banks of FIFO k. -/
def LaunchBlock.fifoBanks (b : LaunchBlock) (k : Nat) : Nat := b.fifon.toNat / 16 ^ k % 16

/-- The scratch banks of a team. -/
def LaunchBlock.scratchBanks (b : LaunchBlock) : Nat := (b.scrb + 16383) / 16384

/-- The banks of a team. -/
def LaunchBlock.banks (b : LaunchBlock) : Nat :=
  b.scratchBanks + (List.range 8).foldl (fun n k => n + b.fifoBanks k) 0

/-- A reserved byte or bit of a block is nonzero. -/
def blockReserved (l : Line) : Bool := lineField l 33 1 / 4 != 0 || lineField l 35 5 != 0 || lineField l 72 56 != 0

/-- An 8-byte field names a virtual address (R89). -/
def isVa (x : DWord) : Bool := decide (x.toNat < 2 ^ 52)

/-- The entry lies on an executable page of the context. -/
def State.entryOk (s : State) (b : LaunchBlock) : Bool :=
  let va := vaOf b.entry
  isVa b.entry && va.toNat % 4 == 0 && (decide (windowOf va ≤ 9) || windowOf va == 11) &&
  (match translate s b.ctx .fetch true va with
   | .ok _ => true
   | .error _ => false)

/-- The dependence word can be watched. -/
def State.depOk (s : State) (b : LaunchBlock) : Bool :=
  let va := vaOf b.depva
  isVa b.depva && va.toNat % 8 == 0 && decide (windowOf va ≤ 8) &&
  (match translate s b.ctx .read true va with
   | .ok _ => true
   | .error _ => false)

/-- The completion word can be written. -/
def State.cmpOk (s : State) (b : LaunchBlock) : Bool :=
  let va := vaOf b.cmpva
  isVa b.cmpva && va.toNat % 8 == 0 && decide (windowOf va ≤ 10) &&
  (windowOf va != 10 || (s.isMember (deviceOf va) && s.fabricAccess b.ctx == 2)) &&
  (match translate s b.ctx .write true va with
   | .ok _ => true
   | .error _ => false)

/-- A live context that a launch may name (DESIGN CHOICE, log 29). -/
def State.liveContext (s : State) (c : Ctx) : Bool := c != 0 && (s.context? c.toNat).any (fun x => !x.killed)

/-- The first check of reason codes 1 to 12 that a block fails (R198). -/
def State.blockReason (s : State) (l : Line) : Option Nat :=
  let b := blockOf l
  if blockReserved l then some 1
  else if b.teams = 0 ∨ 2 ^ 32 < b.teams then some 2
  else if 3 ≤ b.gwc then some 3
  else if b.ngrp = 0 ∨ 32 < b.ngrp then some 4
  else if b.nvr < 8 ∨ 96 < b.nvr ∨ b.nvr % 8 ≠ 0 then some 5
  else if b.ntile ≠ 0 ∧ b.ntile ≠ 2 ∧ b.ntile ≠ 4 ∧ b.ntile ≠ 8 then some 6
  else if 7 < b.prio then some 7
  else if 786432 < b.scrb ∨ (List.range 8).any (fun k => decide (8 < b.fifoBanks k)) ∨ 48 < b.banks then some 8
  else if 16 < b.perQuarter ∨ 131072 < b.vBytes ∨ 131072 < b.tBytes then some 9
  else if !s.entryOk b then some 10
  else if (b.dep && !s.depOk b) || (b.cmpva != 0 && !s.cmpOk b) then some 11
  else if !s.liveContext b.ctx then some 12
  else none

/-! ### Queues (R199, R202) -/

/-- The launches in a queue of a die, first to last. -/
def DieState.queue (d : DieState) (level : Nat) : List Nat := SMap.get [] d.queues level

def DieState.setQueue (d : DieState) (level : Nat) (q : List Nat) : DieState :=
  { d with queues := SMap.set [] d.queues level q }

/-- The launches that each queue holds at most. -/
def queueSize : Nat := 64

/-- A die takes no further launch of a priority. -/
def State.queueFull (s : State) (die prio : Nat) : Bool :=
  decide (queueSize ≤ ((s.die die).queue prio).length) ||
  decide (1024 ≤ (s.launchesWhere (fun l => l.die == die && decide (0 < l.nextTeam))).length)

/-- The id of the next launch that a die accepts, and its count. -/
def DieState.nextId (d : DieState) (die : Nat) : Nat × Nat :=
  let n := if d.launchCount + 1 < 2 ^ 29 then d.launchCount + 1 else 1
  (die * 2 ^ 29 + n, n)

/-! ### The dependence word (R200) -/

/-- What reading the dependence word gives: its value, or the fault's cause. -/
def State.readDep (s : State) (b : LaunchBlock) : Except Nat Nat :=
  let va := vaOf b.depva
  match s.channel b.ctx true false va with
  | .error f => .error f.cause
  | .ok e => .ok (s.atomicOld b.ctx va e 8)

/-- Read the dependence word of a queued launch: it becomes ready, or stays; a fault is reported once. The 2^20 clocks of R202, which
speaks of a ready launch, count from here and not from its acceptance (DESIGN CHOICE, log 29). -/
def State.checkDep (s : State) (lid : Nat) : State :=
  match s.launch? lid with
  | none => s
  | some l =>
    if l.queued && !l.ready && l.blk.dep then
      match s.readDep l.blk with
      | .ok x =>
        if l.blk.depval.toNat ≤ x then s.setLaunch lid { l with
          ready := true
          agedFrom := s.clk }
        else s
      | .error c =>
        if l.faultSent then s
        else (s.setLaunch lid { l with faultSent := true }).tellDirector l.die
          (hwMessage 2 l.die l.blk.ctx.toNat (BitVec.ofNat 32 lid) l.blk.depva.toNat c)
    else s

/-- R200. -/
def execDependenceNotify (launch : Nat) (s : State) : Host.Outcome State Fault Refusal := .next (s.checkDep launch)

/-! ### Acceptance (R198) -/

/-- A launch as the Cue Unit accepts it. -/
def Launch.fresh (b : LaunchBlock) (die clk : Nat) (href : Word) : Launch :=
  { blk := b, die := die, level := b.prio, queued := true, ready := !b.dep, nextTeam := 0, ended := 0, incs := 0,
    pendingIncs := 0, faultSent := false, discarding := false, lastLost := false, lastValue := 0, agedFrom := clk,
    href := href }

/-- The Cue Unit's answer to a block: the state, the status and the second word. None stands for a block that is misaligned
or cannot be read. A bad block whose queue is full too is reported as bad: R198 does not order the two (DESIGN CHOICE, log 29). -/
def State.cueUnit (s : State) (die : Nat) (block : Option Line) (href : Word) : State × Nat × Word :=
  match block with
  | none => (s, 2, 13)
  | some l =>
    match s.blockReason l with
    | some r => (s, 2, BitVec.ofNat 32 r)
    | none =>
      let b := blockOf l
      if s.queueFull die b.prio then (s, 1, 0)
      else
        let d := s.die die
        let (lid, n) := d.nextId die
        let d := { d.setQueue b.prio (d.queue b.prio ++ [lid]) with launchCount := n }
        let s := ((s.setDie die d).setLaunch lid (.fresh b die s.clk href)).checkDep lid
        (s, 0, BitVec.ofNat 32 lid)

/-- The leaf through which the Cue Unit reads a block under tag 0; none where it cannot. -/
def State.blockLeaf (s : State) (va : VA) : Option DWord :=
  let w := windowOf va
  if va.toNat % 128 ≠ 0 ∨ 12 ≤ w ∨ (w = 10 ∧ (!s.isMember (deviceOf va) || s.fabricAccess 0 == 0)) then none
  else
    match s.channel 0 true false va with
    | .ok e => some e
    | .error _ => none

/-- Write the answer of the Cue Unit into D and D + 1 and complete the LAUNCH. -/
def State.answerLaunch (s : State) (gid : Nat) (o : MemOp) (status : Nat) (w : Word) : State :=
  match s.group? gid with
  | none => s
  | some g =>
    let g' := if g.dead then g else (g.scalarReply o o.dst (BitVec.ofNat 32 status)).scalarReply o (o.dst + 1) w
    (s.setGroup gid (if g.changed g' then g'.restart o else g')).putOp gid { o with done := true }

/-- The Cue Unit reads the block of a LAUNCH and answers; the line may have to be waited for. -/
def State.launchAnswer (s : State) (key : Nat) : State :=
  let gid := key / 2 ^ 32
  match s.group? gid with
  | none => s
  | some g =>
    match g.undone.find? (fun o => o.id == key % 2 ^ 32), g.undone.head? with
    | some o, some first =>
      match o.kind with
      | .launch va =>
        if first.id ≠ o.id then s
        else
          let take := fun (s : State) (l : Option Line) =>
            let (s, status, w) := s.cueUnit g.die l 0
            s.answerLaunch gid o status w
          match s.blockLeaf va with
          | none => take s none
          | some e =>
            let host := hostAddr (lineOf va) e
            if windowOf va = 9 then
              match s.hostReply gid o host with
              | none => s.askHost gid o host
              | some (l, refused) => take (s.useReply gid o host) (if refused then none else some l)
            else
              match s.sliceRead g.coreId 0 va e with
              | .blocked s => s
              | .done s (l, _) => take s (some l)
      | _ => s
    | _, _ => s

/-- R198, R331. -/
def execLaunchAnswer (op : Nat) (s : State) : Host.Outcome State Fault Refusal := .next (s.launchAnswer op)

/-! ### Completion (R201) -/

/-- An event that reports the work of a context: held back while the context is resilient (R86). -/
def State.workEvent (s : State) (c : Ctx) (e : Event) : State :=
  match s.context? c.toNat with
  | some x =>
    if x.resilient && !x.killed then s.setContext c.toNat { x with heldEvts := x.heldEvts ++ [e.bytes 0] } else s.dirEvent e
  | none => s.dirEvent e

/-- The events held back for a context are sent (R86, R88). -/
def State.sendHeld (s : State) (c : Ctx) : State :=
  match s.context? c.toNat with
  | some x =>
    let s := s.setContext c.toNat { x with heldEvts := [] }
    x.heldEvts.foldl State.dirBytes s
  | none => s

/-- LAUNCH_DONE (R69). -/
def launchDone (l : Launch) (lid : Nat) (status : Nat) (value : DWord) : Event :=
  { kind := 0x03, src := l.die, href := l.href, ctx := l.blk.ctx.toNat,
    body := [(16, bytesNat 4 lid), (20, bytesNat 1 status), (24, bytes64 value)] }

/-- A launch completes: its stamps are dropped, it is tracked no longer, the Director is told and answers the cue
(DESIGN CHOICE, log 29). -/
def State.completeLaunch (s : State) (lid : Nat) : State :=
  match s.launch? lid with
  | none => s
  | some l =>
    let s := (s.dropStamps l.blk.ctx (BitVec.ofNat 32 lid)).removeLaunch lid
    let s := match s.context? l.blk.ctx.toNat with
      | some x => if x.resilient then s.setContext l.blk.ctx.toNat { x with redo := x.redo ++ [(lid, l)] } else s
      | none => s
    let s := s.tellDirector l.die (hwMessage 3 l.die l.blk.ctx.toNat (BitVec.ofNat 32 lid) l.blk.cmpva.toNat 0)
    if l.href = 0 then s
    else s.workEvent l.blk.ctx (launchDone l lid 0 (if l.blk.cmpva = 0 || l.lastLost then 0 else l.lastValue))

/-- The launches of a context that its end cuts short: their stamps are dropped, each is reported (R201, R422)
(DESIGN CHOICE, log 29). -/
def State.endLaunches (s : State) (c : Ctx) (status : Nat) : State :=
  (s.launchesWhere (fun l => l.blk.ctx == c)).foldl (fun s e =>
    ((s.dropStamps c (BitVec.ofNat 32 e.1)).removeLaunch e.1).dirEvent (launchDone e.2 e.1 status 0)) s

/-- Add to a doubleword at its home on behalf of no core, for a launch (R159, R201, R443): the value before. -/
def State.addOutside (s : State) (lid die : Nat) (c : Ctx) (va : VA) (e : DWord) (n : Nat) : Acc (Nat × Stored) :=
  let t := tagFor c va
  let loc := lineLoc s c va e
  let old := s.atomicOld c va e 8
  let performed := fun (r : Acc Nat) => match r with
    | .blocked s => Acc.blocked s
    | .done s old => Acc.done s (old, Stored.performed)
  if s.engineOwned loc then .done s (old, .refused)
  else if windowOf va = 9 then
    match s.hostRmw (.increment lid) va e 8 (fun x => (x + n) % 2 ^ 64) with
    | .blocked s => .blocked s
    | .done s old => .done ((s.leaseEnd die (fun y => y.ctx == t && y.line == lineNo va)).touched t va loc) (old, .performed)
  else if s.mustWait (die * 64) (homeDie va) t va e true then .blocked s
  else if (leafAttr e).ms then performed (s.baseDieAtomic c va e 8 (fun x => (x + n) % 2 ^ 64))
  else
    match s.writeAt (homeDie va) c va e 0 true (storeBytes (va.toNat % 128) 8 (old + n)) with
    | .blocked s => .blocked s
    | .done s _ => .done s (old, .performed)

/-- Translate and add 1: the value before, or the fault's cause. -/
def State.increment (s : State) (lid : Nat) (l : Launch) : Acc (Except Nat Nat) :=
  let va := vaOf l.blk.cmpva
  if windowOf va = 10 ∧ (!s.isMember (deviceOf va) || s.fabricAccess l.blk.ctx == 0) then
    .done s (.error (if s.isMember (deviceOf va) then Cause.protection else Cause.window))
  else
    match s.channel l.blk.ctx true true va with
    | .error f => .done s (.error f.cause)
    | .ok e =>
      match s.addOutside lid l.die l.blk.ctx va e 1 with
      | .blocked s => .blocked s
      | .done s (_, .refused) => .done s (.error Cause.arena)
      | .done s (old, _) => .done s (.ok old)

/-- What follows an increment that has been performed or discarded: the launch's own one, or completion. -/
def State.afterIncrement (s : State) (lid : Nat) (l : Launch) : State :=
  let all := l.blk.teams
  if l.incs = all + 1 then (s.setLaunch lid l).completeLaunch lid
  else if l.incs = all then (s.setLaunch lid { l with pendingIncs := 1 }).postOnce (.completionIncrement lid)
  else if 0 < l.pendingIncs then (s.setLaunch lid l).postOnce (.completionIncrement lid)
  else s.setLaunch lid l

/-- Perform or discard one increment of a launch. -/
def State.completionIncrement (s : State) (lid : Nat) : State :=
  match s.launch? lid with
  | none => s
  | some l =>
    if l.pendingIncs = 0 || (s.context? l.blk.ctx.toNat).any (fun x => x.killed) then s
    else
      let next := { l with
        incs := l.incs + 1
        pendingIncs := l.pendingIncs - 1 }
      if l.discarding then s.afterIncrement lid { next with lastLost := true }
      else
        match s.increment lid l with
        | .blocked s => s
        | .done s (.ok old) => s.afterIncrement lid { next with
            lastValue := BitVec.ofNat 64 (old + 1)
            lastLost := false }
        | .done s (.error c) =>
          let s := s.tellDirector l.die (hwMessage 4 l.die l.blk.ctx.toNat (BitVec.ofNat 32 lid) l.blk.cmpva.toNat c)
          s.afterIncrement lid { next with
            discarding := true
            lastLost := true }

/-- R201. -/
def execCompletionIncrement (launch : Nat) (s : State) : Host.Outcome State Fault Refusal :=
  .next (s.completionIncrement launch)

/-- A team ends when every one of its groups has: its banks return, and its increment is sent (R124, R201). One that waits to start again
has not ended. -/
def State.endTeam (s : State) (tid : Nat) : State :=
  match s.team? tid with
  | none => s
  | some t =>
    if t.counting.isEmpty && !t.groups.isEmpty then
      let s := s.dropTeam tid
      match s.launch? t.lid with
      | none => s
      | some l =>
        let l := { l with ended := l.ended + 1 }
        if l.blk.cmpva = 0 then
          if l.ended = l.blk.teams then (s.setLaunch t.lid l).completeLaunch t.lid else s.setLaunch t.lid l
        else (s.setLaunch t.lid { l with pendingIncs := l.pendingIncs + 1 }).postOnce (.completionIncrement t.lid)
    else s

/-- R201. -/
def execTeamEnd (team : Nat) (s : State) : Host.Outcome State Fault Refusal := .next (s.endTeam team)

/-! ### Kill records (R254, R255) -/

/-- The first record of a die reaches its Director, which answers with KILL and reports the context's launches; further
records of the context are not delivered. -/
def State.deliverKill (s : State) (die : Nat) : State :=
  match (s.die die).kills with
  | [] => s
  | r :: _ =>
    let c : Ctx := BitVec.ofNat 8 (field r 2 1)
    let s := { s with dies := s.dies.map (fun (e : Nat × DieState) =>
      (e.1, { e.2 with kills := e.2.kills.filter (fun x => field x 2 1 != field r 2 1) })) }
    let s := (s.tellDirector die r).sendHeld c
    let s := s.dirEvent { kind := 0x06, src := die, ctx := c.toNat, body := [(16, r.take 48)] }
    s.endLaunches c 2

/-- R254. -/
def execKillRecordDelivery (die : Fin 8) (s : State) : Host.Outcome State Fault Refusal := .next (s.deliverKill die.val)

end Sys2Proof.Machine
end

