-- ==== Sys2Proof/Machine/Placement.lean ====
section
/-! DEFINITION. The Stage Manager: aging, fit, placement and pre-emption; the start of a group; switching contexts between a
core and its shadows (R197, R202 to R208, R249, R262, R441). -/

namespace Sys2Proof.Machine

open Sys2Proof

/-! ### What a core holds -/

/-- A team is resident on a core of a die. -/
def Team.on (t : Team) (die core : Nat) : Bool :=
  t.die == die && (t.core == core || (t.paired && t.core / 2 == core / 2))

/-- The teams of a context that are resident on a core. -/
def State.teamsOn (s : State) (die core : Nat) (c : Ctx) : List (Nat × Team) :=
  s.teamsWhere (fun t => t.on die core && t.ctx == c)

/-- The rank of a context on a core: the highest level among the launches of its resident teams (R205). -/
def State.rankOf (s : State) (die core : Nat) (c : Ctx) : Option Nat :=
  (s.teamsOn die core c).foldl (fun r e =>
    match s.launch? e.2.lid with
    | some l => some (max l.level (r.getD 0))
    | none => some (r.getD 0)) none

/-- The rank of a core. -/
def State.rank (s : State) (die core : Nat) : Option Nat :=
  ((s.core (coreKey die core)).active).bind (s.rankOf die core)

/-- The core's active context has a resident team. -/
def State.occupied (s : State) (die core : Nat) : Bool :=
  ((s.core (coreKey die core)).active).any (fun c => !(s.teamsOn die core c).isEmpty)

/-- The groups in the slots of a quarter. -/
def State.residents (s : State) (die core quarter : Nat) : List (Nat × Group) :=
  s.groupsWhere (fun g => g.die == die && g.core == core && g.quarter == quarter)

/-- The groups in the slots of a core. -/
def State.population (s : State) (die core : Nat) : Nat :=
  (s.groupsWhere (fun g => g.die == die && g.core == core)).length

/-! ### Fit (R204) -/

/-- The slots, register bytes and tile bytes that a team needs are free on a quarter. -/
def State.quarterRoom (s : State) (b : LaunchBlock) (die core quarter : Nat) : Bool :=
  let gs := s.residents die core quarter
  let v := gs.foldl (fun n e => n + e.2.lanes * e.2.nvr * 4) 0
  let t := gs.foldl (fun n e => n + e.2.ntile * e.2.beats * 4096) 0
  decide (gs.length + b.perQuarter ≤ 16) && decide (v + b.vBytes ≤ 131072) && decide (t + b.tBytes ≤ 131072)

/-- The mode, core and FIFO number that a bank has once its drain is over. -/
def Bank.settled (b : Bank) : BankMode × Nat × Nat := b.next.getD (b.mode, b.core, b.fifo)

/-- The unclaimed banks of a pair that a test on their settled configuration accepts, in ascending order. -/
def State.freeBanks (s : State) (pair : Nat) (p : BankMode × Nat × Nat → Bool) : List Nat :=
  (List.range 64).filter (fun n =>
    let b := s.bank (bankKey pair n)
    b.clm.isNone && p b.settled)

/-- The unclaimed scratch banks of a pair. -/
def State.freeScratch (s : State) (pair : Nat) : List Nat := s.freeBanks pair (fun x => x.1 == .scratch)

/-- The unclaimed banks of FIFO k of a pair. -/
def State.freeFifo (s : State) (pair k : Nat) : List Nat := s.freeBanks pair (fun x => x.1 == .fifo && x.2.2 == k)

/-- The pair has the banks of a team unclaimed (R124). -/
def State.bankRoom (s : State) (b : LaunchBlock) (pair : Nat) : Bool :=
  decide (b.scratchBanks ≤ (s.freeScratch pair).length) &&
  (List.range 8).all (fun k => decide (b.fifoBanks k ≤ (s.freeFifo pair k).length))

/-- The cores that a team placed on a core, or on the pair of a core, occupies. -/
def LaunchBlock.cores (b : LaunchBlock) (core : Nat) : List Nat :=
  if b.pair then [core / 2 * 2, core / 2 * 2 + 1] else [core]

/-- A resident paired team claims a core until it ends. -/
def State.pairClaimed (s : State) (die core : Nat) : Bool :=
  !(s.teamsWhere (fun t => t.paired && t.on die core)).isEmpty

/-- Slots, bytes and banks are free, and no paired team claims the cores. -/
def State.roomOn (s : State) (b : LaunchBlock) (die core : Nat) : Bool :=
  (b.cores core).all (fun c => (List.range 4).all (s.quarterRoom b die c) && !s.pairClaimed die c) &&
  s.bankRoom b (coreKey die core / 2)

/-- The core is open to a launch: not switching, not promised to another. -/
def State.openTo (s : State) (lid die core : Nat) : Bool :=
  let k := s.core (coreKey die core)
  !k.switching && k.claim.all (· == lid)

/-- The next team of a launch fits on a core, or on the pair that begins with a core (R204); where its context waits in memory for the
core, it comes back first (DESIGN CHOICE, log 27). -/
def State.fits (s : State) (lid : Nat) (b : LaunchBlock) (die core : Nat) : Bool :=
  (b.cores core).all (fun c => s.openTo lid die c && !(s.core (coreKey die c)).inMem.contains b.ctx &&
    (!s.occupied die c || (!b.pair && (s.core (coreKey die c)).active == some b.ctx))) &&
  s.roomOn b die core

/-- The cores on which a launch may be placed: every core, or the first of each pair. -/
def LaunchBlock.candidates (b : LaunchBlock) : List Nat :=
  if b.pair then (List.range 32).map (fun p => 2 * p) else List.range 64

/-- The core that the Stage Manager chooses: the fewest resident groups, the lowest number; for a paired team the lowest
pair. -/
def State.chooseCore (s : State) (lid : Nat) (b : LaunchBlock) (die : Nat) : Option Nat :=
  leastBy (fun c => if b.pair then 0 else s.population die c) (b.candidates.filter (s.fits lid b die))

/-! ### The start of a group (R208, R249) -/

/-- The level bank of a group that has taken no trap. -/
def CtlBank.start : CtlBank :=
  { hc := [], hb := 0, slotA := .none, slotB := .none, mark := 0, m := 0, s26 := 0, s27 := 0, ts := .a, pv := false, nx := .a }

/-- A trap bank never filled. -/
def TrapBank.start : TrapBank :=
  { cause := 0, ret := 0, mask := 0, addr := 0, word := 0, lit := 0, mode := 0, info := 0 }

/-- Where a group runs. -/
structure GroupPlace where
  die     : Nat
  core    : Nat
  quarter : Nat
  slot    : Nat

/-- The index of a team within its dimensions, x fastest (R203). -/
def LaunchBlock.index (b : LaunchBlock) (team : Nat) : Word × Word × Word :=
  let n := BitVec.ofNat 32
  let (x, y) := (b.tdim.1.toNat, b.tdim.2.1.toNat)
  (n (team % x), n (team / x % y), n (team / (x * y)))

/-- A group as its team is placed (R208). -/
def Group.start (p : GroupPlace) (b : LaunchBlock) (lid : Word) (team gidx : Nat) (hvec hsav : VA) (clk : Nat) : Group :=
  let full : Mask := BitVec.ofNat 96 (2 ^ b.lanes - 1)
  { die := p.die, core := p.core, quarter := p.quarter, slot := p.slot, ctx := b.ctx, team := team, gidx := gidx,
    lid := lid, tidx := b.index team, tdim := b.tdim, gcount := b.ngrp, arg := b.argp, nvr := b.nvr, ntile := b.ntile,
    gwc := b.gwc, v := [], vtag := [], s := [], p := [], trow := [], ttag := [], rmax := [], rsum := [],
    m := BitVec.ofNat 32 (b.gwc * 2 ^ 20), live := full,
    slotA := { pc := vaOf b.entry, owned := full, enable := full, status := .ready, back := 0, sib := 0 },
    slotB := .none, nextSel := .a, stack := [], hc := [], hb := 0, fxf := 0, troute := 0, lvl := 0, pv := b.ctx == 0,
    ts := .a, hintDrop := 0, tvecUser := 0, tvecDev := hvec,
    tsave := hsav + BitVec.ofNat 52 (512 * (p.core * 64 + p.quarter * 16 + p.slot)), clkHi := none, bank0 := .start,
    bank1 := .start, trap1 := .start, trap2 := .start, late := [], wd1 := 0, wd2 := 0, wdAt := clk, ops := [],
    nextOp := 0, yielded := none, place := .active, readyAt := clk, activeAt := clk,
    victims := [], token := none, wants := false, stalled := [], longStall := false, holdSel := none, draining := [],
    dead := false }

/-! ### Placement (R203) -/

/-- The active groups of a quarter. -/
def State.activeCount (s : State) (die core quarter : Nat) : Nat :=
  ((s.residents die core quarter).filter (fun e => e.2.place == .active)).length

/-- The core and quarter of group i of a team (R197). -/
def LaunchBlock.spread (b : LaunchBlock) (core i : Nat) : Nat × Nat :=
  if b.pair then (core / 2 * 2 + i % 2, i / 2 % 4) else (core, i % 4)

/-- Claim the banks of a team: scratch banks, which were lent, drain first (R124). -/
def State.claimBanks (s : State) (pair tid : Nat) (scratch fifos : List Nat) : State :=
  let take := fun (s : State) (n : Nat) =>
    s.setBank (bankKey pair n) { s.bank (bankKey pair n) with clm := some tid }
  let drain := fun (s : State) (n : Nat) =>
    if (s.bank (bankKey pair n)).drn then s
    else
      let s := s.setBank (bankKey pair n) { s.bank (bankKey pair n) with drn := true }
      if h : n < 64 then s.post (.bankDrainComplete pair ⟨n, h⟩) else s
  scratch.foldl (fun s n => drain (take s n) n) (fifos.foldl take s)

/-- No line counts for the group that a new group's slot held before (R212). -/
def Core.forgetLoader (k : Core) (gid : Nat) : Core :=
  { k with l1 := k.l1.map (fun (e : Nat × Option L1Line) => (e.1, e.2.map (fun (x : L1Line) =>
      if x.loader == some gid then { x with loader := none } else x))) }

/-- Put one group of a team into the lowest free slot of its quarter; its key. -/
def State.placeGroup (s : State) (b : LaunchBlock) (lid : Word) (team die core gidx : Nat) (drains : List Nat) :
    State × Nat :=
  let (c, q) := b.spread core gidx
  let slot := (firstFrom (fun n => (s.group? (gidOf die c q n)).isNone) 0 16).getD 0
  let d := s.die die
  let g := Group.start { die := die, core := c, quarter := q, slot := slot } b lid team gidx d.hvec d.hsav s.clk
  let g := { g with
    draining := drains
    place := if s.activeCount die c q < 8 then .active else .pending }
  let k := quarterKey (coreKey die c) q
  let x := s.quarter k
  let s := s.setQuarter k { x with
    limit := 8
    winStart := if (s.residents die c q).isEmpty then s.clk else x.winStart
    hits := if (s.residents die c q).isEmpty then 0 else x.hits }
  let s := s.setCore (coreKey die c) ((s.core (coreKey die c)).forgetLoader g.gid)
  (s.setGroup g.gid g, g.gid)

/-- The groups of a context on a core. -/
def State.groupsOn (s : State) (core : Nat) (c : Ctx) : List (Nat × Group) :=
  s.groupsWhere (fun g => g.coreId == core && g.ctx == c)

/-- Its groups take active places as far as there are any. -/
def State.promote (s : State) (core : Nat) (c : Ctx) : State :=
  (s.groupsOn core c).foldl (fun s e =>
    let g := { e.2.unstall s.clk with wdAt := s.clk }
    if s.activeCount g.die g.core g.quarter < 8 then
      s.setGroup e.1 { g with
        place := .active
        activeAt := s.clk }
    else s.setGroup e.1 { g with readyAt := s.clk }) s

/-- A core comes to a context for a team of it: a shadow of that context becomes the active one (R207), every copy in L1
expires (R153). -/
def State.takeCore (s : State) (core : Nat) (c : Ctx) : State :=
  let k := s.core core
  let s := (s.setCore core { k with
    active := some c
    claim := none
    shadows := k.shadows.filter (fun x => x.ctx != c) }).expireAll core
  if k.shadows.any (fun x => x.ctx == c) then s.promote core c else s

/-- Place the next team of a launch on a core: an acquire for each of its groups (R441). -/
def State.placeTeam (s : State) (lid : Nat) (l : Launch) (core : Nat) : State :=
  let b := l.blk
  let die := l.die
  let w := BitVec.ofNat 32 lid
  let tid := teamKey w l.nextTeam
  let pair := coreKey die core / 2
  let scratch := (s.freeScratch pair).take b.scratchBanks
  let fifos : List (Nat × List Nat) := (List.range 8).filterMap (fun k =>
    let ns := (s.freeFifo pair k).take (b.fifoBanks k)
    if ns = [] then none else some (k, ns))
  let drains := (scratch ++ fifos.flatMap (fun e => e.2)).map (bankKey pair)
  let s := s.claimBanks pair tid scratch (fifos.flatMap (fun e => e.2))
  let s := (b.cores core).foldl (fun s c => s.takeCore (coreKey die c) b.ctx) s
  let (s, gs) := (List.range b.ngrp).foldl (fun (acc : State × List Nat) i =>
    let (s, gid) := acc.1.placeGroup b w l.nextTeam die core i drains
    (s, acc.2 ++ [gid])) (s, [])
  s.setTeam tid { lid := lid, index := l.nextTeam, die := die, core := if b.pair then core / 2 * 2 else core,
                  paired := b.pair, ctx := b.ctx, scrb := b.scrb, groups := gs, ended := [], scratch := scratch,
                  fifoBk := fifos, fifos := [], ph := 0, arrived := [], losses := 0 }

/-- A launch one of whose teams has been placed goes to the tail of its queue, or leaves it (R199, R203). -/
def State.requeue (s : State) (lid : Nat) (l : Launch) : State :=
  let last := l.nextTeam + 1 == l.blk.teams
  let d := s.die l.die
  let q := (d.queue l.level).filter (· != lid)
  (s.setDie l.die (d.setQueue l.level (if last then q else q ++ [lid]))).setLaunch lid { l with
    nextTeam := l.nextTeam + 1
    queued := !last
    agedFrom := s.clk }

/-- The queued launches of a die, most urgent first. -/
def State.urgency (s : State) (die : Nat) : List (Nat × Launch) :=
  (List.range 8).flatMap (fun n => ((s.die die).queue (7 - n)).filterMap (fun lid =>
    (s.launch? lid).map (fun l => (lid, l))))

/-! ### Aging (R202) -/

/-- The launch has waited for 2^20 clocks and the queue above has room. -/
def State.ages (s : State) (l : Launch) : Bool :=
  l.queued && l.ready && decide (l.level < 7) && decide (l.agedFrom + 2 ^ 20 ≤ s.clk) &&
  decide (((s.die l.die).queue (l.level + 1)).length < queueSize)

/-- A launch rises one level, to the tail of the higher queue; the priority in its block becomes that level. -/
def State.age (s : State) (lid : Nat) : State :=
  match s.launch? lid with
  | none => s
  | some l =>
    if s.ages l then
      let d := s.die l.die
      let d := d.setQueue l.level ((d.queue l.level).filter (· != lid))
      let d := d.setQueue (l.level + 1) (d.queue (l.level + 1) ++ [lid])
      (s.setDie l.die d).setLaunch lid { l with
        blk := { l.blk with prio := l.level + 1 }
        level := l.level + 1
        agedFrom := s.clk }
    else s

/-- R202. -/
def execPriorityAging (launch : Nat) (s : State) : Host.Outcome State Fault Refusal := .next (s.age launch)

/-! ### Pre-emption (R205) -/

/-- The entry of the image table for a context (R263). -/
def State.imageEntry (s : State) (die : Nat) (c : Ctx) : Nat := s.phys ((s.die die).cimtab.toNat % 2 ^ 48 + 8 * c.toNat) 8

/-- The shadow that would stream out first: the lowest rank, the older among equals (R206). -/
def State.lowShadow (s : State) (die core : Nat) : Option Shadow :=
  match (s.core (coreKey die core)).shadows with
  | [] => none
  | x :: xs => some (xs.foldl (fun a y =>
      let r := fun (z : Shadow) => ((s.rankOf die core z.ctx).map (· + 1)).getD 0
      if r y < r a ∨ (r y = r a ∧ y.since < a.since) then y else a) x)

/-- A core can give up its active context: a shadow is free, or one may be streamed out. -/
def State.canSwitch (s : State) (die core : Nat) : Bool :=
  decide ((s.core (coreKey die core)).shadows.length < 2) ||
  (s.lowShadow die core).any (fun x => s.imageEntry die x.ctx != 0)

/-- The rank of the place that a launch would take: of the core, or the higher of the pair. -/
def State.placeRank (s : State) (b : LaunchBlock) (die core : Nat) : Option Nat :=
  (b.cores core).foldl (fun r c =>
    match s.rank die c, r with
    | some x, some y => some (max x y)
    | some x, none => some x
    | none, r => r) none

/-- A core, or a pair, that a launch may pre-empt. -/
def State.victimOk (s : State) (l : Launch) (core : Nat) : Bool :=
  (s.placeRank l.blk l.die core).any (fun r => decide (r < l.level)) && s.roomOn l.blk l.die core

/-- The victim: the lowest rank, then the fewest groups, then the lowest number; of pairs the lowest higher rank. -/
def State.victimCore (s : State) (l : Launch) : Option Nat :=
  leastBy (fun c => (s.placeRank l.blk l.die c).getD 0 * 2 ^ 16 + (if l.blk.pair then 0 else s.population l.die c))
    (l.blk.candidates.filter (s.victimOk l))

/-- The most urgent ready launch that fits nowhere and may pre-empt does, unless a pre-emption is under way. -/
def State.preempt (s : State) (die : Nat) : State :=
  if (List.range 64).any (fun c => (s.core (coreKey die c)).claim.isSome) then s
  else
    let next := (s.urgency die).findSome? (fun e =>
      if e.2.ready && (s.chooseCore e.1 e.2.blk die).isNone then (s.victimCore e.2).map (fun c => (e.1, e.2, c)) else none)
    match next with
    | none => s
    | some (lid, l, core) => (l.blk.cores core).foldl (fun s c =>
        let k := coreKey die c
        s.setCore k { s.core k with claim := some lid }) s

/-- A core is promised no longer to a launch that does not wait for it. -/
def State.dropClaims (s : State) (die : Nat) : State :=
  (List.range 64).foldl (fun s c =>
    let k := coreKey die c
    match (s.core k).claim with
    | none => s
    | some lid =>
      let waits := (s.launch? lid).any (fun l => l.queued && l.ready && (s.roomOn l.blk die c || (s.core k).switching))
      if waits then s else s.setCore k { s.core k with claim := none }) s

/-- The Stage Manager of a die places at most one team, and begins at most one pre-emption. -/
def State.stage (s : State) (die : Nat) : State :=
  if s.clk < (s.die die).placeAt then s
  else
    let s := s.setDie die { s.die die with placeAt := s.clk + 64 }
    let s := (s.urgency die).foldl (fun s e => s.age e.1) s
    let s := s.dropClaims die
    let s := match (s.urgency die).findSome? (fun e =>
        if e.2.ready then (s.chooseCore e.1 e.2.blk die).map (fun c => (e.1, e.2, c)) else none) with
      | some (lid, l, core) => (s.placeTeam lid l core).requeue lid l
      | none => s
    s.preempt die

/-- R203. -/
def execPlacement (die : Fin 8) (s : State) : Host.Outcome State Fault Refusal := .next (s.stage die.val)

/-! ### Switching (R206, R207) -/

/-- A core begins to switch out its active context: it starts no new run. -/
def State.switchOut (s : State) (core : Nat) : State :=
  let k := s.core core
  if k.active.isSome then s.setCore core { k with switching := true } else s

/-- R206. -/
def execSwitchOut (core : Nat) (s : State) : Host.Outcome State Fault Refusal := .next (s.switchOut core)

/-- An access that holds back a switch: everything but copies, the Wings pipe, and what waits for a release. -/
def MemOp.holdsSwitch (o : MemOp) : Bool :=
  match o.kind with
  | .copy _ _ _ _ _ _ | .wings _ | .wingsReply _ | .arrive _ | .exit => false
  | _ => true

/-- What a context on a core has in flight has completed into its state (R206, R372). -/
def State.drained (s : State) (core : Nat) (c : Ctx) : Bool :=
  (s.groupsOn core c).all (fun e => !(s.cur.any (fun x => x.gid == e.1)) && !s.speculates e.1 && !s.inUnit e.1 &&
    e.2.undone.all (fun o => !o.holdsSwitch))

/-- The drained context goes into a free shadow; its pending watch entries are struck (R165). -/
def State.shadowCopy (s : State) (core : Nat) : State :=
  let k := s.core core
  match k.active with
  | none => s
  | some c =>
    if k.switching && s.drained core c && decide (k.shadows.length < 2) then
      let gs := s.groupsOn core c
      let k := k.strike (fun w => gs.any (fun e => e.1 == w.gid))
      let s := s.setCore core { k with
        active := none
        shadows := k.shadows ++ [{ ctx := c, since := s.clk }]
        switching := false }
      gs.foldl (fun s e => s.setGroup e.1 { e.2.wdTick s.clk with
        place := .pending
        victims := []
        token := none
        wants := false }) s
    else s

/-- R206. -/
def execShadowCopy (core : Nat) (s : State) : Host.Outcome State Fault Refusal := .next (s.shadowCopy core)

/-- The context of highest rank among those given, the first among equals. -/
def State.highest (s : State) (core : Nat) (cs : List Ctx) : Option Ctx :=
  match cs with
  | [] => none
  | c :: cs => some (cs.foldl (fun a y =>
      let r := fun (x : Ctx) => ((s.rankOf (core / 64) (core % 64) x).map (· + 1)).getD 0
      if r a < r y then y else a) c)

/-- The shadow to switch in: the highest rank, the older among equals. -/
def State.highShadow (s : State) (core : Nat) : Option Ctx := s.highest core ((s.core core).shadows.map (fun x => x.ctx))

/-- A core whose active context has no resident team takes the shadow of highest rank. -/
def State.switchIn (s : State) (core : Nat) : State :=
  let k := s.core core
  if k.switching || s.occupied (core / 64) (core % 64) then s
  else
    match s.highShadow core with
    | none => s
    | some c =>
      (s.setCore core { k with
        active := some c
        shadows := k.shadows.filter (fun x => x.ctx != c) }).promote core c

/-- R207. -/
def execSwitchIn (core : Nat) (s : State) : Host.Outcome State Fault Refusal := .next (s.switchIn core)

end Sys2Proof.Machine
end

