-- ==== Sys2Proof/Machine/Image.lean ====
section
/-! DEFINITION. Context images: what a shadow streams to memory and what is streamed back (R206, R207, R262 to R265). -/

namespace Sys2Proof.Machine

open Sys2Proof

/-! ### Device-physical accesses as `pkg` accesses (R96, R263) -/

/-- Write bytes at a device-physical address: every coherent copy of their lines is removed. -/
def State.physWrite (s : State) (d : Nat) (bs : List Byte) : State :=
  let lines := ((List.range bs.length).map (fun k => physKey s ((d + k) / 128 * 128))).eraseDups
  let s := lines.foldl (fun s loc =>
    (s.copiesOf loc (fun _ => true)).foldl (fun s e => if e.2.attr.swm then s else s.dropL2 e.1) s) s
  s.setPhys d bs

/-! ### Packing -/

/-- The 16-byte and 12-byte forms of a mask. -/
def maskBytes (n : Nat) (m : Mask) : List Byte := bytesNat n m.toNat

/-- The words of a list as bytes. -/
def wordBytes (ws : List Word) : List Byte := ws.flatMap bytesOfWord

/-- The code of a slot's status. -/
def SlotStatus.code : SlotStatus → Nat
  | .empty => 0
  | .ready => 1
  | .joining => 2
  | .demoted => 3

/-- The status that a code gives. -/
def SlotStatus.ofCode (n : Nat) : SlotStatus :=
  if n = 0 then .empty else if n = 1 then .ready else if n = 2 then .joining else .demoted

/-- The bit of a slot. -/
def selBit : PcSel → Nat
  | .a => 0
  | .b => 1

def selOf (n : Nat) : PcSel := if n = 0 then .a else .b

/-- The control bank of level k, the live state for the running level (R245, R265). -/
def Group.levelBank (g : Group) (k : Nat) : CtlBank :=
  if k = g.lvl then
    { hc := g.hc, hb := g.hb, slotA := g.slotA, slotB := g.slotB, mark := g.stack.length, m := g.m,
      s26 := SMap.get 0 g.s 26, s27 := SMap.get 0 g.s 27, ts := g.ts, pv := g.pv, nx := g.nextSel }
  else if k < g.lvl then g.bank k else .start

/-- The status word of a level. -/
def CtlBank.status (b : CtlBank) : Nat :=
  b.slotA.status.code + b.slotB.status.code * 2 ^ 2 + selBit b.nx * 2 ^ 4 + selBit b.ts * 2 ^ 5 + b.slotA.back % 128 * 2 ^ 6 +
  b.slotB.back % 128 * 2 ^ 13 + b.mark % 128 * 2 ^ 20

/-- The slot state of a level. -/
def CtlBank.slotBytes (b : CtlBank) : List Byte :=
  let sib := if b.slotA.status = .demoted then b.slotA.sib else if b.slotB.status = .demoted then b.slotB.sib else 0
  bytesNat 8 b.slotA.pc.toNat ++ maskBytes 12 b.slotA.owned ++ maskBytes 12 b.slotA.enable ++
  bytesNat 8 b.slotB.pc.toNat ++ maskBytes 12 b.slotB.owned ++ maskBytes 12 b.slotB.enable ++
  bytesNat 4 b.status ++ bytesOfWord b.s26 ++ bytesOfWord b.s27 ++ bytesNat 4 (sib % 2048)

/-- The hold counts of a level, one byte a lane. -/
def CtlBank.holdBytes (b : CtlBank) : List Byte :=
  (List.range 96).map (fun l => BitVec.ofNat 8 (SMap.get 0 b.hc l % 128 + (if lane b.hb l then 128 else 0)))

/-- A late-fault record. -/
def LateRec.bytes (r : LateRec) : List Byte :=
  bytesNat 1 r.cause ++ bytesNat 1 (1 + (if r.more then 2 else 0) + r.cls % 8 * 4) ++ bytesNat 1 r.inner ++ bytesNat 1 0 ++
  maskBytes 12 r.mask ++ bytesNat 8 r.addr.toNat ++ bytesOfWord r.word ++ bytesOfWord r.lit

/-- A trap bank has armed a replay that has not begun (R105). -/
def CtlBank.replayOf (b : CtlBank) (t : TrapBank) : Bool :=
  [b.slotA, b.slotB].any (fun p => p.pc == t.ret && p.kept.replay == some t.mask)

/-- A trap bank, in the order of R259; `rpl` is set too while its replay has not begun (R105). -/
def TrapBank.bytes (t : TrapBank) (pending : Bool) : List Byte :=
  wordBytes ((List.range 12).map ({ t with info := if pending then t.info ||| 1 else t.info } : TrapBank).read)

/-- A slot record as pieces at their offsets; what they do not cover is zero (R265) (DESIGN CHOICE, log 30). -/
def Group.record (g : Group) : List (Nat × List Byte) :=
  [(0x0000, wordBytes ((List.range 32).map (g.sRead .a))),
   (0x0080, (List.range 8).flatMap (fun k => maskBytes 16 (g.pRead k))),
   (0x0100, (List.range 48).map (fun k => BitVec.ofNat 8 (g.tagOf (2 * k) + 16 * g.tagOf (2 * k + 1)))),
   (0x0130, (List.range 24).map (fun k => BitVec.ofNat 8 (SMap.get 2 g.ttag k))),
   (0x0180, wordBytes [g.modeWord g.m, g.level, g.fxf.setWidth 32, g.troute.setWidth 32, g.counters, g.hintDrop] ++
     bytesNat 8 g.tvecUser.toNat ++ bytesNat 8 g.tvecDev.toNat ++ bytesNat 8 g.tsave.toNat ++ bytesNat 4 g.wd1 ++
     bytesNat 4 g.wd2 ++ bytesNat 4 g.stack.length),
   (0x0200, g.trap1.bytes (g.lvl == 0 && (g.levelBank 0).replayOf g.trap1)),
   (0x0240, g.trap2.bytes (g.lvl == 1 && (g.levelBank 1).replayOf g.trap2))] ++
  (List.range 3).map (fun k => (0x0280 + 0x80 * k, (g.levelBank k).holdBytes)) ++
  (List.range 3).map (fun k => (0x0400 + 0x80 * k, (g.levelBank k).slotBytes)) ++
  (List.range 3).map (fun k => (0x0600 + 0x20 * k, ((SMap.get none g.late k).map LateRec.bytes).getD [])) ++
  [(0x0680, wordBytes [g.tidx.1, g.tidx.2.1, g.tidx.2.2, g.tdim.1, g.tdim.2.1, g.tdim.2.2, BitVec.ofNat 32 g.gcount,
      BitVec.ofNat 32 g.gidx, g.lid] ++ bytes64 g.arg ++ bytesNat 1 g.nvr ++ bytesNat 1 g.ntile ++ bytesNat 1 g.gwc),
   (0x0800, g.stack.reverse.flatMap (fun e =>
      bytesNat 8 e.pc.toNat ++ maskBytes 12 e.owned ++ maskBytes 12 e.enable)),
   (0x1000, (List.range 24).flatMap (fun k =>
      wordBytes ((List.range 32).map (fun i => SMap.get 0 g.rmax (32 * k + i))) ++
      wordBytes ((List.range 32).map (fun i => SMap.get 0 g.rsum (32 * k + i)))))]

/-- The slot number 16q + s within the core. -/
def Group.slotNo (g : Group) : Nat := 16 * g.quarter + g.slot

/-- The vector register bytes of a group. -/
def Group.vBytes (g : Group) : Nat := g.lanes * g.nvr * 4

/-- The tile store bytes of a group. -/
def Group.tBytes (g : Group) : Nat := g.ntile * g.beats * 4096

/-- Where the packed bytes of a group begin within its quarter's share: behind those of the groups in lower slots. -/
def packedAt (gs : List (Nat × Group)) (g : Group) (size : Group → Nat) : Nat :=
  (gs.filter (fun e => e.2.quarter == g.quarter && decide (e.2.slot < g.slot))).foldl (fun n e => n + size e.2) 0

/-- Registers as bytes: register k, lane L at (k × lanes + L) × 4. -/
def Group.vImage (g : Group) : List Byte :=
  wordBytes ((List.range g.nvr).flatMap (fun k => (List.range g.lanes).map (g.vRead k)))

/-- Tiles as bytes: slice (k, b) at (k × beats + b) × 4,096, one row of 128 bytes a lane. -/
def Group.tImage (g : Group) : List Byte :=
  (List.range g.ntile).flatMap (fun k => (List.range g.lanes).flatMap (fun l => bytesNat 128 (g.rowOf k l).toNat))

/-- A watch entry in the header. -/
def watchBytes (w : Watch) (slot : Nat) : List Byte :=
  bytesNat 8 (w.line * 128) ++ bytesNat 1 slot ++ bytesNat 1 w.level ++
  bytesNat 1 (if w.state = .confirmed then 1 else 2) ++ bytesNat 5 0

/-- The 4 KiB header (R264). -/
def imageHeader (gs : List (Nat × Group)) (uwt : List Watch) (c : Ctx) (core : Nat) : List Byte :=
  let occ := gs.foldl (fun n e => n + 2 ^ e.2.slotNo) 0
  let ws := uwt.filterMap (fun w => (gs.find? (fun e => e.1 == w.gid)).map (fun e => watchBytes w e.2.slotNo))
  padTo 4096 (padTo 1024 (bytesNat 4 0x4358494D ++ bytesNat 1 c.toNat ++ bytesNat 1 (core % 64) ++ bytesNat 1 (core / 64) ++
    bytesNat 1 0 ++ bytesNat 8 occ) ++ padTo 1024 (ws.flatMap id))

/-- Where the image of a context on a core lies. -/
def State.imageBase (s : State) (core : Nat) (c : Ctx) : Nat :=
  s.imageEntry (core / 64) c % 2 ^ 48 + core % 64 * 0x210000

/-- Write the image of a context: its header, and for each of its groups the record, the registers and the tiles. -/
def State.writeImage (s : State) (core : Nat) (c : Ctx) : State :=
  let gs := s.groupsOn core c
  let base := s.imageBase core c
  let s := s.physWrite base (imageHeader gs (s.core core).uwt c core)
  gs.foldl (fun s e =>
    let g := e.2
    let at_ := base + 0x10000 + 0x4000 * g.slotNo
    let s := s.physWrite at_ (List.replicate 0x4000 0)
    let s := g.record.foldl (fun s r => s.physWrite (at_ + r.1) r.2) s
    let s := s.physWrite (base + 0x110000 + 0x20000 * g.quarter + packedAt gs g Group.vBytes) g.vImage
    s.physWrite (base + 0x190000 + 0x20000 * g.quarter + packedAt gs g Group.tBytes) g.tImage) s

/-- A shadow streams to memory when its copies and Wings operations have completed and it has an image area. -/
def State.streamOut (s : State) (core : Nat) (c : Ctx) : State :=
  let k := s.core core
  let gs := s.groupsOn core c
  if k.shadows.any (fun x => x.ctx == c) && s.imageEntry (core / 64) c != 0 && gs.all (fun e => e.2.undone.isEmpty) then
    let s := s.writeImage core c
    let k := s.core core
    s.setCore core { k with
      shadows := k.shadows.filter (fun x => x.ctx != c)
      inMem := k.inMem ++ [c]
      uwt := k.uwt.filter (fun w => !gs.any (fun e => e.1 == w.gid)) }
  else s

/-- R206, R263. -/
def execShadowStreamOut (core : Nat) (ctx : Ctx) (s : State) : Host.Outcome State Fault Refusal :=
  .next (s.streamOut core ctx)

/-! ### Loading (R264) -/

/-- How a record is read: n bytes at an offset, little-endian. -/
abbrev Rd := Nat → Nat → Nat

/-- A mask of 12 bytes. -/
def rdMask (rd : Rd) (o : Nat) : Mask := BitVec.ofNat 96 (rd o 12)

/-- An address field lies in its range. -/
def vaRange (rd : Rd) (o : Nat) : Bool := decide (rd o 8 < 2 ^ 52)

/-- The fields of one level lie in their ranges. -/
def levelRange (rd : Rd) (full : Mask) (depth k : Nat) : Bool :=
  let o := 0x0400 + 0x80 * k
  let m := fun (x : Nat) => rdMask rd (o + x) &&& ~~~full == 0
  vaRange rd o && vaRange rd (o + 32) && m 8 && m 20 && m 40 && m 52 && decide (rd (o + 64) 4 < 2 ^ 27) &&
  decide (rd (o + 64) 4 / 2 ^ 20 % 128 ≤ depth) && decide (rd (o + 76) 4 < 2048) &&
  (List.range 96).all (fun l => lane full l || rd (0x0280 + 0x80 * k + l) 1 == 0)

/-- A late-fault record lies in its ranges: causes of six bits (R257), and the class of a record that is valid is 1 to 4 (R252). -/
def lateRange (rd : Rd) (full : Mask) (k : Nat) : Bool :=
  let o := 0x0600 + 0x20 * k
  let cls := rd (o + 1) 1 / 4
  decide (cls ≤ 4) && (rd (o + 1) 1 % 2 == 0 || decide (1 ≤ cls)) && decide (rd o 1 < 64) && decide (rd (o + 2) 1 < 64) && (rdMask rd (o + 4) &&& ~~~full == 0) && vaRange rd (o + 16)

/-- A trap bank lies in its ranges: its cause is one of six bits, its mode is one that SETM accepts. -/
def trapRange (rd : Rd) (full : Mask) (o : Nat) : Bool :=
  decide (rd o 4 < 64) && vaRange rd (o + 4) && (rdMask rd (o + 12) &&& ~~~full == 0) && vaRange rd (o + 24) &&
  !modeBad (BitVec.ofNat 32 (rd (o + 40) 4) &&& 0xFFCFFFFF#32)

/-- Every value of a record lies within the range of its field: among them an aligned save area (R322), 1 to 32 groups in the team (R280)
and the group's index among them (R243) (DESIGN CHOICE, log 30). -/
def recordRange (g : Group) (rd : Rd) : Bool :=
  let depth := rd 0x01B8 4
  !modeBad (BitVec.ofNat 32 (rd 0x0180 4) &&& 0xFFCFFFFF#32) && bits (BitVec.ofNat 32 (rd 0x0180 4)) 21 20 == g.gwc &&
  decide (rd 0x0184 4 < 16) && decide (rd 0x0184 4 % 4 ≤ 2) && decide (rd 0x0188 4 < 32) && decide (rd 0x018C 4 < 2 ^ 17) &&
  rd 0x0190 4 == 0 && vaRange rd 0x0198 && vaRange rd 0x01A0 && vaRange rd 0x01A8 && rd 0x0198 4 % 4 == 0 && rd 0x01A0 4 % 4 == 0 &&
  rd 0x01A8 4 % 512 == 0 && decide (1 ≤ rd 0x0698 4) && decide (rd 0x0698 4 ≤ 32) && decide (rd 0x069C 4 < rd 0x0698 4) &&
  trapRange rd g.full 0x0200 && trapRange rd g.full 0x0240 &&
  decide (depth ≤ 64) && (List.range 3).all (levelRange rd g.full depth) && (List.range 3).all (lateRange rd g.full) &&
  (List.range 8).all (fun k => rd (0x0080 + 16 * k) 16 == (rdMask rd (0x0080 + 16 * k) &&& g.full).toNat) &&
  (List.range 24).all (fun k => decide (rd (0x0130 + k) 1 < 16)) &&
  rd 0x06AC 1 == g.nvr && rd 0x06AD 1 == g.ntile && rd 0x06AE 1 == g.gwc &&
  (List.range depth).all (fun j =>
    let o := 0x0800 + 32 * j
    vaRange rd o && (rdMask rd (o + 8) &&& ~~~g.full == 0) && (rdMask rd (o + 20) &&& ~~~g.full == 0))

/-- What stays with a slot's word, for which R263 gives no place, stays in the core (DESIGN CHOICE, log 30). -/
def keptAt (old : PcSlot) (pc : VA) : SlotKept := if old.pc = pc then old.kept else .none

/-- The slot state and hold counts of a level; `old` is the level as it was streamed out. -/
def loadLevel (rd : Rd) (k : Nat) (pv : Bool) (m : Word) (old : CtlBank) : CtlBank :=
  let o := 0x0400 + 0x80 * k
  let st := rd (o + 64) 4
  let sib := rd (o + 76) 4
  let slot := fun (p : PcSlot) (x code back : Nat) =>
    let status := SlotStatus.ofCode code
    let pc := BitVec.ofNat 52 (rd (o + x) 8)
    ({ pc := pc, owned := rdMask rd (o + x + 8), enable := rdMask rd (o + x + 20), status := status, back := back,
       sib := if status = .demoted then sib else 0, kept := keptAt p pc } : PcSlot)
  let hold := fun (l : Nat) => rd (0x0280 + 0x80 * k + l) 1
  { hc := (List.range 96).filterMap (fun l => if hold l % 128 = 0 then none else some (l, hold l % 128)),
    hb := maskOf (fun l => decide (128 ≤ hold l)),
    slotA := slot old.slotA 0 (st % 4) (st / 2 ^ 6 % 128), slotB := slot old.slotB 32 (st / 4 % 4) (st / 2 ^ 13 % 128),
    mark := st / 2 ^ 20 % 128, m := m, s26 := BitVec.ofNat 32 (rd (o + 68) 4), s27 := BitVec.ofNat 32 (rd (o + 72) 4),
    ts := selOf (st / 2 ^ 5 % 2), pv := pv, nx := selOf (st / 2 ^ 4 % 2) }

/-- A trap bank. -/
def loadTrap (rd : Rd) (o : Nat) : TrapBank :=
  let w := fun (k : Nat) => BitVec.ofNat 32 (rd (o + 4 * k) 4)
  { cause := w 0, ret := BitVec.ofNat 52 (rd (o + 4) 8), mask := rdMask rd (o + 12), addr := BitVec.ofNat 52 (rd (o + 24) 8),
    word := w 8, lit := w 9, mode := w 10, info := w 11 }

/-- The late-fault record of a level. -/
def loadLate (rd : Rd) (k : Nat) : Option LateRec :=
  let o := 0x0600 + 0x20 * k
  let f := rd (o + 1) 1
  if f % 2 = 0 then none
  else some { cause := rd o 1, inner := rd (o + 2) 1, mask := rdMask rd (o + 4), addr := BitVec.ofNat 52 (rd (o + 16) 8),
              word := BitVec.ofNat 32 (rd (o + 24) 4), lit := BitVec.ofNat 32 (rd (o + 28) 4), cls := f / 4 % 8,
              more := f / 2 % 2 == 1 }

/-- A map of words read at consecutive places, zeros not listed. -/
def loadWords (keys : List Nat) (w : Nat → Word) : SMap Word :=
  keys.filterMap (fun k => if w k = 0 then none else some (k, w k))

/-- The group that a slot record gives; `pv1` is whether level 1 is privileged, which an image of level 2 does not hold
(DESIGN CHOICE, log 30). -/
def Group.load (g : Group) (rd : Rd) (pv1 : Bool) : Group :=
  let w := fun (o : Nat) => BitVec.ofNat 32 (rd o 4)
  let va := fun (o : Nat) => BitVec.ofNat 52 (rd o 8)
  let tl := rd 0x0184 4
  let lvl := tl % 4
  let t1 := loadTrap rd 0x0200
  let t2 := loadTrap rd 0x0240
  let director := g.ctx == 0
  -- the mode of a banked level is the `tmode` of the level above it
  let b0 := loadLevel rd 0 director t1.mode (g.levelBank 0)
  let b1 := loadLevel rd 1 (if director then true else pv1) t2.mode (g.levelBank 1)
  let live := if lvl = 0 then b0 else if lvl = 1 then b1 else loadLevel rd 2 false 0 (g.levelBank 2)
  let sregs := loadWords (List.range 28) (fun k => w (4 * k))
  let depth := rd 0x01B8 4
  let entry := fun (j : Nat) =>
    let o := 0x0800 + 32 * j
    let kept := (g.stack.reverse[j]?.map (fun x => if x.pc = va o then x.kept else .none)).getD .none
    ({ pc := va o, owned := rdMask rd (o + 8), enable := rdMask rd (o + 20), kept := kept } : StackEntry)
  let id := 0x0680
  { g with
    s := SMap.set 0 (SMap.set 0 sregs 26 live.s26) 27 live.s27
    p := (List.range 8).filterMap (fun k =>
      let m := rdMask rd (0x0080 + 16 * k)
      if k = 0 ∨ m = 0 then none else some (k, m))
    vtag := (List.range 96).filterMap (fun k =>
      let t := rd (0x0100 + k / 2) 1 / 16 ^ (k % 2) % 16
      if t = 15 then none else some (k, t))
    ttag := (List.range 24).filterMap (fun k =>
      let t := rd (0x0130 + k) 1
      if t = 2 then none else some (k, t))
    m := w 0x0180
    lvl := lvl
    pv := tl / 4 % 2 == 1
    ts := selOf (tl / 8 % 2)
    fxf := BitVec.ofNat 5 (rd 0x0188 4)
    troute := BitVec.ofNat 17 (rd 0x018C 4)
    hintDrop := w 0x0194
    tvecUser := va 0x0198
    tvecDev := va 0x01A0
    tsave := va 0x01A8
    wd1 := rd 0x01B0 4
    wd2 := rd 0x01B4 4
    trap1 := if lvl = 0 && t1.replays then { t1 with info := t1.info &&& ~~~1 } else t1
    trap2 := if lvl = 1 && t2.replays then { t2 with info := t2.info &&& ~~~1 } else t2
    hc := live.hc
    hb := live.hb
    slotA := live.slotA
    slotB := live.slotB
    nextSel := live.nx
    bank0 := if lvl = 0 then g.bank0 else b0
    bank1 := if lvl < 2 then g.bank1 else b1
    late := (List.range 3).filterMap (fun k => (loadLate rd k).map (fun r => (k, some r)))
    tidx := (w id, w (id + 4), w (id + 8))
    tdim := (w (id + 12), w (id + 16), w (id + 20))
    gcount := rd (id + 24) 4
    gidx := rd (id + 28) 4
    lid := w (id + 32)
    arg := BitVec.ofNat 64 (rd (id + 36) 8)
    stack := ((List.range depth).map entry).reverse
    rmax := loadWords (List.range 768) (fun k => w (0x1000 + 256 * (k / 32) + 4 * (k % 32)))
    rsum := loadWords (List.range 768) (fun k => w (0x1080 + 256 * (k / 32) + 4 * (k % 32))) }

/-- The registers and tiles of a group from its packed bytes. -/
def Group.loadData (g : Group) (v t : Rd) : Group :=
  { g with
    v := (List.range g.nvr).flatMap (fun k => (List.range g.lanes).filterMap (fun l =>
      let x := BitVec.ofNat 32 (v ((k * g.lanes + l) * 4) 4)
      if x = 0 then none else some (96 * k + l, x)))
    trow := (List.range g.ntile).flatMap (fun k => (List.range g.lanes).filterMap (fun l =>
      let x := BitVec.ofNat 1024 (t (k * g.beats * 4096 + l * 128) 128)
      if x = 0 then none else some (rowKey k (l / 32) (l % 32), x))) }

/-- The header names the context, its place, and exactly its occupied slots; its watch entries are well formed. -/
def headerRange (gs : List (Nat × Group)) (c : Ctx) (core : Nat) (rd : Rd) : Bool :=
  rd 0 4 == 0x4358494D && rd 4 1 == c.toNat && rd 5 1 == core % 64 && rd 6 1 == core / 64 &&
  rd 8 8 == gs.foldl (fun n e => n + 2 ^ e.2.slotNo) 0 &&
  (List.range 64).all (fun j =>
    let o := 1024 + 16 * j
    rd (o + 10) 1 == 0 || (rd (o + 10) 1 ≤ 2 && rd (o + 9) 1 ≤ 2 && vaRange rd o &&
      gs.any (fun e => e.2.slotNo == rd (o + 8) 1)))

/-- The watch entries of a header. -/
def loadWatches (gs : List (Nat × Group)) (c : Ctx) (rd : Rd) : List Watch :=
  (List.range 64).filterMap (fun j =>
    let o := 1024 + 16 * j
    let st := rd (o + 10) 1
    if st = 0 then none
    else (gs.find? (fun e => e.2.slotNo == rd (o + 8) 1)).map (fun e =>
      let va := BitVec.ofNat 52 (rd o 8)
      { gid := e.1, op := 0, level := rd (o + 9) 1, ctx := tagFor c va, line := lineNo va, wts := 0,
        state := if st = 1 then .confirmed else .struck }))

/-- Load one group of a context from its image. -/
def State.loadGroup (s : State) (base : Nat) (gs : List (Nat × Group)) (e : Nat × Group) : State :=
  let g := e.2
  let rd : Rd := fun o n => s.phys (base + 0x10000 + 0x4000 * g.slotNo + o) n
  let v : Rd := fun o n => s.phys (base + 0x110000 + 0x20000 * g.quarter + packedAt gs g Group.vBytes + o) n
  let t : Rd := fun o n => s.phys (base + 0x190000 + 0x20000 * g.quarter + packedAt gs g Group.tBytes + o) n
  let (x, s) := s.free
  let (y, s) := s.free
  let g := { (g.load rd (x.getLsbD 0)).loadData v t with
    clkHi := if y.getLsbD 32 then some (y.setWidth 32) else none
    yielded := none }
  s.setGroup e.1 g

/-- The kill record of a refused image names the context's first group. -/
def State.refuseImage (s : State) (gs : List (Nat × Group)) : State :=
  match gs with
  | (_, g) :: _ => s.escalate g (killRecord g { cause := 0, mask := 0 } 2 0 0)
  | [] => s

/-- A context that waits in memory is streamed into a free shadow; an image with a value out of range is refused. -/
def State.streamIn (s : State) (core : Nat) (c : Ctx) : State :=
  let k := s.core core
  if k.inMem.contains c && decide (k.shadows.length < 2) then
    let gs := s.groupsOn core c
    let base := s.imageBase core c
    let hd : Rd := fun o n => s.phys (base + o) n
    let ok := headerRange gs c core hd && gs.all (fun e =>
      recordRange e.2 (fun o n => s.phys (base + 0x10000 + 0x4000 * e.2.slotNo + o) n))
    if !ok then s.refuseImage gs
    else
      let s := gs.foldl (fun s e => s.loadGroup base gs e) s
      s.setCore core { k with
        shadows := k.shadows ++ [{ ctx := c, since := s.clk }]
        inMem := k.inMem.filter (fun x => x != c)
        uwt := k.uwt ++ loadWatches gs c hd }
  else s

/-- R207, R264. -/
def execShadowStreamIn (core : Nat) (ctx : Ctx) (s : State) : Host.Outcome State Fault Refusal :=
  .next (s.streamIn core ctx)

end Sys2Proof.Machine
end

