-- ==== Sys2Proof/Machine/Invalidate.lean ====
section
/-! DEFINITION. Invalidations and the reconcile sweep, the machine registers as events, and the coherence steps of a slice
(R98, R99, R129, R135, R139, R200, R214). -/

namespace Sys2Proof.Machine

open Sys2Proof

/-! ### What a span covers (R98, R99) -/

/-- The size kind of the page that holds an address: the largest that a cached or walked leaf gives. -/
def State.pageKind (s : State) (c : Ctx) (va : VA) : Nat :=
  let size := fun (p : Nat) => if p = 1 then 2 ^ 21 else if p = 2 then 2 ^ 30 else 2 ^ 16
  let cached := s.mem.tcache.foldl (fun m (e : Nat × DWord) =>
    let p := ebits e.2 15 14
    if e.1 / 2 ^ 36 = c.toNat ∧ e.1 % 2 ^ 36 * 65536 / size p = va.toNat / size p then max m p else m) 0
  let walked := match walk s c va with
    | .ok e => ebits e 15 14
    | .error _ => 0
  max cached walked

/-- The first address and the length of the page. -/
def State.pageRange (s : State) (c : Ctx) (va : VA) : Nat × Nat :=
  let p := s.pageKind c va
  let n := if p = 1 then 2 ^ 21 else if p = 2 then 2 ^ 30 else 2 ^ 16
  (va.toNat / n * n, n)

/-- A span with its page resolved: a tag, or every tag, and a range of addresses. -/
structure Cover where
  ctx   : Option Ctx
  first : Nat
  len   : Nat

/-- What a span covers. -/
def State.cover (s : State) (x : Span) : Cover :=
  match x with
  | .page c va =>
    let (a, n) := s.pageRange (tagFor c va) va
    { ctx := some c, first := a, len := n }
  | .context c => { ctx := some c, first := 0, len := 2 ^ 52 }
  | .all => { ctx := none, first := 0, len := 2 ^ 52 }

/-- The address of a tag lies within the span. -/
def Cover.has (x : Cover) (c : Ctx) (a : Nat) : Bool :=
  x.ctx.all (· == c) && decide (x.first ≤ a) && decide (a < x.first + x.len)

/-! ### The reconcile sweep (R139) -/

/-- Merge the dirty bytes of the software-managed copies of one location: a byte dirty in several copies takes the value of
one of them, which one is free; the conflict is reported. -/
def State.reconcile (s : State) (loc : Nat) (xs : List (Nat × L2Line)) : State :=
  let dirtyIn := fun (j : Nat) => xs.filter (fun e => e.2.dirty.getLsbD j)
  let conflict := (List.range 128).foldl (fun m j => if 2 ≤ (dirtyIn j).length then m + 2 ^ j else m) 0
  let (f, s) := s.free
  let value := fun (j : Nat) =>
    let ds := dirtyIn j
    (ds[f.toNat / 2 ^ (8 * j) % max 1 ds.length]?).map (fun e => (j, byteOf e.2.data j))
  let s := xs.foldl (fun s e => s.setL2 e.1 (some { e.2 with dirty := 0 })) s
  let s := s.toHome loc ((List.range 128).filterMap value)
  match xs with
  | (k, _) :: _ =>
    if conflict = 0 then s
    else
      let va := l2KeyLine k * 128
      s.hwEvent { kind := 0x25, src := homeDie (BitVec.ofNat 52 va), ctx := (l2KeyCtx k).toNat,
                  body := [(24, bytesNat 8 va), (32, bytesNat 16 conflict)] }
  | [] => s

/-- Reconcile every location with software-managed copies in the span. -/
def State.reconcileSpan (s : State) (x : Cover) : State :=
  let hit := s.l2.filterMap (fun (e : Nat × Option L2Line) =>
    match e.2 with
    | some y => if y.attr.swm && x.has (l2KeyCtx e.1) (l2KeyLine e.1 * 128) then some (e.1, y) else none
    | none => none)
  ((hit.map (fun e => e.2.loc)).eraseDups).foldl (fun s loc =>
    s.reconcile loc (hit.filter (fun e => e.2.loc == loc))) s

/-! ### Invalidation (R99) -/

/-- Remove every cached line and translation of a span: lines are written back first. -/
def State.removeSpan (s : State) (x : Cover) : State :=
  let s := s.reconcileSpan x
  let l2 := s.l2.filter (fun (e : Nat × Option L2Line) => x.has (l2KeyCtx e.1) (l2KeyLine e.1 * 128))
  let s := l2.foldl (fun s e => s.dropL2 e.1) s
  let keep := fun (y : L1Line) => !x.has y.ctx (y.line * 128)
  let s := { s with cores := s.cores.map (fun (e : Nat × Core) =>
    (e.1, { e.2 with l1 := e.2.l1.filter (fun (y : Nat × Option L1Line) => y.2.all keep) })) }
  let sys := s.fab.lines.filter (fun (e : Nat × Option SysLine) =>
    x.has 0 (fabricVa (BitVec.ofNat 41 e.1)).toNat)
  let s := sys.foldl (fun s e => s.evictSys (BitVec.ofNat 41 e.1)) s
  { s with mem := { s.mem with tcache := s.mem.tcache.filter (fun (e : Nat × DWord) =>
      let a := e.1 % 2 ^ 36 * 65536
      !(x.has (BitVec.ofNat 8 (e.1 / 2 ^ 36)) a)) } }

/-- The Cue Unit reads the dependence words in the span again (R200). -/
def State.rereadDeps (s : State) (x : Cover) : State :=
  (s.launchesWhere (fun l => l.queued && !l.ready && l.blk.dep && x.has l.blk.ctx (vaOf l.blk.depva).toNat)).foldl
    (fun s e => s.checkDep e.1) s

/-- A whole invalidation of a span. -/
def State.invalidate (s : State) (x : Span) : State :=
  let c := s.cover x
  (s.removeSpan c).rereadDeps c

/-- The invalidation in progress ends: `busy` clears, and the next one that waits begins. -/
def State.endInvalidation (s : State) : State :=
  match s.mem.xiNow with
  | none => s
  | some x =>
    let s := s.invalidate x
    let s := { s with mem := { s.mem with
      xiBusy := false
      xiNow := none } }
    let s := match s.mem.xiWait with
      | y :: ys => { s with mem := { s.mem with xiWait := ys } }.startInvalidation y
      | [] => s
    (s.unstall (fun _ g => !g.stalled.isEmpty)).wakeAll

/-- R99. -/
def execInvalidationComplete (s : State) : Host.Outcome State Fault Refusal := .next s.endInvalidation

/-- R99: span 0. -/
def execInvalidatePage (ctx : Ctx) (va : VA) (s : State) : Host.Outcome State Fault Refusal :=
  .next (s.startInvalidation (.page ctx va))

/-- R99: span 1. -/
def execInvalidateContext (ctx : Ctx) (s : State) : Host.Outcome State Fault Refusal :=
  .next (s.startInvalidation (.context ctx))

/-- R99: span 2. -/
def execInvalidateAll (s : State) : Host.Outcome State Fault Refusal := .next (s.startInvalidation .all)

/-- R98. -/
def execMboundWrite (value : Word) (s : State) : Host.Outcome State Fault Refusal := .next (s.writeMbound value)

/-- R98. -/
def execCtxtabWrite (high : Bool) (value : Word) (s : State) : Host.Outcome State Fault Refusal :=
  .next (s.writeCtxtab high value)

/-- R214. -/
def execLlctlWrite (die : Fin 8) (value : Word) (s : State) : Host.Outcome State Fault Refusal :=
  .next (s.writeLlctl die.val value)

/-! ### Steps of a slice (R129, R135) -/

/-- A core's renewal at its slice: the lease is extended and the copy refreshed; an address that does not translate is not
renewed. -/
def State.leaseRenewal (s : State) (core : Nat) (c : Ctx) (va : VA) : State :=
  match translate s c .read true va with
  | .error _ => s
  | .ok e =>
    if 12 ≤ windowOf va then s
    else
      match s.renew core (gidOf 8 0 0 0) c va e true with
      | .done s _ => s
      | .blocked s => s

/-- R129. -/
def execLeaseRenewal (core : Nat) (ctx : Ctx) (va : VA) (s : State) : Host.Outcome State Fault Refusal :=
  .next (s.leaseRenewal core ctx va)

/-- The bytes of a line that a mask enables. -/
def enabledBytes (en : BitVec 128) (line : Line) : List (Nat × Byte) :=
  ((List.range 128).filter (fun j => en.getLsbD j)).map (fun j => (j, byteOf line j))

/-- A store of bytes of one line on behalf of no core (R443); what is refused changes nothing. -/
def State.storeOutside (s : State) (die : Nat) (c : Ctx) (va : VA) (e : DWord) (bs : List (Nat × Byte)) : Acc Unit :=
  let t := tagFor c va
  let loc := lineLoc s c va e
  if s.engineOwned loc || s.poisoned loc then .done s ()
  else if windowOf va = 9 then
    .done (((s.setHostBytes (hostAddr (lineOf va) e) bs).leaseEnd die (fun y => y.ctx == t && y.line == lineNo va)).touched t va loc) ()
  else
    match s.writeAt (homeDie va) c va e 0 true bs with
    | .blocked s => .blocked s
    | .done s _ => .done s ()

/-- A store reaches its slice, from a core or on behalf of none; false where it must wait. -/
def State.sliceStore (s : State) (core : Option Nat) (c : Ctx) (va : VA) (bs : List (Nat × Byte)) : State × Bool :=
  let va := lineOf va
  match translate s c .write true va with
  | .error _ => (s, true)
  | .ok e =>
    if 11 ≤ windowOf va then (s, true)
    else
      match core with
      | none =>
        match s.storeOutside (homeDie va) c va e bs with
        | .done s _ => (s, true)
        | .blocked s => (s, false)
      | some k =>
        match s.storeLine k c va e bs with
        | .done s .sent =>
          match s.hostStored k c va e bs with
          | .done s _ => (s.setHostBytes (hostAddr va e) bs, true)
          | .blocked s => (s, false)
        | .done s _ => (s, true)
        | .blocked s => (s, false)

/-- R129: a store that must wait is performed when it may be. -/
def execSliceStore (core : Option Nat) (ctx : Ctx) (va : VA) (en : BitVec 128) (line : Line) (s : State) :
    Host.Outcome State Fault Refusal :=
  .next (if !s.running then s
    else
      let bs := enabledBytes en line
      match s.sliceStore core ctx va bs with
      | (s, true) => s
      | (s, false) => s.ask (.store core ctx va bs))

/-- A die reads a line homed elsewhere, or takes its ownership (R135); false where it must wait (R14, R132, R139). -/
def State.dieRequest (s : State) (die : Nat) (own : Bool) (c : Ctx) (va : VA) : State × Bool :=
  match translate s c (if own then .write else .read) true va with
  | .error _ => (s, true)
  | .ok e =>
    if windowOf va ≤ 11 && s.betweenDies va (leafAttr e) then
      let t := tagFor c va
      let loc := lineLoc s t va e
      if s.reconciling t va e loc || s.lineHeld die die va (leafAttr e) loc own then (s, false)
      else
        let (s, x) := s.ensureL2 die t va e
        (if own then s.dieOwn x.loc die (homeDie va) else s.dieRead x.loc die (homeDie va), true)
    else (s, true)

/-- R135; with the clocks of the core dies stopped their slices ask for nothing (R27). -/
def execInterdieCoherenceRequest (die : Fin 8) (own : Bool) (ctx : Ctx) (va : VA) (s : State) :
    Host.Outcome State Fault Refusal :=
  .next (if !s.running then s
    else
      match s.dieRequest die.val own ctx va with
      | (s, true) => s
      | (s, false) => s.ask (.die die.val own ctx va))

/-! ### Requests that wait (R14, R132, R413) -/

/-- A request that waits is tried again: false where it still waits. A hint whose page has gone ends without effect (DESIGN CHOICE,
log 22). -/
def State.serve (s : State) (r : SliceReq) : State × Bool :=
  match r with
  | .fetch core gid c va priv l1 =>
    match translate s c .read priv va with
    | .error _ => (s, true)
    | .ok e => s.fetchHint core gid c va e l1
  | .die die own c va => s.dieRequest die own c va
  | .store core c va bs => s.sliceStore core c va bs

/-- A try that could not go on has yet asked for what it needs: begun a sweep, sent a request. -/
def State.hasAsked (s s' : State) : Bool := s'.agenda != s.agenda || s'.slices != s.slices || s'.fab != s.fab

/-- The first request that can go on, or can ask for what it needs. -/
def State.askNext (s : State) : Option State :=
  s.asks.findSome? (fun r =>
    match ({ s with asks := s.asks.erase r }).serve r with
    | (s', true) => some s'
    | (s', false) => if s.hasAsked s' then some { s' with asks := s.asks } else none)

end Sys2Proof.Machine
end

