-- ==== Sys2Proof/Machine/Director.lean ====
section
/-! DEFINITION. What the Directors do: frames and page tables, contexts and their ends, answers to cues, handler mailboxes
(R65, R86, R88, R94 to R97, R201, R434, R435; DESIGN CHOICE, log 12). -/

namespace Sys2Proof.Machine

open Sys2Proof

/-! ### Frames (R95) -/

/-- The keys of the first bytes of the 512 lines of a frame: of die n, or of the package pool where n is 8. -/
def frameLines (mbound n f : Nat) : List Nat :=
  (List.range 512).map (fun i => if n < 8 then pinnedLine n i f (i / 64) else packageLine mbound i f)

/-- Zero a frame; no copy of its lines is left. -/
def State.zeroFrame (s : State) (n f : Nat) : State :=
  let ls := frameLines s.mem.mbound n f
  let hit := s.l2.filter (fun (e : Nat × Option L2Line) => e.2.any (fun x => ls.contains x.loc))
  let s := hit.foldl (fun s e => s.dropL2 e.1) s
  { s with mem := { s.mem with dram := s.mem.dram.filter (fun e => !ls.contains (e.1 / 128 * 128)) } }

/-- Take a frame that has been given back to a pool, and zero it. -/
def State.reuse (s : State) (pool : Nat) : Option (State × Nat) :=
  (s.mem.freed.find? (fun e => e.1 == pool && !s.mem.retired.contains e)).map (fun e =>
    ({ s with mem := { s.mem with freed := s.mem.freed.erase e } }.zeroFrame pool e.2, e.2))

/-- The next frame of a pool of `top` frames, of which `taken` have been considered, from the top down: a retired one is passed over.
The frame, and how many have then been considered. -/
def State.nextFrame (s : State) (pool top taken : Nat) : Option (Nat × Nat) :=
  ((List.range (s.mem.retired.length + 1)).find? (fun k =>
    taken + k < top && !s.mem.retired.contains (pool, top - 1 - (taken + k)))).map
      (fun k => (top - 1 - (taken + k), taken + k + 1))

/-- Take a new frame of the package pool, and zero it. -/
def State.newFrame (s : State) : State × Option Nat :=
  match s.nextFrame 8 (packageFrames s) s.mem.pkgPool with
  | some (f, n) => ({ s with mem := { s.mem with pkgPool := n } }.zeroFrame 8 f, some f)
  | none => (s, none)

/-- Take a frame of the package pool for the Director: one given back, or a new one. -/
def State.takeFrame (s : State) : State × Option Nat :=
  match s.reuse 8 with
  | some (s, f) => (s, some f)
  | none => s.newFrame

/-- Take a new frame of die n, and zero it. -/
def State.newDieFrame (s : State) (n : Nat) : State × Option Nat :=
  match s.nextFrame n (s.mem.mbound * 1024) (SMap.get 0 s.mem.diePool n) with
  | some (f, k) => ({ s with mem := { s.mem with diePool := SMap.set 0 s.mem.diePool n k } }.zeroFrame n f, some f)
  | none => (s, none)

/-- Take a frame of die n: one given back, or a new one. -/
def State.takeDieFrame (s : State) (n : Nat) : State × Option Nat :=
  match s.reuse n with
  | some (s, f) => (s, some f)
  | none => s.newDieFrame n

/-- Retire the frame of a line from its pool (R114, R117). -/
def State.retireFrame (s : State) (line : Nat) : State :=
  let p := placeOfLine s.mem.mbound line
  let s := { s with mem := { s.mem with
    retired := if s.mem.retired.contains (p.pool, p.frame) then s.mem.retired else s.mem.retired ++ [(p.pool, p.frame)]
    poison := SMap.set none s.mem.poison line none } }
  s.hwEvent { kind := 0x24, src := p.die, body := [(16, bytesNat 1 p.die), (17, bytesNat 1 (if p.pool = 8 then 1 else 0)),
                                                   (24, bytesNat 8 p.frame)] }

/-! ### Page tables (R100, R101) -/

/-- Write a doubleword at a device-physical address. -/
def State.physWord (s : State) (d : Nat) (x : DWord) : State := s.physWrite d (bytes64 x)

/-- The device-physical address of the entry of an address at `level`, walking from a table at the level `level − n`;
missing tables are made where `make` says so. -/
def State.entryAt (s : State) (va : VA) (make : Bool) (level table : Nat) : Nat → State × Option Nat
  | 0 => (s, some (table + 8 * levelIndex va level))
  | n + 1 =>
    let a := table + 8 * levelIndex va (level - (n + 1))
    let e : DWord := BitVec.ofNat 64 (s.phys a 8)
    if e.getLsbD 63 then
      if ebits e 15 14 = 3 then s.entryAt va make level (ebits e 47 16 * 65536 + ebits e 13 10 * 4096) n else (s, none)
    else if make then
      match s.takeFrame with
      | (s, some f) => (s.physWord a (BitVec.ofNat 64 (2 ^ 63 + f * 2 ^ 16 + 3 * 2 ^ 14))).entryAt va make level (f * 65536) n
      | (s, none) => (s, none)
    else (s, none)

/-- The entry of an address in the tables of a context. -/
def State.entryOf (s : State) (c : Ctx) (va : VA) (make : Bool) (psz : Nat) : State × Option Nat :=
  let root := s.descriptor c 0 8
  let level := leafLevel psz
  if root % 2 = 0 then (s, none) else s.entryAt va make level (root / 4096 % 2 ^ 36 * 4096) (level - 1)

/-- Bytes of a page of a kind. -/
def pageBytes (psz : Nat) : Nat := if psz = 1 then 2 ^ 21 else if psz = 2 then 2 ^ 30 else 2 ^ 16

/-- The addresses whose entries hold the replicas of a page's leaf. -/
def replicas (psz : Nat) (va : VA) : List VA :=
  if psz = 0 then [va]
  else (List.range 32).map (fun k => va + BitVec.ofNat 52 (k * (pageBytes psz / 32)))

/-- Write the leaf of a page into every entry that it covers; false where a table cannot be had. -/
def State.mapPage (s : State) (c : Ctx) (va : VA) (psz : Nat) (leaf : DWord) : State × Bool :=
  (replicas psz va).foldl (fun (acc : State × Bool) a =>
    match acc.1.entryOf c a true psz with
    | (s, some d) => (s.physWord d leaf, acc.2)
    | (s, none) => (s, false)) (s, true)

/-- Clear the leaf of a page. -/
def State.unmapPage (s : State) (c : Ctx) (va : VA) (psz : Nat) : State :=
  (replicas psz va).foldl (fun s a =>
    match s.entryOf c a false psz with
    | (s, some d) => s.physWord d 0
    | (s, none) => s) s

/-- A leaf from its attribute bits, frame and kind. -/
def leafWord (attr frame psz : Nat) : DWord := BitVec.ofNat 64 (attr % 2 ^ 16 * 2 ^ 48 + frame % 2 ^ 32 * 2 ^ 16 + psz * 2 ^ 14)

/-- Map one 64 KiB page of a context, read-write, `us` = 0, `sh` = `die`, to a zeroed frame of the pool of its window. -/
def State.mapFresh (s : State) (c : Ctx) (va : VA) : State :=
  let w := windowOf va
  let (s, f) := if w < 8 then s.takeDieFrame w else if w = 8 then s.takeFrame else (s, none)
  match f with
  | some f => (s.mapPage c va 0 (leafWord 0x8000 f 0)).1
  | none => s

/-! ### Answers (R65, R86) -/

/-- A cue's answer of a kind; a CUE_DONE of a resilient context is held back. -/
def State.answer (s : State) (die kind : Nat) (cue : List Byte) (body : List (Nat × List Byte)) : State :=
  let c : Ctx := BitVec.ofNat 8 (field cue 8 1)
  let e : Event := { kind := kind, src := die, href := BitVec.ofNat 32 (field cue 0 4), ctx := c.toNat, body := body }
  if kind = 0x02 then s.workEvent c e else s.dirEvent e

/-- CUE_DONE. -/
def State.cueDone (s : State) (die : Nat) (cue : List Byte) : State := s.answer die 0x02 cue []

/-- CUE_BAD with a reason word. -/
def State.cueBad (s : State) (die : Nat) (cue : List Byte) (reason : Word) : State :=
  s.answer die 0x05 cue [(16, bytesOfWord reason)]

/-- A reason word that the spec leaves to the Director (DESIGN CHOICE, log 12). -/
def State.directorReason (s : State) : Word × State :=
  (Config.directorWord s.freeCtr, { s with freeCtr := s.freeCtr + 1 })

/-- CUE_BAD with a reason word that the Director defines. -/
def State.cueBadOwn (s : State) (die : Nat) (cue : List Byte) : State :=
  let (w, s) := s.directorReason
  s.cueBad die cue w

/-! ### Contexts (R65, R67, R86, R88, R97) -/

/-- The 64 bytes of a context descriptor. -/
def descriptorBytes (root shtab prvbase prvlim fabr flags : Nat) : List Byte :=
  padTo 64 (bytesNat 8 root ++ bytesNat 8 shtab ++ bytesNat 8 prvbase ++ bytesNat 8 prvlim ++ bytesNat 1 fabr ++ bytesNat 1 flags)

/-- Where the descriptor of a context lies. -/
def State.descriptorAt (s : State) (c : Ctx) : Nat := s.mem.ctxtab.toNat % 2 ^ 48 + 64 * c.toNat

/-- A page is mapped. -/
def State.mapped (s : State) (c : Ctx) (va : VA) : Bool :=
  match walk s c va with
  | .ok _ => true
  | .error _ => false

/-- The save areas and handler mailboxes of a die, mapped into a new context, wherever they lie; dies of one `hsav` share them (R249,
R434). -/
def State.mapHandlers (s : State) (c : Ctx) (die : Nat) : State :=
  (List.range 64).foldl (fun s k =>
    let va := (s.die die).hsav + BitVec.ofNat 52 (65536 * k)
    if s.mapped c va then s else s.mapFresh c va) s

/-- A page of the device handler's code of a die is mapped into a new context with `x` = 1 and `us` = 0: the page that context 0 maps at
`hvec`, or a frame of its own (R249; DESIGN CHOICE, log 12). -/
def State.mapCode (s : State) (c : Ctx) (die : Nat) : State :=
  let at_ := (s.die die).hvec
  if at_ = 0 then s
  else
    match walk s 0 at_ with
    | .ok e =>
      let p := ebits e 15 14
      let base : VA := BitVec.ofNat 52 (at_.toNat / pageBytes p * pageBytes p)
      (s.mapPage c base p ((e &&& ~~~(1#64 <<< 56)) ||| (1#64 <<< 57))).1
    | .error _ =>
      let page : VA := at_ &&& ~~~0xFFFF
      let w := windowOf page
      let (s, f) := if w < 8 then s.takeDieFrame w else if w = 8 then s.takeFrame else (s, none)
      match f with
      | some f => (s.mapPage c page 0 (leafWord 0x8200 f 0)).1
      | none => s

/-- Create a context from the body of CTX_CREATE (R67). -/
def State.createContext (s : State) (c : Ctx) (cue : List Byte) : State :=
  let resilient := field cue 6 2 % 2
  let shtab := field cue 24 8
  let s := s.physWrite (s.descriptorAt c)
    (descriptorBytes (field cue 16 8) shtab (field cue 56 4 * 2 ^ 20) (field cue 60 4 * 2 ^ 20) (field cue 52 1) resilient)
  let s := if shtab = 0 then s else s.physWrite shtab (List.replicate 256 0)
  let s := s.setContext c.toNat
    { killed := false, resilient := resilient == 1, safe := BitVec.ofNat 64 (field cue 32 8),
      safeSize := BitVec.ofNat 64 (field cue 40 8), interval := BitVec.ofNat 32 (field cue 48 4), ckpts := 0,
      ckptAt := s.clk + field cue 48 4 * 1400000, guarded := [], failures := 0,
      saved := none, redo := [], heldEvts := [] }
  (List.range 8).foldl (fun s d => (s.mapHandlers c d).mapCode c d) s

/-- The work of a context ends: its held events go out, its groups and queued launches are gone, each launch is reported, its
arenas close with their stamps (R88, R201, R422). -/
def State.endWork (s : State) (c : Ctx) (status : Nat) : State :=
  let s := ((s.sendHeld c).killContext c).endLaunches c status
  let s := { s with arenas := s.arenas.filter (fun a => a.ctx != c) }
  match s.context? c.toNat with
  | some x => s.setContext c.toNat { x with
      killed := true
      saved := none
      redo := [] }
  | none => s

/-! ### What the tables of a context map -/

/-- The leaves below a table that stands `n` levels above the end, with the addresses that they map, and the frames of the
tables. -/
def State.tableLeaves (s : State) (table va : Nat) : Nat → List (Nat × DWord) × List Nat
  | 0 => ([], [])
  | n + 1 =>
    let level := 4 - n
    (List.range 512).foldl (fun (acc : List (Nat × DWord) × List Nat) i =>
      let e : DWord := BitVec.ofNat 64 (s.phys (table + 8 * i) 8)
      let a := va + i * 2 ^ (52 - 9 * level)
      if !e.getLsbD 63 then acc
      else if ebits e 15 14 = 3 then
        let sub := s.tableLeaves (ebits e 47 16 * 65536 + ebits e 13 10 * 4096) a n
        (acc.1 ++ sub.1, acc.2 ++ sub.2)
      else (acc.1 ++ [(a, e)], acc.2)) ([], [table / 65536])

/-- The leaves and table frames of a context. -/
def State.leavesOf (s : State) (c : Ctx) : List (Nat × DWord) × List Nat :=
  let root := s.descriptor c 0 8
  if root % 2 = 0 then ([], []) else s.tableLeaves (root / 4096 % 2 ^ 36 * 4096) 0 4

/-- The frames that the tables and the pages of a context take, by pool, as the Director has given them out. -/
def State.framesTaken (s : State) (c : Ctx) : List (Nat × Nat) :=
  let (leaves, tables) := s.leavesOf c
  let given := fun (e : Nat × Nat) =>
    if e.1 = 8 then decide (packageFrames s ≤ e.2 + s.mem.pkgPool) && decide (e.2 < packageFrames s)
    else decide (s.mem.mbound * 1024 ≤ e.2 + SMap.get 0 s.mem.diePool e.1) && decide (e.2 < s.mem.mbound * 1024)
  let pages := leaves.filterMap (fun l => if l.1 / 2 ^ 48 ≤ 8 ∧ ebits l.2 15 14 = 0 then some (l.1 / 2 ^ 48, ebits l.2 47 16) else none)
  (((tables.map (fun f => (8, f))) ++ pages).filter given).eraseDups

/-- The frames of a context go back to their pools, but for those that another context uses, and retired ones (R88). -/
def State.freeFrames (s : State) (c : Ctx) : State :=
  let others := ((s.contexts.filterMap (fun (e : Nat × Option Context) =>
    if e.1 ≠ c.toNat ∧ e.2.isSome then some (s.framesTaken (BitVec.ofNat 8 e.1)) else none))).flatten
  let fs := (s.framesTaken c).filter (fun f => !others.contains f && !s.mem.retired.contains f && !s.mem.freed.contains f)
  { s with mem := { s.mem with freed := s.mem.freed ++ fs } }

/-- The Director has mapped pages on request, and waits until `xistat.busy` reads clear (R435). -/
def State.setMapping (s : State) (ps : List (Ctx × VA)) : State := { s with mem := { s.mem with mapping := ps } }

/-- A context is gone with its mappings, its frames and its descriptor (R88). -/
def State.dropContext (s : State) (c : Ctx) : State :=
  let s := (s.freeFrames c).setMapping (s.mem.mapping.filter (fun p => p.1 != c))
  let s := s.physWrite (s.descriptorAt c) (List.replicate 64 0)
  (s.invalidate (.context c)).removeContext c.toNat

/-- CTX_DESTROY. -/
def State.destroyContext (s : State) (c : Ctx) : State := (s.endWork c 1).dropContext c

/-- A context fails: the event comes before the reports of its launches, which a device reset does not send (R69, R201). -/
def State.failContext (s : State) (c : Ctx) (reason : Nat) : State :=
  let s := (s.sendHeld c).hwEvent { kind := 0x07, src := srcIo, ctx := c.toNat, body := [(16, bytesNat 1 reason)] }
  let s := if reason = 0 then
      let s := s.killContext c
      (s.launchesWhere (fun l => l.blk.ctx == c)).foldl (fun s e => s.removeLaunch e.1) s
    else s
  (s.endWork c 2).dropContext c

/-- The contexts that exist, other than the global one. -/
def State.contextTags (s : State) : List Ctx :=
  s.contexts.filterMap (fun (e : Nat × Option Context) => if e.1 ≠ 0 ∧ e.2.isSome then some (BitVec.ofNat 8 e.1) else none)

/-! ### Pages written since a checkpoint (R86, R99) -/

/-- The pages of a list of leaves, each by its first address and kind. -/
def pagesOf (ls : List (Nat × DWord)) : List (VA × Nat) :=
  (ls.map (fun (l : Nat × DWord) =>
    let p := ebits l.2 15 14
    (BitVec.ofNat 52 (l.1 / pageBytes p * pageBytes p), p))).eraseDups

/-- The page holds an address of a range. -/
def pageMeets (pg : VA × Nat) (a n : Nat) : Bool := decide (pg.1.toNat < a + n) && decide (a < pg.1.toNat + pageBytes pg.2)

/-- A page that stays writable through a checkpoint: handlers, the engines and the Cue Unit write it, who do not trap
(DESIGN CHOICE, log 34). -/
def State.staysWritable (s : State) (c : Ctx) (pg : VA × Nat) : Bool :=
  (List.range 8).any (fun d => pageMeets pg (s.die d).hsav.toNat 0x400000) ||
  s.arenas.any (fun a => a.ctx == c && a.ranges.any (fun r => pageMeets pg r.1 r.2)) ||
  !(s.launchesWhere (fun l => l.blk.ctx == c && l.blk.cmpva != 0 && pageMeets pg (vaOf l.blk.cmpva).toNat 8)).isEmpty

/-- Set or clear `ro` in every entry of a page. -/
def State.setRo (s : State) (c : Ctx) (pg : VA × Nat) (ro : Bool) : State :=
  (replicas pg.2 pg.1).foldl (fun s va =>
    match s.entryOf c va false pg.2 with
    | (s, some d) =>
      let e : DWord := BitVec.ofNat 64 (s.phys d 8)
      s.physWord d (if ro then e ||| (1#64 <<< 58) else e &&& ~~~(1#64 <<< 58))
    | (s, none) => s) s

/-- After a checkpoint the Director maps a resilient context's pages read-only, where a device handler stands to take the
traps (R99; DESIGN CHOICE, log 34). -/
def State.guardPages (s : State) (c : Ctx) : State :=
  match s.context? c.toNat with
  | none => s
  | some x =>
    if (List.range 8).any (fun d => (s.die d).hvec == 0) then s
    else
      let ls := (s.leavesOf c).1.filter (fun l => decide (l.1 / 2 ^ 48 ≤ 8) && !(leafAttr l.2).ro)
      let ps := (pagesOf ls).filter (fun p => !s.staysWritable c p)
      let s := ps.foldl (fun s p => s.setRo c p true) s
      (s.setContext c.toNat { x with guarded := x.guarded ++ ps }).invalidate (.context c)

/-- A page that is written again is mapped as before (R99). -/
def State.unguard (s : State) (c : Ctx) (va : VA) : State :=
  match s.context? c.toNat with
  | none => s
  | some x =>
    match x.guarded.find? (fun p => pageMeets p va.toNat 1) with
    | none => s
    | some p =>
      ((s.setRo c p false).setContext c.toNat { x with guarded := x.guarded.erase p }).invalidate (.page c va)

/-- An address lies in a page that is read-only since a checkpoint. -/
def State.isGuarded (s : State) (c : Ctx) (va : VA) : Bool :=
  (s.context? c.toNat).any (fun x => x.guarded.any (fun p => pageMeets p va.toNat 1))

/-- A handler of a group stands for a write that a checkpoint's mapping has refused: the address. -/
def State.guardTrap (s : State) (g : Group) : Option VA :=
  if g.lvl = 0 || g.dead then none
  else
    let t := g.trapBank g.lvl
    if [Cause.protection, Cause.asyncFault, Cause.copyFault].contains t.cause.toNat && s.isGuarded g.ctx t.addr then some t.addr
    else none

/-! ### Handler mailboxes (R434, R435) -/

/-- Where the mailbox of a group's slot lies. -/
def Group.mailbox (g : Group) : VA := g.tsave + 0x200000

/-- The group's handler asks for its save-area page. -/
def State.mailboxAsks (s : State) (g : Group) : Bool :=
  g.ctx != 0 && decide (windowOf g.tsave ≤ 8) && !(s.context? g.ctx.toNat).any (fun x => x.killed) &&
  (match translate s g.ctx .read true g.mailbox with
   | .ok e => decide (s.atomicOld g.ctx g.mailbox e 4 ≠ 0)
   | .error _ => false)

/-- The request of a group's slot is cleared with release; none while it cannot be, and asks for nothing more. -/
def State.clearReq (s : State) (g : Group) : Option State :=
  match translate s g.ctx .write true g.mailbox with
  | .ok e =>
    match s.storeOutside g.die g.ctx g.mailbox e (storeBytes (g.mailbox.toNat % 128) 4 0) with
    | .done s _ => some s
    | .blocked s' => if s.hasAsked s' then some s' else none
  | .error _ => none

/-- The Director serves the request of a group (R435): it maps the page, where it is not mapped, and invalidates it; once the
invalidation has ended, or at once where the page was mapped already, it clears the request. With no frame left nothing is done. -/
def State.mailboxNext (s : State) (gid : Nat) : Option State :=
  match s.group? gid with
  | none => none
  | some g =>
    let page : VA := g.tsave &&& ~~~0xFFFF
    if !s.mailboxAsks g then none
    else if s.mem.mapping.contains (g.ctx, page) then
      if s.mem.xiBusy then none else (s.setMapping (s.mem.mapping.erase (g.ctx, page))).clearReq g
    else if s.mapped g.ctx page then s.clearReq g
    else
      let s := s.mapFresh g.ctx page
      if s.mapped g.ctx page then some ((s.setMapping (s.mem.mapping ++ [(g.ctx, page)])).invalidate (.page g.ctx page)) else none

/-- R435. -/
def execMailboxService (gid : Nat) (s : State) : Host.Outcome State Fault Refusal := .next ((s.mailboxNext gid).getD s)

end Sys2Proof.Machine
end

