-- ==== Sys2Proof/Machine/Boot.lean ====
section
/-! DEFINITION. Starting the device: the boot ROM, measurements, failed starts, minimal mode, the start of the Directors, and the
device reset (R18, R19, R76 to R82, R115). -/

namespace Sys2Proof.Machine

open Sys2Proof

/-- Replace the package's own part. -/
def State.mapPkg (s : State) (h : Package → Package) : State := { s with pkg := h s.pkg }

/-! ### Measurements (R79) -/

/-- SHAKE256 with a 64-byte output. -/
def digest (bs : List Byte) : List Byte := padTo 64 (Config.shake256 bs)

/-- Extend an item into M; the log holds 64 entries. -/
def Package.extend (p : Package) (kind die : Nat) (item : List Byte) : Package :=
  { p with
    measure := digest (padTo 64 p.measure ++ digest item)
    log := if p.log.length < 64 then p.log ++ [(kind, die, digest item)] else p.log }

/-! ### BOOT_RECORD (R69, R77) -/

/-- Memory of the device in GiB (R1, R2). -/
def State.memoryGiB (s : State) : Nat := 8 * s.dieMiB / 1024

/-- BOOT_RECORD with a start cause. -/
def State.bootRecord (s : State) (cause : Nat) : State :=
  let p := s.pkg
  let f := p.fstart
  s.hwEvent { kind := 0x01, src := srcIo, body := [(16, bytesOfWord (if cause = 2 then 0 else p.imgVer)),
    (20, bytesNat 1 p.diesUp.toNat), (21, bytesNat 1 cause), (22, [f.why0, f.why1, f.why2]), (25, bytesNat 1 f.count),
    (26, bytesNat 2 s.memoryGiB), (32, (padTo 64 p.measure).take 32)] }

/-! ### Failed starts (R78, R81) -/

/-- Record a reason code. -/
def FStart.record (f : FStart) (code : BitVec 8) : FStart :=
  { f with
    why0 := code
    why1 := f.why0
    why2 := f.why1
    begun := false }

/-- What a boot finds of the start before it: a thermal trip, or a start with no reason recorded (R28, R81). -/
def FStart.catchUp (f : FStart) : FStart :=
  if f.trip then { f.record 0x09 with
    count := min 3 (f.count + 1)
    trip := false }
  else if f.begun then f.record 0x0B
  else f

/-- CUE_BAD with the reason word 0xFFFF_FFFF from IO0: what a reset discards unanswered (R64, R65). It is an event of IO0, which a full
hold drops and counts (R70), though R65 has every accepted cue answered (DESIGN CHOICE, log 33). -/
def State.discardCue (s : State) (href : Word) (ctx : Nat) : State :=
  s.hwEvent { kind := 0x05, src := srcIo, href := href, ctx := ctx, body := [(16, bytesNat 4 0xFFFFFFFF)] }

/-- A checkpoint or a restore in progress is cut short: its cue is answered like those that a reset discards (R65; DESIGN CHOICE,
log 32). -/
def State.dropStream (s : State) : State :=
  match s.pkg.stream with
  | some x => (s.mapPkg (fun p => { p with stream := none })).discardCue x.href 0
  | none => s

/-- The start, or the device, is at a phase, and no thermal trip has stopped it (R27, R78). -/
def Package.at (p : Package) (ph : BootPhase) : Bool := p.phase == ph && p.tripped.isNone

/-- A start fails (R78): the reason is recorded, the dies stop, mode 6, and one BOOT_RECORD. -/
def State.failStart (s : State) (code : BitVec 8) : State :=
  (s.dropStream.mapPkg (fun p => { p with
    fstart := p.fstart.record code
    dieReset := true
    diesUp := 0
    directors := 0
    mode := 6
    phase := .failed })).bootRecord 3

/-! ### Steps 1 to 4 (R77, R82) -/

/-- A start begins: minimal mode when `count` is 3, else `count` rises and the boot ROM waits for the image. -/
def State.beginStart (s : State) (cause : Nat) : State :=
  let f := s.pkg.fstart.catchUp
  let s := s.mapPkg (fun p => { p with
    fstart := f
    cause := cause
    imgVer := 0
    diesUp := 0
    measure := []
    log := []
    image := []
    directors := 0 })
  if f.count = 3 then
    ((s.mapPkg (fun p => { p with
      mode := 4
      dieReset := true
      phase := .minimal })).linksUp [ihl]).bootRecord 2
  else
    (s.linksUp [ihl]).mapPkg (fun p => { p with
      fstart := { f with
        count := f.count + 1
        begun := true }
      dieReset := false
      mode := 1
      phase := .waitGo
      goAt := s.clk })

/-- R18: every rail is in range. A package that waits for its rails leaves die reset, and the boot ROM starts. -/
def State.railsUp (s : State) : State :=
  let start := s.pkg.at .rails || s.pkg.at .off
  let s := s.mapPkg (fun p => { p with
    powered := true
    rails := BitVec.allOnes 20
    dieReset := if start then false else p.dieReset })
  if start then s.beginStart s.pkg.cause else s

/-- A start that a reset begins: it waits until every rail is in range, and a package that has tripped starts no more before power
is removed (R18, R27). -/
def State.restart (s : State) (cause : Nat) : State :=
  if s.pkg.tripped.isSome then s
  else if s.pkg.rails = BitVec.allOnes 20 then s.beginStart cause
  else s.mapPkg (fun p => { p with
    cause := cause
    dieReset := true
    diesUp := 0
    mode := 1
    phase := .rails })

/-- R18. -/
def execRailsInRange (s : State) : Host.Outcome State Fault Refusal := .next s.railsUp

/-- `boot_ctl.go` ends the wait of step 4. -/
def State.bootGo (s : State) : State :=
  if s.pkg.at .waitGo then s.mapPkg (fun p => { p with phase := .readImage }) else s

/-- R77. -/
def execBootCtlGo (s : State) : Host.Outcome State Fault Refusal := .next s.bootGo

/-- R78: no `go` within 60 s. -/
def execGoTimeout (s : State) : Host.Outcome State Fault Refusal :=
  .next (if s.pkg.at .waitGo then s.failStart 0x02 else s)

/-! ### Step 5 (R76, R77) -/

/-- Magic of a Director image. -/
def imageMagic : Nat := 0x5A444952

/-- The image as the host holds it: its header and body. -/
def State.imageBytes (s : State) : List Byte × List Byte :=
  let a := s.host.imgLo.toNat + 2 ^ 32 * s.host.imgHi.toNat
  let n := min (s.host.imgLen.toNat - 256) (2 ^ 24)
  (s.hostBytes a 256, s.hostBytes (a + 256) n)

/-- Magic, length and signature are good. -/
def imageGood (len : Nat) (hdr body : List Byte) : Bool :=
  field hdr 0 4 == imageMagic && decide (field hdr 8 4 ≤ 2 ^ 24) && len == 256 + field hdr 8 4 &&
  Config.signatureValid ((hdr.drop 16).take 114) (digest (hdr.take 16 ++ body))

/-- The boot ROM reads and checks the image, measures, and begins to bring the dies up. The measured items are the bytes of the ROM's
version, the header's 256 bytes, the SHAKE256 digest of header bytes 0 to 15 and the body, as the signature covers them, and the
fused minimum version as 4 bytes, lowest first (DESIGN CHOICE, log 8). -/
def State.readImage (s : State) : State :=
  if s.pkg.at .readImage then
    let (hdr, body) := s.imageBytes
    if imageGood s.host.imgLen.toNat hdr body then
      let v := BitVec.ofNat 32 (field hdr 4 4)
      let s := s.mapPkg (fun p => { p with imgVer := v })
      if v.toNat < Config.fusedMinVersion.toNat then s.failStart 0x03
      else
        s.mapPkg (fun p =>
          let p := (p.extend 1 0 Config.romVersion).extend 2 0 hdr
          let p := (p.extend 3 0 (digest (hdr.take 16 ++ body))).extend 4 0 (bytesOfWord Config.fusedMinVersion)
          { p with
            mode := 2
            image := body
            phase := .bringUp })
    else s.failStart 0x01
  else s

/-- R77. -/
def execBootImageRead (s : State) : Host.Outcome State Fault Refusal := .next s.readImage

/-! ### Steps 6 and 7 -/

/-- The image is loaded into a core die (R77, step 7). -/
def State.loadImage (s : State) (die : Nat) : State := s.setDie die { s.die die with image := s.pkg.image }

/-- What bringing up the dies has found: the start fails at the first failure, or the image is loaded into every core die and the
Directors are started; at which address of a die it lies, and which of its groups run it from where, no rule says (DESIGN CHOICE, log 12). The memory-side cache mode is measured as one byte (DESIGN CHOICE,
log 8). -/
def State.bringUpDone (s : State) (r : BringUp) : State :=
  if s.pkg.at .bringUp then
    if r.dieOk ≠ BitVec.allOnes 8 then s.failStart 0x04
    else if !r.cacheOk then s.failStart 0x05
    else if !r.hbmOk then s.failStart 0x06
    else if !r.linkOk then s.failStart 0x07
    else
      ((List.range 8).foldl State.loadImage (s.linksUp (iflLinks ++ dieLinks))).mapPkg (fun p =>
        let p := (List.range 8).foldl (fun (p : Package) d => p.extend 5 d (r.records.getD d [])) p
        let p := p.extend 6 0 [p.mscmode]
        { p with
          mscActive := p.mscmode
          directors := BitVec.allOnes 8
          phase := .waitReady
          goAt := s.clk })
  else s

/-- R77. -/
def execDieBringUpDone (r : BringUp) (s : State) : Host.Outcome State Fault Refusal := .next (s.bringUpDone r)

/-- The entries of the global page table that map the package pool one-to-one in window 8 (R96): device-physical addresses and
entries. The tables lie in the frames `f` to `f` + 5. -/
def globalEntries (pages f : Nat) : List (Nat × Nat) :=
  let table := fun (j : Nat) => (f + 2 + j / 16) * 65536 + j % 16 * 4096
  [(f * 65536 + 8 * 256, 2 ^ 63 + (f + 1) * 2 ^ 16 + 3 * 2 ^ 14)] ++
  (List.range 64).map (fun j => ((f + 1) * 65536 + 8 * j, 2 ^ 63 + (f + 2 + j / 16) * 2 ^ 16 + 3 * 2 ^ 14 + j % 16 * 2 ^ 10)) ++
  (List.range (32 * pages)).map (fun k => (table (k / 512) + 8 * (k % 512), 0xA200 * 2 ^ 48 + k / 32 * 16384 * 2 ^ 16 + 2 * 2 ^ 14))

/-- Write many doublewords of frames that are zero. -/
def State.bulkWrite (s : State) (xs : List (Nat × Nat)) : State :=
  let bytes := xs.flatMap (fun e => (List.range 8).filterMap (fun k =>
    let b : Byte := BitVec.ofNat 8 (e.2 / 2 ^ (8 * k))
    if b = 0 then none else some (physKey s (e.1 + k), b)))
  { s with mem := { s.mem with dram := SMap.join 0 s.mem.dram bytes } }

/-- The Directors lay out what the spec has them keep: the descriptor table, and the global page table (R96, R97; DESIGN CHOICE, log 12). -/
def State.layOut (s : State) : State :=
  let top := packageFrames s
  let f := top - 6
  let s := (List.range 7).foldl (fun s k => s.zeroFrame 8 (top - 1 - k)) s
  let s := { s with mem := { s.mem with
    pkgPool := 7
    ctxtab := BitVec.ofNat 64 ((top - 7) * 65536) } }
  let s := s.bulkWrite (globalEntries (top / 16384) f)
  s.physWrite (s.descriptorAt 0) (descriptorBytes (f * 65536 + 1) 0 0 0 2 0)

/-- A Director reports ready; when all eight have, the device runs. -/
def State.directorUp (s : State) (die : Nat) : State :=
  if s.pkg.at .waitReady then
    let s := s.mapPkg (fun p => { p with diesUp := p.diesUp ||| ((1#8) <<< die) })
    if s.pkg.diesUp = BitVec.allOnes 8 then
      ((s.mapPkg (fun p => { p with
        fstart := { p.fstart with
          count := 0
          begun := false }
        mode := 3
        phase := .running })).layOut).bootRecord s.pkg.cause
    else s
  else s

/-- R77. -/
def execDirectorReady (die : Fin 8) (s : State) : Host.Outcome State Fault Refusal := .next (s.directorUp die.val)

/-- R78: a Director has not reported ready within 5 s. -/
def execReadyTimeout (s : State) : Host.Outcome State Fault Refusal :=
  .next (if s.pkg.at .waitReady then s.failStart 0x08 else s)

/-! ### `boot_ctl.clr` and `boot_ctl.rst` (R82) -/

/-- The modes in which `clr` and `rst` act: minimal and failed start. -/
def Package.mayRestart (p : Package) : Bool := p.mode == 4 || p.mode == 6

/-- `clr`: `count` becomes zero. -/
def State.bootClr (s : State) : State :=
  if s.pkg.mayRestart then s.mapPkg (fun p => { p with fstart := { p.fstart with count := 0 } }) else s

/-- R82. -/
def execBootCtlClr (s : State) : Host.Outcome State Fault Refusal := .next s.bootClr

/-! ### Device reset (R75, R115) -/

/-- IO0 answers a cue that a reset discards (R64). -/
def State.discard (s : State) (cue : List Byte) : State := s.discardCue (BitVec.ofNat 32 (field cue 0 4)) (field cue 8 1)

/-- A cue that IO0 holds for a die until the writes before it are performed (R63). -/
def HostReq.heldFor (r : HostReq) (die : Nat) : Option (List Byte) :=
  match r with
  | .cue d bs => if d = die then some bs else none
  | _ => none

/-- A request that is no cue. -/
def HostReq.access (r : HostReq) : Bool :=
  match r with
  | .cue .. => false
  | _ => true

/-- Every cue still in a die queue, or held for one, is answered with CUE_BAD, reason word 0xFFFF_FFFF, by IO0 (R64). -/
def State.refuseQueued (s : State) : State :=
  let held := s.host.window
  let s := { s with host := { s.host with window := held.filter HostReq.access } }
  (List.range 8).foldl (fun s d =>
    let cues := (s.die d).cues ++ held.filterMap (fun r => r.heldFor d)
    (cues.foldl State.discard (s.setDie d { s.die d with cues := [] }))) s

/-- An event that IO0 carries out by itself, whatever becomes of the core dies. -/
def ioEvent (i : Instr) : Bool :=
  match i with
  | .eventWrite | .cueAttest | .thermalTripEvent | .thermTripNAssert => true
  | _ => false

/-- An event that waits lands: what the core dies do ends when their clocks stop (R27). -/
def State.lands (s : State) (i : Instr) : Bool := s.running || ioEvent i

/-- Everything that the dies hold is as at device start: cores, banks, caches, directories, queues, translation; and what was written
to device memory is lost (R75). -/
def State.clearDies (s : State) : State :=
  { s with
    mem := { DevMem.reset with
      retired := s.mem.retired }
    fab := { s.fab with
      lines := []
      wire := [] }
    banks := []
    bankMem := []
    cores := []
    quarters := []
    slices := []
    l2 := []
    dieDir := []
    asks := []
    arenas := []
    dies := []
    contexts := []
    launches := []
    teams := []
    groups := []
    specs := []
    pkgTick := 0
    pairTick := []
    agenda := s.agenda.filter ioEvent
    cur := none }

/-- The device-reset action: every context ends with CTX_FAILED, accepted cues are answered, and a start begins; a package that has
tripped stays stopped (DESIGN CHOICE, log 32). -/
def State.resetDevice (s : State) : State :=
  if s.pkg.tripped.isSome then s
  else
    let s := s.contextTags.foldl (fun s c => s.failContext c 0) s
    (s.dropStream.refuseQueued.clearDies).restart 1

/-- What the contexts hold back is sent before they go: the CUE_DONE events among it answer accepted cues (R65, R86). -/
def State.sendAllHeld (s : State) : State := s.contextTags.foldl State.sendHeld s

/-- `rst`: a start that begins as a device reset does. -/
def State.bootRst (s : State) : State :=
  if s.pkg.mayRestart && s.pkg.tripped.isNone then (s.sendAllHeld.refuseQueued.clearDies).restart 1 else s

/-- R82. -/
def execBootCtlRst (s : State) : Host.Outcome State Fault Refusal := .next s.bootRst

end Sys2Proof.Machine
end

