-- ==== Sys2Proof/Machine/Flyloft.lean ====
section
/-! DEFINITION. The Flyloft directory and this device's part in cross-device coherence (R39 to R49), the loss of a switch and
its recovery (R50 to R55, R158). Messages between this device and the switches, and between switches, are delivered one at a
time in the order in which they were sent; messages to other devices leave the model (DESIGN CHOICE, log 21). -/

namespace Sys2Proof.Machine

open Sys2Proof

/-! ### Switches -/

def State.fswitch (s : State) (k : Nat) : Switch := SMap.get Switch.reset s.fab.switches k

def State.setSwitch (s : State) (k : Nat) (x : Switch) : State :=
  { s with fab := { s.fab with switches := SMap.set Switch.reset s.fab.switches k x } }

/-- The set of a line (R38). -/
def setOf (g : LineAddr) : Nat := fabHash g / 2 ^ 10

/-- The keys of the ways of a line's set. -/
def waysOf (g : LineAddr) : List Nat := (List.range 16).map (fun w => setOf g * 16 + w)

/-- The entry of a line and its way. -/
def Switch.find (x : Switch) (g : LineAddr) : Option (Nat × DirEntry) :=
  (waysOf g).findSome? (fun k =>
    match SMap.get none x.dir k with
    | some e => if e.gla == g && e.st != .i then some (k, e) else none
    | none => none)

/-- The way that holds a line, a free entry's included while it is busy. -/
def Switch.wayOf (x : Switch) (g : LineAddr) : Option (Nat × DirEntry) :=
  (waysOf g).findSome? (fun k =>
    match SMap.get none x.dir k with
    | some e => if e.gla == g then some (k, e) else none
    | none => none)

/-- The code of a state (R39). -/
def stCode (st : DirState) : Nat :=
  match st with
  | .i => 0
  | .s => 1
  | .e => 2
  | .o => 3
  | .m => 4

/-- An entry as the switch's management interface reads it (R39). -/
def DirEntry.bits (e : DirEntry) : BitVec 128 :=
  BitVec.ofNat 128 (e.age % 16 * 2 ^ 119 + stCode e.st * 2 ^ 116 + (if e.busy then 2 ^ 115 else 0) + e.gla.toNat * 2 ^ 74 +
    e.own.toNat * 2 ^ 66 + e.shv.toNat)

/-- The management interface of a switch reads the entry of a way: a free one reads as zero (R39). -/
def State.switchRead (s : State) (slot set way : Nat) : BitVec 128 :=
  ((SMap.get none (s.fswitch slot).dir (set * 16 + way)).map DirEntry.bits).getD 0

def Switch.setEntry (x : Switch) (k : Nat) (e : Option DirEntry) : Switch := { x with dir := SMap.set none x.dir k e }

/-- Make a way the most recently touched of its set. -/
def Switch.touch (x : Switch) (g : LineAddr) (k : Nat) : Switch :=
  let old := ((SMap.get none x.dir k).map (fun e => e.age)).getD 15
  (waysOf g).foldl (fun (x : Switch) j =>
    match SMap.get none x.dir j with
    | some e => x.setEntry j (some { e with age := if j = k then 0 else if e.age < old then e.age + 1 else e.age })
    | none => x) x

def Switch.setTxn (x : Switch) (g : LineAddr) (t : Option Txn) : Switch := { x with txns := SMap.set none x.txns g.toNat t }

/-- The transaction that a line takes part in, as the line asked for or as the one evicted. -/
def Switch.txnOf (x : Switch) (g : LineAddr) : Option Txn :=
  x.txns.findSome? (fun (e : Nat × Option Txn) =>
    match e.2 with
    | some t => if t.req.g == g || t.evict == some g then some t else none
    | none => none)

/-- The devices of the partition that a port leads to (DESIGN CHOICE, log 21). -/
def State.portDevices (s : State) (p : Nat) : List Device :=
  ((List.range 256).filter (fun d => s.fab.cfg.members.getLsbD d && d % 64 == p)).map (fun d => BitVec.ofNat 8 d)

/-- The sender field of a message from a switch (R32). -/
def srcSwitch (slot : Nat) : Nat := 0x8000 + slot

/-- Send a message to a device: to this one, or out of the model, as the bytes of R32. -/
def State.toDevice (s : State) (slot : Nat) (d : Device) (mtype : Nat) (txn : Word) (g : LineAddr) (body : List Byte) (m : FabMsg) : State :=
  if d = s.fab.cfg.devno then s.carry m
  else
    let x := s.fswitch slot
    s.setSwitch slot { x with sent := x.sent ++ [(d, message mtype (srcSwitch slot) txn g.toNat body)] }

/-- A device that the partition cannot reach (R54). -/
def State.isAway (s : State) (d : Device) : Bool := s.fab.away.getLsbD d.toNat

/-- The devices behind a port that can be reached, but for some. -/
def State.behind (s : State) (p : Nat) (but : List Device) : List Device :=
  (s.portDevices p).filter (fun d => !but.contains d && !s.isAway d)

/-- The ports of a sharer vector that owe an acknowledgement when the devices `but`, on the ports `own`, keep their copies: a port
behind which other devices stand owes one for them (R40); one that leads to devices out of reach owes none. -/
def State.owing (s : State) (shv : BitVec 64) (own : List Nat) (but : List Device) : BitVec 64 :=
  (List.range 64).foldl (fun (m : BitVec 64) p =>
    if shv.getLsbD p && ((!own.contains p && (s.portDevices p).isEmpty) || !(s.behind p but).isEmpty) then m ||| ((1#64) <<< p) else m) 0

/-- Send an invalidation to the devices of the ports of a vector, but for some (R40). -/
def State.invalidatePorts (s : State) (slot : Nat) (txn : Word) (g : LineAddr) (ports : BitVec 64) (but : List Device) : State :=
  ((List.range 64).filter (fun p => ports.getLsbD p)).foldl (fun s p =>
    (s.behind p but).foldl (fun s d => s.toDevice slot d 0x15 txn g [] (.inval slot g)) s) s

/-- The port of this device is shared: a peer switch stands at it (DESIGN CHOICE, log 21). -/
def State.sharedPort (s : State) : Bool := decide (2 ≤ (s.portDevices (portOf s.fab.cfg.devno).val).length)

/-- A transaction awaits the acknowledgements of ports; the peer of a shared port awaits this device and the others behind it. -/
def State.await (s : State) (t : Txn) (ports : BitVec 64) (but : List Device) : Txn :=
  let me := s.fab.cfg.devno
  let p := (portOf me).val
  let mine := ports.getLsbD p && s.sharedPort && !but.contains me
  { t with
    acks := ports
    selfDue := mine
    restDue := mine && !(s.behind p (me :: but)).isEmpty }

/-! ### Home memory -/

/-- The line as its home device's memory holds it. -/
def State.homeLine (s : State) (g : LineAddr) : Line :=
  if homeDevice g = s.fab.cfg.devno then
    match s.homeKey g with
    | some k => s.homeCopy k
    | none => 0
  else lineOfBytes (fun j => SMap.get 0 s.fab.remote (g.toNat * 128 + j))

/-- Write a line to its home device's memory. -/
def State.setHomeLine (s : State) (g : LineAddr) (l : Line) : State :=
  let bs := (List.range 128).map (fun j => (j, byteOf l j))
  if homeDevice g = s.fab.cfg.devno then
    match s.homeKey g with
    | some k => (s.writeHome k bs).dropApertures
    | none => s
  else { s with fab := { s.fab with
    remote := bs.foldl (fun m e => SMap.set 0 m (g.toNat * 128 + e.1) e.2) s.fab.remote } }

/-! ### Requests (R42, R45, R46) -/

/-- The home table with a slot as it was before its loss. -/
def PartCfg.revive (c : PartCfg) (lost : Nat) : PartCfg :=
  { c with homes := SMap.set HomeSlot.reset c.homes lost { SMap.get HomeSlot.reset c.homes lost with dead := false } }

/-- The line had the lost switch as its primary. -/
def PartCfg.wasPrimary (c : PartCfg) (g : LineAddr) (lost : Nat) : Bool := (c.revive lost).primary g == some lost

/-- The line is one of a range. -/
def inChunk (g : LineAddr) (c : LineAddr × LineAddr) : Bool := decide (c.1.toNat ≤ g.toNat) && decide (g.toNat ≤ c.2.toNat)

/-- A line waits for a recovery sweep (R52): a chunk of this home device's sweep that has not been swept holds it, or, of a line homed
elsewhere, no chunk known to be complete there. -/
def State.sweeping (s : State) (g : LineAddr) : Bool :=
  if homeDevice g = s.fab.cfg.devno then
    s.fab.sweeps.any (fun w => s.fab.cfg.wasPrimary g w.slot &&
      w.chunks.any (inChunk g))
  else s.fab.abroad.any (fun a => s.fab.cfg.wasPrimary g a.slot && !a.served.any (inChunk g))

/-- A request waits at its switch. -/
def State.waitAt (s : State) (slot : Nat) (own : Bool) (r : FabReq) : State :=
  let x := s.fswitch slot
  s.setSwitch slot { x with waiting := x.waiting ++ [(own, r)] }

/-- The ports of an entry at which there may be a copy, its owner's included. -/
def DirEntry.ports (e : DirEntry) : BitVec 64 :=
  match e.st with
  | .e | .o | .m => e.shv ||| ((1#64) <<< (portOf e.own).val)
  | _ => e.shv

/-- A new transaction. -/
def Txn.start (r : FabReq) (own : Bool) : Txn :=
  { req := r, owning := own, acks := 0, selfDue := false, restDue := false, owner := none, data := none, dirty := false,
    noteDue := false, evict := none }

/-- A line that this device homes is lost (R53, R54): its 64 KiB range is reported, and escalated as an uncorrectable error of DRAM
(R113, R115), of a partition-shared page whatever else maps it. -/
def State.loseRange (s : State) (g : LineAddr) (own : Device) : State :=
  if homeDevice g = s.fab.cfg.devno then
    let base : VA := fabricVa g &&& ~~~0xFFFF
    let s := s.hwEvent { kind := 0x17, src := srcLink, body := [(16, bytesNat 8 base.toNat), (24, bytesNat 1 own.toNat)] }
    match s.homeKey (globalOf base) with
    | some line =>
      let q : Poison := { ctx := 0, va := base, wher := 3, shared := true }
      { s with mem := { s.mem with poison := SMap.set none s.mem.poison line (some q) } }.post (.containmentAction line)
    | none => s
  else s

/-- An owner that cannot be reached: its M or O is lost (R54). -/
def State.ownerLost (s : State) (g : LineAddr) (e : DirEntry) : State :=
  if e.st = .m ∨ e.st = .o then s.loseRange g e.own else s

/-- A primary sends an ownership note to the alternate of a line, and counts it until it is acknowledged (R49). -/
def State.sendNote (s : State) (alt prim : Nat) (g : LineAddr) (own : Device) (st : DirState) : State :=
  let x := s.fswitch prim
  (s.setSwitch prim { x with unacked := SMap.set 0 x.unacked g.toNat (SMap.get 0 x.unacked g.toNat + 1) }).carry (.note alt prim g own st)

/-- The note goes to the line's alternate, if it has one. -/
def State.noteTo (s : State) (prim : Nat) (g : LineAddr) (own : Device) (st : DirState) : State :=
  match s.fab.cfg.alternate g with
  | some a => s.sendNote a prim g own st
  | none => s

/-- Take a request whose line has the entry `e` in way `k`: what it asks of others and of home memory (R42). -/
def State.beginTxn (s : State) (slot : Nat) (own : Bool) (r : FabReq) (k : Nat) (e : DirEntry) : State :=
  let x := s.fswitch slot
  let x := (x.setEntry k (some { e with busy := true })).touch r.g k
  let bit : BitVec 64 := (1#64) <<< r.port.val
  let t := Txn.start r own
  let home := some (s.homeLine r.g)
  match own, e.st with
  | false, .i => s.setSwitch slot (x.setTxn r.g (some { t with data := home }))
  | false, .s => s.setSwitch slot (x.setTxn r.g (some { t with data := home }))
  | false, _ =>
    if s.isAway e.own then (s.setSwitch slot (x.setTxn r.g (some { t with data := home }))).ownerLost r.g e
    else (s.setSwitch slot (x.setTxn r.g (some { t with owner := some e.own }))).toDevice slot e.own 0x16 r.txn r.g [] (.fwdRead slot r.g)
  | true, .i => s.setSwitch slot (x.setTxn r.g (some { t with data := home }))
  | true, .s =>
    let acks := s.owing e.shv [r.port.val] [r.dev]
    let t := s.await { t with data := if e.shv &&& bit = 0 then home else none } acks [r.dev]
    (s.setSwitch slot (x.setTxn r.g (some t))).invalidatePorts slot r.txn r.g acks [r.dev]
  | true, _ =>
    let but := [r.dev, e.own]
    let acks := s.owing e.shv [r.port.val, (portOf e.own).val] but
    let t := s.await t acks but
    let s' := if s.isAway e.own then (s.setSwitch slot (x.setTxn r.g (some { t with data := home }))).ownerLost r.g e
      else (s.setSwitch slot (x.setTxn r.g (some { t with owner := some e.own }))).toDevice slot e.own 0x17 r.txn r.g [] (.fwdInv slot r.g)
    s'.invalidatePorts slot r.txn r.g acks but

/-- A fresh entry of a line, not yet counted as one. -/
def DirEntry.fresh (g : LineAddr) : DirEntry := { age := 15, st := .i, busy := true, gla := g, own := 0, shv := 0 }

/-- The way that a full set evicts: the largest `age`, the lowest way among equals, none that is busy (R46). -/
def Switch.oldest (x : Switch) (g : LineAddr) : Option (Nat × DirEntry) :=
  (waysOf g).foldl (fun b k =>
    match SMap.get none x.dir k, b with
    | some e, none => if e.busy then none else some (k, e)
    | some e, some (j, f) => if !e.busy && decide (f.age < e.age) then some (k, e) else some (j, f)
    | none, b => b) none

/-- A request may be taken: no transaction and no sweep holds its line, and it has an entry or a way to take. -/
def State.mayTake (s : State) (slot : Nat) (r : FabReq) : Bool :=
  let x := s.fswitch slot
  (x.txnOf r.g).isNone && !s.sweeping r.g && ((x.find r.g).isSome ||
    (waysOf r.g).any (fun k => (SMap.get none x.dir k).isNone) || (x.oldest r.g).isSome)

/-- Evict a way of a full set for a request (R46). An owner that cannot be reached writes nothing back: its line leaves E, O or M, which
is noted (R49). -/
def State.beginEvict (s : State) (slot : Nat) (own : Bool) (r : FabReq) (k : Nat) (e : DirEntry) : State :=
  let x := s.fswitch slot
  let lost := e.st != .s && s.isAway e.own
  let e' : DirEntry := { e with
    busy := true
    st := if lost then .s else e.st }
  let acks := s.owing e.ports [] []
  let t := s.await { Txn.start r own with evict := some e.gla } acks []
  let s := if lost then s.ownerLost e.gla e else s
  let s := s.setSwitch slot { (x.setEntry k (some e')).setTxn r.g (some t) with evicted := x.evicted + 1 }
  let s := if lost then s.noteTo slot e.gla e.own .i else s
  s.invalidatePorts slot r.txn e.gla acks []

/-- Take a request at its primary: it begins, evicting a way of a full set; it waits for a busy line, for a sweep, and where all
sixteen ways of its set are busy until one is free (DESIGN CHOICE, log 31). -/
def State.takeRequest (s : State) (slot : Nat) (own : Bool) (r : FabReq) : State :=
  let x := s.fswitch slot
  if !s.mayTake slot r then s.waitAt slot own r
  else
    match x.find r.g with
    | some (k, e) => s.beginTxn slot own r k e
    | none =>
      match (waysOf r.g).find? (fun k => (SMap.get none x.dir k).isNone) with
      | some k => s.beginTxn slot own r k (.fresh r.g)
      | none =>
        match x.oldest r.g with
        | none => s.waitAt slot own r
        | some (k, e) => s.beginEvict slot own r k e

/-- A request arrives at a switch; one that is not the line's primary, or is dead, takes none. -/
def State.swRequest (s : State) (slot : Nat) (own : Bool) (r : FabReq) : State :=
  if s.fab.cfg.primary r.g = some slot then s.takeRequest slot own r else s

/-! ### Completion of a transaction -/

/-- The ownership that an entry states: none in I and S. -/
def DirEntry.owner? (e : DirEntry) : Option (Device × DirState) :=
  match e.st with
  | .e | .o | .m => some (e.own, e.st)
  | _ => none

/-- The entry after a request (R42, R43). The table gives only `own` where E or M is granted from I: `shv` then holds the owner's own
port, and keeps it (DESIGN CHOICE, log 21). -/
def DirEntry.after (e : DirEntry) (t : Txn) : DirEntry :=
  let bit : BitVec 64 := (1#64) <<< t.req.port.val
  let e := { e with gla := t.req.g }
  if t.owning then { e with
    st := .m
    own := t.req.dev
    shv := bit }
  else
    match e.st with
    | .i => { e with
        st := .e
        own := t.req.dev
        shv := bit }
    | .s => { e with shv := e.shv ||| bit }
    | _ =>
      if t.dirty then { e with
        st := .o
        shv := e.ports ||| bit }
      else { e with
        st := .s
        shv := e.ports ||| bit }

/-- The bytes of a line. -/
def lineBytes (l : Line) : List Byte := (List.range 128).map (byteOf l)

/-- The grant of a finished transaction. -/
def State.sendGrant (s : State) (slot : Nat) (t : Txn) (e : DirEntry) : State :=
  match t.data with
  | none => s.toDevice slot t.req.dev 0x14 t.req.txn t.req.g [] (.grantBare t.req.g)
  | some l =>
    let st : DirState := if t.owning then .m else if e.st = .e then .e else .s
    s.toDevice slot t.req.dev (if st = .m then 0x13 else if st = .e then 0x12 else 0x11) t.req.txn t.req.g (lineBytes l) (.grant t.req.g st l)

/-- Grant and clear `busy`. -/
def State.finishTxn (s : State) (slot : Nat) (t : Txn) (k : Nat) (e : DirEntry) : State :=
  (s.setSwitch slot (((s.fswitch slot).setEntry k (some { e with busy := false })).setTxn t.req.g none)).sendGrant slot t e

/-- The transaction waits for an answer. -/
def Txn.waits (t : Txn) : Bool := t.acks != 0 || t.owner.isSome || t.noteDue

/-- Once every answer of a line's transaction has come: the new owner is noted first, and the grant waits for the alternate's
acknowledgement (R49); else the line is granted (DESIGN CHOICE, log 31). -/
def State.settleLine (s : State) (slot : Nat) (t : Txn) : State :=
  let x := s.fswitch slot
  if t.waits then s.setSwitch slot (x.setTxn t.req.g (some t))
  else
    match x.wayOf t.req.g with
    | none => s.setSwitch slot (x.setTxn t.req.g none)
    | some (k, e) =>
      let e' := e.after t
      match (if e'.owner? = e.owner? then none else s.fab.cfg.alternate t.req.g) with
      | some a =>
        (s.setSwitch slot ((x.setEntry k (some e')).setTxn t.req.g (some { t with noteDue := true }))).sendNote a slot t.req.g e'.own e'.st
      | none => s.finishTxn slot t k e'

/-- Free the way of an evicted line once its owner has written it back; a line that leaves E is noted (R46, R49). -/
def State.freeWay (s : State) (slot : Nat) (t : Txn) (old : LineAddr) : Option State :=
  let x := s.fswitch slot
  match x.wayOf old with
  | none => some (s.setSwitch slot (x.setTxn t.req.g none))
  | some (k, e) =>
    if e.st = .m ∨ e.st = .o then none
    else
      let s := s.setSwitch slot ((x.setEntry k none).setTxn t.req.g none)
      some (if e.owner?.isSome then s.noteTo slot old e.own .i else s)

/-- Go on with a transaction that may wait for nothing more: the eviction ends and its request begins, or the line is settled. -/
def State.advance (s : State) (slot : Nat) (t : Txn) : State :=
  match (if t.waits then none else t.evict) with
  | none => s.settleLine slot t
  | some old =>
    match s.freeWay slot t old with
    | none => s.setSwitch slot ((s.fswitch slot).setTxn t.req.g (some t))
    | some s =>
      let s := s.takeRequest slot t.owning t.req
      match (s.fswitch slot).txnOf t.req.g with
      | some t' => if t'.evict.isNone then s.settleLine slot t' else s
      | none => s

/-- Go on with the transaction that a line takes part in. -/
def State.advanceLine (s : State) (slot : Nat) (g : LineAddr) : State :=
  match (s.fswitch slot).txnOf g with
  | some t => s.advance slot t
  | none => s

/-- The first request that waits at a switch for a line of a set and may be taken is taken; so on, `n` times at most (R45). -/
def State.takeWaiting (s : State) (slot set : Nat) : Nat → State
  | 0 => s
  | n + 1 =>
    let x := s.fswitch slot
    match x.waiting.find? (fun w => setOf w.2.g == set && s.mayTake slot w.2) with
    | none => s
    | some w =>
      (((s.setSwitch slot { x with waiting := x.waiting.erase w }).swRequest slot w.1 w.2).advanceLine slot w.2.g).takeWaiting slot set n

/-- Requests that waited for a line, or for a way of its set, are taken, in their order of arrival. -/
def State.retryWaiting (s : State) (slot : Nat) (g : LineAddr) : State :=
  s.takeWaiting slot (setOf g) (s.fswitch slot).waiting.length

/-- Change the transaction that a line takes part in, and go on with it. -/
def State.onTxn (s : State) (slot : Nat) (g : LineAddr) (h : Txn → Txn) : State :=
  match (s.fswitch slot).txnOf g with
  | some t => (s.advance slot (h t)).retryWaiting slot g
  | none => s

/-- A transaction that has just begun may need nothing more. -/
def State.settleTxn (s : State) (slot : Nat) (g : LineAddr) : State := s.onTxn slot g id

/-- A port has acknowledged. -/
def Txn.acked (t : Txn) (port : Nat) : Txn := { t with acks := t.acks &&& ~~~((1#64) <<< port) }

/-- The acknowledgement of a port. From the port that this device shares it is that of the others behind it, which the peer passes
on once this device has acknowledged too (R40). -/
def State.swInvAck (s : State) (slot : Nat) (g : LineAddr) (port : Nat) : State :=
  s.onTxn slot g (fun t => if t.selfDue ∧ port = (portOf s.fab.cfg.devno).val then { t with restDue := false } else t.acked port)

/-- This device's acknowledgement reaches the peer of its port, which answers the switch when it was the last (R40). -/
def State.swPeerAck (s : State) (slot : Nat) (g : LineAddr) : State :=
  s.onTxn slot g (fun t =>
    if t.selfDue then
      let t := { t with selfDue := false }
      if t.restDue then t else t.acked (portOf s.fab.cfg.devno).val
    else t)

/-- Data from the owner, clean or dirty. -/
def State.swOwnerData (s : State) (slot : Nat) (g : LineAddr) (dev : Device) (dirty : Bool) (l : Line) : State :=
  s.onTxn slot g (fun t => if t.owner = some dev then { t with
    owner := none
    data := some l
    dirty := dirty } else t)

/-- The owner has no copy: the line comes from home memory, which any writeback has reached before (R43). -/
def State.swNoCopy (s : State) (slot : Nat) (g : LineAddr) (dev : Device) : State :=
  s.onTxn slot g (fun t => if t.owner = some dev then { t with
    owner := none
    data := some (s.homeLine g) } else t)

/-- A line that is written back counts for the sweep that it takes part in (R56). -/
def State.countWritten (s : State) (g : LineAddr) : State :=
  if homeDevice g = s.fab.cfg.devno ∧ s.sweeping g = true then
    let count := fun (w : Sweep) => if s.fab.cfg.wasPrimary g w.slot then { w with written := w.written + 1 } else w
    { s with fab := { s.fab with sweeps := s.fab.sweeps.map count } }
  else s

/-- A writeback (R42): data newer than home memory goes there, an owner's M becomes I and O becomes S (DESIGN CHOICE, log 31). -/
def State.swWriteback (s : State) (slot : Nat) (r : FabReq) (l : Line) : State :=
  let s := s.countWritten r.g
  let x := s.fswitch slot
  let s := match x.find r.g with
    | none => s.setHomeLine r.g l
    | some (k, e) =>
      let mine := e.own == r.dev
      if mine && (e.st == DirState.m || e.st == DirState.o) then
        let st : DirState := if e.st = DirState.m then .i else .s
        let e' : DirEntry := { e with st := st }
        let gone := st == DirState.i && !e.busy
        let s := (s.setHomeLine r.g l).setSwitch slot (x.setEntry k (if gone then none else some e'))
        s.noteTo slot r.g e.own e'.st
      else if mine && e.st == DirState.e then s.setHomeLine r.g l
      else s
  let s := s.toDevice slot r.dev 0x18 r.txn r.g [] (.wbAck r.g)
  s.settleTxn slot r.g

/-- An ownership note reaches the alternate, which keeps it and acknowledges (R49). -/
def State.swNote (s : State) (alt prim : Nat) (g : LineAddr) (own : Device) (st : DirState) : State :=
  if s.fab.cfg.live alt then
    let x := s.fswitch alt
    let keep : Option (Device × DirState) := if st = .i ∨ st = .s then none else some (own, st)
    (s.setSwitch alt { x with notes := SMap.set none x.notes g.toNat keep }).carry (.noteAck prim g)
  else s

/-- The alternate acknowledges the oldest note of a line; when the last one is acknowledged, which is that of the grant that waits, the
grant goes (R49). -/
def State.swNoteAck (s : State) (prim : Nat) (g : LineAddr) : State :=
  let x := s.fswitch prim
  let left := SMap.get 0 x.unacked g.toNat - 1
  let x := { x with unacked := SMap.set 0 x.unacked g.toNat left }
  let s := s.setSwitch prim x
  match x.txnOf g, x.find g with
  | some t, some (k, e) =>
    if t.noteDue && left == 0 then (s.finishTxn prim { t with noteDue := false } k e).retryWaiting prim g else s
  | _, _ => s

/-- Every request that waits at a switch is told so (R45). -/
def State.swNotices (s : State) (slot : Nat) : State :=
  (s.fswitch slot).waiting.foldl (fun s w => s.toDevice slot w.2.dev 0x19 w.2.txn w.2.g [] (.notice w.2.g)) s

/-! ### This device (R40, R41, R43, R47, R48) -/

/-- An invalidation: a dirty line is written back, the copy goes, its leases end; a line not held is acknowledged at once,
and a pending miss is untouched. At a port that other devices share the acknowledgement goes to the peer (R40). -/
def State.devInvalidate (s : State) (slot : Nat) (g : LineAddr) : State :=
  let y := s.sysLine g
  let s := if y.dirty then ((s.setSysLine g { y with
      wbWait := true
      waited := s.clk }).forgetSys g).sendBack slot g y.data
    else if y.st = .i then s else s.forgetSys g
  s.carry (if s.sharedPort then .peerAck slot g else .invAck slot g (portOf s.fab.cfg.devno).val)

/-- A forward of a read: the owner supplies the data and keeps a copy, in O when it is dirty, else in S. -/
def State.devForwardRead (s : State) (slot : Nat) (g : LineAddr) : State :=
  let y := s.sysLine g
  let me := s.fab.cfg.devno
  if y.st = .i then s.carry (.noCopy slot g me)
  else (s.setSysLine g { y with st := if y.dirty then .o else .s }).carry (.ownerData slot g me y.dirty y.data)

/-- A forward-invalidate: the owner supplies the data and drops its copy. -/
def State.devForwardInvalidate (s : State) (slot : Nat) (g : LineAddr) : State :=
  let y := s.sysLine g
  let me := s.fab.cfg.devno
  if y.st = .i then s.carry (.noCopy slot g me)
  else (s.forgetSys g).carry (.ownerData slot g me y.dirty y.data)

/-- Data with a grant: the pending miss ends. -/
def State.devGrant (s : State) (g : LineAddr) (st : DirState) (l : Line) : State :=
  let y := s.sysLine g
  if y.miss.isSome then (s.setSysLine g { y with
    st := st
    data := l
    miss := .none }).wakeAll
  else s

/-- Ownership without data, for a line the device shares; where it has dropped the copy it asks again. -/
def State.devGrantBare (s : State) (g : LineAddr) : State :=
  let y := s.sysLine g
  if y.miss.isNone then s
  else if y.st = .i then s.request g true
  else (s.setSysLine g { y with
    st := .m
    miss := .none }).wakeAll

/-- The writeback has been acknowledged. -/
def State.devWbAck (s : State) (g : LineAddr) : State := s.setSysLine g { s.sysLine g with wbWait := false }

/-- A waiting notice: the time of R50 counts from here. -/
def State.devNotice (s : State) (g : LineAddr) : State :=
  let y := s.sysLine g
  if y.miss.isSome then s.setSysLine g { y with waited := s.clk } else s

/-- An invalidate-and-writeback sweep reaches this device (R51): every line of the chunk whose primary was the lost switch
goes, dirty ones written back through their new primary, and the device acknowledges to the home, in the transaction of the sweep (R32).
A chunk of another home is complete there at some time after this. -/
def State.devSweep (s : State) (first last : LineAddr) (lost : Nat) (txn : Word) : State :=
  let hit := s.fab.lines.filterMap (fun (e : Nat × Option SysLine) =>
    let g : LineAddr := BitVec.ofNat 41 e.1
    if first.toNat ≤ e.1 ∧ e.1 ≤ last.toNat ∧ s.fab.cfg.wasPrimary g lost = true ∧ e.2.any (fun y => y.st != .i) then some g
    else none)
  let s := hit.foldl (fun s g => s.evictSys g) s
  if homeDevice first = s.fab.cfg.devno then s.carry (.sweepAck s.fab.cfg.devno txn)
  else
    let note := fun (a : Abroad) => if a.slot = lost then { a with swept := a.swept ++ [(first, last)], ended := false } else a
    { s with fab := { s.fab with
      sent := s.fab.sent ++ [message 0x25 s.fab.cfg.devno.toNat txn 0 []]
      abroad := s.fab.abroad.map note } }

/-! ### Sweeps of this home device (R51, R52) -/

/-- A device has acknowledged the chunk that the transaction broadcast. -/
def State.sweepAcked (s : State) (dev : Device) (txn : Word) : State :=
  let off := fun (w : Sweep) => if w.txn = txn then { w with awaited := w.awaited &&& ~~~((1#256) <<< dev.toNat) } else w
  { s with fab := { s.fab with sweeps := s.fab.sweeps.map off } }

/-- How long ago a transaction of this device began. -/
def Fabric.txnAge (b : Fabric) (txn : Word) : Nat := (b.nextTxn - txn).toNat

/-- The chunk that a device acknowledges next: it acknowledges in the order in which they were broadcast (DESIGN CHOICE, log 31). -/
def State.oldestSweep (s : State) (dev : Device) : Option Sweep :=
  (s.fab.sweeps.filter (fun w => w.awaited.getLsbD dev.toNat)).foldl (fun b w =>
    match b with
    | some v => if s.fab.txnAge v.txn < s.fab.txnAge w.txn then some w else b
    | none => some w) none

/-- The transaction in which a sweep message reaches this device, where none is named: that of its own sweep, or one that another home
has chosen, which is free. -/
def State.sweepTxn (s : State) (first last : LineAddr) (lost : Nat) : Word × State :=
  match s.fab.sweeps.find? (fun w => w.slot == lost && w.chunks.head? == some (first, last)) with
  | some w => (w.txn, s)
  | none => ((s.free).1.setWidth 32, (s.free).2)

/-- Take every request that waits at a switch again, once each. -/
def State.retryAll (s : State) (slot : Nat) : State :=
  let ws := (s.fswitch slot).waiting
  let s := s.setSwitch slot { s.fswitch slot with waiting := [] }
  ws.foldl (fun s w => (s.swRequest slot w.1 w.2).settleTxn slot w.2.g) s

/-- Every switch takes up what waits at it. -/
def State.retrySwitches (s : State) : State := (List.range s.fab.cfg.n).foldl State.retryAll s

/-- Notes for lines of a lost primary stand for nothing once its lines have been swept (R51). -/
def State.dropNotes (s : State) (slot : Nat) (swept : LineAddr → Bool) : State :=
  let gone := fun (g : Nat) =>
    let g : LineAddr := BitVec.ofNat 41 g
    s.fab.cfg.wasPrimary g slot && swept g
  { s with fab := { s.fab with switches := s.fab.switches.map (fun e => (e.1, { e.2 with notes := e.2.notes.filter (fun n => !gone n.1) })) } }

/-- The sweep message of a sweep's first chunk goes through the alternate to every device, in the next transaction (R51): to this one,
and as the bytes of R32 to the others. -/
def State.broadcastChunk (s : State) (w : Sweep) : State :=
  match w.chunks with
  | [] => s
  | c :: _ =>
    let second := padTo 16 (bytesNat 8 c.2.toNat ++ bytesNat 1 w.slot)
    let m := message 0x1A s.fab.cfg.devno.toNat s.fab.nextTxn c.1.toNat second
    ({ s with fab := { s.fab with sent := s.fab.sent ++ [m] } }.useTxn).carry (.sweep c.1 c.2 w.slot s.fab.nextTxn)

/-- The devices that must acknowledge a chunk: every one that can be reached (R51). -/
def State.sweepers (s : State) : BitVec 256 := s.fab.cfg.members &&& ~~~s.fab.away

/-- Ranges with the owner that each was lost at, each range once. -/
def onceEach (xs : List (LineAddr × Device)) : List (LineAddr × Device) :=
  xs.foldl (fun (acc : List (LineAddr × Device)) e => if acc.any (fun a => a.1 == e.1) then acc else acc ++ [e]) []

/-- Lines are lost: each 64 KiB range that holds one is reported and escalated once (R53, R54). -/
def State.loseLines (s : State) (xs : List (LineAddr × Device)) : State :=
  (onceEach (xs.map (fun e => (e.1 &&& ~~~0x1FF, e.2)))).foldl (fun s e => s.loseRange e.1 e.2) s

/-- The lines of a chunk that a note shows in M or O at a device out of reach (R54). -/
def State.stranded (s : State) (slot : Nat) (c : LineAddr × LineAddr) : List (LineAddr × Device) :=
  s.fab.switches.flatMap (fun (e : Nat × Switch) => e.2.notes.filterMap (fun (n : Nat × Option (Device × DirState)) =>
    let g : LineAddr := BitVec.ofNat 41 n.1
    match n.2 with
    | some (own, st) =>
      if c.1.toNat ≤ n.1 ∧ n.1 ≤ c.2.toNat ∧ s.fab.cfg.wasPrimary g slot = true ∧ homeDevice g = s.fab.cfg.devno ∧
        s.isAway own = true ∧ (st = .m ∨ st = .o) then some (g, own) else none
    | none => none))

/-- A chunk that every device has acknowledged is swept: its lines are served again, and the next chunk is broadcast. -/
def State.nextChunk (s : State) (w : Sweep) : State :=
  let w' := { w with
    chunks := w.chunks.tail
    awaited := s.sweepers
    txn := s.fab.nextTxn }
  let s := { s with fab := { s.fab with sweeps := s.fab.sweeps.map (fun v => if v = w then w' else v) } }
  (s.broadcastChunk w').retrySwitches.wakeAll

/-- A sweep that every device has acknowledged: the next chunk; after the last one the alternate is the primary of its lines. -/
def State.endSweep (s : State) (slot : Nat) : State :=
  match s.fab.sweeps.find? (fun w => w.slot == slot && w.awaited == 0) with
  | none => s
  | some w =>
    let s := s.loseLines (w.chunks.head?.elim [] (s.stranded slot))
    if 2 ≤ w.chunks.length then s.nextChunk w
    else
      let s := { s with fab := { s.fab with sweeps := s.fab.sweeps.erase w } }.dropNotes slot (fun g => homeDevice g == s.fab.cfg.devno)
      let s := s.hwEvent { kind := 0x15, src := srcLink, body := [(16, bytesNat 1 slot),
        (20, bytesNat 4 ((s.clk - w.started) / 1400)), (24, bytesNat 8 w.written)] }
      s.retrySwitches.wakeAll

/-- The other homes' sweeps for a lost switch begin. -/
def Abroad.begun (slot : Nat) : Abroad := { slot := slot, swept := [], served := [], ended := false }

/-- A chunk of another home's sweep that this device has acknowledged is complete, and its lines are served; with none left that is not,
the sweeps of the other homes for a lost switch have ended (R52; when is free: DESIGN CHOICE, log 31). -/
def Abroad.next (a : Abroad) : Abroad :=
  match a.swept with
  | c :: cs => { a with swept := cs, served := a.served ++ [c] }
  | [] => { a with ended := true }

/-- Something of the other homes' sweeps is not known to be over. -/
def Abroad.isOpen (a : Abroad) : Bool := !a.swept.isEmpty || !a.ended

/-- The first of the other homes' sweeps that is not over goes on. -/
def State.endAbroad (s : State) : State :=
  match s.fab.abroad.find? Abroad.isOpen with
  | none => s
  | some a =>
    let s := { s with fab := { s.fab with abroad := s.fab.abroad.map (fun b => if b = a then a.next else b) } }
    match a.swept with
    | c :: _ => (s.dropNotes a.slot (fun g => homeDevice g != s.fab.cfg.devno && inChunk g c)).retrySwitches.wakeAll
    | [] => s

/-! ### Delivery -/

/-- The slot is marked dead (R50). -/
def PartCfg.isDead (c : PartCfg) (k : Nat) : Bool := (SMap.get HomeSlot.reset c.homes k).dead

/-- One message arrives (DESIGN CHOICE, log 21). What a switch that is lost asks of this device does not arrive: its ports are fenced,
and it is sent no answer (R50). -/
def State.deliver (s : State) (m : FabMsg) : State :=
  match m with
  | .read k r => (s.swRequest k false r).settleTxn k r.g
  | .own k r => (s.swRequest k true r).settleTxn k r.g
  | .writeback k r l => s.swWriteback k r l
  | .note a p g own st => s.swNote a p g own st
  | .noteAck p g => s.swNoteAck p g
  | .invAck k g p => s.swInvAck k g p
  | .peerAck k g => s.swPeerAck k g
  | .ownerData k g d dirty l => s.swOwnerData k g d dirty l
  | .noCopy k g d => s.swNoCopy k g d
  | .grant g st l => s.devGrant g st l
  | .grantBare g => s.devGrantBare g
  | .inval k g => if s.fab.cfg.isDead k then s else s.devInvalidate k g
  | .fwdRead k g => if s.fab.cfg.isDead k then s else s.devForwardRead k g
  | .fwdInv k g => if s.fab.cfg.isDead k then s else s.devForwardInvalidate k g
  | .wbAck g => s.devWbAck g
  | .notice g => s.devNotice g
  | .sweep a b lost x => s.devSweep a b lost x
  | .sweepAck d x => s.sweepAcked d x

/-- The oldest message on its way arrives (DESIGN CHOICE, log 21). -/
def State.deliverNext (s : State) : Option State :=
  match s.fab.wire with
  | [] => none
  | m :: ms => some ({ s with fab := { s.fab with wire := ms } }.deliver m)

/-! ### Switch loss (R50 to R54, R158) -/

/-- The lines that this device homes and whose ownership nobody knows any more once a switch is lost (R53): those of a lost primary
whose notes a lost alternate held and no other holds yet; those that a lost alternate knew by note, and whose primary was lost
before it and is still being swept (DESIGN CHOICE, log 31). -/
def State.lostLines (s : State) (slot : Nat) : List (LineAddr × Device) :=
  let here := fun (g : LineAddr) => homeDevice g == s.fab.cfg.devno
  let unnoted := fun (g : LineAddr) => s.fab.cfg.primary g == none ||
    s.fab.unsent.any (fun u => u != slot && ((s.fab.cfg.revive slot).revive u).alternate g == some u)
  let x := s.fswitch slot
  x.dir.filterMap (fun (e : Nat × Option DirEntry) =>
    match e.2 with
    | some x => if x.owner?.isSome && here x.gla && unnoted x.gla then some (x.gla, x.own) else none
    | none => none) ++
  x.notes.filterMap (fun (e : Nat × Option (Device × DirState)) =>
    let g : LineAddr := BitVec.ofNat 41 e.1
    match e.2 with
    | some (own, _) => if here g && s.sweeping g then some (g, own) else none
    | none => none)

/-- The system sequencer moves (R158): tickets not performed are asked for again, and the device says so. -/
def State.moveSequencer (s : State) : State :=
  match s.fab.cfg.nextLive s.fab.seqSlot none with
  | none => s
  | some k =>
    let lost := fun (o : MemOp) => o.order.sc && o.ticket && !o.done &&
      o.ptes.any (fun (e : Nat × Nat) => windowOf (o.addr e.1) == 10)
    let redo := fun (g : Group) => { g with ops := g.ops.map (fun (o : MemOp) => if lost o then { o with ticket := false } else o) }
    let s := { s with groups := s.groups.map (fun (e : Nat × Option Group) => (e.1, e.2.map redo)) }
    let last := s.fab.ticket
    let s := { s with fab := { s.fab with seqSlot := k } }
    (s.hwEvent { kind := 0x26, src := srcLink, body := [(16, bytesNat 1 k), (24, bytesNat 8 last)] }).wakeAll

/-- Requests of this device that the lost switch has not answered go to the new primary. -/
def State.askAgain (s : State) (lost : Nat) : State :=
  s.fab.lines.foldl (fun s (e : Nat × Option SysLine) =>
    let g : LineAddr := BitVec.ofNat 41 e.1
    match e.2 with
    | some y => if s.fab.cfg.wasPrimary g lost then (match y.miss with
        | some own => (s.setSysLine g { y with waited := s.clk }).request g own
        | none => s) else s
    | none => s) s

/-- Messages that only the lost switch could take are gone, and what it asks of this device, which could answer to no one. -/
def FabMsg.toSlot (m : FabMsg) (k : Nat) : Bool :=
  match m with
  | .read j _ | .own j _ | .writeback j _ _ | .invAck j _ _ | .peerAck j _ | .ownerData j _ _ _ _ | .noCopy j _ _ | .noteAck j _
  | .inval j _ | .fwdRead j _ | .fwdInv j _ => j == k
  | .note a p _ _ _ => a == k || p == k
  | _ => false

/-- A writeback on its way to the lost switch goes to the line's new primary; what the lost switch acknowledged as alternate is gone. -/
def FabMsg.reroute (c : PartCfg) (k : Nat) (m : FabMsg) : Option FabMsg :=
  match m with
  | .writeback j r l => if j = k then (c.primary r.g).map (fun p => .writeback p r l) else some m
  | .noteAck j g => if j = k ∨ (c.revive k).alternate g = some k then none else some m
  | m => if m.toSlot k then none else some m

end Sys2Proof.Machine
end

