-- ==== Sys2Proof/Machine/Contain.lean ====
section
/-! DEFINITION. Errors in memory and their containment: who owns a line, the actions of the containment table, partition reset,
restoring a resilient context (R54, R86, R87, R112 to R117). -/

namespace Sys2Proof.Machine

open Sys2Proof

/-! ### Who maps a line -/

/-- The frames that one entry of a table covers: the first, and how many. An aperture's are its source frames, and one that
dequantises reads one more for its scales (R141). -/
def leafFrames (va : Nat) (e : DWord) : Nat × Nat :=
  let k := pieceOf (ebits e 15 14) (BitVec.ofNat 52 va)
  let n := if ebits e 15 14 = 2 then 512 else 1
  if va / 2 ^ 48 = 11 then (ebits e 39 16 + k, if ebits e 55 52 = 2 then n + 1 else n) else (ebits e 47 16 + k, n)

/-- The address at which a leaf of a context maps a line, if it does; of an aperture, the line of like number in the page that
reads the frame (DESIGN CHOICE, log 34). -/
def State.leafMaps (s : State) (c : Ctx) (p : LinePlace) (va : Nat) (e : DWord) : Option VA :=
  let w := va / 2 ^ 48
  let (f, n) := leafFrames va e
  if (if p.pool = 8 then w = 8 ∨ w = 10 ∨ w = 11 else w = p.pool) ∧ f ≤ p.frame ∧ p.frame < f + n then
    let page := va + min (p.frame - f) (if ebits e 15 14 = 2 then 511 else 0) * 65536
    let k := if p.pool = 8 then 0 else (s.shape c (leafAttr e).shp).rotation page
    some (BitVec.ofNat 52 (page + p.indexAt k * 128))
  else none

/-- The tags that have tables. -/
def State.allTags (s : State) : List Ctx := 0 :: s.contextTags

/-- Every mapping of a line: context, address, leaf. The one-to-one map of the package pool (R96) does not count
(DESIGN CHOICE, log 34). -/
def State.mappings (s : State) (p : LinePlace) : List (Ctx × VA × DWord) :=
  s.allTags.flatMap (fun c => (s.leavesOf c).1.filterMap (fun l =>
    match s.leafMaps c p l.1 l.2 with
    | some va => if c = 0 ∧ va.toNat = 8 * 2 ^ 48 + p.phys then none else some (c, va, l.2)
    | none => none))

/-- The line holds page tables, descriptors or a shape table. -/
def State.isTable (s : State) (p : LinePlace) : Bool :=
  let d := p.phys
  let ct := s.mem.ctxtab.toNat % 2 ^ 48
  p.pool == 8 && ((decide (ct ≤ d) && decide (d < ct + 16384)) ||
    s.allTags.any (fun c =>
      let sh := s.descriptor c 8 8
      (s.leavesOf c).2.contains p.frame || (sh != 0 && decide (sh / 128 * 128 ≤ d) && decide (d < sh + 256))))

/-- The owner row of a line, with the context and the address that it stands for; none where it is mapped nowhere (R114)
(DESIGN CHOICE, log 34). -/
def State.ownerOf (s : State) (line : Nat) : Option (OwnerRow × Ctx × VA) :=
  let p := placeOfLine s.mem.mbound line
  let ms := s.mappings p
  let tag0 := ms.find? (fun m => m.1 == 0 && windowOf m.2.1 != 10)
  if s.isTable p then some (.device, 0, BitVec.ofNat 52 (8 * 2 ^ 48 + p.phys))
  else
    match tag0, ms.find? (fun m => windowOf m.2.1 == 10), ms with
    | some m, _, _ => some (.device, m.1, m.2.1)
    | none, some m, _ => some (.partition, m.1, m.2.1)
    | none, none, m :: _ =>
      let (c, va) := (m.1, m.2.1)
      let prv := decide (s.descriptor c 16 8 ≤ va.toNat) && decide (va.toNat < s.descriptor c 24 8)
      if prv && !(s.teamsWhere (fun t => t.ctx == c)).isEmpty then some (.team, c, va) else some (.context, c, va)
    | none, none, [] => none

/-! ### Small actions -/

/-- Rewrite a line to zero: its poison ends, no copy of it stays. -/
def State.zeroLine (s : State) (line : Nat) : State :=
  let s := (s.removeCopies line).setDramBytes line ((List.range 128).map (fun j => (j, 0)))
  { s with mem := { s.mem with poison := SMap.set none s.mem.poison line none } }

/-- The device-physical start of a frame's lines copied to another frame of the same pool. -/
def State.copyFrame (s : State) (pool f f' : Nat) : State :=
  ((frameLines s.mem.mbound pool f).zip (frameLines s.mem.mbound pool f')).foldl (fun s e =>
    let l := s.homeCopy e.1
    s.setDramBytes e.2 ((List.range 128).map (fun j => (j, byteOf l j)))) s

/-- A leaf for a 64 KiB page of another frame, with the attributes of a leaf; an aperture's is its source frame. -/
def leafAt (e : DWord) (aperture : Bool) (f : Nat) : DWord :=
  if aperture then (e &&& ~~~(0xFFFFFF#64 <<< 16) &&& ~~~(3#64 <<< 14)) ||| BitVec.ofNat 64 (f * 2 ^ 16)
  else (e &&& ~~~(0xFFFFFFFF#64 <<< 16) &&& ~~~(3#64 <<< 14)) ||| BitVec.ofNat 64 (f * 2 ^ 16)

/-- One 64 KiB page that a leaf of a context maps is mapped to frame f' in place of f. Of a large page only this piece changes its
leaf; a 1 GiB page's entry becomes a table for it. A page that dequantises, whose two frames stand side by side, is unmapped
(DESIGN CHOICE, log 34). -/
def State.moveLeaf (s : State) (f f' : Nat) (m : Ctx × VA × DWord) : State :=
  let (c, va, e) := m
  let ap := windowOf va == 11
  let psz := ebits e 15 14
  let leaf := if ap && ebits e 55 52 == 2 then 0 else leafAt e ap f'
  match s.entryOf c va false psz with
  | (s, none) => s
  | (s, some d) =>
    if psz = 2 then
      match s.takeFrame with
      | (s, none) => s
      | (s, some t) =>
        let base := va.toNat / 2 ^ 25 * 2 ^ 25
        let (f0, _) := leafFrames base e
        let s := (List.range 512).foldl (fun s k =>
          s.physWord (t * 65536 + 8 * k) (if f0 + k = f then leaf else leafAt e ap (f0 + k))) s
        (s.physWord d (BitVec.ofNat 64 (2 ^ 63 + t * 2 ^ 16 + 3 * 2 ^ 14))).invalidate (.page c va)
    else (s.physWord d leaf).invalidate (.page c va)

/-- The Director moves the pages of a retired frame to a new frame (R117). -/
def State.movePages (s : State) (p : LinePlace) : State :=
  let ms := s.mappings p
  if ms.isEmpty then s
  else
    let (s, f) := if p.pool = 8 then s.takeFrame else s.takeDieFrame p.pool
    match f with
    | none => s
    | some f =>
      -- what the caches hold of the page is written back first (R99)
      let s := ms.foldl (fun s m => s.invalidate (.page m.1 m.2.1)) s
      ms.foldl (fun s m => s.moveLeaf p.frame f m) (s.copyFrame p.pool p.frame f)

/-- A context is killed by the containment table (R87, R115): the body of its KILL is open but for kind, die and context. -/
def State.containKill (s : State) (c : Ctx) (die : Nat) : State :=
  let (x, s) := s.free
  let rest := bytesNat 45 x.toNat
  let s := (s.killContext c).sendHeld c
  let s := match s.context? c.toNat with
    | some y => s.setContext c.toNat { y with killed := true }
    | none => s
  (s.dirEvent { kind := 0x06, src := die, ctx := c.toNat,
                body := [(16, bytesNat 1 1 ++ bytesNat 1 die ++ bytesNat 1 c.toNat ++ rest)] }).endLaunches c 2

/-! ### Restoring a resilient context (R86, R87) -/

/-- The 64 KiB pages of a context in windows 0 to 8, in address order, each by its address, pool and frame. -/
def State.pageFrames (s : State) (c : Ctx) : List (Nat × Nat × Nat) :=
  (s.leavesOf c).1.flatMap (fun l =>
    let w := l.1 / 2 ^ 48
    let (f, n) := leafFrames l.1 l.2
    if w ≤ 8 then (List.range n).map (fun k => (l.1 + k * 65536, w, f + k)) else [])

/-- The locations of the lines of a context's own pages, in windows 0 to 8. -/
def State.pageLines (s : State) (c : Ctx) : List Nat :=
  (s.pageFrames c).flatMap (fun p => frameLines s.mem.mbound p.2.1 p.2.2)

/-- The nonzero bytes of a context's pages. -/
def State.contextBytes (s : State) (c : Ctx) : SMap Byte :=
  let ls := s.pageLines c
  s.mem.dram.filter (fun e => ls.contains (e.1 / 128 * 128))

/-- The nonzero bytes of the lines of a frame among some bytes of device memory, by their offset in the frame. -/
def frameBytes (mbound : Nat) (bytes : Memory) (pool f : Nat) : Memory :=
  let ls := frameLines mbound pool f
  bytes.filterMap (fun e =>
    let i := ls.idxOf (e.1 / 128 * 128)
    if i < 512 then some (i * 128 + e.1 % 128, e.2) else none)

/-- The pages written since the previous checkpoint go to the context's safe-tier area, where the n-th page of the context in
address order takes the n-th 64 KiB; a page that holds what the last checkpoint saved is none of them, and what the area does not
hold is not written (DESIGN CHOICE, log 34). -/
def State.streamPages (s : State) (c : Ctx) (x : Context) : State :=
  (s.pageFrames c).zipIdx.foldl (fun s p =>
    let ((_, pool, f), n) := p
    let new := frameBytes s.mem.mbound s.mem.dram pool f
    let same := x.saved.any (fun k => frameBytes s.mem.mbound k.bytes pool f == new)
    if same || x.safeSize.toNat < (n + 1) * 65536 then s
    else s.putHostRange (x.safe.toNat + n * 65536) 65536 (new.map (fun e => (x.safe.toNat + n * 65536 + e.1, e.2)))) s

/-- A context is paused: no run of it is in progress, and what it has in flight is complete. -/
def State.ctxPaused (s : State) (c : Ctx) : Bool :=
  s.cur.all (fun k => (s.group? k.gid).all (fun g => g.ctx != c)) &&
  (s.groupsWhere (fun g => g.ctx == c)).all (fun e => !s.speculates e.1 && !s.inUnit e.1 && e.2.undone.isEmpty)

/-- A due incremental checkpoint of a paused context: the pages written are streamed, it commits, and what was held back for it
goes out; the next one is due an interval later (R86). -/
def State.commitCheckpoint (s : State) (c : Ctx) : State :=
  match s.context? c.toNat with
  | some x =>
    if s.ckptDue c && s.ctxPaused c then
      let n := x.ckpts + 1
      let saved : Checkpoint := { number := n, bytes := s.contextBytes c }
      (((s.streamPages c x).setContext c.toNat { x with
        ckpts := n
        ckptAt := s.clk + x.interval.toNat * 1400000
        failures := 0
        saved := some saved
        redo := [] }).guardPages c).sendHeld c
    else s
  | none => s

/-- R86. -/
def execIncrementalCheckpoint (ctx : Ctx) (s : State) : Host.Outcome State Fault Refusal := .next (s.commitCheckpoint ctx)

/-- A launch is queued again from its first team. -/
def State.relaunch (s : State) (lid : Nat) (l : Launch) : State :=
  let x := Launch.fresh l.blk l.die s.clk l.href
  let d := s.die l.die
  ((s.setDie l.die (d.setQueue x.level (d.queue x.level ++ [lid]))).setLaunch lid x).checkDep lid

/-- A context's pages hold what a checkpoint saved of them. -/
def State.loadCheckpoint (s : State) (c : Ctx) (k : Checkpoint) : State :=
  let ls := s.pageLines c
  let mine := fun (e : Nat × Byte) => ls.contains (e.1 / 128 * 128)
  { s with mem := { s.mem with
    dram := SMap.join 0 (s.mem.dram.filter (fun e => !mine e)) (k.bytes.filter mine)
    poison := s.mem.poison.filter (fun e => !ls.contains e.1) } }

/-- The LAUNCH_DONE events held back, which the launches run again will send anew, are discarded. -/
def Context.dropDone (x : Context) : Context := { x with heldEvts := x.heldEvts.filter (fun e => field e 4 1 != 3) }

/-- R87: the last committed checkpoint is restored, and the launches that had not completed at it run again. -/
def State.restoreContext (s : State) (c : Ctx) (x : Context) (k : Checkpoint) : State :=
  let open_ := x.redo ++ s.launchesWhere (fun l => l.blk.ctx == c)
  let s := (s.killContext c).invalidate (.context c)
  let s := (s.setContext c.toNat { x.dropDone with redo := [] }).loadCheckpoint c k
  let s := open_.foldl (fun s e => s.relaunch e.1 e.2) s
  s.dirEvent { kind := 0x09, src := 0, ctx := c.toNat, body := [(16, bytesNat 8 k.number), (24, bytesNat 4 open_.length)] }

/-- A restore is asked for, or has met an error: it starts again, and the third failure within one interval ends the context. -/
def State.contextRestore (s : State) (c : Ctx) (failed : Bool) : State :=
  match s.context? c.toNat with
  | none => s
  | some x =>
    if x.killed then s
    else
      match x.saved with
      | none => s.containKill c 0
      | some k =>
        if failed then
          let s := s.setContext c.toNat { x with failures := x.failures + 1 }
          if 3 ≤ x.failures + 1 then s.containKill c 0 else s.post (.contextRestore c false)
        else s.restoreContext c x k

/-- R87. -/
def execContextRestore (ctx : Ctx) (failed : Bool) (s : State) : Host.Outcome State Fault Refusal :=
  .next (s.contextRestore ctx failed)

/-! ### Partition reset (R116) -/

/-- The first address of the 64 KiB range that holds an address. -/
def rangeBase (va : VA) : VA := va &&& ~~~0xFFFF

/-- R116, as this device takes part in it. -/
def State.resetPartition (s : State) (va : VA) : State :=
  let base := rangeBase va
  let lost := (List.range 512).map (fun i => globalOf base + BitVec.ofNat 41 i)
  let s := (s.contextTags.filter (fun c => s.descriptor c 32 1 != 0)).foldl (fun s c => s.failContext c 1) s
  let s := lost.foldl (fun s g => s.forgetSys g) s
  let s := s.removeSpan { ctx := none, first := 10 * 2 ^ 48, len := 2 ^ 48 }
  let s := lost.foldl (fun s g =>
    if homeDevice g = s.fab.cfg.devno then
      match s.homeKey g with
      | some k => s.zeroLine k
      | none => s
    else s) s
  s.hwEvent { kind := 0x23, src := srcIo, body := [(16, bytesNat 8 base.toNat), (24, bytesNat 1 (homeDevice (globalOf base)).toNat)] }

/-- R116. -/
def execPartitionReset (base : VA) (s : State) : Host.Outcome State Fault Refusal := .next (s.resetPartition base)

/-! ### The containment table (R115) -/

/-- The quarters have room for a team again: a killed group of it that has sent operations keeps its slot until they are complete (R431). -/
def State.teamRoom (s : State) (b : LaunchBlock) (t : Team) : Bool :=
  (b.cores t.core).all (fun c => (List.range 4).all (s.quarterRoom b t.die c))

/-- A team whose groups have been killed starts again in its place, its banks drained, under the same team index; an acquire for each of
its groups (R115, R153). -/
def State.restartTeam (s : State) (tid : Nat) (t : Team) (l : Launch) : State :=
  let w := BitVec.ofNat 32 t.lid
  let pair := coreKey t.die t.core / 2
  let fifos := t.fifoBk.flatMap (fun e => e.2)
  let s := s.claimBanks pair tid t.scratch fifos
  let s := (l.blk.cores t.core).foldl (fun s c => s.expireAll (coreKey t.die c)) s
  let drains := (t.scratch ++ fifos).map (bankKey pair)
  let (s, gs) := (List.range l.blk.ngrp).foldl (fun (acc : State × List Nat) i =>
    let (s, gid) := acc.1.placeGroup l.blk w t.index t.die t.core i drains
    (s, acc.2 ++ [gid])) (s, [])
  (s.setTeam tid { t with groups := gs }).hwEvent
    { kind := 0x22, src := t.die, ctx := t.ctx.toNat, body := [(16, bytesNat 4 t.lid), (20, bytesNat 4 t.index)] }

/-- A team that waits to start again, with no group, does once there is room. -/
def State.restartNext (s : State) : Option State :=
  (s.teamsWhere (fun t => t.groups.isEmpty)).findSome? (fun e =>
    (s.launch? e.2.lid).bind (fun l => if s.teamRoom l.blk e.2 then some (s.restartTeam e.1 e.2 l) else none))

/-- Relaunch a team in its place: its groups are killed, and it starts again, at once or when there is room. -/
def State.relaunchTeam (s : State) (tid : Nat) (t : Team) (l : Launch) : State :=
  let s := t.groups.foldl (fun s gid => s.killGroup gid) s
  let t := { t with
    groups := []
    ended := []
    fifos := []
    ph := 0
    arrived := []
    losses := t.losses + 1 }
  if s.teamRoom l.blk t then s.restartTeam tid t l else s.setTeam tid t

/-- A restore of the context is due: it absorbs the weaker actions of the lines that fall within it (R117). -/
def State.restoring (s : State) (c : Ctx) : Bool :=
  s.agenda.any (fun i =>
    match i with
    | .contextRestore x _ => x == c
    | _ => false)

/-- The context row: a resilient context with a checkpoint is restored, another killed; the line is rewritten in either case. -/
def State.contextRow (s : State) (line die : Nat) (c : Ctx) : State :=
  let s := s.zeroLine line
  match s.context? c.toNat with
  | some x => if x.killed || s.restoring c then s else if x.resilient && x.saved.isSome then s.post (.contextRestore c false) else s.containKill c die
  | none => s

/-- The team row: one team of the context that runs loses the line, which one is the Director's record; a second loss takes the
context row. -/
def State.teamRow (s : State) (line die : Nat) (c : Ctx) : State :=
  let ts := if s.restoring c then [] else s.teamsWhere (fun t => t.ctx == c)
  let (x, s) := s.free
  match ts[x.toNat % max 1 ts.length]? with
  | none => s.contextRow line die c
  | some (tid, t) =>
    match s.launch? t.lid with
    | some l => if 1 ≤ t.losses then s.contextRow line die c else (s.zeroLine line).relaunchTeam tid t l
    | none => s.contextRow line die c

/-- The row of a poisoned line: a range lost with a device out of reach is a partition-shared page's, and stands for its address (R54). -/
def State.poisonRow (s : State) (line : Nat) (q : Poison) : Option (OwnerRow × Ctx × VA) :=
  if q.shared then some (.partition, 0, q.va) else s.ownerOf line

/-- The action of another poisoned line is stronger and takes in what this one's would act on (R117): a device reset everything, the
action of a context its teams, a partition reset the contexts that it ends (DESIGN CHOICE, log 34). -/
def State.absorbed (s : State) (line : Nat) (row : OwnerRow) (c : Ctx) : Bool :=
  (row == .team || row == .context || row == .partition) && s.mem.poison.any (fun e =>
    e.1 != line && (match e.2.bind (s.poisonRow e.1) with
      | some (.device, _, _) => true
      | some (.partition, _, _) => row != .partition && s.descriptor c 32 1 != 0
      | some (.context, x, _) => row == .team && x == c
      | _ => false))

/-- A dirty copy of another device's system-scope line is lost in an L2 of this one: a line of a `sys` page (R114, R115). -/
def State.containAbroad (s : State) (line : Nat) (q : Poison) : State :=
  let s := (s.reportLoss (s.linePlace line q.va) .partition 0 q.va q.wher).resetPartition q.va
  { s with mem := { s.mem with poison := SMap.set none s.mem.poison line none } }

/-- Contain a poisoned line. What a stronger action absorbs is rewritten with it and takes no action of its own; so with a device reset
that is due (R117). -/
def State.contain (s : State) (line : Nat) : State :=
  if 0 < s.mem.resets then s.resetDevice
  else
    match SMap.get none s.mem.poison line with
    | none => s
    | some q =>
      if !isDram line then s.containAbroad line q
      else
        match s.poisonRow line q with
        | none => s.retireFrame line
        | some (row, c, va) =>
          let die := (placeOfLine s.mem.mbound line).die
          let lone := !s.absorbed line row c
          let s := s.reportLoss (s.linePlace line va) row c va q.wher
          if !lone then s.zeroLine line
          else
            match row with
            | .team => s.teamRow line die c
            | .context => s.contextRow line die c
            | .partition => s.resetPartition va
            | .device => s.resetDevice

/-- R115. -/
def execContainmentAction (line : Nat) (s : State) : Host.Outcome State Fault Refusal := .next (s.contain line)

/-! ### The scrubber and its counts (R112, R113) -/

/-- R112. -/
def execMemCorrectedReport (die : Fin 8) (channel : Fin 64) (count : Nat) (s : State) : Host.Outcome State Fault Refusal :=
  .next (s.reportCorrected die.val channel.val count)

/-- An error in DRAM that cannot be corrected (R113); one in a line that has failed already is retired with its frame, after its
containment (R117). -/
def State.loseLine (s : State) (line : Nat) : State :=
  if s.poisoned line then ((s.contain line).retireFrame line).movePages (placeOfLine s.mem.mbound line)
  else
    let (c, va) := match s.ownerOf line with
      | some (_, c, va) => (c, va)
      | none => (0, 0)
    s.loseCopy .dram line c va

/-- The scrubber reads a line of a channel: a corrected sector is rewritten and counted. -/
def State.scrub (s : State) (die chan addr : Nat) (r : EccOutcome) : State :=
  let line := dramKey die chan (addr / 128 * 128)
  let known := s.mem.flaws.filter (fun f => f.place == .dram && f.line == line)
  let s := known.foldl (fun s f => s.meetFlaw f 0 0) s
  match r with
  | .clean => s
  | .corrected => s.noteCorrected (channelKey die chan)
  | .uncorrectable => if addr < s.channelMiB * 2 ^ 20 then s.loseLine line else s

/-- R112. -/
def execPatrolScrub (die : Fin 8) (channel : Fin 64) (addr : Nat) (outcome : EccOutcome) (s : State) :
    Host.Outcome State Fault Refusal := .next (s.scrub die.val channel.val addr outcome)

end Sys2Proof.Machine
end

