-- ==== Sys2Proof/Machine/FabricEvents.lean ====
section
/-! DEFINITION. The events of the fabric, each one message or timer of R42 to R53, and the loss of a switch (R50 to R54, R158). -/

namespace Sys2Proof.Machine

open Sys2Proof

/-! ### At a switch -/

/-- R42. -/
def execReadRequest (slot : Fin 64) (r : FabReq) (s : State) : Host.Outcome State Fault Refusal :=
  .next (s.deliver (.read slot.val r))

/-- R42. -/
def execOwnershipRequest (slot : Fin 64) (r : FabReq) (s : State) : Host.Outcome State Fault Refusal :=
  .next (s.deliver (.own slot.val r))

/-- R42. -/
def execWriteback (slot : Fin 64) (r : FabReq) (line : Line) (s : State) : Host.Outcome State Fault Refusal :=
  .next (s.deliver (.writeback slot.val r line))

/-- R49. -/
def execOwnershipNote (alternate primary : Fin 64) (g : LineAddr) (own : Device) (st : DirState) (s : State) :
    Host.Outcome State Fault Refusal := .next (s.deliver (.note alternate.val primary.val g own st))

/-- R49. -/
def execOwnershipNoteAck (primary : Fin 64) (g : LineAddr) (s : State) : Host.Outcome State Fault Refusal :=
  .next (s.deliver (.noteAck primary.val g))

/-- R42. -/
def execInvalidationAcknowledgement (slot : Fin 64) (g : LineAddr) (port : Fin 64) (s : State) :
    Host.Outcome State Fault Refusal := .next (s.deliver (.invAck slot.val g port.val))

/-- R42. -/
def execOwnerData (slot : Fin 64) (g : LineAddr) (dev : Device) (dirty : Bool) (line : Line) (s : State) :
    Host.Outcome State Fault Refusal := .next (s.deliver (.ownerData slot.val g dev dirty line))

/-- R43. -/
def execNoCopyReply (slot : Fin 64) (g : LineAddr) (dev : Device) (s : State) : Host.Outcome State Fault Refusal :=
  .next (s.deliver (.noCopy slot.val g dev))

/-- R45. -/
def execWaitingNoticeTimer (slot : Fin 64) (s : State) : Host.Outcome State Fault Refusal := .next (s.swNotices slot.val)

/-! ### At this device -/

/-- R42. -/
def execDataGrant (g : LineAddr) (st : DirState) (line : Line) (s : State) : Host.Outcome State Fault Refusal :=
  .next (s.deliver (.grant g st line))

/-- R42. -/
def execGrantWithoutData (g : LineAddr) (s : State) : Host.Outcome State Fault Refusal := .next (s.deliver (.grantBare g))

/-- R47. -/
def execInvalidation (slot : Fin 64) (g : LineAddr) (s : State) : Host.Outcome State Fault Refusal :=
  .next (s.deliver (.inval slot.val g))

/-- R43. -/
def execForwardRead (slot : Fin 64) (g : LineAddr) (s : State) : Host.Outcome State Fault Refusal :=
  .next (s.deliver (.fwdRead slot.val g))

/-- R42. -/
def execForwardInvalidate (slot : Fin 64) (g : LineAddr) (s : State) : Host.Outcome State Fault Refusal :=
  .next (s.deliver (.fwdInv slot.val g))

/-- R42. -/
def execWritebackAcknowledgement (g : LineAddr) (s : State) : Host.Outcome State Fault Refusal := .next (s.deliver (.wbAck g))

/-- R45. -/
def execWaitingNotice (g : LineAddr) (s : State) : Host.Outcome State Fault Refusal := .next (s.deliver (.notice g))

/-- R51. -/
def execInvalidateAndWritebackSweep (first last : LineAddr) (lost : Fin 64) (s : State) :
    Host.Outcome State Fault Refusal :=
  let (x, s) := s.sweepTxn first last lost.val
  .next (s.deliver (.sweep first last lost.val x))

/-- R51. -/
def execSweepAcknowledgement (dev : Device) (s : State) : Host.Outcome State Fault Refusal :=
  match s.oldestSweep dev with
  | some w => .next (s.deliver (.sweepAck dev w.txn))
  | none => .next s

/-- R52. -/
def execSweepComplete (slot : Fin 64) (s : State) : Host.Outcome State Fault Refusal := .next (s.endSweep slot.val)

/-! ### The loss of a switch (R50, R51, R53, R54, R158) -/

/-- The slot is dead in the home table; its switch is fenced, and what it held or was to receive is gone, the notes that it has not
acknowledged as alternate among it. -/
def State.markDead (s : State) (slot : Nat) : State :=
  let c := s.fab.cfg
  let noted := fun (e : Nat × Nat) => c.alternate (BitVec.ofNat 41 e.1) != some slot
  let c := { c with homes := SMap.set HomeSlot.reset c.homes slot { SMap.get HomeSlot.reset c.homes slot with dead := true } }
  { s with fab := { s.fab with
    cfg := c
    unsent := s.fab.unsent ++ [slot]
    switches := s.fab.switches.map (fun e => (e.1, { e.2 with unacked := e.2.unacked.filter noted }))
    wire := s.fab.wire.filterMap (FabMsg.reroute c slot) } }

/-- The system-scope memory that this device homes, as its window-10 pages: first line and lines, in rising order, pages that follow
one another joined up to 1 GiB (R51). -/
def State.sysChunks (s : State) : List (Nat × Nat) :=
  ((s.leavesOf 0).1.foldl (fun (acc : List (Nat × Nat)) l =>
    let g := globalOf (BitVec.ofNat 52 l.1)
    if l.1 / 2 ^ 48 ≠ 10 ∨ homeDevice g ≠ s.fab.cfg.devno then acc
    else
      let n := framesOf (ebits l.2 15 14) * 512
      match acc with
      | (a, k) :: rest => if a + k = g.toNat ∧ k + n ≤ 2 ^ 23 then (a, k + n) :: rest else (g.toNat, n) :: acc
      | [] => [(g.toNat, n)]) []).reverse

/-- The chunks of a recovery sweep by first and last line; a device that maps no page of its own for the system has none. -/
def State.chunks (s : State) : List (LineAddr × LineAddr) :=
  s.sysChunks.map (fun c => (BitVec.ofNat 41 c.1, BitVec.ofNat 41 (c.1 + c.2 - 1)))

/-- G of R52: the affected memory in GiB, rounded up, at least 1. -/
def State.sweepGiB (s : State) : Nat := max 1 (((s.sysChunks.map (fun c => c.2)).sum + 2 ^ 23 - 1) / 2 ^ 23)

/-- This home device begins its recovery sweep (R51). -/
def State.beginSweep (s : State) (slot : Nat) : State :=
  let cs := s.chunks
  let w : Sweep := { slot := slot, chunks := cs, awaited := if cs.isEmpty then 0 else s.sweepers, written := 0, started := s.clk,
                     txn := s.fab.nextTxn }
  let s := { s with fab := { s.fab with sweeps := s.fab.sweeps ++ [w] } }
  let s := s.hwEvent { kind := 0x14, src := srcLink, body := [(16, bytesNat 1 slot), (20, bytesNat 4 s.sweepGiB)] }
  s.broadcastChunk w

/-- The line that a transaction evicts is not waited for where its owner is out of reach: what it held modified is lost, and the line
leaves E, O or M, which is noted (R49, R54). -/
def State.releaseEvicted (s : State) (slot : Nat) (t : Txn) : State :=
  match t.evict.bind (s.fswitch slot).wayOf with
  | some (k, e) =>
    if e.owner?.isSome && s.isAway e.own then
      let s := s.setSwitch slot ((s.fswitch slot).setEntry k (some { e with st := .s }))
      (s.ownerLost e.gla e).noteTo slot e.gla e.own .i
    else s
  | none => s

/-- A transaction does not wait for devices that are out of reach: an owner among them gives no data (R54). -/
def State.releaseTxn (s : State) (slot : Nat) (g : LineAddr) : State :=
  match (s.fswitch slot).txnOf g with
  | none => s
  | some t =>
    let s := s.releaseEvicted slot t
    let me := s.fab.cfg.devno
    let p := (portOf me).val
    let rest := t.restDue && !(s.behind p [me]).isEmpty
    let t' := { t with
      acks := s.owing t.acks [] []
      restDue := rest }
    let t' := if t.restDue && !rest && !t.selfDue then t'.acked p else t'
    let (s, t') := match t.owner with
      | some d =>
        if s.isAway d then
          let s' := match (s.fswitch slot).find t.req.g with
            | some (_, e) => s.ownerLost t.req.g e
            | none => s
          (s', { t' with
            owner := none
            data := some (s'.homeLine t.req.g) })
        else (s, t')
      | none => (s, t')
    (s.advance slot t').retryWaiting slot g

/-- Every transaction of every switch goes on without the devices that are out of reach. -/
def State.releaseAway (s : State) : State :=
  ((List.range s.fab.cfg.n).filter s.fab.cfg.live).foldl (fun s k =>
    (s.fswitch k).txns.foldl (fun s (e : Nat × Option Txn) => s.releaseTxn k (BitVec.ofNat 41 e.1)) s) s

/-- With a switch some devices may go out of reach; which, no definition tells: a free value picks them among the other members
(DESIGN CHOICE, log 31). -/
def State.strand (s : State) : State :=
  let (x, s) := s.free
  let me : BitVec 256 := (1#256) <<< s.fab.cfg.devno.toNat
  { s with fab := { s.fab with away := s.fab.away ||| (x.setWidth 256 &&& s.fab.cfg.members &&& ~~~me) } }.releaseAway

/-- A switch is declared lost; a slot that is not live is lost already. The other home devices sweep too (R52). -/
def State.loseSwitch (s : State) (slot : Nat) (bySwitch : Bool) (by_ : Nat) : State :=
  if !s.fab.inForce || !s.fab.cfg.live slot then s
  else
    let s := s.markDead slot
    let s := s.hwEvent { kind := 0x13, src := srcLink, body := [(16, bytesNat 1 slot), (17, bytesNat 1 (if bySwitch then 1 else 0)),
                                                               (18, bytesNat 1 by_)] }
    let lost := s.lostLines slot
    let s := (s.setSwitch slot .reset).loseLines lost
    let s := if s.fab.seqSlot = slot then s.moveSequencer else s
    let s := s.askAgain slot
    if (List.range s.fab.cfg.n).any s.fab.cfg.live then
      let s := s.strand
      { s with fab := { s.fab with abroad := s.fab.abroad ++ [Abroad.begun slot] } }.beginSweep slot
    else s

/-- R50. -/
def execSwitchLossDeclaration (slot : Fin 64) (bySwitch : Bool) (by_ : BitVec 8) (s : State) :
    Host.Outcome State Fault Refusal := .next (s.loseSwitch slot.val bySwitch by_.toNat)

/-- This device declares a switch lost and tells the others (R50). -/
def State.declareLost (s : State) (k : Nat) : State :=
  let me := s.fab.cfg.devno.toNat
  let m := message 0x35 me s.fab.nextTxn (k + 256 * me) []
  ({ s with fab := { s.fab with sent := s.fab.sent ++ [m] } }.useTxn).loseSwitch k false me

/-- A request, a writeback too, that has had no answer and no notice for 200 µs: this device declares the primary lost. -/
def State.requestTimedOut (s : State) (g : LineAddr) : State :=
  let y := s.sysLine g
  if y.miss.isNone && !y.wbWait then s
  else
    match s.fab.cfg.primary g with
    | some k => s.declareLost k
    | none => s

/-- R50. -/
def execSwitchLossTimeout (g : LineAddr) (s : State) : Host.Outcome State Fault Refusal := .next (s.requestTimedOut g)

/-- The entries of a switch whose ownership its alternate should hold. -/
def Switch.owned (x : Switch) : List DirEntry :=
  x.dir.filterMap (fun (e : Nat × Option DirEntry) =>
    match e.2 with
    | some y => if y.owner?.isSome then some y else none
    | none => none)

/-- The entries of a switch whose grants wait for an acknowledgement of their notes. -/
def Switch.granting (x : Switch) : List DirEntry :=
  x.dir.filterMap (fun (e : Nat × Option DirEntry) =>
    match e.2 with
    | some y => if y.owner?.isNone && (x.txnOf y.gla).any (fun t => t.noteDue) then some y else none
    | none => none)

/-- A primary sends its notes for a line again; a line without an alternate waits for none. -/
def State.resendNote (s : State) (slot : Nat) (e : DirEntry) : State :=
  match s.fab.cfg.alternate e.gla with
  | some a => s.sendNote a slot e.gla e.own e.st
  | none => s.swNoteAck slot e.gla

/-- The primaries send again the notes that the lost switch held as alternate (R53). -/
def State.resendNotes (s : State) (lost : Nat) : State :=
  if !s.fab.unsent.contains lost then s
  else
    let old := s.fab.cfg.revive lost
    let live := (List.range s.fab.cfg.n).filter s.fab.cfg.live
    let s := live.foldl (fun s k =>
      (((s.fswitch k).owned ++ (s.fswitch k).granting).filter (fun e => old.alternate e.gla == some lost)).foldl (fun s e => s.resendNote k e) s) s
    let s := { s with fab := { s.fab with unsent := s.fab.unsent.filter (· != lost) } }
    s.hwEvent { kind := 0x16, src := srcLink, body := [(16, bytesNat 1 lost)] }

/-- R53. -/
def execOwnershipNotesResend (lost : Fin 64) (s : State) : Host.Outcome State Fault Refusal := .next (s.resendNotes lost.val)

end Sys2Proof.Machine
end

