-- ==== Sys2Proof/Machine/LinkEvents.lean ====
section
/-! DEFINITION. The events of the link layer: sending and receiving flits, retries, retraining, a link's loss and return (R33 to R36,
R55, R56). -/

namespace Sys2Proof.Machine

open Sys2Proof

/-- Change a link that exists. -/
def State.onLink (s : State) (n : Nat) (h : Link → Link) : State := if isLink n then s.setLink n (h (s.link n)) else s

/-- R33. -/
def execFlitSend (link : Nat) (kind : FlitKind) (vc : Fin 4) (msgs : List (List Byte)) (s : State) :
    Host.Outcome State Fault Refusal := .next (s.onLink link (fun l => l.send kind vc.val msgs))

/-- R33. -/
def execFlitReceive (link : Nat) (flit : List Byte) (s : State) : Host.Outcome State Fault Refusal :=
  .next (s.onLink link (fun l => l.receive flit))

/-- A retry request of the other end (R33). -/
def Link.answerRetry (l : Link) (seq : BitVec 16) : Link := if l.up && !l.train then l.resend seq else l

/-- R33. -/
def execRetryRequest (link : Nat) (seq : BitVec 16) (s : State) : Host.Outcome State Fault Refusal :=
  .next (s.onLink link (fun l => l.answerRetry seq))

/-- The link stops carrying flits and retrains; counts, credits and the replay buffer stay (R31, R34). -/
def Link.retrain (l : Link) : Link :=
  if l.up && !l.train then { l with
    train := true
    trains := l.trains + 1 }
  else l

/-- R34. -/
def execLinkRetrain (link : Nat) (s : State) : Host.Outcome State Fault Refusal := .next (s.onLink link Link.retrain)

/-! ### The end of retraining (R35, R36) -/

/-- Lanes are dropped, each with an event that names the width it leaves. -/
def State.dropLanes (s : State) (n : Nat) (lanes : List Nat) : State :=
  lanes.foldl (fun s k =>
    let l := s.link n
    let w := l.width - 1
    (s.setLink n { l with width := w }).hwEvent
      { kind := 0x11, src := srcLink, body := [(16, bytesNat 1 n), (17, bytesNat 1 k), (18, bytesNat 1 w)] }) s

/-- The device is cut off from its partition: no system-scope line stays, and its home table is discarded (R55). -/
def State.fence (s : State) : State :=
  { s.removeSpan { ctx := none, first := 10 * 2 ^ 48, len := 2 ^ 48 } with
    fab := { s.fab with
      fenced := true
      inForce := false
      cfg := { PartCfg.reset with devno := s.fab.cfg.devno }
      lines := []
      wire := []
      sweeps := []
      unsent := []
      away := 0
      abroad := [] } }

/-- A start is under way. -/
def Package.starting (p : Package) : Bool :=
  match p.phase with
  | .waitGo | .readImage | .bringUp | .waitReady => true
  | _ => false

/-- The IFL links of this device that the port map leads to the switch of a slot (R66). -/
def State.linksTo (s : State) (slot : Nat) : List Nat :=
  let id := (SMap.get HomeSlot.reset s.fab.cfg.homes slot).ident
  iflLinks.filter (fun n =>
    let e := SMap.get 0 s.fab.cfg.ports (n - 0x10)
    e.getLsbD 15 && e.setWidth 8 == id)

/-- This device reaches a switch by no link any more. -/
def State.cutOff (s : State) (slot : Nat) : Bool :=
  let ls := s.linksTo slot
  !ls.isEmpty && ls.all (fun n => !(s.link n).up)

/-- A switch of which every port is down is declared lost (R50). Where other devices are members, whether their ports are down too
is free (DESIGN CHOICE, log 31). -/
def State.suspect (s : State) (slot : Nat) : State :=
  let me : BitVec 256 := (1#256) <<< s.fab.cfg.devno.toNat
  let (x, s) := if s.fab.cfg.members &&& ~~~me = 0 then (1#1024, s) else s.free
  if x.getLsbD 0 then s.declareLost slot else s

/-- After the loss of an IFL, the switches that this device cannot reach. -/
def State.suspectAll (s : State) (n : Nat) : State :=
  ((List.range 64).filter (fun k => s.fab.cfg.live k && (s.linksTo k).contains n && s.cutOff k)).foldl State.suspect s

/-- A link goes down: a die-to-die link resets the device, or fails the start that runs; the last IFL fences it, and one that was the
last to a switch makes the switch suspect. -/
def State.linkDown (s : State) (n : Nat) : State :=
  let l := s.link n
  let s := (s.setLink n { l with
    up := false
    train := false }).hwEvent
      { kind := 0x12, src := srcLink, body := [(16, bytesNat 1 n), (18, bytesNat 2 l.acked.toNat)] }
  if isDieLink n then (if s.pkg.starting then s.failStart 0x07 else s.resetDevice)
  else if isIfl n && s.fab.inForce then (if iflLinks.all (fun k => !(s.link k).up) then s.fence else s.suspectAll n)
  else s

/-- The link goes on at its new width, from the first flit that is not acknowledged. The event's retraining count is that of every
retraining since the link came up, one that failed included, modulo 256 (DESIGN CHOICE, log 21). -/
def State.linkResumes (s : State) (n : Nat) : State :=
  let l := s.link n
  let l := { l with
    train := false
    failed := 0
    retries := 0
    askDue := false }
  let s := (s.setLink n (l.resend (l.acked + 1))).hwEvent
    { kind := 0x10, src := srcLink, body := [(16, bytesNat 1 n), (17, bytesNat 1 l.trains), (18, bytesNat 1 l.width)] }
  if n = ihl then s.post .eventWrite else if isDieLink n then s.wakeAll else s

/-- Retraining ends: too narrow, or three failures in a row, the link goes down; a failure alone retrains it again. -/
def State.retrained (s : State) (n : Nat) (ok : Bool) (dropped : List Nat) : State :=
  if !isLink n || !(s.link n).up || !(s.link n).train then s
  else
    let s := s.dropLanes n dropped
    let l := s.link n
    if l.width < minWidth n then s.linkDown n
    else if ok then s.linkResumes n
    else if 3 ≤ l.failed + 1 then s.linkDown n
    else s.setLink n { l with
      failed := l.failed + 1
      trains := l.trains + 1 }

/-- R35. -/
def execRetrainComplete (link : Nat) (ok : Bool) (dropped : List Nat) (s : State) : Host.Outcome State Fault Refusal :=
  .next (s.retrained link ok dropped)

/-- A link that was down comes up again, once a start has brought the links up: full width and credits, its numbers and its replay buffer as they
were (R19, R31, R88). The credits that it owed the other end before it went down are still owed, and are returned on top of the fresh
ones (DESIGN CHOICE, log 21). -/
def State.linkReturns (s : State) (n : Nat) : State :=
  let l := s.link n
  if !isLink n || l.up || !s.pkg.powered || s.pkg.phase == .rails || s.pkg.phase == .off then s
  else
    let l := { l with
      up := true
      failed := 0
      retries := 0
      askDue := false
      credit := startCredit n
      width := lanesOfLink n }
    let s := s.setLink n (l.resend (l.acked + 1))
    if n = ihl then s.post .eventWrite else s

/-- R88. -/
def execLinkReturn (link : Nat) (s : State) : Host.Outcome State Fault Refusal := .next (s.linkReturns link)

end Sys2Proof.Machine
end

