-- ==== Sys2Proof/Machine/MemWords.lean ====
section
/-! DEFINITION. Loads, stores, understudy loads, scratch accesses and team FIFOs, 0xB0 to 0xC6 (R393 to R401). -/

namespace Sys2Proof.Machine

open Sys2Proof

/-- The window-14 address that bits [31:0] of an effective address name (R400). -/
def scratchAddr (va : VA) : VA := BitVec.ofNat 52 (14 * 2 ^ 48 + va.toNat % 2 ^ 32)

/-- Vector registers that hold n bytes per lane. -/
def regsFor (n : Nat) : Nat := max 1 (n / 4)

/-- A vector load of n bytes per lane at the addresses that `at_` makes of the effective ones (R396). -/
def vectorLoad (n : Nat) (kind : Group → OpKind) (order : Group → Order) (at_ : VA → VA) (e : Env) (g : Group)
    (s : State) : Res :=
  let d := e.f.d.toNat
  issueAccess e g s
    { kind := kind g, cls := .ld, order := order g, lanes := g.exec e.sel,
      addr := fun l => at_ (g.ea e.sel e.f l), size := n, write := false, regs := vRegs d (regsFor n), dst := d,
      words := 0, data := fun _ _ => 0 }
    (fun g => g.setTags d g.ty (regsFor n))

/-- A load of R396; LDB and LDH extend the sign when `m.t` is I32. -/
def plainLoad (n : Nat) : Env → Group → State → Res :=
  vectorLoad n (fun g => .load n (g.ty == 0)) Group.loadOrder id

/-- An understudy load: relaxed whatever `m.mo` holds (R399). It takes its data and its entries as it issues (R162). -/
def understudyLoad (n : Nat) (e : Env) (g : Group) (s : State) : Res :=
  if s.watchHeld g (g.exec e.sel) (g.ea e.sel e.f) then .wait s
  else
    match vectorLoad n (fun _ => .watchLoad n) (fun _ => .relaxed) id e g s with
    | .ok s => .ok (s.takeWatch e.gid g.nextOp)
    | .trap t s => .trap t (s.takeWatch e.gid g.nextOp)
    | res => res

/-- A load of team scratch (R400) (DEDUCED, log 36). -/
def scratchLoad (n : Nat) : Env → Group → State → Res :=
  vectorLoad n (fun g => .load n (g.ty == 0)) Group.loadOrder scratchAddr

/-- A vector store of n bytes per lane (R396). -/
def vectorStore (n : Nat) (at_ : VA → VA) (e : Env) (g : Group) (s : State) : Res :=
  let d := e.f.d.toNat
  issueAccess e g s
    { kind := .store n, cls := .st, order := g.storeOrder, lanes := g.exec e.sel,
      addr := fun l => at_ (g.ea e.sel e.f l), size := n, write := true, regs := [], dst := 0, words := regsFor n,
      data := fun l k => g.vRead (d + k) l }
    id

/-- A scalar access is one access of the group; its faults report `en0` (R398). -/
def scalarAccess (e : Env) (g : Group) (s : State) (r : AccessReq) : Res :=
  match issueAccess e g s { r with whole := some (g.en0 e.sel) } id with
  | .trap t s => .trap { t with mask := g.en0 e.sel } s
  | res => res

/-- A scalar load of n bytes (R398). -/
def scalarLoad (n : Nat) (e : Env) (g : Group) (s : State) : Res :=
  let d := e.f.d.toNat - 96
  scalarAccess e g s
    { kind := .loadScalar n, cls := .ld, order := g.loadOrder, lanes := 1, addr := g.ea e.sel e.f, size := n,
      write := false, regs := (List.range (n / 4)).map (fun k => .s (d + k)), dst := d, words := 0, data := fun _ _ => 0 }

/-- A scalar store of n bytes (R398). -/
def scalarStore (n : Nat) (e : Env) (g : Group) (s : State) : Res :=
  let d := e.f.d.toNat - 96
  scalarAccess e g s
    { kind := .store n, cls := .st, order := g.storeOrder, lanes := 1, addr := g.ea e.sel e.f, size := n, write := true,
      regs := [], dst := 0, words := n / 4, data := fun _ k => g.sRead e.sel (d + k) }

/-! ### Team FIFOs (R126, R401) -/

/-- Entries that a FIFO of a team holds: 128 for each bank claimed for it. -/
def Team.capacity (t : Team) (n : Nat) : Nat := 128 * (SMap.get [] t.fifoBk n).length

/-- The beats that hold an executing lane, in ascending order. -/
def Group.activeBeats (g : Group) (m : Mask) : List Nat := (List.range g.beats).filter (fun b => maskWord m b != 0)

/-- The entry of beat b: lane words in `m`, zeros elsewhere. -/
def Group.fifoEntry (g : Group) (r b : Nat) (m : Mask) : Line :=
  BitVec.ofNat 1024 (natOfBytes ((List.range 32).flatMap (fun i =>
    bytesOfWord (if lane m (32 * b + i) then g.vRead r (32 * b + i) else 0))))

/-- Write an entry into the lanes of beat b in `m`. -/
def Group.fifoTake (g : Group) (r b : Nat) (m : Mask) (x : Line) : Group :=
  g.vWrite r ((lanesOf m).filter (fun l => l / 32 == b)) (fun l => x.extractLsb' (32 * (l % 32)) 32)

/-- QENQ and QDEQ: the trap of R163, FIFO, the wait for room in the counter, for room or entries in the ring and for the accesses that
must come first; then `act` moves the entries at once, and the counter keeps the word while an older one of its class is incomplete
(R241). -/
def fifoWord (enq : Bool) (e : Env) (g : Group) (s : State) (act : Group → Team → Mask → List Nat → State → State) : Res :=
  let n := e.f.a.toNat
  let m := g.exec e.sel
  let order := if enq then g.storeOrder else g.loadOrder
  match if order.rel then s.uncheckedTrap g e.sel else none with
  | some t => .trap t s
  | none =>
    match s.team? g.teamId with
    | none => .trap (g.trapWhole e.sel Cause.fifo n) s
    | some t =>
      if t.capacity n = 0 then .trap (g.trapWhole e.sel Cause.fifo n) s
      else
        let bs := g.activeBeats m
        let ring := SMap.get [] t.fifos n
        let o := e.newOp g (if enq then .enqueue else .dequeue) (if enq then .st else .ld) order m
        let ready := if enq then decide (ring.length + bs.length ≤ t.capacity n) else decide (bs.length ≤ ring.length)
        if ready && !g.cntFull o.cls && (g.push o).mayPerform { o with id := g.nextOp } then
          let g' := g.push { o with done := true }
          let g' := { g' with ops := cleanOps g'.ops [] }
          .ok (act g' t m bs (s.setGroup e.gid g'))
        else .wait s

/-- R401: each active beat's lanes become one entry of the ring. -/
def enqueue (e : Env) (g : Group) (s : State) : Res :=
  fifoWord true e g s (fun g t m bs s =>
    let n := e.f.a.toNat
    let ring := SMap.get [] t.fifos n ++ bs.map (fun b => g.fifoEntry e.f.d.toNat b m)
    (s.setTeam g.teamId { t with fifos := SMap.set [] t.fifos n ring }).wakeStalled g.teamId)

/-- R401: the oldest entries go to the active beats' lanes, in ascending beat order. -/
def dequeue (e : Env) (g : Group) (s : State) : Res :=
  fifoWord false e g s (fun g t m bs s =>
    let n := e.f.a.toNat
    let d := e.f.d.toNat
    let ring := SMap.get [] t.fifos n
    let g := (bs.zip ring).foldl (fun g x => g.fifoTake d x.1 m x.2) g
    let s := s.setTeam g.teamId { t with fifos := SMap.set [] t.fifos n (ring.drop bs.length) }
    (s.setGroup e.gid (g.setTag d g.ty)).wakeStalled g.teamId)

/-- R396: one byte per lane. -/
def execLdb (f : Fields) (s : State) : Host.Outcome State Fault Refusal :=
  issue Op.ldb f (plainLoad 1) s

/-- R396: two bytes per lane. -/
def execLdh (f : Fields) (s : State) : Host.Outcome State Fault Refusal :=
  issue Op.ldh f (plainLoad 2) s

/-- R396: four bytes per lane. -/
def execLdw (f : Fields) (s : State) : Host.Outcome State Fault Refusal :=
  issue Op.ldw f (plainLoad 4) s

/-- R396: eight bytes per lane. -/
def execLdd (f : Fields) (s : State) : Host.Outcome State Fault Refusal :=
  issue Op.ldd f (plainLoad 8) s

/-- R396: sixteen bytes per lane. -/
def execLdq (f : Fields) (s : State) : Host.Outcome State Fault Refusal :=
  issue Op.ldq f (plainLoad 16) s

/-- R396: the low byte of each lane. -/
def execStb (f : Fields) (s : State) : Host.Outcome State Fault Refusal :=
  issue Op.stb f (vectorStore 1 id) s

/-- R396: the low two bytes of each lane. -/
def execSth (f : Fields) (s : State) : Host.Outcome State Fault Refusal :=
  issue Op.sth f (vectorStore 2 id) s

/-- R396: four bytes per lane. -/
def execStw (f : Fields) (s : State) : Host.Outcome State Fault Refusal :=
  issue Op.stw f (vectorStore 4 id) s

/-- R396: eight bytes per lane. -/
def execStd (f : Fields) (s : State) : Host.Outcome State Fault Refusal :=
  issue Op.std f (vectorStore 8 id) s

/-- R396: sixteen bytes per lane. -/
def execStq (f : Fields) (s : State) : Host.Outcome State Fault Refusal :=
  issue Op.stq f (vectorStore 16 id) s

/-- R398: one word for the group. -/
def execLdsw (f : Fields) (s : State) : Host.Outcome State Fault Refusal :=
  issue Op.ldsw f (scalarLoad 4) s

/-- R398: one pair for the group. -/
def execLdsd (f : Fields) (s : State) : Host.Outcome State Fault Refusal :=
  issue Op.ldsd f (scalarLoad 8) s

/-- R398: one word for the group. -/
def execStsw (f : Fields) (s : State) : Host.Outcome State Fault Refusal :=
  issue Op.stsw f (scalarStore 4) s

/-- R398: one pair for the group. -/
def execStsd (f : Fields) (s : State) : Host.Outcome State Fault Refusal :=
  issue Op.stsd f (scalarStore 8) s

/-- R162, R399: four bytes per lane. -/
def execLduw (f : Fields) (s : State) : Host.Outcome State Fault Refusal :=
  issue Op.lduw f (understudyLoad 4) s

/-- R162, R399: eight bytes per lane. -/
def execLdud (f : Fields) (s : State) : Host.Outcome State Fault Refusal :=
  issue Op.ldud f (understudyLoad 8) s

/-- R162, R399: sixteen bytes per lane. -/
def execLduq (f : Fields) (s : State) : Host.Outcome State Fault Refusal :=
  issue Op.lduq f (understudyLoad 16) s

/-- R400: four bytes of scratch per lane. -/
def execLldw (f : Fields) (s : State) : Host.Outcome State Fault Refusal :=
  issue Op.lldw f (scratchLoad 4) s

/-- R400: sixteen bytes of scratch per lane. -/
def execLldq (f : Fields) (s : State) : Host.Outcome State Fault Refusal :=
  issue Op.lldq f (scratchLoad 16) s

/-- R400: four bytes of scratch per lane. -/
def execLstw (f : Fields) (s : State) : Host.Outcome State Fault Refusal :=
  issue Op.lstw f (vectorStore 4 scratchAddr) s

/-- R400: sixteen bytes of scratch per lane. -/
def execLstq (f : Fields) (s : State) : Host.Outcome State Fault Refusal :=
  issue Op.lstq f (vectorStore 16 scratchAddr) s

/-- R401. -/
def execQenq (f : Fields) (s : State) : Host.Outcome State Fault Refusal :=
  issue Op.qenq f enqueue s

/-- R401. -/
def execQdeq (f : Fields) (s : State) : Host.Outcome State Fault Refusal :=
  issue Op.qdeq f dequeue s

end Sys2Proof.Machine
end

