-- ==== Sys2Proof/Machine/Scalar.lean ====
section
/-! DEFINITION. Scalar instructions, 0x30 to 0x47 (R342 to R345). -/

namespace Sys2Proof.Machine

open Sys2Proof

/-- R343: B. -/
def execSmov (f : Fields) (s : State) : Host.Outcome State Fault Refusal :=
  issueSimple Op.smov f (fun sel g => g.sPut sel f.d (g.sB sel f)) s

/-- R343: A + B, saturating as I32 under `m.sati`. -/
def execSadd (f : Fields) (s : State) : Host.Outcome State Fault Refusal :=
  issueSimple Op.sadd f (fun sel g => g.sPut sel f.d (scalarAdd g.sati (g.sField sel f.a) (g.sB sel f))) s

/-- R343: A − B, saturating as I32 under `m.sati`. -/
def execSsub (f : Fields) (s : State) : Host.Outcome State Fault Refusal :=
  issueSimple Op.ssub f (fun sel g => g.sPut sel f.d (scalarSub g.sati (g.sField sel f.a) (g.sB sel f))) s

/-- R343: bits [31:0] of A × B. -/
def execSmul (f : Fields) (s : State) : Host.Outcome State Fault Refusal :=
  issueSimple Op.smul f (fun sel g => g.sPut sel f.d (g.sField sel f.a * g.sB sel f)) s

/-- R343: bits [63:32] of the signed product. -/
def execSmulh (f : Fields) (s : State) : Host.Outcome State Fault Refusal :=
  issueSimple Op.smulh f (fun sel g => g.sPut sel f.d (mulHigh (g.sField sel f.a) (g.sB sel f))) s

/-- R343. -/
def execSand (f : Fields) (s : State) : Host.Outcome State Fault Refusal :=
  issueSimple Op.sand f (fun sel g => g.sPut sel f.d (g.sField sel f.a &&& g.sB sel f)) s

/-- R343. -/
def execSor (f : Fields) (s : State) : Host.Outcome State Fault Refusal :=
  issueSimple Op.sor f (fun sel g => g.sPut sel f.d (g.sField sel f.a ||| g.sB sel f)) s

/-- R343. -/
def execSxor (f : Fields) (s : State) : Host.Outcome State Fault Refusal :=
  issueSimple Op.sxor f (fun sel g => g.sPut sel f.d (g.sField sel f.a ^^^ g.sB sel f)) s

/-- R343: shifted left by B[5:0]. -/
def execSshl (f : Fields) (s : State) : Host.Outcome State Fault Refusal :=
  issueSimple Op.sshl f (fun sel g => g.sPut sel f.d (shiftLeft (g.sField sel f.a) (g.sB sel f))) s

/-- R343: shifted right with zeros by B[5:0]. -/
def execSshr (f : Fields) (s : State) : Host.Outcome State Fault Refusal :=
  issueSimple Op.sshr f (fun sel g => g.sPut sel f.d (shiftRight (g.sField sel f.a) (g.sB sel f))) s

/-- R343: shifted right with sign copies by B[5:0]. -/
def execSsra (f : Fields) (s : State) : Host.Outcome State Fault Refusal :=
  issueSimple Op.ssra f (fun sel g => g.sPut sel f.d (shiftArith (g.sField sel f.a) (g.sB sel f))) s

/-- R343: the signed minimum. -/
def execSmin (f : Fields) (s : State) : Host.Outcome State Fault Refusal :=
  issueSimple Op.smin f (fun sel g => g.sPut sel f.d (signedMin (g.sField sel f.a) (g.sB sel f))) s

/-- R343: the signed maximum. -/
def execSmax (f : Fields) (s : State) : Host.Outcome State Fault Refusal :=
  issueSimple Op.smax f (fun sel g => g.sPut sel f.d (signedMax (g.sField sel f.a) (g.sB sel f))) s

/-- R343: 1 when A = B. -/
def execSceq (f : Fields) (s : State) : Host.Outcome State Fault Refusal :=
  issueSimple Op.sceq f (fun sel g => g.sPut sel f.d (boolWord (g.sField sel f.a == g.sB sel f))) s

/-- R343: 1 when A < B signed. -/
def execSclt (f : Fields) (s : State) : Host.Outcome State Fault Refusal :=
  issueSimple Op.sclt f (fun sel g => g.sPut sel f.d (boolWord ((g.sField sel f.a).slt (g.sB sel f)))) s

/-- R343: 1 when A < B unsigned. -/
def execScltu (f : Fields) (s : State) : Host.Outcome State Fault Refusal :=
  issueSimple Op.scltu f (fun sel g => g.sPut sel f.d (boolWord ((g.sField sel f.a).ult (g.sB sel f)))) s

/-- R343: A when D ≠ 0 before the write, else B. -/
def execSsel (f : Fields) (s : State) : Host.Outcome State Fault Refusal :=
  issueSimple Op.ssel f (fun sel g => g.sPut sel f.d (if g.sField sel f.d ≠ 0 then g.sField sel f.a else g.sB sel f)) s

/-- R343: the number of set bits of B. -/
def execSpopc (f : Fields) (s : State) : Host.Outcome State Fault Refusal :=
  issueSimple Op.spopc f (fun sel g => g.sPut sel f.d (popcount (g.sB sel f))) s

/-- R343: the number of leading zero bits of B. -/
def execSclz (f : Fields) (s : State) : Host.Outcome State Fault Refusal :=
  issueSimple Op.sclz f (fun sel g => g.sPut sel f.d (leadingZeros (g.sB sel f))) s

/-- R345: the field of A that B describes. -/
def execSbfe (f : Fields) (s : State) : Host.Outcome State Fault Refusal :=
  issueSimple Op.sbfe f (fun sel g => g.sPut sel f.d (bitField (g.sField sel f.a) (g.sB sel f))) s

/-- R343: A + B modulo 2^64, on pairs. -/
def execSadd64 (f : Fields) (s : State) : Host.Outcome State Fault Refusal :=
  issueSimple Op.sadd64 f (fun sel g => g.spPut sel f.d (g.spField sel f.a + g.spB sel f)) s

/-- R343: A − B modulo 2^64, on pairs. -/
def execSsub64 (f : Fields) (s : State) : Host.Outcome State Fault Refusal :=
  issueSimple Op.ssub64 f (fun sel g => g.spPut sel f.d (g.spField sel f.a - g.spB sel f)) s

/-- R344: A div B, unsigned; by zero all ones, then INT_DIV0. -/
def execSdivu (f : Fields) (s : State) : Host.Outcome State Fault Refusal :=
  issueReg Op.sdivu f (fun sel g =>
    let y := g.sB sel f
    let g' := g.sPut sel f.d (divUnsigned (g.sField sel f.a) y)
    if y = 0 then .trap { cause := Cause.intDiv0, mask := g.en0 sel } g' else .done g') s

/-- R344: A mod B, unsigned; by zero A, then INT_DIV0. -/
def execSremu (f : Fields) (s : State) : Host.Outcome State Fault Refusal :=
  issueReg Op.sremu f (fun sel g =>
    let y := g.sB sel f
    let g' := g.sPut sel f.d (remUnsigned (g.sField sel f.a) y)
    if y = 0 then .trap { cause := Cause.intDiv0, mask := g.en0 sel } g' else .done g') s

end Sys2Proof.Machine
end

