-- ==== Sys2Proof/Machine/Power.lean ====
section
/-! DEFINITION. Rails, sensors, power capping, the thermal trip and power removal (R16 to R28, R60). -/

namespace Sys2Proof.Machine

open Sys2Proof

/-! ### Power (R19, R78) -/

/-- Every rail goes: nothing stays but the failed-start record, and what is outside the package: host memory, the memory of other
devices and the switches (R19, R71) (DESIGN CHOICE, log 32). -/
def State.unpower (s : State) : State :=
  let z := State.powerUp s.pkg.part s.pkg.fstart
  { z with
    pkg := { z.pkg with
      powered := false
      phase := .off }
    host := { z.host with mem := s.host.mem }
    fab := { z.fab with
      remote := s.fab.remote
      switches := s.fab.switches }
    freeCtr := s.freeCtr }

/-- R19. -/
def execPowerRemoval (s : State) : Host.Outcome State Fault Refusal := .next s.unpower

/-- The nominal voltage of a rail in mV, lowest and highest; that of `vhbm` is JEDEC's (R17). -/
def railNominal (rail : Nat) : Option (Nat × Nat) :=
  if rail = 0 then some (800, 800)
  else if rail ≤ 2 then some (750, 750)
  else if rail ≤ 10 then some (650, 900)
  else if rail ≤ 18 then some (750, 750)
  else none

/-- A rail leaves its range: a start that runs fails, and so does a running device (R78, R81) (DESIGN CHOICE, log 32). -/
def State.railOut (s : State) (rail : Nat) : State :=
  let s := s.mapPkg (fun p => { p with rails := p.rails &&& ~~~((1#20) <<< rail) })
  if s.pkg.tripped.isSome then s
  else
    match s.pkg.phase with
    | .rails | .off | .failed | .minimal => s
    | _ => s.failStart 0x0A

/-- R78. -/
def execRailOutOfRange (rail : Fin 20) (s : State) : Host.Outcome State Fault Refusal := .next (s.railOut rail.val)

/-! ### Sensors (R16, R26, R27, R60) -/

/-- The word of sensor k for a reading: valid, and 16 bits, or 24 for a current. -/
def sensorWord (k : Nat) (x : BitVec 24) : Word :=
  0x80000000#32 ||| (if 72 ≤ k then x.setWidth 32 else (x.setWidth 16).setWidth 32)

/-- The temperature of sensor k, in 1/16 °C; none before its first sample. -/
def Package.temp (p : Package) (k : Nat) : Option Int :=
  let w := SMap.get (0#32) p.sensors k
  if w.getLsbD 31 then some (w.setWidth 16).toInt else none

/-- The temperatures of a core die's junction sensors. -/
def Package.junction (p : Package) (n : Nat) : List Int := (List.range 4).filterMap (fun j => p.temp (4 * n + j))

/-- The power state of die n. -/
def Package.die (p : Package) (n : Nat) : DiePower := SMap.get DiePower.reset p.power n

def Package.setDie (p : Package) (n : Nat) (x : DiePower) : Package := { p with power := SMap.set DiePower.reset p.power n x }

/-- R26: a junction at 105 °C caps the die until it reads below 100 °C. -/
def Package.capDie (p : Package) (n : Nat) : Package :=
  let x := p.die n
  let ts := p.junction n
  p.setDie n { x with therm := ts.any (fun t => decide (105 * 16 ≤ t)) || (x.therm && ts.any (fun t => decide (100 * 16 ≤ t))) }

/-- The sensor that reads 120 °C or more; of several in one sample R27 does not say which the trip names, and here it is the lowest
(DESIGN CHOICE, log 4). -/
def Package.hot (p : Package) : Option Nat := firstFrom (fun k => (p.temp k).any (fun t => decide (120 * 16 ≤ t))) 0 52

/-- A thermal trip: the core-die clocks stop at once (R27, R28, R64). -/
def Package.trip (p : Package) (k : Nat) : Package :=
  { p with
    tripped := some (k, (SMap.get (0#32) p.sensors k).setWidth 16)
    diesUp := 0
    fstart := { p.fstart with
      trip := true
      begun := false } }

/-- Every sensor is sampled. -/
def State.sample (s : State) (xs : List (BitVec 24)) : State :=
  if !s.pkg.powered then s
  else
    let put := fun (m : SMap Word) (e : BitVec 24 × Nat) => if e.2 < 92 then SMap.set 0 m e.2 (sensorWord e.2 e.1) else m
    let p := { s.pkg with sensors := xs.zipIdx.foldl put s.pkg.sensors }
    let p := (List.range 8).foldl Package.capDie p
    let s := { s with pkg := p }
    match p.hot with
    | some k =>
      if p.tripped.isSome then s
      else (({ s with
        pkg := p.trip k
        cur := none }).post .thermalTripEvent).post .thermTripNAssert
    | none => s

/-- R16. -/
def execSensorSample (readings : List (BitVec 24)) (s : State) : Host.Outcome State Fault Refusal := .next (s.sample readings)

/-- R27: the event that names the sensor and its reading, while the IHL is up; it is sent once. -/
def execThermalTripEvent (s : State) : Host.Outcome State Fault Refusal :=
  .next (match s.pkg.tripped with
    | some (k, r) =>
      if s.pkg.tripTold || !s.ihlUp then s
      else (s.mapPkg (fun p => { p with tripTold := true })).hwEvent
        { kind := 0x0E, src := srcIo, body := [(16, bytesNat 1 k), (18, bytesNat 2 r.toNat)] }
    | none => s)

/-- R27: `therm_trip_n` is asserted after a trip. -/
def execThermTripNAssert (s : State) : Host.Outcome State Fault Refusal :=
  .next (if s.pkg.tripped.isSome then s.mapPkg (fun p => { p with thermN := true }) else s)

/-! ### Power capping (R21, R22, R26) -/

/-- A die above its limit steps down by as many steps as are predicted, at least one; what is left at 0.6 GHz gates its issue. -/
def DiePower.lower (x : DiePower) (predicted : Nat) : DiePower :=
  let n := max 1 predicted
  { x with
    step := min 8 (x.step + n)
    gate := if 8 < x.step + n then min 4 (x.gate + (x.step + n - 8)) else x.gate
    below := 0 }

/-- A die that has stayed 10 % below its limit for 1 ms, 100 evaluations: it loses a doubling of its gate, else a step. -/
def DiePower.relax (x : DiePower) : DiePower :=
  if x.below + 1 < 100 then { x with below := x.below + 1 }
  else if 0 < x.gate then { x with
    gate := x.gate - 1
    below := 0 }
  else { x with
    step := x.step - 1
    below := 0 }

/-- The controller sets the voltage of the die's rail for its step, from 0.65 to 0.90 V (R17). -/
def DiePower.setVcd (x : DiePower) : DiePower := { x with vcd := 650 + Config.vcdAbove x.step % 251 }

/-- One evaluation of a die (DESIGN CHOICE, log 4). -/
def DiePower.evaluate (x : DiePower) (watts predicted : Nat) : DiePower :=
  let beyond := decide (x.lim < watts) || x.therm
  let x := { x with
    watts := min 511 watts
    beyond := beyond }
  (if beyond then x.lower predicted
   else if 10 * watts ≤ 9 * x.lim then x.relax
   else { x with below := 0 }).setVcd

/-- The capping controller evaluates every die; a thermal trip takes precedence (R28). -/
def State.capPower (s : State) (watts : List Nat) : State :=
  if !s.pkg.powered || s.pkg.tripped.isSome then s
  else
    let n := s.freeCtr
    let s := s.mapPkg (fun p => (List.range 8).foldl (fun (p : Package) d =>
      p.setDie d ((p.die d).evaluate (watts.getD d 0) (Config.predictedSteps (n + d)))) p)
    { s with freeCtr := n + 8 }

/-- R22. -/
def execPowerCapEvaluation (watts : List Nat) (s : State) : Host.Outcome State Fault Refusal := .next (s.capPower watts)

/-- The limits' sum when die n has limit w. -/
def Package.limitSum (p : Package) (n w : Nat) : Nat :=
  ((List.range 8).map (fun d => if d = n then w else (p.die d).lim)).sum

/-- R21: a limit from 120 W to 320 W that keeps the sum at 2,160 W at most; another is refused with a recovered-error event. A thermal
trip takes precedence (R28). -/
def State.writePlim (s : State) (n w : Nat) : State :=
  if s.pkg.tripped.isSome then s
  else if 120 ≤ w ∧ w ≤ 320 ∧ s.pkg.limitSum n w ≤ 2160 then
    s.mapPkg (fun p => p.setDie n { p.die n with lim := w })
  else s.hwEvent { kind := 0x08, src := srcIo, body := [(17, bytesNat 1 n)] }

/-- R21. -/
def execPlimWrite (die : Fin 8) (watts : Word) (s : State) : Host.Outcome State Fault Refusal :=
  .next (s.ifPowered (fun s => s.writePlim die.val watts.toNat))

end Sys2Proof.Machine
end

