-- ==== Sys2Proof/Machine/Host.lean ====
section
/-! DEFINITION. The host interface: the memory window, the management window, the event ring, the arrival of cues (R57 to R64, R68 to
R74, R79, R80). -/

namespace Sys2Proof.Machine

open Sys2Proof

/-- Replace the host interface. -/
def State.mapHost (s : State) (h : HostIf → HostIf) : State := { s with host := h s.host }

/-! ### The event ring (R70 to R73) -/

/-- The number of an event. -/
def eventNo (e : List Byte) : Word := BitVec.ofNat 32 (field e 0 4)

/-- The ring has room for event n. -/
def HostIf.room (h : HostIf) (n : Word) : Bool := decide ((n - h.evtAck).toNat < 2 ^ h.size.toNat)

/-- Write 64 bytes into the slot of event n. -/
def State.putRing (s : State) (n : Word) (e : List Byte) : State :=
  let base := s.host.baseLo.toNat + 2 ^ 32 * s.host.baseHi.toNat
  s.setHostBytes (base + n.toNat % 2 ^ s.host.size.toNat * 64) (e.zipIdx.map (fun x => (x.2, x.1)))

/-- An interrupt is due. -/
def State.wantIntr (s : State) : State := s.mapHost (fun h => { h with intr := true })

/-- An event of the store by its number. -/
def HostIf.stored (h : HostIf) (n : Word) : Option (List Byte) := h.store.find? (fun e => eventNo e == n)

/-- The events that the replay store keeps (R71). -/
def storeSize : Nat := 4096

/-- The count of dropped events goes into the hold as soon as it has room (R70). -/
def State.tellDropped (s : State) : State :=
  if 0 < s.host.dropped ∧ s.host.hold.length < holdSize then
    let n := s.host.dropped
    let e : Event := { kind := 0x0D, src := srcIo, body := [(16, bytesNat 4 n)] }
    (s.mapHost (fun h => { h with dropped := 0 })).holdEvent e.bytes
  else s

/-- What waits for room in the hold goes in: the count of dropped events, then what Directors have sent. -/
def State.refill (s : State) : State := s.tellDropped.letIn s.host.waitEvts.length

/-- A SEND that waits for room in the hold may try again (DESIGN CHOICE, log 33). -/
def State.freeSenders (s : State) : State := s.unstall (fun _ g => g.ctx == 0 && !g.stalled.isEmpty)

/-- Write one event again, with its replayed flag (R73). -/
def State.replayEvent (s : State) (n : Word) : State :=
  let s := match s.host.stored n with
    | some e => s.putRing n (overlay e 6 [field e 6 1 |> fun x => BitVec.ofNat 8 (x ||| 1)])
    | none => s
  let next := if n = s.host.evtSent then none else some (n + 1)
  (s.wantIntr.mapHost (fun h => { h with replayAt := next })).postOnce .eventWrite

/-- Write the oldest event of the hold: its slot, then `evt_sent`, then the replay store (DESIGN CHOICE, log 33). -/
def State.writeEvent (s : State) (e : List Byte) : State :=
  let n := eventNo e
  let s := (s.putRing n e).wantIntr
  let s := s.mapHost (fun h => { h with
    hold := h.hold.drop 1
    evtSent := n
    store := (h.store ++ [e]).drop (h.store.length + 1 - storeSize) })
  (s.refill.freeSenders).postOnce .eventWrite

/-- A read of a line of the ring by the device has not come back, or an atomic stands between its read and its write there: no event is
written into it (R149, R159). -/
def State.ringBusy (s : State) : Bool :=
  let base := s.host.baseLo.toNat + 2 ^ 32 * s.host.baseHi.toNat
  s.host.inFlight.any (fun r => !r.write && (r.reply.isNone || r.rmw.isSome) && decide (base < r.addr + 128) &&
    decide (r.addr < base + 64 * 2 ^ s.host.size.toNat))

/-- EVENT_WRITE: one event is written, if the ring is configured and has room, the IHL is up, and the host has accepted every write
of the work it reports. -/
def State.eventWrite (s : State) : State :=
  let h := s.host
  if !h.ringOk || !s.ihlUp || h.inFlight.any (fun r => r.write) || s.ringBusy then s
  else
    match h.replayAt, h.hold with
    | some n, _ => if h.room n then s.replayEvent n else s
    | none, e :: _ => if h.room (eventNo e) then s.writeEvent e else s
    | none, [] => s

/-- R70. -/
def execEventWrite (s : State) : Host.Outcome State Fault Refusal := .next s.eventWrite

/-- 2 µs in clocks. -/
def intrGap : Nat := 2800

/-- An interrupt that is due is sent, at most one per 2 µs (DESIGN CHOICE, log 33). -/
def State.sendIntr (s : State) : State :=
  if s.host.intr && decide (s.host.intrAt ≤ s.clk) then
    s.mapHost (fun h => { h with
      intr := false
      intrs := h.intrs + 1
      intrAt := s.clk + intrGap })
  else s

/-- R70. -/
def execIhlInterrupt (s : State) : Host.Outcome State Fault Refusal := .next s.sendIntr

/-- The host has consumed events up to a number. -/
def State.ackEvents (s : State) (v : Word) : State :=
  ((s.mapHost (fun h => { h with evtAck := v })).tellDropped).postOnce .eventWrite

/-- R70. -/
def execEvtAckWrite (value : Word) (s : State) : Host.Outcome State Fault Refusal := .next (s.ifPowered (fun s => s.ackEvents value))

/-- R73. With an empty replay store there is no oldest event, and the write changes nothing (DESIGN CHOICE, log 33). -/
def State.replayFrom (s : State) (n : Word) : State :=
  let d := (n - s.host.evtSent).toInt
  if 1 < d then s
  else if d = 1 then (s.mapHost (fun h => { h with
    evtAck := h.evtSent
    replayAt := none })).postOnce .eventWrite
  else if (s.host.stored n).isSome then (s.mapHost (fun h => { h with
    evtAck := n - 1
    replayAt := some n })).postOnce .eventWrite
  else
    match s.host.store with
    | [] => s
    | e :: _ =>
      let old := eventNo e
      let s := s.mapHost (fun h => { h with
        evtAck := old - 1
        replayAt := some old })
      let gap : Event := { kind := 0x0C, src := srcIo, body := [(16, bytesOfWord old), (20, bytesOfWord n)] }
      (s.hwEvent gap).postOnce .eventWrite

/-- R73. -/
def execEvtReplayWrite (value : Word) (s : State) : Host.Outcome State Fault Refusal := .next (s.ifPowered (fun s => s.replayFrom value))

/-- R72. -/
def State.ringConfig (s : State) (reg : RingReg) (v : Word) : State :=
  match reg with
  | .baseLo => if v.toNat % 64 ≠ 0 then s else s.mapHost (fun h => { h with
      baseLo := v
      ringOk := false })
  | .baseHi => s.mapHost (fun h => { h with
      baseHi := v
      ringOk := false })
  | .size => if v.toNat < 6 ∨ 16 < v.toNat then s else (s.mapHost (fun h => { h with
      size := v
      ringOk := true })).postOnce .eventWrite

/-- R72. -/
def execEventRingConfig (reg : RingReg) (value : Word) (s : State) : Host.Outcome State Fault Refusal :=
  .next (s.ifPowered (fun s => s.ringConfig reg value))

/-! ### The memory window (R58, R61) -/

/-- `hmw_sel` takes windows 0 to 8. -/
def State.selectWindow (s : State) (v : Word) : State :=
  if v.toNat ≤ 8 then s.mapHost (fun h => { h with hmwSel := v.toNat }) else s

/-- R58. -/
def execHmwSelWrite (value : Word) (s : State) : Host.Outcome State Fault Refusal := .next (s.ifPowered (fun s => s.selectWindow value))

/-- The device address of a line of the memory window, by the selection that stands when the host asks (R58). -/
def State.hostVa (s : State) (off : BitVec 48) : VA :=
  BitVec.ofNat 52 (s.host.hmwSel * 2 ^ 48 + off.toNat / 128 * 128)

/-- HOST_FAULT. -/
def State.hostFault (s : State) (va : VA) (write : Bool) : State :=
  s.hwEvent { kind := 0x0F, src := srcIo, body := [(16, bytesNat 8 va.toNat), (24, bytesNat 1 (if write then 1 else 0))] }

/-- The host is sent bytes over the IHL. -/
def State.sendHost (s : State) (bs : List Byte) : State := s.mapHost (fun h => { h with replies := h.replies ++ [bs] })

/-- The host is answered in a message of the device, in the transaction that it chose (R32). -/
def State.reply (s : State) (mtype : Nat) (txn : Word) (opd : Nat) (body : List Byte) : State := s.sendHost (message mtype 0 txn opd body)

/-- What the channel finds for a host access: the copy of the home slice is checked against its attributes too (R92). -/
def State.hostChannel (s : State) (write : Bool) (va : VA) : Except MFault DWord :=
  match s.channel 0 true write va with
  | .error f => .error f
  | .ok e =>
    if (s.l2At (l2Key (homeDie va) 0 va)).any (fun x => permBad x.attr (if write then .write else .read) true) then
      .error (protFault e 0 false)
    else .ok e

/-- An access of IO0 to a line waits: a link of its way retrains, a slice that it concerns sweeps, a reconcile sweep (R14, R132,
R139). -/
def State.hostHeld (s : State) (va : VA) (e : DWord) (own : Bool) : Bool :=
  let loc := lineLoc s 0 va e
  s.reconciling 0 va e loc || s.lineHeld 8 (homeDie va) va (leafAttr e) loc own

/-- A host read of a line: its bytes as its home holds them, or all ones and HOST_FAULT. False where it must wait. -/
def State.hostRead (s : State) (va : VA) (txn : Word) : State × Bool :=
  match s.hostChannel false va with
  | .error _ => ((s.reply 0x1B txn 0 (List.replicate 128 0xFF)).hostFault va false, true)
  | .ok e =>
    let loc := lineLoc s 0 va e
    if s.hostHeld va e false then (s, false)
    else
      match s.fabricNeed va loc false with
      | some g => (s.missSys (fabricVa g) false, false)
      | none => (s.reply 0x1B txn 0 (lineBytes (s.homeCopy loc)), true)

/-- A write of the host is refused: discarded, with HOST_FAULT. -/
def State.refuseWrite (s : State) (va : VA) (txn : Word) : State := (s.reply 0x1C txn 1 []).hostFault va true

/-- A host write of the enabled bytes of a line: performed at package scope, or refused, where it is not permitted or the line belongs to
a Repertory engine (R173); it is acknowledged in either case (R32). False where it cannot be performed yet. -/
def State.hostWrite (s : State) (va : VA) (bs : List (Nat × Byte)) (txn : Word) : State × Bool :=
  match s.hostChannel true va with
  | .error _ => (s.refuseWrite va txn, true)
  | .ok e =>
    if s.engineOwned (lineLoc s 0 va e) then (s.refuseWrite va txn, true)
    else if s.hostHeld va e true then (s, false)
    else
      match s.storeOutside (homeDie va) 0 va e bs with
      | .done s _ => (s.reply 0x1C txn 0 [], true)
      | .blocked s => (s, false)

/-- A cue enters the queue of its die. -/
def State.queueCue (s : State) (die : Nat) (cue : List Byte) : State :=
  let d := s.die die
  s.setDie die { d with cues := d.cues ++ [cue] }

/-- Perform a request of the host; false where it must wait, as each does once the clocks of the core dies have stopped (R27). A cue
goes from IO0 to its die (R14). -/
def State.performReq (s : State) (r : HostReq) : State × Bool :=
  if s.pkg.tripped.isSome then (s, false) else
  match r with
  | .read va txn => s.hostRead va txn
  | .write va bs txn => s.hostWrite va bs txn
  | .cue die cue => if s.roundTrip 8 die then (s.queueCue die cue, true) else (s, false)

/-- A request of the host joins those that wait. -/
def State.waitReq (s : State) (r : HostReq) : State := s.mapHost (fun h => { h with window := h.window ++ [r] })

/-- The host asks: at once where nothing waits before it, else in its turn (R61, R63). -/
def State.hostAsks (s : State) (r : HostReq) : State :=
  if s.host.window.isEmpty then
    match s.performReq r with
    | (s, true) => s
    | (s, false) => s.waitReq r
  else s.waitReq r

/-- The first request that waits is performed, if it can be, or asks for what it needs. -/
def State.windowNext (s : State) : Option State :=
  match s.host.window with
  | [] => none
  | r :: rest =>
    match (s.mapHost (fun h => { h with window := rest })).performReq r with
    | (s', true) => some s'
    | (s', false) => if s.hasAsked s' then some (s'.mapHost (fun h => { h with window := s.host.window })) else none

/-- R58. An event that stands for a request of the host names no transaction: it has number 0 (DESIGN CHOICE, log 33). -/
def execHostMemoryRead (off : BitVec 48) (s : State) : Host.Outcome State Fault Refusal :=
  .next (s.ifPowered (fun s => s.hostAsks (.read (s.hostVa off) 0)))

/-- R61. -/
def execHostMemoryWrite (off : BitVec 48) (en : BitVec 128) (line : Line) (s : State) :
    Host.Outcome State Fault Refusal := .next (s.ifPowered (fun s => s.hostAsks (.write (s.hostVa off) (enabledBytes en line) 0)))

/-- A read of the cue port returns zero, which R32 gives no message of its own (R58; 64 bytes: DESIGN CHOICE, log 33). -/
def State.cuePortRead (s : State) : State := s.sendHost (List.replicate 64 0)

/-! ### The management window (R57, R59, R60, R79, R80) -/

/-- A word from fields: value and lowest bit. -/
def packWord (fs : List (Nat × Nat)) : Word := BitVec.ofNat 32 ((fs.map (fun f => f.1 * 2 ^ f.2)).sum)

/-- `hstat`. -/
def State.hstat (s : State) : Word :=
  packWord [(s.pkg.mode, 28), (s.pkg.diesUp.toNat, 20), (if s.host.ringOk then 1 else 0, 19),
            (if holdSize ≤ s.host.hold.length then 1 else 0, 18)]

/-- `fstart`. -/
def FStart.word (f : FStart) : Word := packWord [(f.why0.toNat, 24), (f.why1.toNat, 16), (f.why2.toNat, 8), (f.count, 0)]

/-- `pstate`. -/
def DiePower.word (x : DiePower) : Word :=
  packWord [(x.step, 28), (x.gate, 25), (if x.beyond then 1 else 0, 24), (if x.therm then 1 else 0, 23), (x.watts, 9), (x.lim, 0)]

/-- `fabstat`; a slot whose live bit is 0 in the table in force counts as dead (R57, R66). -/
def State.fabstat (s : State) : Word :=
  let c := s.fab.cfg
  let dead := ((List.range c.n).filter (fun k => !c.live k)).length
  let up := (iflLinks.filter (fun k => (s.link k).up)).length
  packWord [(c.devno.toNat, 24), (c.n, 17), (dead, 10), (if s.fab.sweeps.isEmpty then 0 else 1, 9),
            (if s.fab.fenced then 1 else 0, 8), (up, 3)]

/-- The bytes that `mlog` presents (R79). -/
def Package.mlog (p : Package) : List Byte :=
  padTo 64 p.measure ++ bytesNat 4 p.log.length ++ List.replicate 60 0 ++
  p.log.flatMap (fun e => bytesNat 4 e.1 ++ bytesNat 12 e.2.1 ++ padTo 64 e.2.2)

/-- What a host read of a management register returns. -/
def State.manageRead (s : State) (o : Nat) : Word :=
  let h := s.host
  if o % 4 ≠ 0 then 0
  else if o = 0x00 then s.hstat
  else if o = 0x08 then h.cueRcvd
  else if o = 0x0C then h.cueDup
  else if o = 0x10 then h.evtSent
  else if o = 0x14 then h.evtAck
  else if o = 0x20 then h.baseLo
  else if o = 0x24 then h.baseHi
  else if o = 0x28 then h.size
  else if o = 0x30 then BitVec.ofNat 32 h.hmwSel
  else if o = 0x40 then h.imgLo
  else if o = 0x44 then h.imgHi
  else if o = 0x48 then h.imgLen
  else if o = 0x50 then s.pkg.fstart.word
  else if o = 0x54 then s.pkg.mscmode.setWidth 32
  else if 0x100 ≤ o ∧ o < 0x120 then BitVec.ofNat 32 (s.pkg.die ((o - 0x100) / 4)).lim
  else if 0x120 ≤ o ∧ o < 0x140 then (s.pkg.die ((o - 0x120) / 4)).word
  else if o = 0x140 then s.fabstat
  else if 0x1000 ≤ o ∧ o < 0x2800 then BitVec.ofNat 32 (field s.pkg.mlog (o - 0x1000) 4)
  else if 0x2800 ≤ o ∧ o < 0x3000 then
    BitVec.ofNat 32 (natOfBytes ((List.range 4).map (fun k => Config.idcert (o - 0x2800 + k))))
  else if 0x3000 ≤ o ∧ o < 0x3400 then SMap.get 0 s.pkg.sensors ((o - 0x3000) / 4)
  else 0

/-- A write of `mscmode`, which takes effect at the next start (R109). -/
def State.writeMscmode (s : State) (v : Word) : State := s.mapPkg (fun p => { p with mscmode := v.setWidth 8 })

/-- R109. -/
def execMscmodeWrite (value : Word) (s : State) : Host.Outcome State Fault Refusal := .next (s.ifPowered (fun s => s.writeMscmode value))

/-- A write of `boot_ctl`: `clr` acts before `rst`. -/
def State.writeBootCtl (s : State) (v : Word) : State :=
  let s := if v.getLsbD 0 then s.bootGo else s
  let s := if v.getLsbD 1 then s.bootClr else s
  if v.getLsbD 2 then s.bootRst else s

/-- A host write of a management register; one that is read-only, or none, changes nothing. -/
def State.manageWrite (s : State) (o : Nat) (v : Word) : State :=
  if o = 0x14 then s.ackEvents v
  else if o = 0x18 then s.replayFrom v
  else if o = 0x20 then s.ringConfig .baseLo v
  else if o = 0x24 then s.ringConfig .baseHi v
  else if o = 0x28 then s.ringConfig .size v
  else if o = 0x30 then s.selectWindow v
  else if o = 0x40 then s.mapHost (fun h => { h with imgLo := v })
  else if o = 0x44 then s.mapHost (fun h => { h with imgHi := v })
  else if o = 0x48 then s.mapHost (fun h => { h with imgLen := v })
  else if o = 0x4C then s.writeBootCtl v
  else if o = 0x54 then s.writeMscmode v
  else if 0x100 ≤ o ∧ o < 0x120 ∧ o % 4 = 0 then s.writePlim ((o - 0x100) / 4) v.toNat
  else s

/-- A management access: a read is answered with the value in bytes 0 to 3 of the second unit (R32). -/
def State.manage (s : State) (write : Bool) (o : Nat) (v : Word) (txn : Word) : State :=
  if write then s.manageWrite o v else s.reply 0x34 txn 0 (padTo 16 (bytesOfWord (s.manageRead o)))

/-- R59. -/
def execManagementAccess (write : Bool) (off : BitVec 16) (value : Word) (s : State) :
    Host.Outcome State Fault Refusal := .next (s.ifPowered (fun s => s.manage write off.toNat value 0))

/-! ### Cues at IO0 (R62 to R64) -/

/-- The cues that a die's queue holds. -/
def cueQueueSize : Nat := 256

/-- The die that a cue names: the die of its byte, or the lowest that is up. -/
def State.cueDie (s : State) (cue : List Byte) : Option Nat :=
  let n := field cue 5 1
  let up := fun (d : Nat) => s.pkg.diesUp.getLsbD d
  if n = 0xFF then firstFrom up 0 8 else if n < 8 ∧ up n then some n else none

/-- CUE_REFUSED for the cue that was expected. -/
def State.refuseCue (s : State) (cue : List Byte) (reason : Nat) : State :=
  let s := s.mapHost (fun h => { h with refused := true })
  s.hwEvent { kind := 0x04, src := srcIo, body := [(16, bytesOfWord (s.host.cueRcvd + 1)), (20, bytesNat 1 reason), (24, bytesNat 4 (field cue 0 4))] }

/-- A cue is accepted. -/
def State.acceptCue (s : State) (cue : List Byte) : State :=
  s.mapHost (fun h => { h with
    cueRcvd := BitVec.ofNat 32 (field cue 0 4)
    refused := false })

/-- The cues in the queue of a die, with those that are held for it. -/
def State.cuesFor (s : State) (die : Nat) : Nat :=
  (s.die die).cues.length + (s.host.window.filterMap (fun r => r.heldFor die)).length

/-- The cue that is expected next: ATTEST goes to IO0 itself, another to its die, or is refused. -/
def State.takeCue (s : State) (cue : List Byte) : State :=
  if field cue 4 1 = 0x09 then
    ((s.acceptCue cue).mapHost (fun h => { h with attests := h.attests ++ [cue] })).post .cueAttest
  else if s.pkg.mode = 4 then s.refuseCue cue 4
  else
    match s.cueDie cue with
    | none => s.refuseCue cue 3
    | some d =>
      if cueQueueSize ≤ s.cuesFor d then s.refuseCue cue 2 else (s.acceptCue cue).hostAsks (.cue d cue)

/-- A write to the cue port (R62, R63). -/
def State.cueArrives (s : State) (off : Nat) (cue : List Byte) : State :=
  let count := s.mapHost (fun h => { h with cueDup := h.cueDup + 1 })
  if cue.length ≠ 64 ∨ off % 64 ≠ 0 then count
  else
    let d := (BitVec.ofNat 32 (field cue 0 4) - s.host.cueRcvd).toInt
    if d ≤ 0 then count
    else if d = 1 then s.takeCue cue
    else if s.host.refused then s
    else s.refuseCue cue 1

/-- R58, R63. An access of the cue port that brings no byte is a read of it (DESIGN CHOICE, log 33). -/
def execCueArrival (off : BitVec 12) (bytes : List Byte) (s : State) : Host.Outcome State Fault Refusal :=
  .next (s.ifPowered (fun s => if bytes.isEmpty then s.cuePortRead else s.cueArrives off.toNat bytes))

/-! ### Attestation (R67, R80) -/

/-- The 256 bytes of a report. -/
def State.report (s : State) (nonce : List Byte) : List Byte :=
  let p := s.pkg
  let head := nonce ++ padTo 64 p.measure ++ bytesNat 4 p.log.length ++ bytesOfWord p.imgVer ++ bytesNat 1 p.mode ++
    bytesNat 1 p.fstart.count ++ [0, 0] ++ padTo 16 Config.serial ++ [0, 0, 0, 0]
  padTo 256 (head ++ padTo 114 (Config.identitySign (digest head)))

/-- IO0 answers the oldest ATTEST: the report and ATTEST_DONE, or CUE_BAD for a layout that is broken. The answer is an event of IO0,
which a full hold drops and counts (R70), though R65 has every accepted cue answered (DESIGN CHOICE, log 33). -/
def State.attest (s : State) : State :=
  match s.host.attests with
  | [] => s
  | cue :: rest =>
    let s := s.mapHost (fun h => { h with attests := rest })
    let href := BitVec.ofNat 32 (field cue 0 4)
    let ctx := field cue 8 1
    if field cue 9 7 ≠ 0 ∨ field cue 56 8 ≠ 0 then
      s.hwEvent { kind := 0x05, src := srcIo, href := href, ctx := ctx, body := [(16, bytesNat 4 1)] }
    else
      let a := field cue 48 8
      let r := s.report ((cue.drop 16).take 32)
      let s := s.setHostBytes a (r.zipIdx.map (fun x => (x.2, x.1)))
      s.hwEvent { kind := 0x0B, src := srcIo, href := href, ctx := ctx, body := [(16, bytesNat 8 a)] }

/-- R80. -/
def execCueAttest (s : State) : Host.Outcome State Fault Refusal := .next s.attest

end Sys2Proof.Machine
end

