-- ==== Sys2Proof/Machine/Messages.lean ====
section
/-! DEFINITION. The messages of the links as bytes (R32): how this device's own fabric messages are laid out, and what a received
message stands for. -/

namespace Sys2Proof.Machine

open Sys2Proof

/-! ### Messages that are sent (R32) -/

/-- `opd` of an ownership note: the line, `own` and `st`. -/
def noteOpd (g : LineAddr) (own : Device) (st : DirState) : Nat := g.toNat + own.toNat * 2 ^ 48 + stCode st * 2 ^ 56

/-- The sender field of a switch, if there is one. -/
def srcOf (k : Option Nat) : Nat := srcSwitch (k.getD 0)

/-- A fabric message as the flits carry it: type, sender, transaction, operand, units after the header. The home table `c` tells the
switch that sends it, a line's primary or, of the acknowledgement of a note, its alternate, and the device that sends what devices send;
`txn` numbers the transaction of a message that does not name it. -/
def FabMsg.bytes (m : FabMsg) (c : PartCfg) (txn : Word) : List Byte :=
  let dev := c.devno
  match m with
  | .read _ r => message 0x01 r.dev.toNat r.txn r.g.toNat []
  | .own _ r => message 0x02 r.dev.toNat r.txn r.g.toNat []
  | .writeback _ r l => message 0x03 r.dev.toNat r.txn r.g.toNat (lineBytes l)
  | .note _ prim g d st => message 0x04 (srcSwitch prim) txn (noteOpd g d st) []
  | .noteAck _ g => message 0x26 (srcOf (c.alternate g)) txn g.toNat []
  | .invAck _ g _ | .peerAck _ g => message 0x21 dev.toNat txn g.toNat []
  | .ownerData _ g d dirty l => message (if dirty then 0x23 else 0x22) d.toNat txn g.toNat (lineBytes l)
  | .noCopy _ g d => message 0x24 d.toNat txn g.toNat []
  | .grant g st l => message (if st = .m then 0x13 else if st = .e then 0x12 else 0x11) (srcOf (c.primary g)) txn g.toNat (lineBytes l)
  | .grantBare g => message 0x14 (srcOf (c.primary g)) txn g.toNat []
  | .inval slot g => message 0x15 (srcSwitch slot) txn g.toNat []
  | .fwdRead slot g => message 0x16 (srcSwitch slot) txn g.toNat []
  | .fwdInv slot g => message 0x17 (srcSwitch slot) txn g.toNat []
  | .wbAck g => message 0x18 (srcOf (c.primary g)) txn g.toNat []
  | .notice g => message 0x19 (srcOf (c.primary g)) txn g.toNat []
  | .sweep a b lost x => message 0x1A (homeDevice a).toNat x a.toNat (padTo 16 (bytesNat 8 b.toNat ++ bytesNat 1 lost))
  | .sweepAck d x => message 0x25 d.toNat x 0 []

/-! ### Messages that arrive (R32) -/

/-- The line that a message carries from a unit on. -/
def msgLine (m : List Byte) (off : Nat) : Line := lineOfBytes (fun j => m.getD (off + j) 0)

/-- The line address of a message. -/
def msgG (m : List Byte) : LineAddr := BitVec.ofNat 41 (field m 8 8)

/-- The switch that sent a message. -/
def msgSlot (m : List Byte) : Nat := field m 2 1 % 64

/-- What a message over an IFL does at this device. -/
def State.iflMessage (s : State) (m : List Byte) : State :=
  let g := msgG m
  match field m 0 1 with
  | 0x11 => s.deliver (.grant g .s (msgLine m 16))
  | 0x12 => s.deliver (.grant g .e (msgLine m 16))
  | 0x13 => s.deliver (.grant g .m (msgLine m 16))
  | 0x14 => s.deliver (.grantBare g)
  | 0x15 => s.deliver (.inval (msgSlot m) g)
  | 0x16 => s.deliver (.fwdRead (msgSlot m) g)
  | 0x17 => s.deliver (.fwdInv (msgSlot m) g)
  | 0x18 => s.deliver (.wbAck g)
  | 0x19 => s.deliver (.notice g)
  | 0x1A => s.deliver (.sweep g (BitVec.ofNat 41 (field m 16 8)) (field m 24 1) (BitVec.ofNat 32 (field m 4 4)))
  | 0x25 => s.deliver (.sweepAck (BitVec.ofNat 8 (field m 2 1)) (BitVec.ofNat 32 (field m 4 4)))
  | 0x35 => s.loseSwitch (field m 8 1 % 64) (field m 3 1 / 128 == 1) (field m 9 1)
  | _ => s

/-- What a message over the IHL does at the device; the answers to its own requests go to its core dies, whose clocks a trip stops. -/
def State.ihlMessage (s : State) (m : List Byte) : State :=
  let opd := field m 8 8
  let txn : Word := BitVec.ofNat 32 (field m 4 4)
  match field m 0 1 with
  | 0x05 => s.hostAsks (.read (s.hostVa (BitVec.ofNat 48 opd)) txn)
  | 0x06 => s.hostAsks (.write (s.hostVa (BitVec.ofNat 48 opd)) (enabledBytes (BitVec.ofNat 128 (field m 16 16)) (msgLine m 32)) txn)
  | 0x1B => if s.pkg.tripped.isSome then s else s.hostAnswers false (msgLine m 16)
  | 0x1C => if s.pkg.tripped.isSome then s else s.hostAcks (opd % 2 == 1)
  | 0x31 => s.cueArrives 0 ((m.drop 16).take 64)
  | 0x33 => s.manage (opd / 2 ^ 16 % 2 == 1) (opd % 2 ^ 16) (BitVec.ofNat 32 (field m 16 4)) txn
  | _ => s

/-- What a message does; one between dies does nothing of its own, since the dies' coherence is one with their memory (log 5). -/
def State.linkMessage (s : State) (n : Nat) (m : List Byte) : State :=
  if n = ihl then s.ihlMessage m else if isIfl n then s.iflMessage m else s

/-- Take up the oldest message of a link, while the package is powered; what the core dies would do waits while a trip has stopped their
clocks (R19, R27). -/
def State.takeUp (s : State) (n : Nat) (l : Link) : Option State :=
  if !s.pkg.powered || (s.pkg.tripped.isSome && n != ihl) then none else
  match l.inbox with
  | [] => none
  | m :: ms => some ((s.setLink n { l with inbox := ms }).linkMessage n m)

end Sys2Proof.Machine
end

