-- ==== Sys2Proof/Machine/Sched.lean ====
section
/-! DEFINITION. Which slot issues next: active and pending groups, load tokens and the load limit, arbitration (R209 to R215); and
what the package does of its own accord between runs (DESIGN CHOICE, log 3). -/

namespace Sys2Proof.Machine

open Sys2Proof

/-! ### Active and pending groups (R209) -/

/-- The quarter of a group, by its key. -/
def Group.quarterId (g : Group) : Nat := quarterKey g.coreId g.quarter

/-- The groups in the slots of the quarter with a key. -/
def State.inQuarter (s : State) (q : Nat) : List (Nat × Group) := s.groupsWhere (fun g => g.quarterId == q)

/-- The group stalls for a long time: neither slot can issue, and what it waits for is one of the waits of R209. -/
def Group.waits (g : Group) : Bool := g.dead || (g.pickOpen.isNone && !g.wants && g.longStall)

/-- Groups that YIELD lets go first are still ready. -/
def State.yields (s : State) (g : Group) : Bool :=
  g.yielded.any (fun (ids : List Nat) => ids.any (fun i => (s.group? i).any (fun x => x.place == .active && s.ready i x)))

/-- The group issues a run now. -/
def State.running? (s : State) (gid : Nat) : Bool := s.cur.any (fun c => c.gid == gid)

/-- A ready pending group. -/
def State.readyPending (s : State) (gid : Nat) (g : Group) : Bool := g.place == .pending && s.ready gid g

/-- The pending group of a quarter that became ready first. -/
def State.firstPending (s : State) (q : Nat) : Option Nat :=
  let ps := (s.inQuarter q).filter (fun e => s.readyPending e.1 e.2)
  leastBy (fun i => ((s.group? i).map (fun g => g.readyAt)).getD 0) (ps.map (fun e => e.1))

/-- A group leaves its active place: it gives up its token (R213). -/
def Group.bench (g : Group) (clk : Nat) : Group :=
  { g with
    place := .pending
    token := none
    wants := false
    stalled := if g.wants then [] else g.stalled
    longStall := !g.wants && g.longStall
    yielded := none
    readyAt := clk }

/-- A group takes an active place. -/
def Group.field (g : Group) (clk : Nat) : Group :=
  { g with
    place := .active
    activeAt := clk }

/-- An active and a pending group of one quarter exchange places. -/
def State.swap (s : State) (a p : Nat) : State :=
  match s.group? a, s.group? p with
  | some x, some y => (s.setGroup a (x.bench s.clk)).setGroup p (y.field s.clk)
  | _, _ => s

/-- The active group may exchange with the pending one: it waits, for a renewal too, or has yielded, and the other is the first that
is ready. -/
def State.mayExchange (s : State) (a p : Nat) : Bool :=
  match s.group? a, s.group? p with
  | some x, some y =>
    x.place == .active && !s.running? a && (x.waits || s.speculates a || x.yielded.isSome) && s.readyPending p y &&
    x.quarterId == y.quarterId && s.firstPending x.quarterId == some p
  | _, _ => false

/-- R209: a group exchange. -/
def State.exchange (s : State) (a p : Nat) : State := if s.mayExchange a p then s.swap a p else s

/-- R209. -/
def execGroupExchange (active pending : Nat) (s : State) : Host.Outcome State Fault Refusal := .next (s.exchange active pending)

/-- The active group of a quarter that has been active longest. -/
def State.longestActive (s : State) (q : Nat) : Option Nat :=
  let gs := (s.inQuarter q).filter (fun e => e.2.place == .active && !s.running? e.1)
  leastBy (fun i => ((s.group? i).map (fun g => g.activeAt)).getD 0) (gs.map (fun e => e.1))

/-- A pending group that has been ready for 1,024 clocks. -/
def State.overdue (s : State) (gid : Nat) (g : Group) : Bool := s.readyPending gid g && decide (g.readyAt + 1024 ≤ s.clk)

/-- R209: it takes the place of the group that has been active longest. -/
def State.promoteOverdue (s : State) (p : Nat) : State :=
  match s.group? p with
  | some g =>
    if s.overdue p g then
      match s.longestActive g.quarterId with
      | some a => s.swap a p
      | none => s
    else s
  | none => s

/-- R209. -/
def execPendingPromotionTimeout (pending : Nat) (s : State) : Host.Outcome State Fault Refusal := .next (s.promoteOverdue pending)

/-- The active places of a quarter that are taken. -/
def State.activeIn (s : State) (q : Nat) : Nat := ((s.inQuarter q).filter (fun e => e.2.place == .active)).length

/-- What R209 has a quarter do now. -/
def State.placesDue (s : State) (q : Nat) : Option State :=
  match s.firstPending q with
  | none => none
  | some p =>
    if s.activeIn q < 8 then (s.group? p).map (fun g => s.setGroup p (g.field s.clk))
    else
      match ((s.inQuarter q).find? (fun e => s.mayExchange e.1 p)) with
      | some e => some (s.exchange e.1 p)
      | none => if (s.group? p).any (s.overdue p) then some (s.promoteOverdue p) else none

/-! ### The load limit and the tokens (R212, R213) -/

/-- The load limit after a window with so many victim hits. -/
def nextLimit (l hits thr : Nat) : Nat :=
  if thr = 0 then 8 else if thr < hits then (if 1 < l then l / 2 else 1) else if l < 8 then l + 1 else l

/-- R212: a window of 1,024 clocks ends. -/
def State.limitWindow (s : State) (q : Nat) : State :=
  let x := s.quarter q
  let thr := (s.die (q / 256)).llthr.toNat
  s.setQuarter q { x with
    limit := nextLimit x.limit x.hits thr
    hits := 0
    winStart := x.winStart + 1024 }

/-- R212. -/
def execLoadLimitWindow (quarter : Nat) (s : State) : Host.Outcome State Fault Refusal := .next (s.limitWindow quarter)

/-- A holder has had its token for 256 clocks, or for four runs with loads (DESIGN CHOICE, log 27). -/
def Token.spent (t : Token) (clk : Nat) : Bool := decide (t.since + 256 ≤ clk) || decide (4 ≤ t.runs)

/-- R213: a spent token goes back. -/
def State.releaseToken (s : State) (gid : Nat) : State :=
  match s.group? gid with
  | some g => if g.token.any (fun (t : Token) => t.spent s.clk) && !s.running? gid then s.setGroup gid { g with token := none } else s
  | none => s

/-- R213. -/
def execTokenRelease (gid : Nat) (s : State) : Host.Outcome State Fault Refusal := .next (s.releaseToken gid)

/-- The keys of a list of groups in the round-robin order that follows slot `last` (R211). -/
def roundRobin (last : Nat) (gs : List (Nat × Group)) : List Nat :=
  let ids := gs.map (fun e => e.1)
  ids.filter (fun i => decide (last < i % 16)) ++ ids.filter (fun i => decide (i % 16 ≤ last))

/-- A token for the next group of a quarter that waits for one. -/
def State.tokenDue (s : State) (q : Nat) : Option State :=
  let gs := s.inQuarter q
  let out := (gs.filter (fun e => e.2.token.isSome)).length
  if (s.quarter q).limit ≤ out then none
  else
    match roundRobin (s.quarter q).last (gs.filter (fun e => e.2.wants && e.2.token.isNone && s.issuable e.1 e.2)) with
    | [] => none
    | i :: _ => (s.group? i).map (fun g => s.setGroup i { g with
        token := some { since := s.clk, runs := 0 }
        wants := false
        stalled := [] })

/-! ### Arbitration (R210, R211) -/

/-- The groups of a quarter that may be chosen. -/
def State.choosable (s : State) (q : Nat) : List (Nat × Group) :=
  (s.inQuarter q).filter (fun e => e.2.place == .active && s.ready e.1 e.2 && !s.yields e.2)

/-- A late fault recorded for the group's level is taken before any run (R252). -/
def State.lateDue (s : State) (gid : Nat) (g : Group) : Bool :=
  s.issuable gid g && (SMap.get none g.late g.lvl).isSome && g.pick.isSome

/-- A group begins a run: those that let it go first wait for it no more (R327). -/
def State.beginRun (s : State) (gid : Nat) : State :=
  match s.group? gid with
  | none => s
  | some g =>
    match g.pickOpen with
    | none => s
    | some sel =>
      let off := fun (x : Group) => { x with yielded := x.yielded.map (fun (ids : List Nat) => ids.filter (· != gid)) }
      let s := { s with groups := s.groups.map (fun (e : Nat × Option Group) => (e.1, e.2.map off)) }
      { s.setGroup gid { g with yielded := none } with cur := some { gid := gid, sel := sel, count := 0, load := false } }

/-- The next group of a quarter in round-robin order begins a run (R211). -/
def State.arbitrateQuarter (s : State) (q : Nat) : State :=
  if s.cur.isSome then s
  else
    match roundRobin (s.quarter q).last (s.choosable q) with
    | [] => s
    | i :: _ => if (s.group? i).any (s.lateDue i) then s.takeLate i else s.beginRun i

/-- R211. -/
def execRunArbitration (quarter : Nat) (s : State) : Host.Outcome State Fault Refusal :=
  .next (if s.running then s.arbitrateQuarter quarter else s)

/-! ### What falls due between runs (DESIGN CHOICE, log 3) -/

/-- The quarters that hold groups. -/
def State.quarterKeys (s : State) : List Nat := ((s.groupsWhere (fun _ => true)).map (fun e => e.2.quarterId)).eraseDups

/-- The first state that a list of actions gives. -/
def firstDue {α : Type} (xs : List α) (h : α → Option State) : Option State := xs.findSome? h

/-- The boot ROM reads the image; a wait of R78 runs out. -/
def State.bootDue (s : State) : Option State :=
  match (if s.pkg.tripped.isSome then .off else s.pkg.phase : BootPhase) with
  | .readImage => some s.readImage
  | .waitGo => if s.pkg.goAt + 60 * 1400000000 ≤ s.clk then some (s.failStart 0x02) else none
  | .waitReady => if s.pkg.goAt + 5 * 1400000000 ≤ s.clk then some (s.failStart 0x08) else none
  | _ => none

/-- A chunk that every device has acknowledged is swept, the last one ends its sweep. The other home devices' sweeps go on at a free
time (DESIGN CHOICE, log 31). -/
def State.sweepDue (s : State) : Option State :=
  match s.fab.sweeps.find? (fun w => w.awaited == 0) with
  | some w => some (s.endSweep w.slot)
  | none =>
    if s.fab.abroad.all (fun a => !a.isOpen) then none
    else if (Config.freeValue s.freeCtr).getLsbD 0 then some { s with freeCtr := s.freeCtr + 1 }.endAbroad
    else none

/-- The oldest message that a link has received is taken up (R32). -/
def State.inboxDue (s : State) : Option State := s.links.findSome? (fun e => s.takeUp e.1 e.2)

/-- A quarter's window has ended. -/
def State.windowDue (s : State) (q : Nat) : Option State :=
  if (s.quarter q).winStart + 1024 ≤ s.clk then some (s.limitWindow q) else none

/-- A RECV of the group gives up, or finds a message (R333). -/
def State.recvDue (s : State) (g : Group) : Bool :=
  !g.stalled.isEmpty && [g.slotA, g.slotB].any (fun p => p.kept.recv.any (fun r =>
    r.until_.any (fun t => decide (t ≤ s.clk)) || (s.die g.die).take.isSome))

/-- The watchdog count of a group that waits has run out (R256). -/
def State.watchdogRun (s : State) (gid : Nat) (g : Group) : Option (Fin 3) :=
  if s.issuable gid g && g.pick.isSome then g.watchdogDue s.clk else none

/-- What falls due of a group: a spent token, a late fault, its watchdog, a RECV that gives up or finds a message, a mailbox. -/
def State.groupDue (s : State) (e : Nat × Group) : Option State :=
  let (gid, g) := e
  if g.token.any (fun (t : Token) => t.spent s.clk) then some (s.releaseToken gid)
  else if s.lateDue gid g then some (s.takeLate gid)
  else if (s.watchdogRun gid g).isSome then (s.watchdogRun gid g).map (fun l => s.takeWatchdog gid l.val)
  else if s.recvDue g then some (s.setGroup gid (g.unstall s.clk))
  else if (s.guardTrap g).isSome then (s.guardTrap g).map (s.unguard g.ctx)
  else if 1 ≤ g.lvl then s.mailboxNext gid
  else none

/-- An incremental checkpoint of a paused context is taken (R86). -/
def State.ckptNext (s : State) : Option State :=
  (s.contextTags.find? (fun c => s.ckptDue c && s.ctxPaused c)).map s.commitCheckpoint

/-- A completion increment, or an engine of an open arena, meets a page that is read-only since a checkpoint (R99). -/
def State.guardNext (s : State) : Option State :=
  match s.launchesWhere (fun l => l.faultSent && decide (0 < l.pendingIncs) && s.isGuarded l.blk.ctx (vaOf l.blk.cmpva)) with
  | (lid, l) :: _ => some ((s.unguard l.blk.ctx (vaOf l.blk.cmpva)).postOnce (.completionIncrement lid))
  | [] =>
    s.arenas.findSome? (fun a =>
      (s.context? a.ctx.toNat).bind (fun x =>
        (x.guarded.find? (fun p => a.ranges.any (fun r => pageMeets p r.1 r.2))).map (fun p => s.unguard a.ctx p.1)))

/-- The shadow of lower rank streams out, once its copies and Wings pipe operations have completed, if it has an image (R206, R263). -/
def State.makeShadow (s : State) (core : Nat) : Option State :=
  match s.lowShadow (core / 64) (core % 64) with
  | some x => if s.imageEntry (core / 64) x.ctx != 0 && (s.groupsOn core x.ctx).all (fun e => e.2.undone.isEmpty)
      then some (s.streamOut core x.ctx) else none
  | none => none

/-- A core is empty and promised to a launch: a context of the launch that waits in memory comes back first, into a shadow that is
made free for it; where none can be, the core is promised no longer (R205, R207; DESIGN CHOICE, log 27). -/
def State.claimDue (s : State) (core lid : Nat) : Option State :=
  let k := s.core core
  match s.launch? lid with
  | none => none
  | some l =>
    if !k.inMem.contains l.blk.ctx then none
    else if (s.groupsOn core l.blk.ctx).isEmpty then some (s.setCore core { k with inMem := k.inMem.filter (· != l.blk.ctx) })
    else if k.shadows.length < 2 then some (s.streamIn core l.blk.ctx)
    else if (s.lowShadow (core / 64) (core % 64)).any (fun x => s.imageEntry (core / 64) x.ctx != 0) then s.makeShadow core
    else some (s.setCore core { k with claim := none })

/-- What falls due of a core: a switch (R206, R207). -/
def State.coreDue (s : State) (core : Nat) : Option State :=
  let k := s.core core
  let (die, c) := (core / 64, core % 64)
  if k.switching then
    match k.active with
    | none => none
    | some a =>
      if !s.drained core a then none
      else if k.shadows.length < 2 then some (s.shadowCopy core)
      else s.makeShadow core
  else if s.occupied die c && k.claim.isSome then (if s.canSwitch die c then some (s.switchOut core) else none)
  else if k.claim.isSome then k.claim.bind (s.claimDue core)
  else if !s.occupied die c && !k.shadows.isEmpty then some (s.switchIn core)
  else if k.shadows.length < 2 then
    match s.highest core (k.inMem.filter (fun x => !(s.groupsOn core x).isEmpty)) with
    | some x => some (s.streamIn core x)
    | none => none
  else none

/-- What falls due of a die: a placement (R203). -/
def State.dieDue (s : State) (die : Nat) : Option State :=
  let d := s.die die
  let busy := !d.queues.isEmpty || (List.range 64).any (fun c => (s.core (coreKey die c)).claim.isSome)
  if busy && decide (d.placeAt ≤ s.clk) then some (s.stage die) else none

/-- The first thing that falls due. -/
def State.due (s : State) : Option State :=
  let intr := if s.host.intr && decide (s.host.intrAt ≤ s.clk) then some s.sendIntr else none
  (if s.running then s.deliverNext else none).or (s.inboxDue.or (intr.or (s.windowNext.or (s.bootDue.or (if !s.running then none else
    (firstDue s.quarterKeys s.windowDue).or <|
    (firstDue (s.groupsWhere (fun _ => true)) s.groupDue).or <|
    s.ckptNext.or <| s.guardNext.or <| s.askNext.or <| s.restartNext.or <|
    (firstDue s.quarterKeys s.placesDue).or <|
    (firstDue s.quarterKeys s.tokenDue).or <|
    (firstDue (s.cores.map (fun e => e.1)) s.coreDue).or <|
    (firstDue (List.range 8) s.dieDue).or s.sweepDue)))))

/-- The groups whose last word could not issue and may be tried again. -/
def State.retries (s : State) : List Nat :=
  (s.groupsWhere (fun g => !g.stalled.isEmpty && !g.wants)).filterMap (fun e => if s.runnable e.1 e.2 then some e.1 else none)

/-- The element of a list that a number picks. -/
def pickOf {α : Type} (xs : List α) (n : Nat) : Option α := xs[n % max 1 xs.length]?

/-- With no event waiting and no run in progress: what falls due happens, or a quarter arbitrates, or a word that could not
issue is tried again, or a clock passes. Which of several quarters and waiting groups comes first is free
(DESIGN CHOICE, log 4). -/
def arbitrate (s : State) : State :=
  match s.due with
  | some s => s
  | none =>
    let qs := if s.running then s.quarterKeys.filter (fun q => !(s.choosable q).isEmpty) else []
    let rs := if s.running then s.retries else []
    match qs, rs with
    | [q], [] => s.arbitrateQuarter q
    | [], [] => s.passClock
    | _, _ =>
      let (x, s) := s.free
      let n := x.toNat
      if rs.isEmpty || (!qs.isEmpty && n % 2 == 0) then
        match pickOf qs (n / 2) with
        | some q => s.arbitrateQuarter q
        | none => s
      else
        match (pickOf rs (n / 2)).bind (fun i => (s.group? i).map (fun g => (i, g))) with
        | some (i, g) => s.setGroup i (g.unstall s.clk)
        | none => s

end Sys2Proof.Machine
end

