-- ==== Sys2Proof/Machine/Special.lean ====
section
/-! DEFINITION. Special functions, integral rounding and VCLASS, 0x72 to 0x7C (R301, R302, R356). -/

namespace Sys2Proof.Machine

open Sys2Proof

/-- The special functions of which R301 fixes a bound and not the value. -/
inductive SfFn where
  | rcp | rsq | ex2 | lg2 | sin | cos
  deriving DecidableEq, Repr

/-- The function's opcode, by which its candidate values are told apart. -/
def SfFn.code : SfFn → Nat
  | .rcp => 0x72
  | .rsq => 0x73
  | .ex2 => 0x75
  | .lg2 => 0x76
  | .sin => 0x77
  | .cos => 0x78

/-- The exact value of a function at a finite x that is no special point. -/
def SfFn.exact (fn : SfFn) (x : Dy) : Dy :=
  match fn with
  | .rcp => (Dy.ofInt 1).div x
  | .rsq => ((Dy.ofInt 1).div x).sqrt
  | .ex2 => exp2 x
  | .lg2 => log2Dy x
  | .sin => sinTurns x
  | .cos => cosTurns x

/-- One unit in the last place of a format at an exact value. -/
def Fmt.ulp (fm : Fmt) (y : Dy) : Dy := { m := 1, e := (if y.isZero then fm.emin else max y.log2 fm.emin) - fm.fbits }

/-- The bound of R301 on the distance from the exact value y. -/
def SfFn.bound (fn : SfFn) (fm : Fmt) (x y : Dy) : Dy :=
  let two := (fm.ulp y).scale 1
  let atLeast := fun (k : Int) => if two.lt { m := 1, e := k } then ({ m := 1, e := k } : Dy) else two
  match fn with
  | .rcp => fm.ulp y
  | .rsq | .ex2 => two
  | .lg2 => if ({ m := 1, e := -1 } : Dy).le x && x.le { m := 2, e := 0 } then atLeast (-22) else two
  | .sin | .cos => atLeast (-24)

/-- The finite value of a format nearest to y. -/
def Fmt.nearest (fm : Fmt) (y : Dy) : Nat :=
  if y.isZero then 0
  else
    match fm.roundRaw .rne y.isNeg y with
    | .beyond => fm.signed y.isNeg fm.maxBits
    | .val b _ _ => fm.signed y.isNeg b

/-- The function returns its exact value wherever the format holds it (R301). -/
def SfFn.keepsExact : SfFn → Bool
  | .rcp | .rsq | .ex2 => true
  | _ => false

/-- The value of a function away from its special points: exact where R301 says so, else a fixed candidate that keeps the
bound (DESIGN CHOICE, log 6). -/
def SfFn.value (fn : SfFn) (fm : Fmt) (ty b : Nat) (x : Dy) : Nat :=
  let y := fn.exact x
  let n := fm.nearest y
  if fn.keepsExact && (fm.decode n).signed.eq y then n
  else
    let c := Config.specialFunction fn.code ty b % 2 ^ fm.bits
    match fm.decode c with
    | .fin _ _ => if ((fm.decode c).signed.sub y).abs.le (fn.bound fm x y) then c else n
    | _ => n

/-- x is k quarter turns. -/
def quarterTurns (x : Dy) : Option Int :=
  let q := x.scale 2
  if q.eq (Dy.ofInt q.floor) then some q.floor else none

/-- The results of R302, or none where x is no special point. -/
def SfFn.special (fn : SfFn) (fm : Fmt) (x : FVal) : Option FRes :=
  let res := fun (n : Bool) (b : Nat) => some ({ bits := fm.signed n b, flags := .none } : FRes)
  let one := fm.encode (.fin false (Dy.ofInt 1))
  match x with
  | .nan => some (fm.nanRes .none)
  | .inf n =>
    match fn with
    | .rcp => res n 0
    | .rsq => if n then some (fm.nanRes .onlyIv) else res false 0
    | .ex2 => if n then res false 0 else res false fm.infBits
    | .lg2 => if n then some (fm.nanRes .onlyIv) else res false fm.infBits
    | .sin | .cos => some (fm.nanRes .onlyIv)
  | .fin n m =>
    let y := FVal.signed (.fin n m)
    match fn with
    | .rcp =>
      if m.isZero then some { bits := fm.signed n fm.infBits, flags := .onlyDz }
      else if (fn.exact m).lt { m := 1, e := fm.bias + 1 } then none
      else some { bits := fm.signed n fm.infBits, flags := { Flags.none with of := true } }
    | .rsq =>
      if m.isZero then some { bits := fm.signed n fm.infBits, flags := .onlyDz }
      else if n then some (fm.nanRes .onlyIv) else none
    | .ex2 =>
      if (fm.mag fm.maxBits).lt (exp2 y) then some { bits := fm.infBits, flags := { Flags.none with of := true } }
      else none
    | .lg2 =>
      if m.isZero then some { bits := fm.signed true fm.infBits, flags := .onlyDz }
      else if n then some (fm.nanRes .onlyIv)
      else if y.eq (Dy.ofInt 1) then res false 0 else none
    | .sin =>
      match quarterTurns y with
      | some k => if k % 2 = 0 then res (n && m.isZero) 0 else res (k % 4 == 3) one
      | none => none
    | .cos =>
      match quarterTurns y with
      | some k => if k % 2 = 1 then res false 0 else if k % 4 = 0 then res false one else none
      | none => none

/-- One element of a special function; a tiny result is written as zero under `m.ftz`, without a flag (R301, R302). -/
def SfFn.elem (fn : SfFn) (fm : Fmt) (ty : Nat) (ftz : Bool) (b : Nat) : FRes :=
  let x := fm.read ftz b
  match fn.special fm x with
  | some r => r
  | none =>
    let v := fn.value fm ty b x.signed
    let tiny := ftz && decide (v % fm.signBit < 2 ^ fm.fbits)
    { bits := if tiny then v / fm.signBit * fm.signBit else v, flags := .none }

/-- A unary function of the elements of B, written with tag `m.t`. -/
def Group.unary (g : Group) (sel : PcSel) (f : Fields) (h : Fmt → Nat → FRes) : GRes :=
  let ty := g.ty
  let fm := (fmtOf ty).getD .f32
  let rs := laneResults (g.execLanes sel) fun l =>
    let x := g.typed sel ty f.b l
    mapElems ty (fun k => h fm (elem ty x k))
  (g.putTyped ty f.d.toNat (g.execLanes sel) (valueAt rs)).finish (flagsAt rs)

/-- A special function in every executing lane (R356). -/
def Group.special (g : Group) (sel : PcSel) (f : Fields) (fn : SfFn) : GRes :=
  g.unary sel f (fun fm b => fn.elem fm g.ty g.ftz b)

/-- One element of VSQRT: rounded under `m.rm`, without IX and UF (R301, R302). -/
def sqrtElem (fm : Fmt) (rm : Rm) (ftz : Bool) (b : Nat) : FRes :=
  let r := fm.fsqrt rm ftz (fm.read ftz b)
  { bits := r.bits, flags := { r.flags with ix := false, uf := false } }

/-- An integral value in a direction, with the sign of the source (R356). -/
def integral (fm : Fmt) (rm : Rm) (ftz : Bool) (b : Nat) : FRes :=
  match fm.read ftz b with
  | .nan => fm.nanRes .none
  | .inf n => { bits := fm.signed n fm.infBits, flags := .none }
  | .fin n m => { bits := fm.encode (.fin n { m := (roundMag rm n m 0 : Nat), e := 0 }), flags := .none }

/-- The bit of VCLASS for an encoding (R356). -/
def classBit (fm : Fmt) (b : Nat) : Nat :=
  let sub := decide (b % fm.signBit < 2 ^ fm.fbits)
  match fm.decode b with
  | .nan => 8
  | .inf n => if n then 0 else 7
  | .fin n m => if m.isZero then (if n then 3 else 4) else if n then (if sub then 2 else 1) else (if sub then 5 else 6)

/-- The class masks of the elements of a register value, 16 bits apart (R356). -/
def classMask (ty x : Nat) : Word :=
  BitVec.ofNat 32 (((List.range (elems ty)).map
    (fun k => 2 ^ (16 * k + classBit ((fmtOf ty).getD .f32) (elem ty x k)))).foldl (· + ·) 0)

/-- R356, R301: 1 / x. -/
def execVrcp (f : Fields) (s : State) : Host.Outcome State Fault Refusal :=
  issueReg Op.vrcp f (fun sel g => g.special sel f .rcp) s

/-- R356, R301: 1 / √x. -/
def execVrsq (f : Fields) (s : State) : Host.Outcome State Fault Refusal :=
  issueReg Op.vrsq f (fun sel g => g.special sel f .rsq) s

/-- R356, R301: √x, correctly rounded under `m.rm`. -/
def execVsqrt (f : Fields) (s : State) : Host.Outcome State Fault Refusal :=
  issueReg Op.vsqrt f (fun sel g => g.unary sel f (fun fm b => sqrtElem fm g.rm g.ftz b)) s

/-- R356, R301: 2^x. -/
def execVex2 (f : Fields) (s : State) : Host.Outcome State Fault Refusal :=
  issueReg Op.vex2 f (fun sel g => g.special sel f .ex2) s

/-- R356, R301: log2 x. -/
def execVlg2 (f : Fields) (s : State) : Host.Outcome State Fault Refusal :=
  issueReg Op.vlg2 f (fun sel g => g.special sel f .lg2) s

/-- R356, R301: sin 2πx. -/
def execVsin (f : Fields) (s : State) : Host.Outcome State Fault Refusal :=
  issueReg Op.vsin f (fun sel g => g.special sel f .sin) s

/-- R356, R301: cos 2πx. -/
def execVcos (f : Fields) (s : State) : Host.Outcome State Fault Refusal :=
  issueReg Op.vcos f (fun sel g => g.special sel f .cos) s

/-- R356: the integral value toward −∞. -/
def execVflr (f : Fields) (s : State) : Host.Outcome State Fault Refusal :=
  issueReg Op.vflr f (fun sel g => g.unary sel f (fun fm b => integral fm .rdn g.ftz b)) s

/-- R356: the integral value toward +∞. -/
def execVceil (f : Fields) (s : State) : Host.Outcome State Fault Refusal :=
  issueReg Op.vceil f (fun sel g => g.unary sel f (fun fm b => integral fm .rup g.ftz b)) s

/-- R356: the integral value under `m.rm`. -/
def execVrnd (f : Fields) (s : State) : Host.Outcome State Fault Refusal :=
  issueReg Op.vrnd f (fun sel g => g.unary sel f (fun fm b => integral fm g.rm g.ftz b)) s

/-- R356: the class mask of each element, tag UI32. -/
def execVclass (f : Fields) (s : State) : Host.Outcome State Fault Refusal :=
  issueSimple Op.vclass f (fun sel g => g.putV sel f 1 (fun l => classMask g.ty (g.typed sel g.ty f.b l))) s

end Sys2Proof.Machine
end

