-- ==== Sys2Proof/Machine/Cues.lean ====
section
/-! DEFINITION. What the Directors do with cues (R65 to R67, R88), partition configuration (R55, R66). -/

namespace Sys2Proof.Machine

open Sys2Proof

/-! ### Taking a cue from a die's queue -/

/-- The kind of a cue. -/
def cueKind (cue : List Byte) : Nat := field cue 4 1

/-- The context that a cue names. -/
def cueCtx (cue : List Byte) : Ctx := BitVec.ofNat 8 (field cue 8 1)

/-- Every byte from 16 on, but for those of the ranges, is zero. -/
def bodyZero (cue : List Byte) (used : List (Nat × Nat)) : Bool :=
  (cue.zipIdx.drop 16).all (fun x => x.1 == 0 || used.any (fun r => decide (r.1 ≤ x.2) && decide (x.2 < r.1 + r.2)))

/-- The Directors interpret cues: the device runs, no checkpoint or restore is in progress (R83, R85), and no event of theirs waits for
room in the hold, which stalls them (R70). -/
def State.directing (s : State) : Bool := s.pkg.mode == 3 && s.running && s.pkg.stream.isNone && s.host.waitEvts.isEmpty

/-- The next cue of a die, if a test accepts it: it leaves the queue; a broken header or body is answered with CUE_BAD, reason
word 1 (R67), and has no other effect. -/
def State.withCue (s : State) (die : Nat) (is : List Byte → Bool) (layout : List Byte → Bool) (h : List Byte → State → State) : State :=
  match (s.die die).cues with
  | [] => s
  | cue :: rest =>
    if s.directing && is cue then
      let d := s.die die
      let s' := s.setDie die { d with cues := rest }
      if field cue 9 7 ≠ 0 ∨ layout cue = false then s'.cueBad die cue 1 else h cue s'
    else s

/-- A cue of one kind. -/
def isKind (k : Nat) (cue : List Byte) : Bool := cueKind cue == k

/-- The tag names a context that exists. -/
def State.exists (s : State) (c : Ctx) : Bool := c != 0 && (s.context? c.toNat).isSome

/-! ### LAUNCH -/

/-- The context of a launch block. -/
def blockCtx (l : Line) : Ctx := BitVec.ofNat 8 (lineField l 34 1)

/-- The line of a launch block, if it can be read. -/
def State.blockLine (s : State) (va : VA) : Option Line :=
  (s.blockLeaf va).map (fun e =>
    if windowOf va = 9 then s.hostLine (hostAddr va e)
    else if windowOf va = 10 then (s.sysLine (globalOf va)).data
    else s.homeCopy (lineLoc s 0 va e))

/-- The block of a LAUNCH cue. -/
def State.cueBlock (s : State) (cue : List Byte) : Option Line :=
  if field cue 16 8 < 2 ^ 52 then s.blockLine (BitVec.ofNat 52 (field cue 16 8)) else none

/-- The context of a block has been killed. -/
def State.killedBlock (s : State) (l : Option Line) : Bool :=
  l.any (fun x => (s.context? (blockCtx x).toNat).any (fun y => y.killed))

/-- The answer to a LAUNCH cue: the status and the second word of R198, held back for a resilient context. -/
def State.launchCue (s : State) (die : Nat) (cue : List Byte) : State :=
  let block := s.cueBlock cue
  if s.killedBlock block then s.cueBadOwn die cue
  else
    let (s, status, w) := s.cueUnit die block (BitVec.ofNat 32 (field cue 0 4))
    let c := (block.map blockCtx).getD 0
    s.workEvent c { kind := 0x02, src := die, href := BitVec.ofNat 32 (field cue 0 4), ctx := (cueCtx cue).toNat,
                    body := [(16, bytesNat 4 status), (20, bytesOfWord w)] }

/-- The Cue Unit would answer queue-full, so that the Director tries again. -/
def State.launchFull (s : State) (die : Nat) (cue : List Byte) : Bool :=
  match s.cueBlock cue with
  | some l => !s.killedBlock (some l) && (s.blockReason l).isNone && s.queueFull die (blockOf l).prio
  | none => false

/-- R65. -/
def execCueLaunch (die : Fin 8) (s : State) : Host.Outcome State Fault Refusal :=
  let whole := fun (cue : List Byte) => field cue 9 7 == 0 && bodyZero cue [(16, 8)]
  .next (s.withCue die.val (fun cue => isKind 0x01 cue && !(whole cue && s.launchFull die.val cue)) (fun cue => bodyZero cue [(16, 8)])
    (fun cue s => s.launchCue die.val cue))

/-! ### MAP and UNMAP -/

/-- The layout of a MAP body: a page kind, an address and a size in whole pages, a location of its window. A range that leaves its
window, or one in window 10 or in 12 to 15, for which R67 gives no location, breaks it (DESIGN CHOICE, log 12). -/
def mapLayout (cue : List Byte) : Bool :=
  let va := field cue 16 8
  let psz := field cue 42 1
  let n := pageBytes psz
  let w := va / 2 ^ 48
  let loc := field cue 24 8
  bodyZero cue [(16, 27)] && decide (psz ≤ 2) && decide (va < 2 ^ 52) && va % n == 0 && field cue 32 8 != 0 && field cue 32 8 % n == 0 &&
  decide (va + field cue 32 8 ≤ (w + 1) * 2 ^ 48) &&
  (if w ≤ 8 ∨ w = 9 then loc % n == 0 && decide (loc < 2 ^ 48) else w == 11 && decide (loc < 2 ^ 32))

/-- Map the pages of a range, one after the other, and invalidate each (R94). -/
def State.mapRange (s : State) (c : Ctx) (va loc psz attr : Nat) : Nat → State × Bool
  | 0 => (s, true)
  | n + 1 =>
    let a : VA := BitVec.ofNat 52 va
    let ap := windowOf a == 11
    let leaf := leafWord attr (if ap then loc else loc / 65536) psz
    match s.mapPage c a psz leaf with
    | (s, true) => (s.invalidate (.page c a)).mapRange c (va + pageBytes psz)
        (if ap then loc + framesOf psz else loc + pageBytes psz) psz attr n
    | (s, false) => (s, false)

/-- MAP. -/
def State.mapCue (s : State) (die : Nat) (cue : List Byte) : State :=
  let c := cueCtx cue
  if !s.exists c then s.cueBadOwn die cue
  else
    let psz := field cue 42 1
    match s.mapRange c (field cue 16 8) (field cue 24 8) psz (field cue 40 2) (field cue 32 8 / pageBytes psz) with
    | (s, true) => s.cueDone die cue
    | (s, false) => s.cueBadOwn die cue

/-- R67. -/
def execCueMap (die : Fin 8) (s : State) : Host.Outcome State Fault Refusal :=
  .next (s.withCue die.val (isKind 0x02) mapLayout (fun cue s => s.mapCue die.val cue))

/-- The mapped pages that a range touches, `n` granules from `va` on: first address and kind. -/
def State.pagesIn (s : State) (c : Ctx) (va : Nat) : Nat → List (Nat × Nat)
  | 0 => []
  | n + 1 =>
    let rest := s.pagesIn c (va + 65536) n
    match walk s c (BitVec.ofNat 52 va) with
    | .ok e =>
      let p := ebits e 15 14
      (va / pageBytes p * pageBytes p, p) :: rest
    | .error _ => rest

/-- The pages that an UNMAP removes, each once. -/
def State.unmapPages (s : State) (cue : List Byte) : List (Nat × Nat) :=
  (s.pagesIn (cueCtx cue) (field cue 16 8) (field cue 24 8 / 65536)).eraseDups

/-- The layout of an UNMAP body: whole granules, no page that the range covers in part. -/
def State.unmapLayout (s : State) (cue : List Byte) : Bool :=
  let (va, n) := (field cue 16 8, field cue 24 8)
  bodyZero cue [(16, 16)] && decide (va < 2 ^ 52) && va % 65536 == 0 && n != 0 && n % 65536 == 0 && decide (va + n ≤ 2 ^ 52) &&
  (s.unmapPages cue).all (fun p => decide (va ≤ p.1) && decide (p.1 + pageBytes p.2 ≤ va + n))

/-- UNMAP. -/
def State.unmapCue (s : State) (die : Nat) (cue : List Byte) : State :=
  let c := cueCtx cue
  if !s.exists c then s.cueBadOwn die cue
  else
    ((s.unmapPages cue).foldl (fun s p =>
      let a : VA := BitVec.ofNat 52 p.1
      (s.unmapPage c a p.2).invalidate (.page c a)) s).cueDone die cue

/-- R67. -/
def execCueUnmap (die : Fin 8) (s : State) : Host.Outcome State Fault Refusal :=
  .next (s.withCue die.val (isKind 0x03) s.unmapLayout (fun cue s => s.unmapCue die.val cue))

/-! ### Contexts (R65, R67, R88) -/

/-- CTX_CREATE: a tag that no context has. -/
def State.createCue (s : State) (die : Nat) (cue : List Byte) : State :=
  let c := cueCtx cue
  if c = 0 || s.exists c then s.cueBadOwn die cue else (s.createContext c cue).cueDone die cue

/-- R65. -/
def execCueCtxCreate (die : Fin 8) (s : State) : Host.Outcome State Fault Refusal :=
  .next (s.withCue die.val (isKind 0x04) (fun cue => bodyZero cue [(16, 37), (56, 8)]) (fun cue s => s.createCue die.val cue))

/-- CTX_DESTROY: the answer follows every report. -/
def State.destroyCue (s : State) (die : Nat) (cue : List Byte) : State :=
  if s.exists (cueCtx cue) then (s.destroyContext (cueCtx cue)).cueDone die cue else s.cueBadOwn die cue

/-- R88. -/
def execCueCtxDestroy (die : Fin 8) (s : State) : Host.Outcome State Fault Refusal :=
  .next (s.withCue die.val (isKind 0x05) (fun cue => bodyZero cue []) (fun cue s => s.destroyCue die.val cue))

/-- KILL: the answer is not held back, since nothing of a killed context is. -/
def State.killCue (s : State) (die : Nat) (cue : List Byte) : State :=
  if s.exists (cueCtx cue) then
    (s.endWork (cueCtx cue) 1).dirEvent
      { kind := 0x02, src := die, href := BitVec.ofNat 32 (field cue 0 4), ctx := (cueCtx cue).toNat }
  else s.cueBadOwn die cue

/-- R88. -/
def execCueKill (die : Fin 8) (s : State) : Host.Outcome State Fault Refusal :=
  .next (s.withCue die.val (isKind 0x06) (fun cue => bodyZero cue []) (fun cue s => s.killCue die.val cue))

/-! ### Kinds that the Director defines, and kinds that none has (R65) -/

/-- A kind of the table. -/
def tableKind (k : Nat) : Bool := decide (1 ≤ k) && decide (k ≤ 0x0A)

/-- A cue of a Director-defined kind is done or bad as the Director decides; any other kind outside the table is bad. -/
def State.ownCue (s : State) (die : Nat) (cue : List Byte) : State :=
  if 0x80 ≤ cueKind cue && Config.directorAccepts cue then s.cueDone die cue else s.cueBadOwn die cue

/-- R65. -/
def execCueDirectorDefined (die : Fin 8) (s : State) : Host.Outcome State Fault Refusal :=
  .next (s.withCue die.val (fun cue => !tableKind (cueKind cue)) (fun _ => true) (fun cue s => s.ownCue die.val cue))

/-! ### Partition configuration (R55, R66) -/

/-- A PARTITION cue of a block type. -/
def isBlock (p : Nat → Bool) (cue : List Byte) : Bool := isKind 0x0A cue && p (field cue 16 1)

/-- Change what is staged. -/
def State.stageCfg (s : State) (h : PartCfg → PartCfg) : State := { s with fab := { s.fab with staged := h s.fab.staged } }

/-- The layout of a block: bytes 18 to 23 zero, `bidx` zero but for home tables, the contents in their ranges. -/
def partLayout (idx : Nat) (used : List (Nat × Nat)) (cue : List Byte) : Bool :=
  bodyZero cue ((16, 2) :: used) && decide (field cue 17 1 ≤ idx)

/-- The header's contents are in range. -/
def headerLayout (cue : List Byte) : Bool :=
  partLayout 0 [(24, 1), (26, 3), (32, 8)] cue && decide (1 ≤ field cue 26 2) && decide (field cue 26 2 ≤ 256) &&
  decide (1 ≤ field cue 28 1) && decide (field cue 28 1 ≤ 64) && field cue 32 8 != 0

/-- R66: the header is staged. -/
def execPartitionHeader (die : Fin 8) (s : State) : Host.Outcome State Fault Refusal :=
  .next (s.withCue die.val (isBlock (· == 0)) headerLayout (fun cue s =>
    (s.stageCfg (fun c => { c with
      devno := BitVec.ofNat 8 (field cue 24 1)
      count := field cue 26 2
      n := field cue 28 1
      gen := BitVec.ofNat 64 (field cue 32 8)
      hasHdr := true })).cueDone die.val cue))

/-- R66: the member bitmap is staged. -/
def execPartitionMembers (die : Fin 8) (s : State) : Host.Outcome State Fault Refusal :=
  .next (s.withCue die.val (isBlock (· == 1)) (partLayout 0 [(24, 32)]) (fun cue s =>
    (s.stageCfg (fun c => { c with
      members := BitVec.ofNat 256 (field cue 24 32)
      hasMembers := true })).cueDone die.val cue))

/-- Entry k of a block of sixteen, two bytes each. -/
def entry16 (cue : List Byte) (k : Nat) : BitVec 16 := BitVec.ofNat 16 (field cue (24 + 2 * k) 2)

/-- Bits 14 to 8 of every entry are zero. -/
def entriesOk (cue : List Byte) : Bool := (List.range 16).all (fun k => (entry16 cue k).toNat / 256 % 128 == 0)

/-- A slot of the home table as a block gives it. -/
def slotOfEntry (x : BitVec 16) : HomeSlot := { ident := x.setWidth 8, live := x.getLsbD 15, dead := false }

/-- R66: sixteen slots of the home table are staged. -/
def execPartitionHomeTable (die : Fin 8) (s : State) : Host.Outcome State Fault Refusal :=
  .next (s.withCue die.val (isBlock (· == 2)) (fun cue => partLayout 3 [(24, 32)] cue && entriesOk cue) (fun cue s =>
    let b := field cue 17 1
    (s.stageCfg (fun c => { c with
      homes := (List.range 16).foldl (fun m k => SMap.set HomeSlot.reset m (16 * b + k) (slotOfEntry (entry16 cue k))) c.homes
      homeSet := c.homeSet ||| ((1#4) <<< b) })).cueDone die.val cue))

/-- R66: the port map is staged. -/
def execPartitionPortMap (die : Fin 8) (s : State) : Host.Outcome State Fault Refusal :=
  .next (s.withCue die.val (isBlock (· == 3)) (fun cue => partLayout 0 [(24, 32)] cue && entriesOk cue) (fun cue s =>
    (s.stageCfg (fun c => { c with
      ports := (List.range 16).foldl (fun m k => SMap.set 0 m k (entry16 cue k)) c.ports
      hasPorts := true })).cueDone die.val cue))

/-- Slots 0 to N − 1 are all staged. -/
def PartCfg.complete (c : PartCfg) : Bool := (List.range c.n).all (fun k => c.homeSet.getLsbD (k / 16))

/-- What a commit puts in force: the staged blocks, and of the members and the port map what is in force where no block is staged. -/
def PartCfg.over (c old : PartCfg) : PartCfg :=
  { c with
    members := if c.hasMembers then c.members else old.members
    ports := if c.hasPorts then c.ports else old.ports }

/-- Apply what is staged; the sequencer is the switch in the first live slot (R157). -/
def State.applyCfg (s : State) : State :=
  let c := s.fab.staged.over s.fab.cfg
  { s with fab := { s.fab with
    cfg := c
    staged := .reset
    inForce := true
    fenced := false
    unsent := []
    away := 0
    abroad := []
    seqSlot := (firstFrom c.live 0 c.n).getD 0 } }

/-- A commit applies the staged blocks, or is refused; a block of any other type is bad. -/
def State.commitCue (s : State) (die : Nat) (cue : List Byte) : State :=
  let c := s.fab.staged
  if field cue 16 1 ≠ 4 then s.cueBad die cue 4
  else if !c.hasHdr || c.gen.toNat != field cue 24 8 then s.cueBad die cue 1
  else if !c.complete then s.cueBad die cue 2
  else if !(c.over s.fab.cfg).members.getLsbD c.devno.toNat then s.cueBad die cue 3
  else s.applyCfg.cueDone die cue

/-- The layout of a commit; what a block of another type holds is not read. -/
def commitLayout (cue : List Byte) : Bool := decide (4 < field cue 16 1) || partLayout 0 [(24, 8)] cue

/-- R66: a commit waits for any recovery sweep to end, another device's too. -/
def execPartitionCommit (die : Fin 8) (s : State) : Host.Outcome State Fault Refusal :=
  .next (s.withCue die.val (fun cue => isBlock (fun t => decide (4 ≤ t)) cue && s.fab.sweeps.isEmpty &&
      s.fab.abroad.all (fun a => !a.isOpen)) commitLayout
    (fun cue s => s.commitCue die.val cue))

end Sys2Proof.Machine
end

