-- ==== Sys2Proof/Machine/Stream.lean ====
section
/-! DEFINITION. Checkpoint and restore of all device memory (R83 to R85, R88). -/

namespace Sys2Proof.Machine

open Sys2Proof

/-! ### The stream (R83, R85) -/

/-- Bytes of all device memory. -/
def State.deviceBytes (s : State) : Nat := 8 * s.dieMiB * 2 ^ 20

/-- Bytes of the header area. -/
def headerArea : Nat := 65536

/-- Where a location stands in the stream: the frames of CD0's pool, of the other dies' pools, then of the package pool, each in
frame order (DESIGN CHOICE, log 35). -/
def streamOffset (mbound key : Nat) : Nat :=
  let p := placeOfLine mbound key
  let f := if p.pool = 8 then 8 * (mbound * 1024) + p.frame else p.pool * (mbound * 1024) + p.frame
  f * 65536 + p.index * 128 + key % 128

/-- The location of an offset of the stream. -/
def streamKey (mbound off : Nat) : Nat :=
  let (f, i, b) := (off / 65536, off / 128 % 512, off % 128)
  let n := mbound * 1024
  if f < 8 * n then pinnedLine (f / n) i (f % n) (i / 64) + b else packageLine mbound i (f - 8 * n) + b

/-- The first n bytes of the stream of device memory stand in host memory from `a` on (DESIGN CHOICE, log 35). -/
def State.streamTo (s : State) (a n : Nat) : State :=
  s.putHostRange a n (s.mem.dram.filterMap (fun e =>
    let o := streamOffset s.mem.mbound e.1
    if o < n then some (a + o, e.2) else none))

/-- The bytes of the stream that host memory holds from `a` on, those that are not zero, by offset. -/
def State.streamed (s : State) (a n : Nat) : SMap Byte :=
  s.host.mem.filterMap (fun e => if a ≤ e.1 ∧ e.1 < a + n then some (e.1 - a, e.2) else none)

/-- Device memory holds the first n bytes of a stream in host memory from `a` on; no copy of a line stays. -/
def State.streamFrom (s : State) (mbound a n : Nat) : State :=
  let old := s.mem.dram.filter (fun e => decide (n ≤ streamOffset mbound e.1))
  let new := (s.streamed a n).map (fun e => (streamKey mbound e.1, e.2))
  { s with
    l2 := []
    dieDir := []
    cores := s.cores.map (fun (e : Nat × Core) => (e.1, { e.2 with l1 := [] }))
    mem := { s.mem with
      dram := SMap.join 0 old new
      poison := s.mem.poison.filter (fun e => decide (n ≤ streamOffset mbound e.1))
      tcache := [] } }

/-- The header of a checkpoint. -/
def State.streamHeader (s : State) (dg : List Byte) : List Byte :=
  let tags := s.contextTags.foldl (fun m c => m + 2 ^ c.toNat) 0
  padTo headerArea (bytesNat 4 0x5A434B50 ++ bytesNat 4 1 ++ bytesNat 8 s.deviceBytes ++
    (List.replicate 8 (bytesNat 8 s.dieMiB)).flatten ++ padTo 64 dg ++ padTo 16 Config.serial ++ bytesNat 32 tags ++
    bytes64 s.mem.ctxtab ++ bytesNat 4 s.mem.mbound)

/-- Write the header area. -/
def State.putHeader (s : State) (a : Nat) (bs : List Byte) : State :=
  s.putHostRange a headerArea (bs.zipIdx.map (fun x => (a + x.2, x.1)))

/-! ### CHECKPOINT (R83, R84, R88) -/

/-- The lines of other devices that this one holds dirty. -/
def State.dirtyAbroad (s : State) : List LineAddr :=
  s.fab.lines.filterMap (fun (e : Nat × Option SysLine) =>
    let g : LineAddr := BitVec.ofNat 41 e.1
    if homeDevice g ≠ s.fab.cfg.devno ∧ (s.sysLine g).dirty = true then some g else none)

/-- The lines homed here that a switch knows to be owned by another device. -/
def State.ownedAway (s : State) : List LineAddr :=
  let mine := s.fab.cfg.devno
  s.fab.switches.flatMap (fun (e : Nat × Switch) =>
    (e.2.owned.filter (fun x => homeDevice x.gla == mine && x.own != mine)).map (fun x => x.gla))

/-- Lines of other devices that this one holds dirty are written back, and lines homed here are recalled from their owners, who
keep shared copies. -/
def State.settleFabric (s : State) : State :=
  let s := s.dirtyAbroad.foldl State.evictSys s
  s.ownedAway.foldl (fun s g => s.missSys (fabricVa g) false) s

/-- A checkpoint begins: every context is paused, and the header area is zero (steps 1 to 4). With the IHL down it is answered as one
that has lost it (DESIGN CHOICE, log 35). -/
def State.checkpointCue (s : State) (die : Nat) (cue : List Byte) : State :=
  let (a, n) := (field cue 16 8, field cue 24 8)
  if n < s.deviceBytes + headerArea then s.cueBadOwn die cue
  else if !s.ihlUp then s.cueBad die cue 3
  else
    let x : Stream := { restore := false, href := BitVec.ofNat 32 (field cue 0 4), die := die, safe := BitVec.ofNat 64 a,
                        size := BitVec.ofNat 64 n, started := s.clk }
    ((s.mapPkg (fun p => { p with
      mode := 5
      stream := some x })).settleFabric).putHeader a []

/-- R83. -/
def execCueCheckpoint (die : Fin 8) (s : State) : Host.Outcome State Fault Refusal :=
  .next (s.withCue die.val (isKind 0x07) (fun cue => bodyZero cue [(16, 16)]) (fun cue s => s.checkpointCue die.val cue))

/-- The contexts of cores that have images to write: core and context, where the image table names an area (R263). -/
def State.imageContexts (s : State) : List (Nat × Ctx) :=
  s.cores.flatMap (fun (e : Nat × Core) =>
    ((e.2.active.toList ++ e.2.shadows.map (fun x => x.ctx)).filter (fun c =>
      c != 0 && s.imageEntry (e.1 / 64) c != 0)).map (fun c => (e.1, c)))

/-- What a paused context has in flight is complete. -/
def State.allPaused (s : State) : Bool :=
  s.cur.isNone && (s.groupsWhere (fun g => g.ctx != 0)).all (fun e => !s.speculates e.1 && !s.inUnit e.1 && e.2.undone.isEmpty)

/-- A stream ends: the device runs again. -/
def State.streamOver (s : State) : State :=
  s.mapPkg (fun p => { p with
    mode := 3
    stream := none })

/-- An event that answers the cue of a stream. -/
def State.streamAnswer (s : State) (x : Stream) (kind : Nat) (body : List (Nat × List Byte)) : State :=
  s.streamOver.dirEvent { kind := kind, src := x.die, href := x.href, body := body }

/-- The images are written, memory is streamed, the header makes the image complete, and CHECKPOINT_DONE is sent. -/
def State.finishCheckpoint (s : State) (x : Stream) : State :=
  let a := x.safe.toNat
  let s := s.imageContexts.foldl (fun s e => s.writeImage e.1 e.2) s
  let s := s.streamTo (a + headerArea) s.deviceBytes
  let s := s.putHeader a (s.streamHeader (Config.streamDigest (s.streamed (a + headerArea) s.deviceBytes)))
  s.streamAnswer x 0x0A [(16, bytesNat 8 (s.deviceBytes + headerArea)), (24, bytesNat 4 ((s.clk - x.started) / 1400000))]

/-- The reason word of an interruption (R88). -/
def whyCode (w : InterruptWhy) : Word :=
  match w with
  | .poison => 2
  | .lostLink => 3
  | .refused => 4

/-- A checkpoint stops: its header area stays zero, some bytes of the stream, how many is open, have been written
(DESIGN CHOICE, log 35). -/
def State.checkpointStops (s : State) (w : InterruptWhy) : State :=
  match s.pkg.stream with
  | some x =>
    if x.restore then s
    else
      let a := x.safe.toNat
      let (y, s) := s.free
      let s := (s.putHeader a []).streamTo (a + headerArea) (y.toNat % s.deviceBytes)
      s.streamAnswer x 0x05 [(16, bytesOfWord (whyCode w))]
  | none => s

/-- CHECKPOINT_COMPLETE, once everything in flight is complete and the fabric has given back what it holds; a link that is down, or a
poisoned line, stops the stream (R88). -/
def State.checkpointComplete (s : State) : State :=
  match s.pkg.stream with
  | none => s
  | some x =>
    if x.restore || !s.allPaused then s
    else if !s.ihlUp then s.checkpointStops .lostLink
    else if !s.mem.poison.isEmpty then s.checkpointStops .poison
    else if !s.dirtyAbroad.isEmpty || !s.ownedAway.isEmpty then s.settleFabric
    else s.finishCheckpoint x

/-- R84. -/
def execCheckpointComplete (s : State) : Host.Outcome State Fault Refusal := .next s.checkpointComplete

/-- R88. -/
def execCheckpointInterrupt (why : InterruptWhy) (s : State) : Host.Outcome State Fault Refusal :=
  .next (s.checkpointStops why)

/-! ### RESTORE (R85, R88) -/

/-- n bytes of host memory as a number. -/
def State.hostField (s : State) (a n : Nat) : Nat := natOfBytes (s.hostBytes a n)

/-- The checks of a header at `a`, with a safe-tier area of `size` bytes. -/
def State.headerOk (s : State) (a size : Nat) : Bool :=
  let dies := (List.range 8).map (fun d => s.hostField (a + 16 + 8 * d) 8)
  s.hostField a 4 == 0x5A434B50 && s.hostField (a + 4) 4 == 1 && s.hostField (a + 8) 8 == dies.sum * 2 ^ 20 &&
  dies.all (· == s.dieMiB) && decide (headerArea + s.hostField (a + 8) 8 ≤ size)

/-- A restore begins: every context ends with CTX_FAILED, reason 2. -/
def State.restoreCue (s : State) (die : Nat) (cue : List Byte) : State :=
  let (a, n) := (field cue 16 8, field cue 24 8)
  if !s.headerOk a n then s.cueBad die cue 1
  else
    let x : Stream := { restore := true, href := BitVec.ofNat 32 (field cue 0 4), die := die, safe := BitVec.ofNat 64 a,
                        size := BitVec.ofNat 64 n, started := s.clk }
    let s := s.mapPkg (fun p => { p with
      mode := 7
      stream := some x })
    s.contextTags.foldl (fun s c => s.failContext c 2) s

/-- R85. -/
def execCueRestore (die : Fin 8) (s : State) : Host.Outcome State Fault Refusal :=
  .next (s.withCue die.val (isKind 0x08) (fun cue => bodyZero cue [(16, 16)]) (fun cue s => s.restoreCue die.val cue))

/-- A context of a restored image, as its descriptor describes it; what only the Director knew of it is lost with the device's
state (DESIGN CHOICE, log 12). -/
def State.recreate (s : State) (c : Ctx) : State :=
  s.setContext c.toNat { killed := false, resilient := s.descriptor c 33 1 % 2 == 1, safe := 0, safeSize := 0, interval := 0,
                         ckpts := 0, ckptAt := 0, guarded := [], failures := 0, saved := none, redo := [], heldEvts := [] }

/-- A group as far as the identity in its image gives it (R265); the rest comes when the image is streamed in. -/
def State.imageGroup (s : State) (c : Ctx) (die core n base : Nat) : Group :=
  let rd := fun (o k : Nat) => s.phys (base + 0x10000 + 0x4000 * n + 0x0680 + o) k
  let w := fun (o : Nat) => BitVec.ofNat 32 (rd o 4)
  let b : LaunchBlock :=
    { entry := 0, tdim := (w 12, w 16, w 20), gwc := rd 46 1 % 3, ngrp := rd 24 4, nvr := rd 44 1, ntile := rd 45 1, scrb := 0,
      fifon := 0, prio := 0, pair := false, dep := false, ctx := c, depva := 0, depval := 0, cmpva := 0, argp := 0 }
  let team := (w 0).toNat + (w 12).toNat * ((w 4).toNat + (w 16).toNat * (w 8).toNat)
  { Group.start { die := die, core := core, quarter := n / 16, slot := n % 16 } b (w 32) team (rd 28 4) 0 0 s.clk with
    place := .pending }

/-- The groups of a group's team on the package. -/
def State.joinTeam (s : State) (g : Group) : State :=
  match s.team? g.teamId with
  | some t => s.setTeam g.teamId { t with groups := t.groups ++ [g.gid] }
  | none =>
    let t : Team :=
      { lid := g.lid.toNat, index := g.team, die := g.die, core := g.core, paired := false, ctx := g.ctx, scrb := 0,
        groups := [g.gid], ended := [], scratch := [], fifoBk := [], fifos := [], ph := 0, arrived := [], losses := 0 }
    s.setTeam g.teamId t

/-- The image of a context on a core, if memory holds one, makes its groups resident again: the context waits in memory. -/
def State.resumeImage (s : State) (c : Ctx) (core : Nat) : State :=
  let die := core / 64
  let base := s.imageBase core c
  let hd := fun (o k : Nat) => s.phys (base + o) k
  if s.imageEntry die c = 0 ∨ hd 0 4 ≠ 0x4358494D ∨ hd 4 1 ≠ c.toNat ∨ hd 5 1 ≠ core % 64 ∨ hd 6 1 ≠ die then s
  else
    let occ := hd 8 8
    let s := ((List.range 64).filter (fun n => occ / 2 ^ n % 2 == 1)).foldl (fun s n =>
      let g := s.imageGroup c die (core % 64) n base
      (s.setGroup g.gid g).joinTeam g) s
    let k := s.core core
    s.setCore core { k with inMem := k.inMem ++ [c] }

/-- Every image of a context. -/
def State.resumeImages (s : State) (c : Ctx) : State := (List.range 512).foldl (fun s k => s.resumeImage c k) s

/-- The whole stream is in device memory; `mbound` of the header places it. -/
def State.loadStream (s : State) (x : Stream) : State :=
  let a := x.safe.toNat
  s.streamFrom (s.hostField (a + 200) 4) (a + headerArea) s.deviceBytes

/-- A restore's stream has ended: with the right digest the contexts of the bitmap exist again; else nothing resumes. -/
def State.finishRestore (s : State) (x : Stream) : State :=
  let a := x.safe.toNat
  let good := padTo 64 (Config.streamDigest (s.streamed (a + headerArea) s.deviceBytes)) == s.hostBytes (a + 80) 64
  let s := s.loadStream x
  if good then
    let s := { s with mem := { s.mem with
      ctxtab := BitVec.ofNat 64 (s.hostField (a + 192) 8)
      mbound := s.hostField (a + 200) 4 } }
    let map := s.hostField (a + 160) 32
    let tags := (List.range 256).filter (fun c => c != 0 && map / 2 ^ c % 2 == 1)
    let s := tags.foldl (fun s c => (s.recreate (BitVec.ofNat 8 c)).resumeImages (BitVec.ofNat 8 c)) s
    s.streamAnswer x 0x02 []
  else s.streamAnswer x 0x05 [(16, bytesNat 4 2)]

/-- RESTORE_STREAM_COMPLETE. -/
def State.restoreComplete (s : State) : State :=
  match s.pkg.stream with
  | some x => if x.restore then s.finishRestore x else s
  | none => s

/-- R85. -/
def execRestoreStreamComplete (s : State) : Host.Outcome State Fault Refusal := .next s.restoreComplete

/-- A restore stops: device memory holds what has been streamed, and every other byte is unchanged. An uncorrectable error at the
byte that is written does not stop it: the frame is retired. -/
def State.restoreStops (s : State) (w : InterruptWhy) (n : Nat) : State :=
  match s.pkg.stream with
  | some x =>
    if !x.restore then s
    else if w = .poison then s.retireFrame (streamKey (s.hostField (x.safe.toNat + 200) 4) n / 128 * 128)
    else
      let a := x.safe.toNat
      (s.streamFrom (s.hostField (a + 200) 4) (a + headerArea) (min n s.deviceBytes)).streamAnswer x 0x05
        [(16, bytesOfWord (whyCode w))]
  | none => s

/-- R88. -/
def execRestoreInterrupt (why : InterruptWhy) (streamed : Nat) (s : State) : Host.Outcome State Fault Refusal :=
  .next (s.restoreStops why streamed)

end Sys2Proof.Machine
end

