-- ==== Sys2Proof/Machine/Dispatch.lean ====
section
/-! DEFINITION. One arm per instruction: a call of its meaning, or its rejection by name. -/

namespace Sys2Proof.Machine

open Sys2Proof

/-- The effect of an instruction or event on the state. -/
def exec (i : Instr) (s : State) : Host.Outcome State Fault Refusal :=
  match i with
  | .nop f => Sys2Proof.Machine.execNop f s
  | .setm f => Sys2Proof.Machine.execSetm f s
  | .getm f => Sys2Proof.Machine.execGetm f s
  | .sysr f => Sys2Proof.Machine.execSysr f s
  | .sysw f => Sys2Proof.Machine.execSysw f s
  | .trap f => Sys2Proof.Machine.execTrap f s
  | .rtt f => Sys2Proof.Machine.execRtt f s
  | .exit f => Sys2Proof.Machine.execExit f s
  | .yield f => Sys2Proof.Machine.execYield f s
  | .brkpt f => Sys2Proof.Machine.execBrkpt f s
  | .wait f => Sys2Proof.Machine.execWait f s
  | .waitx f => Sys2Proof.Machine.execWaitx f s
  | .fence f => Sys2Proof.Machine.execFence f s
  | .homeq f => Sys2Proof.Machine.execHomeq f s
  | .launch f => Sys2Proof.Machine.execLaunch f s
  | .recv f => Sys2Proof.Machine.execRecv f s
  | .send f => Sys2Proof.Machine.execSend f s
  | .bankcfg f => Sys2Proof.Machine.execBankcfg f s
  | .bara f => Sys2Proof.Machine.execBara f s
  | .barw f => Sys2Proof.Machine.execBarw f s
  | .baraw f => Sys2Proof.Machine.execBaraw f s
  | .chkw f => Sys2Proof.Machine.execChkw f s
  | .wclr f => Sys2Proof.Machine.execWclr f s
  | .clnr f => Sys2Proof.Machine.execClnr f s
  | .invr f => Sys2Proof.Machine.execInvr f s
  | .flsr f => Sys2Proof.Machine.execFlsr f s
  | .pref f => Sys2Proof.Machine.execPref f s
  | .resid f => Sys2Proof.Machine.execResid f s
  | .bra f => Sys2Proof.Machine.execBra f s
  | .brz f => Sys2Proof.Machine.execBrz f s
  | .brnz f => Sys2Proof.Machine.execBrnz f s
  | .call f => Sys2Proof.Machine.execCall f s
  | .ret f => Sys2Proof.Machine.execRet f s
  | .jmpr f => Sys2Proof.Machine.execJmpr f s
  | .condIf f => Sys2Proof.Machine.execCondIf f s
  | .condElse f => Sys2Proof.Machine.execCondElse f s
  | .condEndif f => Sys2Proof.Machine.execCondEndif f s
  | .loop f => Sys2Proof.Machine.execLoop f s
  | .brk f => Sys2Proof.Machine.execBrk f s
  | .cont f => Sys2Proof.Machine.execCont f s
  | .endl f => Sys2Proof.Machine.execEndl f s
  | .split f => Sys2Proof.Machine.execSplit f s
  | .join f => Sys2Proof.Machine.execJoin f s
  | .smov f => Sys2Proof.Machine.execSmov f s
  | .sadd f => Sys2Proof.Machine.execSadd f s
  | .ssub f => Sys2Proof.Machine.execSsub f s
  | .smul f => Sys2Proof.Machine.execSmul f s
  | .smulh f => Sys2Proof.Machine.execSmulh f s
  | .sand f => Sys2Proof.Machine.execSand f s
  | .sor f => Sys2Proof.Machine.execSor f s
  | .sxor f => Sys2Proof.Machine.execSxor f s
  | .sshl f => Sys2Proof.Machine.execSshl f s
  | .sshr f => Sys2Proof.Machine.execSshr f s
  | .ssra f => Sys2Proof.Machine.execSsra f s
  | .smin f => Sys2Proof.Machine.execSmin f s
  | .smax f => Sys2Proof.Machine.execSmax f s
  | .sceq f => Sys2Proof.Machine.execSceq f s
  | .sclt f => Sys2Proof.Machine.execSclt f s
  | .scltu f => Sys2Proof.Machine.execScltu f s
  | .ssel f => Sys2Proof.Machine.execSsel f s
  | .sadd64 f => Sys2Proof.Machine.execSadd64 f s
  | .ssub64 f => Sys2Proof.Machine.execSsub64 f s
  | .spopc f => Sys2Proof.Machine.execSpopc f s
  | .sclz f => Sys2Proof.Machine.execSclz f s
  | .sdivu f => Sys2Proof.Machine.execSdivu f s
  | .sremu f => Sys2Proof.Machine.execSremu f s
  | .sbfe f => Sys2Proof.Machine.execSbfe f s
  | .vmov f => Sys2Proof.Machine.execVmov f s
  | .vbcast f => Sys2Proof.Machine.execVbcast f s
  | .vlane f => Sys2Proof.Machine.execVlane f s
  | .vadd f => Sys2Proof.Machine.execVadd f s
  | .vsub f => Sys2Proof.Machine.execVsub f s
  | .vmul f => Sys2Proof.Machine.execVmul f s
  | .vfma f => Sys2Proof.Machine.execVfma f s
  | .vmin f => Sys2Proof.Machine.execVmin f s
  | .vmax f => Sys2Proof.Machine.execVmax f s
  | .vabs f => Sys2Proof.Machine.execVabs f s
  | .vneg f => Sys2Proof.Machine.execVneg f s
  | .vdiv f => Sys2Proof.Machine.execVdiv f s
  | .vrem f => Sys2Proof.Machine.execVrem f s
  | .vmulh f => Sys2Proof.Machine.execVmulh f s
  | .vand f => Sys2Proof.Machine.execVand f s
  | .vor f => Sys2Proof.Machine.execVor f s
  | .vxor f => Sys2Proof.Machine.execVxor f s
  | .vnot f => Sys2Proof.Machine.execVnot f s
  | .vshl f => Sys2Proof.Machine.execVshl f s
  | .vshr f => Sys2Proof.Machine.execVshr f s
  | .vsra f => Sys2Proof.Machine.execVsra f s
  | .vceq f => Sys2Proof.Machine.execVceq f s
  | .vcne f => Sys2Proof.Machine.execVcne f s
  | .vclt f => Sys2Proof.Machine.execVclt f s
  | .vcle f => Sys2Proof.Machine.execVcle f s
  | .vcun f => Sys2Proof.Machine.execVcun f s
  | .vsel f => Sys2Proof.Machine.execVsel f s
  | .vpopc f => Sys2Proof.Machine.execVpopc f s
  | .vclz f => Sys2Proof.Machine.execVclz f s
  | .vbfe f => Sys2Proof.Machine.execVbfe f s
  | .vbfi f => Sys2Proof.Machine.execVbfi f s
  | .vpand f => Sys2Proof.Machine.execVpand f s
  | .vpor f => Sys2Proof.Machine.execVpor f s
  | .vpnot f => Sys2Proof.Machine.execVpnot f s
  | .vrcp f => Sys2Proof.Machine.execVrcp f s
  | .vrsq f => Sys2Proof.Machine.execVrsq f s
  | .vsqrt f => Sys2Proof.Machine.execVsqrt f s
  | .vex2 f => Sys2Proof.Machine.execVex2 f s
  | .vlg2 f => Sys2Proof.Machine.execVlg2 f s
  | .vsin f => Sys2Proof.Machine.execVsin f s
  | .vcos f => Sys2Proof.Machine.execVcos f s
  | .vflr f => Sys2Proof.Machine.execVflr f s
  | .vceil f => Sys2Proof.Machine.execVceil f s
  | .vrnd f => Sys2Proof.Machine.execVrnd f s
  | .vclass f => Sys2Proof.Machine.execVclass f s
  | .vmovi f => Sys2Proof.Machine.execVmovi f s
  | .vpset f => Sys2Proof.Machine.execVpset f s
  | .cvt f => Sys2Proof.Machine.execCvt f s
  | .vpk2 f => Sys2Proof.Machine.execVpk2 f s
  | .vpk4 f => Sys2Proof.Machine.execVpk4 f s
  | .vpk8 f => Sys2Proof.Machine.execVpk8 f s
  | .vunpk f => Sys2Proof.Machine.execVunpk f s
  | .dot4 f => Sys2Proof.Machine.execDot4 f s
  | .dot8 f => Sys2Proof.Machine.execDot8 f s
  | .idot4 f => Sys2Proof.Machine.execIdot4 f s
  | .qblk f => Sys2Proof.Machine.execQblk f s
  | .qblkn f => Sys2Proof.Machine.execQblkn f s
  | .vscl f => Sys2Proof.Machine.execVscl f s
  | .shfl f => Sys2Proof.Machine.execShfl f s
  | .shflx f => Sys2Proof.Machine.execShflx f s
  | .voteany f => Sys2Proof.Machine.execVoteany f s
  | .voteall f => Sys2Proof.Machine.execVoteall f s
  | .ballot f => Sys2Proof.Machine.execBallot f s
  | .gred f => Sys2Proof.Machine.execGred f s
  | .gscan f => Sys2Proof.Machine.execGscan f s
  | .mma f => Sys2Proof.Machine.execMma f s
  | .mmaz f => Sys2Proof.Machine.execMmaz f s
  | .tzero f => Sys2Proof.Machine.execTzero f s
  | .tld f => Sys2Proof.Machine.execTld f s
  | .tst f => Sys2Proof.Machine.execTst f s
  | .tfrag f => Sys2Proof.Machine.execTfrag f s
  | .tfill f => Sys2Proof.Machine.execTfill f s
  | .tmaxr f => Sys2Proof.Machine.execTmaxr f s
  | .texps f => Sys2Proof.Machine.execTexps f s
  | .tnorm f => Sys2Proof.Machine.execTnorm f s
  | .tfft f => Sys2Proof.Machine.execTfft f s
  | .tfstg f => Sys2Proof.Machine.execTfstg f s
  | .tbrev f => Sys2Proof.Machine.execTbrev f s
  | .twid f => Sys2Proof.Machine.execTwid f s
  | .tscl f => Sys2Proof.Machine.execTscl f s
  | .tcvt f => Sys2Proof.Machine.execTcvt f s
  | .ldb f => Sys2Proof.Machine.execLdb f s
  | .ldh f => Sys2Proof.Machine.execLdh f s
  | .ldw f => Sys2Proof.Machine.execLdw f s
  | .ldd f => Sys2Proof.Machine.execLdd f s
  | .ldq f => Sys2Proof.Machine.execLdq f s
  | .stb f => Sys2Proof.Machine.execStb f s
  | .sth f => Sys2Proof.Machine.execSth f s
  | .stw f => Sys2Proof.Machine.execStw f s
  | .std f => Sys2Proof.Machine.execStd f s
  | .stq f => Sys2Proof.Machine.execStq f s
  | .ldsw f => Sys2Proof.Machine.execLdsw f s
  | .ldsd f => Sys2Proof.Machine.execLdsd f s
  | .stsw f => Sys2Proof.Machine.execStsw f s
  | .stsd f => Sys2Proof.Machine.execStsd f s
  | .lduw f => Sys2Proof.Machine.execLduw f s
  | .ldud f => Sys2Proof.Machine.execLdud f s
  | .lduq f => Sys2Proof.Machine.execLduq f s
  | .lldw f => Sys2Proof.Machine.execLldw f s
  | .lldq f => Sys2Proof.Machine.execLldq f s
  | .lstw f => Sys2Proof.Machine.execLstw f s
  | .lstq f => Sys2Proof.Machine.execLstq f s
  | .qenq f => Sys2Proof.Machine.execQenq f s
  | .qdeq f => Sys2Proof.Machine.execQdeq f s
  | .aadd f => Sys2Proof.Machine.execAadd f s
  | .amin f => Sys2Proof.Machine.execAmin f s
  | .amax f => Sys2Proof.Machine.execAmax f s
  | .aand f => Sys2Proof.Machine.execAand f s
  | .aor f => Sys2Proof.Machine.execAor f s
  | .axor f => Sys2Proof.Machine.execAxor f s
  | .axch f => Sys2Proof.Machine.execAxch f s
  | .acas f => Sys2Proof.Machine.execAcas f s
  | .afadd f => Sys2Proof.Machine.execAfadd f s
  | .radd f => Sys2Proof.Machine.execRadd f s
  | .rfadd f => Sys2Proof.Machine.execRfadd f s
  | .rmin f => Sys2Proof.Machine.execRmin f s
  | .rmax f => Sys2Proof.Machine.execRmax f s
  | .cpy f => Sys2Proof.Machine.execCpy f s
  | .cpya f => Sys2Proof.Machine.execCpya f s
  | .cpyr f => Sys2Proof.Machine.execCpyr f s
  | .cpyar f => Sys2Proof.Machine.execCpyar f s
  | .cpy2d f => Sys2Proof.Machine.execCpy2d f s
  | .vapp f => Sys2Proof.Machine.execVapp f s
  | .vstamp f => Sys2Proof.Machine.execVstamp f s
  | .vdrop f => Sys2Proof.Machine.execVdrop f s
  | .vget f => Sys2Proof.Machine.execVget f s
  | .vconn f => Sys2Proof.Machine.execVconn f s
  | .vmrg f => Sys2Proof.Machine.execVmrg f s
  | .vrwt f => Sys2Proof.Machine.execVrwt f s
  | .vret f => Sys2Proof.Machine.execVret f s
  | .sight f => Sys2Proof.Machine.execSight f s
  | .sighta f => Sys2Proof.Machine.execSighta f s
  | .unassignedOpcode w => Sys2Proof.Machine.execUnassignedOpcode w s
  | .loadReply gid => Sys2Proof.Machine.execLoadReply gid s
  | .storePerformed gid => Sys2Proof.Machine.execStorePerformed gid s
  | .atomicReply gid => Sys2Proof.Machine.execAtomicReply gid s
  | .copyComplete gid => Sys2Proof.Machine.execCopyComplete gid s
  | .tileUnitDone gid => Sys2Proof.Machine.execTileUnitDone gid s
  | .fifoReady gid => Sys2Proof.Machine.execFifoReady gid s
  | .launchAnswer op => Sys2Proof.Machine.execLaunchAnswer op s
  | .wingsReply op => Sys2Proof.Machine.execWingsReply op s
  | .engineAppend op => Sys2Proof.Machine.execEngineAppend op s
  | .appendSealed op => Sys2Proof.Machine.execAppendSealed op s
  | .engineStamp op => Sys2Proof.Machine.execEngineStamp op s
  | .stampReturn op => Sys2Proof.Machine.execStampReturn op s
  | .engineDrop op => Sys2Proof.Machine.execEngineDrop op s
  | .engineGet op => Sys2Proof.Machine.execEngineGet op s
  | .engineConnect op => Sys2Proof.Machine.execEngineConnect op s
  | .engineMerge op => Sys2Proof.Machine.execEngineMerge op s
  | .engineReweight op => Sys2Proof.Machine.execEngineReweight op s
  | .engineRetire op => Sys2Proof.Machine.execEngineRetire op s
  | .sightlineQuery op => Sys2Proof.Machine.execSightlineQuery op s
  | .uwtResolution core entry => Sys2Proof.Machine.execUwtResolution core entry s
  | .renewalReply gid => Sys2Proof.Machine.execRenewalReply gid s
  | .ticketGrant scope => Sys2Proof.Machine.execTicketGrant scope s
  | .dependenceNotify launch => Sys2Proof.Machine.execDependenceNotify launch s
  | .teamEnd team => Sys2Proof.Machine.execTeamEnd team s
  | .completionIncrement launch => Sys2Proof.Machine.execCompletionIncrement launch s
  | .groupEnd gid => Sys2Proof.Machine.execGroupEnd gid s
  | .barrierPhaseComplete team k => Sys2Proof.Machine.execBarrierPhaseComplete team k s
  | .killRecordDelivery die => Sys2Proof.Machine.execKillRecordDelivery die s
  | .lateFault gid => Sys2Proof.Machine.execLateFault gid s
  | .watchdogExpiry gid level => Sys2Proof.Machine.execWatchdogExpiry gid level s
  | .spinDemotion gid slot => Sys2Proof.Machine.execSpinDemotion gid slot s
  | .demotionEnd gid slot => Sys2Proof.Machine.execDemotionEnd gid slot s
  | .recvTimeout gid => Sys2Proof.Machine.execRecvTimeout gid s
  | .bankDrainComplete pair bank => Sys2Proof.Machine.execBankDrainComplete pair bank s
  | .rebaseComplete die slice => Sys2Proof.Machine.execRebaseComplete die slice s
  | .containmentAction line => Sys2Proof.Machine.execContainmentAction line s
  | .contextRestore ctx failed => Sys2Proof.Machine.execContextRestore ctx failed s
  | .directorReady die => Sys2Proof.Machine.execDirectorReady die s
  | .ihlReadReply refused line => Sys2Proof.Machine.execIhlReadReply refused line s
  | .ihlWriteAck refused => Sys2Proof.Machine.execIhlWriteAck refused s
  | .ctLimitSweep die => Sys2Proof.Machine.execCtLimitSweep die s
  | .railsInRange => Sys2Proof.Machine.execRailsInRange s
  | .powerRemoval => Sys2Proof.Machine.execPowerRemoval s
  | .sensorSample readings => Sys2Proof.Machine.execSensorSample readings s
  | .thermalTripEvent => Sys2Proof.Machine.execThermalTripEvent s
  | .thermTripNAssert => Sys2Proof.Machine.execThermTripNAssert s
  | .powerCapEvaluation watts => Sys2Proof.Machine.execPowerCapEvaluation watts s
  | .plimWrite die watts => Sys2Proof.Machine.execPlimWrite die watts s
  | .railOutOfRange rail => Sys2Proof.Machine.execRailOutOfRange rail s
  | .flitSend link kind vc msgs => Sys2Proof.Machine.execFlitSend link kind vc msgs s
  | .flitReceive link flit => Sys2Proof.Machine.execFlitReceive link flit s
  | .retryRequest link seq => Sys2Proof.Machine.execRetryRequest link seq s
  | .linkRetrain link => Sys2Proof.Machine.execLinkRetrain link s
  | .retrainComplete link ok dropped => Sys2Proof.Machine.execRetrainComplete link ok dropped s
  | .readRequest slot r => Sys2Proof.Machine.execReadRequest slot r s
  | .ownershipRequest slot r => Sys2Proof.Machine.execOwnershipRequest slot r s
  | .writeback slot r line => Sys2Proof.Machine.execWriteback slot r line s
  | .ownershipNote alternate primary g own st => Sys2Proof.Machine.execOwnershipNote alternate primary g own st s
  | .ownershipNoteAck primary g => Sys2Proof.Machine.execOwnershipNoteAck primary g s
  | .invalidationAcknowledgement slot g port => Sys2Proof.Machine.execInvalidationAcknowledgement slot g port s
  | .ownerData slot g dev dirty line => Sys2Proof.Machine.execOwnerData slot g dev dirty line s
  | .noCopyReply slot g dev => Sys2Proof.Machine.execNoCopyReply slot g dev s
  | .sweepAcknowledgement dev => Sys2Proof.Machine.execSweepAcknowledgement dev s
  | .waitingNoticeTimer slot => Sys2Proof.Machine.execWaitingNoticeTimer slot s
  | .dataGrant g st line => Sys2Proof.Machine.execDataGrant g st line s
  | .grantWithoutData g => Sys2Proof.Machine.execGrantWithoutData g s
  | .invalidation slot g => Sys2Proof.Machine.execInvalidation slot g s
  | .forwardRead slot g => Sys2Proof.Machine.execForwardRead slot g s
  | .forwardInvalidate slot g => Sys2Proof.Machine.execForwardInvalidate slot g s
  | .writebackAcknowledgement g => Sys2Proof.Machine.execWritebackAcknowledgement g s
  | .waitingNotice g => Sys2Proof.Machine.execWaitingNotice g s
  | .invalidateAndWritebackSweep first last lost => Sys2Proof.Machine.execInvalidateAndWritebackSweep first last lost s
  | .switchLossDeclaration slot bySwitch by_ => Sys2Proof.Machine.execSwitchLossDeclaration slot bySwitch by_ s
  | .switchLossTimeout g => Sys2Proof.Machine.execSwitchLossTimeout g s
  | .sweepComplete slot => Sys2Proof.Machine.execSweepComplete slot s
  | .ownershipNotesResend lost => Sys2Proof.Machine.execOwnershipNotesResend lost s
  | .hostMemoryRead off => Sys2Proof.Machine.execHostMemoryRead off s
  | .hostMemoryWrite off en line => Sys2Proof.Machine.execHostMemoryWrite off en line s
  | .managementAccess write off value => Sys2Proof.Machine.execManagementAccess write off value s
  | .evtAckWrite value => Sys2Proof.Machine.execEvtAckWrite value s
  | .evtReplayWrite value => Sys2Proof.Machine.execEvtReplayWrite value s
  | .eventRingConfig reg value => Sys2Proof.Machine.execEventRingConfig reg value s
  | .hmwSelWrite value => Sys2Proof.Machine.execHmwSelWrite value s
  | .bootCtlGo => Sys2Proof.Machine.execBootCtlGo s
  | .bootCtlClr => Sys2Proof.Machine.execBootCtlClr s
  | .bootCtlRst => Sys2Proof.Machine.execBootCtlRst s
  | .mscmodeWrite value => Sys2Proof.Machine.execMscmodeWrite value s
  | .cueArrival off bytes => Sys2Proof.Machine.execCueArrival off bytes s
  | .cueLaunch die => Sys2Proof.Machine.execCueLaunch die s
  | .cueMap die => Sys2Proof.Machine.execCueMap die s
  | .cueUnmap die => Sys2Proof.Machine.execCueUnmap die s
  | .cueCtxCreate die => Sys2Proof.Machine.execCueCtxCreate die s
  | .cueCtxDestroy die => Sys2Proof.Machine.execCueCtxDestroy die s
  | .cueKill die => Sys2Proof.Machine.execCueKill die s
  | .cueCheckpoint die => Sys2Proof.Machine.execCueCheckpoint die s
  | .cueRestore die => Sys2Proof.Machine.execCueRestore die s
  | .cueAttest => Sys2Proof.Machine.execCueAttest s
  | .partitionHeader die => Sys2Proof.Machine.execPartitionHeader die s
  | .partitionMembers die => Sys2Proof.Machine.execPartitionMembers die s
  | .partitionHomeTable die => Sys2Proof.Machine.execPartitionHomeTable die s
  | .partitionPortMap die => Sys2Proof.Machine.execPartitionPortMap die s
  | .partitionCommit die => Sys2Proof.Machine.execPartitionCommit die s
  | .cueDirectorDefined die => Sys2Proof.Machine.execCueDirectorDefined die s
  | .eventWrite => Sys2Proof.Machine.execEventWrite s
  | .ihlInterrupt => Sys2Proof.Machine.execIhlInterrupt s
  | .goTimeout => Sys2Proof.Machine.execGoTimeout s
  | .bootImageRead => Sys2Proof.Machine.execBootImageRead s
  | .dieBringUpDone r => Sys2Proof.Machine.execDieBringUpDone r s
  | .readyTimeout => Sys2Proof.Machine.execReadyTimeout s
  | .checkpointComplete => Sys2Proof.Machine.execCheckpointComplete s
  | .checkpointInterrupt why => Sys2Proof.Machine.execCheckpointInterrupt why s
  | .restoreStreamComplete => Sys2Proof.Machine.execRestoreStreamComplete s
  | .restoreInterrupt why streamed => Sys2Proof.Machine.execRestoreInterrupt why streamed s
  | .incrementalCheckpoint ctx => Sys2Proof.Machine.execIncrementalCheckpoint ctx s
  | .invalidatePage ctx va => Sys2Proof.Machine.execInvalidatePage ctx va s
  | .invalidateContext ctx => Sys2Proof.Machine.execInvalidateContext ctx s
  | .invalidateAll => Sys2Proof.Machine.execInvalidateAll s
  | .invalidationComplete => Sys2Proof.Machine.execInvalidationComplete s
  | .mboundWrite value => Sys2Proof.Machine.execMboundWrite value s
  | .ctxtabWrite high value => Sys2Proof.Machine.execCtxtabWrite high value s
  | .llctlWrite die value => Sys2Proof.Machine.execLlctlWrite die value s
  | .memCorrectedReport die channel count => Sys2Proof.Machine.execMemCorrectedReport die channel count s
  | .patrolScrub die channel addr outcome => Sys2Proof.Machine.execPatrolScrub die channel addr outcome s
  | .partitionReset base => Sys2Proof.Machine.execPartitionReset base s
  | .leaseRenewal core ctx va => Sys2Proof.Machine.execLeaseRenewal core ctx va s
  | .sliceStore core ctx va en line => Sys2Proof.Machine.execSliceStore core ctx va en line s
  | .interdieCoherenceRequest die own ctx va => Sys2Proof.Machine.execInterdieCoherenceRequest die own ctx va s
  | .priorityAging launch => Sys2Proof.Machine.execPriorityAging launch s
  | .placement die => Sys2Proof.Machine.execPlacement die s
  | .switchOut core => Sys2Proof.Machine.execSwitchOut core s
  | .shadowCopy core => Sys2Proof.Machine.execShadowCopy core s
  | .shadowStreamOut core ctx => Sys2Proof.Machine.execShadowStreamOut core ctx s
  | .switchIn core => Sys2Proof.Machine.execSwitchIn core s
  | .shadowStreamIn core ctx => Sys2Proof.Machine.execShadowStreamIn core ctx s
  | .groupExchange active pending => Sys2Proof.Machine.execGroupExchange active pending s
  | .pendingPromotionTimeout pending => Sys2Proof.Machine.execPendingPromotionTimeout pending s
  | .runArbitration quarter => Sys2Proof.Machine.execRunArbitration quarter s
  | .loadLimitWindow quarter => Sys2Proof.Machine.execLoadLimitWindow quarter s
  | .tokenRelease gid => Sys2Proof.Machine.execTokenRelease gid s
  | .mailboxService gid => Sys2Proof.Machine.execMailboxService gid s
  | .linkReturn link => Sys2Proof.Machine.execLinkReturn link s
  | .arenaClose ctx header => Sys2Proof.Machine.execArenaClose ctx header s

end Sys2Proof.Machine
end

