-- ==== Sys2Proof/Machine/Fetch.lean ====
section
/-! DEFINITION. Fetching an instruction word and its literal (R103, R250, R251, R304). -/

namespace Sys2Proof.Machine

open Sys2Proof

/-- A fetch fault: `tmask` holds `en0`, `taddr` the PC (R251). -/
def Group.fetchTrap (g : Group) (sel : PcSel) (cause info : Nat) : TrapInfo :=
  { g.trapWhole sel cause info with addr := (g.slotOf sel).pc }

/-- The copy that the slice serving a fetch of the group holds under the context's tag (R92, R137, R167). -/
def State.fetchCopy (s : State) (g : Group) (va : VA) (e : DWord) : Option L2Line :=
  s.l2At (l2Key (serveDie g.coreId va (leafAttr e)) g.ctx va)

/-- The leaf through which the word at `va` is fetched, or the fault; a hit is checked against the attributes copied with the line
(R92, R103). -/
def fetchLeaf (s : State) (g : Group) (sel : PcSel) (va : VA) : Except TrapInfo DWord :=
  let w := windowOf va
  if va.toNat % 4 ≠ 0 then .error (g.fetchTrap sel Cause.misaligned 1)
  else if w = 12 ∨ w = 13 ∨ w = 15 then .error (g.fetchTrap sel Cause.window w)
  else if w = 10 ∨ w = 14 then .error (g.fetchTrap sel Cause.protection 1)
  else
    match translate s g.ctx .fetch g.privileged va with
    | .error m => .error (g.fetchTrap sel m.cause (m.info false))
    | .ok e =>
      if s.poisoned (lineLoc s g.ctx va e) then .error (g.fetchTrap sel Cause.uncorrectable 0)
      else if (s.fetchCopy g va e).any (fun x => permBad x.attr .fetch g.privileged) then
        .error (g.fetchTrap sel Cause.protection ((protFault e 0 false).info false))
      else .ok e

/-- The line of a fetch as a load would read it: the copy of the slice that serves it, or what that slice would fill it from (R93, R137,
R167). -/
def State.fetchLine (s : State) (g : Group) (va : VA) (e : DWord) : Line :=
  let w := windowOf va
  let loc := lineLoc s g.ctx va e
  if w = 9 then s.hostLine (hostAddr (lineOf va) e)
  else if w = 11 then apertureLine s g.ctx va e
  else
    match s.fetchCopy g va e with
    | some x => lineData s g.ctx va e x
    | none =>
      match (s.copiesIn loc (serveDie g.coreId va (leafAttr e))).find? (fun y => y.2.attr.swm && (leafAttr e).swm) with
      | some y => y.2.data
      | none => s.homeCopy loc

/-- The word at `va` through its leaf. -/
def wordAt (s : State) (g : Group) (va : VA) (e : DWord) : Word :=
  BitVec.ofNat 32 (lineField (s.fetchLine g va e) (va.toNat % 128) 4)

/-- What the fetch at an address waits for, as a load of it would, with what it has asked for (R14, R93, R132, R139). -/
def State.fetchHeld (s : State) (g : Group) (va : VA) : Option State :=
  match leafOf s g.ctx va with
  | .error _ => none
  | .ok e =>
    if s.mustWait g.coreId (serveDie g.coreId va (leafAttr e)) g.ctx va e false then some s
    else (s.fabricNeed va (lineLoc s g.ctx va e) false).map (fun l => s.missSys (fabricVa l) false)

/-- What the fetch at the PC of a slot, or of the literal of its word, waits for. -/
def State.fetchWaits (s : State) (g : Group) (sel : PcSel) : Option State :=
  let pc := (g.slotOf sel).pc
  (s.fetchHeld g pc).or (if lineNo (pc + 4) = lineNo pc then none else s.fetchHeld g (pc + 4))

/-- Fetch and decode the word at the PC of a slot; the channels keep the translations used. -/
def fetch (s : State) (g : Group) (sel : PcSel) : State × Except TrapInfo Instr :=
  let pc := (g.slotOf sel).pc
  match fetchLeaf s g sel pc with
  | .error t => (s, .error t)
  | .ok e =>
    let s := s.cacheLeaf g.ctx pc e
    let w := wordAt s g pc e
    if takesLiteral w then
      match fetchLeaf s g sel (pc + 4) with
      | .error t => (s, .error t)
      | .ok e' => (s.cacheLeaf g.ctx (pc + 4) e', .ok (decodeWord w (wordAt s g (pc + 4) e')))
    else (s, .ok (decodeWord w 0))

end Sys2Proof.Machine
end

