-- ==== Sys2Proof/Machine/Step.lean ====
section
/-! DEFINITION. One step of the machine: the event that lands next, or else the next word of the run in progress, or else an
arbitration (DESIGN CHOICE, log 3). Where the clocks have stopped, no run goes on. -/

namespace Sys2Proof.Machine

open Sys2Proof

/-- An instruction that only a group can issue. -/
def isWord (i : Instr) : Bool :=
  match i with
  | .unassignedOpcode _ => true
  | _ => i.word?.isSome

/-- The next word of a run: its fetch waits, a fetch fault is taken, unless a speculation holds it (R133), or the decoded word is
executed. -/
def stepWord (s : State) (c : Cursor) (g : Group) : Host.Outcome State Fault Refusal :=
  match s.fetchWaits g c.sel with
  | some s => .next (s.stall c.gid c.sel false)
  | none =>
    match fetch s g c.sel with
    | (s, .error t) =>
      .next (if s.speculates c.gid then s.stall c.gid c.sel true else s.takeTrap c.gid c.sel t (g.slotOf c.sel).pc 0 0)
    | (s, .ok i) => exec i s

/-- An event that may kill groups, switch a context or exchange groups: it takes effect only between runs (R211). -/
def afterRun (i : Instr) : Bool :=
  match i with
  | .containmentAction _ | .contextRestore _ _ | .partitionReset _ | .patrolScrub _ _ _ _ | .cueCtxDestroy _ | .cueKill _
  | .cueRestore _ | .lateFault _ | .watchdogExpiry _ _ | .shadowStreamIn _ _ | .switchOut _ | .switchIn _ | .groupExchange _ _
  | .pendingPromotionTimeout _ => true
  | _ => false

/-- The run in progress goes on. -/
def stepRun (s : State) (c : Cursor) : Host.Outcome State Fault Refusal :=
  match s.group? c.gid with
  | none => .next { s with cur := none }
  | some g => if s.running then stepWord s c g else .next { s with cur := none }

/-- The event that lands next. -/
def stepEvent (s : State) (i : Instr) (rest : List Instr) : Host.Outcome State Fault Refusal :=
  if isWord i then .refused .notAnEvent
  else if s.lands i then exec i { s with agenda := rest }
  else .next { s with agenda := rest }

/-- One step. -/
def step (s : State) : Host.Outcome State Fault Refusal :=
  match s.agenda, s.cur with
  | i :: rest, none => stepEvent s i rest
  | i :: rest, some c => if afterRun i then stepRun s c else stepEvent s i rest
  | [], some c => stepRun s c
  | [], none => .next (arbitrate s)

/-! ### Placing one instruction where the next step fetches (DESIGN CHOICE, log 11) -/

/-- The PC at which a placed instruction stands: the first byte of window 8. -/
def placedPc : VA := 0x8000000000000

/-- A leaf that maps the 64 KiB page of `placedPc` to package frame 0, executable, user, `pkg`. -/
def placedLeaf : DWord := 0xA300000000000000#64

/-- A group of context 0 as a launch starts it (R208): 32 lanes, 96 vector registers, 8 tiles, slot A at `placedPc`, with a load
token in hand. -/
def placedGroup : Group :=
  let b : LaunchBlock :=
    { entry := placedPc.setWidth 64, tdim := (1, 1, 1), gwc := 0, ngrp := 1, nvr := 96, ntile := 8, scrb := 0, fifon := 0,
      prio := 0, pair := false, dep := false, ctx := 0, depva := 0, depval := 0, cmpva := 0, argp := 0 }
  { Group.start { die := 0, core := 0, quarter := 0, slot := 0 } b 0 0 0 0 0 0 with token := some { since := 0, runs := 0 } }

/-- Write the bytes of a number at consecutive bytes of device memory. -/
def State.placeBytes (s : State) (n w : Nat) : State :=
  (List.range n).foldl (fun s k => s.setDram k (BitVec.ofNat 8 (w / 2 ^ (8 * k)))) s

/-- `s` with one instruction placed where the next step fetches: the clocks run, a group of context 0 issues at
`placedPc`, its page is translated, and the bytes at it are the instruction's (DESIGN CHOICE, log 11). -/
def State.withFetchWord (s : State) (nbits w : Nat) : State :=
  let s := { s with pkg := { s.pkg with powered := true, dieReset := false, tripped := none } }
  let s := { s with mem := { s.mem with mbound := 0 } }
  let s := (s.cacheLeaf 0 placedPc placedLeaf).placeBytes 8 (w % 2 ^ nbits)
  { s.setGroup 0 placedGroup with agenda := [], cur := some { gid := 0, sel := .a, count := 0, load := false } }

end Sys2Proof.Machine
end

