-- ==== Sys2Proof/Safety.lean ====
section
/-! DEFINITION. The terms of claims: what a safe run is, when a word goes through, what a step leaves alone. -/

namespace Sys2Proof.Safety

open Sys2Proof.Machine

/-- A step that goes on. -/
def goesOn (s : State) : Prop := ∃ t, step s = .next t

/-- A run of n steps meets neither a fault nor a refusal. -/
def safeFor : Nat → State → Prop
  | 0, _ => True
  | n + 1, s => ∃ t, step s = .next t ∧ safeFor n t

end Sys2Proof.Safety

namespace Sys2Proof.Machine

open Sys2Proof

/-- The word `op`, `f` of the slot that a cursor names goes through: instructions run, the slot's group is there, no register that
the word names is in flight (R240), the quarter's matrix unit is not in its way (R371), nothing holds the group back (R328, R329,
R336), no speculation is open (R133), a load has its token (R213), and the checks of R250 and R307 find nothing. -/
structure Ready (s : State) (c : Cursor) (g : Group) (op : Op) (f : Fields) : Prop where
  running : s.running = true
  cur     : s.cur = some c
  group   : s.group? c.gid = some g
  free    : g.hazard op f c.sel = false
  unit    : s.unitHazard c.gid g op f c.sel = false
  notHeld : s.held g c.sel = false
  plain   : s.speculates c.gid = false
  token   : isLoadCode op.code = true → g.token.isSome = true
  checked : op.check f g c.sel = none

/-- Every memory is in its canonical form: device memory, the banks' bytes, host memory, the memory of other devices. -/
structure State.MemoryOk (s : State) : Prop where
  dram   : Memory.wf s.mem.dram = true
  banks  : Memory.wf s.bankMem = true
  host   : Memory.wf s.host.mem = true
  remote : Memory.wf s.fab.remote = true

/-- STEP is not due after a word of the group (R256). -/
def StepOff (g : Group) : Prop := g.lvl = 0 → g.troute.getLsbD 16 = false

/-- A slot without the counts of R236 and the replay of R105, which its first word ends. -/
def PcSlot.plain (p : PcSlot) : PcSlot := { p with back := 0, sib := 0, kept := { p.kept with replay := Option.none } }

/-- A group without what the issue of any word moves: the slot next in turn (R211), the token's count (R213), the spin counts
(R236) and the replay (R105) of its slots, and what held the group back. -/
def Group.books (g : Group) : Group :=
  { g with nextSel := .a, token := none, stalled := [], longStall := false, holdSel := none, draining := [],
           slotA := g.slotA.plain, slotB := g.slotB.plain }

/-- The state without groups, the run in progress, the clock, the quarters' turns and the events that are to land. -/
def State.outside (s : State) : State := { s with groups := [], quarters := [], cur := none, clk := 0, agenda := [] }

/-- The word `i` completes from `s`: its own effect leads to `sE`, and its completion moves only the bookkeeping of its own group,
its quarter's turn, the run, the clock by the group's beats, and posts events. -/
def Completes (i : Instr) (s sE : State) (c : Cursor) (g : Group) : Prop :=
  ∃ t, exec i s = .next t ∧ (t.group? c.gid).map Group.books = (sE.group? c.gid).map Group.books ∧
    (∀ k, k ≠ c.gid → t.group? k = sE.group? k) ∧ t.outside = sE.outside ∧ t.clk = sE.clk + g.beats

/-- The word `i` completes and changes, of all the machine, only its own group, to `gE`. -/
def Does (i : Instr) (s : State) (c : Cursor) (g gE : Group) : Prop := Completes i s (s.setGroup c.gid gE) c g

end Sys2Proof.Machine
end

