-- ==== Sys2Proof/Certificates/Slice0/Obligations.lean ====
section
/-! DEFINITION. The statements for the provers. Each docstring names the rules of spec/ that its statement formalises. -/

open Sys2Proof Sys2Proof.Machine

/-! ### Words and their encoding -/

/-- O1. Decoding and encoding agree for every well-formed word, whatever bytes follow it: no field and no bit of a literal is
dropped (R303, R304, R308, R311). -/
def Obligations.DecodeEncode : Prop :=
  ∀ (i : Instr) (rest : List Byte), i.wellFormed = true → isWord i = true → decode (encode i ++ rest) = .ok (i, rest)

/-- O2. Whatever the decoder reads encodes to the bytes that it read: every bit of a word and of its literal is in the instruction
(R303, R304, R308, R311). -/
def Obligations.EncodeDecode : Prop :=
  ∀ (bs rest : List Byte) (i : Instr), decode bs = .ok (i, rest) → isWord i = true ∧ encode i ++ rest = bs

/-- O3. The opcode map: an assigned opcode decodes to the instruction that has it, the other codes to none, and the number of
assigned codes is 199 (R303, R308, R311). -/
def Obligations.OpcodeMap : Prop :=
  (∀ (n : Nat) (k : Fields → Instr), Instr.ofCode n = some k → ∀ f, ∃ op, (k f).word? = some (op, f) ∧ op.code = n) ∧
  (∀ (i : Instr) (op : Op) (f : Fields), i.word? = some (op, f) → ∃ k, Instr.ofCode op.code = some k ∧ k f = i) ∧
  ((List.range 256).filter (fun n => (Instr.ofCode n).isSome)).length = 199

/-- O4. Words that the spec writes out decode as it says: the worked decodes of R308, the listing of R345's kernel. -/
def Obligations.DecodeWords : Prop :=
  decodeWord 0x00000000 0 = .nop { e := false, l := false, d := 0, a := 0, b := 0, x := false, lit := 0 } ∧
  decodeWord 0xC2800000 0x023F3F00 = .wait { e := true, l := true, d := 0, a := 0, b := 0, x := false, lit := 0x023F3F00 } ∧
  decodeWord 0x03000001 0 = .fence { e := false, l := false, d := 0, a := 0, b := 0, x := true, lit := 0 } ∧
  decodeWord 0x4C308002 7 = .smov { e := false, l := true, d := 97, a := 0, b := 1, x := false, lit := 7 } ∧
  decodeWord 0x14F2040A 0 = .vadd { e := false, l := false, d := 100, a := 4, b := 5, x := false, lit := 0 } ∧
  decodeWord 0x14C6040A 0 = .vadd { e := false, l := false, d := 12, a := 4, b := 5, x := false, lit := 0 } ∧
  decodeWord 0x03800001 0 = .launch { e := false, l := false, d := 0, a := 0, b := 0, x := true, lit := 0 } ∧
  decodeWord 0x07000000 0 = .unassignedOpcode 0x07000000 ∧ decodeWord 0xFFFFFFFF 0 = .unassignedOpcode 0xFFFFFFFF ∧
  decodeWord 0x4C308000 84 = .smov { e := false, l := true, d := 97, a := 0, b := 0, x := false, lit := 84 } ∧
  decodeWord 0xC8FA0000 3 = .call { e := true, l := true, d := 116, a := 0, b := 0, x := false, lit := 3 } ∧
  decodeWord 0x81C00000 0 = .exit { e := true, l := false, d := 0, a := 0, b := 0, x := false, lit := 0 } ∧
  decodeWord 0x11B1E1C4 0 = .sremu { e := false, l := false, d := 99, a := 97, b := 98, x := false, lit := 0 } ∧
  decodeWord 0xC8806300 0xFFFFFFFD = .brnz { e := true, l := true, d := 0, a := 99, b := 0, x := false, lit := 0xFFFFFFFD } ∧
  decodeWord 0x89007400 0 = .ret { e := true, l := false, d := 0, a := 116, b := 0, x := false, lit := 0 }

/-! ### Steps -/

/-- O5. A step runs the decoded instruction: with no event waiting and a run in progress, when the word at the PC of the issuing
slot can be fetched and, where it takes a literal, the word after it (R103, R304), and the fetch waits for nothing that a load there
would wait for, the step is `exec` of the instruction that
their bytes decode to, from the state that has kept the translations used. The first part is for an instruction of one word,
the second for one with a literal. -/
def Obligations.StepRunsWord : Prop :=
  ∀ (s : State) (c : Cursor) (g : Group) (e : DWord), s.agenda = [] → s.cur = some c → s.group? c.gid = some g →
    s.running = true → s.fetchWaits g c.sel = none → fetchLeaf s g c.sel (g.slotOf c.sel).pc = .ok e →
    let pc := (g.slotOf c.sel).pc
    let s1 := s.cacheLeaf g.ctx pc e
    let w := wordAt s1 g pc e
    (∀ i, takesLiteral w = false → decode (bytesOfWord w) = .ok (i, []) → step s = exec i s1) ∧
    (∀ e' i, takesLiteral w = true → fetchLeaf s1 g c.sel (pc + 4) = .ok e' →
      decode (bytesOfWord w ++ bytesOfWord (wordAt s1 g (pc + 4) e')) = .ok (i, []) →
      step s = exec i (s1.cacheLeaf g.ctx (pc + 4) e'))

/-- O6. A word whose fetch faults is not executed: its group takes the fetch fault, with `tword` and `tlit` 0 and `taddr` the PC
(R250, R251); while a speculation of the group is not resolved it is held back (R133), and a fetch that a load there would wait for waits
too. An event that has been posted lands before any word, in the order of posting, but that one which may kill groups or switch or
exchange them waits for the run in progress (R211); with the clocks stopped only those land that IO0 carries out by itself (R27); a word never lands from outside.
This is the model's agenda (log 3), not a rule of the spec. -/
def Obligations.StepOtherwise : Prop :=
  (∀ (s : State) (c : Cursor) (g : Group) (t : TrapInfo), s.agenda = [] → s.cur = some c → s.group? c.gid = some g →
     s.running = true → s.fetchWaits g c.sel = none → fetchLeaf s g c.sel (g.slotOf c.sel).pc = .error t →
     step s = .next (if s.speculates c.gid then s.stall c.gid c.sel true else s.takeTrap c.gid c.sel t (g.slotOf c.sel).pc 0 0) ∧
       t.addr = (g.slotOf c.sel).pc ∧ t.mask = g.en0 c.sel) ∧
  (∀ (s t : State) (c : Cursor) (g : Group), s.agenda = [] → s.cur = some c → s.group? c.gid = some g → s.running = true →
     s.fetchWaits g c.sel = some t → step s = .next (t.stall c.gid c.sel false)) ∧
  (∀ (s : State) (i : Instr) (rest : List Instr), s.agenda = i :: rest → s.cur = none ∨ afterRun i = false →
     (isWord i = false → s.running = true ∨ i ∈ [Instr.eventWrite, .cueAttest, .thermalTripEvent, .thermTripNAssert] →
       step s = exec i { s with agenda := rest }) ∧
     (isWord i = false → s.running = false → i ∉ [Instr.eventWrite, .cueAttest, .thermalTripEvent, .thermTripNAssert] →
       step s = .next { s with agenda := rest }) ∧
     (isWord i = true → step s = .refused .notAnEvent)) ∧
  (∀ (s : State) (c : Cursor) (g : Group) (i : Instr) (rest : List Instr), s.agenda = i :: rest → afterRun i = true →
     s.cur = some c → s.group? c.gid = some g → s.running = true → step s = stepWord s c g)

/-- O7. Every memory of the machine stays in its canonical form, whichever step is taken from whichever state: device memory, the
banks' bytes, host memory, the memory of other devices. -/
def Obligations.MemoryCanonical : Prop :=
  ∀ (s t : State), s.MemoryOk → step s = .next t → t.MemoryOk

/-- O8. The machine after reset: its memories list nothing, so that every byte reads as log 1 says; no event waits and no run is in
progress; and the registers for which R59, R72, R98, R119, R132, R198, R212 and R214 state a value hold it. That `ctxtab` is 0 is the
model's choice (log 2): R98 gives it no reset value. -/
def Obligations.ResetState : Prop :=
  State.reset.MemoryOk ∧ (∀ a, State.reset.dramByte a = 0 ∧ State.reset.hostByte a = 0) ∧ State.reset.agenda = [] ∧
  State.reset.cur = none ∧ State.reset.pkg.mode = 1 ∧ State.reset.host.ringOk = false ∧
  State.reset.mem.ctxtab = 0 ∧ State.reset.mem.mbound = 0 ∧ State.reset.mem.xiBusy = false ∧
  (∀ k, (State.reset.bank k).mode = .cache ∧ (State.reset.bank k).core = k % 64 % 2 ∧ (State.reset.bank k).clm = none) ∧
  (∀ k, (State.reset.slice k).base = 0 ∧ (State.reset.slice k).mrts = 0 ∧ (State.reset.core k).ct = 0) ∧
  (∀ k, (State.reset.quarter k).limit = 8) ∧
  (∀ d, (State.reset.die d).launchCount = 0 ∧ (State.reset.die d).llthr = 32)


/-! ### Traps -/

namespace Sys2Proof.Claims

/-- What R246 says of trap entry: group `g`, trapping in slot `sel`, has become `g'` for trap `t` with `tret` = `ret`. First what is
entered, then what is banked, then what entry neither saves nor changes. -/
structure Entered (g g' : Group) (sel : PcSel) (t : TrapInfo) (ret : VA) (word lit : Word) : Prop where
  lvl     : g'.lvl = g.lvl + 1
  pv      : g'.pv = (!g.toUser t.cause || g.ctx == 0)
  ts      : g'.ts = sel
  bank    : g'.trapBank (g.lvl + 1) = { cause := BitVec.ofNat 32 t.cause, ret := ret, mask := t.mask, addr := t.addr,
                                        word := word, lit := lit, mode := g.m, info := t.info }
  slotA   : g'.slotA = { pc := g.vector t.cause, owned := g.live, enable := g.live, status := .ready, back := 0, sib := 0 }
  slotB   : g'.slotB = PcSlot.none
  hc      : ∀ l, SMap.get 0 g'.hc l = if lane g.live l then 0 else SMap.get 0 g.hc l
  hb      : g'.hb = g.hb &&& ~~~g.live
  mode    : g'.m = BitVec.ofNat 32 g.gwc <<< 20
  s26     : pair64 (SMap.get 0 g'.s 27) (SMap.get 0 g'.s 26) = g.tsave.setWidth 64 + BitVec.ofNat 64 (256 * g.lvl)
  savedHc : (g'.bank g.lvl).hc = g.hc ∧ (g'.bank g.lvl).hb = g.hb ∧ (g'.bank g.lvl).m = g.m ∧
            (g'.bank g.lvl).mark = g.stack.length
  saved26 : (g'.bank g.lvl).s26 = SMap.get 0 g.s 26 ∧ (g'.bank g.lvl).s27 = SMap.get 0 g.s 27
  savedTs : (g'.bank g.lvl).ts = g.ts ∧ (g'.bank g.lvl).pv = g.pv
  slots   : ∀ x, let b := if x = .a then (g'.bank g.lvl).slotA else (g'.bank g.lvl).slotB
            b.pc = (if x = sel then ret else (g.slotOf x).pc) ∧ b.owned = (g.slotOf x).owned ∧
            b.enable = (g.slotOf x).enable
  scalars : ∀ k, k ≠ 26 → k ≠ 27 → SMap.get 0 g'.s k = SMap.get 0 g.s k
  vectors : g'.v = g.v ∧ g'.vtag = g.vtag ∧ g'.p = g.p
  tiles   : g'.trow = g.trow ∧ g'.ttag = g.ttag ∧ g'.rmax = g.rmax ∧ g'.rsum = g.rsum
  rest    : g'.live = g.live ∧ g'.stack = g.stack ∧ g'.fxf = g.fxf ∧ g'.troute = g.troute ∧ g'.hintDrop = g.hintDrop ∧
            g'.ops = g.ops ∧ g'.late = g.late ∧ g'.tvecUser = g.tvecUser ∧ g'.tvecDev = g.tvecDev ∧ g'.tsave = g.tsave
  lower   : ∀ k, k < g.lvl → g'.bank k = g.bank k ∧ g'.trapBank (k + 1) = g.trapBank (k + 1)

/-- `tret` of a trap taken in slot `sel` for the word at `pc` (R251): the word for kinds B and A, the slot's next for N and L. -/
def retOf (g : Group) (sel : PcSel) (cause : Nat) (pc : VA) : VA :=
  match kindOf cause with
  | .before | .after => pc
  | .next | .late => (g.slotOf sel).pc

/-- The trap can be entered: the level is 0 or 1, and the vector of its cause is not 0. -/
def Enters (g : Group) (cause : Nat) : Prop := g.lvl < 2 ∧ g.vector cause ≠ 0

/-- The word `i` of slot `c.sel` takes trap `t` after its group has become `gE`: the group has entered the next level (R246), no
other group and no memory has changed, and the run is over. -/
def Traps (i : Instr) (s : State) (c : Cursor) (gE : Group) (t : TrapInfo) (pc : VA) (word lit : Word) : Prop :=
  ∃ u g', exec i s = .next u ∧ u.group? c.gid = some g' ∧
    Entered gE g' c.sel t (retOf gE c.sel t.cause pc) word lit ∧
    (∀ k, k ≠ c.gid → u.group? k = s.group? k) ∧ u.outside = s.outside ∧ u.cur = none

/-- The word of an instruction, issued by the slot of a cursor, meets nothing that holds it back before its checks (R209, R240,
R371). -/
structure Meets (s : State) (c : Cursor) (g : Group) (op : Op) (f : Fields) : Prop where
  running : s.running = true
  cur     : s.cur = some c
  group   : s.group? c.gid = some g
  free    : g.hazard op f c.sel = false
  unit    : s.unitHazard c.gid g op f c.sel = false
  notHeld : s.held g c.sel = false
  plain   : s.speculates c.gid = false
  token   : isLoadCode op.code = true → g.token.isSome = true

end Sys2Proof.Claims

open Sys2Proof.Claims

/-- O9. Taking a trap at level 0 or 1 with a vector that is not 0 does what R246 says, with `tret` as R251 gives it. The vector of
a trap and the privilege of the level that it enters (R248): a cause of 0x10–0x16, 0x21 and 0x38–0x3F goes to `tvec_user` when its
`troute` bit is set and `tvec_user` ≠ 0, every other to `tvec_dev`; a level entered through `tvec_dev` is privileged, one entered
through `tvec_user` is not, and context 0 is privileged at every level. -/
def Obligations.TrapEntry : Prop :=
  (∀ (s : State) (gid : Nat) (g : Group) (sel : PcSel) (t : TrapInfo) (pc : VA) (word lit : Word),
     s.group? gid = some g → Enters g t.cause → t.free = 0 →
     ∃ g', (s.takeTrap gid sel t pc word lit).group? gid = some g' ∧
       Entered g g' sel t (retOf g sel t.cause pc) word lit ∧
       (∀ k, k ≠ gid → (s.takeTrap gid sel t pc word lit).group? k = s.group? k) ∧
       (s.takeTrap gid sel t pc word lit).outside = s.outside ∧
       (∀ a, (s.takeTrap gid sel t pc word lit).dramByte a = s.dramByte a)) ∧
  (∀ (g : Group) (c : Nat),
     let bit := if 0x10 ≤ c ∧ c ≤ 0x16 then g.troute.getLsbD (8 + (c - 0x10)) else if c = 0x21 then g.troute.getLsbD 15
       else if 0x38 ≤ c ∧ c ≤ 0x3F then g.troute.getLsbD (c - 0x38) else false
     g.vector c = (if bit = true ∧ g.tvecUser ≠ 0 then g.tvecUser else g.tvecDev) ∧
     ∀ sel t ret word lit, t.cause = c →
       (g.enter sel t ret word lit).privileged = (if bit = true ∧ g.tvecUser ≠ 0 then g.ctx == 0 else true))

/-- O10. A trap at level 2, or with a chosen vector of 0, escalates (R254): no group of the context issues any more, on any die, and
no launch of the context is queued; in a context other than 0, the context stays, marked killed, and its Director's die has the
kill record; in context 0 a device reset is due. -/
def Obligations.TrapEscalates : Prop :=
  ∀ (s : State) (gid : Nat) (g : Group) (sel : PcSel) (t : TrapInfo) (pc : VA) (word lit : Word),
    s.group? gid = some g → t.free = 0 → (g.lvl = 2 ∨ g.vector t.cause = 0) →
    let u := s.takeTrap gid sel t pc word lit
    (∀ k x, u.group? k = some x → x.ctx = g.ctx → (s.group? k).isSome = true → x.dead = true) ∧
    (∀ d n lid l, lid ∈ (u.die d).queue n → s.launch? lid = some l → l.blk.ctx ≠ g.ctx) ∧
    (g.ctx = 0 → u.mem.resets = s.mem.resets + 1 ∧ Instr.containmentAction 0 ∈ u.agenda) ∧
    (g.ctx ≠ 0 → g.die < 8 → (∀ x, s.context? g.ctx.toNat = some x → (u.context? g.ctx.toNat).map (fun y => y.killed) = some true) ∧
      (u.die g.die).kills.length = (s.die g.die).kills.length + 1 ∧ ∃ d, Instr.killRecordDelivery d ∈ u.agenda ∧ d.val = g.die)

/-- O11. RTT at level 1 or 2 completes and returns to the level below (R253): `m` from `tmode` with `gw` kept, hold counts, slots,
`s26:s27` from the bank, the PC of slot `tlevel.ts` from `tret`, the split stack cut to the mark, the level one lower; nothing
else of the registers changes, and no memory. A slot of the level that has lost every lane meanwhile comes back empty where no
entry of the split stack waits for it (R235, R237). -/
def Obligations.RttReturns : Prop :=
  ∀ (s : State) (c : Cursor) (g : Group) (f : Fields), Ready s c g Op.rtt f → 1 ≤ g.lvl → g.lvl ≤ 2 →
    g.troute.getLsbD 16 = false →
    ∃ t g', exec (.rtt f) s = .next t ∧ t.group? c.gid = some g' ∧
      (let tb := g.trapBank g.lvl
       let b := g.bank (g.lvl - 1)
       let slot := fun (x : PcSel) => if x = .a then b.slotA else b.slotB
       g'.lvl = g.lvl - 1 ∧ g'.m = (tb.mode &&& 0xFFCFFFFF#32) ||| (BitVec.ofNat 32 g.gwc <<< 20) ∧ g'.hc = b.hc ∧ g'.hb = b.hb ∧
       let whole := ∀ x, (slot x).status ≠ .empty → (slot x).owned ≠ 0
       (whole → ∀ x, (g'.slotOf x).owned = (slot x).owned ∧ (g'.slotOf x).enable = (slot x).enable ∧
         (g'.slotOf x).pc = if x = g.ts then tb.ret else (slot x).pc) ∧
       (b.mark = 0 → ∀ x, (slot x).status ≠ .empty → (slot x).owned = 0 → (g'.slotOf x).status = .empty) ∧
       SMap.get 0 g'.s 26 = b.s26 ∧ SMap.get 0 g'.s 27 = b.s27 ∧ (whole → b.mark ≤ g.stack.length → g'.stack.length = b.mark) ∧
       g'.pv = b.pv ∧ g'.ts = b.ts) ∧
      (∀ k, k ≠ 26 → k ≠ 27 → SMap.get 0 g'.s k = SMap.get 0 g.s k) ∧
      (g'.v = g.v ∧ g'.vtag = g.vtag ∧ g'.p = g.p ∧ g'.trow = g.trow ∧ g'.live = g.live ∧ g'.fxf = g.fxf ∧ g'.ops = g.ops) ∧
      (∀ w ∈ (t.core g.coreId).uwt, w.gid = g.gid → w.level ≠ g.lvl) ∧
      (∀ k, k ≠ c.gid → t.group? k = s.group? k) ∧ (∀ a, t.dramByte a = s.dramByte a)

/-- O12. A level that a trap enters and RTT leaves is as it was, with the trapping slot at `tret`: hold counts, break bits, mode,
both slots' masks, `s26:s27`, the split stack, the level and its privilege (R246, R253). The trap is one whose page gives
no replay, and every slot in use owns lanes. -/
def Obligations.EnterThenReturn : Prop :=
  ∀ (g : Group) (sel : PcSel) (t : TrapInfo) (ret : VA) (word lit : Word), g.lvl < 2 → t.info = 0 → g.modeWord g.m = g.m →
    (∀ x, (g.slotOf x).status ≠ .empty → (g.slotOf x).owned ≠ 0) →
    let g' := (g.enter sel t ret word lit).rtt
    g'.lvl = g.lvl ∧ g'.pv = g.pv ∧ g'.ts = g.ts ∧ g'.hc = g.hc ∧ g'.hb = g.hb ∧ g'.m = g.m ∧ g'.stack = g.stack ∧
    (∀ k, SMap.get 0 g'.s k = SMap.get 0 g.s k) ∧
    (∀ x, (g'.slotOf x).owned = (g.slotOf x).owned ∧ (g'.slotOf x).enable = (g.slotOf x).enable ∧
      (g'.slotOf x).pc = if x = sel then ret else (g.slotOf x).pc)

/-- O13. TRAP and BRKPT complete by taking their cause (R324): TRAP k takes 0x38 + k for k = 0–7 and, in privileged code,
0x30 + (k − 8) for k = 8–15, with `tret` at the next word; BRKPT takes 0x21 with `tret` at itself; `tmask` is `en0`. -/
def Obligations.TrapWords : Prop :=
  ∀ (s : State) (c : Cursor) (g : Group) (f : Fields),
    (Ready s c g Op.trap f → f.a.toNat ≤ 15 →
      let cause := if f.a.toNat < 8 then 0x38 + f.a.toNat else 0x30 + (f.a.toNat - 8)
      Enters g cause →
      Traps (.trap f) s c (g.begun (c.env g Op.trap f)) { cause := cause, mask := g.en0 c.sel } (g.slotOf c.sel).pc
        (wordOf 0x05 f) f.lit ∧
      retOf (g.begun (c.env g Op.trap f)) c.sel cause (g.slotOf c.sel).pc = (g.slotOf c.sel).pc + (if f.l then 8 else 4)) ∧
    (Ready s c g Op.brkpt f → Enters g 0x21 →
      Traps (.brkpt f) s c (g.begun (c.env g Op.brkpt f)) { cause := 0x21, mask := g.en0 c.sel } (g.slotOf c.sel).pc
        (wordOf 0x09 f) f.lit ∧
      retOf (g.begun (c.env g Op.brkpt f)) c.sel 0x21 (g.slotOf c.sel).pc = (g.slotOf c.sel).pc)

/-- O14. A word with an unassigned opcode completes by taking ILLEGAL_OP, whatever its other fields hold, with `tlit` 0, since its
literal is not read (R308, R257). RTT at level 0 traps ILLEGAL_OP (R253, R325). -/
def Obligations.IllegalOpTraps : Prop :=
  (∀ (s : State) (c : Cursor) (g : Group) (w : Word), s.running = true → s.cur = some c → s.group? c.gid = some g →
     g.pendingRegs = [] → s.held g c.sel = false → s.speculates c.gid = false → Enters g 0x01 →
     Traps (.unassignedOpcode w) s c g { cause := 0x01, mask := g.en0 c.sel } (g.slotOf c.sel).pc w 0) ∧
  (∀ (s : State) (c : Cursor) (g : Group) (f : Fields), Meets s c g Op.rtt f → g.lvl = 0 → Enters g 0x01 →
     Traps (.rtt f) s c g { cause := 0x01, mask := g.en0 c.sel } (g.slotOf c.sel).pc (wordOf 0x06 f) f.lit)

/-- O15. What only privileged code may do traps PRIVILEGED in unprivileged code and has no other effect (R312, R322, R324): LAUNCH,
RECV, SEND, BANKCFG; TRAP with k of 8–15; SYSR and SYSW of 0x50–0x7F, with the number in `tinfo` [15:8]. -/
def Obligations.PrivilegedTraps : Prop :=
  ∀ (s : State) (c : Cursor) (g : Group) (f : Fields) (i : Instr) (op : Op), i.word? = some (op, f) → Meets s c g op f →
    g.privileged = false → Enters g 0x03 →
    (i ∈ [Instr.launch f, .recv f, .send f, .bankcfg f] ∨ (i = .trap f ∧ 8 ≤ f.a.toNat ∧ f.a.toNat ≤ 15) →
      Traps i s c g { cause := 0x03, mask := g.en0 c.sel, info := BitVec.ofNat 32 op.code } (g.slotOf c.sel).pc
        (wordOf op.code f) f.lit) ∧
    (i ∈ [Instr.sysr f, .sysw f] → 0x50 ≤ f.a.toNat →
      Traps i s c g { cause := 0x03, mask := g.en0 c.sel, info := BitVec.ofNat 32 (op.code + 256 * f.a.toNat) }
        (g.slotOf c.sel).pc (wordOf op.code f) f.lit)


/-! ### Scalar words and registers -/

namespace Sys2Proof.Claims

/-- A word of the shape `mk`, when it goes through and `cond` holds, completes and changes, of all the machine, only its group, to
what `eff` gives. Both find the group with its PC at the next word. -/
def RowIf (mk : Fields → Instr) (cond : PcSel → Fields → Group → Prop) (eff : PcSel → Fields → Group → Group) : Prop :=
  ∀ (s : State) (c : Cursor) (g : Group) (f : Fields) (op : Op), (mk f).word? = some (op, f) → Ready s c g op f → StepOff g →
    cond c.sel f (g.begun (c.env g op f)) → Does (mk f) s c g (eff c.sel f (g.begun (c.env g op f)))

/-- The same for a word that always completes. -/
def RowAll (mk : Fields → Instr) (eff : PcSel → Fields → Group → Group) : Prop := RowIf mk (fun _ _ _ => True) eff

/-- A scalar word that writes one register: D takes a value of A and B. -/
def ScalarRow (mk : Fields → Instr) (val : Word → Word → Word) : Prop :=
  RowAll mk (fun sel f g => g.sPut sel f.d (val (g.sField sel f.a) (g.sB sel f)))

/-- −2^31 to 2^31 − 1. -/
def clampI32 (x : Int) : Word := BitVec.ofInt 32 (max (-2147483648) (min 2147483647 x))

/-- The number of leading zero bits. -/
def leading (x : Word) : Nat := ((List.range 32).takeWhile (fun k => !x.getLsbD (31 - k))).length

/-- The field of `x` that descriptor `d` selects (R345): moved to the top of the word, then back with zeros or sign copies. -/
def fieldAt (x d : Word) : Word :=
  let p := d.toNat % 32
  let w := min (d.toNat / 32 % 64) (32 - p)
  let top := x <<< (32 - p - w)
  if w = 0 then 0 else if d.getLsbD 11 then top.sshiftRight (32 - w) else top >>> (32 - w)

/-- Of two signed words the smaller, or the larger. -/
def pick (larger : Bool) (x y : Word) : Word := if decide (x.toInt < y.toInt) == larger then y else x

end Sys2Proof.Claims

/-- O16. The scalar words write D with the results of R343 and R345 and change nothing else: no flag, no vector register, no other
scalar, no memory. SDIVU and SREMU complete so when B ≠ 0. SDIVU and SREMU by zero write all ones and A, and then take INT_DIV0 at
their own address, with `tmask` the `en0` that the word issued with, whatever `m.xe` holds (R344). -/
def Obligations.ScalarResults : Prop :=
  (ScalarRow .smov (fun _ b => b) ∧
   RowAll .sadd (fun sel f g => g.sPut sel f.d (let (a, b) := (g.sField sel f.a, g.sB sel f)
     if g.m.getLsbD 11 then clampI32 (a.toInt + b.toInt) else a + b)) ∧
   RowAll .ssub (fun sel f g => g.sPut sel f.d (let (a, b) := (g.sField sel f.a, g.sB sel f)
     if g.m.getLsbD 11 then clampI32 (a.toInt - b.toInt) else a - b)) ∧
   ScalarRow .smul (fun a b => BitVec.ofNat 32 (a.toNat * b.toNat)) ∧
   ScalarRow .smulh (fun a b => BitVec.ofInt 32 (a.toInt * b.toInt / 4294967296)) ∧
   ScalarRow .sand (fun a b => a &&& b) ∧ ScalarRow .sor (fun a b => a ||| b) ∧ ScalarRow .sxor (fun a b => a ^^^ b) ∧
   ScalarRow .sshl (fun a b => if 32 ≤ b.toNat % 64 then 0 else BitVec.ofNat 32 (a.toNat * 2 ^ (b.toNat % 64))) ∧
   ScalarRow .sshr (fun a b => if 32 ≤ b.toNat % 64 then 0 else BitVec.ofNat 32 (a.toNat / 2 ^ (b.toNat % 64))) ∧
   ScalarRow .ssra (fun a b => BitVec.ofInt 32 (a.toInt / (2 : Int) ^ (b.toNat % 64))) ∧
   ScalarRow .smin (pick false) ∧ ScalarRow .smax (pick true) ∧
   ScalarRow .sceq (fun a b => if a = b then 1 else 0) ∧
   ScalarRow .sclt (fun a b => if a.toInt < b.toInt then 1 else 0) ∧
   ScalarRow .scltu (fun a b => if a.toNat < b.toNat then 1 else 0) ∧
   RowAll .ssel (fun sel f g => g.sPut sel f.d (if g.sField sel f.d ≠ 0 then g.sField sel f.a else g.sB sel f)) ∧
   RowAll .sadd64 (fun sel f g => g.spPut sel f.d
     (g.spField sel f.a + if f.l then f.lit.signExtend 64 else g.spField sel f.b)) ∧
   RowAll .ssub64 (fun sel f g => g.spPut sel f.d
     (g.spField sel f.a - if f.l then f.lit.signExtend 64 else g.spField sel f.b)) ∧
   ScalarRow .spopc (fun _ b => BitVec.ofNat 32 ((List.range 32).filter (fun k => b.getLsbD k)).length) ∧
   ScalarRow .sclz (fun _ b => BitVec.ofNat 32 (leading b)) ∧
   ScalarRow .sbfe fieldAt ∧
   RowIf .sdivu (fun sel f g => g.sB sel f ≠ 0) (fun sel f g => g.sPut sel f.d (g.sField sel f.a / g.sB sel f)) ∧
   RowIf .sremu (fun sel f g => g.sB sel f ≠ 0) (fun sel f g => g.sPut sel f.d (g.sField sel f.a % g.sB sel f))) ∧
  (∀ (s : State) (c : Cursor) (g : Group) (f : Fields),
     (Ready s c g Op.sdivu f → let b := g.begun (c.env g Op.sdivu f)
       b.sB c.sel f = 0 → Enters g 0x10 →
       let gE := b.sPut c.sel f.d 0xFFFFFFFF#32
       Traps (.sdivu f) s c gE { cause := 0x10, mask := b.en0 c.sel } (g.slotOf c.sel).pc (wordOf 0x45 f) f.lit) ∧
     (Ready s c g Op.sremu f → let b := g.begun (c.env g Op.sremu f)
       b.sB c.sel f = 0 → Enters g 0x10 →
       let gE := b.sPut c.sel f.d (b.sField c.sel f.a)
       Traps (.sremu f) s c gE { cause := 0x10, mask := b.en0 c.sel } (g.slotOf c.sel).pc (wordOf 0x46 f) f.lit))

/-- O17. Registers (R220, R221, R226, R229, R305): `s31` reads zero and discards writes; `s28` to `s30` read the executing slot's
enable mask and write it within the owned mask; each other scalar reads what was last written to it and no write changes another
one; a pair is two scalars, the lower numbered one low; `p0` reads every lane of the width and discards writes; a predicate write
changes the lanes of its mask only. -/
def Obligations.RegisterFile : Prop :=
  ∀ (g : Group) (sel : PcSel),
    (g.sRead sel 31 = 0 ∧ ∀ w, g.sWrite sel 31 w = g) ∧
    (∀ k, k < 3 → ∀ w, g.sRead sel (28 + k) = (g.slotOf sel).enable.extractLsb' (32 * k) 32 ∧
      let p := (g.sWrite sel (28 + k) w).slotOf sel
      p.owned = (g.slotOf sel).owned ∧ p.pc = (g.slotOf sel).pc ∧
      (∀ l, l < 96 → p.enable.getLsbD l = ((g.slotOf sel).owned.getLsbD l &&
        if l / 32 = k then w.getLsbD (l % 32) else (g.slotOf sel).enable.getLsbD l)) ∧
      (g.sWrite sel (28 + k) w).setSlot sel (g.slotOf sel) = g) ∧
    (∀ k, k < 28 → ∀ w, (∀ j, (g.sWrite sel k w).sRead sel j = if j = k then w else g.sRead sel j) ∧
      { g.sWrite sel k w with s := g.s } = g) ∧
    (∀ x : BitVec 7, (g.spField sel x).setWidth 32 = g.sRead sel (x.toNat - 96) ∧
      (g.spField sel x).extractLsb' 32 32 = g.sRead sel (x.toNat - 95)) ∧
    (∀ (x : BitVec 7) (w : DWord), 96 ≤ x.toNat → x.toNat ≤ 122 → (g.spPut sel x w).spField sel x = w) ∧
    (∀ l, (g.pRead 0).getLsbD l = decide (l < min 96 g.lanes)) ∧ (∀ m v, g.pWrite 0 m v = g) ∧
    (∀ (k : Nat) (m v : Mask) (l : Nat), 0 < k → ((g.pWrite k m v).pRead k).getLsbD l =
      if m.getLsbD l then v.getLsbD l && g.full.getLsbD l else (g.pRead k).getLsbD l) ∧
    (∀ (k : Nat) (m v : Mask) (j : Nat), j ≠ k → (g.pWrite k m v).pRead j = g.pRead j)

/-! ### System words -/

/-- O18. NOP changes nothing (R320). SETM writes `m` but for `gw`, GETM writes `m` with the group width code in `gw` into D (R224,
R321). HOMEQ writes the home of an address under R91: bits [15:8] the die, bits [7:0] the slice, for the scalar form into D, for
the vector form into each lane of `en0`, with tag UI32, nothing else changed (R330). -/
def Obligations.ModeAndHome : Prop :=
  RowAll .nop (fun _ _ g => g) ∧
  RowAll .setm (fun sel f g => { g with m := (g.sB sel f &&& 0xFFCFFFFF#32) ||| (BitVec.ofNat 32 g.gwc <<< 20) }) ∧
  RowAll .getm (fun sel f g => g.sPut sel f.d ((g.m &&& 0xFFCFFFFF#32) ||| (BitVec.ofNat 32 g.gwc <<< 20))) ∧
  RowIf .homeq (fun _ f _ => 96 ≤ f.d.toNat)
    (fun sel f g => g.sPut sel f.d (homeWord g.die ((g.spField sel f.b).setWidth 52))) ∧
  RowIf .homeq (fun _ f _ => f.d.toNat < 96)
    (fun sel f g => (g.vWrite f.d.toNat (lanesOf (g.en0 sel))
      (fun l => homeWord g.die ((pair64 (g.vRead (f.b.toNat + 1) l) (g.vRead f.b.toNat l)).setWidth 52))).setTag f.d.toNat 1) ∧
  (∀ (own : Nat) (va : VA), own < 8 → let w := homeWord own va
    let win := va.toNat / 2 ^ 48
    let i := va.toNat / 128 % 512
    (win < 8 → w.toNat = 256 * win + (i % 64) ^^^ (i / 64 * 8 + i / 64)) ∧
    (8 ≤ win → win ≤ 11 → w.toNat = 256 * (i / 64) + (i % 64) ^^^ (i / 64 * 8 + i / 64)) ∧
    (win = 14 → w.toNat = 256 * own + 0x7F) ∧ (win = 12 ∨ win = 13 ∨ win = 15 → w.toNat = 0xFF7F)) ∧
  homeWord 0 0x3001234567880#52 = 0x32A#32

namespace Sys2Proof.Claims

/-- What the registers of trap bank `_l1` (`base` = 0x30) or `_l2` (0x40) read (R259). -/
def TrapRegs (base : Nat) (t : TrapBank) (n : Nat) (w : Word) : Prop :=
  (n = base → w = t.cause) ∧ (n = base + 1 → w = t.ret.setWidth 32) ∧ (n = base + 2 → w = (t.ret.extractLsb' 32 20).setWidth 32) ∧
  (n = base + 3 → w = t.mask.extractLsb' 0 32) ∧ (n = base + 4 → w = t.mask.extractLsb' 32 32) ∧
  (n = base + 5 → w = t.mask.extractLsb' 64 32) ∧ (n = base + 6 → w = t.addr.setWidth 32) ∧
  (n = base + 7 → w = (t.addr.extractLsb' 32 20).setWidth 32) ∧ (n = base + 8 → w = t.word) ∧ (n = base + 9 → w = t.lit) ∧
  (n = base + 10 → w = t.mode) ∧ (n = base + 11 → w = t.info)

/-- What `bankst` reads of a bank (R120): the mode, the core that it serves, lent, claimed, draining, the FIFO it is. -/
def BankStatus (b : Bank) (w : Word) : Prop :=
  w.toNat / 2 ^ 30 = (match b.mode with | .cache => 0 | .scratch => 1 | .fifo => 2) ∧ w.toNat / 2 ^ 29 % 2 = b.core % 2 ∧
  w.getLsbD 28 = (b.mode == .scratch && b.clm.isNone) ∧ w.getLsbD 27 = b.clm.isSome ∧ w.getLsbD 26 = b.drn ∧
  w.toNat / 2 ^ 23 % 8 = b.fifo % 8 ∧ w.toNat % 2 ^ 23 = 0

end Sys2Proof.Claims

/-- O19. SYSR completes and writes the register that A numbers into D (R322): identity (R243), the low half of the clock, with
`clk_hi` latched for the next read of it, the flags, the watch entries, the counters (R241), the live mask, `hint_drop`, the argument
pointer, the trap registers and both trap banks (R259, R260), the registers of the device and of the group's die (R98, R120, R214).
That `banksel`, which says whose status `bankst` reads, is a register of the die is the model's reading (log 36). -/
def Obligations.SystemReads : Prop :=
  ∀ (s : State) (c : Cursor) (g : Group) (f : Fields), Ready s c g Op.sysr f → StepOff g →
    let b := g.begun (c.env g Op.sysr f)
    let n := f.a.toNat
    ∃ w, Does (.sysr f) s c g
        ((if n = 0x0E then { b with clkHi := some (BitVec.ofNat 32 (s.clk / 2 ^ 32)) } else if n = 0x0F then { b with clkHi := none }
          else b).sPut c.sel f.d w) ∧
      (n = 0x00 → w = BitVec.ofNat 32 g.die) ∧ (n = 0x01 → w = BitVec.ofNat 32 g.core) ∧
      (n = 0x02 → w = BitVec.ofNat 32 g.quarter) ∧ (n = 0x03 → w = BitVec.ofNat 32 (g.core / 2)) ∧
      (n = 0x04 → w = BitVec.ofNat 32 g.gidx) ∧
      (n = 0x05 → w = g.tidx.1) ∧ (n = 0x06 → w = g.tidx.2.1) ∧ (n = 0x07 → w = g.tidx.2.2) ∧
      (n = 0x08 → w = g.tdim.1) ∧ (n = 0x09 → w = g.tdim.2.1) ∧ (n = 0x0A → w = g.tdim.2.2) ∧
      (n = 0x0B → w = BitVec.ofNat 32 g.gcount) ∧
      (n = 0x0C → w = g.lid) ∧ (n = 0x0D → w = g.ctx.setWidth 32) ∧
      (n = 0x0E → w = BitVec.ofNat 32 s.clk) ∧ (n = 0x0F → w = g.clkHi.getD (BitVec.ofNat 32 (s.clk / 2 ^ 32))) ∧
      (n = 0x10 → w = g.fxf.setWidth 32) ∧
      (n = 0x11 → (s.watches g).length ≤ 31 → w.toNat % 2 ^ 8 = (s.watches g).length ∧
        w.toNat / 2 ^ 8 % 2 ^ 8 = ((s.watches g).filter (fun x => x.state != .pending)).length ∧
        w.toNat / 2 ^ 16 = ((s.watches g).filter (fun x => x.state == .struck)).length) ∧
      (n = 0x12 → g.ops.length ≤ 63 → w.toNat % 64 = g.cnt .ld ∧ w.toNat / 2 ^ 8 % 64 = g.cnt .st ∧
        w.toNat / 2 ^ 16 % 64 = g.cnt .cp ∧ w.toNat / 2 ^ 24 % 64 = g.cnt .xt) ∧
      (n = 0x13 → w = g.live.extractLsb' 0 32) ∧ (n = 0x14 → w = g.live.extractLsb' 32 32) ∧
      (n = 0x15 → w = g.live.extractLsb' 64 32) ∧ (n = 0x16 → w = g.hintDrop) ∧
      (n = 0x17 → w = g.arg.setWidth 32) ∧ (n = 0x18 → w = g.arg.extractLsb' 32 32) ∧
      (n = 0x20 → g.lvl ≤ 2 → w.toNat % 4 = g.lvl ∧ w.getLsbD 2 = g.pv ∧ w.getLsbD 3 = (g.ts == .b) ∧ w.toNat < 16) ∧
      (n = 0x21 → w = g.tvecUser.setWidth 32) ∧ (n = 0x22 → w = (g.tvecUser.extractLsb' 32 20).setWidth 32) ∧
      (n = 0x23 → w = g.troute.setWidth 32) ∧ TrapRegs 0x30 g.trap1 n w ∧ TrapRegs 0x40 g.trap2 n w ∧
      (n = 0x50 → w = g.tvecDev.setWidth 32) ∧ (n = 0x51 → w = (g.tvecDev.extractLsb' 32 20).setWidth 32) ∧
      (n = 0x52 → w = g.tsave.setWidth 32) ∧ (n = 0x53 → w = (g.tsave.extractLsb' 32 20).setWidth 32) ∧
      (n = 0x60 → w = s.mem.ctxtab.setWidth 32) ∧ (n = 0x61 → w = s.mem.ctxtab.extractLsb' 32 32) ∧
      (n = 0x62 → w = BitVec.ofNat 32 s.mem.mbound) ∧ (n = 0x63 → w = s.mem.xiva.setWidth 32) ∧
      (n = 0x64 → w = s.mem.xiva.extractLsb' 32 32) ∧ (n = 0x65 → w = 0) ∧ (n = 0x66 → w = if s.mem.xiBusy then 1 else 0) ∧
      (n = 0x67 → w = (s.die g.die).banksel.setWidth 32) ∧
      (n = 0x68 → BankStatus (s.bank (bankKey g.pairId (s.die g.die).banksel.toNat)) w) ∧
      (n = 0x69 → let limit := (s.quarter (quarterKey g.coreId g.quarter)).limit
        limit < 256 → w.toNat = (s.die g.die).llthr.toNat * 256 + limit) ∧
      (n = 0x6A → w = (s.die g.die).hvec.setWidth 32) ∧ (n = 0x6B → w = ((s.die g.die).hvec.extractLsb' 32 20).setWidth 32) ∧
      (n = 0x6C → w = (s.die g.die).hsav.setWidth 32) ∧ (n = 0x6D → w = ((s.die g.die).hsav.extractLsb' 32 20).setWidth 32) ∧
      (n = 0x6E → w = (s.die g.die).cimtab.setWidth 32) ∧ (n = 0x6F → w = (s.die g.die).cimtab.extractLsb' 32 32)

/-- O20. SYSW to a register of the group completes and writes B into it, and changes no other register: the flags, `hint_drop`, the
trap vectors, `troute`, `tsave`, and of a trap bank `tret`, the mask within the group's width, `tmode` (R258, R259, R322). Of
`tinfo` only what the cause marks RW can change: nothing, for a cause other than TRANSLATION and PROTECTION. SYSW to a machine
register completes when no earlier access of the group is open, and writes B into that register of the device or of the group's
die: no group changes (R98, R99, R214, R259, R323). While an earlier access is open it waits, and changes nothing. That `banksel` is a
register of the die is the model's reading (log 36). -/
def Obligations.SystemWrites : Prop :=
  (let put := fun (n : Nat) (eff : Word → Group → Group) =>
     RowIf .sysw (fun _ f _ => f.a.toNat = n) (fun sel f g => eff (g.sB sel f) g)
   put 0x10 (fun w g => { g with fxf := w.setWidth 5 }) ∧ put 0x16 (fun w g => { g with hintDrop := w }) ∧
   put 0x21 (fun w g => { g with tvecUser := g.tvecUser.extractLsb' 32 20 ++ w }) ∧
   put 0x22 (fun w g => { g with tvecUser := w.setWidth 20 ++ g.tvecUser.setWidth 32 }) ∧
   put 0x23 (fun w g => { g with troute := w.setWidth 17 }) ∧
   put 0x50 (fun w g => { g with tvecDev := g.tvecDev.extractLsb' 32 20 ++ w }) ∧
   put 0x51 (fun w g => { g with tvecDev := w.setWidth 20 ++ g.tvecDev.setWidth 32 }) ∧
   put 0x52 (fun w g => { g with tsave := g.tsave.extractLsb' 32 20 ++ w }) ∧
   put 0x53 (fun w g => { g with tsave := w.setWidth 20 ++ g.tsave.setWidth 32 }) ∧
   put 0x3A (fun w g => { g with trap1 := { g.trap1 with mode := w } }) ∧
   put 0x4A (fun w g => { g with trap2 := { g.trap2 with mode := w } }) ∧
   RowIf .sysw (fun _ f g => f.a.toNat = 0x31 ∧ g.trap1.cause ≠ 0x0B ∧ g.trap1.cause ≠ 0x0C)
     (fun sel f g => { g with trap1 := { g.trap1 with ret := g.trap1.ret.extractLsb' 32 20 ++ g.sB sel f } }) ∧
   RowIf .sysw (fun _ f g => f.a.toNat = 0x3B ∧ g.trap1.cause ≠ 0x0B ∧ g.trap1.cause ≠ 0x0C) (fun _ _ g => g) ∧
   RowIf .sysw (fun _ f _ => f.a.toNat = 0x33) (fun sel f g => { g with trap1 := { g.trap1 with
     mask := ((g.trap1.mask.extractLsb' 32 64 ++ g.sB sel f)) &&& g.full } })) ∧
  (∀ (s : State) (c : Cursor) (g : Group) (f : Fields), Ready s c g Op.sysw f → StepOff g → 0x60 ≤ f.a.toNat →
     let b := g.begun (c.env g Op.sysw f)
     let n := f.a.toNat
     let w := b.sB c.sel f
     let s1 := s.setGroup c.gid b
     let d := s.die g.die
     let dies := fun (x : DieState) => s1.setDie g.die x
     (g.ops.any (fun o => !o.done) = true → ∃ t, exec (.sysw f) s = .next t ∧ t.cur = none ∧ t.outside = s.outside ∧
       (t.group? c.gid).map Group.books = some g.books ∧ ∀ k, k ≠ c.gid → t.group? k = s.group? k) ∧
     (g.ops.all (fun o => o.done) = true →
       (n = 0x60 → s.hasContexts = false → Completes (.sysw f) s
         { s1 with mem := { s.mem with ctxtab := s.mem.ctxtab.extractLsb' 32 32 ++ w } } c g) ∧
       (n = 0x60 ∨ n = 0x61 ∨ n = 0x62 → s.hasContexts = true → Completes (.sysw f) s s1 c g) ∧
       (n = 0x62 → s.hasContexts = false → w.toNat ≤ s.channelMiB →
         Completes (.sysw f) s { s1 with mem := { s.mem with mbound := w.toNat } } c g) ∧
       (n = 0x63 → Completes (.sysw f) s { s1 with mem := { s.mem with xiva := s.mem.xiva.extractLsb' 32 32 ++ w } } c g) ∧
       (n = 0x64 → Completes (.sysw f) s { s1 with mem := { s.mem with xiva := w ++ s.mem.xiva.setWidth 32 } } c g) ∧
       (n = 0x67 → Completes (.sysw f) s (dies { d with banksel := w.setWidth 6 }) c g) ∧
       (n = 0x69 → Completes (.sysw f) s (dies { d with llthr := w.extractLsb' 8 8 }) c g) ∧
       (n = 0x6A → Completes (.sysw f) s (dies { d with hvec := d.hvec.extractLsb' 32 20 ++ w }) c g) ∧
       (n = 0x6C → Completes (.sysw f) s (dies { d with hsav := d.hsav.extractLsb' 32 20 ++ w }) c g) ∧
       (n = 0x6E → Completes (.sysw f) s (dies { d with cimtab := d.cimtab.extractLsb' 32 32 ++ w }) c g) ∧
       (n = 0x6F → Completes (.sysw f) s (dies { d with cimtab := w ++ d.cimtab.setWidth 32 }) c g) ∧
       (n = 0x65 → s.mem.xiBusy = false → w = 0x200 → Completes (.sysw f) s
         { s1 with mem := { s.mem with xiBusy := true, xiNow := some .all } } c g ∧
         ∀ t, exec (.sysw f) s = .next t → Instr.invalidationComplete ∈ t.agenda)))

/-- O21. EXIT completes when no watch entry of its level is unfreed: its lanes are those of `en0`. With no earlier access open they leave
the live mask and the owned and enable masks at once, and the slot empties when it owns no lane any more; with one open they leave
nothing before the release is performed, and run nothing meanwhile (R235, R237, R326). -/
def Obligations.ExitLeaves : Prop :=
  ∀ (s : State) (c : Cursor) (g : Group) (f : Fields), Ready s c g Op.exit f → StepOff g → s.watches g = [] → g.dead = false →
    let b := g.begun (c.env g Op.exit f)
    let p := b.slotOf c.sel
    let m := g.en0 c.sel
    ∃ t u, exec (.exit f) s = .next t ∧ t.group? c.gid = some u ∧ (∀ k, k ≠ c.gid → t.group? k = s.group? k) ∧
      t.outside = s.outside ∧
      (g.undone = [] → u.live = g.live &&& ~~~m ∧ (g.live &&& ~~~m = 0 → Instr.groupEnd c.gid ∈ t.agenda) ∧
        (p.owned &&& ~~~m ≠ 0 → (u.slotOf c.sel).owned = p.owned &&& ~~~m ∧ (u.slotOf c.sel).enable = p.enable &&& ~~~m ∧
          (p.status = .ready → (u.slotOf c.sel).pc = p.pc)) ∧
        (p.owned &&& ~~~m = 0 → g.stack = [] → (u.slotOf c.sel).status = .empty)) ∧
      (g.undone ≠ [] → g.headOp = none → u.live = g.live ∧ u.stack = g.stack ∧ u.en0 c.sel &&& m = 0 ∧
        (u.slotOf c.sel).owned = p.owned ∧ (u.slotOf c.sel).enable = p.enable ∧ (u.slotOf c.sel).pc = p.pc ∧
        ∃ o ∈ u.ops, o.kind = .exit ∧ o.lanes = m ∧ o.done = false) ∧
      (∀ r l, u.vRead r l = g.vRead r l) ∧ u.s = g.s ∧ u.p = g.p ∧ u.trow = g.trow ∧ u.fxf = g.fxf ∧ u.m = g.m ∧ u.hc = g.hc

/-- O22. WAIT completes when each counter is at or below its threshold in the literal, WAITX when the named counter is at or below
B, a value above 63 acting as 63; otherwise, whichever counter is above, they hold their group and change nothing else (R317, R328). YIELD completes and changes
no register, no memory and no other group (R327). FENCE completes, as an acquire of its core, when no earlier access is open, for
X = 1 when no earlier load is (R155, R329): that every L1 copy of the core expires in both forms is the model's choice (log 24). Each of the four answers a next state under these conditions, also with STEP on. -/
def Obligations.WaitsAndFence : Prop :=
  (∀ (s : State) (c : Cursor) (g : Group) (f : Fields),
     (Ready s c g Op.yield f → ∃ t, exec (.yield f) s = .next t) ∧
     (Ready s c g Op.wait f → g.cnt .ld ≤ f.lit.toNat % 64 → g.cnt .st ≤ f.lit.toNat / 2 ^ 8 % 64 →
       g.cnt .cp ≤ f.lit.toNat / 2 ^ 16 % 64 → g.cnt .xt ≤ f.lit.toNat / 2 ^ 24 % 64 → ∃ t, exec (.wait f) s = .next t) ∧
     (Ready s c g Op.waitx f → let n := min 63 (g.sField c.sel f.b).toNat
       (f.a = 0 → g.cnt .ld ≤ n) → (f.a = 1 → g.cnt .st ≤ n) → (f.a = 2 → g.cnt .cp ≤ n) → (f.a = 3 → g.cnt .xt ≤ n) →
       ∃ t, exec (.waitx f) s = .next t) ∧
     (Ready s c g Op.fence f → s.watches g = [] → g.undone.any (fun o => !f.x || o.kind.isLoad) = false →
       ∃ t, exec (.fence f) s = .next t)) ∧
  RowIf .wait (fun _ f g => g.cnt .ld ≤ f.lit.toNat % 64 ∧ g.cnt .st ≤ f.lit.toNat / 2 ^ 8 % 64 ∧
    g.cnt .cp ≤ f.lit.toNat / 2 ^ 16 % 64 ∧ g.cnt .xt ≤ f.lit.toNat / 2 ^ 24 % 64) (fun _ _ g => g) ∧
  RowIf .waitx (fun sel f g => let n := min 63 (g.sField sel f.b).toNat
    (f.a = 0 → g.cnt .ld ≤ n) ∧ (f.a = 1 → g.cnt .st ≤ n) ∧ (f.a = 2 → g.cnt .cp ≤ n) ∧ (f.a = 3 → g.cnt .xt ≤ n))
    (fun _ _ g => g) ∧
  (∀ (s : State) (c : Cursor) (g : Group) (f : Fields),
    let holds := fun (i : Instr) => ∃ t u, exec i s = .next t ∧ t.cur = none ∧ t.group? c.gid = some u ∧ u.books = g.books ∧
      u.holdSel = some c.sel ∧ (∀ k, k ≠ c.gid → t.group? k = s.group? k) ∧ t.outside = s.outside
    (Ready s c g Op.wait f →
      (f.lit.toNat % 64 < g.cnt .ld ∨ f.lit.toNat / 2 ^ 8 % 64 < g.cnt .st ∨ f.lit.toNat / 2 ^ 16 % 64 < g.cnt .cp ∨
        f.lit.toNat / 2 ^ 24 % 64 < g.cnt .xt) → holds (.wait f)) ∧
    (Ready s c g Op.waitx f → let n := min 63 (g.sField c.sel f.b).toNat
      ((f.a = 0 ∧ n < g.cnt .ld) ∨ (f.a = 1 ∧ n < g.cnt .st) ∨ (f.a = 2 ∧ n < g.cnt .cp) ∨ (f.a = 3 ∧ n < g.cnt .xt)) →
      holds (.waitx f))) ∧
  (∀ (s : State) (c : Cursor) (g : Group) (f : Fields), Ready s c g Op.yield f → StepOff g →
    ∃ ys, Does (.yield f) s c g { g.begun (c.env g Op.yield f) with yielded := ys }) ∧
  (∀ (s : State) (c : Cursor) (g : Group) (f : Fields), Ready s c g Op.fence f → StepOff g → s.watches g = [] →
    g.undone.any (fun o => !f.x || o.kind.isLoad) = false →
    Completes (.fence f) s ((s.setGroup c.gid (g.begun (c.env g Op.fence f))).expireAll g.coreId) c g)

/-- O23. What context 0 alone executes (R331, R333, R335, R336). In another context, privileged, LAUNCH traps LAUNCH, and RECV and
SEND trap CUE, with `tmask` = `en0`. In context 0 LAUNCH completes, leaving D and D + 1 to the answer; RECV completes with the
oldest hardware message, else the oldest cue, else it waits until its B clocks have passed, for ever where B is all ones, and returns
zeros, at once where B is 0; SEND completes when
nothing is open, the hold has room and the kind may be sent, with D the number given. -/
def Obligations.DirectorWords : Prop :=
  ∀ (s : State) (c : Cursor) (g : Group) (f : Fields), StepOff g →
    (Ready s c g Op.launch f →
      let b := g.begun (c.env g Op.launch f)
      (g.ctx ≠ 0 → Enters g 0x1D →
        Traps (.launch f) s c b { cause := 0x1D, mask := g.en0 c.sel } (g.slotOf c.sel).pc (wordOf 0x0E f) f.lit) ∧
      (g.ctx = 0 → ∃ (o : MemOp) (sE : State), Completes (.launch f) s sE c g ∧ sE.group? c.gid = some (b.push o) ∧
        o.kind = .launch ((b.spField c.sel f.b).setWidth 52) ∧ o.order.rel = true ∧ o.cls = .none ∧ o.done = false ∧
        o.regs = [.s (f.d.toNat - 96), .s (f.d.toNat - 96 + 1)] ∧ sE.outside = s.outside ∧
        ∀ k, k ≠ c.gid → sE.group? k = s.group? k)) ∧
    (Ready s c g Op.recv f → g.gwc ≤ 2 →
      let b := g.begun (c.env g Op.recv f)
      let got := fun (t : State) (u : Group) (m : List Byte) (mark : Word) =>
        exec (.recv f) s = .next t ∧ t.group? c.gid = some u ∧
        (∀ l, l < g.lanes → u.vRead f.d.toNat l =
          if l < 16 then BitVec.ofNat 32 (field m (4 * l) 4) else if l = 16 then mark else 0) ∧
        u.tagOf f.d.toNat = 15 ∧ (∀ r l, r ≠ f.d.toNat → l < 96 → u.vRead r l = g.vRead r l) ∧ u.s = g.s ∧ u.p = g.p ∧
        t.mem.dram = s.mem.dram ∧ ∀ k, k ≠ c.gid → t.group? k = s.group? k
      (g.ctx ≠ 0 → Enters g 0x1E →
        Traps (.recv f) s c b { cause := 0x1E, mask := g.en0 c.sel } (g.slotOf c.sel).pc (wordOf 0x0F f) f.lit) ∧
      (g.ctx = 0 → ∀ m rest, (s.die g.die).hw = m :: rest →
        ∃ t u, got t u m 2 ∧ (t.die g.die).hw = rest ∧ (t.die g.die).cues = (s.die g.die).cues) ∧
      (g.ctx = 0 → ∀ m rest, (s.die g.die).hw = [] → (s.die g.die).cues = m :: rest →
        ∃ t u, got t u m 1 ∧ (t.die g.die).cues = rest) ∧
      (g.ctx = 0 → (s.die g.die).hw = [] → (s.die g.die).cues = [] → g.waiting c.sel = none → b.sB c.sel f = 0 →
        ∃ t u, got t u [] 0) ∧
      (g.ctx = 0 → (s.die g.die).hw = [] → (s.die g.die).cues = [] → g.waiting c.sel = none → b.sB c.sel f = 0xFFFFFFFF#32 →
        ∃ t u, exec (.recv f) s = .next t ∧ t.cur = none ∧ t.group? c.gid = some u ∧
          (u.slotOf c.sel).pc = (g.slotOf c.sel).pc ∧ u.v = g.v ∧
          (u.waiting c.sel).any (fun (r : RecvWait) => r.pc == (g.slotOf c.sel).pc && r.until_.isNone) = true) ∧
      (g.ctx = 0 → (s.die g.die).hw = [] → (s.die g.die).cues = [] →
        let n := (b.sB c.sel f).toNat
        let waits := fun (d : Nat) => ∃ t u, exec (.recv f) s = .next t ∧ t.cur = none ∧ t.group? c.gid = some u ∧
          (u.slotOf c.sel).pc = (g.slotOf c.sel).pc ∧ u.v = g.v ∧
          u.waiting c.sel = some { pc := (g.slotOf c.sel).pc, until_ := some d }
        (g.waiting c.sel = none → 0 < n → n < 0xFFFFFFFF → waits (s.clk + n)) ∧
        (∀ d, g.waiting c.sel = some { pc := (g.slotOf c.sel).pc, until_ := some d } →
          (d ≤ s.clk → ∃ t u, got t u [] 0 ∧ u.waiting c.sel = none) ∧ (s.clk < d → waits d)))) ∧
    (Ready s c g Op.send f →
      let b := g.begun (c.env g Op.send f)
      let kind := (g.vRead f.b.toNat 1).toNat % 256
      let may := (0x02 ≤ kind ∧ kind ≤ 0x0A) ∨ (0x40 ≤ kind ∧ kind ≤ 0x7F)
      (s.watches g = [] → (g.ctx ≠ 0 ∨ ¬ may) → Enters g 0x1E →
        Traps (.send f) s c b { cause := 0x1E, mask := g.en0 c.sel } (g.slotOf c.sel).pc (wordOf 0x10 f) f.lit) ∧
      (s.watches g = [] → g.ctx = 0 → may → g.undone = [] → s.host.hold.length < 1024 → s.host.waitEvts = [] →
        ∃ t, exec (.send f) s = .next t ∧
          (t.group? c.gid).map Group.books = some (b.sPut c.sel f.d s.host.evtNext).books ∧
          t.host.evtNext = s.host.evtNext + 1 ∧ t.mem.dram = s.mem.dram ∧ ∀ k, k ≠ c.gid → t.group? k = s.group? k)) ∧
    (Ready s c g Op.bankcfg f →
      let b := g.begun (c.env g Op.bankcfg f)
      let w := b.sB c.sel f
      let ns := (List.range 64).filter (fun n => (b.spField c.sel f.a).getLsbD n)
      let bad := w.toNat / 64 ≠ 0 ∨ w.toNat / 16 % 4 = 3 ∨ (w.toNat / 16 % 4 ≠ 2 ∧ w.toNat % 8 ≠ 0)
      (bad ∨ ns = [] → Enters g 0x1F → Traps (.bankcfg f) s c b { cause := 0x1F, mask := g.en0 c.sel, info := BitVec.ofNat 32 (ns.headD 0) }
        (g.slotOf c.sel).pc (wordOf 0x11 f) f.lit) ∧
      (¬ bad → ns ≠ [] → (∀ n ∈ ns, (s.bank (bankKey g.pairId n)).clm = none) →
        ∃ t u, exec (.bankcfg f) s = .next t ∧ t.group? c.gid = some u ∧ u.draining = ns.map (bankKey g.pairId) ∧
          (∀ n ∈ ns, (t.bank (bankKey g.pairId n)).drn = true ∧ (t.bank (bankKey g.pairId n)).mode = (s.bank (bankKey g.pairId n)).mode ∧
            (∀ h : n < 64, Instr.bankDrainComplete g.pairId ⟨n, h⟩ ∈ t.agenda)) ∧
          t.mem.dram = s.mem.dram ∧ ∀ k, k ≠ c.gid → t.group? k = s.group? k))

/-! ### Control words -/

namespace Sys2Proof.Claims

/-- A control word that completes and changes only its group; `eff` takes the word's address. -/
def ControlRow (mk : Fields → Instr) (cond : PcSel → Fields → Group → Prop) (eff : PcSel → VA → Fields → Group → Group) : Prop :=
  ∀ (s : State) (c : Cursor) (g : Group) (f : Fields) (op : Op), (mk f).word? = some (op, f) → Ready s c g op f → StepOff g →
    cond c.sel f (g.begun (c.env g op f)) →
    Does (mk f) s c g (eff c.sel (g.slotOf c.sel).pc f (g.begun (c.env g op f)))

/-- PC + 4 × literal, modulo 2^52 (R304). -/
def target (pc : VA) (lit : Word) : VA := BitVec.ofInt 52 ((pc.toNat : Int) + 4 * lit.toInt)

/-- The hold count of lane `l`. -/
def hold (g : Group) (l : Nat) : Nat := SMap.get 0 g.hc l

/-- A word of structured control that completes: each enabled lane of its slot gets a hold count and a break bit, every other lane
keeps its own, and nothing else of the machine changes. -/
def HoldRow (mk : Fields → Instr) (cond : PcSel → Fields → Group → Prop)
    (hc : PcSel → Fields → Group → Nat → Nat) (hb : PcSel → Fields → Group → Nat → Bool) : Prop :=
  ∀ (s : State) (c : Cursor) (g : Group) (f : Fields) (op : Op), (mk f).word? = some (op, f) → Ready s c g op f → StepOff g →
    let b := g.begun (c.env g op f)
    cond c.sel f b → ∃ gE, Does (mk f) s c g gE ∧ { gE with hc := b.hc, hb := b.hb } = b ∧
      ∀ l, l < 96 →
        hold gE l = (if lane (b.slotOf c.sel).enable l then hc c.sel f b l else hold b l) ∧
        lane gE.hb l = (if lane (b.slotOf c.sel).enable l then hb c.sel f b l else lane b.hb l)

/-- A word that takes NEST_OVERFLOW, for the enabled lanes that stand at 126, with nothing changed. -/
def NestRow (mk : Fields → Instr) (code : Nat) : Prop :=
  ∀ (s : State) (c : Cursor) (g : Group) (f : Fields) (op : Op), (mk f).word? = some (op, f) → Ready s c g op f →
    let b := g.begun (c.env g op f)
    let bad := maskOf (fun l => lane (b.slotOf c.sel).enable l && decide (126 ≤ hold b l))
    bad ≠ 0 → Enters g 0x07 →
      Traps (mk f) s c b { cause := 0x07, mask := bad } (g.slotOf c.sel).pc (wordOf code f) f.lit

end Sys2Proof.Claims

/-- O24. The branches move the PC of their slot as R339 says, CALL writes the address of the next word into D, and nothing else
changes. -/
def Obligations.Branches : Prop :=
  ControlRow .bra (fun _ _ _ => True) (fun sel pc f g => g.setPc sel (target pc f.lit)) ∧
  ControlRow .brz (fun _ _ _ => True) (fun sel pc f g => if g.sField sel f.a = 0 then g.setPc sel (target pc f.lit) else g) ∧
  ControlRow .brnz (fun _ _ _ => True) (fun sel pc f g => if g.sField sel f.a ≠ 0 then g.setPc sel (target pc f.lit) else g) ∧
  ControlRow .call (fun _ _ _ => True)
    (fun sel pc f g => (g.spPut sel f.d ((pc + 8).setWidth 64)).setPc sel (target pc f.lit)) ∧
  ControlRow .ret (fun _ _ _ => True) (fun sel _ f g => g.setPc sel ((g.spField sel f.a).setWidth 52)) ∧
  ControlRow .jmpr (fun _ _ _ => True) (fun sel pc f g => g.setPc sel (target pc (g.sField sel f.a)))

/-- O25. IF, ELSE, ENDIF, LOOP, BRK and CONT act on the enabled lanes of their slot as R231 says; IF and LOOP complete so when no
enabled lane stands at 126. ENDL (R231): enabled lanes that continued (`hc` = 1, `hb` = 0) return; when some enabled lane then has
`hc` = 0 the slot branches to the target, else the held lanes drop one level, a lane that reaches 0 loses its break bit, and the
slot goes on. An IF or LOOP that would raise the hold count of an enabled lane above 126 traps NEST_OVERFLOW before it changes any
lane (R232). -/
def Obligations.StructuredControl : Prop :=
  (let kept := fun (_ : PcSel) (_ : Fields) (g : Group) (l : Nat) => lane g.hb l
   let room := fun (sel : PcSel) (_ : Fields) (g : Group) => ∀ l, lane (g.slotOf sel).enable l = true → hold g l < 126
   HoldRow .condIf room (fun _ f g l => if hold g l > 0 then hold g l + 1 else if lane (g.pRead f.a.toNat) l then 0 else 1) kept ∧
   HoldRow .condElse (fun _ _ _ => True)
     (fun _ _ g l => if hold g l = 1 then 0 else if hold g l = 0 then 1 else hold g l) kept ∧
   HoldRow .condEndif (fun _ _ _ => True) (fun _ _ g l => if hold g l > 0 then hold g l - 1 else 0) kept ∧
   HoldRow .loop room (fun _ _ g l => if hold g l > 0 then hold g l + 1 else 0) kept ∧
   HoldRow .brk (fun _ _ _ => True)
     (fun _ f g l => if hold g l = 0 ∧ lane (g.pRead f.a.toNat) l = true then f.d.toNat + 1 else hold g l)
     (fun _ f g l => if hold g l = 0 ∧ lane (g.pRead f.a.toNat) l = true then true else lane g.hb l) ∧
   HoldRow .cont (fun _ _ _ => True)
     (fun _ f g l => if hold g l = 0 ∧ lane (g.pRead f.a.toNat) l = true then f.d.toNat + 1 else hold g l)
     (fun _ f g l => if hold g l = 0 ∧ lane (g.pRead f.a.toNat) l = true then false else lane g.hb l)) ∧
  (∀ (s : State) (c : Cursor) (g : Group) (f : Fields), Ready s c g Op.endl f → StepOff g →
     let b := g.begun (c.env g Op.endl f)
     let en := (b.slotOf c.sel).enable
     let h1 := fun l => if lane en l && hold b l == 1 && !lane b.hb l then 0 else hold b l
     let back := ∃ l, lane en l = true ∧ h1 l = 0
     ∃ gE, Does (.endl f) s c g gE ∧
       (back → gE.slotOf c.sel = { b.slotOf c.sel with pc := target (g.slotOf c.sel).pc f.lit } ∧
         (gE.setSlot c.sel (b.slotOf c.sel) = { b with hc := gE.hc }) ∧ ∀ l, l < 96 → hold gE l = h1 l) ∧
       (¬ back → { gE with hc := b.hc, hb := b.hb } = b ∧
         ∀ l, l < 96 → hold gE l = (if lane en l then h1 l - 1 else h1 l) ∧
           lane gE.hb l = (lane b.hb l && !(lane en l && h1 l - 1 == 0)))) ∧
  (NestRow .condIf 0x26 ∧ NestRow .loop 0x29)

/-- O26. SPLIT does what R233 says with M, the slot's enabled lanes with `hc` = 0 and p true: nothing, when M is empty; a branch, when
M is the slot's owned mask; otherwise M moves to the other slot, whose occupant goes onto the split stack, with hold counts kept; a
push onto a full stack traps SPLIT_OVERFLOW and changes nothing. What a pushed word keeps with it is the model's choice (log 19). -/
def Obligations.Split : Prop :=
  ∀ (s : State) (c : Cursor) (g : Group) (f : Fields), Ready s c g Op.split f → StepOff g →
    let b := g.begun (c.env g Op.split f)
    let p := b.slotOf c.sel
    let o := b.slotOf (otherSel c.sel)
    let m := g.en0 c.sel &&& g.pRead f.a.toNat
    let dest := target (g.slotOf c.sel).pc f.lit
    (m = 0 → Does (.split f) s c g b) ∧
    (m ≠ 0 → m = p.owned → Does (.split f) s c g (b.setPc c.sel dest)) ∧
    (m ≠ 0 → m ≠ p.owned → (o.status = .empty ∨ g.stack.length < 64) → ∃ gE, Does (.split f) s c g gE ∧
      gE.slotOf c.sel = { p with owned := p.owned &&& ~~~m, enable := p.enable &&& ~~~m } ∧
      (let q := gE.slotOf (otherSel c.sel)
       q.pc = dest ∧ q.owned = m ∧ q.enable = m ∧ q.status = .ready) ∧
      gE.stack = (if o.status = .empty then b.stack else { pc := o.pc, owned := o.owned, enable := o.enable, kept := o.kept } :: b.stack) ∧
      { gE with slotA := b.slotA, slotB := b.slotB, stack := b.stack } = b) ∧
    (m ≠ 0 → m ≠ p.owned → o.status ≠ .empty → 64 ≤ g.stack.length → Enters g 0x06 →
      Traps (.split f) s c b { cause := 0x06, mask := g.en0 c.sel } (g.slotOf c.sel).pc (wordOf 0x2D f) f.lit)

/-- O27. JOIN at address J does what R234 says: it passes when the other slot is empty; it merges with a slot that waits at J, slot A
taking both owned and both enable masks with its PC past J; of two that wait at different addresses the lower passes; otherwise
the slot waits at J and may not issue. The slot that a merge empties takes the top of the split stack (R235), when its level has one:
that entries below the level's mark stay is the model's reading (log 18). -/
def Obligations.Join : Prop :=
  ∀ (s : State) (c : Cursor) (g : Group) (f : Fields), Ready s c g Op.join f → StepOff g →
    let b := g.begun (c.env g Op.join f)
    let J := (g.slotOf c.sel).pc
    let p := b.slotOf c.sel
    let o := b.slotOf (otherSel c.sel)
    let waits := b.setSlot c.sel { p with pc := J, status := .joining }
    (o.status = .empty → Does (.join f) s c g b) ∧
    (o.status = .joining → o.pc = J → ∃ gE, Does (.join f) s c g gE ∧
      gE.slotA.pc = J + 4 ∧ gE.slotA.owned = p.owned ||| o.owned ∧ gE.slotA.enable = p.enable ||| o.enable ∧
      gE.slotA.status = .ready ∧
      (b.stack.length ≤ b.mark → gE.slotB = PcSlot.none ∧ gE.stack = b.stack) ∧
      (∀ e rest, b.stack = e :: rest → b.mark < b.stack.length → gE.slotB.pc = e.pc ∧ gE.slotB.owned = e.owned ∧
        gE.slotB.enable = e.enable ∧ gE.slotB.status = .ready ∧ gE.stack = rest) ∧
      { gE with slotA := b.slotA, slotB := b.slotB, stack := b.stack } = b) ∧
    (o.status = .joining → J.toNat < o.pc.toNat → Does (.join f) s c g b) ∧
    (o.status = .joining → o.pc.toNat < J.toNat →
      Does (.join f) s c g (waits.setSlot (otherSel c.sel) { o with pc := o.pc + 4, status := .ready })) ∧
    (o.status = .ready ∨ o.status = .demoted → Does (.join f) s c g waits ∧ waits.eligible c.sel = false)

/-! ### Barriers, watches, maintenance, hints -/

/-- O28. BARA, BARW and BARAW (R409, R410). A group that has not arrived at barrier k arrives: BARA completes with the phase it
arrives in in D, and with no access open the group's arrived bit is set. BARW completes once the phase differs from bit 0 of B, and
waits while it does not. BARAW stays at its address once it has arrived, and completes once the phase has inverted. -/
def Obligations.Barriers : Prop :=
  ∀ (s : State) (c : Cursor) (g : Group) (f : Fields), StepOff g →
    let k := f.a.toNat
    let stays := fun (i : Instr) => ∃ t u, exec i s = .next t ∧ t.cur = none ∧ t.group? c.gid = some u ∧
      (u.slotOf c.sel).pc = (g.slotOf c.sel).pc ∧ u.s = g.s ∧ u.v = g.v ∧ ∀ j, j ≠ c.gid → t.group? j = s.group? j
    (Ready s c g Op.bara f → s.watches g = [] → s.hasArrived g k = false → g.undone = [] → ∀ tm, s.team? g.teamId = some tm →
      let b := g.begun (c.env g Op.bara f)
      ∃ t u tm', exec (.bara f) s = .next t ∧ t.group? c.gid = some u ∧ t.team? g.teamId = some tm' ∧
        u.s = (b.sPut c.sel f.d (if tm.ph.getLsbD k then 1 else 0)).s ∧ u.v = g.v ∧ u.p = g.p ∧
        tm'.hasArrived k g.gidx = true ∧ tm'.ph = tm.ph ∧ t.mem.dram = s.mem.dram ∧
        (∀ j, j ≠ c.gid → t.group? j = s.group? j) ∧
        (∀ h : k < 16, tm'.complete k = true → Instr.barrierPhaseComplete g.teamId ⟨k, h⟩ ∈ t.agenda)) ∧
    (Ready s c g Op.barw f →
      let b := g.begun (c.env g Op.barw f)
      (s.phase g k ≠ (b.sField c.sel f.b).getLsbD 0 →
        Completes (.barw f) s ((s.setGroup c.gid b).expireAll g.coreId) c g) ∧
      (s.phase g k = (b.sField c.sel f.b).getLsbD 0 → stays (.barw f))) ∧
    (Ready s c g Op.baraw f →
      let b := g.begun (c.env g Op.baraw f)
      let J := (g.slotOf c.sel).pc
      (∀ w, (g.slotOf c.sel).kept.bar = some w → w.pc = J → w.k = k → s.phase g k ≠ w.phase →
        Completes (.baraw f) s ((s.setGroup c.gid (b.setArrived c.sel none)).expireAll g.coreId) c g) ∧
      (∀ w, (g.slotOf c.sel).kept.bar = some w → w.pc = J → w.k = k → s.phase g k = w.phase → stays (.baraw f)) ∧
      ((g.slotOf c.sel).kept.bar = none → s.watches g = [] → s.hasArrived g k = false → stays (.baraw f) ∧
        ∀ t u, exec (.baraw f) s = .next t → t.group? c.gid = some u →
          ∃ w, (u.slotOf c.sel).kept.bar = some w ∧ w.pc = J ∧ w.k = k ∧ w.phase = s.phase g k))

/-- O29. CHKW completes when no entry of the group's level is pending, also where it holds none: it frees the
level's entries and no others, and branches when one of them was struck; while one is pending it waits. WCLR completes and frees the
level's entries (R164, R411). -/
def Obligations.Watches : Prop :=
  ∀ (s : State) (c : Cursor) (g : Group) (f : Fields), StepOff g →
    let freed := fun (x : Group) => (s.setGroup c.gid x).freeLevel g
    (Ready s c g Op.wclr f → Completes (.wclr f) s (freed (g.begun (c.env g Op.wclr f))) c g) ∧
    (Ready s c g Op.chkw f → (∀ w ∈ s.watches g, w.state ≠ .pending) →
      let b := g.begun (c.env g Op.chkw f)
      Completes (.chkw f) s (freed (if (s.watches g).any (fun w => w.state == .struck) then
        b.setPc c.sel (target (g.slotOf c.sel).pc f.lit) else b)) c g) ∧
    (Ready s c g Op.chkw f → (∃ w ∈ s.watches g, w.state = .pending) → ∃ t u, exec (.chkw f) s = .next t ∧ t.cur = none ∧
      t.group? c.gid = some u ∧ u.books = g.books ∧ (∀ k, k ≠ c.gid → t.group? k = s.group? k) ∧ t.outside = s.outside) ∧
    (∀ x w, w ∈ ((freed x).core g.coreId).uwt ↔ w ∈ (s.core g.coreId).uwt ∧ ¬ (w.gid = g.gid ∧ w.level = g.lvl)) ∧
    (∀ x k, k ≠ g.coreId → (freed x).core k = s.core k) ∧ (∀ x, (freed x).mem = s.mem)

namespace Sys2Proof.Claims

/-- The word `i` completes by registering operation `o`, which has been given the group's next number and whose event, where it has
one, has been posted; `gT` is its group but for the operation. No other group changes, and no memory. -/
def Issues (i : Instr) (s : State) (c : Cursor) (gT : Group) (o : MemOp) : Prop :=
  ∃ t, exec i s = .next t ∧ (t.group? c.gid).map Group.books = some (gT.push o).books ∧
    (∀ k, k ≠ c.gid → t.group? k = s.group? k) ∧ t.mem.dram = s.mem.dram ∧ t.bankMem = s.bankMem ∧ t.host = s.host ∧
    t.fab = s.fab ∧ t.teams = s.teams ∧ ∀ ev, ({ o with id := gT.nextOp } : MemOp).event c.gid = some ev → ev ∈ t.agenda

/-- An operation is all that a group has in flight, and the group is alive. -/
structure Alone (s : State) (gid : Nat) (g : Group) (o : MemOp) : Prop where
  group : s.group? gid = some g
  ops   : g.ops = [o]
  open_ : o.done = false
  alive : g.dead = false
  plain : s.speculates gid = false

/-- The group's operation is complete, and the group has become `g'`. -/
def Through (t : State) (gid : Nat) (g' : Group) : Prop := t.group? gid = some g' ∧ g'.undone = []

/-- A software-managed line of a die and context that a maintenance of `count` bytes at `base` covers (R138). -/
def Covered (g : Group) (base : VA) (count k : Nat) (x : L2Line) : Prop :=
  x.attr.swm = true ∧ l2KeyDie k = g.die ∧ l2KeyCtx k = g.ctx ∧ 0 < count ∧ base.toNat / 128 ≤ l2KeyLine k ∧
  l2KeyLine k ≤ (base.toNat + count - 1) / 128

end Sys2Proof.Claims

/-- O30. CLNR, INVR and FLSR complete, counted by ST, by registering the maintenance of the range that starts at A and has B bytes
(R138, R412). STORE_PERFORMED of one that covers line x, and no other: CLNR and FLSR write its dirty bytes at its home, INVR discards them;
after CLNR the copy stays, clean, with its bytes, after INVR and FLSR it is gone; no other byte of device memory changes, nor a line of
another location. PREF and RESID complete: no register changes but `hint_drop`, which a dropped hint raises by 1 up to all ones; other
groups keep all but the list of lines that their L1 has put out. RESID takes its lines in order, at most 8,192; its hint counts as
dropped when some line of them has no leaf that permits the read or the range has more (R244, R413). -/
def Obligations.Maintenance : Prop :=
  ∀ (s : State) (c : Cursor) (g : Group) (f : Fields), StepOff g →
    let reg := fun (mk : Fields → Instr) (op : Op) (fn : MaintFn) => Ready s c g op f → g.cnt .st < 63 →
      let b := g.begun (c.env g op f)
      ∃ o, Issues (mk f) s c b o ∧ o.cls = .st ∧ o.done = false ∧
        o.kind = .maintain fn ((b.spField c.sel f.a).setWidth 52) (b.sB c.sel f).toNat
    reg .clnr Op.clnr .clean ∧ reg .invr Op.invr .invalidate ∧ reg .flsr Op.flsr .flush ∧
    (∀ (gid : Nat) (o : MemOp) (fn : MaintFn) (base : VA) (count k : Nat) (x : L2Line), Alone s gid g o →
      o.kind = .maintain fn base count → SMap.sorted s.l2 = true → s.l2At k = some x → Covered g base count k x →
      (∀ k' x', s.l2At k' = some x' → Covered g base count k' x' → k' = k) → isAperture (l2KeyLine k) = false →
      (s.slice (l2KeySlice k)).sweep = false → s.mem.xiNow = none →
      ∃ t g', exec (.storePerformed gid) s = .next t ∧ Through t gid g' ∧
        (∀ j, j < 128 → t.dramByte (x.loc + j) =
          if fn ≠ .invalidate ∧ x.dirty.getLsbD j = true then byteOf x.data j else s.dramByte (x.loc + j)) ∧
        (∀ a, a < x.loc ∨ x.loc + 128 ≤ a → t.dramByte a = s.dramByte a) ∧
        (fn = .clean → ∃ y, t.l2At k = some y ∧ y.dirty = 0 ∧ y.attr = x.attr ∧ y.loc = x.loc ∧
          ∀ j, j < 128 → byteOf y.data j = byteOf x.data j) ∧
        (fn ≠ .clean → t.l2At k = none) ∧
        ∀ k' y, s.l2At k' = some y → y.loc ≠ x.loc → isAperture (l2KeyLine k') = false → t.l2At k' = some y) ∧
    (Ready s c g Op.pref f →
      let b := g.begun (c.env g Op.pref f)
      let va := (b.spField c.sel f.a + (b.sB c.sel f).signExtend 64).setWidth 52
      let drop := ((s.setGroup c.gid b).hintLeaf b va).isNone
      let bare := fun (x : Group) => { x.books with victims := [] }
      ∃ t, exec (.pref f) s = .next t ∧ (∀ k, k ≠ c.gid → (t.group? k).map bare = (s.group? k).map bare) ∧
        (t.group? c.gid).map bare = some (bare (if drop then
          { b with hintDrop := if g.hintDrop = 0xFFFFFFFF#32 then g.hintDrop else g.hintDrop + 1 } else b))) ∧
    (Ready s c g Op.resid f →
      let b := g.begun (c.env g Op.resid f)
      let base := ((b.spField c.sel f.a).setWidth 52).toNat
      let count := (b.sB c.sel f).toNat
      let lines := if count = 0 then 0 else (base + count - 1) / 128 - base / 128 + 1
      let va := fun (k : Nat) => (BitVec.ofNat 52 ((base / 128 + k) * 128) : VA)
      ∃ (t : State) (us : Nat → State), exec (.resid f) s = .next t ∧ (∀ k, k ≠ c.gid → t.group? k = s.group? k) ∧
        us 0 = s.setGroup c.gid b ∧
        (∀ k, us (k + 1) = match (us k).hintLeaf b (va k) with
          | none => us k
          | some leaf => if isScratch (va k) then us k else (us k).hintLine b c.gid (va k) leaf false) ∧
        (let drop := 8192 < lines ∨ ∃ k, k < min lines 8192 ∧ (us k).hintLeaf b (va k) = none
         (drop → (t.group? c.gid).map Group.books = some ({ b with
           hintDrop := if g.hintDrop = 0xFFFFFFFF#32 then g.hintDrop else g.hintDrop + 1 } : Group).books) ∧
         (¬ drop → (t.group? c.gid).map Group.books = some b.books)))

/-! ### Vector words -/

namespace Sys2Proof.Claims

/-- Vector registers d to d + n − 1 were written in the lanes of `m` at most, and took a tag; no other vector register or lane, no
other tag and nothing else of the group but `fxf` changed. -/
structure Written (g gE : Group) (d n tag : Nat) (m : Mask) : Prop where
  frame : ∀ r l, l < 96 → ¬ (d ≤ r ∧ r < d + n ∧ lane m l = true) → gE.vRead r l = g.vRead r l
  tags  : ∀ r, gE.tagOf r = if d ≤ r ∧ r < d + n then tag else g.tagOf r
  rest  : { gE with v := g.v, vtag := g.vtag, fxf := g.fxf } = g

/-- The sticky flags of a group are those that it had and those that some lane of `m` raised (R261). -/
def Raised (g gE : Group) (m : Mask) (fl : Nat → Flags) : Prop :=
  ∀ j, gE.fxf.getLsbD j = true ↔ g.fxf.getLsbD j = true ∨ ∃ l, lane m l = true ∧ (fl l).bits.getLsbD j = true

/-- A word that writes one register, a value for each executing lane, raises no flag, and changes nothing else. -/
def VectorRow (mk : Fields → Instr) (tag : Fields → Group → Nat) (val : PcSel → Fields → Group → Nat → Word) : Prop :=
  ∀ (s : State) (c : Cursor) (g : Group) (f : Fields) (op : Op), (mk f).word? = some (op, f) → Ready s c g op f → StepOff g →
    let b := g.begun (c.env g op f)
    ∃ gE, Does (mk f) s c g gE ∧ Written b gE f.d.toNat 1 (tag f b) (b.exec c.sel) ∧ gE.fxf = b.fxf ∧
      ∀ l, lane (b.exec c.sel) l = true → gE.vRead f.d.toNat l = val c.sel f b l

/-- A bit operation on A and B (R354). -/
def BitRow (mk : Fields → Instr) (val : Word → Word → Word) : Prop :=
  VectorRow mk (fun _ _ => 15) (fun sel f g l => val (g.vRead f.a.toNat l) (g.opB sel f l))

/-- A word that writes predicate D in the executing lanes; a write to `p0` is discarded. -/
def PredRow (mk : Fields → Instr) (val : PcSel → Fields → Group → Nat → Bool) : Prop :=
  ∀ (s : State) (c : Cursor) (g : Group) (f : Fields) (op : Op), (mk f).word? = some (op, f) → Ready s c g op f → StepOff g →
    let b := g.begun (c.env g op f)
    ∃ gE, Does (mk f) s c g gE ∧ { gE with p := b.p } = b ∧
      ∀ k l, l < 96 → (gE.pRead k).getLsbD l =
        if k = f.d.toNat ∧ k ≠ 0 ∧ lane (b.exec c.sel) l = true then val c.sel f b l && b.full.getLsbD l
        else (b.pRead k).getLsbD l

/-- A word of typed arithmetic with no trap enabled: every element of D in every executing lane is `res` of the elements of A, B and
D there; the tag of D, or of its pair, is the type; the flags of the elements are raised; nothing else changes (R346, R347,
R349). -/
def TypedRow (mk : Fields → Instr) (cond : PcSel → Fields → Group → Prop) (res : Group → Nat → Nat → Nat → FRes) : Prop :=
  ∀ (s : State) (c : Cursor) (g : Group) (f : Fields) (op : Op), (mk f).word? = some (op, f) → Ready s c g op f → StepOff g →
    g.xe = 0 →
    let b := g.begun (c.env g op f)
    let ty := b.ty
    let r := fun l k => res b (elem ty (b.typed c.sel ty f.a l) k) (elem ty (b.typedB c.sel ty f l) k)
      (elem ty (b.typed c.sel ty f.d l) k)
    cond c.sel f b →
    ∃ gE, Does (mk f) s c g gE ∧ Written b gE f.d.toNat (if wide ty then 2 else 1) ty (b.exec c.sel) ∧
      (∀ l, lane (b.exec c.sel) l = true → ∀ k, k < elems ty →
        elem ty (gE.typed c.sel ty f.d l) k = (r l k).bits % 2 ^ elemBits ty) ∧
      (∀ j, gE.fxf.getLsbD j = true ↔ b.fxf.getLsbD j = true ∨
        ∃ l k, lane (b.exec c.sel) l = true ∧ k < elems ty ∧ (r l k).flags.bits.getLsbD j = true)

/-- A word with no trap enabled that writes n registers from D on, raising flags lane by lane. -/
def ValueRow (mk : Fields → Instr) (cond : PcSel → Fields → Group → Prop) (n tag : Group → Nat)
    (val : PcSel → Fields → Group → Nat → Nat → Word) (fl : PcSel → Fields → Group → Nat → Flags) : Prop :=
  ∀ (s : State) (c : Cursor) (g : Group) (f : Fields) (op : Op), (mk f).word? = some (op, f) → Ready s c g op f → StepOff g →
    g.xe = 0 →
    let b := g.begun (c.env g op f)
    cond c.sel f b →
    ∃ gE, Does (mk f) s c g gE ∧ Written b gE f.d.toNat (n b) (tag b) (b.exec c.sel) ∧
      (∀ l, lane (b.exec c.sel) l = true → ∀ k, k < n b → gE.vRead (f.d.toNat + k) l = val c.sel f b l k) ∧
      Raised b gE (b.exec c.sel) (fl c.sel f b)

/-- A compare with no trap enabled (R352). -/
def CompareRow (mk : Fields → Instr) (int : Int → Int → Bool) (flt : FVal → FVal → Bool) (ordered : Bool) : Prop :=
  ∀ (s : State) (c : Cursor) (g : Group) (f : Fields) (op : Op), (mk f).word? = some (op, f) → Ready s c g op f → StepOff g →
    g.xe = 0 →
    let b := g.begun (c.env g op f)
    let x := fun l => b.typed c.sel b.ty f.a l
    let y := fun l => b.typedB c.sel b.ty f l
    let truth := fun l => match fmtOf b.ty with
      | some fm => flt (fm.read b.ftz (x l)) (fm.read b.ftz (y l))
      | none => int (intOf b.ty (x l)) (intOf b.ty (y l))
    let nan := fun l => match fmtOf b.ty with
      | some fm => (fm.read b.ftz (x l)).isNaN || (fm.read b.ftz (y l)).isNaN
      | none => false
    ∃ gE, Does (mk f) s c g gE ∧ { gE with p := b.p, fxf := b.fxf } = b ∧
      (∀ k l, l < 96 → (gE.pRead k).getLsbD l =
        if k = f.d.toNat ∧ k ≠ 0 ∧ lane (b.exec c.sel) l = true then truth l && b.full.getLsbD l else (b.pRead k).getLsbD l) ∧
      Raised b gE (b.exec c.sel) (fun l => { Flags.none with iv := ordered && nan l })

/-- The elements of a register value, element 0 lowest, with a result for each. -/
def packed (ty n : Nat) (h : Nat → Nat) : Word := BitVec.ofNat 32 (packElems ty ((List.range n).map h))

/-- The flags that n results raise together. -/
def joined (n : Nat) (h : Nat → Flags) : Flags := (List.range n).foldl (fun a k => a.or (h k)) Flags.none

/-- The shape of a trap that a word takes after it has completed: kind A. -/
def TrapsAfter (mk : Fields → Instr) (cond : PcSel → Fields → Group → Prop) (code : Nat)
    (after : PcSel → Fields → Group → Group) (info : PcSel → Fields → Group → TrapInfo) : Prop :=
  ∀ (s : State) (c : Cursor) (g : Group) (f : Fields) (op : Op), (mk f).word? = some (op, f) → Ready s c g op f →
    let b := g.begun (c.env g op f)
    cond c.sel f b → Enters g (info c.sel f b).cause →
      Traps (mk f) s c (after c.sel f b) (info c.sel f b) (g.slotOf c.sel).pc (wordOf code f) f.lit

end Sys2Proof.Claims

/-- O31. Moves, selections and bit operations (R348, R353, R354, R361, R362, R367): each executing lane of D takes the value, D its
tag, and nothing else changes. VSEL writes every lane of `en0`. -/
def Obligations.VectorMoves : Prop :=
  VectorRow .vmov (fun f g => if f.l || 96 ≤ f.b.toNat then 15 else g.tagOf f.b.toNat) (fun sel f g l => g.opB sel f l) ∧
  VectorRow .vbcast (fun f g => g.tagOf f.a.toNat) (fun sel f g _ => g.vRead f.a.toNat ((g.sB sel f).toNat % g.lanes)) ∧
  VectorRow .vlane (fun _ _ => 1) (fun _ _ _ l => BitVec.ofNat 32 l) ∧
  BitRow .vand (fun a b => a &&& b) ∧ BitRow .vor (fun a b => a ||| b) ∧ BitRow .vxor (fun a b => a ^^^ b) ∧
  BitRow .vnot (fun _ b => ~~~b) ∧
  BitRow .vshl (fun a b => if 32 ≤ b.toNat % 64 then 0 else BitVec.ofNat 32 (a.toNat * 2 ^ (b.toNat % 64))) ∧
  BitRow .vshr (fun a b => if 32 ≤ b.toNat % 64 then 0 else BitVec.ofNat 32 (a.toNat / 2 ^ (b.toNat % 64))) ∧
  BitRow .vsra (fun a b => BitVec.ofInt 32 (a.toInt / (2 : Int) ^ (b.toNat % 64))) ∧
  VectorRow .vpopc (fun _ _ => 1)
    (fun sel f g l => BitVec.ofNat 32 ((List.range 32).filter (fun k => (g.opB sel f l).getLsbD k)).length) ∧
  VectorRow .vclz (fun _ _ => 1) (fun sel f g l => BitVec.ofNat 32 (leading (g.opB sel f l))) ∧
  BitRow .vbfe fieldAt ∧
  (VectorRow .vbfi (fun _ _ => 15) (fun sel f g l =>
    let d := g.opB sel f l
    let p := d.toNat % 32
    let w := min (d.toNat / 32 % 64) (32 - p)
    BitVec.ofNat 32 ((List.range 32).foldl (fun a k => a + (if (if p ≤ k ∧ k < p + w then (g.vRead f.a.toNat l).getLsbD (k - p)
      else (g.vRead f.d.toNat l).getLsbD k) then 2 ^ k else 0)) 0))) ∧
  VectorRow .shfl (fun f g => g.tagOf f.a.toNat) (fun sel f g l => let j := (g.opB sel f l).toNat
    g.vRead f.a.toNat (if j < g.lanes then j else l)) ∧
  VectorRow .shflx (fun f g => g.tagOf f.a.toNat) (fun sel f g l => let j := l ^^^ (g.opB sel f l).toNat
    g.vRead f.a.toNat (if j < g.lanes then j else l)) ∧
  VectorRow .idot4 (fun _ _ => 0) (fun sel f g l => (List.range 4).foldl (fun acc k => acc +
    BitVec.ofInt 32 (intOf g.ty (elem g.ty (g.vRead f.a.toNat l).toNat k) * intOf g.ty (elem g.ty (g.opB sel f l).toNat k)))
    (g.vRead f.d.toNat l)) ∧
  (∀ (s : State) (c : Cursor) (g : Group) (f : Fields), Ready s c g Op.vsel f → StepOff g →
    let b := g.begun (c.env g Op.vsel f)
    let ta := b.tagOf f.a.toNat
    let tb := if f.l || 96 ≤ f.b.toNat then 15 else b.tagOf f.b.toNat
    ∃ gE, Does (.vsel f) s c g gE ∧ Written b gE f.d.toNat 1 (if tb = ta ∨ tb = 15 then ta else 15) (b.en0 c.sel) ∧
      gE.fxf = b.fxf ∧ ∀ l, lane (b.en0 c.sel) l = true → gE.vRead f.d.toNat l =
        let p := (b.pRead (b.m.toNat % 8)).getLsbD l
        if (if b.m.getLsbD 3 then !p && decide (l < b.lanes) else p) then b.vRead f.a.toNat l else b.opB c.sel f l)

/-- O32. Predicate words and the words for handlers: VPAND, VPOR, VPNOT, VOTEANY, VOTEALL, VPSET, BALLOT, VMOVI (R355, R357, R358,
R367). VMOVI writes the register that D numbers and leaves its tag; at or beyond `nvr` it traps REG_RANGE. -/
def Obligations.PredicatesAndHandlers : Prop :=
  PredRow .vpand (fun _ f g l => (g.pRead f.a.toNat).getLsbD l && (g.pRead f.b.toNat).getLsbD l) ∧
  PredRow .vpor (fun _ f g l => (g.pRead f.a.toNat).getLsbD l || (g.pRead f.b.toNat).getLsbD l) ∧
  PredRow .vpnot (fun _ f g l => !(g.pRead f.b.toNat).getLsbD l) ∧
  PredRow .voteany (fun sel f g _ => (List.range 96).any (fun k => lane (g.exec sel) k && (g.pRead f.a.toNat).getLsbD k)) ∧
  PredRow .voteall (fun sel f g _ => (List.range 96).all (fun k => !lane (g.exec sel) k || (g.pRead f.a.toNat).getLsbD k)) ∧
  PredRow .vpset (fun sel f g l => (g.sRead sel (f.a.toNat - 96 + l / 32)).getLsbD (l % 32)) ∧
  RowAll .ballot (fun sel f g => (List.range g.beats).foldl (fun x k => x.sWrite sel (f.d.toNat - 96 + k)
    ((g.exec sel &&& g.pRead f.a.toNat).extractLsb' (32 * k) 32)) g) ∧
  (∀ (s : State) (c : Cursor) (g : Group) (f : Fields), Ready s c g Op.vmovi f →
    let b := g.begun (c.env g Op.vmovi f)
    let n := (b.sField c.sel f.d).toNat
    (StepOff g → n < g.nvr → ∃ gE, Does (.vmovi f) s c g gE ∧ { gE with v := b.v } = b ∧
      ∀ r l, l < 96 → gE.vRead r l = if r = n ∧ lane (b.exec c.sel) l = true then b.opB c.sel f l else b.vRead r l) ∧
    (g.nvr ≤ n → Enters g 0x09 → Traps (.vmovi f) s c b
      { cause := 0x09, mask := b.exec c.sel, info := BitVec.ofNat 32 (min n 127) } (g.slotOf c.sel).pc (wordOf 0x7D f) f.lit))

/-- O33. Typed arithmetic completes in every executing lane and element, under the type and modes in force, when no trap is enabled
and, for integer division, no executing lane divides by zero (R346, R347, R349, R350). -/
def Obligations.TypedArithmetic : Prop :=
  let row := fun (mk : Fields → Instr) (o : AOp) =>
    TypedRow mk (fun _ _ _ => True) (fun g x y d => o.elem g.ty g.rm g.ftz g.sati x y d)
  let divides := fun (mk : Fields → Instr) (o : AOp) =>
    TypedRow mk (fun sel f g => (fmtOf g.ty).isSome = true ∨ ∀ l, lane (g.exec sel) l = true → g.typedB sel g.ty f l ≠ 0)
      (fun g x y d => o.elem g.ty g.rm g.ftz g.sati x y d)
  row .vadd .add ∧ row .vsub .sub ∧ row .vmul .mul ∧ row .vfma .fma ∧ row .vmin .min ∧ row .vmax .max ∧ row .vabs .abs ∧
  row .vneg .neg ∧ row .vmulh .mulh ∧ divides .vdiv .div ∧ divides .vrem .rem

/-- O34. The elements of integer types are two's complement and wrap modulo 2^w (R290, R350): sums and differences saturate under
`m.sati`, except of I64; division truncates, by zero it gives all ones and the dividend; no flag is raised. -/
def Obligations.IntegerElements : Prop :=
  ∀ (ty : Nat) (rm : Rm) (ftz sat : Bool), ty ∈ [0, 1, 5, 6, 7, 11, 13] → ∀ (x y d : BitVec (elemBits ty)),
    let w := elemBits ty
    let u := ty == 1 || ty == 7
    let r := fun (o : AOp) => o.elem ty rm ftz sat x.toNat y.toNat d.toNat
    let is := fun (o : AOp) (z : BitVec w) => (r o).bits = z.toNat
    let clamp := fun (z : Int) => if u then max 0 (min (2 ^ w - 1) z) else max (-(2 ^ (w - 1))) (min (2 ^ (w - 1) - 1) z)
    let v := fun (z : BitVec w) => if u then (z.toNat : Int) else z.toInt
    let smaller := if v y < v x then y else x
    let larger := if v x < v y then y else x
    (∀ o, (r o).flags = Flags.none) ∧
    is .add (if sat ∧ ty ≠ 13 then BitVec.ofInt w (clamp (v x + v y)) else x + y) ∧
    is .sub (if sat ∧ ty ≠ 13 then BitVec.ofInt w (clamp (v x - v y)) else x - y) ∧
    is .mul (x * y) ∧ is .fma (x * y + d) ∧ is .min smaller ∧ is .max larger ∧
    is .abs (if u then y else if y.msb then -y else y) ∧ is .neg (-y) ∧
    is .div (if y = 0 then BitVec.allOnes w else if u then x.udiv y else x.sdiv y) ∧
    is .rem (if y = 0 then x else if u then x.umod y else x.srem y) ∧
    is .mulh (BitVec.ofInt w (v x * v y / 2 ^ w))

namespace Sys2Proof.Claims

/-- The number that a dyadic stands for. -/
def num (x : Dy) : ℚ := (x.m : ℚ) * (2 : ℚ) ^ x.e

end Sys2Proof.Claims

/-- O35. Exact arithmetic is exact: sums, products, negation and comparison of dyadic numbers are those of the rationals. Rounding a
magnitude to a multiple of 2^q goes the way of R292: RNE to a nearest one, at a tie to the even one; RZ to the one below; RUP and RDN to
the one above or below as the sign asks. -/
def Obligations.Rounding : Prop :=
  (∀ x y : Dy, num (x.add y) = num x + num y ∧ num (x.mul y) = num x * num y ∧ num x.neg = -num x ∧
    num x.abs = |num x| ∧ (x.lt y = true ↔ num x < num y) ∧ (x.eq y = true ↔ num x = num y)) ∧
  (∀ (x : Dy) (q : Int) (neg : Bool),
    let y := |num x| / (2 : ℚ) ^ q
    let r := fun rm => (roundMag rm neg x q : ℚ)
    |r .rne - y| ≤ 1 / 2 ∧ (|r .rne - y| = 1 / 2 → roundMag .rne neg x q % 2 = 0) ∧
    (r .rz ≤ y ∧ y < r .rz + 1) ∧
    (if neg then r .rup ≤ y ∧ y < r .rup + 1 else y ≤ r .rup ∧ r .rup < y + 1) ∧
    (if neg then y ≤ r .rdn ∧ r .rdn < y + 1 else r .rdn ≤ y ∧ y < r .rdn + 1))

/-- O36. The compares complete, with no trap enabled, and write the predicate in the executing lanes: integers by signedness of the
type, floating-point values with −0 equal to +0 and a NaN unequal to everything; VCLT and VCLE raise IV for a NaN, the others raise
nothing (R352). -/
def Obligations.Compares : Prop :=
  CompareRow .vceq (fun x y => decide (x = y)) (fun x y => x.eqv y) false ∧
  CompareRow .vcne (fun x y => decide (x ≠ y)) (fun x y => !x.eqv y) false ∧
  CompareRow .vclt (fun x y => decide (x < y)) (fun x y => x.lt y) true ∧
  CompareRow .vcle (fun x y => decide (x ≤ y)) (fun x y => x.lt y || x.eqv y) true ∧
  CompareRow .vcun (fun _ _ => false) (fun x y => x.isNaN || y.isNaN) false ∧
  (∀ (x y : FVal), (x.isNaN = true ∨ y.isNaN = true → x.eqv y = false ∧ x.lt y = false)) ∧
  (∀ (a b : Bool) (x y : Dy), let v := fun (n : Bool) (z : Dy) => if n then -num z else num z
    ((FVal.fin a x).eqv (.fin b y) = true ↔ v a x = v b y) ∧ ((FVal.fin a x).lt (.fin b y) = true ↔ v a x < v b y))

/-- O37. The special functions, VSQRT, the roundings to integral values and VCLASS complete, with no trap enabled, in every
executing lane and element (R356). Away from the special points of R302 the spec bounds the value of VRCP, VRSQ, VEX2, VLG2, VSIN and
VCOS and does not fix it: there the model's value is a free value within the bound (log 6). -/
def Obligations.SpecialFunctions : Prop :=
  let fm := fun (g : Group) => (fmtOf g.ty).getD .f32
  let row := fun (mk : Fields → Instr) (fn : SfFn) =>
    TypedRow mk (fun _ _ _ => True) (fun g _ y _ => fn.elem (fm g) g.ty g.ftz y)
  row .vrcp .rcp ∧ row .vrsq .rsq ∧ row .vex2 .ex2 ∧ row .vlg2 .lg2 ∧ row .vsin .sin ∧ row .vcos .cos ∧
  TypedRow .vsqrt (fun _ _ _ => True) (fun g _ y _ => sqrtElem (fm g) g.rm g.ftz y) ∧
  TypedRow .vflr (fun _ _ _ => True) (fun g _ y _ => integral (fm g) .rdn g.ftz y) ∧
  TypedRow .vceil (fun _ _ _ => True) (fun g _ y _ => integral (fm g) .rup g.ftz y) ∧
  TypedRow .vrnd (fun _ _ _ => True) (fun g _ y _ => integral (fm g) g.rm g.ftz y) ∧
  VectorRow .vclass (fun _ _ => 1) (fun sel f g l => BitVec.ofNat 32 ((List.range (elems g.ty)).foldl
    (fun a k => a + 2 ^ (16 * k + classBit (fm g) (elem g.ty (g.typed sel g.ty f.b l) k))) 0)) ∧
  (∀ n : Bool, ∀ fn ∈ [SfFn.rcp, .rsq], fn.special .f32 (.fin n Dy.zero) =
    some { bits := if n then 0xFF800000 else 0x7F800000, flags := { Flags.none with dz := true } }) ∧
  (∀ fn ∈ [SfFn.sin, .cos], ∀ n : Bool, fn.special .f32 (.inf n) = some { bits := 0x7FC00000, flags := { Flags.none with iv := true } })

/-- O38. Conversions, packs, unpacks, dot products and block scaling complete with no trap enabled (R359 to R363, R365): CVT when its
policy is not TRAP or nothing overflows. -/
def Obligations.Conversions : Prop :=
  let cv := fun (sel : PcSel) (f : Fields) (g : Group) (l k : Nat) =>
    convert f.cvtSource g.ty (f.b.toNat % 4) g.rm g.ftz (elem f.cvtSource (g.typed sel f.cvtSource f.a l) k)
  let n := fun (f : Fields) (g : Group) => min (elems f.cvtSource) (elems g.ty)
  let pk := fun (mk : Fields → Instr) (count : Nat) =>
    let v := fun (f : Fields) (g : Group) (l k : Nat) =>
      convert (if (fmtOf g.ty).isSome then 2 else 0) g.ty 0 g.rm g.ftz (g.vRead (f.a.toNat + k) l).toNat
    ValueRow mk (fun _ _ g => wide g.ty = false) (fun _ => 1) (fun g => g.ty)
      (fun _ f g l _ => packed g.ty count (fun k => (v f g l k).bits)) (fun _ f g l => joined count (fun k => (v f g l k).flags))
  ValueRow .cvt (fun sel f g => wide g.ty = false ∧ (f.b.toNat % 4 ≠ 3 ∨
      ∀ l, lane (g.exec sel) l = true → ∀ k, k < n f g → (cv sel f g l k).beyond = false))
    (fun _ => 1) (fun g => g.ty) (fun sel f g l _ => packed g.ty (n f g) (fun k => (cv sel f g l k).bits))
    (fun sel f g l => joined (n f g) (fun k => (cv sel f g l k).flags)) ∧
  ValueRow .cvt (fun sel f g => wide g.ty = true ∧ (f.b.toNat % 4 ≠ 3 ∨
      ∀ l, lane (g.exec sel) l = true → (cv sel f g l 0).beyond = false))
    (fun _ => 2) (fun g => g.ty)
    (fun sel f g l k => BitVec.ofNat 32 ((cv sel f g l 0).bits % 2 ^ 64 / 2 ^ (32 * k)))
    (fun sel f g l => (cv sel f g l 0).flags) ∧
  pk .vpk2 2 ∧ pk .vpk4 4 ∧ pk .vpk8 8 ∧
  VectorRow .vunpk (fun _ g => if (fmtOf g.ty).isSome then 2 else if g.ty = 1 ∨ g.ty = 7 then 1 else 0) (fun sel f g l =>
    let x := elem g.ty (g.vRead f.a.toNat l).toNat ((g.sB sel f).toNat % elems g.ty)
    if (fmtOf g.ty).isSome then BitVec.ofNat 32 (convertExact g.ty 2 g.ftz x) else BitVec.ofInt 32 (intOf g.ty x)) ∧
  (∀ mk ∈ [Instr.dot4, .dot8], ValueRow mk (fun _ _ _ => True) (fun _ => 1) (fun _ => 2)
    (fun sel f g l _ => BitVec.ofNat 32
      (dotFloat g.ty g.rm g.ftz (g.vRead f.a.toNat l).toNat (g.opB sel f l).toNat (g.vRead f.d.toNat l).toNat).bits)
    (fun sel f g l =>
      (dotFloat g.ty g.rm g.ftz (g.vRead f.a.toNat l).toNat (g.opB sel f l).toNat (g.vRead f.d.toNat l).toNat).flags)) ∧
  ValueRow .vscl (fun _ _ g => wide g.ty = false) (fun _ => 1) (fun g => g.ty)
    (fun sel f g l _ => let b := (g.opB sel f l).toNat
      packed g.ty (elems g.ty) (fun k => (scaleElem ((fmtOf g.ty).getD .f32) g.rm g.ftz
        (elem g.ty (g.vRead f.a.toNat l).toNat k) (b % 256) (b / 256 % 256)).bits))
    (fun sel f g l => let b := (g.opB sel f l).toNat
      joined (elems g.ty) (fun k => (scaleElem ((fmtOf g.ty).getD .f32) g.rm g.ftz
        (elem g.ty (g.vRead f.a.toNat l).toNat k) (b % 256) (b / 256 % 256)).flags)) ∧
  (∀ (mk : Fields → Instr) (counted : Bool), (mk = .qblk ∧ counted = false) ∨ (mk = .qblkn ∧ counted = true) →
    ∀ (s : State) (c : Cursor) (g : Group) (f : Fields) (op : Op), (mk f).word? = some (op, f) → Ready s c g op f → StepOff g →
    g.xe = 0 →
    let b := g.begun (c.env g op f)
    let w := b.sB c.sel f
    let count := if counted then min 16 (w.toNat / 2 ^ 9 % 32) else 16
    let sreg := w.toNat % 128
    let sb := w.toNat / 128 % 4
    let n := 16 / elems b.ty
    let blk := fun l => quantise ((fmtOf b.ty).getD .e4m3) b.rm count
      ((List.range 16).map (fun k => Fmt.f32.decode (b.vRead (f.a.toNat + k) l).toNat))
    ∃ gE, Does (mk f) s c g gE ∧ { gE with v := b.v, vtag := b.vtag, fxf := b.fxf } = b ∧
      (∀ l, lane (b.exec c.sel) l = true → ∀ k, k < n → gE.vRead (f.d.toNat + k) l =
        BitVec.ofNat 32 (packElems b.ty (((blk l).elems.drop (k * elems b.ty)).take (elems b.ty)))) ∧
      (∀ l, lane (b.exec c.sel) l = true → ∀ k, k < 4 → (gE.vRead sreg l).extractLsb' (8 * k) 8 =
        if k = sb then BitVec.ofNat 8 (blk l).scale else (b.vRead sreg l).extractLsb' (8 * k) 8) ∧
      (∀ r l, l < 96 → ¬ (lane (b.exec c.sel) l = true ∧ (r = sreg ∨ (f.d.toNat ≤ r ∧ r < f.d.toNat + n))) →
        gE.vRead r l = b.vRead r l) ∧
      (∀ r, gE.tagOf r = if r = sreg then 14 else if f.d.toNat ≤ r ∧ r < f.d.toNat + n then b.ty else b.tagOf r) ∧
      Raised b gE (b.exec c.sel) (fun l => (blk l).flags))

/-- O39. GRED writes the reduction of the executing lanes' values to every executing lane, GSCAN to lane L that of the executing
lanes up to L (R368); both complete with no trap enabled. Integer sums, and the bit operations, are those of 32-bit words. -/
def Obligations.GroupReductions : Prop :=
  let over_ := fun (f : Fields) (g : Group) (ls : List Nat) =>
    reduceWords f.a.toNat g.ty g.rm g.ftz (ls.map (fun k => (g.vRead f.b.toNat k).toNat))
  let lanes := fun (sel : PcSel) (g : Group) (p : Nat → Bool) => (List.range 96).filter (fun l => lane (g.exec sel) l && p l)
  let row := fun (mk : Fields → Instr) (low : Bool) (p : Nat → Nat → Bool) =>
    ValueRow mk (fun _ f _ => if low then f.a.toNat < 3 else 3 ≤ f.a.toNat) (fun _ => 1) (fun g => if low then g.ty else 15)
      (fun sel f g l _ => BitVec.ofNat 32 (over_ f g (lanes sel g (p l))).bits)
      (fun sel f g l => (over_ f g (lanes sel g (p l))).flags)
  (∀ low, row .gred low (fun _ _ => true)) ∧ (∀ low, row .gscan low (fun l k => decide (k ≤ l))) ∧
  (∀ (ty : Nat) (rm : Rm) (ftz : Bool) (x : Word) (xs : List Word), ty = 0 ∨ ty = 1 →
    let r := fun o => BitVec.ofNat 32 (reduceWords o ty rm ftz ((x :: xs).map (fun w => w.toNat))).bits
    r 0 = xs.foldl (· + ·) x ∧ r 3 = xs.foldl (· &&& ·) x ∧ r 4 = xs.foldl (· ||| ·) x ∧ r 5 = xs.foldl (· ^^^ ·) x)

/-- O40. An arithmetic cause that `m.xe` enables is taken after the word has completed in every executing lane: of the flags that
lanes raised and `m.xe` enables the lowest-numbered, `tmask` the lanes that raised it, `tinfo` all flags raised, `tret` the word
itself (R250, R347). An integer division by zero takes INT_DIV0 for the lanes that divide by zero, whatever `m.xe` holds (R290,
R350). -/
def Obligations.ArithmeticTraps : Prop :=
  (∀ (g : Group) (fl : LaneFlags),
    let bit := fun j => fl.any (fun e => e.2.bits.getLsbD j)
    let hit := fun j => decide (j < 5) && g.xe.getLsbD j && bit j
    let all := BitVec.ofNat 5 ((List.range 5).foldl (fun a j => if bit j then a + 2 ^ j else a) 0)
    ((∀ j, hit j = false) → g.finish fl = .done { g with fxf := g.fxf ||| all }) ∧
    (∀ j, hit j = true → (∀ i, i < j → hit i = false) → g.finish fl = .trap
      { cause := 0x11 + j, mask := (fl.filter (fun e => e.2.bits.getLsbD j)).foldl (fun m e => m ||| ((1#96) <<< e.1)) 0,
        info := all.setWidth 32 } { g with fxf := g.fxf ||| all })) ∧
  (let row := fun (mk : Fields → Instr) (code : Nat) (o : AOp) =>
    TrapsAfter mk (fun sel f g => (fmtOf g.ty).isNone = true ∧ ∃ l, lane (g.exec sel) l = true ∧ g.typedB sel g.ty f l = 0) code
      (fun sel f g => let rs := g.typedOp sel f o
        g.putTyped g.ty f.d.toNat (g.execLanes sel) (valueAt rs))
      (fun sel f g => { cause := 0x10, mask := maskOf (fun l => lane (g.exec sel) l && g.typedB sel g.ty f l == 0) })
   row .vdiv 0x5B .div ∧ row .vrem 0x5C .rem) ∧
  (∀ (mk : Fields → Instr) (code : Nat) (o : AOp), (mk, code, o) ∈ [(Instr.vadd, 0x53, AOp.add), (.vmul, 0x55, .mul)] →
    TrapsAfter mk (fun sel f g => ∃ l k, lane (g.exec sel) l = true ∧ k < elems g.ty ∧ g.xe.getLsbD 0 = true ∧
        (o.elem g.ty g.rm g.ftz g.sati (elem g.ty (g.typed sel g.ty f.a l) k) (elem g.ty (g.typedB sel g.ty f l) k) 0).flags.iv = true)
      code
      (fun sel f g => let rs := g.typedOp sel f o
        (g.putTyped g.ty f.d.toNat (g.execLanes sel) (valueAt rs)).raise (flagsAt rs))
      (fun sel f g => let rs := g.typedOp sel f o
        { cause := 0x11, mask := flagLanes (flagsAt rs) 0, info := (flagsOf (flagsAt rs)).setWidth 32 }))

/-! ### Tile words -/

namespace Sys2Proof.Claims

/-- A tile word that completes: its group comes to `gT`, and the matrix unit of its quarter is taken until it is done, with the
registers that the word writes (R371). `post` relates the group as the word found it to `gT`. -/
def TileRow (mk : Fields → Instr) (cond : PcSel → Fields → Group → Prop) (post : PcSel → Fields → Group → Group → Prop) : Prop :=
  ∀ (s : State) (c : Cursor) (g : Group) (f : Fields) (op : Op), (mk f).word? = some (op, f) → Ready s c g op f → StepOff g →
    g.xe = 0 → g.gwc ≤ 2 →
    let b := g.begun (c.env g op f)
    cond c.sel f b →
    ∃ gT, Does (mk f) s c g gT ∧
      (∀ t, exec (mk f) s = .next t → Instr.tileUnitDone c.gid ∈ t.agenda ∧
        (t.quarter (quarterKey g.coreId g.quarter)).unit =
          some { gid := c.gid, regs := ({ op with a := .unused, b := .unused } : Op).named f b c.sel }) ∧
      post c.sel f b gT

/-- The rows of tile d took values in the lanes of `m`, and no other row of a tile changed. -/
def Rows (g gT : Group) (d : Nat) (m : Mask) (val : Nat → Row) : Prop :=
  ∀ t l, l < 96 → gT.rowOf t l = if t = d ∧ lane m l = true then val l else g.rowOf t l

/-- Every slice of tile d took a tag, and no other slice changed its own. -/
def SliceTags (g gT : Group) (d tag : Nat) : Prop :=
  ∀ t b, b < 3 → gT.sliceTag t b = if t = d ∧ b < g.beats then tag else g.sliceTag t b

/-- The row maxima and row sums of tile d took values in the lanes of `m`, and no others changed. -/
def RowStats (g gT : Group) (d : Nat) (m : Mask) (mx sm : Nat → Word) : Prop :=
  ∀ t l, l < 96 → gT.rowMax t l = (if t = d ∧ lane m l = true then mx l else g.rowMax t l) ∧
    gT.rowSum t l = (if t = d ∧ lane m l = true then sm l else g.rowSum t l)

/-- Nothing but tiles and `fxf` changed. -/
def TilesOnly (g gT : Group) : Prop :=
  { gT with trow := g.trow, ttag := g.ttag, rmax := g.rmax, rsum := g.rsum, fxf := g.fxf } = g

/-- Row word k of a row. -/
def rowWord (r : Row) (k : Nat) : Word := r.extractLsb' (32 * k) 32

/-- The post-condition of a butterfly word: of each slice whose lanes all execute the points are `h` of the points before, every other
row and all else stay. -/
def Butterfly (h : Fmt → Plan → Array Point → Array Point) (sel : PcSel) (f : Fields) (g gT : Group) : Prop :=
  TilesOnly g gT ∧ gT.ttag = g.ttag ∧ gT.rmax = g.rmax ∧ gT.rsum = g.rsum ∧
  ∀ pl, planOf (g.sB sel f) = some pl →
    let ty := g.sliceTag f.d.toNat 0
    let w := tileBits ty
    (∀ t l, l < 96 → ¬ (t = f.d.toNat ∧ l / 32 ∈ g.wholeBeats sel) → gT.rowOf t l = g.rowOf t l) ∧
    ∀ b ∈ g.wholeBeats sel, ∀ n, n < slicePoints ty →
      let p := (h ((fmtOf (componentTy ty)).getD .f32) pl (g.points f.d.toNat b)).getD n (0, 0)
      (gT.points f.d.toNat b).getD n (0, 0) = (p.1 % 2 ^ w, p.2 % 2 ^ w)

/-- The plan of a butterfly word is accepted, and fits the slices (R316, R388). -/
def PlanFits (sel : PcSel) (f : Fields) (g : Group) (pl : Plan) : Prop :=
  planOf (g.sB sel f) = some pl ∧ 2 ^ pl.logP ≤ slicePoints (g.sliceTag f.d.toNat 0) ∧
    ∀ b, b < g.beats → g.sliceTag f.d.toNat b = g.sliceTag f.d.toNat 0

end Sys2Proof.Claims

/-- O41. The tile words complete with no trap enabled, in the executing lanes' rows, and take the matrix unit (R370, R371, R374 to R376,
R381 to R387, R392): MMA and MMAZ, with the elements of type I8 the exact sums that wrap (R299); TZERO; TFRAG and TFILL, word by word;
TCVT, TSCL, TMAXR, TEXPS, TNORM, TWID. One that finds the unit of its quarter busy, with whichever group, ends the run and waits. -/
def Obligations.TileWords : Prop :=
  (∀ (s : State) (c : Cursor) (g : Group) (f : Fields) (mk : Fields → Instr) (w : TileWork),
    mk ∈ [Instr.mma, .mmaz, .tzero, .tfrag, .tfill, .tcvt, .tscl, .tmaxr, .texps, .tnorm, .twid, .tfft, .tfstg, .tbrev] →
    s.running = true → s.cur = some c → s.group? c.gid = some g → (s.quarter (quarterKey g.coreId g.quarter)).unit = some w →
    ∃ t, exec (mk f) s = .next t ∧ t.cur = none ∧ (t.group? c.gid).map Group.books = some g.books ∧
      (∀ k, k ≠ c.gid → t.group? k = s.group? k) ∧ t.outside = s.outside) ∧
  let stats := fun (g gT : Group) => gT.rmax = g.rmax ∧ gT.rsum = g.rsum
  let mma := fun (mk : Fields → Instr) (zero : Bool) => TileRow mk (fun _ _ _ => True) (fun sel f g gT =>
    TilesOnly g gT ∧ stats g gT ∧ SliceTags g gT f.d.toNat (if g.ty = 12 then 12 else if g.ty = 6 then 0 else 2) ∧
    Rows g gT f.d.toNat (g.exec sel) (fun l => (g.mmaRow f zero l).1))
  mma .mma false ∧ mma .mmaz true ∧
  (∀ (g : Group) (f : Fields) (zero : Bool) (l j : Nat), g.ty = 6 → j < 32 →
    let c := if zero then (0 : Word) else rowWord (g.rowOf f.d.toNat l) j
    rowWord (g.mmaRow f zero l).1 j = (List.range 64).foldl (fun acc k => acc +
      BitVec.ofInt 32 (intOf 6 (g.fragBits f.a.toNat l k) * intOf 6 (g.fragBits f.b.toNat (l / 32 * 32 + j) k))) c) ∧
  TileRow .tzero (fun _ _ _ => True) (fun sel f g gT => TilesOnly g gT ∧ gT.fxf = g.fxf ∧ SliceTags g gT f.d.toNat g.ty ∧
    Rows g gT f.d.toNat (g.exec sel) (fun _ => 0) ∧
    RowStats g gT f.d.toNat (g.exec sel) (fun _ => 0xFF800000) (fun _ => 0)) ∧
  TileRow .tfrag (fun _ _ _ => True) (fun sel f g gT =>
    let w := g.sB sel f
    let n := w.toNat / 32 % 64
    { gT with v := g.v, vtag := g.vtag } = g ∧
    (∀ r l, l < 96 → gT.vRead r l = if f.d.toNat ≤ r ∧ r < f.d.toNat + n ∧ lane (g.exec sel) l = true then
      BitVec.ofNat 32 ((g.rowOf f.a.toNat l).toNat / 2 ^ (32 * (w.toNat % 32 + (r - f.d.toNat))) % 2 ^ 32) else g.vRead r l) ∧
    (∀ r, gT.tagOf r = if f.d.toNat ≤ r ∧ r < f.d.toNat + n then g.commonTag f.a.toNat else g.tagOf r)) ∧
  TileRow .tfill (fun _ _ _ => True) (fun sel f g gT =>
    let w := g.sB sel f
    let (first, n) := (w.toNat % 32, w.toNat / 32 % 64)
    TilesOnly g gT ∧ gT.fxf = g.fxf ∧ stats g gT ∧ SliceTags g gT f.d.toNat g.ty ∧
    (∀ t l, l < 96 → ¬ (t = f.d.toNat ∧ lane (g.exec sel) l = true) → gT.rowOf t l = g.rowOf t l) ∧
    (∀ l k, lane (g.exec sel) l = true → k < 32 → rowWord (gT.rowOf f.d.toNat l) k =
      if first ≤ k ∧ k < first + n then g.vRead (f.a.toNat + (k - first)) l else rowWord (g.rowOf f.d.toNat l) k)) ∧
  TileRow .tcvt (fun _ _ _ => True) (fun sel f g gT =>
    TilesOnly g gT ∧ stats g gT ∧ SliceTags g gT f.d.toNat g.ty ∧
    Rows g gT f.d.toNat (g.exec sel) (fun l =>
      let src := g.sliceTag f.a.toNat (l / 32)
      packRow (tileBits g.ty) ((List.range (min (rowElems src) (rowElems g.ty))).map (fun k =>
        (convert (componentTy src) (componentTy g.ty) 0 g.rm g.ftz (rowField (tileBits src) (g.rowOf f.a.toNat l) k)).bits)))) ∧
  TileRow .tscl (fun _ _ _ => True) (fun sel f g gT =>
    TilesOnly g gT ∧ gT.ttag = g.ttag ∧ stats g gT ∧
    Rows g gT f.d.toNat (g.exec sel) (fun l =>
      let t := g.sliceTag f.d.toNat (l / 32)
      let fm := (fmtOf (componentTy t)).getD .f32
      packRow (tileBits t) ((List.range (rowElems t)).map (fun k =>
        (fm.fmul .rne false (fm.decode (rowField (tileBits t) (g.rowOf f.d.toNat l) k)) (Fmt.f32.decode (g.sB sel f).toNat)).bits)))) ∧
  TileRow .tmaxr (fun _ _ _ => True) (fun sel f g gT =>
    TilesOnly g gT ∧ gT.ttag = g.ttag ∧
    Rows g gT f.d.toNat (g.exec sel) (fun l => ((g.maxRow g f.d.toNat f.a.toNat l).1).rowOf f.d.toNat l) ∧
    RowStats g gT f.d.toNat (g.exec sel) (fun l => ((g.maxRow g f.d.toNat f.a.toNat l).1).rowMax f.d.toNat l)
      (fun l => ((g.maxRow g f.d.toNat f.a.toNat l).1).rowSum f.d.toNat l)) ∧
  TileRow .texps (fun _ _ _ => True) (fun sel f g gT =>
    { gT with v := g.v, vtag := g.vtag, rsum := g.rsum, fxf := g.fxf } = g ∧
    (∀ t l, l < 96 → ¬ (t = f.b.toNat ∧ lane (g.exec sel) l = true) → gT.rowSum t l = g.rowSum t l) ∧
    (∀ r l, l < 96 → ¬ (f.d.toNat ≤ r ∧ r < f.d.toNat + 32 / elems g.ty ∧ lane (g.exec sel) l = true) → gT.vRead r l = g.vRead r l) ∧
    (∀ l k, lane (g.exec sel) l = true → k < 32 → elem g.ty (gT.vRead (f.d.toNat + k / elems g.ty) l).toNat (k % elems g.ty) =
      (softWeight ((fmtOf g.ty).getD .f16) (Fmt.f32.decode (g.rowMax f.b.toNat l).toNat)
        (Fmt.f32.decode (rowField 32 (g.rowOf f.a.toNat l) k))).bits % 2 ^ elemBits g.ty)) ∧
  TileRow .tnorm (fun _ _ _ => True) (fun sel f g gT =>
    TilesOnly g gT ∧ gT.ttag = g.ttag ∧ stats g gT ∧
    Rows g gT f.d.toNat (g.exec sel) (fun l =>
      let d := Fmt.f32.decode (g.rowSum f.d.toNat l).toNat
      if d.isZero then 0 else packRow 32 ((List.range 32).map (fun k =>
        (Fmt.f32.fdiv .rne false (Fmt.f32.decode (rowField 32 (g.rowOf f.d.toNat l) k)) d).bits)))) ∧
  TileRow .twid (fun _ _ _ => True) (fun sel f g gT =>
    let w := g.sB sel f
    let lg := w.toNat % 32
    let half := w.getLsbD 6
    let tw := fun (fm : Fmt) (l : Nat) => twiddle fm (w.getLsbD 5) ((g.vRead f.a.toNat l).toNat % 2 ^ lg) lg
    Written g gT f.d.toNat (if half then 1 else 2) (if half then 3 else 2) (g.exec sel) ∧ gT.fxf = g.fxf ∧
    ∀ l, lane (g.exec sel) l = true →
      if half then gT.vRead f.d.toNat l = BitVec.ofNat 32 ((tw .f16 l).1 + 2 ^ 16 * (tw .f16 l).2)
      else gT.vRead f.d.toNat l = BitVec.ofNat 32 (tw .f32 l).1 ∧ gT.vRead (f.d.toNat + 1) l = BitVec.ofNat 32 (tw .f32 l).2)

/-- O42. The butterfly words complete when their plan is accepted and fits the slices, TFSTG also when A names a stage of it: TBREV
reverses digits, TFSTG runs one stage, TFFT reverses and runs every stage, each in the slices whose lanes all execute (R388 to R391).
A word that is no plan traps FFT_PLAN and changes nothing (R316, R388). -/
def Obligations.Butterflies : Prop :=
  TileRow .tbrev (fun sel f g => ∃ pl, PlanFits sel f g pl) (Butterfly (fun _ pl a => bitReverse pl a)) ∧
  TileRow .tfft (fun sel f g => ∃ pl, PlanFits sel f g pl)
    (Butterfly (fun fm pl a => (stages fm pl 0 (bitReverse pl a, []) pl.stages.length).1)) ∧
  TileRow .tfstg (fun sel f g => ∃ pl, PlanFits sel f g pl ∧ (g.sField sel f.a).toNat < pl.stages.length)
    (fun sel f g gT => Butterfly (fun fm pl a => (stage fm pl (g.sField sel f.a).toNat a).1) sel f g gT) ∧
  (∀ (pl : Plan) (a : Array Point) (n : Nat), n < a.size → (bitReverse pl a).getD n (0, 0) =
    a.getD (n / 2 ^ pl.logP * 2 ^ pl.logP + pl.rev (n % 2 ^ pl.logP)) (0, 0)) ∧
  (∀ (s : State) (c : Cursor) (g : Group) (f : Fields) (op : Op) (mk : Fields → Instr), mk ∈ [Instr.tbrev, .tfft, .tfstg] →
    (mk f).word? = some (op, f) → Ready s c g op f →
    let b := g.begun (c.env g op f)
    planOf (b.sB c.sel f) = none → Enters g 0x18 →
      Traps (mk f) s c b { cause := 0x18, mask := b.en0 c.sel, info := b.sB c.sel f }
        (g.slotOf c.sel).pc (wordOf op.code f) f.lit)

/-! ### Memory words -/

namespace Sys2Proof.Claims

/-- The lanes that a memory word runs: the executing ones, after a replay those that it left (R105). -/
def running (c : Cursor) (g : Group) (b : Group) : Mask := b.exec c.sel &&& g.replayMask c.sel

/-- What the operation of a memory word holds when it is registered (R241, R252, R396). -/
structure Holds (o : MemOp) (g : Group) (kind : OpKind) (cls : CntClass) (ord : Order) (m : Mask) (addr : Nat → VA)
    (regs : List RegRef) : Prop where
  kind  : o.kind = kind
  cls   : o.cls = cls
  order : o.order = ord
  lanes : o.lanes = m
  addrs : ∀ l, lane m l = true → o.addr l = addr l
  regs  : o.regs = regs
  level : o.level = g.lvl
  ty    : o.ty = g.ty
  open_ : o.done = false

/-- The addresses of the running lanes pass the checks of R394, the channels have a leaf for each and a copy that is hit allows the
access (R92, R103); no error of ECC waits to be met (R112). -/
def Reaches (s : State) (b : Group) (m : Mask) (addr : Nat → VA) (n : Nat) (write : Bool) (leaf : Nat → DWord) : Prop :=
  s.accessCheck b m addr n write = none ∧ s.mem.flaws = [] ∧
  ∀ l, lane m l = true → s.channelFor b b.privileged write (addr l) = .ok (leaf l)

/-- A load that is registered: `tag` gives the destination its tags at issue. -/
def LoadRow (mk : Fields → Instr) (n : Nat) (kind : Group → OpKind) (cls : CntClass) (ord : Group → Order)
    (mask : Cursor → Group → Group → Mask) (addr : Group → PcSel → Fields → Nat → VA) (regs : Fields → List RegRef)
    (tag : Fields → Group → Group) : Prop :=
  ∀ (s : State) (c : Cursor) (g : Group) (f : Fields) (op : Op), (mk f).word? = some (op, f) → Ready s c g op f → StepOff g →
    let b := g.begun (c.env g op f)
    let m := mask c g b
    ∀ leaf, m ≠ 0 → g.cnt cls < 63 → Reaches s b m (addr b c.sel f) n false leaf →
    ∃ o, Issues (mk f) s c (tag f b) o ∧ Holds o g (kind g) cls (ord g) m (addr b c.sel f) (regs f) ∧
      (∀ l, lane m l = true → o.pte l = leaf l) ∧ o.dst = (if 96 ≤ f.d.toNat then f.d.toNat - 96 else f.d.toNat)

/-- A store that is registered, its data sampled: word k of lane l. -/
def StoreRow (mk : Fields → Instr) (n words : Nat) (mask : Cursor → Group → Group → Mask)
    (addr : Group → PcSel → Fields → Nat → VA) (data : PcSel → Fields → Group → Nat → Nat → Word) : Prop :=
  ∀ (s : State) (c : Cursor) (g : Group) (f : Fields) (op : Op), (mk f).word? = some (op, f) → Ready s c g op f → StepOff g →
    let b := g.begun (c.env g op f)
    let m := mask c g b
    ∀ leaf, m ≠ 0 → g.cnt .st < 63 → (g.storeOrder.rel = true → s.watches g = []) →
    Reaches s b m (addr b c.sel f) n true leaf →
    ∃ o, Issues (mk f) s c b o ∧ Holds o g (.store n) .st g.storeOrder m (addr b c.sel f) [] ∧
      (∀ l, lane m l = true → o.pte l = leaf l ∧ ∀ k, k < words → o.word' l k = data c.sel f b l k)

/-- An understudy load: it is registered as a relaxed load, and takes at once what it can take of local copies (R162, R399); while an
acquire before it is outstanding, or a sweep holds a line that it would read so, it waits. -/
def StudyRow (mk : Fields → Instr) (n k : Nat) (addr : Group → PcSel → Fields → Nat → VA) : Prop :=
  ∀ (s : State) (c : Cursor) (g : Group) (f : Fields) (op : Op), (mk f).word? = some (op, f) → Ready s c g op f → StepOff g →
    let b := g.begun (c.env g op f)
    let m := running c g b
    let va := addr b c.sel f
    (s.watchHeld b m va = true → ∃ t u, exec (mk f) s = .next t ∧ t.cur = none ∧ t.group? c.gid = some u ∧ u.books = g.books ∧
      (∀ j, j ≠ c.gid → t.group? j = s.group? j) ∧ t.outside = s.outside) ∧
    (∀ leaf, m ≠ 0 → g.cnt .ld < 63 → g.dead = false → s.watchHeld b m va = false → Reaches s b m va n false leaf →
      ∃ (t u : State) (o : MemOp), exec (mk f) s = .next t ∧
        Holds o g (.watchLoad n) .ld { acq := false, rel := false, sc := false } m va
          ((List.range k).map (fun j => RegRef.v (f.d.toNat + j))) ∧
        (∀ l, lane m l = true → o.pte l = leaf l) ∧ o.dst = f.d.toNat ∧
        u.group? c.gid = some ((b.setTags f.d.toNat g.ty k).push o) ∧ u.cores = s.cores ∧ u.l2 = s.l2 ∧ u.mem.dram = s.mem.dram ∧
        (let w := u.takeWatch c.gid g.nextOp
         (t.group? c.gid).map Group.books = (w.group? c.gid).map Group.books ∧ ∀ x, (t.core x).uwt = (w.core x).uwt) ∧
        (∀ j, j ≠ c.gid → t.group? j = s.group? j) ∧ t.mem.dram = s.mem.dram ∧ t.host = s.host ∧ t.fab = s.fab)

end Sys2Proof.Claims

/-- O43. A load completes at issue by registering its operation, which then holds its lanes, their addresses and leaves, the registers
that its reply releases, its ordering kind (R152, R241, R393, R396, R398 to R400, R378): LDB to LDQ, the scalar loads, the understudy
loads, which are relaxed, the loads of scratch, TLD. The destination takes its tag; memory and all other registers stay. A load
without executing lanes completes and accesses nothing (R394). What an understudy load takes at issue, of one lane: with a local copy
and room for an entry the copy's bytes, and a pending entry with the copy's version; without a copy, or without room, nothing (R162). -/
def Obligations.LoadsIssue : Prop :=
  let ea := fun (g : Group) (sel : PcSel) (f : Fields) (l : Nat) => (g.base sel f.a l + (g.opB sel f l).signExtend 64).setWidth 52
  let low := fun (g : Group) (sel : PcSel) (f : Fields) (l : Nat) => BitVec.ofNat 52 (14 * 2 ^ 48 + (ea g sel f l).toNat % 2 ^ 32)
  let run := fun (f : Fields) (k : Nat) => (List.range k).map (fun j => RegRef.v (f.d.toNat + j))
  let acq := fun (g : Group) => ({ acq := g.mo == 1 || g.mo == 3 || g.mo == 4, rel := false, sc := false } : Order)
  let none_ := fun (_ : Group) => ({ acq := false, rel := false, sc := false } : Order)
  let plain := fun (mk : Fields → Instr) (n k : Nat) =>
    LoadRow mk n (fun g => .load n (g.ty == 0)) .ld acq running ea (fun f => run f k) (fun f g => g.setTags f.d.toNat g.ty k)
  let scratch := fun (mk : Fields → Instr) (n k : Nat) =>
    LoadRow mk n (fun g => .load n (g.ty == 0)) .ld acq running low (fun f => run f k) (fun f g => g.setTags f.d.toNat g.ty k)
  let study := fun (mk : Fields → Instr) (n k : Nat) => StudyRow mk n k ea
  let scalar := fun (mk : Fields → Instr) (n k : Nat) =>
    LoadRow mk n (fun _ => .loadScalar n) .ld acq (fun _ _ _ => 1) ea
      (fun f => (List.range k).map (fun j => RegRef.s (f.d.toNat - 96 + j))) (fun _ g => g)
  plain .ldb 1 1 ∧ plain .ldh 2 1 ∧ plain .ldw 4 1 ∧ plain .ldd 8 2 ∧ plain .ldq 16 4 ∧
  scalar .ldsw 4 1 ∧ scalar .ldsd 8 2 ∧ study .lduw 4 1 ∧ study .ldud 8 2 ∧ study .lduq 16 4 ∧
  scratch .lldw 4 1 ∧ scratch .lldq 16 4 ∧
  LoadRow .tld 128 (fun _ => .tileLoad) .xt none_ running (fun g sel f l => ea g sel f l +
      (if 96 ≤ f.a.toNat ∧ (f.l = true ∨ 96 ≤ f.b.toNat) then BitVec.ofNat 52 (128 * l) else 0))
    (fun f => [.t f.d.toNat]) (fun f g => g.setSliceTags f.d.toNat g.ty) ∧
  (∀ (s : State) (c : Cursor) (g : Group) (f : Fields), Ready s c g Op.ldw f → StepOff g →
    let b := g.begun (c.env g Op.ldw f)
    running c g b = 0 → Does (.ldw f) s c g (b.setTag f.d.toNat g.ty)) ∧
  (∀ (s : State) (gid : Nat) (g : Group) (o : MemOp) (l n : Nat), Alone s gid g o → l < 96 → o.lanes = (1#96) <<< l →
    o.kind = .watchLoad n → n ∈ [4, 8, 16] →
    let k := s.core g.coreId
    let va := o.addr l
    let mine := fun (w : Watch) => w.gid == gid && w.level == o.level && w.ctx == tagFor g.ctx va && w.line == lineNo va
    let t := s.takeWatch gid o.id
    (s.localCopy g.coreId g.ctx va (o.pte l) = none → (t.core g.coreId).uwt = k.uwt ∧ t.group? gid = some g) ∧
    (∀ line wts, s.localCopy g.coreId g.ctx va (o.pte l) = some (line, wts) → k.uwt.any mine = false →
      (k.uwt.length < 64 → (k.uwt.filter (fun w => w.gid == gid)).length < 16 →
        (let w : Watch :=
           { gid := gid, op := o.id, level := o.level, ctx := tagFor g.ctx va, line := lineNo va, wts := wts, state := .pending }
         (t.core g.coreId).uwt = k.uwt ++ [w]) ∧
        Instr.uwtResolution g.coreId k.uwt.length ∈ t.agenda ∧
        ∃ g', Through t gid g' ∧ ∀ r j, j < 96 → g'.vRead r j =
          if j = l ∧ o.dst ≤ r ∧ r < o.dst + n / 4 then
            BitVec.ofNat 32 (lineField line (va.toNat % 128) n / 2 ^ (32 * (r - o.dst))) else g.vRead r j) ∧
      (64 ≤ k.uwt.length ∨ 16 ≤ (k.uwt.filter (fun w => w.gid == gid)).length → t = s)))

/-- O44. A store completes at issue by registering its operation with its lanes, their addresses and leaves and its data; when it has
release it needs that no watch entry of its level is unfreed (R150, R152, R163, R241, R396, R398, R400, R379): STB to STQ, the scalar
stores, the stores to scratch, TST. No memory and no register changes at issue. -/
def Obligations.StoresIssue : Prop :=
  let ea := fun (g : Group) (sel : PcSel) (f : Fields) (l : Nat) => (g.base sel f.a l + (g.opB sel f l).signExtend 64).setWidth 52
  let low := fun (g : Group) (sel : PcSel) (f : Fields) (l : Nat) => BitVec.ofNat 52 (14 * 2 ^ 48 + (ea g sel f l).toNat % 2 ^ 32)
  let vec := fun (_ : PcSel) (f : Fields) (g : Group) (l k : Nat) => g.vRead (f.d.toNat + k) l
  let sca := fun (sel : PcSel) (f : Fields) (g : Group) (_ k : Nat) => g.sRead sel (f.d.toNat - 96 + k)
  let one := fun (_ : Cursor) (_ _ : Group) => (1 : Mask)
  StoreRow .stb 1 1 running ea vec ∧ StoreRow .sth 2 1 running ea vec ∧ StoreRow .stw 4 1 running ea vec ∧
  StoreRow .std 8 2 running ea vec ∧ StoreRow .stq 16 4 running ea vec ∧ StoreRow .stsw 4 1 one ea sca ∧
  StoreRow .stsd 8 2 one ea sca ∧ StoreRow .lstw 4 1 running low vec ∧ StoreRow .lstq 16 4 running low vec ∧
  (∀ (s : State) (c : Cursor) (g : Group) (f : Fields), Ready s c g Op.tst f → StepOff g →
    let b := g.begun (c.env g Op.tst f)
    let m := running c g b
    let addr := fun l => ea b c.sel f l +
      (if 96 ≤ f.a.toNat ∧ (f.l = true ∨ 96 ≤ f.b.toNat) then BitVec.ofNat 52 (128 * l) else 0)
    m ≠ 0 → g.cnt .xt < 63 → s.accessCheck b m addr 128 true = none →
    ∃ o, Issues (.tst f) s c b o ∧ Holds o g .tileStore .xt { acq := false, rel := false, sc := false } m addr [] ∧
      ∀ l, lane m l = true → o.row l = (b.rowOf f.d.toNat l).toNat)

/-- O45. The atomics complete at issue by registering their operation, counted by LD, with acquire, release and the global order as
`m.mo` says; the reductions by registering theirs, counted by ST, without a destination (R152, R157, R402 to R405). The operands are
sampled; 64-bit types take pairs. -/
def Obligations.AtomicsIssue : Prop :=
  let ea := fun (g : Group) (sel : PcSel) (f : Fields) (l : Nat) => (g.base sel f.a l + (g.opB sel f l).signExtend 64).setWidth 52
  let atom := fun (mk : Fields → Instr) (fn : AtomicFn) =>
    ∀ (s : State) (c : Cursor) (g : Group) (f : Fields) (op : Op), (mk f).word? = some (op, f) → Ready s c g op f → StepOff g →
      let b := g.begun (c.env g op f)
      let m := running c g b
      let n := if wide g.ty then 2 else 1
      let ord : Order := { acq := g.mo == 1 || g.mo == 3 || g.mo == 4, rel := decide (2 ≤ g.mo), sc := g.mo == 4 }
      ∀ leaf, m ≠ 0 → g.cnt .ld < 63 → (ord.rel = true → s.watches g = []) → Reaches s b m (ea b c.sel f) (4 * n) true leaf →
      ∃ o, Issues (mk f) s c (b.setTags f.d.toNat g.ty n) o ∧
        Holds o g (.atomic fn (wide g.ty)) .ld ord m (ea b c.sel f) ((List.range n).map (fun j => RegRef.v (f.d.toNat + j))) ∧
        o.dst = f.d.toNat ∧ ∀ l, lane m l = true → o.pte l = leaf l ∧
          ∀ k, k < (if fn = .cas then 2 * n else n) → o.word' l k = b.vRead (f.d.toNat + k) l
  let red := fun (mk : Fields → Instr) (fn : AtomicFn) =>
    ∀ (s : State) (c : Cursor) (g : Group) (f : Fields) (op : Op), (mk f).word? = some (op, f) → Ready s c g op f → StepOff g →
      let b := g.begun (c.env g op f)
      let m := running c g b
      let n := if wide g.ty then 2 else 1
      let ord : Order := { acq := g.mo == 4, rel := decide (2 ≤ g.mo), sc := g.mo == 4 }
      m ≠ 0 → g.cnt .st < 63 → (ord.rel = true → s.watches g = []) → s.accessCheck b m (ea b c.sel f) (4 * n) true = none →
      ∃ o, Issues (mk f) s c b o ∧ Holds o g (.reduce fn (wide g.ty)) .st ord m (ea b c.sel f) [] ∧
        ∀ l, lane m l = true → ∀ k, k < n → o.word' l k = b.vRead (f.d.toNat + k) l
  atom .aadd .add ∧ atom .amin .min ∧ atom .amax .max ∧ atom .aand .and ∧ atom .aor .or ∧ atom .axor .xor ∧ atom .axch .xch ∧
  atom .acas .cas ∧ atom .afadd .fadd ∧ red .radd .add ∧ red .rfadd .fadd ∧ red .rmin .min ∧ red .rmax .max

/-- O46. A copy that R407's checks pass completes at issue by registering its ranges, counted by CP, with the acquire and release of its
word; without executing lanes it does nothing (R160, R406). QENQ moves one entry for each beat with an executing lane into the ring,
QDEQ takes the oldest ones out in ascending beat order and tags D; both complete when the ring has the room or the entries and
nothing is open, taking a number of the group's operations, and wait while it has not (R126, R241, R401). -/
def Obligations.CopiesAndFifos : Prop :=
  let row := fun (mk : Fields → Instr) (acq rel rows : Bool) =>
    ∀ (s : State) (c : Cursor) (g : Group) (f : Fields) (op : Op), (mk f).word? = some (op, f) → Ready s c g op f → StepOff g →
      let e := c.env g op f
      let b := g.begun e
      let m := running c g b
      let r := fun k => (b.sRead c.sel (f.b.toNat - 96 + k)).toNat
      let dst := (b.spField c.sel f.d).setWidth 52
      let src := (b.spField c.sel f.a).setWidth 52
      let kind := if rows then OpKind.copy dst src (r 1) (r 0) (r 3) (r 2) else .copy dst src 1 (b.sB c.sel f).toNat 0 0
      let shape := if rows then rowShape e b else plainShape e b
      (m = 0 → Does (mk f) s c g b) ∧
      (m ≠ 0 → (rel = true → s.watches g = []) → shape.check s e b = none → g.cnt .cp < 63 →
        ∃ o, Issues (mk f) s c b o ∧ o.kind = kind ∧ o.cls = .cp ∧ o.order = { acq := acq, rel := rel, sc := false } ∧
          o.lanes = m ∧ o.done = false ∧ o.level = g.lvl)
  row .cpy false false false ∧ row .cpya true false false ∧ row .cpyr false true false ∧ row .cpyar true true false ∧
  row .cpy2d false false true ∧
  (∀ (s : State) (c : Cursor) (g : Group) (f : Fields) (tm : Team), StepOff g → s.team? g.teamId = some tm → g.undone = [] →
    s.watches g = [] →
    let n := f.a.toNat
    let ring := SMap.get [] tm.fifos n
    let room := 128 * (SMap.get [] tm.fifoBk n).length
    let beats := fun (b : Group) => (List.range b.beats).filter (fun k => (running c g b).extractLsb' (32 * k) 32 != 0#32)
    let counted := fun (b : Group) => { b with ops := [], nextOp := g.nextOp + 1 }
    let waits := fun (i : Instr) => ∃ t u, exec i s = .next t ∧ t.cur = none ∧ t.group? c.gid = some u ∧ u.books = g.books ∧
      (∀ j, j ≠ c.gid → t.group? j = s.group? j) ∧ t.outside = s.outside
    (Ready s c g Op.qenq f → let b := g.begun (c.env g Op.qenq f)
      0 < room → (room < ring.length + (beats b).length → waits (.qenq f)) ∧ (ring.length + (beats b).length ≤ room → g.cnt .st < 63 →
      ∃ new, new.length = (beats b).length ∧
        Completes (.qenq f) s ((s.setGroup c.gid (counted b)).setTeam g.teamId
          { tm with fifos := SMap.set [] tm.fifos n (ring ++ new) }) c g ∧
        ∀ j (h : j < new.length) (h' : j < (beats b).length), ∀ i, i < 32 → (new[j]).extractLsb' (32 * i) 32 =
          let l := 32 * (beats b)[j] + i
          if lane (running c g b) l then b.vRead f.d.toNat l else 0)) ∧
    (Ready s c g Op.qdeq f → let b := g.begun (c.env g Op.qdeq f)
      0 < room → (ring.length < (beats b).length → waits (.qdeq f)) ∧ ((beats b).length ≤ ring.length → g.cnt .ld < 63 →
      ∃ gE, Completes (.qdeq f) s ((s.setGroup c.gid gE).setTeam g.teamId
          { tm with fifos := SMap.set [] tm.fifos n (ring.drop (beats b).length) }) c g ∧
        Written (counted b) gE f.d.toNat 1 g.ty (running c g b) ∧ gE.fxf = g.fxf ∧
        ∀ j (h : j < (beats b).length) (h' : j < ring.length), ∀ i, i < 32 →
          lane (running c g b) (32 * (beats b)[j] + i) = true →
          gE.vRead f.d.toNat (32 * (beats b)[j] + i) = (ring[j]).extractLsb' (32 * i) 32)))

/-- O47. The words of the Wings pipe complete at issue by registering their operation, counted by XT, with its sources sampled and the
registers that the reply releases; VSTAMP acquires, VAPP releases; with no lane executing they only tag D (R414 to R416, R418 to
R428). -/
def Obligations.WingsIssue : Prop :=
  let row := fun (mk : Fields → Instr) (fn : WingsFn) (once : Bool) (reads writes : Nat) =>
    ∀ (s : State) (c : Cursor) (g : Group) (f : Fields) (op : Op), (mk f).word? = some (op, f) → Ready s c g op f → StepOff g →
      let b := g.begun (c.env g op f)
      let m := running c g b
      let k := f.a.toNat - 96
      let quad := (pair64 (b.sRead c.sel (k + 1)) (b.sRead c.sel k), pair64 (b.sRead c.sel (k + 3)) (b.sRead c.sel (k + 2)))
      (fn = .append → s.watches g = []) →
      (m = 0 → Does (mk f) s c g (fn.tags b f.d.toNat)) ∧
      (m ≠ 0 → g.cnt .xt < 63 → s.wingsCheck b m (fn.bases quad) = none →
        ∃ o, Issues (mk f) s c (fn.tags b f.d.toNat) o ∧ o.kind = .wings fn ∧ o.cls = .xt ∧ o.lanes = m ∧ o.done = false ∧
          o.order = { acq := decide (fn = .stamp), rel := decide (fn = .append), sc := false } ∧
          SMap.get 0 o.addrs 0 = quad.1.toNat % 2 ^ 52 ∧ SMap.get 0 o.addrs 1 = quad.2.toNat ∧
          o.regs = (List.range writes).map (fun j => if once then RegRef.s (f.d.toNat - 96 + j) else RegRef.v (f.d.toNat + j)) ∧
          (if once then ∀ j, j < reads → SMap.get 0 o.data j = b.sRead c.sel (f.b.toNat - 96 + j)
           else ∀ l, lane m l = true → ∀ j, j < reads → SMap.get 0 o.data (32 * l + j) = b.vRead (f.b.toNat + j) l))
  row .vapp .append false 32 3 ∧ row .vstamp .stamp true 0 2 ∧ row .vdrop .drop true 0 0 ∧ row .vget .get false 1 32 ∧
  row .vconn .connect false 2 10 ∧ row .vmrg .merge false 1 5 ∧ row .vrwt .reweight true 3 2 ∧ row .vret .retire false 1 2 ∧
  row .sight .sight false 9 6 ∧ row .sighta .sightAny false 9 6

/-- O48. An access of a running lane at an address that is no multiple of its size traps MISALIGNED before anything is accessed:
`tmask` holds exactly those lanes, `taddr` the address of the lowest-numbered one (R250, R394). So do vector loads and stores, understudy
loads, the accesses of scratch by the address that they name there, TLD and TST with 128 bytes a row, atomics and reductions with the
size of the type; a scalar access reports `en0` (R398). -/
def Obligations.MisalignedTraps : Prop :=
  let row := fun (mk : Fields → Instr) (size : Group → Nat) (addr : Group → PcSel → Fields → Nat → VA) (study : Bool) =>
    ∀ (s : State) (c : Cursor) (g : Group) (f : Fields) (op : Op), (mk f).word? = some (op, f) → Ready s c g op f →
    let b := g.begun (c.env g op f)
    let m := running c g b
    let va := addr b c.sel f
    let bad := maskOf (fun l => lane m l && (va l).toNat % size b != 0)
    g.cnt .ld < 63 → g.cnt .st < 63 → g.cnt .xt < 63 → s.watches g = [] → Enters g 0x0A →
    (study = true → s.watchHeld b m va = false ∧ ∀ o ∈ g.undone, o.id ≠ g.nextOp) →
    ∀ l, l < 96 → lane bad l = true → (∀ k, k < l → lane bad k = false) →
      Traps (mk f) s c b { cause := 0x0A, mask := bad, addr := va l } (g.slotOf c.sel).pc (wordOf op.code f) f.lit
  let low := fun (g : Group) (sel : PcSel) (f : Fields) (l : Nat) => BitVec.ofNat 52 (14 * 2 ^ 48 + (g.ea sel f l).toNat % 2 ^ 32)
  let scalar := fun (mk : Fields → Instr) (n : Nat) =>
    ∀ (s : State) (c : Cursor) (g : Group) (f : Fields) (op : Op), (mk f).word? = some (op, f) → Ready s c g op f →
    let b := g.begun (c.env g op f)
    g.cnt .ld < 63 → g.cnt .st < 63 → s.watches g = [] → Enters g 0x0A → (b.ea c.sel f 0).toNat % n ≠ 0 →
      Traps (mk f) s c b { cause := 0x0A, mask := b.en0 c.sel, addr := b.ea c.sel f 0 } (g.slotOf c.sel).pc (wordOf op.code f) f.lit
  (∀ mk n, (mk, n) ∈ [(Instr.ldh, 2), (.ldw, 4), (.ldd, 8), (.ldq, 16), (.sth, 2), (.stw, 4), (.std, 8), (.stq, 16)] →
    row mk (fun _ => n) Group.ea false) ∧
  (∀ mk n, (mk, n) ∈ [(Instr.lduw, 4), (.ldud, 8), (.lduq, 16)] → row mk (fun _ => n) Group.ea true) ∧
  (∀ mk n, (mk, n) ∈ [(Instr.lldw, 4), (.lldq, 16), (.lstw, 4), (.lstq, 16)] → row mk (fun _ => n) low false) ∧
  (∀ mk, mk ∈ [Instr.tld, .tst] → row mk (fun _ => 128) (fun g sel f l => g.ea sel f l +
    (if 96 ≤ f.a.toNat ∧ (f.l = true ∨ 96 ≤ f.b.toNat) then BitVec.ofNat 52 (128 * l) else 0)) false) ∧
  (∀ mk, mk ∈ [Instr.aadd, .amin, .amax, .aand, .aor, .axor, .axch, .acas, .afadd, .radd, .rfadd, .rmin, .rmax] →
    row mk (fun g => if wide g.ty then 8 else 4) Group.ea false) ∧
  (∀ mk n, (mk, n) ∈ [(Instr.ldsw, 4), (.ldsd, 8), (.stsw, 4), (.stsd, 8)] → scalar mk n)

/-! ### Links -/

namespace Sys2Proof.Claims

/-- The event stands in the hold, which had room for it and `n` others (R70). -/
def Reported (s t : State) (n : Nat) (e : Event) : Prop := s.host.hold.length + n < holdSize → ∃ k, e.bytes k ∈ t.host.hold

/-- A link carries flits. -/
def Carries (s : State) (n : Nat) : Prop := isLink n = true ∧ (s.link n).up = true ∧ (s.link n).train = false

/-- Only link n differs. -/
def LinkOnly (s t : State) (n : Nat) : Prop := (∀ k, k ≠ n → t.link k = s.link k) ∧ { t with links := s.links } = s

/-- The kept flits from a number on, in order. -/
def keptFrom (l : Link) (seq : BitVec 16) : List (List Byte) := l.replay.filter (fun f => decide (0 ≤ (flitSeq f - seq).toInt))

/-- A flit as R30 lays it out: number, acknowledgement, kind, channel, messages, and a CRC that agrees. -/
structure FlitIs (f : List Byte) (seq ack : BitVec 16) (kind vc : Nat) (msgs : List (List Byte)) : Prop where
  size : f.length = 256
  seq  : field f 0 2 = seq.toNat
  ack  : field f 2 2 = ack.toNat
  kind : field f 4 1 = kind
  vc   : field f 5 1 = vc
  good : flitGood f = true
  body : messages ((f.drop 8).take 240) 16 = some msgs

end Sys2Proof.Claims

/-- O49. The events of the link layer (R30 to R36): FLIT_SEND puts a numbered flit with its CRC on the link, keeps it and spends the
credits; FLIT_RECEIVE takes a flit in order, drops a duplicate, and asks again for a number that is missing, at once where the replay
buffer has room for the request, else with the flit that makes room; RETRY_REQUEST is
answered by every kept flit from that number on; LINK_RETRAIN, RETRAIN_COMPLETE and LINK_RETURN keep the replay buffer, and a link
too narrow, or after three failures, goes down; without power, or before a start has brought the links up, none comes up. The model's
choices (log 21): that a retry request names its number by its `ack` field, and counts as made while it waits for room; the numbers of
idle and marker flits; the half of an odd width; what the retraining count counts; that a returning link has its full width, fresh
credits and its replay buffer; that a device whose every IFL is down is fenced, without its home table and system-scope lines. -/
def Obligations.LinkEvents : Prop :=
  (∀ (s : State) (n : Nat) (vc : Fin 4) (msgs : List (List Byte)), Carries s n → (s.link n).maySend vc.val msgs = true →
    ∃ t f, exec (.flitSend n .payload vc msgs) s = .next t ∧ LinkOnly s t n ∧
      (let (l, l') := (s.link n, t.link n)
       FlitIs f l.seqNext (l.expect - 1) 1 vc.val msgs ∧ l'.outbox = l.outbox ++ [f] ∧ l'.replay = l.replay ++ [f] ∧
       l'.seqNext = l.seqNext + 1 ∧ ∀ v, SMap.get 0 l'.credit v =
         if v = vc.val then SMap.get 0 l.credit v - (msgs.map (fun m => m.length / 16)).sum else SMap.get 0 l.credit v)) ∧
  (∀ (s : State) (n : Nat) (kind : FlitKind) (vc : Fin 4) (msgs : List (List Byte)), Carries s n → kind ≠ .payload →
    (kind = .retry → (s.link n).replay.length < 512) →
    ∃ t f, exec (.flitSend n kind vc msgs) s = .next t ∧ LinkOnly s t n ∧
      (let (l, l') := (s.link n, t.link n)
       FlitIs f l.seqNext (l.expect - 1) (kindCode kind) 0 [] ∧ l'.outbox = l.outbox ++ [f] ∧ l'.credit = l.credit ∧
       (if kind = .retry then l'.replay = l.replay ++ [f] ∧ l'.seqNext = l.seqNext + 1
        else l'.replay = l.replay ∧ l'.seqNext = l.seqNext))) ∧
  (∀ (s : State) (n : Nat) (f : List Byte), Carries s n → ∃ t, exec (.flitReceive n f) s = .next t ∧ LinkOnly s t n ∧
    (let (l, l') := (s.link n, t.link n)
     let gap := (flitSeq f - l.expect).toInt
     let ack : BitVec 16 := BitVec.ofNat 16 (field f 2 2)
     let numbered := field f 4 1 = 1 ∨ field f 4 1 = 2
     let kept := l.replay.filter (fun x => decide (0 < (flitSeq x - ack).toInt))
     (flitGood f = true → gap = 0 →
       l'.inbox = l.inbox ++ (messages ((f.drop 8).take 240) 16).getD [] ∧
       l'.expect = (if numbered then l.expect + 1 else l.expect) ∧ l'.acked = ack ∧
       (∀ v, v < 4 → SMap.get 0 l'.credit v = SMap.get 0 l.credit v + field f 6 2 / 16 ^ v % 16) ∧
       (l.askDue = false ∨ numbered → l'.replay = kept ∧ l'.askDue = false ∧
         l'.outbox = l.outbox ++ (if field f 4 1 = 2 then keptFrom l' (ack + 1) else [])) ∧
       (l.askDue = true → ¬ numbered → kept.length < 512 → ∃ r, FlitIs r l.seqNext (l.expect - 1) 2 0 [] ∧
         l'.outbox = l.outbox ++ [r] ∧ l'.replay = kept ++ [r] ∧ l'.askDue = false) ∧
       (l.askDue = true → ¬ numbered → 512 ≤ kept.length → l'.outbox = l.outbox ∧ l'.replay = kept ∧ l'.askDue = true)) ∧
     (flitGood f = true → gap < 0 → l' = l) ∧
     (flitGood f = false ∨ 0 < gap → l'.inbox = l.inbox ∧ l'.expect = l.expect ∧
       (let asked := if l.retries ≠ 0 ∧ l.retryOf = l.expect then l.retries + 1 else 1
        l'.retries = asked ∧ l'.retryOf = l.expect ∧ l'.train = decide (16 ≤ asked)) ∧
       (512 ≤ l.replay.length → l'.askDue = true ∧ l'.outbox = l.outbox ∧ l'.replay = l.replay) ∧
       (l.replay.length < 512 → ∃ r, FlitIs r l.seqNext (l.expect - 1) 2 0 [] ∧ l'.askDue = false ∧
         l'.outbox = l.outbox ++ [r] ∧ l'.replay = l.replay ++ [r])))) ∧
  (∀ (s : State) (n : Nat) (seq : BitVec 16), Carries s n → ∃ t, exec (.retryRequest n seq) s = .next t ∧ LinkOnly s t n ∧
    t.link n = { s.link n with outbox := (s.link n).outbox ++ keptFrom (s.link n) seq }) ∧
  (∀ (s : State) (n : Nat), Carries s n → ∃ t, exec (.linkRetrain n) s = .next t ∧ LinkOnly s t n ∧
    t.link n = { s.link n with train := true, trains := (s.link n).trains + 1 }) ∧
  (∀ (s : State) (n : Nat) (ok : Bool) (dropped : List Nat), isLink n = true → (s.link n).up = true → (s.link n).train = true →
    ∃ t, exec (.retrainComplete n ok dropped) s = .next t ∧
      (let (l, l') := (s.link n, t.link n)
       let w := l.width - dropped.length
       (w < minWidth n ∨ (ok = false ∧ 3 ≤ l.failed + 1) → l'.up = false ∧
         Reported s t dropped.length { kind := 0x12, src := srcLink, body := [(16, bytesNat 1 n), (18, bytesNat 2 l.acked.toNat)] } ∧
         (isDieLink n = true → s.pkg.tripped = none → t.pkg.phase ≠ .running) ∧
         (isIfl n = true → s.fab.inForce = true → (∀ k ∈ iflLinks, k ≠ n → (s.link k).up = false) →
           t.fab.fenced = true ∧ t.fab.lines = [] ∧ t.fab.cfg.n = 0)) ∧
       (minWidth n ≤ w → ok = true → l' = { l with train := false, failed := 0, retries := 0, askDue := false, width := w,
                                                   outbox := l.outbox ++ keptFrom l (l.acked + 1) } ∧
         Reported s t dropped.length { kind := 0x10, src := srcLink, body := [(16, bytesNat 1 n), (17, bytesNat 1 l.trains),
                                                                              (18, bytesNat 1 w)] }) ∧
       (minWidth n ≤ w → ok = false → l.failed + 1 < 3 →
         l' = { l with failed := l.failed + 1, trains := l.trains + 1, width := w }))) ∧
  (∀ (s : State) (n : Nat), s.pkg.powered = false ∨ s.pkg.phase = .rails ∨ s.pkg.phase = .off → exec (.linkReturn n) s = .next s) ∧
  (∀ (s : State) (n : Nat), isLink n = true → (s.link n).up = false → s.pkg.powered = true → s.pkg.phase ≠ .rails → s.pkg.phase ≠ .off →
    ∃ t, exec (.linkReturn n) s = .next t ∧
    (let (l, l') := (s.link n, t.link n)
     l'.up = true ∧ l'.width = lanesOfLink n ∧ l'.replay = l.replay ∧ l'.seqNext = l.seqNext ∧ l'.expect = l.expect ∧
     l'.outbox = l.outbox ++ keptFrom l (l.acked + 1) ∧ l'.askDue = false ∧ l'.owed = l.owed ∧
     ∀ v, v < 4 → SMap.get 0 l'.credit v = if isDieLink n then 256 else 512))

/-! ### The fabric -/

namespace Sys2Proof.Claims

/-- A message of a switch for the line of a request, as R32 lays it out. -/
def fromSwitch (slot mtype : Nat) (r : FabReq) (body : List Byte) : List Byte :=
  message mtype (srcSwitch slot) r.txn r.g.toNat body

/-- Whether a message goes to this device or, as bytes, to another one, it is the only one that has been sent by the switch. -/
def Told (s t : State) (slot : Nat) (d : Device) (bytes : List Byte) (m : FabMsg) : Prop :=
  if d = s.fab.cfg.devno then t.fab.wire = s.fab.wire ++ [m] ∧ (t.fswitch slot).sent = (s.fswitch slot).sent
  else t.fab.wire = s.fab.wire ∧ (t.fswitch slot).sent = (s.fswitch slot).sent ++ [(d, bytes)]

/-- Every device behind the ports of a vector, but for some, is sent an invalidation (R40). -/
def Invalidated (s t : State) (slot : Nat) (r : FabReq) (ports : BitVec 64) (but : List Device) : Prop :=
  ∀ p, p < 64 → ports.getLsbD p = true → ∀ d ∈ s.portDevices p, d ∉ but → s.isAway d = false →
    if d = s.fab.cfg.devno then .inval slot r.g ∈ t.fab.wire
    else (d, fromSwitch slot 0x15 r []) ∈ (t.fswitch slot).sent

/-- The one entry that a switch has of a line; none. -/
def EntryIs (x : Switch) (g : LineAddr) (e : Option DirEntry) : Prop :=
  match e with
  | some e => e.gla = g ∧ ∃ k ∈ waysOf g, SMap.get none x.dir k = some e ∧
      ∀ j ∈ waysOf g, j ≠ k → ∀ y, SMap.get none x.dir j = some y → y.gla ≠ g
  | none => ∀ j ∈ waysOf g, ∀ y, SMap.get none x.dir j = some y → y.gla ≠ g

/-- The bit of a port. -/
def portBit (p : Fin 64) : BitVec 64 := (1#64) <<< p.val

/-- No request waits at the switch for a line of the set. -/
def AloneInSet (s : State) (slot : Nat) (g : LineAddr) : Prop := ∀ w ∈ (s.fswitch slot).waiting, setOf w.2.g ≠ setOf g

/-- A request reaches the primary of its line, on which nothing else is in progress. -/
structure Takes (s : State) (slot : Slot) (r : FabReq) : Prop where
  primary : s.fab.cfg.primary r.g = some slot.val
  idle    : (s.fswitch slot.val).txnOf r.g = none
  sweep   : s.sweeping r.g = false
  alone   : AloneInSet s slot.val r.g

/-- The requester is granted the line: ownership without data, or the data with the state granted (R32). -/
def Grants (s t : State) (slot : Nat) (r : FabReq) (st : DirState) (d : Option Line) : Prop :=
  match d with
  | none => Told s t slot r.dev (fromSwitch slot 0x14 r []) (.grantBare r.g)
  | some l => Told s t slot r.dev (fromSwitch slot (if st = .m then 0x13 else if st = .e then 0x12 else 0x11) r (lineBytes l)) (.grant r.g st l)

/-- The transaction of request `r` has all it awaits and the entry changes from `old` to `new`: a change of ownership goes to the
alternate first, and the grant waits for its acknowledgement; else the line is granted and `busy` clears (R42, R49). -/
def Settles (s t : State) (slot : Nat) (r : FabReq) (old new : DirEntry) (st : DirState) (d : Option Line) : Prop :=
  match (if old.owner? = new.owner? then none else s.fab.cfg.alternate r.g) with
  | some a => t.fab.wire = s.fab.wire ++ [.note a slot r.g new.own new.st] ∧
      EntryIs (t.fswitch slot) r.g (some { new with busy := true }) ∧
      SMap.get 0 (t.fswitch slot).unacked r.g.toNat = SMap.get 0 (s.fswitch slot).unacked r.g.toNat + 1 ∧
      ∃ x, SMap.get none (t.fswitch slot).txns r.g.toNat = some x ∧ x.req = r ∧ x.noteDue = true ∧ x.data = d
  | none => Grants s t slot r st d ∧ EntryIs (t.fswitch slot) r.g (some { new with busy := false }) ∧
      SMap.get none (t.fswitch slot).txns r.g.toNat = none

/-- A transaction of request `r` that waits for nothing but the answer `h` takes. -/
structure Awaits (s : State) (slot : Slot) (g : LineAddr) (x : Txn) (e : DirEntry) : Prop where
  txn   : (s.fswitch slot.val).txnOf g = some x
  line  : x.req.g = g
  evict : x.evict = none
  note  : x.noteDue = false
  clean : x.dirty = false
  entry : EntryIs (s.fswitch slot.val) g (some e)
  busy  : e.busy = true
  alone : AloneInSet s slot.val g

/-- An entry after an owning request. -/
def owned (e : DirEntry) (r : FabReq) : DirEntry := { e with st := .m, own := r.dev, shv := portBit r.port }

/-- An entry after a read that an owner has answered: O where it gave dirty data, else S. -/
def shared (e : DirEntry) (r : FabReq) (dirty : Bool) : DirEntry :=
  { e with st := if dirty then .o else .s, shv := e.shv ||| portBit (portOf e.own) ||| portBit r.port }

/-- The state of ownership that an entry may state. -/
def Owns (e : DirEntry) : Prop := e.st = .e ∨ e.st = .o ∨ e.st = .m

end Sys2Proof.Claims

/-- O50. The events at a switch (R42, R43, R45, R49): READ_REQUEST and OWNERSHIP_REQUEST in every state of the entry, OWNER_DATA,
NO_COPY_REPLY, INVALIDATION_ACKNOWLEDGEMENT, WRITEBACK, OWNERSHIP_NOTE, OWNERSHIP_NOTE_ACK, WAITING_NOTICE_TIMER. The events at
this device (R40, R42, R43, R45, R47, R51 to R53, R158): grants, invalidations, forwards, writeback acknowledgements and notices;
a sweep that removes the lines of a lost switch; the end of a chunk and of a sweep; the loss of a switch. A port owes an
acknowledgement only for devices behind it that do not keep their copies. What a lost switch asks of this device does not arrive (R50).
The model's choices: how this device's own acknowledgement reaches the peer of a shared port, and `shv` after E or M (log 21); that an
owner out of reach gives no data, that a bare grant without a copy asks again, the order of the chunks and of their acknowledgements
(log 31). -/
def Obligations.FabricEvents : Prop :=
  ((∀ (s : State) (slot : Slot) (r : FabReq), Takes s slot r →
     ∃ t u, exec (.readRequest slot r) s = .next t ∧ exec (.ownershipRequest slot r) s = .next u ∧
       (let fresh : DirEntry := { age := 0, st := .i, busy := true, gla := r.g, own := 0, shv := 0 }
        EntryIs (s.fswitch slot.val) r.g none → (∃ k ∈ waysOf r.g, SMap.get none (s.fswitch slot.val).dir k = none) →
          Settles s t slot.val r fresh { owned fresh r with st := .e } .e (some (s.homeLine r.g)) ∧
          Settles s u slot.val r fresh (owned fresh r) .m (some (s.homeLine r.g))) ∧
       (∀ e, EntryIs (s.fswitch slot.val) r.g (some e) → e.st = .s →
         Settles s t slot.val r e { e with age := 0, shv := e.shv ||| portBit r.port } .s (some (s.homeLine r.g)) ∧
         (let others := s.owing e.shv [r.port.val] [r.dev]
          let data := if e.shv &&& portBit r.port = 0 then some (s.homeLine r.g) else none
          (others = 0 → Settles s u slot.val r e (owned { e with age := 0 } r) .m data) ∧
          (others ≠ 0 → Invalidated s u slot.val r others [r.dev] ∧
            EntryIs (u.fswitch slot.val) r.g (some { e with age := 0, busy := true }) ∧
            ∃ x, SMap.get none (u.fswitch slot.val).txns r.g.toNat = some x ∧ x.req = r ∧ x.owning = true ∧ x.acks = others ∧
              x.owner = none ∧ x.data = data))) ∧
       (∀ e, EntryIs (s.fswitch slot.val) r.g (some e) → Owns e → s.isAway e.own = true →
         Settles s t slot.val r e (shared { e with age := 0 } r false) .s (some (s.homeLine r.g))) ∧
       (∀ e, EntryIs (s.fswitch slot.val) r.g (some e) → Owns e → s.isAway e.own = false →
         (Told s t slot.val e.own (fromSwitch slot.val 0x16 r []) (.fwdRead slot.val r.g) ∧
          EntryIs (t.fswitch slot.val) r.g (some { e with age := 0, busy := true }) ∧
          ∃ x, SMap.get none (t.fswitch slot.val).txns r.g.toNat = some x ∧ x.req = r ∧ x.owning = false ∧ x.owner = some e.own ∧
            x.acks = 0) ∧
         (let others := s.owing e.shv [r.port.val, (portOf e.own).val] [r.dev, e.own]
          (if e.own = s.fab.cfg.devno then .fwdInv slot.val r.g ∈ u.fab.wire
           else (e.own, fromSwitch slot.val 0x17 r []) ∈ (u.fswitch slot.val).sent) ∧
          Invalidated s u slot.val r others [r.dev, e.own] ∧ EntryIs (u.fswitch slot.val) r.g (some { e with age := 0, busy := true }) ∧
          ∃ x, SMap.get none (u.fswitch slot.val).txns r.g.toNat = some x ∧ x.req = r ∧ x.owning = true ∧ x.owner = some e.own ∧
            x.acks = others))) ∧
   (∀ (s : State) (slot : Slot) (g : LineAddr) (x : Txn) (e : DirEntry) (dirty : Bool) (line : Line), Awaits s slot g x e →
     Owns e → x.acks = 0 → x.owner = some e.own →
     ∃ t u, exec (.ownerData slot g e.own dirty line) s = .next t ∧ exec (.noCopyReply slot g e.own) s = .next u ∧
       (if x.owning then Settles s t slot.val x.req e (owned e x.req) .m (some line) ∧
          Settles s u slot.val x.req e (owned e x.req) .m (some (s.homeLine g))
        else Settles s t slot.val x.req e (shared e x.req dirty) .s (some line) ∧
          Settles s u slot.val x.req e (shared e x.req false) .s (some (s.homeLine g)))) ∧
   (∀ (s : State) (slot : Slot) (g : LineAddr) (x : Txn) (e : DirEntry) (port : Fin 64), Awaits s slot g x e → x.owning = true →
     x.owner = none →
     ∃ t, exec (.invalidationAcknowledgement slot g port) s = .next t ∧
       (let left := x.acks &&& ~~~portBit port
        let peer := x.selfDue = true ∧ port = portOf s.fab.cfg.devno
        (peer → x.acks ≠ 0 → EntryIs (t.fswitch slot.val) g (some e) ∧
          SMap.get none (t.fswitch slot.val).txns g.toNat = some { x with restDue := false }) ∧
        (¬ peer → left = 0 → Settles s t slot.val x.req e (owned e x.req) .m x.data) ∧
        (¬ peer → left ≠ 0 → EntryIs (t.fswitch slot.val) g (some e) ∧
          SMap.get none (t.fswitch slot.val).txns g.toNat = some { x with acks := left }))) ∧
   (∀ (s : State) (slot : Slot) (r : FabReq) (e : DirEntry) (line : Line), EntryIs (s.fswitch slot.val) r.g (some e) →
     e.own = r.dev → (e.st = .m ∨ e.st = .o) → (s.fswitch slot.val).txnOf r.g = none →
     ∃ t, exec (.writeback slot r line) s = .next t ∧
       (homeDevice r.g ≠ s.fab.cfg.devno → t.homeLine r.g = line) ∧
       (homeDevice r.g = s.fab.cfg.devno → ∀ k, s.homeKey r.g = some k → ∀ j, j < 128 → t.dramByte (k + j) = byteOf line j) ∧
       (let e' : DirEntry := { e with st := if e.st = .m then .i else .s }
        let note := ((s.fab.cfg.alternate r.g).map (fun a => FabMsg.note a slot.val r.g e.own e'.st)).toList
        EntryIs (t.fswitch slot.val) r.g (if e.st = .m ∧ e.busy = false then none else some e') ∧
        (if r.dev = s.fab.cfg.devno then t.fab.wire = s.fab.wire ++ note ++ [.wbAck r.g]
         else t.fab.wire = s.fab.wire ++ note ∧ (t.fswitch slot.val).sent = (s.fswitch slot.val).sent ++ [(r.dev, fromSwitch slot.val 0x18 r [])]))) ∧
   (∀ (s : State) (alt prim : Slot) (g : LineAddr) (own : Device) (st : DirState), s.fab.cfg.live alt.val = true →
     ∃ t, exec (.ownershipNote alt prim g own st) s = .next t ∧ t.fab.wire = s.fab.wire ++ [.noteAck prim.val g] ∧
       SMap.get none (t.fswitch alt.val).notes g.toNat = (if st = .i ∨ st = .s then none else some (own, st)) ∧
       (t.fswitch alt.val).dir = (s.fswitch alt.val).dir) ∧
   (∀ (s : State) (prim : Slot) (g : LineAddr) (x : Txn) (e : DirEntry), (s.fswitch prim.val).txnOf g = some x → x.req.g = g →
     x.noteDue = true → EntryIs (s.fswitch prim.val) g (some e) → e.st ≠ .i →
     AloneInSet s prim.val g →
     ∃ t, exec (.ownershipNoteAck prim g) s = .next t ∧
       (let due := SMap.get 0 (s.fswitch prim.val).unacked g.toNat
        SMap.get 0 (t.fswitch prim.val).unacked g.toNat = due - 1 ∧
        (due ≤ 1 → Grants s t prim.val x.req (if x.owning then .m else if e.st = .e then .e else .s) x.data ∧
          EntryIs (t.fswitch prim.val) g (some { e with busy := false }) ∧ SMap.get none (t.fswitch prim.val).txns g.toNat = none) ∧
        (1 < due → t.fab.wire = s.fab.wire ∧ (t.fswitch prim.val).sent = (s.fswitch prim.val).sent ∧
          EntryIs (t.fswitch prim.val) g (some e) ∧ (t.fswitch prim.val).txnOf g = some x))) ∧
   (∀ (s : State) (slot : Slot), ∃ t, exec (.waitingNoticeTimer slot) s = .next t ∧
     (let mine := fun (w : Bool × FabReq) => w.2.dev == s.fab.cfg.devno
      let ws := (s.fswitch slot.val).waiting
      (t.fswitch slot.val).waiting = ws ∧ t.fab.wire = s.fab.wire ++ (ws.filter mine).map (fun w => .notice w.2.g) ∧
      (t.fswitch slot.val).sent = (s.fswitch slot.val).sent ++ (ws.filter (fun w => !mine w)).map (fun w => (w.2.dev, fromSwitch slot.val 0x19 w.2 []))))) ∧
  ((∀ (s : State) (g : LineAddr) (st : DirState) (line : Line), ∃ t u, exec (.dataGrant g st line) s = .next t ∧
     exec (.grantWithoutData g) s = .next u ∧
     (let y := s.sysLine g
      (y.miss ≠ none → t.sysLine g = { y with st := st, data := line, miss := none }) ∧ (y.miss = none → t = s ∧ u = s) ∧
      (y.miss ≠ none → y.st ≠ .i → u.sysLine g = { y with st := .m, miss := none }) ∧
      (y.miss ≠ none → y.st = .i → ∀ k, s.fab.cfg.primary g = some k → u.fab.wire = s.fab.wire ++ [.own k (s.asRequester g)]))) ∧
   (∀ (s : State) (slot : Slot) (g : LineAddr), ∃ t u v, exec (.invalidation slot g) s = .next t ∧
     exec (.forwardRead slot g) s = .next u ∧ exec (.forwardInvalidate slot g) s = .next v ∧
     (let y := s.sysLine g
      let me := s.fab.cfg.devno
      let dead := (SMap.get HomeSlot.reset s.fab.cfg.homes slot.val).dead
      let ack := if (s.portDevices (portOf me).val).length ≤ 1 then [FabMsg.invAck slot.val g (portOf me).val]
        else [FabMsg.peerAck slot.val g]
      let gone := fun (t : State) => (t.sysLine g).st = .i ∧ (t.sysLine g).miss = y.miss ∧
        SMap.get none t.l2 (l2Key (homeDie (fabricVa g)) 0 (fabricVa g)) = none
      (dead = true → t = s ∧ u = s ∧ v = s) ∧
      (dead = false → y.st = .i → t = { s with fab := { s.fab with wire := s.fab.wire ++ ack } } ∧
        u = { s with fab := { s.fab with wire := s.fab.wire ++ [.noCopy slot.val g me] } } ∧ v = u) ∧
      (dead = false → y.st ≠ .i → gone t ∧ gone v ∧
        t.fab.wire = s.fab.wire ++ (if y.st = .m ∨ y.st = .o then [.writeback slot.val (s.asRequester g) y.data] else []) ++ ack ∧
        u.sysLine g = { y with st := if y.st = .m ∨ y.st = .o then .o else .s } ∧
        u.fab.wire = s.fab.wire ++ [.ownerData slot.val g me (y.st == .m || y.st == .o) y.data] ∧
        v.fab.wire = s.fab.wire ++ [.ownerData slot.val g me (y.st == .m || y.st == .o) y.data]))) ∧
   (∀ (s : State) (g : LineAddr), ∃ t u, exec (.writebackAcknowledgement g) s = .next t ∧ exec (.waitingNotice g) s = .next u ∧
     t.sysLine g = { s.sysLine g with wbWait := false } ∧
     ((s.sysLine g).miss ≠ none → u.sysLine g = { s.sysLine g with waited := s.clk })) ∧
   (∀ (s : State) (first last : LineAddr) (lost : Slot), (∀ k x, (k, some x) ∈ s.l2 → x.dirty = 0) →
     ∃ t, exec (.invalidateAndWritebackSweep first last lost) s = .next t ∧
     (∀ g : LineAddr, first ≤ g → g ≤ last → s.fab.cfg.wasPrimary g lost.val = true → (t.sysLine g).st = .i ∧
       ((s.sysLine g).st = .m ∨ (s.sysLine g).st = .o → ∀ k, s.fab.cfg.primary g = some k →
         ∃ n, .writeback k { s.asRequester g with txn := n } (s.sysLine g).data ∈ t.fab.wire)) ∧
     ∃ n, (∀ w, s.fab.sweeps.find? (fun w => w.slot == lost.val && w.chunks.head? == some (first, last)) = some w → n = w.txn) ∧
       (if homeDevice first = s.fab.cfg.devno then .sweepAck s.fab.cfg.devno n ∈ t.fab.wire
        else message 0x25 s.fab.cfg.devno.toNat n 0 [] ∈ t.fab.sent ∧
          ∀ a ∈ s.fab.abroad, a.slot = lost.val → { a with swept := a.swept ++ [(first, last)], ended := false } ∈ t.fab.abroad)) ∧
   (∀ (s : State) (dev : Device), ∃ t, exec (.sweepAcknowledgement dev) s = .next t ∧
     (s.oldestSweep dev = none → t = s) ∧
     (∀ w, s.oldestSweep dev = some w → w ∈ s.fab.sweeps ∧ w.awaited.getLsbD dev.toNat = true ∧
       (∀ v ∈ s.fab.sweeps, v.awaited.getLsbD dev.toNat = true → s.fab.txnAge v.txn ≤ s.fab.txnAge w.txn) ∧
       t.fab.sweeps = s.fab.sweeps.map (fun v =>
         if v.txn = w.txn then { v with awaited := v.awaited &&& ~~~((1#256) <<< dev.toNat) } else v))) ∧
   (∀ (s : State) (slot : Slot) (w : Sweep), s.fab.sweeps.find? (fun w => w.slot == slot.val && w.awaited == 0) = some w →
     ∃ t, exec (.sweepComplete slot) s = .next t ∧
       (w.chunks.length ≤ 1 → t.fab.sweeps = s.fab.sweeps.erase w ∧
         Reported s t (w.chunks.head?.elim [] (s.stranded slot.val)).length { kind := 0x15, src := srcLink, body :=
           [(16, bytesNat 1 slot.val), (20, bytesNat 4 ((s.clk - w.started) / 1400)), (24, bytesNat 8 w.written)] }) ∧
       (∀ c d rest, w.chunks = c :: d :: rest → .sweep d.1 d.2 slot.val s.fab.nextTxn ∈ t.fab.wire ∧
         t.fab.sweeps = s.fab.sweeps.map (fun v => if v = w then
           { w with chunks := d :: rest, awaited := s.fab.cfg.members &&& ~~~s.fab.away, txn := s.fab.nextTxn } else v))) ∧
   (let lostNow := fun (s t : State) (slot : Nat) (bySwitch by_ : Nat) =>
      (SMap.get HomeSlot.reset t.fab.cfg.homes slot).dead = true ∧ (∀ m ∈ t.fab.wire, m.toSlot slot = false) ∧
      Reported s t 0 { kind := 0x13, src := srcLink, body := [(16, bytesNat 1 slot), (17, bytesNat 1 bySwitch), (18, bytesNat 1 by_)] } ∧
      ((∃ k, k ≠ slot ∧ s.fab.cfg.live k = true) →
        (∃ w ∈ t.fab.sweeps, w.slot = slot ∧ w.written = 0 ∧
          w.awaited = if w.chunks.isEmpty then 0 else s.fab.cfg.members &&& ~~~t.fab.away) ∧
        (∃ a ∈ t.fab.abroad, a.slot = slot ∧ a.served = [] ∧ a.ended = false) ∧
        (s.fab.seqSlot = slot → t.fab.cfg.live t.fab.seqSlot = true))
    (∀ (s : State) (slot : Slot) (bySwitch : Bool) (by_ : BitVec 8), s.fab.inForce = true → s.fab.cfg.live slot.val = true →
      ∃ t, exec (.switchLossDeclaration slot bySwitch by_) s = .next t ∧
        lostNow s t slot.val (if bySwitch then 1 else 0) by_.toNat) ∧
    (∀ (s : State) (g : LineAddr) (k : Nat), (s.sysLine g).miss ≠ none ∨ (s.sysLine g).wbWait = true →
      s.fab.cfg.primary g = some k → s.fab.inForce = true →
      ∃ t, exec (.switchLossTimeout g) s = .next t ∧ lostNow s t k 0 s.fab.cfg.devno.toNat ∧
        (let me := s.fab.cfg.devno.toNat
         message 0x35 me s.fab.nextTxn (k + 256 * me) [] ∈ t.fab.sent))) ∧
   (∀ (s : State) (lost : Slot), lost.val ∈ s.fab.unsent → ∃ t, exec (.ownershipNotesResend lost) s = .next t ∧
     lost.val ∉ t.fab.unsent ∧ (s.fab.away = 0 → Reported s t 0 { kind := 0x16, src := srcLink, body := [(16, bytesNat 1 lost.val)] }) ∧
     ∀ k, k < s.fab.cfg.n → s.fab.cfg.live k = true → ∀ e ∈ (s.fswitch k).owned,
       (s.fab.cfg.revive lost.val).alternate e.gla = some lost.val → ∀ a, s.fab.cfg.alternate e.gla = some a →
         .note a k e.gla e.own e.st ∈ t.fab.wire))
/-! ### Power and start -/

namespace Sys2Proof.Claims

/-- BOOT_RECORD with a start cause, the reason code `why0`, and `count` (R69). -/
def BootRecord (s t : State) (cause : Nat) : Prop :=
  s.host.hold.length < holdSize → ∃ x ∈ t.host.hold, field x 4 1 = 0x01 ∧ field x 21 1 = cause % 256 ∧
    field x 22 1 = t.pkg.fstart.why0.toNat ∧ field x 25 1 = t.pkg.fstart.count % 256

/-- A reason code has been recorded after `f`. -/
def Recorded (f f' : FStart) (code : BitVec 8) : Prop := f'.why0 = code ∧ f'.why1 = f.why0 ∧ f'.why2 = f.why1

/-- A start fails (R78); a checkpoint or restore in progress is answered as a cue that a reset discards (R65). -/
def Fails (s t : State) (code : BitVec 8) : Prop :=
  Recorded s.pkg.fstart t.pkg.fstart code ∧ t.pkg.fstart.count = s.pkg.fstart.count ∧ t.pkg.mode = 6 ∧ t.pkg.phase = .failed ∧
  t.pkg.diesUp = 0 ∧ t.running = false ∧ t.pkg.stream = none ∧ (s.pkg.stream = none → BootRecord s t 3) ∧
  ∀ x, s.pkg.stream = some x → Reported s t 0 { kind := 0x05, src := srcIo, href := x.href, body := [(16, bytesNat 4 0xFFFFFFFF)] }

/-- The package is at a phase, and no thermal trip has stopped it (R27). -/
def At (s : State) (ph : BootPhase) : Prop := s.pkg.phase = ph ∧ s.pkg.tripped = none

/-- A start begins (R77, R81): the reason of the start before it is recorded, minimal mode is entered when `count` is 3, else `count`
rises, the IHL comes up and the boot ROM waits for `go`. -/
def Starts (s t : State) (cause : Nat) : Prop :=
  let (f, f') := (s.pkg.fstart, t.pkg.fstart)
  let count := if f.trip then min 3 (f.count + 1) else f.count
  (if f.trip then Recorded f f' 0x09 else if f.begun then Recorded f f' 0x0B
   else f'.why0 = f.why0 ∧ f'.why1 = f.why1 ∧ f'.why2 = f.why2) ∧
  (t.link ihl).up = true ∧ t.pkg.diesUp = 0 ∧ t.pkg.measure = [] ∧ t.pkg.log = [] ∧ t.pkg.cause = cause ∧
  (if count = 3 then f'.count = 3 ∧ t.pkg.mode = 4 ∧ t.pkg.phase = .minimal ∧ t.running = false
   else f'.count = count + 1 ∧ t.pkg.mode = 1 ∧ t.pkg.phase = .waitGo ∧ t.pkg.goAt = t.clk)

end Sys2Proof.Claims

/-- O51. The events of power and of the start (R16 to R28, R76 to R82): rails, power removal, sensors and the thermal trip, capping, power
limits; `go`, `clr` and `rst`, which sends what resilient contexts hold back; the image, which every die receives, the dies, the
Directors, and each way in which a start fails. The model's choices: that a reset leaves device memory listing nothing, how a stream cut
short is answered, that a tripped package stays as it is, the body of a refused power limit (log 32); the pace of capping (log 9). -/
def Obligations.PowerAndStartEvents : Prop :=
  (∀ s : State, At s .rails ∨ At s .off → ∃ t, exec .railsInRange s = .next t ∧ Starts s t s.pkg.cause ∧
    t.pkg.powered = true ∧ t.pkg.rails = BitVec.allOnes 20) ∧
  (∀ s : State, ∃ t, exec .powerRemoval s = .next t ∧ t.pkg.fstart = s.pkg.fstart ∧ t.running = false ∧ t.pkg.phase = .off ∧
    t.host.mem = s.host.mem ∧ t.host.cueRcvd = 0 ∧ t.host.evtSent = 0 ∧ t.host.store = [] ∧ t.groups = [] ∧ t.mem.dram = []) ∧
  (∀ (s : State) (rail : Fin 20), s.pkg.tripped = none → s.pkg.phase ∉ [.rails, .off, .failed, .minimal] →
    ∃ t, exec (.railOutOfRange rail) s = .next t ∧ Fails s t 0x0A ∧ t.pkg.rails.getLsbD rail.val = false) ∧
  (∀ (s : State) (xs : List (BitVec 24)), s.pkg.powered = true → ∃ t, exec (.sensorSample xs) s = .next t ∧
    (let deg := fun (k : Nat) => (xs[k]?).map (fun x => (x.setWidth 16).toInt)
     let hotter := fun (k : Nat) (c : Int) => ∃ d, deg k = some d ∧ 16 * c ≤ d
     (∀ k x, k < 92 → xs[k]? = some x → SMap.get 0 t.pkg.sensors k =
       0x80000000#32 ||| (if k < 72 then (x.setWidth 16).setWidth 32 else x.setWidth 32)) ∧
     (∀ n, n < 8 → (∃ j, j < 4 ∧ hotter (4 * n + j) 105) → (t.pkg.die n).therm = true) ∧
     (∀ n, n < 8 → 32 ≤ xs.length → (∀ j, j < 4 → ¬ hotter (4 * n + j) 100) → (t.pkg.die n).therm = false) ∧
     (s.pkg.tripped = none → (∃ k, k < 52 ∧ hotter k 120) → (∃ k r, k < 52 ∧ t.pkg.tripped = some (k, r)) ∧ t.running = false ∧
       t.pkg.diesUp = 0 ∧ t.cur = none ∧ Instr.thermalTripEvent ∈ t.agenda ∧ Instr.thermTripNAssert ∈ t.agenda))) ∧
  (∀ (s : State) (k : Nat) (r : BitVec 16), s.pkg.tripped = some (k, r) →
    ∃ t u, exec .thermalTripEvent s = .next t ∧ exec .thermTripNAssert s = .next u ∧ u.pkg.thermN = true ∧
      (s.pkg.tripTold = false → s.ihlUp = true →
        Reported s t 0 { kind := 0x0E, src := srcIo, body := [(16, bytesNat 1 k), (18, bytesNat 2 r.toNat)] })) ∧
  (∀ (s : State) (ws : List Nat), s.pkg.powered = false ∨ s.pkg.tripped ≠ none → exec (.powerCapEvaluation ws) s = .next s) ∧
  (∀ (s : State) (ws : List Nat), s.pkg.powered = true → s.pkg.tripped = none → ∃ t, exec (.powerCapEvaluation ws) s = .next t ∧
    ∀ d, d < 8 → let (x, x', w) := (s.pkg.die d, t.pkg.die d, ws.getD d 0)
      let above := x.lim < w ∨ x.therm = true
      x'.watts = min 511 w ∧ (x'.beyond = true ↔ above) ∧ x'.lim = x.lim ∧ 650 ≤ x'.vcd ∧ x'.vcd ≤ 900 ∧
      (above → x.step < 8 → x.step < x'.step ∧ x'.step ≤ 8) ∧
      (above → x.step = 8 → x'.step = 8 ∧ (x.gate < 4 → x.gate < x'.gate ∧ x'.gate ≤ 4)) ∧
      (¬ above → x'.step = (if 10 * w ≤ 9 * x.lim ∧ 100 ≤ x.below + 1 ∧ x.gate = 0 then x.step - 1 else x.step) ∧
        x'.gate = (if 10 * w ≤ 9 * x.lim ∧ 100 ≤ x.below + 1 then x.gate - 1 else x.gate))) ∧
  (∀ (s : State) (die : Die) (w : Word), s.pkg.powered = false ∨ s.pkg.tripped ≠ none → exec (.plimWrite die w) s = .next s) ∧
  (∀ (s : State) (die : Die) (w : Word), s.pkg.powered = true → s.pkg.tripped = none → ∃ t, exec (.plimWrite die w) s = .next t ∧
    (if 120 ≤ w.toNat ∧ w.toNat ≤ 320 ∧
        ((List.range 8).map (fun d => if d = die.val then w.toNat else (s.pkg.die d).lim)).sum ≤ 2160 then
       t.host = s.host ∧ ∀ d, t.pkg.die d = if d = die.val then { s.pkg.die d with lim := w.toNat } else s.pkg.die d
     else t.pkg = s.pkg ∧ Reported s t 0 { kind := 0x08, src := srcIo, body := [(17, bytesNat 1 die.val)] })) ∧
  (∀ s : State, At s .waitGo → ∃ t u, exec .bootCtlGo s = .next t ∧ exec .goTimeout s = .next u ∧
    t = { s with pkg := { s.pkg with phase := .readImage } } ∧ Fails s u 0x02) ∧
  (∀ s : State, ∃ t u, exec .bootCtlClr s = .next t ∧ exec .bootCtlRst s = .next u ∧
    (s.pkg.mode ≠ 4 → s.pkg.mode ≠ 6 → t = s ∧ u = s) ∧
    (s.pkg.mode = 4 ∨ s.pkg.mode = 6 →
      t = { s with pkg := { s.pkg with fstart := { s.pkg.fstart with count := 0 } } } ∧ (s.pkg.tripped ≠ none → u = s) ∧
      (s.pkg.tripped = none →
        (s.pkg.rails = BitVec.allOnes 20 → Starts s u 1) ∧
        (s.pkg.rails ≠ BitVec.allOnes 20 → At u .rails ∧ u.pkg.cause = 1 ∧ u.running = false ∧ u.pkg.fstart = s.pkg.fstart) ∧
        u.host.cueRcvd = s.host.cueRcvd ∧ u.host.evtSent = s.host.evtSent ∧ u.host.store = s.host.store ∧
        u.host.ringOk = s.host.ringOk ∧ u.groups = [] ∧ u.contexts = [] ∧ u.mem.dram = [] ∧ (∀ d, (u.die d).cues = []) ∧
        ∀ (c : Ctx) x bs, c ≠ 0 → s.context? c.toNat = some x → bs ∈ x.heldEvts →
          (∃ n : Word, overlay bs 0 (bytesOfWord n) ∈ u.host.hold) ∨ bs ∈ u.host.waitEvts))) ∧
  (∀ s : State, At s .readImage → ∃ t, exec .bootImageRead s = .next t ∧
    (let (hdr, body) := s.imageBytes
     let good := field hdr 0 4 = 0x5A444952 ∧ field hdr 8 4 ≤ 2 ^ 24 ∧ s.host.imgLen.toNat = 256 + field hdr 8 4 ∧
       Config.signatureValid ((hdr.drop 16).take 114) (digest (hdr.take 16 ++ body)) = true
     let old := field hdr 4 4 % 2 ^ 32 < Config.fusedMinVersion.toNat
     (¬ good → Fails s t 0x01) ∧
     (good → t.pkg.imgVer = BitVec.ofNat 32 (field hdr 4 4)) ∧ (good → old → Fails s t 0x03) ∧
     (good → ¬ old → t.pkg.mode = 2 ∧ t.pkg.phase = .bringUp ∧
       (s.pkg.log = [] → t.pkg.log.map (fun e => e.1) = [1, 2, 3, 4])))) ∧
  (∀ (s : State) (r : BringUp), At s .bringUp → ∃ t, exec (.dieBringUpDone r) s = .next t ∧
    (if r.dieOk ≠ BitVec.allOnes 8 then Fails s t 0x04 else if r.cacheOk = false then Fails s t 0x05
     else if r.hbmOk = false then Fails s t 0x06 else if r.linkOk = false then Fails s t 0x07
     else t.pkg.phase = .waitReady ∧ t.pkg.directors = BitVec.allOnes 8 ∧ t.pkg.goAt = s.clk ∧ t.pkg.mscActive = s.pkg.mscmode ∧
       (∀ n, (isIfl n || isDieLink n) = true → (t.link n).up = true) ∧ (∀ d, d < 8 → (t.die d).image = s.pkg.image) ∧
       (s.pkg.log.length = 4 → t.pkg.log.length = 13))) ∧
  (∀ (s : State) (die : Die), At s .waitReady → ∃ t u, exec (.directorReady die) s = .next t ∧
    exec .readyTimeout s = .next u ∧ Fails s u 0x08 ∧
    (let up := s.pkg.diesUp ||| ((1#8) <<< die.val)
     t.pkg.diesUp = up ∧
     (if up = BitVec.allOnes 8 then t.pkg.mode = 3 ∧ t.pkg.phase = .running ∧ t.pkg.fstart.count = 0 ∧ BootRecord s t s.pkg.cause
      else t.pkg.phase = .waitReady ∧ t.pkg.mode = s.pkg.mode)))

/-! ### The host -/

namespace Sys2Proof.Claims

/-- One more answer to the host. -/
def Answered (s t : State) (bs : List Byte) : Prop := t = { s with host := { s.host with replies := s.host.replies ++ [bs] } }

/-- A line of device memory that its slice serves, `ct` being the time of the core that stores to it: nothing refuses an access to
it, no other device holds it, no sweep of a slice that is asked for it runs, none of its own is due (R132), no reconcile sweep runs
(R139), no die link retrains (R34), what the slice holds of it agrees with its page, and a software-managed synonym with memory (R137). -/
structure HomeLine (s : State) (die : Nat) (c : Ctx) (va : VA) (e : DWord) (ct : Nat) : Prop where
  window : windowOf va ≤ 8
  plain  : (leafAttr e).swm = false
  owned  : s.engineOwned (lineLoc s c va e) = false
  whole  : s.poisoned (lineLoc s c va e) = false
  abroad : s.heldAbroad (lineLoc s c va e) true = none
  calm   : s.mem.xiNow = none
  links  : ∀ n, isDieLink n = true → (s.link n).train = false
  still  : ∀ d, (s.slice (sliceKeyOf d (homeSlice va))).sweep = false
  fresh  : (s.slice (sliceKeyOf die (homeSlice va))).mrts + 1 < rebaseAt
  time   : ct < (s.slice (sliceKeyOf die (homeSlice va))).base + rebaseAt
  lines  : ∀ k x, (k, some x) ∈ s.l2 → x.rts + 1 < rebaseAt ∧ x.dirty = 0 ∧
             (k = l2Key die (tagFor c va) va → x.loc = lineLoc s c va e ∧ x.attr.swm = false) ∧
             (x.loc = lineLoc s c va e → x.attr.swm = true → x.data = s.dramLine (lineLoc s c va e))

/-- EVENT_WRITE is due. -/
def WritesDue (t : State) : Prop := Instr.eventWrite ∈ t.agenda

end Sys2Proof.Claims

/-- O52. The events of the host interface (R58 to R61, R70 to R73, R109): the management window; the memory window, whose accesses wait
behind others, while a trip has stopped the core clocks, and for what holds their line; the event ring, its configuration,
acknowledgement, replay and the writing of an event; the interrupt. The model's choices, log 33: the transaction number 0 of an event's
request, a privileged access under tag 0, HOST_FAULT for an engine-owned line, an event write that waits for every write that the host
has not acknowledged and for a read or atomic of the ring, interrupts 2,800 clocks apart, a replay with an empty store. -/
def Obligations.HostEvents : Prop :=
  (∀ (s : State) (write : Bool) (o : BitVec 16) (v : Word), s.pkg.powered = false → exec (.managementAccess write o v) s = .next s) ∧
  (∀ (s : State) (o : BitVec 16) (v : Word), s.pkg.powered = true → ∃ t u, exec (.managementAccess false o v) s = .next t ∧
    exec (.managementAccess true o v) s = .next u ∧ Answered s t (message 0x34 0 0 0 (padTo 16 (bytesOfWord (s.manageRead o.toNat)))) ∧
    ((o.toNat % 4 ≠ 0 ∨ o.toNat ∈ [0x04, 0x18, 0x1C, 0x2C, 0x34, 0x38, 0x3C, 0x4C] ∨ 0x3400 ≤ o.toNat) → s.manageRead o.toNat = 0) ∧
    (o.toNat ∈ [0x00, 0x04, 0x08, 0x0C, 0x10, 0x1C, 0x50, 0x140] ∨ (0x120 ≤ o.toNat ∧ o.toNat < 0x140) ∨ 0x144 ≤ o.toNat → u = s) ∧
    (o = 0x14 → exec (.evtAckWrite v) s = .next u) ∧ (o = 0x18 → exec (.evtReplayWrite v) s = .next u) ∧
    (o = 0x20 → exec (.eventRingConfig .baseLo v) s = .next u) ∧ (o = 0x24 → exec (.eventRingConfig .baseHi v) s = .next u) ∧
    (o = 0x28 → exec (.eventRingConfig .size v) s = .next u) ∧ (o = 0x30 → exec (.hmwSelWrite v) s = .next u) ∧
    (o = 0x40 → u.manageRead 0x40 = v) ∧ (o = 0x44 → u.manageRead 0x44 = v) ∧ (o = 0x48 → u.manageRead 0x48 = v) ∧
    (o = 0x4C → v = 1 → exec .bootCtlGo s = .next u) ∧ (o = 0x4C → v = 2 → exec .bootCtlClr s = .next u) ∧
    (o = 0x4C → v = 4 → exec .bootCtlRst s = .next u) ∧ (o = 0x54 → exec (.mscmodeWrite v) s = .next u) ∧
    (∀ d : Die, o.toNat = 0x100 + 4 * d.val → exec (.plimWrite d v) s = .next u)) ∧
  (∀ (s : State) (v : Word), s.pkg.powered = true → ∃ t u, exec (.hmwSelWrite v) s = .next t ∧ exec (.mscmodeWrite v) s = .next u ∧
    t.host.hmwSel = (if v.toNat ≤ 8 then v.toNat else s.host.hmwSel) ∧
    u.pkg.mscmode = v.setWidth 8 ∧ u.pkg.mscActive = s.pkg.mscActive) ∧
  (∀ (s : State) (off : BitVec 48) (en : BitVec 128) (line : Line), s.pkg.powered = true → s.host.window ≠ [] →
    ∃ t u, exec (.hostMemoryRead off) s = .next t ∧ exec (.hostMemoryWrite off en line) s = .next u ∧
      t = { s with host := { s.host with window := s.host.window ++ [.read (s.hostVa off) 0] } } ∧
      u = { s with host := { s.host with window := s.host.window ++ [.write (s.hostVa off) (enabledBytes en line) 0] } }) ∧
  (∀ (s : State) (off : BitVec 48) (en : BitVec 128) (line : Line), s.pkg.powered = true → s.host.window = [] → s.pkg.tripped ≠ none →
    exec (.hostMemoryRead off) s = .next { s with host := { s.host with window := [.read (s.hostVa off) 0] } } ∧
    exec (.hostMemoryWrite off en line) s = .next { s with host := { s.host with window := [.write (s.hostVa off) (enabledBytes en line) 0] } }) ∧
  (∀ (s : State) (off : BitVec 48), s.pkg.powered = true → s.host.window = [] → s.pkg.tripped = none →
    ∃ t, exec (.hostMemoryRead off) s = .next t ∧
    (let va : VA := BitVec.ofNat 52 (s.host.hmwSel * 2 ^ 48 + off.toNat / 128 * 128)
     let copy := s.l2At (l2Key (homeDie va) 0 va)
     match s.channel 0 true false va, copy.any (fun x => permBad x.attr .read true) with
     | .ok e, false =>
       let loc := lineLoc s 0 va e
       (s.hostHeld va e false = false → s.fabricNeed va loc false = none → Answered s t (message 0x1B 0 0 0 (lineBytes (s.homeCopy loc)))) ∧
       (s.hostHeld va e false = false → s.fabricNeed va loc false ≠ none → t.host.replies = s.host.replies ∧ t.host.window = [.read va 0]) ∧
       (s.hostHeld va e false = true → t = { s with host := { s.host with window := [.read va 0] } })
     | _, _ => t.host.replies = s.host.replies ++ [message 0x1B 0 0 0 (List.replicate 128 0xFF)] ∧ t.host.window = [] ∧
         Reported s t 0 { kind := 0x0F, src := srcIo, body := [(16, bytesNat 8 va.toNat), (24, bytesNat 1 0)] })) ∧
  (∀ (s : State) (off : BitVec 48) (en : BitVec 128) (line : Line), s.pkg.powered = true → s.host.window = [] → s.pkg.tripped = none →
    ∃ t, exec (.hostMemoryWrite off en line) s = .next t ∧
    (let va : VA := BitVec.ofNat 52 (s.host.hmwSel * 2 ^ 48 + off.toNat / 128 * 128)
     let copy := s.l2At (l2Key (homeDie va) 0 va)
     let refused := t.mem = s.mem ∧ t.host.replies = s.host.replies ++ [message 0x1C 0 0 1 []] ∧ t.host.window = [] ∧
         Reported s t 0 { kind := 0x0F, src := srcIo, body := [(16, bytesNat 8 va.toNat), (24, bytesNat 1 1)] }
     match s.channel 0 true true va, copy.any (fun x => permBad x.attr .write true) with
     | .ok e, false =>
       (s.engineOwned (lineLoc s 0 va e) = true → refused) ∧
       (s.engineOwned (lineLoc s 0 va e) = false → s.hostHeld va e true = true → t = { s with host := { s.host with
         window := [.write va (enabledBytes en line) 0] } }) ∧
       (s.engineOwned (lineLoc s 0 va e) = false → s.hostHeld va e true = false → s.fabricNeed va (lineLoc s 0 va e) true ≠ none →
         t.host.replies = s.host.replies ∧ t.host.window = [.write va (enabledBytes en line) 0]) ∧
       (HomeLine s (homeDie va) 0 va e 0 → t.host.replies = s.host.replies ++ [message 0x1C 0 0 0 []] ∧ t.host.window = [] ∧
         ∀ j, j < 128 → en.getLsbD j = true → t.dramByte (lineLoc s 0 va e + j) = byteOf line j)
     | _, _ => refused)) ∧
  (∀ (s : State) (v : Word), s.pkg.powered = true → ∃ t, exec (.evtAckWrite v) s = .next t ∧ t.host.evtAck = v ∧ WritesDue t ∧
    (if 0 < s.host.dropped ∧ s.host.hold.length < 1024 then
       t.host.dropped = 0 ∧ t.host.hold = s.host.hold ++
         [Event.bytes { kind := 0x0D, src := srcIo, body := [(16, bytesNat 4 s.host.dropped)] } s.host.evtNext]
     else t.host.dropped = s.host.dropped ∧ t.host.hold = s.host.hold)) ∧
  (∀ (s : State) (n : Word), s.pkg.powered = true → ∃ t, exec (.evtReplayWrite n) s = .next t ∧
    (let d := (n - s.host.evtSent).toInt
     (1 < d → t = s) ∧
     (d = 1 → t.host = { s.host with evtAck := s.host.evtSent, replayAt := none }) ∧
     (d ≤ 0 → (∃ x ∈ s.host.store, BitVec.ofNat 32 (field x 0 4) = n) →
       t.host = { s.host with evtAck := n - 1, replayAt := some n } ∧ WritesDue t) ∧
     (d ≤ 0 → (∀ x ∈ s.host.store, BitVec.ofNat 32 (field x 0 4) ≠ n) → ∀ x xs, s.host.store = x :: xs →
       let old : Word := BitVec.ofNat 32 (field x 0 4)
       WritesDue t ∧
       (s.host.hold.length < 1024 → t.host = { s.host with
         evtAck := old - 1
         replayAt := some old
         evtNext := s.host.evtNext + 1
         hold := s.host.hold ++ [Event.bytes { kind := 0x0C, src := srcIo, body := [(16, bytesOfWord old), (20, bytesOfWord n)] }
                                  s.host.evtNext] }) ∧
       (1024 ≤ s.host.hold.length → t.host = { s.host with
         evtAck := old - 1
         replayAt := some old
         dropped := s.host.dropped + 1 })))) ∧
  (∀ (s : State) (v : Word), s.pkg.powered = true → ∃ t u w, exec (.eventRingConfig .size v) s = .next t ∧ exec (.eventRingConfig .baseLo v) s = .next u ∧
    exec (.eventRingConfig .baseHi v) s = .next w ∧
    (6 ≤ v.toNat → v.toNat ≤ 16 → t.host = { s.host with size := v, ringOk := true } ∧ WritesDue t) ∧
    (v.toNat < 6 ∨ 16 < v.toNat → t = s) ∧
    (v.toNat % 64 = 0 → u = { s with host := { s.host with baseLo := v, ringOk := false } }) ∧ (v.toNat % 64 ≠ 0 → u = s) ∧
    w = { s with host := { s.host with baseHi := v, ringOk := false } }) ∧
  (∀ s : State, ∃ t, exec .eventWrite s = .next t ∧
    (let h := s.host
     let slot := fun (n : Word) => (h.baseLo.toNat + 2 ^ 32 * h.baseHi.toNat) + n.toNat % 2 ^ h.size.toNat * 64
     let ready := h.ringOk = true ∧ s.ihlUp = true ∧ s.ringBusy = false ∧ ∀ r ∈ h.inFlight, r.write = false
     let space := fun (n : Word) => (n - h.evtAck).toNat < 2 ^ h.size.toNat
     (¬ ready → t = s) ∧
     (ready → h.replayAt = none → ∀ x xs, h.hold = x :: xs → x.length = 64 → 
       let n : Word := BitVec.ofNat 32 (field x 0 4)
       (¬ space n → t = s) ∧
       (space n → t.host.evtSent = n ∧ t.host.intr = true ∧
         (∀ j, j < 64 → t.hostByte (slot n + j) = x.getD j 0) ∧
         t.host.store = (h.store ++ [x]).drop (h.store.length + 1 - 4096) ∧
         (h.dropped = 0 → h.waitEvts = [] → t.host.hold = xs))) ∧
     (ready → ∀ n, h.replayAt = some n → space n → ∀ x, h.stored n = some x → x.length = 64 →
       t.host.evtSent = h.evtSent ∧ t.host.intr = true ∧ t.host.replayAt = (if n = h.evtSent then none else some (n + 1)) ∧
       t.host.hold = h.hold ∧ WritesDue t ∧
       ∀ j, j < 64 → t.hostByte (slot n + j) = if j = 6 then BitVec.ofNat 8 (field x 6 1 ||| 1) else x.getD j 0))) ∧
  (∀ s : State, ∃ t, exec .ihlInterrupt s = .next t ∧
    (s.host.intr = true → s.host.intrAt ≤ s.clk →
      t = { s with host := { s.host with intr := false, intrs := s.host.intrs + 1, intrAt := s.clk + 2800 } }) ∧
    (s.host.intr = false ∨ s.clk < s.host.intrAt → t = s))


/-! ### Cues -/

namespace Sys2Proof.Claims

/-- The Directors take cues, none of whose events waits for room (R70), and the next cue of a die is `cue`, of one kind, with a header that is whole (R62, R83, R85). -/
structure NextCue (s : State) (die : Die) (kind : Nat) (cue : List Byte) (rest : List (List Byte)) : Prop where
  mode   : s.pkg.mode = 3
  runs   : s.running = true
  stream : s.pkg.stream = none
  told   : s.host.waitEvts = []
  next   : (s.die die.val).cues = cue :: rest
  size   : cue.length = 64
  kind   : field cue 4 1 = kind
  whole  : field cue 9 7 = 0

/-- The state when the cue has left the queue. -/
def popped (s : State) (die : Die) (rest : List (List Byte)) : State :=
  s.setDie die.val { s.die die.val with cues := rest }

/-- An event that answers a cue: it names the cue's number and its context (R65, R68). -/
def answerTo (die : Die) (cue : List Byte) (kind : Nat) (body : List (Nat × List Byte)) : Event :=
  { kind := kind, src := die.val, href := BitVec.ofNat 32 (field cue 0 4), ctx := field cue 8 1, body := body }

/-- An event has been sent: it stands in the hold, or waits for room in it (R70). -/
def Sends (t : State) (e : Event) : Prop := (∃ n, e.bytes n ∈ t.host.hold) ∨ e.bytes 0 ∈ t.host.waitEvts

/-- An event about the work of a context has been sent, or is held back for a resilient context (R86). -/
def Tells (t : State) (c : Nat) (e : Event) : Prop :=
  if (t.context? c).any (fun x => x.resilient && !x.killed) then ∃ x, t.context? c = some x ∧ e.bytes 0 ∈ x.heldEvts else Sends t e

/-- CUE_BAD, with a reason word that the Director defines. -/
def Refuses (t : State) (die : Die) (cue : List Byte) : Prop := ∃ w : Word, Sends t (answerTo die cue 0x05 [(16, bytesOfWord w)])

/-- The work of a context is over (R88): none of its groups issues, no arena of it is open, each launch has been reported. -/
def Ended (s t : State) (c : Nat) (status : Nat) : Prop :=
  (∀ k x, t.group? k = some x → x.ctx.toNat = c → (s.group? k).isSome = true → x.dead = true) ∧ (∀ a ∈ t.arenas, a.ctx.toNat ≠ c) ∧
  (∀ lid l, s.launch? lid = some l → l.blk.ctx.toNat = c → t.launch? lid = none ∧ Sends t
    { kind := 0x03, src := l.die, href := l.href, ctx := c, body := [(16, bytesNat 4 lid), (20, bytesNat 1 status), (24, bytes64 0)] })

/-- No line held by an L2 is dirty in its own bytes (R137). -/
def Settled (s : State) : Prop := ∀ k x, (k, some x) ∈ s.l2 → x.dirty = 0

/-- What a block of partition configuration changes, and its answer. -/
def Staged (s : State) (die : Die) (btype : Nat) (ok : List Byte → Prop) (i : Instr) (put : List Byte → PartCfg → PartCfg) : Prop :=
  ∀ cue rest, NextCue s die 0x0A cue rest → field cue 16 1 = btype → field cue 18 6 = 0 → ok cue →
    ∃ t, exec i s = .next t ∧ t.fab = { s.fab with staged := put cue s.fab.staged } ∧
      Tells t (field cue 8 1) (answerTo die cue 0x02 []) ∧ (t.die die.val).cues = rest

end Sys2Proof.Claims

/-- O53. The events of the cues (R62 to R67, R80, R83, R85, R88): the arrival of a cue with each way of refusing it; LAUNCH, MAP, UNMAP,
CTX_CREATE, CTX_DESTROY, KILL, CHECKPOINT, RESTORE, ATTEST and the Director-defined kinds with their answers; a broken header is
answered with CUE_BAD and has no other effect; the blocks of partition configuration and their commit. The model's choices: logs 12
(reason words, what refuses a MAP, Director-defined kinds, the handlers' pages of a new context), 33 (a read of the cue port), 35 (a
CHECKPOINT with the IHL down, what waits while the Directors stall). -/
def Obligations.CueEvents : Prop :=
  (∀ (s : State) (off : BitVec 12) (cue : List Byte), s.pkg.powered = true → ∃ t, exec (.cueArrival off cue) s = .next t ∧
    (let d := (BitVec.ofNat 32 (field cue 0 4) - s.host.cueRcvd).toInt
     let good := cue.length = 64 ∧ off.toNat % 64 = 0
     let refused := fun (reason : Nat) => t.host.cueRcvd = s.host.cueRcvd ∧ t.host.refused = true ∧ t.dies = s.dies ∧
       t.host.cueDup = s.host.cueDup ∧ Reported s t 0 { kind := 0x04, src := srcIo, body :=
         [(16, bytesOfWord (s.host.cueRcvd + 1)), (20, bytesNat 1 reason), (24, bytesNat 4 (field cue 0 4))] }
     let accepted := t.host.cueRcvd = BitVec.ofNat 32 (field cue 0 4) ∧ t.host.refused = false
     let held := fun (n : Nat) => (s.die n).cues.length + (s.host.window.filterMap (fun r => r.heldFor n)).length
     let up := fun (n : Nat) => s.pkg.diesUp.getLsbD n = true
     let die := fun (n : Nat) => n < 8 ∧ up n ∧ (field cue 5 1 = n ∨ (field cue 5 1 = 0xFF ∧ ∀ k, k < n → ¬ up k))
     (cue = [] → t = { s with host := { s.host with replies := s.host.replies ++ [List.replicate 64 0] } }) ∧
     (cue ≠ [] → ¬ good ∨ d ≤ 0 → t = { s with host := { s.host with cueDup := s.host.cueDup + 1 } }) ∧
     (good → d = 1 → field cue 4 1 = 0x09 → accepted ∧ t.host.attests = s.host.attests ++ [cue] ∧ Instr.cueAttest ∈ t.agenda) ∧
     (good → d = 1 → field cue 4 1 ≠ 0x09 → s.pkg.mode = 4 → refused 4) ∧
     (good → d = 1 → field cue 4 1 ≠ 0x09 → s.pkg.mode ≠ 4 → (∀ n, ¬ die n) → refused 3) ∧
     (good → d = 1 → field cue 4 1 ≠ 0x09 → s.pkg.mode ≠ 4 → ∀ n, die n → 256 ≤ held n → refused 2) ∧
     (good → d = 1 → field cue 4 1 ≠ 0x09 → s.pkg.mode ≠ 4 → ∀ n, die n → held n < 256 →
       accepted ∧ t.host.hold = s.host.hold ∧
       (let goes := s.host.window = [] ∧ s.pkg.tripped = none ∧ s.roundTrip 8 n = true
        (goes → (t.die n).cues = (s.die n).cues ++ [cue] ∧ t.host.window = []) ∧
        (¬ goes → t.dies = s.dies ∧ t.host.window = s.host.window ++ [.cue n cue]))) ∧
     (good → 1 < d → s.host.refused = false → refused 1) ∧ (good → 1 < d → s.host.refused = true → t = s))) ∧
  (∀ (s : State) (die : Die) (i : Instr) (k : Nat) (cue : List Byte) (rest : List (List Byte)),
    (i, k) ∈ [(Instr.cueLaunch die, 0x01), (.cueMap die, 0x02), (.cueUnmap die, 0x03), (.cueCtxCreate die, 0x04), (.cueCtxDestroy die, 0x05),
              (.cueKill die, 0x06), (.cueCheckpoint die, 0x07), (.cueRestore die, 0x08)] →
    s.pkg.mode = 3 → s.running = true → s.pkg.stream = none → s.host.waitEvts = [] → s.host.hold.length < holdSize →
    (s.die die.val).cues = cue :: rest → field cue 4 1 = k → field cue 9 7 ≠ 0 →
    ∃ t, exec i s = .next t ∧ (t.die die.val).cues = rest ∧
      t.host.hold = s.host.hold ++ [(answerTo die cue 0x05 [(16, bytesNat 4 1)]).bytes s.host.evtNext] ∧
      t.mem = s.mem ∧ t.contexts = s.contexts ∧ t.launches = s.launches ∧ t.groups = s.groups ∧ t.pkg = s.pkg) ∧
  (∀ (s : State) (die : Die) (cue : List Byte) (rest : List (List Byte)), NextCue s die 0x01 cue rest → field cue 24 40 = 0 →
    (let s1 := popped s die rest
     let answer := fun (t : State) (c : Ctx) (status : Nat) (w : Word) =>
       Tells t c.toNat (answerTo die cue 0x02 [(16, bytesNat 4 status), (20, bytesOfWord w)])
     match s.cueBlock cue with
     | none => ∃ t, exec (.cueLaunch die) s = .next t ∧ answer t 0 2 13 ∧ t.launches = s.launches
     | some l =>
       let b := blockOf l
       if (s.context? b.ctx.toNat).any (fun x => x.killed) then ∃ t, exec (.cueLaunch die) s = .next t ∧ Refuses t die cue
       else
         (∀ r, s1.blockReason l = some r → s.blockReason l = some r →
           ∃ t, exec (.cueLaunch die) s = .next t ∧ answer t b.ctx 2 (BitVec.ofNat 32 r) ∧ t.launches = s.launches) ∧
         (s1.blockReason l = none → s.blockReason l = none → s.queueFull die.val b.prio = true → exec (.cueLaunch die) s = .next s) ∧
         (s1.blockReason l = none → s1.queueFull die.val b.prio = false → s.queueFull die.val b.prio = false →
           ∃ t x, exec (.cueLaunch die) s = .next t ∧
           (let n := if (s.die die.val).launchCount + 1 < 2 ^ 29 then (s.die die.val).launchCount + 1 else 1
            let lid := die.val * 2 ^ 29 + n
            answer t b.ctx 0 (BitVec.ofNat 32 lid) ∧ t.launch? lid = some x ∧ x.blk = b ∧ x.die = die.val ∧ x.queued = true ∧
            x.href = BitVec.ofNat 32 (field cue 0 4) ∧ (b.dep = false → x.ready = true) ∧
            (t.die die.val).queue b.prio = (s.die die.val).queue b.prio ++ [lid])))) ∧
  (∀ (s : State) (die : Die) (cue : List Byte) (rest : List (List Byte)), NextCue s die 0x02 cue rest → mapLayout cue = true →
    (let s1 := popped s die rest
     let c := cueCtx cue
     let va : VA := BitVec.ofNat 52 (field cue 16 8)
     (s.exists c = false → ∃ t, exec (.cueMap die) s = .next t ∧ Refuses t die cue ∧ t.mem = s.mem) ∧
     (s.exists c = true → ∃ t, exec (.cueMap die) s = .next t ∧
       (Tells t c.toNat (answerTo die cue 0x02 []) ∨ Refuses t die cue) ∧
       (∀ d, s1.entryOf c va true 0 = (s1, some d) → field cue 42 1 = 0 → field cue 32 8 = 65536 → Settled s →
         let loc := if windowOf va = 11 then field cue 24 8 else field cue 24 8 / 65536
         t.mem.dram = (s1.physWrite d (bytesNat 8 (field cue 40 2 * 2 ^ 48 + loc % 2 ^ 32 * 2 ^ 16))).mem.dram ∧
         (∀ e ∈ t.mem.tcache, e.1 ≠ c.toNat * 2 ^ 36 + va.toNat / 65536) ∧ Tells t c.toNat (answerTo die cue 0x02 []))))) ∧
  (∀ (s : State) (die : Die) (cue : List Byte) (rest : List (List Byte)), NextCue s die 0x03 cue rest → s.unmapLayout cue = true →
    (let s1 := popped s die rest
     let c := cueCtx cue
     let va : VA := BitVec.ofNat 52 (field cue 16 8)
     (s.exists c = false → ∃ t, exec (.cueUnmap die) s = .next t ∧ Refuses t die cue ∧ t.mem = s.mem) ∧
     (s.exists c = true → ∃ t, exec (.cueUnmap die) s = .next t ∧ Tells t c.toNat (answerTo die cue 0x02 []) ∧
       (∀ d, s1.entryOf c va false 0 = (s1, some d) → field cue 24 8 = 65536 → s1.unmapPages cue = [(field cue 16 8, 0)] → Settled s →
         t.mem.dram = (s1.physWrite d (bytesNat 8 0)).mem.dram ∧
         (∀ e ∈ t.mem.tcache, e.1 ≠ c.toNat * 2 ^ 36 + va.toNat / 65536))))) ∧
  (∀ (s : State) (die : Die) (cue : List Byte) (rest : List (List Byte)), NextCue s die 0x04 cue rest →
    bodyZero cue [(16, 37), (56, 8)] = true →
    (let c := cueCtx cue
     (c = 0 ∨ s.exists c = true → ∃ t, exec (.cueCtxCreate die) s = .next t ∧ Refuses t die cue ∧ t.contexts = s.contexts) ∧
     (c ≠ 0 → s.exists c = false → ∃ t x, exec (.cueCtxCreate die) s = .next t ∧ t.context? c.toNat = some x ∧
       Tells t c.toNat (answerTo die cue 0x02 []) ∧ x.killed = false ∧ (x.resilient = true ↔ field cue 6 2 % 2 = 1) ∧
       x.safe = BitVec.ofNat 64 (field cue 32 8) ∧ x.safeSize = BitVec.ofNat 64 (field cue 40 8) ∧
       x.interval = BitVec.ofNat 32 (field cue 48 4) ∧ x.saved = none ∧
       (field cue 24 8 = 0 → ∃ x0,
         let described := ((popped s die rest).physWrite (s.descriptorAt c) (descriptorBytes (field cue 16 8) 0
           (field cue 56 4 * 2 ^ 20) (field cue 60 4 * 2 ^ 20) (field cue 52 1) (field cue 6 2 % 2))).setContext c.toNat x0
         t.mem = ((List.range 8).foldl (fun s d => (s.mapHandlers c d).mapCode c d) described).mem)))) ∧
  (∀ (s : State) (die : Die) (cue : List Byte) (rest : List (List Byte)), bodyZero cue [] = true →
    (let c := cueCtx cue
     (NextCue s die 0x05 cue rest → ∃ t, exec (.cueCtxDestroy die) s = .next t ∧
       (if s.exists c then t.context? c.toNat = none ∧ Ended s t c.toNat 1 ∧ Sends t (answerTo die cue 0x02 [])
        else Refuses t die cue)) ∧
     (NextCue s die 0x06 cue rest → ∃ t, exec (.cueKill die) s = .next t ∧
       (if s.exists c then (t.context? c.toNat).any (fun x => x.killed) = true ∧ Ended s t c.toNat 1 ∧
          ((∀ a ∈ s.arenas, a.ctx ≠ c) → t.mem.dram = s.mem.dram) ∧ Sends t (answerTo die cue 0x02 [])
        else Refuses t die cue)))) ∧
  (∀ (s : State) (die : Die) (cue : List Byte) (rest : List (List Byte)), bodyZero cue [(16, 16)] = true →
    (let begun := fun (t : State) (restore : Bool) (mode : Nat) => t.pkg.mode = mode ∧ t.pkg.stream = some
       { restore := restore, href := BitVec.ofNat 32 (field cue 0 4), die := die.val, safe := BitVec.ofNat 64 (field cue 16 8),
         size := BitVec.ofNat 64 (field cue 24 8), started := s.clk }
     (NextCue s die 0x07 cue rest → ∃ t, exec (.cueCheckpoint die) s = .next t ∧
       (if field cue 24 8 < s.deviceBytes + 65536 then Refuses t die cue ∧ t.host.mem = s.host.mem ∧ t.pkg = s.pkg
        else if s.ihlUp then begun t false 5 ∧ ∀ j, j < 65536 → t.hostByte (field cue 16 8 + j) = 0
        else Sends t (answerTo die cue 0x05 [(16, bytesNat 4 3)]) ∧ t.host.mem = s.host.mem ∧ t.pkg = s.pkg)) ∧
     (NextCue s die 0x08 cue rest → ∃ t, exec (.cueRestore die) s = .next t ∧
       (if s.headerOk (field cue 16 8) (field cue 24 8) then begun t true 7 ∧
          (∀ c : Ctx, c ≠ 0 → (s.context? c.toNat).isSome = true → t.context? c.toNat = none ∧ Ended s t c.toNat 2)
        else Sends t (answerTo die cue 0x05 [(16, bytesNat 4 1)]) ∧ t.mem = s.mem ∧ t.contexts = s.contexts ∧ t.pkg = s.pkg)))) ∧
  (∀ (s : State) (cue : List Byte) (rest : List (List Byte)), s.host.attests = cue :: rest → cue.length = 64 →
    ∃ t, exec .cueAttest s = .next t ∧ t.host.attests = rest ∧
      (let answer := fun (kind : Nat) (body : List (Nat × List Byte)) => Reported s t 0
         { kind := kind, src := srcIo, href := BitVec.ofNat 32 (field cue 0 4), ctx := field cue 8 1, body := body }
       let a := field cue 48 8
       let r := t.hostBytes a 256
       (field cue 9 7 ≠ 0 ∨ field cue 56 8 ≠ 0 → answer 0x05 [(16, bytesNat 4 1)] ∧ t.host.mem = s.host.mem) ∧
       (field cue 9 7 = 0 → field cue 56 8 = 0 → answer 0x0B [(16, bytesNat 8 a)] ∧
         r.take 32 = (cue.drop 16).take 32 ∧ (r.drop 32).take 64 = padTo 64 s.pkg.measure ∧
         field r 96 4 = s.pkg.log.length % 2 ^ 32 ∧ field r 100 4 = s.pkg.imgVer.toNat ∧ field r 104 1 = s.pkg.mode % 256 ∧
         field r 105 1 = s.pkg.fstart.count % 256 ∧ (r.drop 108).take 16 = padTo 16 Config.serial ∧
         (r.drop 128).take 114 = padTo 114 (Config.identitySign (digest (r.take 128))) ∧ field r 242 14 = 0))) ∧
  (∀ (s : State) (die : Die) (cue : List Byte) (rest : List (List Byte)) (k : Nat), NextCue s die k cue rest → k = 0 ∨ 0x0B ≤ k →
    ∃ t, exec (.cueDirectorDefined die) s = .next t ∧ (t.die die.val).cues = rest ∧
      (if 0x80 ≤ k ∧ Config.directorAccepts cue = true then Tells t (field cue 8 1) (answerTo die cue 0x02 []) else Refuses t die cue)) ∧
  (∀ (s : State) (die : Die),
    (let entry := fun (cue : List Byte) (k : Nat) => (BitVec.ofNat 16 (field cue (24 + 2 * k) 2) : BitVec 16)
     let entries := fun (cue : List Byte) => ∀ k, k < 16 → (entry cue k).toNat / 256 % 128 = 0
     Staged s die 0 (fun cue => field cue 17 1 = 0 ∧ field cue 25 1 = 0 ∧ 1 ≤ field cue 26 2 ∧ field cue 26 2 ≤ 256 ∧
         1 ≤ field cue 28 1 ∧ field cue 28 1 ≤ 64 ∧ field cue 29 3 = 0 ∧ field cue 32 8 ≠ 0 ∧ field cue 40 24 = 0)
       (.partitionHeader die) (fun cue c => { c with
         devno := BitVec.ofNat 8 (field cue 24 1)
         count := field cue 26 2
         n := field cue 28 1
         gen := BitVec.ofNat 64 (field cue 32 8)
         hasHdr := true }) ∧
     Staged s die 1 (fun cue => field cue 17 1 = 0 ∧ field cue 56 8 = 0) (.partitionMembers die)
       (fun cue c => { c with members := BitVec.ofNat 256 (field cue 24 32), hasMembers := true }) ∧
     Staged s die 2 (fun cue => field cue 17 1 ≤ 3 ∧ field cue 56 8 = 0 ∧ entries cue) (.partitionHomeTable die) (fun cue c =>
       let row := fun (k : Nat) => HomeSlot.mk ((entry cue k).setWidth 8) ((entry cue k).getLsbD 15) false
       { c with
         homes := (List.range 16).foldl (fun m k => SMap.set HomeSlot.reset m (16 * field cue 17 1 + k) (row k)) c.homes
         homeSet := c.homeSet ||| ((1#4) <<< field cue 17 1) }) ∧
     Staged s die 3 (fun cue => field cue 17 1 = 0 ∧ field cue 56 8 = 0 ∧ entries cue) (.partitionPortMap die) (fun cue c =>
       { c with ports := (List.range 16).foldl (fun m k => SMap.set 0 m k (entry cue k)) c.ports, hasPorts := true }))) ∧
  (∀ (s : State) (die : Die) (cue : List Byte) (rest : List (List Byte)), NextCue s die 0x0A cue rest → 4 ≤ field cue 16 1 →
    (s.fab.sweeps ≠ [] ∨ (∃ a ∈ s.fab.abroad, a.isOpen = true) → exec (.partitionCommit die) s = .next s) ∧
    (s.fab.sweeps = [] → (∀ a ∈ s.fab.abroad, a.isOpen = false) →
    (let c : PartCfg := { s.fab.staged with
       members := if s.fab.staged.hasMembers then s.fab.staged.members else s.fab.cfg.members
       ports := if s.fab.staged.hasPorts then s.fab.staged.ports else s.fab.cfg.ports }
     let bad := fun (t : State) (r : Nat) => Sends t (answerTo die cue 0x05 [(16, bytesNat 4 r)]) ∧ t.fab = s.fab
     (4 < field cue 16 1 → ∃ t, exec (.partitionCommit die) s = .next t ∧ bad t 4) ∧
     (field cue 16 1 = 4 → field cue 17 7 = 0 → field cue 32 32 = 0 → ∃ t, exec (.partitionCommit die) s = .next t ∧
       (if c.hasHdr = false ∨ c.gen.toNat ≠ field cue 24 8 then bad t 1
        else if ∃ k, k < c.n ∧ c.homeSet.getLsbD (k / 16) = false then bad t 2
        else if c.members.getLsbD c.devno.toNat = false then bad t 3
        else t.fab.cfg = c ∧ t.fab.staged = .reset ∧ t.fab.inForce = true ∧ t.fab.fenced = false ∧
          (∀ k, k < c.n → c.live k = true → (∀ j, j < k → c.live j = false) → t.fab.seqSlot = k) ∧
          Tells t (field cue 8 1) (answerTo die cue 0x02 []))))))

/-! ### Checkpoint, restore, containment -/

namespace Sys2Proof.Claims

/-- The answer to the cue of a stream; the device runs again. -/
def StreamOver (t : State) (x : Stream) (kind : Nat) (body : List (Nat × List Byte)) : Prop :=
  t.pkg.mode = 3 ∧ t.pkg.stream = none ∧ Sends t { kind := kind, src := x.die, href := x.href, body := body }

end Sys2Proof.Claims

/-- O54. The events of checkpoints, restores and containment (R83 to R88, R112 to R117): the end and the interruption of a CHECKPOINT
and of a RESTORE, the incremental checkpoint and the restore of a context, partition reset, what containment does for each owner of
a line, the scrubber and its counts. The model's choices: log 34 (when an incremental checkpoint is due and what has none, what absorbs
another action, who owns a line, what a restore keeps) and log 15 (that RECOVERED's source names the copy that failed). -/
def Obligations.StreamAndContainmentEvents : Prop :=
  (∀ (s : State) (x : Stream), s.pkg.stream = some x → x.restore = false → s.allPaused = true →
    ∃ t, exec .checkpointComplete s = .next t ∧
      (s.ihlUp = false → StreamOver t x 0x05 [(16, bytesNat 4 3)]) ∧
      (s.ihlUp = true → s.mem.poison ≠ [] → StreamOver t x 0x05 [(16, bytesNat 4 2)]) ∧
      (s.ihlUp = true → s.mem.poison = [] → s.dirtyAbroad = [] → s.ownedAway = [] →
        StreamOver t x 0x0A [(16, bytesNat 8 (s.deviceBytes + 65536)), (24, bytesNat 4 ((s.clk - x.started) / 1400000))] ∧
        t.hostField x.safe.toNat 4 = 0x5A434B50 ∧ t.hostField (x.safe.toNat + 4) 4 = 1 ∧
        t.hostField (x.safe.toNat + 8) 8 = s.deviceBytes ∧
        (∀ d, d < 8 → t.hostField (x.safe.toNat + 16 + 8 * d) 8 = s.dieMiB) ∧
        t.hostField (x.safe.toNat + 192) 8 = s.mem.ctxtab.toNat ∧ t.hostField (x.safe.toNat + 200) 4 = s.mem.mbound % 2 ^ 32)) ∧
  (∀ (s : State) (x : Stream) (why : InterruptWhy), s.pkg.stream = some x →
    (let reason := match why with
       | .poison => 2
       | .lostLink => 3
       | .refused => 4
     (x.restore = false → ∃ t, exec (.checkpointInterrupt why) s = .next t ∧ StreamOver t x 0x05 [(16, bytesNat 4 reason)] ∧
       (∀ j, j < 65536 → t.hostByte (x.safe.toNat + j) = 0) ∧ t.mem = s.mem) ∧
     (x.restore = true → why ≠ .poison → ∀ n, ∃ t, exec (.restoreInterrupt why n) s = .next t ∧
       StreamOver t x 0x05 [(16, bytesNat 4 reason)] ∧ t.contexts = s.contexts ∧
       (s.hostField (x.safe.toNat + 200) 4 ≤ s.channelMiB → Memory.wf s.mem.dram = true →
         ∀ a, min n s.deviceBytes ≤ streamOffset (s.hostField (x.safe.toNat + 200) 4) a → t.dramByte a = s.dramByte a)))) ∧
  (∀ (s : State) (x : Stream), s.pkg.stream = some x → x.restore = true → ∃ t, exec .restoreStreamComplete s = .next t ∧
    (let a := x.safe.toNat
     let good := padTo 64 (Config.streamDigest (s.streamed (a + 65536) s.deviceBytes)) = s.hostBytes (a + 80) 64
     (¬ good → StreamOver t x 0x05 [(16, bytesNat 4 2)] ∧ t.contexts = s.contexts ∧ t.groups = s.groups) ∧
     (good → StreamOver t x 0x02 [] ∧ t.mem.ctxtab = BitVec.ofNat 64 (s.hostField (a + 192) 8) ∧
       t.mem.mbound = s.hostField (a + 200) 4 ∧
       ∀ c, 0 < c → c < 256 → ((t.context? c).any (fun y => !y.killed) = true ∨ s.hostField (a + 160) 32 / 2 ^ c % 2 = 0)))) ∧
  (∀ (s : State) (c : Ctx) (x : Context), s.context? c.toNat = some x → x.resilient = true → x.killed = false →
    (let due := x.interval ≠ 0 ∧ x.ckptAt ≤ s.clk ∧ s.ihlUp = true ∧ s.pkg.stream = none
    (¬ due ∨ s.ctxPaused c = false → exec (.incrementalCheckpoint c) s = .next s) ∧
    (due → s.ctxPaused c = true →
      ∃ t y k, exec (.incrementalCheckpoint c) s = .next t ∧ t.context? c.toNat = some y ∧ y.ckpts = x.ckpts + 1 ∧ y.failures = 0 ∧
        y.ckptAt = s.clk + x.interval.toNat * 1400000 ∧ y.saved = some k ∧ k.number = x.ckpts + 1 ∧ k.bytes = s.contextBytes c ∧
        y.redo = [] ∧ y.heldEvts = [] ∧
        (∀ bs ∈ x.heldEvts, (∃ n : Word, overlay bs 0 (bytesOfWord n) ∈ t.host.hold) ∨ bs ∈ t.host.waitEvts) ∧
        ((∃ d, d < 8 ∧ (s.die d).hvec = 0) → t.mem = s.mem)))) ∧
  (∀ (s : State) (c : Ctx) (x : Context), s.context? c.toNat = some x → x.killed = false →
    (let killed := fun (t : State) => (t.context? c.toNat).any (fun y => y.killed) = true ∧
       ∃ e ∈ t.host.hold ++ t.host.waitEvts, field e 4 1 = 0x06 ∧ field e 12 1 = c.toNat
     (x.saved = none → ∀ failed, ∃ t, exec (.contextRestore c failed) s = .next t ∧ killed t) ∧
     (∀ k, x.saved = some k →
       (3 ≤ x.failures + 1 → ∃ t, exec (.contextRestore c true) s = .next t ∧ killed t) ∧
       (x.failures + 1 < 3 → ∃ t, exec (.contextRestore c true) s = .next t ∧ Instr.contextRestore c false ∈ t.agenda ∧
         (t.context? c.toNat).map (fun y => y.failures) = some (x.failures + 1)) ∧
       (∃ t n, exec (.contextRestore c false) s = .next t ∧
         Sends t { kind := 0x09, src := 0, ctx := c.toNat, body := [(16, bytesNat 8 k.number), (24, bytesNat 4 n)] } ∧
         (∀ g y, t.group? g = some y → y.ctx = c → (s.group? g).isSome = true → y.dead = true) ∧
         (∀ e ∈ x.redo, (t.launch? e.1).any (fun l => l.queued && l.nextTeam == 0) = true))))) ∧
  (∀ (s : State) (base : VA), ∃ t, exec (.partitionReset base) s = .next t ∧
    (let b : VA := base &&& ~~~0xFFFF
     (∀ c : Ctx, c ≠ 0 → (s.context? c.toNat).isSome = true → s.descriptor c 32 1 ≠ 0 →
       s.contextTags.filter (fun c => s.descriptor c 32 1 != 0) = [c] → t.context? c.toNat = none ∧ Ended s t c.toNat 2) ∧
     (∀ i, i < 512 → (t.sysLine (globalOf b + BitVec.ofNat 41 i)).st = .i) ∧
     (s.contextTags.filter (fun c => s.descriptor c 32 1 != 0) = [] →
       Reported s t s.l2.length { kind := 0x23, src := srcIo, body := [(16, bytesNat 8 b.toNat),
         (24, bytesNat 1 (homeDevice (globalOf b)).toNat)] }))) ∧
  (∀ (s : State) (line : Nat), ∃ t, exec (.containmentAction line) s = .next t ∧
    (let reset := s.pkg.tripped = none → s.pkg.rails = BitVec.allOnes 20 → t.pkg.phase = .waitGo ∨ t.pkg.phase = .minimal
    (0 < s.mem.resets → reset) ∧
    (s.mem.resets = 0 → ∀ q, SMap.get none s.mem.poison line = some q → isDram line = true →
      let p := placeOfLine s.mem.mbound line
      let zeroed := ∀ j, j < 128 → t.dramByte (line + j) = 0
      match (if q.shared then some (.partition, 0, q.va) else s.ownerOf line) with
      | none => (p.pool, p.frame) ∈ t.mem.retired
      | some (row, c, va) =>
        Reported s t 0 { kind := 0x21, src := p.die, ctx := c.toNat, body := [(16, bytesNat 1 row.code), (17, bytesNat 1 q.wher),
          (18, bytesNat 1 p.die), (19, bytesNat 1 p.chan), (20, bytesNat 1 c.toNat), (24, bytesNat 8 va.toNat),
          (32, bytesNat 8 p.phys)] } ∧
        (s.absorbed line row c = true → zeroed ∧ t.contexts = s.contexts ∧ t.groups = s.groups ∧ t.teams = s.teams) ∧
        (row = .team → s.absorbed line row c = false → s.restoring c = false →
          ∀ tid tm l, s.teamsWhere (fun x => x.ctx == c) = [(tid, tm)] → s.launch? tm.lid = some l → tm.losses = 0 →
            (t.team? tid).map (fun x => (x.lid, x.index, x.losses)) = some (tm.lid, tm.index, 1)) ∧
        (row = .context → s.absorbed line row c = false → ∀ x, s.context? c.toNat = some x → x.killed = false →
          ((∀ a ∈ s.arenas, a.ctx ≠ c) → zeroed) ∧
          (s.restoring c = true → t.contexts = s.contexts ∧ t.groups = s.groups) ∧
          (s.restoring c = false → if x.resilient = true ∧ x.saved ≠ none then Instr.contextRestore c false ∈ t.agenda
           else (t.context? c.toNat).any (fun y => y.killed) = true)) ∧
        (row = .device → reset) ∧
        (row = .partition → s.absorbed line row c = false →
          exec (.partitionReset va) (s.reportLoss (p.die, p.chan, p.phys) row c va q.wher) = .next t)) ∧
    (s.mem.resets = 0 → ∀ q, SMap.get none s.mem.poison line = some q → isDram line = false →
      SMap.get none t.mem.poison line = none ∧ (∀ i, i < 512 → (t.sysLine (globalOf (q.va &&& ~~~0xFFFF) + BitVec.ofNat 41 i)).st = .i)))) ∧
  (∀ (s : State) (die : Die) (ch : Fin 64) (count : Nat), ∃ t, exec (.memCorrectedReport die ch count) s = .next t ∧
    (let k := die.val * 64 + ch.val
     if count < 1024 ∨ s.clk < SMap.get 0 s.mem.quiet k then t = s
     else SMap.get [] t.mem.corr k = [] ∧ SMap.get 0 t.mem.quiet k = s.clk + 1400000000 ∧
       Reported s t 0 { kind := 0x20, src := die.val, body := [(16, bytesNat 1 die.val), (17, bytesNat 1 ch.val),
         (20, bytesNat 4 count)] })) ∧
  (∀ (s : State) (die : Die) (ch : Fin 64) (addr : Nat), s.mem.flaws = [] →
    (∃ t u, exec (.patrolScrub die ch addr .clean) s = .next t ∧ exec (.patrolScrub die ch addr .corrected) s = .next u ∧ t = s ∧
      u.mem.dram = s.mem.dram ∧
      (let k := die.val * 64 + ch.val
       let times := (SMap.get [] s.mem.corr k).filter (fun c => decide (s.clk < c + 1400000000)) ++ [s.clk]
       if times.length < 1024 ∨ s.clk < SMap.get 0 s.mem.quiet k then SMap.get [] u.mem.corr k = times ∧ u.host = s.host
       else SMap.get [] u.mem.corr k = [] ∧ Reported s u 0 { kind := 0x20, src := die.val, body := [(16, bytesNat 1 die.val),
         (17, bytesNat 1 ch.val), (20, bytesNat 4 times.length)] })) ∧
    (∃ t, exec (.patrolScrub die ch addr .uncorrectable) s = .next t ∧
      (let line := dramKey die.val ch.val (addr / 128 * 128)
       let p := placeOfLine s.mem.mbound line
       let va := match s.ownerOf line with
         | some (_, _, va) => va.toNat
         | none => 0
       let good := s.goodL2 line (fun _ => true) = true ∨ s.goodMsc line = true
       addr < s.channelMiB * 2 ^ 20 → s.poisoned line = false →
         (¬ good → t.poisoned line = true ∧ Instr.containmentAction line ∈ t.agenda) ∧
         (good → t.mem = s.mem ∧ Reported s t 0 { kind := 0x08, src := p.die, body := [(16, bytesNat 1 2), (17, bytesNat 1 p.die),
           (18, bytesNat 1 p.chan), (24, bytesNat 8 p.phys), (32, bytesNat 8 va)] }))))


/-! ### Completions of memory operations -/

namespace Sys2Proof.Claims

/-- The leaf by which lane l of an operation is performed: the one that stands now, or where none permits the access, that of issue
(R94, R99). -/
def leafFor (s : State) (g : Group) (o : MemOp) (write : Bool) (l : Nat) : DWord := (s.leafNow g o write l).1

/-- The n bytes that lane l of a load reads: of team scratch; of the core's copy while its lease stands; else of the line at home. -/
def Reads (s : State) (g : Group) (o : MemOp) (l n x : Nat) : Prop :=
  let va := o.addr l
  let e := leafFor s g o false l
  if isScratch va then ∃ t, s.team? g.teamId = some t ∧ x = s.scratch t (offsetOf va) n
  else
    match s.l1Find g.coreId (tagFor g.ctx va) va with
    | some (_, y) => s.mem.xiNow = none ∧ y.valid (s.core g.coreId).ct s.clk = true ∧ x = lineField y.data (va.toNat % 128) n
    | none => HomeLine s (serveDie g.coreId va (leafAttr e)) g.ctx va e 0 ∧
        x = lineField (s.dramLine (lineLoc s g.ctx va e)) (va.toNat % 128) n

/-- The bytes of device memory from a location on. -/
def BytesAt (t : State) (loc n x : Nat) : Prop := ∀ j, j < n → t.dramByte (loc + j) = BitVec.ofNat 8 (x / 2 ^ (8 * j))

/-- Where the byte at an address lies in device memory. -/
def locOf (s : State) (c : Ctx) (va : VA) (e : DWord) : Nat := lineLoc s c va e + va.toNat % 128

/-- The time at which a core's access reaches its slice: none where the access is performed on behalf of no core (R443). -/
def timeOf (s : State) (core : Nat) (outside : Bool) : Nat := if outside then 0 else (s.core core).ct

/-- A slice takes a store now, from a core whose time is `ct`: no sweep of it runs or is due (R132). -/
def SliceOpen (s : State) (sk ct : Nat) : Prop :=
  (s.slice sk).sweep = false ∧ (s.slice sk).mrts + 1 < rebaseAt ∧ ct < (s.slice sk).base + rebaseAt ∧
  ∀ k x, (k, some x) ∈ s.l2 → x.rts + 1 < rebaseAt ∧ x.dirty = 0

end Sys2Proof.Claims

/-- O55. The events that complete operations in flight (R32, R133, R148 to R162, R371, R401 to R407): LOAD_REPLY, STORE_PERFORMED,
ATOMIC_REPLY, COPY_COMPLETE, TILE_UNIT_DONE, FIFO_READY, RENEWAL_REPLY, UWT_RESOLUTION, TICKET_GRANT, IHL_READ_REPLY, IHL_WRITE_ACK.
A load that has gone on by expired copies is complete with its renewal, or the group is again as it was before it. The model's choices:
log 22 (`leafFor`, the leaf by which a lane that has waited is performed), log 25 (what a replay takes back), log 24 (what is performed
in which order), log 10 (the value of a refused read of the host). -/
def Obligations.CompletionEvents : Prop :=
  (∀ (s : State) (gid : Nat) (g : Group) (o : MemOp) (l x : Nat), Alone s gid g o → o.ticket = false → l < 96 →
    o.lanes = (1#96) <<< l →
    (∀ n sg, o.kind = .load n sg → n ∈ [1, 2, 4, 8, 16] → Reads s g o l n x → ∃ t g', exec (.loadReply gid) s = .next t ∧
      Through t gid g' ∧ ∀ r j, j < 96 → g'.vRead r j =
        if j = l ∧ o.dst ≤ r ∧ r < o.dst + max 1 (n / 4) then
          (if n < 4 ∧ sg = true then ((BitVec.ofNat (8 * n) x).signExtend 32) else BitVec.ofNat 32 (x / 2 ^ (32 * (r - o.dst))))
        else g.vRead r j) ∧
    (∀ n, o.kind = .loadScalar n → n = 4 ∨ n = 8 → o.level = g.lvl → o.dst + n / 4 ≤ 28 → Reads s g o l n x →
      ∃ t g', exec (.loadReply gid) s = .next t ∧ Through t gid g' ∧ ∀ r, SMap.get 0 g'.s r =
        if o.dst ≤ r ∧ r < o.dst + n / 4 then BitVec.ofNat 32 (x / 2 ^ (32 * (r - o.dst))) else SMap.get 0 g.s r) ∧
    (o.kind = .tileLoad → Reads s g o l 128 x → ∃ t g', exec (.loadReply gid) s = .next t ∧ Through t gid g' ∧
      g'.rowOf o.dst l = BitVec.ofNat 1024 x)) ∧
  (∀ (s : State) (gid : Nat) (g : Group) (o : MemOp) (l n : Nat), Alone s gid g o → l < 96 → o.lanes = (1#96) <<< l →
    o.kind = .store n → n ∈ [1, 2, 4, 8, 16] →
    (let va := o.addr l
     let e := leafFor s g o true l
     let out := remoteAccess g.coreId va (leafAttr e)
     (∀ tm, isScratch va = true → s.team? g.teamId = some tm → ∃ t g', exec (.storePerformed gid) s = .next t ∧ Through t gid g' ∧
       ∀ j, j < n → SMap.get 0 t.bankMem (scratchKey tm (offsetOf va + j)) = BitVec.ofNat 8 (o.datum l / 2 ^ (8 * j))) ∧
     (HomeLine s (serveDie g.coreId va (leafAttr e)) g.ctx va e (timeOf s g.coreId out) → va.toNat % n = 0 →
       ∃ t g', exec (.storePerformed gid) s = .next t ∧ Through t gid g' ∧ BytesAt t (locOf s g.ctx va e) n (o.datum l)))) ∧
  (∀ (s : State) (gid : Nat) (g : Group) (o : MemOp) (l : Nat) (fn : AtomicFn) (wide : Bool), Alone s gid g o → l < 96 →
    o.lanes = (1#96) <<< l → (o.order.sc = true → o.ticket = true) →
    (let va := o.addr l
     let n := if wide then 8 else 4
     let out := homeDie va != g.coreId / 64
     let (v, c) := o.operands fn wide l
     let old := fun (e : DWord) => lineField (s.dramLine (lineLoc s g.ctx va e)) (va.toNat % 128) n
     let new := fun (e : DWord) => fn.apply o.ty (8 * n) (old e) v c
     let ready := fun (e : DWord) => HomeLine s (homeDie va) g.ctx va e (timeOf s g.coreId out)
     let e := leafFor s g o true l
     va.toNat % n = 0 →
     (o.kind = .atomic fn wide → ready e →
       ∃ t g', exec (.atomicReply gid) s = .next t ∧ Through t gid g' ∧ BytesAt t (locOf s g.ctx va e) n (new e) ∧
         g'.vRead o.dst l = BitVec.ofNat 32 (old e) ∧
         (wide = true → g'.vRead (o.dst + 1) l = BitVec.ofNat 32 (old e / 2 ^ 32)) ∧ g'.p = g.p ∧ g'.trow = g.trow) ∧
     (∀ e, o.kind = .reduce fn wide → o.order.sc = false → s.mem.flaws = [] → s.lateChannel g o true va n = .ok e → ready e →
       ∃ t g', exec (.storePerformed gid) s = .next t ∧ Through t gid g' ∧ BytesAt t (locOf s g.ctx va e) n (new e) ∧ g'.v = g.v))) ∧
  (∀ ty bits old v c, AtomicFn.apply .add ty bits old v c = (old + v) % 2 ^ bits ∧ AtomicFn.apply .and ty bits old v c = old &&& v ∧
    AtomicFn.apply .or ty bits old v c = old ||| v ∧ AtomicFn.apply .xor ty bits old v c = old ^^^ v ∧
    AtomicFn.apply .xch ty bits old v c = v ∧ AtomicFn.apply .cas ty bits old v c = (if old = c then v else old)) ∧
  (∀ (s : State) (gid : Nat) (g : Group) (o : MemOp) (dst src : VA) (rows bytes dp sp : Nat), Alone s gid g o →
    o.kind = .copy dst src rows bytes dp sp →
    (rows = 0 ∨ bytes = 0 → ∃ t g', exec (.copyComplete gid) s = .next t ∧ Through t gid g' ∧ t.mem = s.mem) ∧
    (∀ es ed, rows = 1 → bytes = 16 → o.dst = 0 → s.mem.flaws = [] → s.lateChannel g o false src 16 = .ok es → s.lateChannel g o true dst 16 = .ok ed →
      src.toNat % 16 = 0 → dst.toNat % 16 = 0 →
      HomeLine s (serveDie g.coreId src (leafAttr es)) g.ctx src es 0 →
      HomeLine s (serveDie g.coreId dst (leafAttr ed)) g.ctx dst ed
        (timeOf s g.coreId (remoteAccess g.coreId dst (leafAttr ed))) →
      ∃ t g', exec (.copyComplete gid) s = .next t ∧ Through t gid g' ∧
        ∀ j, j < 16 → t.dramByte (locOf s g.ctx dst ed + j) = s.dramByte (locOf s g.ctx src es + j))) ∧
  (∀ (s : State) (gid : Nat) (g : Group), s.group? gid = some g → quarterKey g.coreId g.quarter = gid / 16 →
    ∃ t u, exec (.tileUnitDone gid) s = .next t ∧ exec (.fifoReady gid) s = .next u ∧
    (t.quarter (gid / 16)).unit = (match (s.quarter (gid / 16)).unit with
      | some w => if w.gid = gid then none else some w
      | none => none) ∧
    (t.group? gid).map (fun x => (x.stalled, x.trow, x.ttag)) = some ([], g.trow, g.ttag) ∧
    (u.group? gid).map (fun x => (x.stalled, x.v)) = some ([], g.v) ∧ u.quarters = s.quarters ∧ t.outside = s.outside ∧
    u.outside = s.outside) ∧
  (∀ (s s1 : State) (gid : Nat) (g g0 : Group) (o : MemOp) (same : Bool), s.group? gid = some g → SMap.get none s.specs gid = some g0 →
    g0.undone.find? (fun o => o.kind.isLoad) = some o → s.renewCopies gid g0 o (lanesOf o.lanes) true = (s1, some same) →
    ∃ t, exec (.renewalReply gid) s = .next t ∧ SMap.get none t.specs gid = none ∧
      (same = true → ∀ g1, s1.group? gid = some g1 → g1.dead = false → (g.undone.find? (fun x => x.id == o.id)).isSome = true →
        ∃ g', t.group? gid = some g' ∧ (∀ x ∈ g'.undone, x.id ≠ o.id) ∧ g'.v = g1.v ∧ g'.vtag = g1.vtag ∧ g'.p = g1.p ∧ g'.s = g1.s ∧
          g'.trow = g1.trow ∧ t.cur = s1.cur) ∧
      (same = false → ∀ g1, s1.group? gid = some g1 →
        t.group? gid = some ((g0.replayed g1 o s1.clk).unstall s1.clk) ∧ t.cur = s1.curWithout gid)) ∧
  (∀ (s : State) (core n : Nat) (w : Watch), ((s.core core).uwt)[n]? = some w → w.state = .pending →
    ∃ t w', exec (.uwtResolution core n) s = .next t ∧ ((t.core core).uwt)[n]? = some w' ∧
      (∀ k, k ≠ n → ((t.core core).uwt)[k]? = ((s.core core).uwt)[k]?) ∧
      { w' with state := .pending } = w ∧
      (let va : VA := BitVec.ofNat 52 (w.line * 128)
       let key := l2Key (core / 64) w.ctx va
       w'.state = match s.l2At key with
         | none => .struck
         | some x =>
           if homeDie va ≠ core / 64 then (if x.st = .i then .struck else .confirmed)
           else if (s.slice (l2KeySlice key)).base + x.wts = w.wts then .confirmed else .struck)) ∧
  (∀ (s : State) (gid : Nat) (g : Group) (o : MemOp) (sc : TicketScope), s.groupsWhere (fun _ => true) = [(gid, g)] → Alone s gid g o →
    o.order.sc = true → scopesOf g o = [sc] →
    (o.ticket = false → ∃ t, exec (.ticketGrant sc) s = .next t ∧
      (t.group? gid).map (fun x => x.ops) = some [{ o with ticket := true }] ∧
      (match sc with
       | .die d => (t.slice (sliceKeyOf d.val 63)).ticket = (s.slice (sliceKeyOf d.val 63)).ticket + 1
       | .pkg => t.pkgTick = s.pkgTick + 1
       | .sys => t.fab.ticket = s.fab.ticket + 1
       | .pair p => SMap.get 0 t.pairTick p = SMap.get 0 s.pairTick p + 1)) ∧
    (o.ticket = true → exec (.ticketGrant sc) s = .next s)) ∧
  (∀ (s : State) (r : IhlAccess) (line : Line),
    (s.host.inFlight.find? (fun r => !r.write && r.reply.isNone) = some r →
      ∃ t u, exec (.ihlReadReply false line) s = .next t ∧ exec (.ihlReadReply true line) s = .next u ∧
        { r with reply := some (line, false) } ∈ t.host.inFlight ∧ (∀ j, j < 128 → t.hostByte (r.addr + j) = byteOf line j) ∧
        (∃ y, { r with reply := some (y, true) } ∈ u.host.inFlight) ∧ u.host.mem = s.host.mem ∧ WritesDue t ∧ WritesDue u) ∧
    (s.host.inFlight.find? (fun r => r.write) = some r → (∀ q ∈ s.host.inFlight, q.owner = r.owner → q.rmw = none) →
      (∀ gid id g, r.owner = .op gid id → s.group? gid = some g →
        SliceOpen s (sliceKeyOf (g.coreId / 64) (homeSlice r.va)) (s.core g.coreId).ct) →
      ∃ t u, exec (.ihlWriteAck false) s = .next t ∧ exec (.ihlWriteAck true) s = .next u ∧
        t.host.inFlight = s.host.inFlight.erase r ∧ u.host.inFlight = s.host.inFlight.erase r ∧
        t.host.mem = r.data.foldl (fun m b => SMap.set 0 m (r.addr + b.1) b.2) s.host.mem ∧ u.host.mem = s.host.mem ∧
        WritesDue t ∧ WritesDue u ∧
        ∀ gid g o l n, r.owner = .op gid o.id → Alone s gid g o → l < 96 → o.kind = .store n → o.lanes = (1#96) <<< l →
          windowOf (o.addr l) = 9 → hostAddr (o.addr l) (o.pte l) = r.addr →
          (∃ g', Through t gid g') ∧ ∃ g', Through u gid g'))

/-! ### Groups, schedulers and slices -/

/-- O56. The events of groups, schedulers, banks and slices (R122, R129, R132, R135, R209 to R213, R236, R237, R252, R254, R256, R333,
R409). A die's request waits for the slices and links that hold it (R14, R132); with the clocks stopped the slices do nothing (R27). The model's choices: log 28 (that WATCHDOG banks the word
and its literal as 0), log 27 (how a load token counts its clocks and runs). -/
def Obligations.GroupAndSliceEvents : Prop :=
  (∀ (s : State) (tid : Nat) (t : Team) (k : Fin 16), s.team? tid = some t → (∃ i, i ∈ t.counting) →
    (∀ i ∈ t.counting, t.hasArrived k.val i = true) →
    ∃ u t', exec (.barrierPhaseComplete tid k) s = .next u ∧ u.team? tid = some t' ∧ t'.ph = t.ph ^^^ ((1#16) <<< k.val) ∧
      { t' with ph := t.ph, arrived := t.arrived } = t ∧
      ∀ i b, i < t.groups.length → b < 16 → t'.hasArrived b i = (if b = k.val then false else t.hasArrived b i)) ∧
  (∀ (s : State) (gid : Nat) (g : Group) (tm : Team), s.group? gid = some g → g.live = 0 → g.undone = [] → s.team? g.teamId = some tm →
    ∃ t t', exec (.groupEnd gid) s = .next t ∧ t.group? gid = none ∧ t.team? g.teamId = some t' ∧ t'.ended = tm.ended ++ [g.gidx] ∧
      (∀ k, t'.hasArrived k g.gidx = false) ∧ (∀ w ∈ (t.core g.coreId).uwt, w.gid ≠ gid) ∧
      ((∀ i, i < tm.groups.length → i ∈ t'.ended) → Instr.teamEnd g.teamId ∈ t.agenda)) ∧
  (∀ (s : State) (gid : Nat) (g : Group) (r : LateRec) (sel : PcSel), s.group? gid = some g → s.issuable gid g = true →
    (∀ c, s.cur = some c → c.gid ≠ gid) → SMap.get none g.late g.lvl = some r → g.pick = some sel → Enters g r.cause →
    ∃ t g', exec (.lateFault gid) s = .next t ∧ t.group? gid = some g' ∧
      (let info : Word := BitVec.ofNat 32 (2 ^ 31 + (if r.more then 2 ^ 30 else 0) + r.cls % 8 * 2 ^ 27 + r.inner % 64)
       Entered { g with late := SMap.set none g.late g.lvl none } g' sel { cause := r.cause, mask := r.mask, addr := r.addr, info := info }
         (g.slotOf sel).pc r.word r.lit)) ∧
  (∀ (s : State) (gid : Nat) (g : Group) (n : Fin 3), s.group? gid = some g → s.cur = none → n.val = g.lvl → Enters g 0x23 →
    (g.lvl = 1 ∧ 2 ^ 24 ≤ g.wd1 + (s.clk - g.wdAt)) →
    ∃ t g', exec (.watchdogExpiry gid n) s = .next t ∧ t.group? gid = some g' ∧
      (let sel := g.pick.getD g.nextSel
       Entered g g' sel { cause := 0x23, mask := g.en0 sel, info := 1 } (g.slotOf sel).pc 0 0)) ∧
  (∀ (s : State) (gid : Nat) (g : Group) (sel : PcSel), s.group? gid = some g →
    ∃ t u g1 g2, exec (.spinDemotion gid sel) s = .next t ∧ exec (.demotionEnd gid sel) s = .next u ∧ t.group? gid = some g1 ∧
      u.group? gid = some g2 ∧
      (let (p, o) := (g.slotOf sel, g.slotOf (otherSel sel))
       (64 ≤ p.back → p.status = .ready → o.status = .ready → g1.slotOf sel = { p with status := .demoted, sib := 0 } ∧
         g1.slotOf (otherSel sel) = o) ∧
       (p.back < 64 → g1 = g) ∧
       (p.status = .demoted → g2.slotOf sel = { p with status := .ready, back := 0, sib := 0 }) ∧ (p.status ≠ .demoted → g2 = g))) ∧
  (∀ (s : State) (gid : Nat) (g : Group), s.group? gid = some g →
    ∃ t g', exec (.recvTimeout gid) s = .next t ∧ t.group? gid = some g' ∧ g'.stalled = [] ∧
      ∀ x, (g'.slotOf x).kept.recv = (g.slotOf x).kept.recv.map (fun r => { r with until_ := r.until_.map (min s.clk) })) ∧
  (∀ (s : State) (pair : Nat) (bank : Fin 64) (mode : BankMode) (core fifo : Nat),
    (s.bank (bankKey pair bank.val)).drn = true → (s.bank (bankKey pair bank.val)).next = some (mode, core, fifo) →
    ∃ t, exec (.bankDrainComplete pair bank) s = .next t ∧
      t.bank (bankKey pair bank.val) = { s.bank (bankKey pair bank.val) with
        mode := mode
        core := core
        fifo := fifo
        drn := false
        next := none } ∧
      (∀ a, a / 16384 = bankKey pair bank.val → SMap.get 0 t.bankMem a = 0) ∧
      (∀ a, a / 16384 ≠ bankKey pair bank.val → SMap.get 0 t.bankMem a = SMap.get 0 s.bankMem a) ∧
      (∀ c, c / 2 = pair → ∀ e ∈ (t.core c).l1, e.1 % 64 ≠ bank.val)) ∧
  (∀ (s : State) (die : Die) (slice : Fin 64), (s.slice (sliceKeyOf die.val slice.val)).sweep = true →
    ∃ t, exec (.rebaseComplete die slice) s = .next t ∧
      (let k := sliceKeyOf die.val slice.val
       (t.slice k).sweep = false ∧ (t.slice k).mrts = 0 ∧ (s.slice k).base + (s.slice k).mrts < (t.slice k).base ∧
       (∀ a x, (a, some x) ∈ s.l2 → l2KeySlice a = k → (s.slice k).base + x.wts < (t.slice k).base ∧
         (s.slice k).base + x.rts < (t.slice k).base) ∧
       ∀ a x, (a, some x) ∈ t.l2 → l2KeySlice a = k → x.wts = 0 ∧ x.rts = 0)) ∧
  (∀ (s : State) (die : Die) (core : Nat), core / 64 = die.val → 2 ^ 63 ≤ (s.core core).ct →
    ∃ t, exec (.ctLimitSweep die) s = .next t ∧ (∀ c, c / 64 = die.val → (t.core c).ct = 0) ∧
      (∀ n, n < 64 → (t.slice (sliceKeyOf die.val n)).base = 0 ∧ (t.slice (sliceKeyOf die.val n)).mrts = 0) ∧
      ∀ c, c / 64 = die.val → ∀ e ∈ (t.core c).l1, e.2.all (fun y => y.expired) = true) ∧
  (∀ (s : State) (die : Die) (r : List Byte) (rest : List (List Byte)), (s.die die.val).kills = r :: rest → r.length = 64 →
    ∃ t, exec (.killRecordDelivery die) s = .next t ∧ (t.die die.val).hw = (s.die die.val).hw ++ [r] ∧
      (∀ d, ∀ x ∈ (t.die d).kills, field x 2 1 ≠ field r 2 1) ∧
      Sends t { kind := 0x06, src := die.val, ctx := field r 2 1, body := [(16, r.take 48)] } ∧
      ∀ lid l, s.launch? lid = some l → l.blk.ctx.toNat = field r 2 1 → t.launch? lid = none) ∧
  (∀ (s : State) (a p : Nat) (x y : Group), s.group? a = some x → s.group? p = some y → a ≠ p →
    (s.mayExchange a p = true → ∃ t x' y', exec (.groupExchange a p) s = .next t ∧ t.group? a = some x' ∧ t.group? p = some y' ∧
      x'.place = .pending ∧ x'.token = none ∧ y'.place = .active ∧ y'.activeAt = s.clk ∧ t.outside = s.outside) ∧
    (s.overdue p y = true → s.longestActive y.quarterId = some a →
      ∃ t x' y', exec (.pendingPromotionTimeout p) s = .next t ∧ t.group? a = some x' ∧ t.group? p = some y' ∧
        x'.place = .pending ∧ y'.place = .active ∧ t.outside = s.outside)) ∧
  (∀ (s : State) (q : Nat), ∃ t, exec (.loadLimitWindow q) s = .next t ∧
    (let (x, y) := (s.quarter q, t.quarter q)
     let thr := (s.die (q / 256)).llthr.toNat
     y.hits = 0 ∧ y.winStart = x.winStart + 1024 ∧ y.last = x.last ∧
     y.limit = (if thr = 0 then 8 else if thr < x.hits then max 1 (x.limit / 2) else if x.limit < 8 then x.limit + 1 else x.limit))) ∧
  (∀ (s : State) (gid : Nat) (g : Group) (k : Token), s.group? gid = some g → g.token = some k → (∀ c, s.cur = some c → c.gid ≠ gid) →
    ∃ t, exec (.tokenRelease gid) s = .next t ∧
      t.group? gid = some { g with token := if k.since + 256 ≤ s.clk ∨ 4 ≤ k.runs then none else some k }) ∧
  (∀ (s : State) (q i : Nat) (is : List Nat) (g : Group) (sel : PcSel), s.running = true → s.cur = none →
    roundRobin (s.quarter q).last (s.choosable q) = i :: is → s.group? i = some g → s.lateDue i g = false → g.pickOpen = some sel →
    ∃ t, exec (.runArbitration q) s = .next t ∧ t.cur = some { gid := i, sel := sel, count := 0, load := false } ∧
      (t.group? i).map (fun x => { x with yielded := none }) = some { g with yielded := none }) ∧
  (∀ (s : State) (core : Nat) (c : Ctx) (va : VA) (e : DWord) (n : Nat) (ns : List Nat), translate s c .read true va = .ok e →
    HomeLine s (core / 64) c va e 0 → remoteAccess core va (leafAttr e) = false → s.ways core = n :: ns →
    ∃ t k y x, exec (.leaseRenewal core c va) s = .next t ∧ t.l1Find core (tagFor c va) va = some (k, y) ∧
      t.l2At (l2Key (core / 64) (tagFor c va) va) = some x ∧
      (let base := (s.slice (sliceKeyOf (core / 64) (homeSlice va))).base
       y.data = s.dramLine (lineLoc s c va e) ∧ y.wts = base + x.wts ∧ y.rts = base + x.rts ∧ y.expired = false ∧ y.filled = s.clk ∧
       base + x.wts ≤ (t.core core).ct ∧ (s.core core).ct + 64 ≤ y.rts)) ∧
  (∀ (s : State) (core : Option Nat) (c : Ctx) (va : VA) (en : BitVec 128) (line : Line) (e : DWord),
    translate s c .write true (lineOf va) = .ok e →
    (s.running = false → exec (.sliceStore core c va en line) s = .next s) ∧
    (let va := lineOf va
     let out := core.all (fun k => remoteAccess k va (leafAttr e))
     let die := core.elim (homeDie va) (fun k => serveDie k va (leafAttr e))
     s.running = true → HomeLine s die c va e (core.elim 0 (fun k => timeOf s k out)) →
     ∃ t, exec (.sliceStore core c va en line) s = .next t ∧
       ∀ j, j < 128 → en.getLsbD j = true → t.dramByte (lineLoc s c va e + j) = byteOf line j)) ∧
  (∀ (s : State) (die : Die) (c : Ctx) (va : VA) (e er : DWord), translate s c .write true va = .ok e →
    translate s c .read true va = .ok er → windowOf va ≤ 8 → (leafAttr e).sh = 1 → (leafAttr e).swm = false → (leafAttr er).sh = 1 →
    (leafAttr er).swm = false → lineLoc s c va e = lineLoc s c va er →
    (∀ x, s.l2At (l2Key die.val (tagFor c va) va) = some x → x.loc = lineLoc s c va e) → die.val ≠ homeDie va → s.mem.xiNow = none →
    (∀ own, s.running = false → exec (.interdieCoherenceRequest die own c va) s = .next s) ∧
    (∀ own, s.running = true → s.lineHeld die.val die.val va (leafAttr (if own then e else er)) (lineLoc s c va e) own = true →
      exec (.interdieCoherenceRequest die own c va) s = .next { s with asks := s.asks ++ [.die die.val own c va] }) ∧
    (s.running = true → (∀ own, s.lineHeld die.val die.val va (leafAttr (if own then e else er)) (lineLoc s c va e) own = false) →
    ∃ t u, exec (.interdieCoherenceRequest die true c va) s = .next t ∧ exec (.interdieCoherenceRequest die false c va) s = .next u ∧
      (let loc := lineLoc s c va e
       (t.dieEntry loc).st = .m ∧ (t.dieEntry loc).owner = die.val ∧ (t.dieEntry loc).sharers = (1#8) <<< die.val ∧
       (∀ k x, t.l2At k = some x → x.loc = loc → l2KeyDie k = die.val) ∧
       ((s.dieEntry loc).st = .i → (u.dieEntry loc).st = .e ∧ (u.dieEntry loc).owner = die.val) ∧
       ((s.dieEntry loc).st = .s → (u.dieEntry loc).st = .s ∧ (u.dieEntry loc).sharers.getLsbD die.val = true))))


/-! ### The Repertory and Sightline -/

namespace Sys2Proof.Claims

/-- The key by which an event names an operation. -/
def opKey (gid : Nat) (o : MemOp) : Nat := gid * 2 ^ 32 + o.id

/-- The operation is all that a group has in flight, at the engine of an arena that is open and owes no drops. -/
structure AtEngine (s : State) (gid : Nat) (g : Group) (o : MemOp) (fn : WingsFn) (taken : Bool) (r : ArenaRef) : Prop where
  alone : Alone s gid g o
  kind  : o.kind = .wings fn
  taken : o.ticket = taken
  id    : o.id < 2 ^ 32
  ref   : arenaRef g.ctx (o.addr 0) (!o.user) s = .ok r
  open_ : s.arenaOpen r.ctx r.header = true
  paid  : ∀ a ∈ s.arenas, a.ctx = r.ctx → a.header = r.header → a.drops = []

/-- The results of an operation are on their way: of lane l these words. The memories, and what engines hold, are as in `u`. -/
def Replies (t u : State) (gid : Nat) (o : MemOp) (fn : WingsFn) (l : Nat) (ws : List Word) : Prop :=
  (t.group? gid).map (fun x => x.ops) = some [{ o with kind := .wingsReply fn, data := resultData [(l, ws)] }] ∧
  Instr.wingsReply (opKey gid o) ∈ t.agenda ∧ t.mem = u.mem ∧ t.arenas = u.arenas ∧ t.host.mem = u.host.mem ∧
  t.fab.remote = u.fab.remote

/-- An event of the engine on one lane. The engine's answer is the reply; the sealed frontier is brought up to date; a lane that fails
replies all ones and is recorded as a late fault of class 3, which traps with the arena's header address (R416). `f` is the engine's
operation on the lane, `back` tells whether reclamation follows a lane that succeeded, `backBad` one that failed (R180). -/
def EngineRow (ev : Nat → Instr) (fn : WingsFn) (f : MemOp → ArenaRef → Nat → Eng (List Word)) (back backBad : Bool) : Prop :=
  ∀ (s : State) (gid : Nat) (g : Group) (o : MemOp) (r : ArenaRef) (l : Nat), AtEngine s gid g o fn false r →
    (if fn.once then l = 0 ∧ o.lanes ≠ 0 else l < 96 ∧ o.lanes = (1#96) <<< l) →
    (∀ ws s1 s2 s3, f o r l s = .ok (ws, s1) → (if back then reclaimAll r s1 = .ok (s2, none) else s2 = s1) →
      writeFront r (s2.unsealed g.ctx (o.addr 0) gid o.id) s2 = .ok ((), s3) →
      ∃ t, exec (ev (opKey gid o)) s = .next t ∧ Replies t s3 gid o fn l ws) ∧
    (∀ c i a whole s2 s3, f o r l s = .error (.fail c i a whole) → (if backBad then reclaimAll r s = .ok (s2, none) else s2 = s) →
      writeFront r (s2.unsealed g.ctx (o.addr 0) gid o.id) s2 = .ok ((), s3) → SMap.get none g.late o.level = none →
      ∃ t, exec (ev (opKey gid o)) s = .next t ∧ Replies t s3 gid o fn l (List.replicate fn.words 0xFFFFFFFF#32) ∧
        (t.group? gid).map (fun x => SMap.get none x.late o.level) = some (some
          { cause := c, inner := i, mask := o.lanes, addr := o.addr 0, word := o.word, lit := o.lit, cls := 3, more := false }) ∧ Instr.lateFault gid ∈ t.agenda)

/-- A word of a lane's sources. -/
def srcNat (o : MemOp) (l k : Nat) : Nat := (SMap.get (0#32) o.data (32 * l + k)).toNat

/-- The stamp that an operation names. -/
def stampOf (o : MemOp) : Nat := SMap.get 0 o.addrs 1

end Sys2Proof.Claims

/-- O57. The events of the Wings pipe (R171, R172, R177, R178, R180, R241, R414 to R431, R435): an operation at its engine replies what the
engine's operation gives, and moves the sealed frontier; an append replies when it is sealed; a stamp returns when every append below
it is sealed; a full stamp table gives all ones and no trap; a Sightline query replies the hit or the miss, and a ray that is none
is a miss with nothing read; ARENA_CLOSE; MAILBOX_SERVICE maps the page and invalidates it, waits until `xistat.busy` reads clear, and
clears the request, at once where the page was mapped. The model's choice, log 26: a failed lane of an engine's operation changes
nothing, whatever its cause. -/
def Obligations.WingsEvents : Prop :=
  EngineRow .engineDrop .drop (fun o r _ => engDrop r (stampOf o)) true false ∧
  EngineRow .engineGet .get (fun o r l => engGet r (stampOf o) (srcNat o l 0)) false false ∧
  EngineRow .engineConnect .connect (fun o r l => engConnect r (stampOf o) (srcNat o l 0) (srcNat o l 1)) false false ∧
  EngineRow .engineMerge .merge (fun o r l => engMerge r (stampOf o) (srcNat o l 0)) false false ∧
  EngineRow .engineReweight .reweight
    (fun o r _ => engReweight r (srcNat o 0 0) (srcNat o 0 1 % 65536) (srcNat o 0 1 / 65536) (srcNat o 0 2)) false false ∧
  EngineRow .engineRetire .retire (fun o r l => engRetire r (srcNat o l 0)) true true ∧
  (∀ (s : State) (gid : Nat) (g : Group) (o : MemOp) (r : ArenaRef) (l : Nat), AtEngine s gid g o .append false r → l < 96 →
    o.lanes = (1#96) <<< l →
    ∀ (i n : Nat) s1 s2, n < 2 ^ 64 →
      engAppend r (fun k => SMap.get 0 o.data (32 * l + k)) s =
        .ok ([BitVec.ofNat 32 i, BitVec.ofNat 32 n, BitVec.ofNat 32 (n / 2 ^ 32)], s1) →
      writeFront r (n :: s1.unsealed g.ctx (o.addr 0) gid o.id) s1 = .ok ((), s2) →
      ∃ t, exec (.engineAppend (opKey gid o)) s = .next t ∧ t.mem = s2.mem ∧ t.arenas = s2.arenas ∧ Instr.appendSealed (opKey gid o) ∈ t.agenda ∧
        (t.group? gid).map (fun x => x.ops) = some [{ o with
          ticket := true
          ptes := [(0, n)]
          data := resultData [(l, [BitVec.ofNat 32 i, BitVec.ofNat 32 n, BitVec.ofNat 32 (n / 2 ^ 32)])] }]) ∧
  (∀ (s : State) (gid : Nat) (g : Group) (o : MemOp) (r : ArenaRef), AtEngine s gid g o .append true r →
    ∀ s1, writeFront r (s.unsealed g.ctx (o.addr 0) gid o.id) s = .ok ((), s1) →
      ∃ t, exec (.appendSealed (opKey gid o)) s = .next t ∧ t.mem = s1.mem ∧ t.arenas = s1.arenas ∧ Instr.wingsReply (opKey gid o) ∈ t.agenda ∧
        (t.group? gid).map (fun x => x.ops) = some [{ o with kind := .wingsReply .append }]) ∧
  (∀ (s : State) (gid : Nat) (g : Group) (o : MemOp) (r : ArenaRef), AtEngine s gid g o .stamp false r → o.lanes ≠ 0 →
    ∀ n s1 s2, engStamp r g.lid s = .ok (n, s1) → writeFront r (s1.unsealed g.ctx (o.addr 0) gid o.id) s1 = .ok ((), s2) →
      (n < 2 ^ 64 - 1 → ∃ t, exec (.engineStamp (opKey gid o)) s = .next t ∧ t.mem = s2.mem ∧ t.arenas = s2.arenas ∧
        Instr.stampReturn (opKey gid o) ∈ t.agenda ∧
        (t.group? gid).map (fun x => x.ops) = some [{ o with ticket := true, ptes := [(0, n)] }]) ∧
      (n = 2 ^ 64 - 1 → ∃ t, exec (.engineStamp (opKey gid o)) s = .next t ∧
        Replies t s2 gid o .stamp 0 [0xFFFFFFFF#32, 0xFFFFFFFF#32] ∧ (t.group? gid).map (fun x => x.late) = some g.late)) ∧
  (∀ (s : State) (gid : Nat) (g : Group) (o : MemOp) (r : ArenaRef), AtEngine s gid g o .stamp true r →
    (let n := SMap.get 0 o.ptes 0
     let sealedUpTo := ∀ m ∈ s.unsealed g.ctx (o.addr 0) gid o.id, n ≤ m
     (sealedUpTo → ∃ t, exec (.stampReturn (opKey gid o)) s = .next t ∧
       Replies t s gid o .stamp 0 [BitVec.ofNat 32 n, BitVec.ofNat 32 (n / 2 ^ 32)]) ∧
     (¬ sealedUpTo → exec (.stampReturn (opKey gid o)) s = .next s))) ∧
  (∀ (s : State) (gid : Nat) (g : Group) (o : MemOp) (fn : WingsFn) (l : Nat), fn = .sight ∨ fn = .sightAny → Alone s gid g o →
    o.kind = .wings fn → o.ticket = false → o.id < 2 ^ 32 → l < 96 → o.lanes = (1#96) <<< l →
    (let w := srcNat o l
     let org : V3 := { x := w 0, y := w 1, z := w 2 }
     let dir : V3 := { x := w 3, y := w 4, z := w 5 }
     let ray : Ray := { org := org, dir := dir, tmin := w 6, tmax := w 7, mask := w 8 % 256 }
     let q : Query := { gid := gid, op := o, nodes := o.addr 0, tris := o.addr 1, any := fn == .sightAny }
     (∀ ws s1, runQuery q ray s = .ok (ws, s1) → (s1.group? gid).map (fun x => x.ops) = some [o] →
       ∃ t, exec (.sightlineQuery (opKey gid o)) s = .next t ∧ Replies t s1 gid o fn l ws) ∧
     ((w 0 % 2 ^ 31 > 0x7F800000 ∨ w 7 % 2 ^ 31 > 0x7F800000 ∨ (w 3 % 2 ^ 31 = 0 ∧ w 4 % 2 ^ 31 = 0 ∧ w 5 % 2 ^ 31 = 0)) →
       ∃ t, exec (.sightlineQuery (opKey gid o)) s = .next t ∧
         Replies t s gid o fn l [0x7F800000#32, 0, 0, 0xFFFFFFFF#32, 0xFFFFFFFF#32, 0]))) ∧
  (∀ (s : State) (gid : Nat) (g : Group) (o : MemOp) (fn : WingsFn) (l : Nat), Alone s gid g o → o.kind = .wingsReply fn → o.id < 2 ^ 32 →
    (if fn.once then l = 0 ∧ o.level = g.lvl ∧ o.dst + 2 ≤ 28 else l < 96 ∧ o.lanes = (1#96) <<< l) →
    ∃ t g', exec (.wingsReply (opKey gid o)) s = .next t ∧ Through t gid g' ∧
      (if fn.once then ∀ k, k < 28 → SMap.get 0 g'.s k =
         if o.dst ≤ k ∧ k < o.dst + fn.words then SMap.get 0 o.data (k - o.dst) else SMap.get 0 g.s k
       else ∀ r j, j < 96 → g'.vRead r j =
         if j = l ∧ o.dst ≤ r ∧ r < o.dst + fn.words then SMap.get 0 o.data (32 * l + (r - o.dst)) else g.vRead r j) ∧
      (fn = .stamp → ∀ e ∈ (t.core g.coreId).l1, e.2.all (fun y => y.expired) = true)) ∧
  (∀ (s : State) (c : Ctx) (h : VA), ∃ t, exec (.arenaClose c h) s = .next t ∧ { t with arenas := s.arenas } = s ∧
    ∀ a, a ∈ t.arenas ↔ (a ∈ s.arenas ∧ ¬ (a.ctx = c ∧ a.header = h))) ∧
  (∀ (s : State) (gid : Nat) (g : Group), s.group? gid = some g →
    (s.mailboxAsks g = false → exec (.mailboxService gid) s = .next s) ∧
    (s.mailboxAsks g = true →
      (let page : VA := g.tsave &&& ~~~0xFFFF
       let box : VA := g.tsave + 0x200000
       let listed := (g.ctx, page) ∈ s.mem.mapping
       (listed → s.mem.xiBusy = true → exec (.mailboxService gid) s = .next s) ∧
       (¬ listed → s.mapped g.ctx page = false →
         (let s1 := s.mapFresh g.ctx page
          (s1.mapped g.ctx page = false → exec (.mailboxService gid) s = .next s) ∧
          (s1.mapped g.ctx page = true → exec (.mailboxService gid) s =
            .next ((s1.setMapping (s1.mem.mapping ++ [(g.ctx, page)])).invalidate (.page g.ctx page))))) ∧
       ((listed ∧ s.mem.xiBusy = false) ∨ (¬ listed ∧ s.mapped g.ctx page = true) →
         (let s1 := s.setMapping (s.mem.mapping.erase (g.ctx, page))
          ∀ e, translate s g.ctx .write true box = .ok e → HomeLine s1 (homeDie box) g.ctx box e 0 → box.toNat % 4 = 0 →
            ∃ t, exec (.mailboxService gid) s = .next t ∧ BytesAt t (locOf s g.ctx box e) 4 0 ∧
              t.mem.mapping = s.mem.mapping.erase (g.ctx, page))))))

namespace Sys2Proof.Claims

/-- Where an engine keeps an address of an arena in window 8. -/
def placeOf (s : State) (r : ArenaRef) (va : VA) : Nat :=
  lineKey s r.ctx va ((SMap.find? s.mem.tcache (tkey r.ctx va)).getD 0) + va.toNat % 128

/-- State t holds a number of n bytes at the place of an address. -/
def HoldsAt (s t : State) (r : ArenaRef) (va : VA) (n x : Nat) : Prop :=
  x < 2 ^ (8 * n) ∧ ∀ j, j < n → t.dramByte (placeOf s r va + j) = BitVec.ofNat 8 (x / 2 ^ (8 * j))

/-- State t holds a number of n bytes at an offset of the header (R174). -/
def HdrAt (s t : State) (r : ArenaRef) (off n x : Nat) : Prop := HoldsAt s t r (r.header + BitVec.ofNat 52 off) n x

/-- The slot i of an arena (R170). -/
def slotAddr (r : ArenaRef) (i : Nat) : VA := r.header + BitVec.ofNat 52 (4096 + 128 * i)

/-- The engine works on these lines of an arena in window 8: their translations are held, their pages allow it, their slices serve it,
no sweep, error or other device is in the way, and no two of them share a place. -/
structure Works (s : State) (r : ArenaRef) (ls : VA → Prop) : Prop where
  header : r.header.toNat % 4096 = 0 ∧ ∀ k, k < 32 → ls (r.header + BitVec.ofNat 52 (128 * k))
  line   : ∀ va, ls va → windowOf va = 8 ∧ va.toNat % 128 = 0 ∧ ∃ e, SMap.find? s.mem.tcache (tkey r.ctx va) = some e ∧ e ≠ 0 ∧
             (leafAttr e).sh = r.sh ∧ (leafAttr e).swm = false ∧ permBad (leafAttr e) .read r.priv = false ∧
             s.poisoned (lineKey s r.ctx va e) = false ∧
             (∀ die x, s.l2At (l2Key die r.ctx va) = some x → x.loc = lineKey s r.ctx va e ∧ x.attr.swm = false)
  slice  : ∀ va, ls va → (∀ d, (s.slice (sliceKeyOf d (homeSlice va))).sweep = false) ∧
             (s.slice (sliceKeyOf (homeDie va) (homeSlice va))).mrts + 64 < rebaseAt
  links  : ∀ n, isDieLink n = true → (s.link n).train = false
  leases : ∀ k x, (k, some x) ∈ s.l2 → x.rts + 64 < rebaseAt ∧ x.dirty = 0 ∧ (x.attr.swm = true → x.data = s.dramLine x.loc)
  apart  : ∀ a b, ls a → ls b → placeOf s r a = placeOf s r b → a = b
  calm   : s.mem.xiNow = none ∧ s.mem.flaws = []
  away   : s.fab.inForce = true → ∀ e ∈ s.fab.switches, ∀ d ∈ e.2.dir, ∀ x, d.2 = some x → homeDevice x.gla ≠ s.fab.cfg.devno

/-- The lines of the header. -/
def headerLines (r : ArenaRef) (va : VA) : Prop := ∃ k, k < 32 ∧ va = r.header + BitVec.ofNat 52 (128 * k)

/-- What the engine holds of the arena (R171). -/
def Held (s : State) (r : ArenaRef) (a : Arena) : Prop :=
  s.arenas.find? (fun x => x.ctx == r.ctx && x.header == r.header) = some a

/-- Entry k of the stamp table that the engine holds: a number and the launch that owns it. -/
def stampAt (a : Arena) (k : Nat) : Option (Nat × Word) := SMap.get none a.stamps k

/-- No live stamp has the number (R179). -/
def NotLive (a : Arena) (st : Nat) : Prop := ∀ k l, k < 256 → stampAt a k ≠ some (st, l)

/-- The set p in slot k is in force at stamp st: its number is the largest below the stamp (R185). -/
def InForce (a : Arena) (st k : Nat) (p : ParamSet) : Prop :=
  k < 16 ∧ SMap.get none a.sets k = some p ∧ p.q < st ∧
  ∀ j x, j < 16 → j ≠ k → SMap.get none a.sets j = some x → x.q < st → x.q < p.q

/-- A reweight may not take parameter-set slot k: it is current, or a live stamp has its set in force (R185). -/
def SetTaken (a : Arena) (k : Nat) : Prop :=
  k = a.pslot ∨ ∃ e st l p, e < 256 ∧ stampAt a e = some (st, l) ∧ InForce a st k p

/-- A reweight may take parameter-set slot k: it is not current, and at every live stamp another set stands above its own. -/
def SetFree (a : Arena) (k : Nat) : Prop :=
  k < 16 ∧ k ≠ a.pslot ∧ ∀ e st l p, e < 256 → stampAt a e = some (st, l) → SMap.get none a.sets k = some p → p.q < st →
    ∃ j x, j < 16 ∧ SMap.get none a.sets j = some x ∧ x.q < st ∧ p.q < x.q

/-- The line of slot i as memory holds it. -/
def slotLine (s : State) (r : ArenaRef) (i : Nat) : Line := s.dramLine (placeOf s r (slotAddr r i))

/-- A record is one that stamp st sees (R179). -/
def Seen (st : Nat) (l : Line) : Prop := lineField l 72 8 ≤ st ∧ (lineField l 80 8 = 2 ^ 64 - 1 ∨ st < lineField l 80 8)

/-- The chain of a bucket, from its first slot on, as memory holds it (R181). -/
def Chain (s : State) (r : ArenaRef) : List Nat → Nat → Prop
  | [], x => x = 2 ^ 32 - 1
  | i :: is, x => x = i ∧ i < 2 ^ 32 - 1 ∧ ∃ n, HoldsAt s s r (slotAddr r i + 68) 4 n ∧ Chain s r is n

/-- The bucket table, the cell edge and origin of the header (R174). -/
structure Grid (s : State) (r : ArenaRef) (gbits cell grid : Nat) (origin : V3) : Prop where
  bits   : HdrAt s s r 46 1 gbits
  cell   : HdrAt s s r 52 4 cell
  x      : HdrAt s s r 56 4 origin.x
  y      : HdrAt s s r 60 4 origin.y
  z      : HdrAt s s r 64 4 origin.z
  table  : HdrAt s s r 72 8 grid
  whole  : grid % 8 = 0

/-- Where entry b of a bucket table lies. -/
def entryAddr (grid b : Nat) : VA := BitVec.ofNat 52 grid + BitVec.ofNat 52 (8 * b)

/-- The candidates of a merge in the chains of some buckets, with their append numbers (R188). -/
def candidates (s : State) (r : ArenaRef) (st : Nat) (y : Vertex) (p : ParamSet) (bs : List Nat) (chain : Nat → List Nat) :
    List (Nat × Vertex) :=
  bs.flatMap (fun b => (chain b).filterMap (fun j =>
    let l := slotLine s r j
    let z := vertexOf l
    if lineField l 72 8 ≤ st ∧ (lineField l 80 8 = 2 ^ 64 - 1 ∨ st < lineField l 80 8) ∧ z.light = true ∧
        isCandidate y z p.r p.fcur p.w = true then some (lineField l 72 8, z) else none))

/-- The header shows the count of live stamps and the oldest of them (R174). -/
def StampStats (s t : State) (r : ArenaRef) (a : Arena) : Prop :=
  HdrAt s t r 48 2 ((List.range 256).filter (fun k => (stampAt a k).isSome)).length ∧
  ∃ x, HdrAt s t r 88 8 x ∧ (∀ k n l, k < 256 → stampAt a k = some (n, l) → x ≤ n) ∧
    (x = 2 ^ 64 - 1 ∨ ∃ k l, k < 256 ∧ stampAt a k = some (x, l))

/-- Bytes of the header keep their values but at the places that a test names. -/
def HeaderKept (s t : State) (r : ArenaRef) (p : Nat → Prop) : Prop :=
  ∀ off, off < 4096 → ¬ p off → t.dramByte (placeOf s r (r.header + BitVec.ofNat 52 off)) =
    s.dramByte (placeOf s r (r.header + BitVec.ofNat 52 off))

end Sys2Proof.Claims

/-- O58. What the engine does to an arena (R171, R174 to R181, R185, R187, R188, R418 to R427): STAMP takes the next number of the counter
that the engine holds, enters it with its launch in a free entry of the table and brings the header up to date, a full table changes
nothing, and a counter at its end fails with ARENA; DROP frees the entry, and a stamp that is not live fails with ARENA; GET gives the
record of a vertex that the stamp sees, and fails with VERTEX_ID elsewhere; APPEND writes the record into the free slot or the next
unused one with its number, links a light vertex at the tail of its bucket's chain, and fails with VERTEX_ID on a reserved bit, with
ARENA_FULL without a slot; RETIRE numbers the slot and queues it, behind the slots that are queued; a reweight outside the limits fails
with ARENA, another installs its set in a free slot, or gives all ones where none is free; a connect gives what R187 computes of an eye
vertex and a light vertex that the stamp sees, and fails with VERTEX_ID elsewhere; a merge sums the candidates in the chains of the cells
around in append order, up to the cap. The model's choices, log 26: a stamp takes the lowest free entry, and a dropped one leaves its
owner word as it was. -/
def Obligations.ArenaOperations : Prop :=
  (∀ (s : State) (r : ArenaRef) (a : Arena) (lid : Word), Works s r (headerLines r) → Held s r a →
    (∀ k0, k0 < 256 → stampAt a k0 = none → (∀ k, k < k0 → stampAt a k ≠ none) →
      (2 ^ 64 - 2 ≤ a.ctr → engStamp r lid s = .error (.fail 0x19 0 r.header false)) ∧
      (a.ctr < 2 ^ 64 - 2 → ∃ t a', engStamp r lid s = .ok (a.ctr, t) ∧ Held t r a' ∧ { a' with stamps := a.stamps, ctr := a.ctr } = a ∧
        a'.ctr = a.ctr + 1 ∧ (∀ k, stampAt a' k = if k = k0 then some (a.ctr, lid) else stampAt a k) ∧
        HdrAt s t r 8 8 (a.ctr + 1) ∧ HdrAt s t r (1024 + 8 * k0) 8 a.ctr ∧ HdrAt s t r (3072 + 4 * k0) 4 lid.toNat ∧
        StampStats s t r a' ∧
        HeaderKept s t r (fun off => (8 ≤ off ∧ off < 16) ∨ (48 ≤ off ∧ off < 50) ∨ (88 ≤ off ∧ off < 96) ∨
          (1024 + 8 * k0 ≤ off ∧ off < 1032 + 8 * k0) ∨ (3072 + 4 * k0 ≤ off ∧ off < 3076 + 4 * k0)))) ∧
    ((∀ k, k < 256 → stampAt a k ≠ none) → engStamp r lid s = .ok (2 ^ 64 - 1, s)) ∧
    (∀ st k0 l, k0 < 256 → stampAt a k0 = some (st, l) → (∀ k l, k < k0 → stampAt a k ≠ some (st, l)) →
      ∃ t a', engDrop r st s = .ok ([], t) ∧ Held t r a' ∧ { a' with stamps := a.stamps } = a ∧
        (∀ k, stampAt a' k = if k = k0 then none else stampAt a k) ∧ HdrAt s t r (1024 + 8 * k0) 8 (2 ^ 64 - 1) ∧ StampStats s t r a' ∧
        HeaderKept s t r (fun off => (48 ≤ off ∧ off < 50) ∨ (88 ≤ off ∧ off < 96) ∨
          (1024 + 8 * k0 ≤ off ∧ off < 1032 + 8 * k0))) ∧
    (∀ st i j, NotLive a st →
      engDrop r st s = .error (.fail 0x19 0 r.header false) ∧ engGet r st i s = .error (.fail 0x19 0 r.header false) ∧
      engConnect r st i j s = .error (.fail 0x19 0 r.header false) ∧ engMerge r st i s = .error (.fail 0x19 0 r.header false))) ∧
  (∀ (s : State) (r : ArenaRef) (a : Arena) (st i nsm1 hwm anum rnum : Nat),
    Works s r (fun va => headerLines r va ∨ va = slotAddr r i) → Held s r a → ¬ NotLive a st →
    HdrAt s s r 4 4 nsm1 → HdrAt s s r 24 8 hwm → HoldsAt s s r (slotAddr r i + 72) 8 anum → HoldsAt s s r (slotAddr r i + 80) 8 rnum →
    (let sees := i ≤ nsm1 ∧ i < hwm ∧ anum ≠ 2 ^ 64 - 1 ∧ anum ≤ st ∧ (rnum = 2 ^ 64 - 1 ∨ st < rnum)
     (sees → ∃ t ws, engGet r st i s = .ok (ws, t) ∧ ws.length = 32 ∧ t.mem.dram = s.mem.dram ∧ t.arenas = s.arenas ∧
       ∀ k, k < 32 → HoldsAt s s r (slotAddr r i + BitVec.ofNat 52 (4 * k)) 4 (ws.getD k 0).toNat) ∧
     (¬ sees → engGet r st i s = .error (.fail 0x1B 0 r.header false)))) ∧
  (∀ (s : State) (r : ArenaRef) (a : Arena) (ws : Nat → Word) (hwm nsm1 fhead next nvert i : Nat),
    Works s r (fun va => headerLines r va ∨ va = slotAddr r i) → Held s r a → HdrAt s s r 24 8 hwm → HdrAt s s r 4 4 nsm1 →
    HdrAt s s r 32 4 fhead → HdrAt s s r 80 8 nvert → HoldsAt s s r (slotAddr r i) 4 next → nvert < 2 ^ 64 - 1 → hwm < 2 ^ 64 - 1 →
    (let bad := (ws 14).toNat / 2 ^ 18 ≠ 0 ∨ (ws 15).toNat / 2 ^ 24 % 2 ^ 6 ≠ 0
     let none_ := 2 ^ 32 - 1
     let c := a.ctr
     (bad → engAppend r ws s = .error (.fail 0x1B 0 r.header false)) ∧
     (¬ bad → fhead = none_ → nsm1 < hwm → engAppend r ws s = .error (.fail 0x1A 0 r.header false)) ∧
     (¬ bad → i = (if fhead = none_ then hwm else fhead) → (fhead = none_ → hwm ≤ nsm1) →
       (2 ^ 64 - 2 ≤ c → engAppend r ws s = .error (.fail 0x19 0 r.header false)) ∧
       (c < 2 ^ 64 - 2 → (ws 15).getLsbD 31 = false →
       ∃ t, engAppend r ws s = .ok ([BitVec.ofNat 32 i, BitVec.ofNat 32 c, BitVec.ofNat 32 (c / 2 ^ 32)], t) ∧
         Held t r { a with ctr := c + 1 } ∧ HdrAt s t r 8 8 (c + 1) ∧ HdrAt s t r 80 8 (nvert + 1) ∧
         HdrAt s t r 24 8 (if fhead = none_ then hwm + 1 else hwm) ∧ HdrAt s t r 32 4 (if fhead = none_ then fhead else next) ∧
         HoldsAt s t r (slotAddr r i + 72) 8 c ∧ HoldsAt s t r (slotAddr r i + 80) 8 (2 ^ 64 - 1) ∧
         HoldsAt s t r (slotAddr r i + 60) 4 ((ws 15).toNat - (ws 15).toNat / 2 ^ 30 % 2 * 2 ^ 30) ∧
         (∀ k, k < 32 → (k < 15 ∨ k = 16 ∨ 22 < k) → HoldsAt s t r (slotAddr r i + BitVec.ofNat 52 (4 * k)) 4 (ws k).toNat))))) ∧
  (∀ (s : State) (r : ArenaRef) (a : Arena) (hwm anum flag i : Nat),
    Works s r (fun va => headerLines r va ∨ va = slotAddr r i) → Held s r a → HdrAt s s r 24 8 hwm →
    HoldsAt s s r (slotAddr r i + 72) 8 anum → HoldsAt s s r (slotAddr r i + 63) 1 flag → i < 2 ^ 32 →
    (let used := i < hwm ∧ anum ≠ 2 ^ 64 - 1
     let c := a.ctr
     (¬ used ∨ flag / 64 % 2 = 1 → engRetire r i s = .error (.fail 0x1B 0 r.header false)) ∧
     (used → flag / 64 % 2 = 0 → 2 ^ 64 - 2 ≤ c → engRetire r i s = .error (.fail 0x19 0 r.header false)) ∧
     (used → flag / 64 % 2 = 0 → c < 2 ^ 64 - 2 → HdrAt s s r 40 4 (2 ^ 32 - 1) →
       ∃ t, engRetire r i s = .ok ([BitVec.ofNat 32 c, BitVec.ofNat 32 (c / 2 ^ 32)], t) ∧ Held t r { a with ctr := c + 1 } ∧
         HdrAt s t r 8 8 (c + 1) ∧ HdrAt s t r 36 4 i ∧ HdrAt s t r 40 4 i ∧ HoldsAt s t r (slotAddr r i + 80) 8 c ∧
         HoldsAt s t r (slotAddr r i + 63) 1 (flag + 64) ∧ HoldsAt s t r (slotAddr r i + 88) 4 (2 ^ 32 - 1)))) ∧
  (∀ (s : State) (r : ArenaRef) (a : Arena) (hwm anum flag i tail : Nat),
    Works s r (fun va => headerLines r va ∨ va = slotAddr r i ∨ va = slotAddr r tail) → Held s r a → HdrAt s s r 24 8 hwm →
    HoldsAt s s r (slotAddr r i + 72) 8 anum → HoldsAt s s r (slotAddr r i + 63) 1 flag → i < 2 ^ 32 → HdrAt s s r 40 4 tail →
    tail ≠ 2 ^ 32 - 1 → tail ≠ i → i < hwm → anum ≠ 2 ^ 64 - 1 → flag / 64 % 2 = 0 → a.ctr < 2 ^ 64 - 2 →
    ∃ t, engRetire r i s = .ok ([BitVec.ofNat 32 a.ctr, BitVec.ofNat 32 (a.ctr / 2 ^ 32)], t) ∧ Held t r { a with ctr := a.ctr + 1 } ∧
      HdrAt s t r 40 4 i ∧ HoldsAt s t r (slotAddr r tail + 88) 4 i ∧ HoldsAt s t r (slotAddr r i + 80) 8 a.ctr ∧
      HoldsAt s t r (slotAddr r i + 63) 1 (flag + 64) ∧ HoldsAt s t r (slotAddr r i + 88) 4 (2 ^ 32 - 1) ∧
      HeaderKept s t r (fun off => (8 ≤ off ∧ off < 16) ∨ (40 ≤ off ∧ off < 44))) ∧
  (∀ (s : State) (r : ArenaRef) (a : Arena) (ws : Nat → Word) (hwm nsm1 fhead next nvert i gbits cell grid last : Nat) (origin : V3),
    (let b := entryAddr grid (bucketOf gbits (cellOf cell origin { x := (ws 0).toNat, y := (ws 1).toNat, z := (ws 2).toNat }))
     let none_ := 2 ^ 32 - 1
     Works s r (fun va => headerLines r va ∨ va = slotAddr r i ∨ va = lineOf b ∨ (last ≠ none_ ∧ va = slotAddr r last)) → Held s r a →
     ¬ headerLines r (lineOf b) → lineOf b ≠ slotAddr r i → last ≠ i → (last ≠ none_ → lineOf b ≠ slotAddr r last) →
     HdrAt s s r 24 8 hwm → HdrAt s s r 4 4 nsm1 → HdrAt s s r 32 4 fhead → HdrAt s s r 80 8 nvert → HoldsAt s s r (slotAddr r i) 4 next →
     Grid s r gbits cell grid origin → HoldsAt s s r (b + 4) 4 last → nvert < 2 ^ 64 - 1 → hwm < 2 ^ 64 - 1 →
     (ws 14).toNat / 2 ^ 18 = 0 → (ws 15).toNat / 2 ^ 24 % 2 ^ 6 = 0 → (ws 15).getLsbD 31 = true →
     i = (if fhead = none_ then hwm else fhead) → (fhead = none_ → hwm ≤ nsm1) → a.ctr < 2 ^ 64 - 2 →
     ∃ t, engAppend r ws s = .ok ([BitVec.ofNat 32 i, BitVec.ofNat 32 a.ctr, BitVec.ofNat 32 (a.ctr / 2 ^ 32)], t) ∧
       Held t r { a with ctr := a.ctr + 1 } ∧ HdrAt s t r 8 8 (a.ctr + 1) ∧ HdrAt s t r 80 8 (nvert + 1) ∧
       HoldsAt s t r (slotAddr r i + 72) 8 a.ctr ∧ HoldsAt s t r (slotAddr r i + 68) 4 none_ ∧ HoldsAt s t r (b + 4) 4 i ∧
       (last = none_ → HoldsAt s t r b 4 i) ∧
       (last ≠ none_ → HoldsAt s t r (slotAddr r last + 68) 4 i ∧ ∀ j, j < 4 → t.dramByte (placeOf s r b + j) = s.dramByte (placeOf s r b + j)))) ∧
  (∀ (gbits : Nat) (c0 c1 c2 : Int), bucketOf gbits (c0, c1, c2) =
    (BitVec.ofInt 32 c0 * 0x8DA6B343#32 ^^^ BitVec.ofInt 32 c1 * 0xD8163841#32 ^^^ BitVec.ofInt 32 c2 * 0xCB1AB31F#32).toNat % 2 ^ gbits) ∧
  (∀ (s : State) (r : ArenaRef) (cell rad w fcur npf : Nat), Works s r (headerLines r) → HdrAt s s r 52 4 cell → rad < 2 ^ 32 →
    w % 32 = 0 ∨ 16 < w % 32 ∨ w / 32 % 1024 ≠ 0 ∨ 2 ^ 28 < npf ∨ 0x7F800000 < rad % 2 ^ 31 ∨ (2 ^ 31 < rad ∧ rad ≤ 0xFF800000) ∨
      (cell < rad ∧ rad ≤ 0x7F800000) →
    engReweight r rad w fcur npf s = .error (.fail 0x19 0 r.header false)) ∧
  (∀ (s : State) (r : ArenaRef) (a : Arena) (cell rad w fcur npf k0 : Nat) (fr va cnt : Nat → Nat), Works s r (headerLines r) → Held s r a →
    HdrAt s s r 52 4 cell → cell < 0x7F800000 → rad ≤ cell → 1 ≤ w % 32 → w % 32 ≤ 16 → w / 32 % 1024 = 0 → w < 2 ^ 16 → fcur < 2 ^ 16 →
    npf ≤ 2 ^ 28 → (∀ j, j < 16 → HdrAt s s r (128 + 8 * j) 2 (fr j) ∧ HdrAt s s r (130 + 8 * j) 1 (va j) ∧ HdrAt s s r (132 + 8 * j) 4 (cnt j)) →
    ((∀ k, k < 16 → SetTaken a k) → ∃ t, engReweight r rad w fcur npf s = .ok ([0xFFFFFFFF#32, 0xFFFFFFFF#32], t) ∧
      t.mem.dram = s.mem.dram ∧ t.arenas = s.arenas) ∧
    (SetFree a k0 → (∀ k, k < k0 → SetTaken a k) →
      (2 ^ 64 - 2 ≤ a.ctr → engReweight r rad w fcur npf s = .error (.fail 0x19 0 r.header false)) ∧
      (a.ctr < 2 ^ 64 - 2 →
        let total := ((List.range 16).map (fun j => if j = fcur % 16 then npf
          else if va j ≠ 0 ∧ (fcur + 65536 - fr j) % 65536 < w % 32 then cnt j else 0)).sum
        let p : ParamSet :=
          { q := a.ctr, r := rad, w := w % 32, fcur := fcur, npf := npf, ntot := total,
            eta := F32.mul (F32.mul 0x40490FDB (F32.mul rad rad)) (F32.ofNat total) }
        ∃ t a', engReweight r rad w fcur npf s = .ok ([BitVec.ofNat 32 a.ctr, BitVec.ofNat 32 (a.ctr / 2 ^ 32)], t) ∧ Held t r a' ∧
          { a' with sets := a.sets, pslot := a.pslot, ctr := a.ctr } = a ∧ a'.ctr = a.ctr + 1 ∧ a'.pslot = k0 ∧
          (∀ k, SMap.get none a'.sets k = if k = k0 then some p else SMap.get none a.sets k) ∧ HdrAt s t r 8 8 (a.ctr + 1) ∧
          HdrAt s t r 47 1 k0 ∧ HdrAt s t r (128 + 8 * (fcur % 16)) 2 fcur ∧ HdrAt s t r (130 + 8 * (fcur % 16)) 1 1 ∧
          HdrAt s t r (132 + 8 * (fcur % 16)) 4 npf ∧ HdrAt s t r (256 + 32 * k0) 8 a.ctr ∧ HdrAt s t r (264 + 32 * k0) 4 rad ∧
          HdrAt s t r (268 + 32 * k0) 2 (w % 32 + 2 ^ 15) ∧ HdrAt s t r (270 + 32 * k0) 2 fcur ∧ HdrAt s t r (272 + 32 * k0) 4 npf ∧
          HdrAt s t r (276 + 32 * k0) 8 total ∧ HdrAt s t r (284 + 32 * k0) 4 p.eta))) ∧
  (∀ (s : State) (r : ArenaRef) (a : Arena) (st iy iz nsm1 hwm k : Nat) (p : ParamSet),
    Works s r (fun va => headerLines r va ∨ va = slotAddr r iy ∨ va = slotAddr r iz) → Held s r a → ¬ NotLive a st → InForce a st k p →
    HdrAt s s r 4 4 nsm1 → HdrAt s s r 24 8 hwm →
    (let sees := fun (i : Nat) (light : Bool) => i ≤ nsm1 ∧ i < hwm ∧ lineField (slotLine s r i) 72 8 ≠ 2 ^ 64 - 1 ∧
       Seen st (slotLine s r i) ∧ (vertexOf (slotLine s r i)).light = light
     let c := connect (vertexOf (slotLine s r iy)) (vertexOf (slotLine s r iz)) p.eta
     (sees iy false → sees iz true → ∃ t, engConnect r st iy iz s = .ok ([c.contrib.x, c.contrib.y, c.contrib.z, c.origin.x, c.origin.y,
       c.origin.z, c.dir.x, c.dir.y, c.dir.z, c.len].map (BitVec.ofNat 32), t) ∧ t.mem.dram = s.mem.dram ∧ t.arenas = s.arenas) ∧
     (¬ sees iy false ∨ ¬ sees iz true → engConnect r st iy iz s = .error (.fail 0x1B 0 r.header false)))) ∧
  (∀ (y z : Vertex) (eta : Nat),
    (let d := z.pos.sub y.pos
     let d2 := F32.add (F32.add (F32.mul d.x d.x) (F32.mul d.y d.y)) (F32.mul d.z d.z)
     let far := F32.lt 0 d2 = true ∧ F32.isFinite d2 = true
     (¬ far → connect y z eta = { contrib := V3.zero, origin := y.pos, dir := V3.zero, len := 0 }) ∧
     (far →
       let len := F32.sqrt d2
       let w := V3.mk (F32.div d.x len) (F32.div d.y len) (F32.div d.z len)
       let (fy, py) := lobe y y.nrm y.win w
       let (fz, pz) := lobe z z.nrm z.win w.neg
       let cy := F32.abs (V3.dot y.nrm w)
       let cz := F32.abs (V3.dot z.nrm w)
       let g := F32.div (F32.mul cy cz) d2
       let side := fun (pdf c : Nat) (v : Vertex) (rev : Nat) => F32.mul (F32.div (F32.mul pdf c) d2)
         (F32.add (F32.add eta v.dvcm) (F32.mul (F32.add v.dvc (F32.mul eta v.dvm)) rev))
       let wl := side py cz z (lobe z z.nrm w.neg z.win).2
       let we := side pz cy y (lobe y y.nrm w y.win).2
       let k := F32.div 0x3F800000 (F32.add (F32.add wl 0x3F800000) we)
       let term := fun (ty fy fz tz : Nat) => F32.mul (F32.mul (F32.mul (F32.mul (F32.mul ty fy) g) fz) tz) k
       connect y z eta = { contrib := { x := term y.thr.x fy.x fz.x z.thr.x, y := term y.thr.y fy.y fz.y z.thr.y, z := term y.thr.z fy.z fz.z z.thr.z },
                           origin := y.pos, dir := w, len := len }))) ∧
  (∀ (s : State) (r : ArenaRef) (a : Arena) (st i nsm1 hwm mcap k gbits cell grid : Nat) (origin : V3) (p : ParamSet) (chain : Nat → List Nat)
    (xs : List (Nat × Vertex)),
    (let y := vertexOf (slotLine s r i)
     let bs := bucketsAround gbits (cellOf cell origin y.pos)
     Works s r (fun va => headerLines r va ∨ va = slotAddr r i ∨ ∃ b ∈ bs, va = lineOf (entryAddr grid b) ∨ ∃ j ∈ chain b, va = slotAddr r j) →
     Held s r a → ¬ NotLive a st → InForce a st k p → HdrAt s s r 4 4 nsm1 → HdrAt s s r 24 8 hwm → HdrAt s s r 44 2 mcap →
     Grid s r gbits cell grid origin → i ≤ nsm1 → i < hwm → lineField (slotLine s r i) 72 8 ≠ 2 ^ 64 - 1 → Seen st (slotLine s r i) →
     y.light = false → (∀ b ∈ bs, (chain b).length ≤ hwm + 1 ∧ ∃ x, HoldsAt s s r (entryAddr grid b) 4 x ∧ Chain s r (chain b) x) →
     (p.r = 0 → ∃ t, engMerge r st i s = .ok ([0, 0, 0, 0, 0], t) ∧ t.mem.dram = s.mem.dram ∧ t.arenas = s.arenas) ∧
     (F32.eq p.r 0 = false → xs.Perm (candidates s r st y p bs chain) → xs.Pairwise (fun a b => a.1 < b.1) →
       let cap := if mcap = 0 then 256 else mcap
       let sum := mergeSum y p.eta ((xs.take cap).map (fun e => e.2))
       ∃ t, engMerge r st i s = .ok ([BitVec.ofNat 32 sum.x, BitVec.ofNat 32 sum.y, BitVec.ofNat 32 sum.z,
         BitVec.ofNat 32 (min xs.length (2 ^ 32 - 1)), if cap < xs.length then 1 else 0], t) ∧ t.mem.dram = s.mem.dram ∧ t.arenas = s.arenas))) ∧
  (∀ (y : Vertex) (eta : Nat) (zs : List Vertex), mergeSum y eta zs = ((zs.map (fun z =>
    let (fy, pdir) := lobe y y.nrm y.win z.win
    let side := fun (v : Vertex) (pdf : Nat) => F32.add (F32.div v.dvcm eta) (F32.mul (F32.add (F32.div v.dvc eta) v.dvm) pdf)
    let k := F32.div 0x3F800000 (F32.add (F32.add (side z pdir) 0x3F800000) (side y (lobe y y.nrm z.win y.win).2))
    let term := fun (ty fy tz : Nat) => F32.mul (F32.mul (F32.mul ty fy) tz) k
    V3.mk (term y.thr.x fy.x z.thr.x) (term y.thr.y fy.y z.thr.y) (term y.thr.z fy.z z.thr.z))).foldl V3.add V3.zero).quot eta)

/-! ### Launches -/

namespace Sys2Proof.Claims

/-- What the Cue Unit answers to a launch block (R198): status, second word, and, where it accepts, the launch it queues. -/
def Accepts (s t : State) (die : Nat) (line : Line) (status : Nat) (w : Word) : Prop :=
  let b := blockOf line
  match s.blockReason line with
  | some r => status = 2 ∧ w = BitVec.ofNat 32 r ∧ t.launches = s.launches ∧ t.dies = s.dies
  | none =>
    if s.queueFull die b.prio = true then status = 1 ∧ w = 0 ∧ t.launches = s.launches ∧ t.dies = s.dies
    else
      let n := if (s.die die).launchCount + 1 < 2 ^ 29 then (s.die die).launchCount + 1 else 1
      let lid := die * 2 ^ 29 + n
      status = 0 ∧ w = BitVec.ofNat 32 lid ∧ (t.die die).queue b.prio = (s.die die).queue b.prio ++ [lid] ∧
        (t.die die).launchCount = n ∧ ∃ x, t.launch? lid = some x ∧ x.blk = b ∧ x.die = die ∧ x.level = b.prio ∧ x.queued = true ∧
          x.nextTeam = 0 ∧ x.incs = 0 ∧ (b.dep = false → x.ready = true)

/-- LAUNCH_DONE of a launch that completed (R69, R201). -/
def doneEvent (l : Launch) (lid : Nat) (value : DWord) : Event :=
  { kind := 0x03, src := l.die, href := l.href, ctx := l.blk.ctx.toNat,
    body := [(16, bytesNat 4 lid), (20, bytesNat 1 0), (24, bytes64 value)] }

/-- A launch is over: it is tracked no more, the Director has the message, and the cue that named it is answered. -/
def LaunchOver (t : State) (l : Launch) (lid : Nat) (value : DWord) : Prop :=
  t.launch? lid = none ∧
  hwMessage 3 l.die l.blk.ctx.toNat (BitVec.ofNat 32 lid) l.blk.cmpva.toNat 0 ∈ (t.die l.die).hw ∧
  (l.href ≠ 0 → Tells t l.blk.ctx.toNat (doneEvent l lid value))

/-- A placed group as R208 and R249 start it: group i of a team, its slot's number in the core being `n`. -/
structure Starts208 (g : Group) (b : LaunchBlock) (lid team i n : Nat) (d : DieState) : Prop where
  pc    : g.slotA = { pc := vaOf b.entry, owned := g.live, enable := g.live, status := .ready, back := 0, sib := 0 }
  slotB : g.slotB = PcSlot.none
  live  : g.live = BitVec.ofNat 96 (2 ^ (32 * (b.gwc + 1)) - 1)
  ident : g.ctx = b.ctx ∧ g.lid = BitVec.ofNat 32 lid ∧ g.gidx = i ∧ g.gcount = b.ngrp ∧ g.tdim = b.tdim ∧ g.arg = b.argp
  index : g.tidx = (BitVec.ofNat 32 (team % b.tdim.1.toNat), BitVec.ofNat 32 (team / b.tdim.1.toNat % b.tdim.2.1.toNat),
                    BitVec.ofNat 32 (team / (b.tdim.1.toNat * b.tdim.2.1.toNat)))
  size  : g.nvr = b.nvr ∧ g.ntile = b.ntile ∧ g.gwc = b.gwc
  zero  : g.v = [] ∧ g.s = [] ∧ g.p = [] ∧ g.trow = [] ∧ g.stack = [] ∧ g.hc = [] ∧ g.hb = 0 ∧ g.ops = [] ∧ g.fxf = 0 ∧ g.troute = 0
  mode  : g.m = BitVec.ofNat 32 b.gwc <<< 20
  level : g.lvl = 0 ∧ g.pv = (b.ctx == 0)
  traps : g.tvecDev = d.hvec ∧ g.tsave = d.hsav + BitVec.ofNat 52 (512 * n) ∧ g.tvecUser = 0

end Sys2Proof.Claims

/-- O59. The events of launches and of the Stage Manager (R82, R124, R165, R197 to R208, R249, R264, R331): the dependence word, the answer
to LAUNCH, a completion increment, the end of a team, aging, a placement, a switch out of a core and into it, a shadow streamed to
memory and back. The model's choices: log 27 (a placed group takes the lowest free slot of its quarter, and which core a team is placed
on where several are alike), log 29 (a launch ages from when it becomes ready, a bad block is reported before a full queue), log 30 (words
28 to 30 of a record are the masks of slot A, a shadow is streamed in one step). -/
def Obligations.LaunchAndPlacementEvents : Prop :=
  (∀ (s : State) (lid : Nat) (l : Launch), s.launch? lid = some l →
    (let va := vaOf l.blk.depva
     (l.queued = false ∨ l.ready = true ∨ l.blk.dep = false → exec (.dependenceNotify lid) s = .next s) ∧
     (l.queued = true → l.ready = false → l.blk.dep = true →
       (∀ e, s.channel l.blk.ctx true false va = .ok e → windowOf va ≤ 8 →
         (let x := lineField (s.homeCopy (lineLoc s l.blk.ctx va e)) (va.toNat % 128) 8
          (x < l.blk.depval.toNat → exec (.dependenceNotify lid) s = .next s) ∧
          (l.blk.depval.toNat ≤ x → ∃ t, exec (.dependenceNotify lid) s = .next t ∧
            t.launch? lid = some { l with ready := true, agedFrom := s.clk } ∧ t.mem = s.mem))) ∧
       (∀ f, s.channel l.blk.ctx true false va = .error f →
         (l.faultSent = true → exec (.dependenceNotify lid) s = .next s) ∧
         (l.faultSent = false → ∃ t, exec (.dependenceNotify lid) s = .next t ∧ t.launch? lid = some { l with faultSent := true } ∧
           (t.die l.die).hw = (s.die l.die).hw ++
             [hwMessage 2 l.die l.blk.ctx.toNat (BitVec.ofNat 32 lid) l.blk.depva.toNat f.cause]))))) ∧
  (∀ (s : State) (gid : Nat) (g : Group) (o : MemOp) (va : VA), Alone s gid g o → o.kind = .launch va → o.id < 2 ^ 32 →
    o.level = g.lvl → o.dst + 2 ≤ 28 →
    (let out := fun (t : State) (status : Nat) (w : Word) => ∃ g', Through t gid g' ∧
       SMap.get 0 g'.s o.dst = BitVec.ofNat 32 status ∧ SMap.get 0 g'.s (o.dst + 1) = w ∧
       ∀ k, k ≠ o.dst → k ≠ o.dst + 1 → SMap.get 0 g'.s k = SMap.get 0 g.s k
     (va.toNat % 128 ≠ 0 → ∃ t, exec (.launchAnswer (opKey gid o)) s = .next t ∧ out t 2 13 ∧ t.launches = s.launches) ∧
     (va.toNat % 128 = 0 → ∀ e, s.channel 0 true false va = .ok e → HomeLine s (serveDie g.coreId va (leafAttr e)) 0 va e 0 →
       ∃ t status w, exec (.launchAnswer (opKey gid o)) s = .next t ∧ out t status w ∧
         Accepts s t g.die (s.dramLine (lineLoc s 0 va e)) status w))) ∧
  (∀ (s : State) (lid : Nat) (l : Launch), s.launch? lid = some l → 0 < l.pendingIncs →
    (s.context? l.blk.ctx.toNat).any (fun x => x.killed) = false →
    (let va := vaOf l.blk.cmpva
     ∀ e, l.discarding = false → s.channel l.blk.ctx true true va = .ok e → HomeLine s (homeDie va) l.blk.ctx va e 0 → va.toNat % 8 = 0 →
     (let old := lineField (s.dramLine (lineLoc s l.blk.ctx va e)) (va.toNat % 128) 8
      let l' := { l with
        incs := l.incs + 1
        pendingIncs := l.pendingIncs - 1
        lastValue := BitVec.ofNat 64 (old + 1)
        lastLost := false }
      ∃ t, exec (.completionIncrement lid) s = .next t ∧
        (l.incs < l.blk.teams ∨ (l.incs = l.blk.teams ∧ ∀ a ∈ s.arenas, a.ctx ≠ l.blk.ctx) → BytesAt t (locOf s l.blk.ctx va e) 8 ((old + 1) % 2 ^ 64)) ∧
        (l.incs + 1 < l.blk.teams → t.launch? lid = some l') ∧
        (l.incs + 1 = l.blk.teams → t.launch? lid = some { l' with pendingIncs := 1 } ∧ Instr.completionIncrement lid ∈ t.agenda) ∧
        (l.incs = l.blk.teams → LaunchOver t l lid (if l.blk.cmpva = 0 then 0 else BitVec.ofNat 64 (old + 1)))))) ∧
  (∀ (s : State) (lid : Nat) (l : Launch) (f : MFault), s.launch? lid = some l → 0 < l.pendingIncs → l.discarding = false →
    (s.context? l.blk.ctx.toNat).any (fun x => x.killed) = false → windowOf (vaOf l.blk.cmpva) ≠ 10 →
    s.channel l.blk.ctx true true (vaOf l.blk.cmpva) = .error f → l.incs + 1 < l.blk.teams →
    ∃ t, exec (.completionIncrement lid) s = .next t ∧ t.mem = s.mem ∧ t.launch? lid = some { l with
        incs := l.incs + 1
        pendingIncs := l.pendingIncs - 1
        discarding := true
        lastLost := true } ∧
      (t.die l.die).hw = (s.die l.die).hw ++
        [hwMessage 4 l.die l.blk.ctx.toNat (BitVec.ofNat 32 lid) l.blk.cmpva.toNat f.cause]) ∧
  (∀ (s : State) (tid : Nat) (tm : Team) (l : Launch), s.team? tid = some tm → tm.groups ≠ [] →
    (∀ i, i < tm.groups.length → i ∈ tm.ended) → s.launch? tm.lid = some l →
    ∃ t, exec (.teamEnd tid) s = .next t ∧ t.team? tid = none ∧
      (∀ n, n < 64 → (t.bank (bankKey (coreKey tm.die tm.core / 2) n)).clm ≠ some tid) ∧
      (l.blk.cmpva ≠ 0 → t.launch? tm.lid = some { l with ended := l.ended + 1, pendingIncs := l.pendingIncs + 1 } ∧
        Instr.completionIncrement tm.lid ∈ t.agenda) ∧
      (l.blk.cmpva = 0 → l.ended + 1 ≠ l.blk.teams → t.launch? tm.lid = some { l with ended := l.ended + 1 }) ∧
      (l.blk.cmpva = 0 → l.ended + 1 = l.blk.teams → LaunchOver t l tm.lid 0)) ∧
  (∀ (s : State) (lid : Nat) (l : Launch), s.launch? lid = some l → ∃ t, exec (.priorityAging lid) s = .next t ∧
    (let d := s.die l.die
     let due := l.queued = true ∧ l.ready = true ∧ l.level < 7 ∧ l.agedFrom + 2 ^ 20 ≤ s.clk ∧ (d.queue (l.level + 1)).length < 64
     (¬ due → t = s) ∧
     (due → t.launch? lid = some { l with blk := { l.blk with prio := l.level + 1 }, level := l.level + 1, agedFrom := s.clk } ∧
       (t.die l.die).queue (l.level + 1) = d.queue (l.level + 1) ++ [lid] ∧ lid ∉ (t.die l.die).queue l.level ∧
       ∀ n, n ≠ l.level → n ≠ l.level + 1 → (t.die l.die).queue n = d.queue n))) ∧
  (∀ (s : State) (die : Die), s.clk < (s.die die.val).placeAt → exec (.placement die) s = .next s) ∧
  (∀ (s : State) (die : Die) (lid core : Nat) (l : Launch) (rest : List (Nat × Launch)), (s.die die.val).placeAt ≤ s.clk →
    s.urgency die.val = (lid, l) :: rest → (∀ e ∈ s.urgency die.val, e.2.die = die.val ∧ s.clk < e.2.agedFrom + 2 ^ 20) → l.ready = true →
    (∀ c, c < 64 → (s.core (coreKey die.val c)).claim = none) → s.chooseCore lid l.blk die.val = some core →
    (∀ c ∈ l.blk.cores core, ∀ q n, q < 4 → n < 16 → s.group? (gidOf die.val c q n) = none) →
    (let b := l.blk
     let last := l.nextTeam + 1 = b.teams
     let d := s.die die.val
     s.fits lid b die.val core = true ∧
     (b.pair = false → core < 64 ∧ ∀ c, c < 64 → s.fits lid b die.val c = true →
       s.population die.val core < s.population die.val c ∨ (s.population die.val core = s.population die.val c ∧ core ≤ c)) ∧
     ∃ t tm, exec (.placement die) s = .next t ∧ (t.die die.val).placeAt = s.clk + 64 ∧
       t.launch? lid = some { l with nextTeam := l.nextTeam + 1, queued := decide (¬ last), agedFrom := s.clk } ∧
       (t.die die.val).queue l.level = (d.queue l.level).filter (· != lid) ++ (if last then [] else [lid]) ∧
       t.team? (teamKey (BitVec.ofNat 32 lid) l.nextTeam) = some tm ∧ tm.groups.length = b.ngrp ∧ tm.ended = [] ∧ tm.ph = 0 ∧
       tm.arrived = [] ∧ tm.ctx = b.ctx ∧ tm.scratch.length = (b.scrb + 16383) / 16384 ∧
       (∀ n ∈ tm.scratch, (t.bank (bankKey (coreKey die.val core / 2) n)).clm = some (teamKey (BitVec.ofNat 32 lid) l.nextTeam) ∧
         (t.bank (bankKey (coreKey die.val core / 2) n)).drn = true) ∧
       (∀ c ∈ b.cores core, (t.core (coreKey die.val c)).active = some b.ctx ∧
         ∀ e ∈ (t.core (coreKey die.val c)).l1, e.2.all (fun y => y.expired) = true) ∧
       (∀ i, i < b.ngrp →
         (let c := if b.pair then core + i % 2 else core
          let q := if b.pair then i / 2 % 4 else i % 4
          let n := if b.pair then i / 8 else i / 4
          tm.groups[i]? = some (gidOf die.val c q n) ∧ ∃ g, t.group? (gidOf die.val c q n) = some g ∧
            Starts208 g b lid l.nextTeam i (c * 64 + q * 16 + n) d)))) ∧
  (∀ (s : State) (core : Nat), ∃ t, exec (.switchOut core) s = .next t ∧
    (if (s.core core).active.isSome then t = s.setCore core { s.core core with switching := true } else t = s)) ∧
  (∀ (s : State) (core : Nat) (c : Ctx), (s.core core).active = some c → (s.core core).switching = true → s.drained core c = true →
    (s.core core).shadows.length < 2 →
    ∃ t, exec (.shadowCopy core) s = .next t ∧
      (let (k, k') := (s.core core, t.core core)
       k'.active = none ∧ k'.switching = false ∧ k'.shadows = k.shadows ++ [{ ctx := c, since := s.clk }] ∧ k'.l1 = k.l1 ∧
       (∀ w ∈ k'.uwt, (∃ g, (w.gid, g) ∈ s.groupsOn core c) → w.state ≠ .pending)) ∧
      (∀ gid x, t.group? gid = some x → x.coreId = core → x.ctx = c → x.place = .pending ∧ x.token = none) ∧
      (∀ gid g, s.groupsOn core c = [(gid, g)] →
        t.group? gid = some { g.wdTick s.clk with place := .pending, victims := [], token := none, wants := false }) ∧
      t.mem = s.mem) ∧
  (∀ (s : State) (core gid : Nat) (c : Ctx) (g : Group), (s.core core).switching = false →
    s.occupied (core / 64) (core % 64) = false → s.highShadow core = some c → s.groupsOn core c = [(gid, g)] →
    s.activeCount g.die g.core g.quarter < 8 →
    ∃ t, exec (.switchIn core) s = .next t ∧ (t.core core).active = some c ∧
      (t.core core).shadows = (s.core core).shadows.filter (fun x => x.ctx != c) ∧
      t.group? gid = some { g.unstall s.clk with place := .active, activeAt := s.clk, wdAt := s.clk }) ∧
  (∀ (s : State) (core gid : Nat) (c : Ctx) (g : Group), (∃ x ∈ (s.core core).shadows, x.ctx = c) → s.imageEntry (core / 64) c ≠ 0 →
    s.groupsOn core c = [(gid, g)] → g.undone = [] → Settled s → g.quarter < 4 → g.slot < 16 → g.nvr ≤ 96 → g.ntile ≤ 8 → g.gwc ≤ 2 →
    g.stack.length ≤ 64 → core < 512 →
    ∃ t, exec (.shadowStreamOut core c) s = .next t ∧
      (let base := s.imageEntry (core / 64) c % 2 ^ 48 + core % 64 * 0x210000
       let rec_ := base + 0x10000 + 0x4000 * (16 * g.quarter + g.slot)
       let lanes := 32 * (g.gwc + 1)
       (∀ x ∈ (t.core core).shadows, x.ctx ≠ c) ∧ c ∈ (t.core core).inMem ∧ (∀ w ∈ (t.core core).uwt, w.gid ≠ gid) ∧
       t.groups = s.groups ∧ t.phys base 4 = 0x4358494D ∧ t.phys (base + 4) 1 = c.toNat ∧
       t.phys (base + 8) 8 = 2 ^ (16 * g.quarter + g.slot) ∧
       (∀ k, k < 32 → t.phys (rec_ + 4 * k) 4 = (g.sRead .a k).toNat) ∧
       (∀ k l, k < g.nvr → l < lanes →
         t.phys (base + 0x110000 + 0x20000 * g.quarter + 4 * (k * lanes + l)) 4 = (g.vRead k l).toNat) ∧
       (∀ k l, k < g.ntile → l < lanes →
         t.phys (base + 0x190000 + 0x20000 * g.quarter + 128 * (k * lanes + l)) 128 = (g.rowOf k l).toNat))) ∧
  (∀ (s : State) (core gid : Nat) (c : Ctx) (g : Group), c ∈ (s.core core).inMem → (s.core core).shadows.length < 2 →
    s.groupsOn core c = [(gid, g)] →
    (let base := s.imageEntry (core / 64) c % 2 ^ 48 + core % 64 * 0x210000
     let rec_ := base + 0x10000 + 0x4000 * (16 * g.quarter + g.slot)
     let lanes := 32 * (g.gwc + 1)
     let ok := headerRange [(gid, g)] c core (fun o n => s.phys (base + o) n) && recordRange g (fun o n => s.phys (rec_ + o) n)
     (s.phys base 4 ≠ 0x4358494D → ok = false) ∧
     (ok = false → c ≠ 0 → g.die < 8 → ∃ t, exec (.shadowStreamIn core c) s = .next t ∧ t.mem = s.mem ∧ (∀ k x, t.group? k = some x → x.ctx = c → x.dead = true) ∧
       ∃ r, r.length = 64 ∧ (t.die g.die).kills = (s.die g.die).kills ++ [r]) ∧
     (ok = true → g.gwc ≤ 2 → ∃ t g', exec (.shadowStreamIn core c) s = .next t ∧ t.group? gid = some g' ∧ t.mem = s.mem ∧
       (∃ x ∈ (t.core core).shadows, x.ctx = c) ∧ c ∉ (t.core core).inMem ∧
       (∀ k, k < 26 → SMap.get 0 g'.s k = BitVec.ofNat 32 (s.phys (rec_ + 4 * k) 4)) ∧
       g'.m = BitVec.ofNat 32 (s.phys (rec_ + 0x180) 4) ∧ g'.lvl = s.phys (rec_ + 0x184) 4 % 4 ∧
       (∀ k l, k < g.nvr → l < lanes →
         g'.vRead k l = BitVec.ofNat 32 (s.phys (base + 0x110000 + 0x20000 * g.quarter + 4 * (k * lanes + l)) 4)))))

/-! ### Registers of the device and invalidations -/

/-- O60. INVALIDATE_PAGE, INVALIDATE_CONTEXT, INVALIDATE_ALL, INVALIDATION_COMPLETE and the writes of `mbound`, `ctxtab` and `llctl` (R94, R98,
R99, R214): an invalidation begins, or waits for the one in progress; when it completes no line and no translation that it covers is
held any more; `mbound` and `ctxtab` are fixed while contexts exist. -/
def Obligations.InvalidationAndRegisterEvents : Prop :=
  (∀ (s : State) (c : Ctx) (va : VA) (i : Instr) (x : Span),
    (i, x) ∈ [(Instr.invalidatePage c va, Span.page c va), (.invalidateContext c, .context c), (.invalidateAll, .all)] →
    ∃ t, exec i s = .next t ∧ t.l2 = s.l2 ∧ t.cores = s.cores ∧ t.groups = s.groups ∧
      (if s.mem.xiBusy then t.mem = { s.mem with xiWait := s.mem.xiWait ++ [x] }
       else t.mem = { s.mem with xiBusy := true, xiNow := some x } ∧ Instr.invalidationComplete ∈ t.agenda)) ∧
  (∀ (s : State) (x : Span), s.mem.xiNow = some x → ∃ t, exec .invalidationComplete s = .next t ∧
    (let gone := fun (c : Ctx) (a : Nat) => (s.cover x).has c a = true
     (∀ k y, t.l2At k = some y → ¬ gone (l2KeyCtx k) (l2KeyLine k * 128)) ∧
     (∀ core, ∀ e ∈ (t.core core).l1, ∀ y, e.2 = some y → ¬ gone y.ctx (y.line * 128)) ∧
     (∀ e ∈ t.mem.tcache, ¬ gone (BitVec.ofNat 8 (e.1 / 2 ^ 36)) (e.1 % 2 ^ 36 * 65536)) ∧
     (∀ c a, a < 2 ^ 52 → x = .all ∨ x = .context c → gone c a) ∧
     (∀ c (va : VA), x = .page c va → windowOf va ≠ 10 → gone c (va.toNat / 65536 * 65536)) ∧
     (match s.mem.xiWait with
      | [] => t.mem.xiBusy = false ∧ t.mem.xiNow = none
      | y :: ys => t.mem.xiBusy = true ∧ t.mem.xiNow = some y ∧ t.mem.xiWait = ys ∧ Instr.invalidationComplete ∈ t.agenda))) ∧
  (∀ (s : State), s.mem.xiNow = none → exec .invalidationComplete s = .next s) ∧
  (∀ (s : State) (v : Word), (let fixed := ∃ c x, c ≠ 0 ∧ (c, some x) ∈ s.contexts
    (fixed ∨ s.channelMiB < v.toNat → exec (.mboundWrite v) s = .next s) ∧
    (¬ fixed → v.toNat ≤ s.channelMiB →
      exec (.mboundWrite v) s = .next { s with mem := { s.mem with mbound := v.toNat } }) ∧
    (fixed → exec (.ctxtabWrite true v) s = .next s ∧ exec (.ctxtabWrite false v) s = .next s) ∧
    (¬ fixed → exec (.ctxtabWrite true v) s = .next { s with mem := { s.mem with ctxtab := pair64 v (lo32 s.mem.ctxtab) } } ∧
      exec (.ctxtabWrite false v) s = .next { s with mem := { s.mem with ctxtab := pair64 (hi32 s.mem.ctxtab) v } }))) ∧
  (∀ (s : State) (die : Die) (v : Word), exec (.llctlWrite die v) s =
    .next (s.setDie die.val { s.die die.val with llthr := v.extractLsb' 8 8 }))
end

