-- ==== Sys2Proof/Laws/SMap.lean ====
section
/-! SUPPORT. Laws of finite maps: reading after writing, and the canonical form. -/

namespace Sys2Proof

variable {α : Type}

@[simp] theorem SMap.get_nil (d : α) (a : Nat) : SMap.get d [] a = d := rfl

theorem SMap.get_erase (d : α) (m : SMap α) (k a : Nat) :
    SMap.get d (SMap.erase m k) a = if a = k then d else SMap.get d m a := by
  induction m with
  | nil => simp [SMap.erase]
  | cons e m ih =>
    obtain ⟨j, v⟩ := e
    by_cases h : j = k
    · subst h
      have : SMap.erase ((j, v) :: m) j = SMap.erase m j := by simp [SMap.erase]
      rw [this, ih]
      simp only [SMap.get]
      split <;> simp_all
    · have : SMap.erase ((j, v) :: m) k = (j, v) :: SMap.erase m k := by simp [SMap.erase, h]
      rw [this]
      simp only [SMap.get, ih]
      by_cases ha : a = j
      · subst ha; simp [h]
      · simp [ha]

theorem SMap.get_insert (d : α) (m : SMap α) (k a : Nat) (v : α) :
    SMap.get d (SMap.insert k v m) a = if a = k then v else SMap.get d m a := by
  induction m with
  | nil => simp [SMap.insert, SMap.get]
  | cons e m ih =>
    obtain ⟨j, w⟩ := e
    simp only [SMap.insert]
    by_cases h1 : k < j
    · simp [h1, SMap.get]
    · by_cases h2 : k = j
      · subst h2
        simp only [lt_self_iff_false, ↓reduceIte, SMap.get]
        by_cases ha : a = k <;> simp [ha]
      · simp only [h1, h2, ↓reduceIte, SMap.get, ih]
        by_cases ha : a = j
        · subst ha; simp [Ne.symm h2]
        · simp [ha]

/-- Reading after a write, at any key. -/
theorem SMap.get_set [DecidableEq α] (d : α) (m : SMap α) (k a : Nat) (v : α) :
    SMap.get d (SMap.set d m k v) a = if a = k then v else SMap.get d m a := by
  unfold SMap.set
  split
  · rename_i h; rw [SMap.get_erase, h]
  · rw [SMap.get_insert]

@[simp] theorem SMap.get_set_same [DecidableEq α] (d : α) (m : SMap α) (k : Nat) (v : α) :
    SMap.get d (SMap.set d m k v) k = v := by simp [SMap.get_set]

theorem SMap.get_set_other [DecidableEq α] (d : α) (m : SMap α) {k a : Nat} (v : α) (h : a ≠ k) :
    SMap.get d (SMap.set d m k v) a = SMap.get d m a := by simp [SMap.get_set, h]

/-- A change of the values that keeps what an unlisted key reads as. -/
theorem SMap.get_map {β : Type} (d : α) (d' : β) (h : α → β) (hd : h d = d') (m : SMap α) (a : Nat) :
    SMap.get d' (m.map (fun e => (e.1, h e.2))) a = h (SMap.get d m a) := by
  induction m with
  | nil => simp [hd]
  | cons e m ih =>
    obtain ⟨j, v⟩ := e
    simp only [List.map_cons, SMap.get, ih]
    split <;> rfl

/-! ### The canonical form -/

/-- Keys strictly rising, as a relation between neighbours and all later keys. -/
theorem SMap.sorted_iff (m : SMap α) : SMap.sorted m = true ↔ m.Pairwise (fun a b => a.1 < b.1) := by
  induction m with
  | nil => simp [SMap.sorted]
  | cons e m ih =>
    obtain ⟨k, v⟩ := e
    cases m with
    | nil => simp [SMap.sorted]
    | cons e' m =>
      obtain ⟨k', v'⟩ := e'
      simp only [SMap.sorted, Bool.and_eq_true, decide_eq_true_eq, ih]
      constructor
      · rintro ⟨h, hp⟩
        refine List.pairwise_cons.2 ⟨?_, hp⟩
        intro x hx
        rcases List.mem_cons.1 hx with rfl | hx
        · exact h
        · exact Nat.lt_trans h (List.rel_of_pairwise_cons hp hx)
      · intro hp
        have hp' := List.pairwise_cons.1 hp
        exact ⟨hp'.1 (k', v') (List.mem_cons_self ..), hp'.2⟩

theorem SMap.wf_iff [DecidableEq α] (d : α) (m : SMap α) :
    SMap.wf d m = true ↔ m.Pairwise (fun a b => a.1 < b.1) ∧ ∀ e ∈ m, e.2 ≠ d := by
  simp [SMap.wf, SMap.sorted_iff]

@[simp] theorem SMap.wf_nil [DecidableEq α] (d : α) : SMap.wf d ([] : SMap α) = true := by simp [SMap.wf_iff]

theorem SMap.mem_insert {k : Nat} {v : α} {m : SMap α} {e : Nat × α} (h : e ∈ SMap.insert k v m) :
    e = (k, v) ∨ e ∈ m := by
  induction m with
  | nil => left; simpa [SMap.insert] using h
  | cons x m ih =>
    obtain ⟨j, w⟩ := x
    simp only [SMap.insert] at h
    split at h
    · rcases List.mem_cons.1 h with h | h
      · exact .inl h
      · exact .inr h
    · split at h
      · rcases List.mem_cons.1 h with h | h
        · exact .inl h
        · exact .inr (List.mem_cons_of_mem _ h)
      · rcases List.mem_cons.1 h with h | h
        · exact .inr (by simp [h])
        · rcases ih h with h | h
          · exact .inl h
          · exact .inr (List.mem_cons_of_mem _ h)

theorem SMap.pairwise_insert (k : Nat) (v : α) (m : SMap α) (h : m.Pairwise (fun a b => a.1 < b.1)) :
    (SMap.insert k v m).Pairwise (fun a b => a.1 < b.1) := by
  induction m with
  | nil => simp [SMap.insert]
  | cons x m ih =>
    obtain ⟨j, w⟩ := x
    have hp := List.pairwise_cons.1 h
    simp only [SMap.insert]
    split
    · rename_i hlt
      refine List.pairwise_cons.2 ⟨?_, h⟩
      intro e he
      rcases List.mem_cons.1 he with rfl | he
      · exact hlt
      · exact Nat.lt_trans hlt (hp.1 e he)
    · split
      · rename_i hnlt heq
        subst heq
        exact List.pairwise_cons.2 ⟨hp.1, hp.2⟩
      · rename_i hnlt hne
        refine List.pairwise_cons.2 ⟨?_, ih hp.2⟩
        intro e he
        rcases SMap.mem_insert he with rfl | he
        · simp; omega
        · exact hp.1 e he

/-- A part of a map in canonical form is in canonical form. -/
theorem SMap.wf_filter [DecidableEq α] (d : α) (m : SMap α) (p : Nat × α → Bool) (h : SMap.wf d m = true) :
    SMap.wf d (m.filter p) = true := by
  rw [SMap.wf_iff] at *
  exact ⟨h.1.filter _, fun e he => h.2 e (List.mem_of_mem_filter he)⟩

/-- A write keeps the canonical form. -/
theorem SMap.wf_set [DecidableEq α] (d : α) (m : SMap α) (k : Nat) (v : α) (h : SMap.wf d m = true) :
    SMap.wf d (SMap.set d m k v) = true := by
  unfold SMap.set
  split
  · exact SMap.wf_filter d m _ h
  · rename_i hv
    rw [SMap.wf_iff] at *
    refine ⟨SMap.pairwise_insert k v m h.1, fun e he => ?_⟩
    rcases SMap.mem_insert he with rfl | he
    · exact hv
    · exact h.2 e he

/-- A fold of writes keeps the canonical form. -/
theorem SMap.wf_foldl {β : Type} [DecidableEq α] (d : α) (xs : List β) (k : β → Nat) (v : β → α) (m : SMap α)
    (h : SMap.wf d m = true) : SMap.wf d (xs.foldl (fun m x => SMap.set d m (k x) (v x)) m) = true := by
  induction xs generalizing m with
  | nil => exact h
  | cons x xs ih => exact ih _ (SMap.wf_set d m _ _ h)

theorem SMap.mem_lastOf {m : SMap α} {e : Nat × α} (h : e ∈ SMap.lastOf m) : e ∈ m := by
  induction m using SMap.lastOf.induct with
  | case1 => simp [SMap.lastOf] at h
  | case2 x => simpa [SMap.lastOf] using h
  | case3 x y m heq ih =>
    simp only [SMap.lastOf, heq, ↓reduceIte] at h
    exact List.mem_cons_of_mem _ (ih h)
  | case4 x y m hne ih =>
    simp only [SMap.lastOf, hne, ↓reduceIte] at h
    rcases List.mem_cons.1 h with h | h
    · simp [h]
    · exact List.mem_cons_of_mem _ (ih h)

theorem SMap.pairwise_lastOf (m : SMap α) (h : m.Pairwise (fun a b => a.1 ≤ b.1)) :
    (SMap.lastOf m).Pairwise (fun a b => a.1 < b.1) := by
  induction m using SMap.lastOf.induct with
  | case1 => simp [SMap.lastOf]
  | case2 x => simp [SMap.lastOf]
  | case3 x y m heq ih =>
    simp only [SMap.lastOf, heq, ↓reduceIte]
    exact ih (List.pairwise_cons.1 h).2
  | case4 x y m hne ih =>
    have hp := List.pairwise_cons.1 h
    simp only [SMap.lastOf, hne, ↓reduceIte]
    refine List.pairwise_cons.2 ⟨fun e he => ?_, ih hp.2⟩
    have hxy : x.1 ≤ y.1 := hp.1 y (by simp)
    have hye : y.1 ≤ e.1 := by
      rcases List.mem_cons.1 (SMap.mem_lastOf he) with rfl | hm
      · exact Nat.le_refl _
      · exact (List.pairwise_cons.1 hp.2).1 e hm
    omega

/-- Joining two maps gives the canonical form, whatever they were. -/
theorem SMap.wf_join [DecidableEq α] (d : α) (m n : SMap α) : SMap.wf d (SMap.join d m n) = true := by
  rw [SMap.wf_iff]
  constructor
  · refine (SMap.pairwise_lastOf _ ?_).filter _
    have := List.pairwise_mergeSort (le := fun (a b : Nat × α) => decide (a.1 ≤ b.1))
      (by intro a b c; simp; omega) (by intro a b; simp; omega) (m ++ n)
    simpa using this
  · intro e he
    simpa using (List.mem_filter.1 he).2

end Sys2Proof
end

