-- ==== Sys2Proof/Laws/Issue.lean ====
section
/-! SUPPORT. What issuing a word does: a word that goes through does its own effect, and its completion moves bookkeeping only. -/

namespace Sys2Proof.Machine

open Sys2Proof

/-! ### Lookups after updates -/

@[simp] theorem group_setGroup_same (s : State) (k : Nat) (g : Group) : (s.setGroup k g).group? k = some g := by
  simp [State.group?, State.setGroup]

theorem group_setGroup_other (s : State) {k j : Nat} (g : Group) (h : j ≠ k) : (s.setGroup k g).group? j = s.group? j := by
  simp [State.group?, State.setGroup, SMap.get_set, h]

@[simp] theorem outside_setGroup (s : State) (k : Nat) (g : Group) : (s.setGroup k g).outside = s.outside := rfl

@[simp] theorem outside_post (s : State) (e : Instr) : (s.post e).outside = s.outside := rfl

@[simp] theorem group_post (s : State) (e : Instr) (k : Nat) : (s.post e).group? k = s.group? k := rfl

@[simp] theorem clk_post (s : State) (e : Instr) : (s.post e).clk = s.clk := rfl

@[simp] theorem clk_setGroup (s : State) (k : Nat) (g : Group) : (s.setGroup k g).clk = s.clk := rfl

@[simp] theorem outside_setQuarter (s : State) (k : Nat) (q : Quarter) : (s.setQuarter k q).outside = s.outside := rfl

@[simp] theorem group_setQuarter (s : State) (k j : Nat) (q : Quarter) : (s.setQuarter k q).group? j = s.group? j := rfl

@[simp] theorem clk_setQuarter (s : State) (k : Nat) (q : Quarter) : (s.setQuarter k q).clk = s.clk := rfl

/-! ### Bookkeeping of a group -/

@[simp] theorem books_nextSel (g : Group) (x : PcSel) : ({ g with nextSel := x } : Group).books = g.books := rfl

@[simp] theorem books_token (g : Group) (x : Option Token) : ({ g with token := x } : Group).books = g.books := rfl

/-- Two states that hold the same but for bookkeeping of one group, the run, the clock, the quarters and the agenda. -/
structure Same (k : Nat) (s t : State) : Prop where
  own    : (t.group? k).map Group.books = (s.group? k).map Group.books
  others : ∀ j, j ≠ k → t.group? j = s.group? j
  rest   : t.outside = s.outside
  clk    : t.clk = s.clk

theorem Same.refl (k : Nat) (s : State) : Same k s s := ⟨rfl, fun _ _ => rfl, rfl, rfl⟩

theorem Same.trans {k : Nat} {s t u : State} (h : Same k s t) (h' : Same k t u) : Same k s u :=
  ⟨h'.own.trans h.own, fun j hj => (h'.others j hj).trans (h.others j hj), h'.rest.trans h.rest, h'.clk.trans h.clk⟩

/-- Setting a group to one that differs in bookkeeping only. -/
theorem Same.setGroup {k : Nat} {s : State} {g g' : Group} (h : s.group? k = some g) (hb : g'.books = g.books) :
    Same k s (s.setGroup k g') :=
  ⟨by simp [h, hb], fun _ hj => group_setGroup_other s g' hj, rfl, rfl⟩

theorem Same.post {k : Nat} (s : State) (e : Instr) : Same k s (s.post e) := ⟨rfl, fun _ _ => rfl, rfl, rfl⟩

theorem same_noteIssue (s : State) (k : Nat) (sel : PcSel) (lvl : Nat) : Same k s (s.noteIssue k sel lvl) := by
  unfold State.noteIssue
  split
  · exact Same.refl k s
  · rename_i g h
    refine Same.trans (t := s.setQuarter (quarterKey g.coreId g.quarter) { s.quarter (quarterKey g.coreId g.quarter) with last := g.slot })
      ⟨rfl, fun _ _ => rfl, rfl, rfl⟩ (Same.setGroup (g := g) (by simpa using h) rfl)

theorem same_noteLoad (s : State) (e : Env) (c : Option Cursor) : Same e.gid s (s.noteLoad e c) := by
  unfold State.noteLoad
  split
  · exact Same.refl _ _
  · rename_i g h
    have h1 : Same e.gid s (if (isLoadCode e.op.code && c.any (fun c => !c.load)) = true then
        s.setGroup e.gid { g with token := g.token.map (fun t => { t with runs := t.runs + 1 }) } else s) := by
      split
      · exact Same.setGroup h rfl
      · exact Same.refl _ _
    dsimp only
    generalize (if (isLoadCode e.op.code && c.any (fun c => !c.load)) = true then
        s.setGroup e.gid { g with token := g.token.map (fun t => { t with runs := t.runs + 1 }) } else s) = s1 at h1 ⊢
    refine h1.trans ?_
    split
    · rename_i g' hc hg
      split
      · exact Same.setGroup hg rfl
      · exact Same.refl _ _
    · exact Same.refl _ _

theorem setSlot_slotOf (g : Group) (sel : PcSel) (p : PcSlot) : (g.setSlot sel p).slotOf sel = p := by cases sel <;> rfl

/-- Counts of R236 in a slot are bookkeeping. -/
theorem books_setSlot (g : Group) (sel : PcSel) (p : PcSlot) (h : p.plain = (g.slotOf sel).plain) :
    (g.setSlot sel p).books = g.books := by
  cases sel <;> simp [Group.setSlot, Group.books, Group.slotOf] at * <;> simp [h]

theorem books_spin (g0 g1 : Group) (e : Env) : (Group.spin g0 g1 e).books = g1.books := by
  have key : ∀ g2 : Group, (if (g2.slotOf (otherSel e.sel)).status = .demoted then
      g2.setSlot (otherSel e.sel) { g2.slotOf (otherSel e.sel) with sib := (g2.slotOf (otherSel e.sel)).sib + 1 }
      else g2).books = g2.books := by
    intro g2
    split
    · exact books_setSlot _ _ _ rfl
    · rfl
  refine (key _).trans ?_
  split
  · rfl
  · exact books_setSlot _ _ _ rfl

/-- The completion of a word moves bookkeeping only. -/
theorem same_retire (s : State) (e : Env) (g0 : Group) (h : StepOff g0) :
    Same e.gid { s with clk := s.clk + g0.beats } (s.retire e g0) := by
  have hn : (g0.lvl = 0 && g0.troute.getLsbD 16) = false := by
    by_cases hl : g0.lvl = 0
    · rw [h hl, Bool.and_false]
    · simp [hl]
  unfold State.retire
  dsimp only
  have h1 : Same e.gid { s with clk := s.clk + g0.beats }
      (({ s with cur := e.runOn s, clk := s.clk + g0.beats }.noteIssue e.gid e.sel g0.lvl).noteLoad e s.cur) :=
    Same.trans (Same.trans (t := { s with cur := e.runOn s, clk := s.clk + g0.beats }) ⟨rfl, fun _ _ => rfl, rfl, rfl⟩
      (same_noteIssue _ _ _ _)) (same_noteLoad _ _ _)
  generalize (({ s with cur := e.runOn s, clk := s.clk + g0.beats }.noteIssue e.gid e.sel g0.lvl).noteLoad e s.cur) = s1 at h1 ⊢
  split
  · exact h1
  · rename_i g1 hg
    split
    · exact h1
    · rw [if_neg (by simpa using hn)]
      have hb : (if g1.lvl = g0.lvl then Group.spin g0 g1 e else g1).books = g1.books := by
        split
        · exact books_spin g0 g1 e
        · rfl
      generalize (if g1.lvl = g0.lvl then Group.spin g0 g1 e else g1) = g2 at hb ⊢
      refine h1.trans ((Same.setGroup hg hb).trans ?_)
      have hp : ∀ (t : State) (b : Bool) (ev : Instr), Same e.gid t (if b = true then t.post ev else t) := by
        intro t b ev
        split
        · exact Same.post t ev
        · exact Same.refl _ _
      have hw : ∀ t : State, Same e.gid t (match g2.watchdogDue t.clk with
          | some l => t.post (.watchdogExpiry e.gid l)
          | none => t) := by
        intro t
        split
        · exact Same.post t _
        · exact Same.refl _ _
      exact (hp _ _ _).trans ((hp _ _ _).trans (hw _))

/-! ### Issue -/

/-- The end of a replay moves bookkeeping only. -/
theorem same_endReplay (s : State) (k : Nat) (sel : PcSel) (g0 : Group) : Same k s (s.endReplay k sel g0) := by
  unfold State.endReplay
  split
  · rename_i g h
    dsimp only
    split
    · exact Same.setGroup h (books_setSlot _ _ _ rfl)
    · exact Same.refl _ _
  · exact Same.refl _ _

/-- A word that goes through does its effect. -/
theorem issue_ready {s : State} {c : Cursor} {g : Group} {op : Op} {f : Fields} {body : Env → Group → State → Res}
    (h : Ready s c g op f) : issue op f body s =
      (let e := c.env g op f
       let g' := g.begun e
       match body e g' (s.setGroup c.gid g') with
       | .ok s' => .next ((s'.endReplay c.gid c.sel g).retire e g)
       | .trap t s' => .next (((s'.endReplay c.gid c.sel g).account e g).takeTrap c.gid c.sel t e.pc e.word f.lit)
       | .wait s' => .next ((s'.setGroup c.gid g).stall c.gid c.sel (isLongWait op.code))
       | .waitAll s' => .next ((s'.setGroup c.gid { g with holdSel := some c.sel }).stall c.gid c.sel (isLongWait op.code))
       | .hold s' => .next ((s'.backTo e).stall c.gid c.sel (isLongWait op.code))) := by
  have htok : (isLoadCode op.code && g.token.isNone) = false := by
    by_cases hl : isLoadCode op.code = true
    · have := h.token hl
      cases hg : g.token <;> simp_all
    · simp [hl]
  unfold issue
  simp only [h.running, h.cur, h.group, h.free, h.unit, h.notHeld, h.plain, h.checked, htok, Bool.not_true, Bool.false_eq_true,
    ↓reduceIte, Bool.or_self, Bool.false_and]
  all_goals cases body (c.env g op f) (g.begun (c.env g op f)) (s.setGroup c.gid (g.begun (c.env g op f))) <;> rfl

/-- A word that goes through and whose effect completes. -/
theorem issue_completes {i : Instr} {s sE : State} {c : Cursor} {g : Group} {op : Op} {f : Fields}
    {body : Env → Group → State → Res} (h : Ready s c g op f) (hs : StepOff g) (hi : exec i s = issue op f body s)
    (hb : body (c.env g op f) (g.begun (c.env g op f)) (s.setGroup c.gid (g.begun (c.env g op f))) = .ok sE) :
    Completes i s sE c g := by
  refine ⟨(sE.endReplay c.gid c.sel g).retire (c.env g op f) g, ?_, ?_⟩
  · rw [hi, issue_ready h]; simp only [hb]
  · have h1 := same_endReplay sE c.gid c.sel g
    have := same_retire (sE.endReplay c.gid c.sel g) (c.env g op f) g hs
    exact ⟨this.own.trans h1.own, fun j hj => (this.others j hj).trans (h1.others j hj), this.rest.trans h1.rest,
      this.clk.trans (congrArg (· + g.beats) h1.clk)⟩

theorem Completes.congr {i : Instr} {s sE sE' : State} {c : Cursor} {g : Group} (h : Completes i s sE c g)
    (hg : ∀ k, sE'.group? k = sE.group? k) (ho : sE'.outside = sE.outside) (hc : sE'.clk = sE.clk) :
    Completes i s sE' c g := by
  obtain ⟨t, h1, h2, h3, h4, h5⟩ := h
  exact ⟨t, h1, by rw [h2, hg], fun k hk => by rw [h3 k hk, hg], by rw [h4, ho], by rw [h5, hc]⟩

/-- A word whose effect is on its group alone, and completes. -/
theorem issueReg_does {i : Instr} {s : State} {c : Cursor} {g gE : Group} {op : Op} {f : Fields}
    {body : PcSel → Group → GRes} (h : Ready s c g op f) (hs : StepOff g) (hi : exec i s = issueReg op f body s)
    (hb : body c.sel (g.begun (c.env g op f)) = .done gE) : Does i s c g gE := by
  have hb' : (match body c.sel (g.begun (c.env g op f)) with
      | .done g' => Res.ok ((s.setGroup c.gid (g.begun (c.env g op f))).setGroup c.gid g')
      | .trap t g' => .trap t ((s.setGroup c.gid (g.begun (c.env g op f))).setGroup c.gid g')
      | .wait => .wait (s.setGroup c.gid (g.begun (c.env g op f)))) =
      .ok ((s.setGroup c.gid (g.begun (c.env g op f))).setGroup c.gid gE) := by rw [hb]
  refine (issue_completes h hs hi hb').congr ?_ rfl rfl
  intro k
  by_cases hk : k = c.gid
  · subst hk; simp
  · rw [group_setGroup_other _ _ hk, group_setGroup_other _ _ hk, group_setGroup_other _ _ hk]

/-- A word that always completes, on its group alone. -/
theorem issueSimple_does {i : Instr} {s : State} {c : Cursor} {g : Group} {op : Op} {f : Fields}
    {body : PcSel → Group → Group} (h : Ready s c g op f) (hs : StepOff g) (hi : exec i s = issueSimple op f body s) :
    Does i s c g (body c.sel (g.begun (c.env g op f))) := issueReg_does h hs hi rfl

end Sys2Proof.Machine
end

