-- ==== Sys2Proof/Laws/State.lean ====
section
/-! SUPPORT. What each update of the state leaves of it, field by field and lookup by lookup, and what a lookup gives after the update o :
    ! SUPPORT. What each update of the state leaves of it, field by field and lookup by lookup, and what a lookup gives after the update of
the same part. -/

namespace Sys2Proof.Machine

open Sys2Proof

/-! ### setGroup -/

@[simp] theorem setGroup_pkg (s : State) (k : Nat) (x : Group) : (s.setGroup k x).pkg = s.pkg := rfl
@[simp] theorem setGroup_host (s : State) (k : Nat) (x : Group) : (s.setGroup k x).host = s.host := rfl
@[simp] theorem setGroup_links (s : State) (k : Nat) (x : Group) : (s.setGroup k x).links = s.links := rfl
@[simp] theorem setGroup_fab (s : State) (k : Nat) (x : Group) : (s.setGroup k x).fab = s.fab := rfl
@[simp] theorem setGroup_mem (s : State) (k : Nat) (x : Group) : (s.setGroup k x).mem = s.mem := rfl
@[simp] theorem setGroup_banks (s : State) (k : Nat) (x : Group) : (s.setGroup k x).banks = s.banks := rfl
@[simp] theorem setGroup_bankMem (s : State) (k : Nat) (x : Group) : (s.setGroup k x).bankMem = s.bankMem := rfl
@[simp] theorem setGroup_cores (s : State) (k : Nat) (x : Group) : (s.setGroup k x).cores = s.cores := rfl
@[simp] theorem setGroup_quarters (s : State) (k : Nat) (x : Group) : (s.setGroup k x).quarters = s.quarters := rfl
@[simp] theorem setGroup_slices (s : State) (k : Nat) (x : Group) : (s.setGroup k x).slices = s.slices := rfl
@[simp] theorem setGroup_l2 (s : State) (k : Nat) (x : Group) : (s.setGroup k x).l2 = s.l2 := rfl
@[simp] theorem setGroup_dieDir (s : State) (k : Nat) (x : Group) : (s.setGroup k x).dieDir = s.dieDir := rfl
@[simp] theorem setGroup_asks (s : State) (k : Nat) (x : Group) : (s.setGroup k x).asks = s.asks := rfl
@[simp] theorem setGroup_arenas (s : State) (k : Nat) (x : Group) : (s.setGroup k x).arenas = s.arenas := rfl
@[simp] theorem setGroup_dies (s : State) (k : Nat) (x : Group) : (s.setGroup k x).dies = s.dies := rfl
@[simp] theorem setGroup_contexts (s : State) (k : Nat) (x : Group) : (s.setGroup k x).contexts = s.contexts := rfl
@[simp] theorem setGroup_launches (s : State) (k : Nat) (x : Group) : (s.setGroup k x).launches = s.launches := rfl
@[simp] theorem setGroup_teams (s : State) (k : Nat) (x : Group) : (s.setGroup k x).teams = s.teams := rfl
@[simp] theorem setGroup_specs (s : State) (k : Nat) (x : Group) : (s.setGroup k x).specs = s.specs := rfl
@[simp] theorem setGroup_pkgTick (s : State) (k : Nat) (x : Group) : (s.setGroup k x).pkgTick = s.pkgTick := rfl
@[simp] theorem setGroup_pairTick (s : State) (k : Nat) (x : Group) : (s.setGroup k x).pairTick = s.pairTick := rfl
@[simp] theorem setGroup_agenda (s : State) (k : Nat) (x : Group) : (s.setGroup k x).agenda = s.agenda := rfl
@[simp] theorem setGroup_cur (s : State) (k : Nat) (x : Group) : (s.setGroup k x).cur = s.cur := rfl
@[simp] theorem setGroup_freeCtr (s : State) (k : Nat) (x : Group) : (s.setGroup k x).freeCtr = s.freeCtr := rfl
@[simp] theorem setGroup_coreAt (s : State) (k : Nat) (x : Group) (j : Nat) : (s.setGroup k x).core j = s.core j := rfl
@[simp] theorem setGroup_quarter (s : State) (k : Nat) (x : Group) (j : Nat) : (s.setGroup k x).quarter j = s.quarter j := rfl
@[simp] theorem setGroup_slice (s : State) (k : Nat) (x : Group) (j : Nat) : (s.setGroup k x).slice j = s.slice j := rfl
@[simp] theorem setGroup_die (s : State) (k : Nat) (x : Group) (j : Nat) : (s.setGroup k x).die j = s.die j := rfl
@[simp] theorem setGroup_contextOf (s : State) (k : Nat) (x : Group) (j : Nat) : (s.setGroup k x).context? j = s.context? j := rfl
@[simp] theorem setGroup_launchOf (s : State) (k : Nat) (x : Group) (j : Nat) : (s.setGroup k x).launch? j = s.launch? j := rfl
@[simp] theorem setGroup_teamOf (s : State) (k : Nat) (x : Group) (j : Nat) : (s.setGroup k x).team? j = s.team? j := rfl
@[simp] theorem setGroup_bank (s : State) (k : Nat) (x : Group) (j : Nat) : (s.setGroup k x).bank j = s.bank j := rfl
@[simp] theorem setGroup_l2At (s : State) (k : Nat) (x : Group) (j : Nat) : (s.setGroup k x).l2At j = s.l2At j := rfl
@[simp] theorem setGroup_dieEntry (s : State) (k : Nat) (x : Group) (j : Nat) : (s.setGroup k x).dieEntry j = s.dieEntry j := rfl
@[simp] theorem setGroup_link (s : State) (k : Nat) (x : Group) (j : Nat) : (s.setGroup k x).link j = s.link j := rfl
@[simp] theorem setGroup_dramByte (s : State) (k : Nat) (x : Group) (j : Nat) : (s.setGroup k x).dramByte j = s.dramByte j := rfl
@[simp] theorem setGroup_hostByte (s : State) (k : Nat) (x : Group) (j : Nat) : (s.setGroup k x).hostByte j = s.hostByte j := rfl

/-! ### removeGroup -/

@[simp] theorem removeGroup_pkg (s : State) (k : Nat) : (s.removeGroup k).pkg = s.pkg := rfl
@[simp] theorem removeGroup_host (s : State) (k : Nat) : (s.removeGroup k).host = s.host := rfl
@[simp] theorem removeGroup_links (s : State) (k : Nat) : (s.removeGroup k).links = s.links := rfl
@[simp] theorem removeGroup_fab (s : State) (k : Nat) : (s.removeGroup k).fab = s.fab := rfl
@[simp] theorem removeGroup_mem (s : State) (k : Nat) : (s.removeGroup k).mem = s.mem := rfl
@[simp] theorem removeGroup_banks (s : State) (k : Nat) : (s.removeGroup k).banks = s.banks := rfl
@[simp] theorem removeGroup_bankMem (s : State) (k : Nat) : (s.removeGroup k).bankMem = s.bankMem := rfl
@[simp] theorem removeGroup_cores (s : State) (k : Nat) : (s.removeGroup k).cores = s.cores := rfl
@[simp] theorem removeGroup_quarters (s : State) (k : Nat) : (s.removeGroup k).quarters = s.quarters := rfl
@[simp] theorem removeGroup_slices (s : State) (k : Nat) : (s.removeGroup k).slices = s.slices := rfl
@[simp] theorem removeGroup_l2 (s : State) (k : Nat) : (s.removeGroup k).l2 = s.l2 := rfl
@[simp] theorem removeGroup_dieDir (s : State) (k : Nat) : (s.removeGroup k).dieDir = s.dieDir := rfl
@[simp] theorem removeGroup_asks (s : State) (k : Nat) : (s.removeGroup k).asks = s.asks := rfl
@[simp] theorem removeGroup_arenas (s : State) (k : Nat) : (s.removeGroup k).arenas = s.arenas := rfl
@[simp] theorem removeGroup_dies (s : State) (k : Nat) : (s.removeGroup k).dies = s.dies := rfl
@[simp] theorem removeGroup_contexts (s : State) (k : Nat) : (s.removeGroup k).contexts = s.contexts := rfl
@[simp] theorem removeGroup_launches (s : State) (k : Nat) : (s.removeGroup k).launches = s.launches := rfl
@[simp] theorem removeGroup_teams (s : State) (k : Nat) : (s.removeGroup k).teams = s.teams := rfl
@[simp] theorem removeGroup_specs (s : State) (k : Nat) : (s.removeGroup k).specs = s.specs := rfl
@[simp] theorem removeGroup_pkgTick (s : State) (k : Nat) : (s.removeGroup k).pkgTick = s.pkgTick := rfl
@[simp] theorem removeGroup_pairTick (s : State) (k : Nat) : (s.removeGroup k).pairTick = s.pairTick := rfl
@[simp] theorem removeGroup_clk (s : State) (k : Nat) : (s.removeGroup k).clk = s.clk := rfl
@[simp] theorem removeGroup_agenda (s : State) (k : Nat) : (s.removeGroup k).agenda = s.agenda := rfl
@[simp] theorem removeGroup_cur (s : State) (k : Nat) : (s.removeGroup k).cur = s.cur := rfl
@[simp] theorem removeGroup_freeCtr (s : State) (k : Nat) : (s.removeGroup k).freeCtr = s.freeCtr := rfl
@[simp] theorem removeGroup_coreAt (s : State) (k : Nat) (j : Nat) : (s.removeGroup k).core j = s.core j := rfl
@[simp] theorem removeGroup_quarter (s : State) (k : Nat) (j : Nat) : (s.removeGroup k).quarter j = s.quarter j := rfl
@[simp] theorem removeGroup_slice (s : State) (k : Nat) (j : Nat) : (s.removeGroup k).slice j = s.slice j := rfl
@[simp] theorem removeGroup_die (s : State) (k : Nat) (j : Nat) : (s.removeGroup k).die j = s.die j := rfl
@[simp] theorem removeGroup_contextOf (s : State) (k : Nat) (j : Nat) : (s.removeGroup k).context? j = s.context? j := rfl
@[simp] theorem removeGroup_launchOf (s : State) (k : Nat) (j : Nat) : (s.removeGroup k).launch? j = s.launch? j := rfl
@[simp] theorem removeGroup_teamOf (s : State) (k : Nat) (j : Nat) : (s.removeGroup k).team? j = s.team? j := rfl
@[simp] theorem removeGroup_bank (s : State) (k : Nat) (j : Nat) : (s.removeGroup k).bank j = s.bank j := rfl
@[simp] theorem removeGroup_l2At (s : State) (k : Nat) (j : Nat) : (s.removeGroup k).l2At j = s.l2At j := rfl
@[simp] theorem removeGroup_dieEntry (s : State) (k : Nat) (j : Nat) : (s.removeGroup k).dieEntry j = s.dieEntry j := rfl
@[simp] theorem removeGroup_link (s : State) (k : Nat) (j : Nat) : (s.removeGroup k).link j = s.link j := rfl
@[simp] theorem removeGroup_dramByte (s : State) (k : Nat) (j : Nat) : (s.removeGroup k).dramByte j = s.dramByte j := rfl
@[simp] theorem removeGroup_hostByte (s : State) (k : Nat) (j : Nat) : (s.removeGroup k).hostByte j = s.hostByte j := rfl

/-! ### setCore -/

@[simp] theorem setCore_pkg (s : State) (k : Nat) (x : Core) : (s.setCore k x).pkg = s.pkg := rfl
@[simp] theorem setCore_host (s : State) (k : Nat) (x : Core) : (s.setCore k x).host = s.host := rfl
@[simp] theorem setCore_links (s : State) (k : Nat) (x : Core) : (s.setCore k x).links = s.links := rfl
@[simp] theorem setCore_fab (s : State) (k : Nat) (x : Core) : (s.setCore k x).fab = s.fab := rfl
@[simp] theorem setCore_mem (s : State) (k : Nat) (x : Core) : (s.setCore k x).mem = s.mem := rfl
@[simp] theorem setCore_banks (s : State) (k : Nat) (x : Core) : (s.setCore k x).banks = s.banks := rfl
@[simp] theorem setCore_bankMem (s : State) (k : Nat) (x : Core) : (s.setCore k x).bankMem = s.bankMem := rfl
@[simp] theorem setCore_quarters (s : State) (k : Nat) (x : Core) : (s.setCore k x).quarters = s.quarters := rfl
@[simp] theorem setCore_slices (s : State) (k : Nat) (x : Core) : (s.setCore k x).slices = s.slices := rfl
@[simp] theorem setCore_l2 (s : State) (k : Nat) (x : Core) : (s.setCore k x).l2 = s.l2 := rfl
@[simp] theorem setCore_dieDir (s : State) (k : Nat) (x : Core) : (s.setCore k x).dieDir = s.dieDir := rfl
@[simp] theorem setCore_asks (s : State) (k : Nat) (x : Core) : (s.setCore k x).asks = s.asks := rfl
@[simp] theorem setCore_arenas (s : State) (k : Nat) (x : Core) : (s.setCore k x).arenas = s.arenas := rfl
@[simp] theorem setCore_dies (s : State) (k : Nat) (x : Core) : (s.setCore k x).dies = s.dies := rfl
@[simp] theorem setCore_contexts (s : State) (k : Nat) (x : Core) : (s.setCore k x).contexts = s.contexts := rfl
@[simp] theorem setCore_launches (s : State) (k : Nat) (x : Core) : (s.setCore k x).launches = s.launches := rfl
@[simp] theorem setCore_teams (s : State) (k : Nat) (x : Core) : (s.setCore k x).teams = s.teams := rfl
@[simp] theorem setCore_groups (s : State) (k : Nat) (x : Core) : (s.setCore k x).groups = s.groups := rfl
@[simp] theorem setCore_specs (s : State) (k : Nat) (x : Core) : (s.setCore k x).specs = s.specs := rfl
@[simp] theorem setCore_pkgTick (s : State) (k : Nat) (x : Core) : (s.setCore k x).pkgTick = s.pkgTick := rfl
@[simp] theorem setCore_pairTick (s : State) (k : Nat) (x : Core) : (s.setCore k x).pairTick = s.pairTick := rfl
@[simp] theorem setCore_clk (s : State) (k : Nat) (x : Core) : (s.setCore k x).clk = s.clk := rfl
@[simp] theorem setCore_agenda (s : State) (k : Nat) (x : Core) : (s.setCore k x).agenda = s.agenda := rfl
@[simp] theorem setCore_cur (s : State) (k : Nat) (x : Core) : (s.setCore k x).cur = s.cur := rfl
@[simp] theorem setCore_freeCtr (s : State) (k : Nat) (x : Core) : (s.setCore k x).freeCtr = s.freeCtr := rfl
@[simp] theorem setCore_groupOf (s : State) (k : Nat) (x : Core) (j : Nat) : (s.setCore k x).group? j = s.group? j := rfl
@[simp] theorem setCore_quarter (s : State) (k : Nat) (x : Core) (j : Nat) : (s.setCore k x).quarter j = s.quarter j := rfl
@[simp] theorem setCore_slice (s : State) (k : Nat) (x : Core) (j : Nat) : (s.setCore k x).slice j = s.slice j := rfl
@[simp] theorem setCore_die (s : State) (k : Nat) (x : Core) (j : Nat) : (s.setCore k x).die j = s.die j := rfl
@[simp] theorem setCore_contextOf (s : State) (k : Nat) (x : Core) (j : Nat) : (s.setCore k x).context? j = s.context? j := rfl
@[simp] theorem setCore_launchOf (s : State) (k : Nat) (x : Core) (j : Nat) : (s.setCore k x).launch? j = s.launch? j := rfl
@[simp] theorem setCore_teamOf (s : State) (k : Nat) (x : Core) (j : Nat) : (s.setCore k x).team? j = s.team? j := rfl
@[simp] theorem setCore_bank (s : State) (k : Nat) (x : Core) (j : Nat) : (s.setCore k x).bank j = s.bank j := rfl
@[simp] theorem setCore_l2At (s : State) (k : Nat) (x : Core) (j : Nat) : (s.setCore k x).l2At j = s.l2At j := rfl
@[simp] theorem setCore_dieEntry (s : State) (k : Nat) (x : Core) (j : Nat) : (s.setCore k x).dieEntry j = s.dieEntry j := rfl
@[simp] theorem setCore_link (s : State) (k : Nat) (x : Core) (j : Nat) : (s.setCore k x).link j = s.link j := rfl
@[simp] theorem setCore_dramByte (s : State) (k : Nat) (x : Core) (j : Nat) : (s.setCore k x).dramByte j = s.dramByte j := rfl
@[simp] theorem setCore_hostByte (s : State) (k : Nat) (x : Core) (j : Nat) : (s.setCore k x).hostByte j = s.hostByte j := rfl

/-! ### setQuarter -/

@[simp] theorem setQuarter_pkg (s : State) (k : Nat) (x : Quarter) : (s.setQuarter k x).pkg = s.pkg := rfl
@[simp] theorem setQuarter_host (s : State) (k : Nat) (x : Quarter) : (s.setQuarter k x).host = s.host := rfl
@[simp] theorem setQuarter_links (s : State) (k : Nat) (x : Quarter) : (s.setQuarter k x).links = s.links := rfl
@[simp] theorem setQuarter_fab (s : State) (k : Nat) (x : Quarter) : (s.setQuarter k x).fab = s.fab := rfl
@[simp] theorem setQuarter_mem (s : State) (k : Nat) (x : Quarter) : (s.setQuarter k x).mem = s.mem := rfl
@[simp] theorem setQuarter_banks (s : State) (k : Nat) (x : Quarter) : (s.setQuarter k x).banks = s.banks := rfl
@[simp] theorem setQuarter_bankMem (s : State) (k : Nat) (x : Quarter) : (s.setQuarter k x).bankMem = s.bankMem := rfl
@[simp] theorem setQuarter_cores (s : State) (k : Nat) (x : Quarter) : (s.setQuarter k x).cores = s.cores := rfl
@[simp] theorem setQuarter_slices (s : State) (k : Nat) (x : Quarter) : (s.setQuarter k x).slices = s.slices := rfl
@[simp] theorem setQuarter_l2 (s : State) (k : Nat) (x : Quarter) : (s.setQuarter k x).l2 = s.l2 := rfl
@[simp] theorem setQuarter_dieDir (s : State) (k : Nat) (x : Quarter) : (s.setQuarter k x).dieDir = s.dieDir := rfl
@[simp] theorem setQuarter_asks (s : State) (k : Nat) (x : Quarter) : (s.setQuarter k x).asks = s.asks := rfl
@[simp] theorem setQuarter_arenas (s : State) (k : Nat) (x : Quarter) : (s.setQuarter k x).arenas = s.arenas := rfl
@[simp] theorem setQuarter_dies (s : State) (k : Nat) (x : Quarter) : (s.setQuarter k x).dies = s.dies := rfl
@[simp] theorem setQuarter_contexts (s : State) (k : Nat) (x : Quarter) : (s.setQuarter k x).contexts = s.contexts := rfl
@[simp] theorem setQuarter_launches (s : State) (k : Nat) (x : Quarter) : (s.setQuarter k x).launches = s.launches := rfl
@[simp] theorem setQuarter_teams (s : State) (k : Nat) (x : Quarter) : (s.setQuarter k x).teams = s.teams := rfl
@[simp] theorem setQuarter_groups (s : State) (k : Nat) (x : Quarter) : (s.setQuarter k x).groups = s.groups := rfl
@[simp] theorem setQuarter_specs (s : State) (k : Nat) (x : Quarter) : (s.setQuarter k x).specs = s.specs := rfl
@[simp] theorem setQuarter_pkgTick (s : State) (k : Nat) (x : Quarter) : (s.setQuarter k x).pkgTick = s.pkgTick := rfl
@[simp] theorem setQuarter_pairTick (s : State) (k : Nat) (x : Quarter) : (s.setQuarter k x).pairTick = s.pairTick := rfl
@[simp] theorem setQuarter_agenda (s : State) (k : Nat) (x : Quarter) : (s.setQuarter k x).agenda = s.agenda := rfl
@[simp] theorem setQuarter_cur (s : State) (k : Nat) (x : Quarter) : (s.setQuarter k x).cur = s.cur := rfl
@[simp] theorem setQuarter_freeCtr (s : State) (k : Nat) (x : Quarter) : (s.setQuarter k x).freeCtr = s.freeCtr := rfl
@[simp] theorem setQuarter_coreAt (s : State) (k : Nat) (x : Quarter) (j : Nat) : (s.setQuarter k x).core j = s.core j := rfl
@[simp] theorem setQuarter_slice (s : State) (k : Nat) (x : Quarter) (j : Nat) : (s.setQuarter k x).slice j = s.slice j := rfl
@[simp] theorem setQuarter_die (s : State) (k : Nat) (x : Quarter) (j : Nat) : (s.setQuarter k x).die j = s.die j := rfl
@[simp] theorem setQuarter_contextOf (s : State) (k : Nat) (x : Quarter) (j : Nat) :
    (s.setQuarter k x).context? j = s.context? j := rfl
@[simp] theorem setQuarter_launchOf (s : State) (k : Nat) (x : Quarter) (j : Nat) :
    (s.setQuarter k x).launch? j = s.launch? j := rfl
@[simp] theorem setQuarter_teamOf (s : State) (k : Nat) (x : Quarter) (j : Nat) : (s.setQuarter k x).team? j = s.team? j := rfl
@[simp] theorem setQuarter_bank (s : State) (k : Nat) (x : Quarter) (j : Nat) : (s.setQuarter k x).bank j = s.bank j := rfl
@[simp] theorem setQuarter_l2At (s : State) (k : Nat) (x : Quarter) (j : Nat) : (s.setQuarter k x).l2At j = s.l2At j := rfl
@[simp] theorem setQuarter_dieEntry (s : State) (k : Nat) (x : Quarter) (j : Nat) :
    (s.setQuarter k x).dieEntry j = s.dieEntry j := rfl
@[simp] theorem setQuarter_link (s : State) (k : Nat) (x : Quarter) (j : Nat) : (s.setQuarter k x).link j = s.link j := rfl
@[simp] theorem setQuarter_dramByte (s : State) (k : Nat) (x : Quarter) (j : Nat) :
    (s.setQuarter k x).dramByte j = s.dramByte j := rfl
@[simp] theorem setQuarter_hostByte (s : State) (k : Nat) (x : Quarter) (j : Nat) :
    (s.setQuarter k x).hostByte j = s.hostByte j := rfl

/-! ### setSlice -/

@[simp] theorem setSlice_pkg (s : State) (k : Nat) (x : Slice) : (s.setSlice k x).pkg = s.pkg := rfl
@[simp] theorem setSlice_host (s : State) (k : Nat) (x : Slice) : (s.setSlice k x).host = s.host := rfl
@[simp] theorem setSlice_links (s : State) (k : Nat) (x : Slice) : (s.setSlice k x).links = s.links := rfl
@[simp] theorem setSlice_fab (s : State) (k : Nat) (x : Slice) : (s.setSlice k x).fab = s.fab := rfl
@[simp] theorem setSlice_mem (s : State) (k : Nat) (x : Slice) : (s.setSlice k x).mem = s.mem := rfl
@[simp] theorem setSlice_banks (s : State) (k : Nat) (x : Slice) : (s.setSlice k x).banks = s.banks := rfl
@[simp] theorem setSlice_bankMem (s : State) (k : Nat) (x : Slice) : (s.setSlice k x).bankMem = s.bankMem := rfl
@[simp] theorem setSlice_cores (s : State) (k : Nat) (x : Slice) : (s.setSlice k x).cores = s.cores := rfl
@[simp] theorem setSlice_quarters (s : State) (k : Nat) (x : Slice) : (s.setSlice k x).quarters = s.quarters := rfl
@[simp] theorem setSlice_l2 (s : State) (k : Nat) (x : Slice) : (s.setSlice k x).l2 = s.l2 := rfl
@[simp] theorem setSlice_dieDir (s : State) (k : Nat) (x : Slice) : (s.setSlice k x).dieDir = s.dieDir := rfl
@[simp] theorem setSlice_asks (s : State) (k : Nat) (x : Slice) : (s.setSlice k x).asks = s.asks := rfl
@[simp] theorem setSlice_arenas (s : State) (k : Nat) (x : Slice) : (s.setSlice k x).arenas = s.arenas := rfl
@[simp] theorem setSlice_dies (s : State) (k : Nat) (x : Slice) : (s.setSlice k x).dies = s.dies := rfl
@[simp] theorem setSlice_contexts (s : State) (k : Nat) (x : Slice) : (s.setSlice k x).contexts = s.contexts := rfl
@[simp] theorem setSlice_launches (s : State) (k : Nat) (x : Slice) : (s.setSlice k x).launches = s.launches := rfl
@[simp] theorem setSlice_teams (s : State) (k : Nat) (x : Slice) : (s.setSlice k x).teams = s.teams := rfl
@[simp] theorem setSlice_groups (s : State) (k : Nat) (x : Slice) : (s.setSlice k x).groups = s.groups := rfl
@[simp] theorem setSlice_specs (s : State) (k : Nat) (x : Slice) : (s.setSlice k x).specs = s.specs := rfl
@[simp] theorem setSlice_pkgTick (s : State) (k : Nat) (x : Slice) : (s.setSlice k x).pkgTick = s.pkgTick := rfl
@[simp] theorem setSlice_pairTick (s : State) (k : Nat) (x : Slice) : (s.setSlice k x).pairTick = s.pairTick := rfl
@[simp] theorem setSlice_clk (s : State) (k : Nat) (x : Slice) : (s.setSlice k x).clk = s.clk := rfl
@[simp] theorem setSlice_agenda (s : State) (k : Nat) (x : Slice) : (s.setSlice k x).agenda = s.agenda := rfl
@[simp] theorem setSlice_cur (s : State) (k : Nat) (x : Slice) : (s.setSlice k x).cur = s.cur := rfl
@[simp] theorem setSlice_freeCtr (s : State) (k : Nat) (x : Slice) : (s.setSlice k x).freeCtr = s.freeCtr := rfl
@[simp] theorem setSlice_groupOf (s : State) (k : Nat) (x : Slice) (j : Nat) : (s.setSlice k x).group? j = s.group? j := rfl
@[simp] theorem setSlice_coreAt (s : State) (k : Nat) (x : Slice) (j : Nat) : (s.setSlice k x).core j = s.core j := rfl
@[simp] theorem setSlice_quarter (s : State) (k : Nat) (x : Slice) (j : Nat) : (s.setSlice k x).quarter j = s.quarter j := rfl
@[simp] theorem setSlice_die (s : State) (k : Nat) (x : Slice) (j : Nat) : (s.setSlice k x).die j = s.die j := rfl
@[simp] theorem setSlice_contextOf (s : State) (k : Nat) (x : Slice) (j : Nat) : (s.setSlice k x).context? j = s.context? j := rfl
@[simp] theorem setSlice_launchOf (s : State) (k : Nat) (x : Slice) (j : Nat) : (s.setSlice k x).launch? j = s.launch? j := rfl
@[simp] theorem setSlice_teamOf (s : State) (k : Nat) (x : Slice) (j : Nat) : (s.setSlice k x).team? j = s.team? j := rfl
@[simp] theorem setSlice_bank (s : State) (k : Nat) (x : Slice) (j : Nat) : (s.setSlice k x).bank j = s.bank j := rfl
@[simp] theorem setSlice_l2At (s : State) (k : Nat) (x : Slice) (j : Nat) : (s.setSlice k x).l2At j = s.l2At j := rfl
@[simp] theorem setSlice_dieEntry (s : State) (k : Nat) (x : Slice) (j : Nat) : (s.setSlice k x).dieEntry j = s.dieEntry j := rfl
@[simp] theorem setSlice_link (s : State) (k : Nat) (x : Slice) (j : Nat) : (s.setSlice k x).link j = s.link j := rfl
@[simp] theorem setSlice_dramByte (s : State) (k : Nat) (x : Slice) (j : Nat) : (s.setSlice k x).dramByte j = s.dramByte j := rfl
@[simp] theorem setSlice_hostByte (s : State) (k : Nat) (x : Slice) (j : Nat) : (s.setSlice k x).hostByte j = s.hostByte j := rfl

/-! ### setDie -/

@[simp] theorem setDie_pkg (s : State) (k : Nat) (x : DieState) : (s.setDie k x).pkg = s.pkg := rfl
@[simp] theorem setDie_host (s : State) (k : Nat) (x : DieState) : (s.setDie k x).host = s.host := rfl
@[simp] theorem setDie_links (s : State) (k : Nat) (x : DieState) : (s.setDie k x).links = s.links := rfl
@[simp] theorem setDie_fab (s : State) (k : Nat) (x : DieState) : (s.setDie k x).fab = s.fab := rfl
@[simp] theorem setDie_mem (s : State) (k : Nat) (x : DieState) : (s.setDie k x).mem = s.mem := rfl
@[simp] theorem setDie_banks (s : State) (k : Nat) (x : DieState) : (s.setDie k x).banks = s.banks := rfl
@[simp] theorem setDie_bankMem (s : State) (k : Nat) (x : DieState) : (s.setDie k x).bankMem = s.bankMem := rfl
@[simp] theorem setDie_cores (s : State) (k : Nat) (x : DieState) : (s.setDie k x).cores = s.cores := rfl
@[simp] theorem setDie_quarters (s : State) (k : Nat) (x : DieState) : (s.setDie k x).quarters = s.quarters := rfl
@[simp] theorem setDie_slices (s : State) (k : Nat) (x : DieState) : (s.setDie k x).slices = s.slices := rfl
@[simp] theorem setDie_l2 (s : State) (k : Nat) (x : DieState) : (s.setDie k x).l2 = s.l2 := rfl
@[simp] theorem setDie_dieDir (s : State) (k : Nat) (x : DieState) : (s.setDie k x).dieDir = s.dieDir := rfl
@[simp] theorem setDie_asks (s : State) (k : Nat) (x : DieState) : (s.setDie k x).asks = s.asks := rfl
@[simp] theorem setDie_arenas (s : State) (k : Nat) (x : DieState) : (s.setDie k x).arenas = s.arenas := rfl
@[simp] theorem setDie_contexts (s : State) (k : Nat) (x : DieState) : (s.setDie k x).contexts = s.contexts := rfl
@[simp] theorem setDie_launches (s : State) (k : Nat) (x : DieState) : (s.setDie k x).launches = s.launches := rfl
@[simp] theorem setDie_teams (s : State) (k : Nat) (x : DieState) : (s.setDie k x).teams = s.teams := rfl
@[simp] theorem setDie_groups (s : State) (k : Nat) (x : DieState) : (s.setDie k x).groups = s.groups := rfl
@[simp] theorem setDie_specs (s : State) (k : Nat) (x : DieState) : (s.setDie k x).specs = s.specs := rfl
@[simp] theorem setDie_pkgTick (s : State) (k : Nat) (x : DieState) : (s.setDie k x).pkgTick = s.pkgTick := rfl
@[simp] theorem setDie_pairTick (s : State) (k : Nat) (x : DieState) : (s.setDie k x).pairTick = s.pairTick := rfl
@[simp] theorem setDie_clk (s : State) (k : Nat) (x : DieState) : (s.setDie k x).clk = s.clk := rfl
@[simp] theorem setDie_agenda (s : State) (k : Nat) (x : DieState) : (s.setDie k x).agenda = s.agenda := rfl
@[simp] theorem setDie_cur (s : State) (k : Nat) (x : DieState) : (s.setDie k x).cur = s.cur := rfl
@[simp] theorem setDie_freeCtr (s : State) (k : Nat) (x : DieState) : (s.setDie k x).freeCtr = s.freeCtr := rfl
@[simp] theorem setDie_groupOf (s : State) (k : Nat) (x : DieState) (j : Nat) : (s.setDie k x).group? j = s.group? j := rfl
@[simp] theorem setDie_coreAt (s : State) (k : Nat) (x : DieState) (j : Nat) : (s.setDie k x).core j = s.core j := rfl
@[simp] theorem setDie_quarter (s : State) (k : Nat) (x : DieState) (j : Nat) : (s.setDie k x).quarter j = s.quarter j := rfl
@[simp] theorem setDie_slice (s : State) (k : Nat) (x : DieState) (j : Nat) : (s.setDie k x).slice j = s.slice j := rfl
@[simp] theorem setDie_contextOf (s : State) (k : Nat) (x : DieState) (j : Nat) : (s.setDie k x).context? j = s.context? j := rfl
@[simp] theorem setDie_launchOf (s : State) (k : Nat) (x : DieState) (j : Nat) : (s.setDie k x).launch? j = s.launch? j := rfl
@[simp] theorem setDie_teamOf (s : State) (k : Nat) (x : DieState) (j : Nat) : (s.setDie k x).team? j = s.team? j := rfl
@[simp] theorem setDie_bank (s : State) (k : Nat) (x : DieState) (j : Nat) : (s.setDie k x).bank j = s.bank j := rfl
@[simp] theorem setDie_l2At (s : State) (k : Nat) (x : DieState) (j : Nat) : (s.setDie k x).l2At j = s.l2At j := rfl
@[simp] theorem setDie_dieEntry (s : State) (k : Nat) (x : DieState) (j : Nat) : (s.setDie k x).dieEntry j = s.dieEntry j := rfl
@[simp] theorem setDie_link (s : State) (k : Nat) (x : DieState) (j : Nat) : (s.setDie k x).link j = s.link j := rfl
@[simp] theorem setDie_dramByte (s : State) (k : Nat) (x : DieState) (j : Nat) : (s.setDie k x).dramByte j = s.dramByte j := rfl
@[simp] theorem setDie_hostByte (s : State) (k : Nat) (x : DieState) (j : Nat) : (s.setDie k x).hostByte j = s.hostByte j := rfl

/-! ### setContext -/

@[simp] theorem setContext_pkg (s : State) (k : Nat) (x : Context) : (s.setContext k x).pkg = s.pkg := rfl
@[simp] theorem setContext_host (s : State) (k : Nat) (x : Context) : (s.setContext k x).host = s.host := rfl
@[simp] theorem setContext_links (s : State) (k : Nat) (x : Context) : (s.setContext k x).links = s.links := rfl
@[simp] theorem setContext_fab (s : State) (k : Nat) (x : Context) : (s.setContext k x).fab = s.fab := rfl
@[simp] theorem setContext_mem (s : State) (k : Nat) (x : Context) : (s.setContext k x).mem = s.mem := rfl
@[simp] theorem setContext_banks (s : State) (k : Nat) (x : Context) : (s.setContext k x).banks = s.banks := rfl
@[simp] theorem setContext_bankMem (s : State) (k : Nat) (x : Context) : (s.setContext k x).bankMem = s.bankMem := rfl
@[simp] theorem setContext_cores (s : State) (k : Nat) (x : Context) : (s.setContext k x).cores = s.cores := rfl
@[simp] theorem setContext_quarters (s : State) (k : Nat) (x : Context) : (s.setContext k x).quarters = s.quarters := rfl
@[simp] theorem setContext_slices (s : State) (k : Nat) (x : Context) : (s.setContext k x).slices = s.slices := rfl
@[simp] theorem setContext_l2 (s : State) (k : Nat) (x : Context) : (s.setContext k x).l2 = s.l2 := rfl
@[simp] theorem setContext_dieDir (s : State) (k : Nat) (x : Context) : (s.setContext k x).dieDir = s.dieDir := rfl
@[simp] theorem setContext_asks (s : State) (k : Nat) (x : Context) : (s.setContext k x).asks = s.asks := rfl
@[simp] theorem setContext_arenas (s : State) (k : Nat) (x : Context) : (s.setContext k x).arenas = s.arenas := rfl
@[simp] theorem setContext_dies (s : State) (k : Nat) (x : Context) : (s.setContext k x).dies = s.dies := rfl
@[simp] theorem setContext_launches (s : State) (k : Nat) (x : Context) : (s.setContext k x).launches = s.launches := rfl
@[simp] theorem setContext_teams (s : State) (k : Nat) (x : Context) : (s.setContext k x).teams = s.teams := rfl
@[simp] theorem setContext_groups (s : State) (k : Nat) (x : Context) : (s.setContext k x).groups = s.groups := rfl
@[simp] theorem setContext_specs (s : State) (k : Nat) (x : Context) : (s.setContext k x).specs = s.specs := rfl
@[simp] theorem setContext_pkgTick (s : State) (k : Nat) (x : Context) : (s.setContext k x).pkgTick = s.pkgTick := rfl
@[simp] theorem setContext_pairTick (s : State) (k : Nat) (x : Context) : (s.setContext k x).pairTick = s.pairTick := rfl
@[simp] theorem setContext_clk (s : State) (k : Nat) (x : Context) : (s.setContext k x).clk = s.clk := rfl
@[simp] theorem setContext_agenda (s : State) (k : Nat) (x : Context) : (s.setContext k x).agenda = s.agenda := rfl
@[simp] theorem setContext_cur (s : State) (k : Nat) (x : Context) : (s.setContext k x).cur = s.cur := rfl
@[simp] theorem setContext_freeCtr (s : State) (k : Nat) (x : Context) : (s.setContext k x).freeCtr = s.freeCtr := rfl
@[simp] theorem setContext_groupOf (s : State) (k : Nat) (x : Context) (j : Nat) : (s.setContext k x).group? j = s.group? j := rfl
@[simp] theorem setContext_coreAt (s : State) (k : Nat) (x : Context) (j : Nat) : (s.setContext k x).core j = s.core j := rfl
@[simp] theorem setContext_quarter (s : State) (k : Nat) (x : Context) (j : Nat) :
    (s.setContext k x).quarter j = s.quarter j := rfl
@[simp] theorem setContext_slice (s : State) (k : Nat) (x : Context) (j : Nat) : (s.setContext k x).slice j = s.slice j := rfl
@[simp] theorem setContext_die (s : State) (k : Nat) (x : Context) (j : Nat) : (s.setContext k x).die j = s.die j := rfl
@[simp] theorem setContext_launchOf (s : State) (k : Nat) (x : Context) (j : Nat) :
    (s.setContext k x).launch? j = s.launch? j := rfl
@[simp] theorem setContext_teamOf (s : State) (k : Nat) (x : Context) (j : Nat) : (s.setContext k x).team? j = s.team? j := rfl
@[simp] theorem setContext_bank (s : State) (k : Nat) (x : Context) (j : Nat) : (s.setContext k x).bank j = s.bank j := rfl
@[simp] theorem setContext_l2At (s : State) (k : Nat) (x : Context) (j : Nat) : (s.setContext k x).l2At j = s.l2At j := rfl
@[simp] theorem setContext_dieEntry (s : State) (k : Nat) (x : Context) (j : Nat) :
    (s.setContext k x).dieEntry j = s.dieEntry j := rfl
@[simp] theorem setContext_link (s : State) (k : Nat) (x : Context) (j : Nat) : (s.setContext k x).link j = s.link j := rfl
@[simp] theorem setContext_dramByte (s : State) (k : Nat) (x : Context) (j : Nat) :
    (s.setContext k x).dramByte j = s.dramByte j := rfl
@[simp] theorem setContext_hostByte (s : State) (k : Nat) (x : Context) (j : Nat) :
    (s.setContext k x).hostByte j = s.hostByte j := rfl

/-! ### removeContext -/

@[simp] theorem removeContext_pkg (s : State) (k : Nat) : (s.removeContext k).pkg = s.pkg := rfl
@[simp] theorem removeContext_host (s : State) (k : Nat) : (s.removeContext k).host = s.host := rfl
@[simp] theorem removeContext_links (s : State) (k : Nat) : (s.removeContext k).links = s.links := rfl
@[simp] theorem removeContext_fab (s : State) (k : Nat) : (s.removeContext k).fab = s.fab := rfl
@[simp] theorem removeContext_mem (s : State) (k : Nat) : (s.removeContext k).mem = s.mem := rfl
@[simp] theorem removeContext_banks (s : State) (k : Nat) : (s.removeContext k).banks = s.banks := rfl
@[simp] theorem removeContext_bankMem (s : State) (k : Nat) : (s.removeContext k).bankMem = s.bankMem := rfl
@[simp] theorem removeContext_cores (s : State) (k : Nat) : (s.removeContext k).cores = s.cores := rfl
@[simp] theorem removeContext_quarters (s : State) (k : Nat) : (s.removeContext k).quarters = s.quarters := rfl
@[simp] theorem removeContext_slices (s : State) (k : Nat) : (s.removeContext k).slices = s.slices := rfl
@[simp] theorem removeContext_l2 (s : State) (k : Nat) : (s.removeContext k).l2 = s.l2 := rfl
@[simp] theorem removeContext_dieDir (s : State) (k : Nat) : (s.removeContext k).dieDir = s.dieDir := rfl
@[simp] theorem removeContext_asks (s : State) (k : Nat) : (s.removeContext k).asks = s.asks := rfl
@[simp] theorem removeContext_arenas (s : State) (k : Nat) : (s.removeContext k).arenas = s.arenas := rfl
@[simp] theorem removeContext_dies (s : State) (k : Nat) : (s.removeContext k).dies = s.dies := rfl
@[simp] theorem removeContext_launches (s : State) (k : Nat) : (s.removeContext k).launches = s.launches := rfl
@[simp] theorem removeContext_teams (s : State) (k : Nat) : (s.removeContext k).teams = s.teams := rfl
@[simp] theorem removeContext_groups (s : State) (k : Nat) : (s.removeContext k).groups = s.groups := rfl
@[simp] theorem removeContext_specs (s : State) (k : Nat) : (s.removeContext k).specs = s.specs := rfl
@[simp] theorem removeContext_pkgTick (s : State) (k : Nat) : (s.removeContext k).pkgTick = s.pkgTick := rfl
@[simp] theorem removeContext_pairTick (s : State) (k : Nat) : (s.removeContext k).pairTick = s.pairTick := rfl
@[simp] theorem removeContext_clk (s : State) (k : Nat) : (s.removeContext k).clk = s.clk := rfl
@[simp] theorem removeContext_agenda (s : State) (k : Nat) : (s.removeContext k).agenda = s.agenda := rfl
@[simp] theorem removeContext_cur (s : State) (k : Nat) : (s.removeContext k).cur = s.cur := rfl
@[simp] theorem removeContext_freeCtr (s : State) (k : Nat) : (s.removeContext k).freeCtr = s.freeCtr := rfl
@[simp] theorem removeContext_groupOf (s : State) (k : Nat) (j : Nat) : (s.removeContext k).group? j = s.group? j := rfl
@[simp] theorem removeContext_coreAt (s : State) (k : Nat) (j : Nat) : (s.removeContext k).core j = s.core j := rfl
@[simp] theorem removeContext_quarter (s : State) (k : Nat) (j : Nat) : (s.removeContext k).quarter j = s.quarter j := rfl
@[simp] theorem removeContext_slice (s : State) (k : Nat) (j : Nat) : (s.removeContext k).slice j = s.slice j := rfl
@[simp] theorem removeContext_die (s : State) (k : Nat) (j : Nat) : (s.removeContext k).die j = s.die j := rfl
@[simp] theorem removeContext_launchOf (s : State) (k : Nat) (j : Nat) : (s.removeContext k).launch? j = s.launch? j := rfl
@[simp] theorem removeContext_teamOf (s : State) (k : Nat) (j : Nat) : (s.removeContext k).team? j = s.team? j := rfl
@[simp] theorem removeContext_bank (s : State) (k : Nat) (j : Nat) : (s.removeContext k).bank j = s.bank j := rfl
@[simp] theorem removeContext_l2At (s : State) (k : Nat) (j : Nat) : (s.removeContext k).l2At j = s.l2At j := rfl
@[simp] theorem removeContext_dieEntry (s : State) (k : Nat) (j : Nat) : (s.removeContext k).dieEntry j = s.dieEntry j := rfl
@[simp] theorem removeContext_link (s : State) (k : Nat) (j : Nat) : (s.removeContext k).link j = s.link j := rfl
@[simp] theorem removeContext_dramByte (s : State) (k : Nat) (j : Nat) : (s.removeContext k).dramByte j = s.dramByte j := rfl
@[simp] theorem removeContext_hostByte (s : State) (k : Nat) (j : Nat) : (s.removeContext k).hostByte j = s.hostByte j := rfl

/-! ### setLaunch -/

@[simp] theorem setLaunch_pkg (s : State) (k : Nat) (x : Launch) : (s.setLaunch k x).pkg = s.pkg := rfl
@[simp] theorem setLaunch_host (s : State) (k : Nat) (x : Launch) : (s.setLaunch k x).host = s.host := rfl
@[simp] theorem setLaunch_links (s : State) (k : Nat) (x : Launch) : (s.setLaunch k x).links = s.links := rfl
@[simp] theorem setLaunch_fab (s : State) (k : Nat) (x : Launch) : (s.setLaunch k x).fab = s.fab := rfl
@[simp] theorem setLaunch_mem (s : State) (k : Nat) (x : Launch) : (s.setLaunch k x).mem = s.mem := rfl
@[simp] theorem setLaunch_banks (s : State) (k : Nat) (x : Launch) : (s.setLaunch k x).banks = s.banks := rfl
@[simp] theorem setLaunch_bankMem (s : State) (k : Nat) (x : Launch) : (s.setLaunch k x).bankMem = s.bankMem := rfl
@[simp] theorem setLaunch_cores (s : State) (k : Nat) (x : Launch) : (s.setLaunch k x).cores = s.cores := rfl
@[simp] theorem setLaunch_quarters (s : State) (k : Nat) (x : Launch) : (s.setLaunch k x).quarters = s.quarters := rfl
@[simp] theorem setLaunch_slices (s : State) (k : Nat) (x : Launch) : (s.setLaunch k x).slices = s.slices := rfl
@[simp] theorem setLaunch_l2 (s : State) (k : Nat) (x : Launch) : (s.setLaunch k x).l2 = s.l2 := rfl
@[simp] theorem setLaunch_dieDir (s : State) (k : Nat) (x : Launch) : (s.setLaunch k x).dieDir = s.dieDir := rfl
@[simp] theorem setLaunch_asks (s : State) (k : Nat) (x : Launch) : (s.setLaunch k x).asks = s.asks := rfl
@[simp] theorem setLaunch_arenas (s : State) (k : Nat) (x : Launch) : (s.setLaunch k x).arenas = s.arenas := rfl
@[simp] theorem setLaunch_dies (s : State) (k : Nat) (x : Launch) : (s.setLaunch k x).dies = s.dies := rfl
@[simp] theorem setLaunch_contexts (s : State) (k : Nat) (x : Launch) : (s.setLaunch k x).contexts = s.contexts := rfl
@[simp] theorem setLaunch_teams (s : State) (k : Nat) (x : Launch) : (s.setLaunch k x).teams = s.teams := rfl
@[simp] theorem setLaunch_groups (s : State) (k : Nat) (x : Launch) : (s.setLaunch k x).groups = s.groups := rfl
@[simp] theorem setLaunch_specs (s : State) (k : Nat) (x : Launch) : (s.setLaunch k x).specs = s.specs := rfl
@[simp] theorem setLaunch_pkgTick (s : State) (k : Nat) (x : Launch) : (s.setLaunch k x).pkgTick = s.pkgTick := rfl
@[simp] theorem setLaunch_pairTick (s : State) (k : Nat) (x : Launch) : (s.setLaunch k x).pairTick = s.pairTick := rfl
@[simp] theorem setLaunch_clk (s : State) (k : Nat) (x : Launch) : (s.setLaunch k x).clk = s.clk := rfl
@[simp] theorem setLaunch_agenda (s : State) (k : Nat) (x : Launch) : (s.setLaunch k x).agenda = s.agenda := rfl
@[simp] theorem setLaunch_cur (s : State) (k : Nat) (x : Launch) : (s.setLaunch k x).cur = s.cur := rfl
@[simp] theorem setLaunch_freeCtr (s : State) (k : Nat) (x : Launch) : (s.setLaunch k x).freeCtr = s.freeCtr := rfl
@[simp] theorem setLaunch_groupOf (s : State) (k : Nat) (x : Launch) (j : Nat) : (s.setLaunch k x).group? j = s.group? j := rfl
@[simp] theorem setLaunch_coreAt (s : State) (k : Nat) (x : Launch) (j : Nat) : (s.setLaunch k x).core j = s.core j := rfl
@[simp] theorem setLaunch_quarter (s : State) (k : Nat) (x : Launch) (j : Nat) : (s.setLaunch k x).quarter j = s.quarter j := rfl
@[simp] theorem setLaunch_slice (s : State) (k : Nat) (x : Launch) (j : Nat) : (s.setLaunch k x).slice j = s.slice j := rfl
@[simp] theorem setLaunch_die (s : State) (k : Nat) (x : Launch) (j : Nat) : (s.setLaunch k x).die j = s.die j := rfl
@[simp] theorem setLaunch_contextOf (s : State) (k : Nat) (x : Launch) (j : Nat) :
    (s.setLaunch k x).context? j = s.context? j := rfl
@[simp] theorem setLaunch_teamOf (s : State) (k : Nat) (x : Launch) (j : Nat) : (s.setLaunch k x).team? j = s.team? j := rfl
@[simp] theorem setLaunch_bank (s : State) (k : Nat) (x : Launch) (j : Nat) : (s.setLaunch k x).bank j = s.bank j := rfl
@[simp] theorem setLaunch_l2At (s : State) (k : Nat) (x : Launch) (j : Nat) : (s.setLaunch k x).l2At j = s.l2At j := rfl
@[simp] theorem setLaunch_dieEntry (s : State) (k : Nat) (x : Launch) (j : Nat) :
    (s.setLaunch k x).dieEntry j = s.dieEntry j := rfl
@[simp] theorem setLaunch_link (s : State) (k : Nat) (x : Launch) (j : Nat) : (s.setLaunch k x).link j = s.link j := rfl
@[simp] theorem setLaunch_dramByte (s : State) (k : Nat) (x : Launch) (j : Nat) :
    (s.setLaunch k x).dramByte j = s.dramByte j := rfl
@[simp] theorem setLaunch_hostByte (s : State) (k : Nat) (x : Launch) (j : Nat) :
    (s.setLaunch k x).hostByte j = s.hostByte j := rfl

/-! ### removeLaunch -/

@[simp] theorem removeLaunch_pkg (s : State) (k : Nat) : (s.removeLaunch k).pkg = s.pkg := rfl
@[simp] theorem removeLaunch_host (s : State) (k : Nat) : (s.removeLaunch k).host = s.host := rfl
@[simp] theorem removeLaunch_links (s : State) (k : Nat) : (s.removeLaunch k).links = s.links := rfl
@[simp] theorem removeLaunch_fab (s : State) (k : Nat) : (s.removeLaunch k).fab = s.fab := rfl
@[simp] theorem removeLaunch_mem (s : State) (k : Nat) : (s.removeLaunch k).mem = s.mem := rfl
@[simp] theorem removeLaunch_banks (s : State) (k : Nat) : (s.removeLaunch k).banks = s.banks := rfl
@[simp] theorem removeLaunch_bankMem (s : State) (k : Nat) : (s.removeLaunch k).bankMem = s.bankMem := rfl
@[simp] theorem removeLaunch_cores (s : State) (k : Nat) : (s.removeLaunch k).cores = s.cores := rfl
@[simp] theorem removeLaunch_quarters (s : State) (k : Nat) : (s.removeLaunch k).quarters = s.quarters := rfl
@[simp] theorem removeLaunch_slices (s : State) (k : Nat) : (s.removeLaunch k).slices = s.slices := rfl
@[simp] theorem removeLaunch_l2 (s : State) (k : Nat) : (s.removeLaunch k).l2 = s.l2 := rfl
@[simp] theorem removeLaunch_dieDir (s : State) (k : Nat) : (s.removeLaunch k).dieDir = s.dieDir := rfl
@[simp] theorem removeLaunch_asks (s : State) (k : Nat) : (s.removeLaunch k).asks = s.asks := rfl
@[simp] theorem removeLaunch_arenas (s : State) (k : Nat) : (s.removeLaunch k).arenas = s.arenas := rfl
@[simp] theorem removeLaunch_dies (s : State) (k : Nat) : (s.removeLaunch k).dies = s.dies := rfl
@[simp] theorem removeLaunch_contexts (s : State) (k : Nat) : (s.removeLaunch k).contexts = s.contexts := rfl
@[simp] theorem removeLaunch_teams (s : State) (k : Nat) : (s.removeLaunch k).teams = s.teams := rfl
@[simp] theorem removeLaunch_groups (s : State) (k : Nat) : (s.removeLaunch k).groups = s.groups := rfl
@[simp] theorem removeLaunch_specs (s : State) (k : Nat) : (s.removeLaunch k).specs = s.specs := rfl
@[simp] theorem removeLaunch_pkgTick (s : State) (k : Nat) : (s.removeLaunch k).pkgTick = s.pkgTick := rfl
@[simp] theorem removeLaunch_pairTick (s : State) (k : Nat) : (s.removeLaunch k).pairTick = s.pairTick := rfl
@[simp] theorem removeLaunch_clk (s : State) (k : Nat) : (s.removeLaunch k).clk = s.clk := rfl
@[simp] theorem removeLaunch_agenda (s : State) (k : Nat) : (s.removeLaunch k).agenda = s.agenda := rfl
@[simp] theorem removeLaunch_cur (s : State) (k : Nat) : (s.removeLaunch k).cur = s.cur := rfl
@[simp] theorem removeLaunch_freeCtr (s : State) (k : Nat) : (s.removeLaunch k).freeCtr = s.freeCtr := rfl
@[simp] theorem removeLaunch_groupOf (s : State) (k : Nat) (j : Nat) : (s.removeLaunch k).group? j = s.group? j := rfl
@[simp] theorem removeLaunch_coreAt (s : State) (k : Nat) (j : Nat) : (s.removeLaunch k).core j = s.core j := rfl
@[simp] theorem removeLaunch_quarter (s : State) (k : Nat) (j : Nat) : (s.removeLaunch k).quarter j = s.quarter j := rfl
@[simp] theorem removeLaunch_slice (s : State) (k : Nat) (j : Nat) : (s.removeLaunch k).slice j = s.slice j := rfl
@[simp] theorem removeLaunch_die (s : State) (k : Nat) (j : Nat) : (s.removeLaunch k).die j = s.die j := rfl
@[simp] theorem removeLaunch_contextOf (s : State) (k : Nat) (j : Nat) : (s.removeLaunch k).context? j = s.context? j := rfl
@[simp] theorem removeLaunch_teamOf (s : State) (k : Nat) (j : Nat) : (s.removeLaunch k).team? j = s.team? j := rfl
@[simp] theorem removeLaunch_bank (s : State) (k : Nat) (j : Nat) : (s.removeLaunch k).bank j = s.bank j := rfl
@[simp] theorem removeLaunch_l2At (s : State) (k : Nat) (j : Nat) : (s.removeLaunch k).l2At j = s.l2At j := rfl
@[simp] theorem removeLaunch_dieEntry (s : State) (k : Nat) (j : Nat) : (s.removeLaunch k).dieEntry j = s.dieEntry j := rfl
@[simp] theorem removeLaunch_link (s : State) (k : Nat) (j : Nat) : (s.removeLaunch k).link j = s.link j := rfl
@[simp] theorem removeLaunch_dramByte (s : State) (k : Nat) (j : Nat) : (s.removeLaunch k).dramByte j = s.dramByte j := rfl
@[simp] theorem removeLaunch_hostByte (s : State) (k : Nat) (j : Nat) : (s.removeLaunch k).hostByte j = s.hostByte j := rfl

/-! ### setTeam -/

@[simp] theorem setTeam_pkg (s : State) (k : Nat) (x : Team) : (s.setTeam k x).pkg = s.pkg := rfl
@[simp] theorem setTeam_host (s : State) (k : Nat) (x : Team) : (s.setTeam k x).host = s.host := rfl
@[simp] theorem setTeam_links (s : State) (k : Nat) (x : Team) : (s.setTeam k x).links = s.links := rfl
@[simp] theorem setTeam_fab (s : State) (k : Nat) (x : Team) : (s.setTeam k x).fab = s.fab := rfl
@[simp] theorem setTeam_mem (s : State) (k : Nat) (x : Team) : (s.setTeam k x).mem = s.mem := rfl
@[simp] theorem setTeam_banks (s : State) (k : Nat) (x : Team) : (s.setTeam k x).banks = s.banks := rfl
@[simp] theorem setTeam_bankMem (s : State) (k : Nat) (x : Team) : (s.setTeam k x).bankMem = s.bankMem := rfl
@[simp] theorem setTeam_cores (s : State) (k : Nat) (x : Team) : (s.setTeam k x).cores = s.cores := rfl
@[simp] theorem setTeam_quarters (s : State) (k : Nat) (x : Team) : (s.setTeam k x).quarters = s.quarters := rfl
@[simp] theorem setTeam_slices (s : State) (k : Nat) (x : Team) : (s.setTeam k x).slices = s.slices := rfl
@[simp] theorem setTeam_l2 (s : State) (k : Nat) (x : Team) : (s.setTeam k x).l2 = s.l2 := rfl
@[simp] theorem setTeam_dieDir (s : State) (k : Nat) (x : Team) : (s.setTeam k x).dieDir = s.dieDir := rfl
@[simp] theorem setTeam_asks (s : State) (k : Nat) (x : Team) : (s.setTeam k x).asks = s.asks := rfl
@[simp] theorem setTeam_arenas (s : State) (k : Nat) (x : Team) : (s.setTeam k x).arenas = s.arenas := rfl
@[simp] theorem setTeam_dies (s : State) (k : Nat) (x : Team) : (s.setTeam k x).dies = s.dies := rfl
@[simp] theorem setTeam_contexts (s : State) (k : Nat) (x : Team) : (s.setTeam k x).contexts = s.contexts := rfl
@[simp] theorem setTeam_launches (s : State) (k : Nat) (x : Team) : (s.setTeam k x).launches = s.launches := rfl
@[simp] theorem setTeam_groups (s : State) (k : Nat) (x : Team) : (s.setTeam k x).groups = s.groups := rfl
@[simp] theorem setTeam_specs (s : State) (k : Nat) (x : Team) : (s.setTeam k x).specs = s.specs := rfl
@[simp] theorem setTeam_pkgTick (s : State) (k : Nat) (x : Team) : (s.setTeam k x).pkgTick = s.pkgTick := rfl
@[simp] theorem setTeam_pairTick (s : State) (k : Nat) (x : Team) : (s.setTeam k x).pairTick = s.pairTick := rfl
@[simp] theorem setTeam_clk (s : State) (k : Nat) (x : Team) : (s.setTeam k x).clk = s.clk := rfl
@[simp] theorem setTeam_agenda (s : State) (k : Nat) (x : Team) : (s.setTeam k x).agenda = s.agenda := rfl
@[simp] theorem setTeam_cur (s : State) (k : Nat) (x : Team) : (s.setTeam k x).cur = s.cur := rfl
@[simp] theorem setTeam_freeCtr (s : State) (k : Nat) (x : Team) : (s.setTeam k x).freeCtr = s.freeCtr := rfl
@[simp] theorem setTeam_groupOf (s : State) (k : Nat) (x : Team) (j : Nat) : (s.setTeam k x).group? j = s.group? j := rfl
@[simp] theorem setTeam_coreAt (s : State) (k : Nat) (x : Team) (j : Nat) : (s.setTeam k x).core j = s.core j := rfl
@[simp] theorem setTeam_quarter (s : State) (k : Nat) (x : Team) (j : Nat) : (s.setTeam k x).quarter j = s.quarter j := rfl
@[simp] theorem setTeam_slice (s : State) (k : Nat) (x : Team) (j : Nat) : (s.setTeam k x).slice j = s.slice j := rfl
@[simp] theorem setTeam_die (s : State) (k : Nat) (x : Team) (j : Nat) : (s.setTeam k x).die j = s.die j := rfl
@[simp] theorem setTeam_contextOf (s : State) (k : Nat) (x : Team) (j : Nat) : (s.setTeam k x).context? j = s.context? j := rfl
@[simp] theorem setTeam_launchOf (s : State) (k : Nat) (x : Team) (j : Nat) : (s.setTeam k x).launch? j = s.launch? j := rfl
@[simp] theorem setTeam_bank (s : State) (k : Nat) (x : Team) (j : Nat) : (s.setTeam k x).bank j = s.bank j := rfl
@[simp] theorem setTeam_l2At (s : State) (k : Nat) (x : Team) (j : Nat) : (s.setTeam k x).l2At j = s.l2At j := rfl
@[simp] theorem setTeam_dieEntry (s : State) (k : Nat) (x : Team) (j : Nat) : (s.setTeam k x).dieEntry j = s.dieEntry j := rfl
@[simp] theorem setTeam_link (s : State) (k : Nat) (x : Team) (j : Nat) : (s.setTeam k x).link j = s.link j := rfl
@[simp] theorem setTeam_dramByte (s : State) (k : Nat) (x : Team) (j : Nat) : (s.setTeam k x).dramByte j = s.dramByte j := rfl
@[simp] theorem setTeam_hostByte (s : State) (k : Nat) (x : Team) (j : Nat) : (s.setTeam k x).hostByte j = s.hostByte j := rfl

/-! ### removeTeam -/

@[simp] theorem removeTeam_pkg (s : State) (k : Nat) : (s.removeTeam k).pkg = s.pkg := rfl
@[simp] theorem removeTeam_host (s : State) (k : Nat) : (s.removeTeam k).host = s.host := rfl
@[simp] theorem removeTeam_links (s : State) (k : Nat) : (s.removeTeam k).links = s.links := rfl
@[simp] theorem removeTeam_fab (s : State) (k : Nat) : (s.removeTeam k).fab = s.fab := rfl
@[simp] theorem removeTeam_mem (s : State) (k : Nat) : (s.removeTeam k).mem = s.mem := rfl
@[simp] theorem removeTeam_banks (s : State) (k : Nat) : (s.removeTeam k).banks = s.banks := rfl
@[simp] theorem removeTeam_bankMem (s : State) (k : Nat) : (s.removeTeam k).bankMem = s.bankMem := rfl
@[simp] theorem removeTeam_cores (s : State) (k : Nat) : (s.removeTeam k).cores = s.cores := rfl
@[simp] theorem removeTeam_quarters (s : State) (k : Nat) : (s.removeTeam k).quarters = s.quarters := rfl
@[simp] theorem removeTeam_slices (s : State) (k : Nat) : (s.removeTeam k).slices = s.slices := rfl
@[simp] theorem removeTeam_l2 (s : State) (k : Nat) : (s.removeTeam k).l2 = s.l2 := rfl
@[simp] theorem removeTeam_dieDir (s : State) (k : Nat) : (s.removeTeam k).dieDir = s.dieDir := rfl
@[simp] theorem removeTeam_asks (s : State) (k : Nat) : (s.removeTeam k).asks = s.asks := rfl
@[simp] theorem removeTeam_arenas (s : State) (k : Nat) : (s.removeTeam k).arenas = s.arenas := rfl
@[simp] theorem removeTeam_dies (s : State) (k : Nat) : (s.removeTeam k).dies = s.dies := rfl
@[simp] theorem removeTeam_contexts (s : State) (k : Nat) : (s.removeTeam k).contexts = s.contexts := rfl
@[simp] theorem removeTeam_launches (s : State) (k : Nat) : (s.removeTeam k).launches = s.launches := rfl
@[simp] theorem removeTeam_groups (s : State) (k : Nat) : (s.removeTeam k).groups = s.groups := rfl
@[simp] theorem removeTeam_specs (s : State) (k : Nat) : (s.removeTeam k).specs = s.specs := rfl
@[simp] theorem removeTeam_pkgTick (s : State) (k : Nat) : (s.removeTeam k).pkgTick = s.pkgTick := rfl
@[simp] theorem removeTeam_pairTick (s : State) (k : Nat) : (s.removeTeam k).pairTick = s.pairTick := rfl
@[simp] theorem removeTeam_clk (s : State) (k : Nat) : (s.removeTeam k).clk = s.clk := rfl
@[simp] theorem removeTeam_agenda (s : State) (k : Nat) : (s.removeTeam k).agenda = s.agenda := rfl
@[simp] theorem removeTeam_cur (s : State) (k : Nat) : (s.removeTeam k).cur = s.cur := rfl
@[simp] theorem removeTeam_freeCtr (s : State) (k : Nat) : (s.removeTeam k).freeCtr = s.freeCtr := rfl
@[simp] theorem removeTeam_groupOf (s : State) (k : Nat) (j : Nat) : (s.removeTeam k).group? j = s.group? j := rfl
@[simp] theorem removeTeam_coreAt (s : State) (k : Nat) (j : Nat) : (s.removeTeam k).core j = s.core j := rfl
@[simp] theorem removeTeam_quarter (s : State) (k : Nat) (j : Nat) : (s.removeTeam k).quarter j = s.quarter j := rfl
@[simp] theorem removeTeam_slice (s : State) (k : Nat) (j : Nat) : (s.removeTeam k).slice j = s.slice j := rfl
@[simp] theorem removeTeam_die (s : State) (k : Nat) (j : Nat) : (s.removeTeam k).die j = s.die j := rfl
@[simp] theorem removeTeam_contextOf (s : State) (k : Nat) (j : Nat) : (s.removeTeam k).context? j = s.context? j := rfl
@[simp] theorem removeTeam_launchOf (s : State) (k : Nat) (j : Nat) : (s.removeTeam k).launch? j = s.launch? j := rfl
@[simp] theorem removeTeam_bank (s : State) (k : Nat) (j : Nat) : (s.removeTeam k).bank j = s.bank j := rfl
@[simp] theorem removeTeam_l2At (s : State) (k : Nat) (j : Nat) : (s.removeTeam k).l2At j = s.l2At j := rfl
@[simp] theorem removeTeam_dieEntry (s : State) (k : Nat) (j : Nat) : (s.removeTeam k).dieEntry j = s.dieEntry j := rfl
@[simp] theorem removeTeam_link (s : State) (k : Nat) (j : Nat) : (s.removeTeam k).link j = s.link j := rfl
@[simp] theorem removeTeam_dramByte (s : State) (k : Nat) (j : Nat) : (s.removeTeam k).dramByte j = s.dramByte j := rfl
@[simp] theorem removeTeam_hostByte (s : State) (k : Nat) (j : Nat) : (s.removeTeam k).hostByte j = s.hostByte j := rfl

/-! ### setBank -/

@[simp] theorem setBank_pkg (s : State) (k : Nat) (x : Bank) : (s.setBank k x).pkg = s.pkg := rfl
@[simp] theorem setBank_host (s : State) (k : Nat) (x : Bank) : (s.setBank k x).host = s.host := rfl
@[simp] theorem setBank_links (s : State) (k : Nat) (x : Bank) : (s.setBank k x).links = s.links := rfl
@[simp] theorem setBank_fab (s : State) (k : Nat) (x : Bank) : (s.setBank k x).fab = s.fab := rfl
@[simp] theorem setBank_mem (s : State) (k : Nat) (x : Bank) : (s.setBank k x).mem = s.mem := rfl
@[simp] theorem setBank_bankMem (s : State) (k : Nat) (x : Bank) : (s.setBank k x).bankMem = s.bankMem := rfl
@[simp] theorem setBank_cores (s : State) (k : Nat) (x : Bank) : (s.setBank k x).cores = s.cores := rfl
@[simp] theorem setBank_quarters (s : State) (k : Nat) (x : Bank) : (s.setBank k x).quarters = s.quarters := rfl
@[simp] theorem setBank_slices (s : State) (k : Nat) (x : Bank) : (s.setBank k x).slices = s.slices := rfl
@[simp] theorem setBank_l2 (s : State) (k : Nat) (x : Bank) : (s.setBank k x).l2 = s.l2 := rfl
@[simp] theorem setBank_dieDir (s : State) (k : Nat) (x : Bank) : (s.setBank k x).dieDir = s.dieDir := rfl
@[simp] theorem setBank_asks (s : State) (k : Nat) (x : Bank) : (s.setBank k x).asks = s.asks := rfl
@[simp] theorem setBank_arenas (s : State) (k : Nat) (x : Bank) : (s.setBank k x).arenas = s.arenas := rfl
@[simp] theorem setBank_dies (s : State) (k : Nat) (x : Bank) : (s.setBank k x).dies = s.dies := rfl
@[simp] theorem setBank_contexts (s : State) (k : Nat) (x : Bank) : (s.setBank k x).contexts = s.contexts := rfl
@[simp] theorem setBank_launches (s : State) (k : Nat) (x : Bank) : (s.setBank k x).launches = s.launches := rfl
@[simp] theorem setBank_teams (s : State) (k : Nat) (x : Bank) : (s.setBank k x).teams = s.teams := rfl
@[simp] theorem setBank_groups (s : State) (k : Nat) (x : Bank) : (s.setBank k x).groups = s.groups := rfl
@[simp] theorem setBank_specs (s : State) (k : Nat) (x : Bank) : (s.setBank k x).specs = s.specs := rfl
@[simp] theorem setBank_pkgTick (s : State) (k : Nat) (x : Bank) : (s.setBank k x).pkgTick = s.pkgTick := rfl
@[simp] theorem setBank_pairTick (s : State) (k : Nat) (x : Bank) : (s.setBank k x).pairTick = s.pairTick := rfl
@[simp] theorem setBank_clk (s : State) (k : Nat) (x : Bank) : (s.setBank k x).clk = s.clk := rfl
@[simp] theorem setBank_agenda (s : State) (k : Nat) (x : Bank) : (s.setBank k x).agenda = s.agenda := rfl
@[simp] theorem setBank_cur (s : State) (k : Nat) (x : Bank) : (s.setBank k x).cur = s.cur := rfl
@[simp] theorem setBank_freeCtr (s : State) (k : Nat) (x : Bank) : (s.setBank k x).freeCtr = s.freeCtr := rfl
@[simp] theorem setBank_groupOf (s : State) (k : Nat) (x : Bank) (j : Nat) : (s.setBank k x).group? j = s.group? j := rfl
@[simp] theorem setBank_coreAt (s : State) (k : Nat) (x : Bank) (j : Nat) : (s.setBank k x).core j = s.core j := rfl
@[simp] theorem setBank_quarter (s : State) (k : Nat) (x : Bank) (j : Nat) : (s.setBank k x).quarter j = s.quarter j := rfl
@[simp] theorem setBank_slice (s : State) (k : Nat) (x : Bank) (j : Nat) : (s.setBank k x).slice j = s.slice j := rfl
@[simp] theorem setBank_die (s : State) (k : Nat) (x : Bank) (j : Nat) : (s.setBank k x).die j = s.die j := rfl
@[simp] theorem setBank_contextOf (s : State) (k : Nat) (x : Bank) (j : Nat) : (s.setBank k x).context? j = s.context? j := rfl
@[simp] theorem setBank_launchOf (s : State) (k : Nat) (x : Bank) (j : Nat) : (s.setBank k x).launch? j = s.launch? j := rfl
@[simp] theorem setBank_teamOf (s : State) (k : Nat) (x : Bank) (j : Nat) : (s.setBank k x).team? j = s.team? j := rfl
@[simp] theorem setBank_l2At (s : State) (k : Nat) (x : Bank) (j : Nat) : (s.setBank k x).l2At j = s.l2At j := rfl
@[simp] theorem setBank_dieEntry (s : State) (k : Nat) (x : Bank) (j : Nat) : (s.setBank k x).dieEntry j = s.dieEntry j := rfl
@[simp] theorem setBank_link (s : State) (k : Nat) (x : Bank) (j : Nat) : (s.setBank k x).link j = s.link j := rfl
@[simp] theorem setBank_dramByte (s : State) (k : Nat) (x : Bank) (j : Nat) : (s.setBank k x).dramByte j = s.dramByte j := rfl
@[simp] theorem setBank_hostByte (s : State) (k : Nat) (x : Bank) (j : Nat) : (s.setBank k x).hostByte j = s.hostByte j := rfl

/-! ### post -/

@[simp] theorem post_pkg (s : State) (e : Instr) : (s.post e).pkg = s.pkg := rfl
@[simp] theorem post_host (s : State) (e : Instr) : (s.post e).host = s.host := rfl
@[simp] theorem post_links (s : State) (e : Instr) : (s.post e).links = s.links := rfl
@[simp] theorem post_fab (s : State) (e : Instr) : (s.post e).fab = s.fab := rfl
@[simp] theorem post_mem (s : State) (e : Instr) : (s.post e).mem = s.mem := rfl
@[simp] theorem post_banks (s : State) (e : Instr) : (s.post e).banks = s.banks := rfl
@[simp] theorem post_bankMem (s : State) (e : Instr) : (s.post e).bankMem = s.bankMem := rfl
@[simp] theorem post_cores (s : State) (e : Instr) : (s.post e).cores = s.cores := rfl
@[simp] theorem post_quarters (s : State) (e : Instr) : (s.post e).quarters = s.quarters := rfl
@[simp] theorem post_slices (s : State) (e : Instr) : (s.post e).slices = s.slices := rfl
@[simp] theorem post_l2 (s : State) (e : Instr) : (s.post e).l2 = s.l2 := rfl
@[simp] theorem post_dieDir (s : State) (e : Instr) : (s.post e).dieDir = s.dieDir := rfl
@[simp] theorem post_asks (s : State) (e : Instr) : (s.post e).asks = s.asks := rfl
@[simp] theorem post_arenas (s : State) (e : Instr) : (s.post e).arenas = s.arenas := rfl
@[simp] theorem post_dies (s : State) (e : Instr) : (s.post e).dies = s.dies := rfl
@[simp] theorem post_contexts (s : State) (e : Instr) : (s.post e).contexts = s.contexts := rfl
@[simp] theorem post_launches (s : State) (e : Instr) : (s.post e).launches = s.launches := rfl
@[simp] theorem post_teams (s : State) (e : Instr) : (s.post e).teams = s.teams := rfl
@[simp] theorem post_groups (s : State) (e : Instr) : (s.post e).groups = s.groups := rfl
@[simp] theorem post_specs (s : State) (e : Instr) : (s.post e).specs = s.specs := rfl
@[simp] theorem post_pkgTick (s : State) (e : Instr) : (s.post e).pkgTick = s.pkgTick := rfl
@[simp] theorem post_pairTick (s : State) (e : Instr) : (s.post e).pairTick = s.pairTick := rfl
@[simp] theorem post_cur (s : State) (e : Instr) : (s.post e).cur = s.cur := rfl
@[simp] theorem post_freeCtr (s : State) (e : Instr) : (s.post e).freeCtr = s.freeCtr := rfl
@[simp] theorem post_coreAt (s : State) (e : Instr) (j : Nat) : (s.post e).core j = s.core j := rfl
@[simp] theorem post_quarter (s : State) (e : Instr) (j : Nat) : (s.post e).quarter j = s.quarter j := rfl
@[simp] theorem post_slice (s : State) (e : Instr) (j : Nat) : (s.post e).slice j = s.slice j := rfl
@[simp] theorem post_die (s : State) (e : Instr) (j : Nat) : (s.post e).die j = s.die j := rfl
@[simp] theorem post_contextOf (s : State) (e : Instr) (j : Nat) : (s.post e).context? j = s.context? j := rfl
@[simp] theorem post_launchOf (s : State) (e : Instr) (j : Nat) : (s.post e).launch? j = s.launch? j := rfl
@[simp] theorem post_teamOf (s : State) (e : Instr) (j : Nat) : (s.post e).team? j = s.team? j := rfl
@[simp] theorem post_bank (s : State) (e : Instr) (j : Nat) : (s.post e).bank j = s.bank j := rfl
@[simp] theorem post_l2At (s : State) (e : Instr) (j : Nat) : (s.post e).l2At j = s.l2At j := rfl
@[simp] theorem post_dieEntry (s : State) (e : Instr) (j : Nat) : (s.post e).dieEntry j = s.dieEntry j := rfl
@[simp] theorem post_link (s : State) (e : Instr) (j : Nat) : (s.post e).link j = s.link j := rfl
@[simp] theorem post_dramByte (s : State) (e : Instr) (j : Nat) : (s.post e).dramByte j = s.dramByte j := rfl
@[simp] theorem post_hostByte (s : State) (e : Instr) (j : Nat) : (s.post e).hostByte j = s.hostByte j := rfl

/-! ### setL2 -/

@[simp] theorem setL2_pkg (s : State) (k : Nat) (x : Option L2Line) : (s.setL2 k x).pkg = s.pkg := rfl
@[simp] theorem setL2_host (s : State) (k : Nat) (x : Option L2Line) : (s.setL2 k x).host = s.host := rfl
@[simp] theorem setL2_links (s : State) (k : Nat) (x : Option L2Line) : (s.setL2 k x).links = s.links := rfl
@[simp] theorem setL2_fab (s : State) (k : Nat) (x : Option L2Line) : (s.setL2 k x).fab = s.fab := rfl
@[simp] theorem setL2_mem (s : State) (k : Nat) (x : Option L2Line) : (s.setL2 k x).mem = s.mem := rfl
@[simp] theorem setL2_banks (s : State) (k : Nat) (x : Option L2Line) : (s.setL2 k x).banks = s.banks := rfl
@[simp] theorem setL2_bankMem (s : State) (k : Nat) (x : Option L2Line) : (s.setL2 k x).bankMem = s.bankMem := rfl
@[simp] theorem setL2_cores (s : State) (k : Nat) (x : Option L2Line) : (s.setL2 k x).cores = s.cores := rfl
@[simp] theorem setL2_quarters (s : State) (k : Nat) (x : Option L2Line) : (s.setL2 k x).quarters = s.quarters := rfl
@[simp] theorem setL2_slices (s : State) (k : Nat) (x : Option L2Line) : (s.setL2 k x).slices = s.slices := rfl
@[simp] theorem setL2_dieDir (s : State) (k : Nat) (x : Option L2Line) : (s.setL2 k x).dieDir = s.dieDir := rfl
@[simp] theorem setL2_asks (s : State) (k : Nat) (x : Option L2Line) : (s.setL2 k x).asks = s.asks := rfl
@[simp] theorem setL2_arenas (s : State) (k : Nat) (x : Option L2Line) : (s.setL2 k x).arenas = s.arenas := rfl
@[simp] theorem setL2_dies (s : State) (k : Nat) (x : Option L2Line) : (s.setL2 k x).dies = s.dies := rfl
@[simp] theorem setL2_contexts (s : State) (k : Nat) (x : Option L2Line) : (s.setL2 k x).contexts = s.contexts := rfl
@[simp] theorem setL2_launches (s : State) (k : Nat) (x : Option L2Line) : (s.setL2 k x).launches = s.launches := rfl
@[simp] theorem setL2_teams (s : State) (k : Nat) (x : Option L2Line) : (s.setL2 k x).teams = s.teams := rfl
@[simp] theorem setL2_groups (s : State) (k : Nat) (x : Option L2Line) : (s.setL2 k x).groups = s.groups := rfl
@[simp] theorem setL2_specs (s : State) (k : Nat) (x : Option L2Line) : (s.setL2 k x).specs = s.specs := rfl
@[simp] theorem setL2_pkgTick (s : State) (k : Nat) (x : Option L2Line) : (s.setL2 k x).pkgTick = s.pkgTick := rfl
@[simp] theorem setL2_pairTick (s : State) (k : Nat) (x : Option L2Line) : (s.setL2 k x).pairTick = s.pairTick := rfl
@[simp] theorem setL2_clk (s : State) (k : Nat) (x : Option L2Line) : (s.setL2 k x).clk = s.clk := rfl
@[simp] theorem setL2_agenda (s : State) (k : Nat) (x : Option L2Line) : (s.setL2 k x).agenda = s.agenda := rfl
@[simp] theorem setL2_cur (s : State) (k : Nat) (x : Option L2Line) : (s.setL2 k x).cur = s.cur := rfl
@[simp] theorem setL2_freeCtr (s : State) (k : Nat) (x : Option L2Line) : (s.setL2 k x).freeCtr = s.freeCtr := rfl
@[simp] theorem setL2_groupOf (s : State) (k : Nat) (x : Option L2Line) (j : Nat) : (s.setL2 k x).group? j = s.group? j := rfl
@[simp] theorem setL2_coreAt (s : State) (k : Nat) (x : Option L2Line) (j : Nat) : (s.setL2 k x).core j = s.core j := rfl
@[simp] theorem setL2_quarter (s : State) (k : Nat) (x : Option L2Line) (j : Nat) : (s.setL2 k x).quarter j = s.quarter j := rfl
@[simp] theorem setL2_slice (s : State) (k : Nat) (x : Option L2Line) (j : Nat) : (s.setL2 k x).slice j = s.slice j := rfl
@[simp] theorem setL2_die (s : State) (k : Nat) (x : Option L2Line) (j : Nat) : (s.setL2 k x).die j = s.die j := rfl
@[simp] theorem setL2_contextOf (s : State) (k : Nat) (x : Option L2Line) (j : Nat) :
    (s.setL2 k x).context? j = s.context? j := rfl
@[simp] theorem setL2_launchOf (s : State) (k : Nat) (x : Option L2Line) (j : Nat) : (s.setL2 k x).launch? j = s.launch? j := rfl
@[simp] theorem setL2_teamOf (s : State) (k : Nat) (x : Option L2Line) (j : Nat) : (s.setL2 k x).team? j = s.team? j := rfl
@[simp] theorem setL2_bank (s : State) (k : Nat) (x : Option L2Line) (j : Nat) : (s.setL2 k x).bank j = s.bank j := rfl
@[simp] theorem setL2_dieEntry (s : State) (k : Nat) (x : Option L2Line) (j : Nat) :
    (s.setL2 k x).dieEntry j = s.dieEntry j := rfl
@[simp] theorem setL2_link (s : State) (k : Nat) (x : Option L2Line) (j : Nat) : (s.setL2 k x).link j = s.link j := rfl
@[simp] theorem setL2_dramByte (s : State) (k : Nat) (x : Option L2Line) (j : Nat) :
    (s.setL2 k x).dramByte j = s.dramByte j := rfl
@[simp] theorem setL2_hostByte (s : State) (k : Nat) (x : Option L2Line) (j : Nat) :
    (s.setL2 k x).hostByte j = s.hostByte j := rfl

/-! ### setDieEntry -/

@[simp] theorem setDieEntry_pkg (s : State) (k : Nat) (x : DieDir) : (s.setDieEntry k x).pkg = s.pkg := rfl
@[simp] theorem setDieEntry_host (s : State) (k : Nat) (x : DieDir) : (s.setDieEntry k x).host = s.host := rfl
@[simp] theorem setDieEntry_links (s : State) (k : Nat) (x : DieDir) : (s.setDieEntry k x).links = s.links := rfl
@[simp] theorem setDieEntry_fab (s : State) (k : Nat) (x : DieDir) : (s.setDieEntry k x).fab = s.fab := rfl
@[simp] theorem setDieEntry_mem (s : State) (k : Nat) (x : DieDir) : (s.setDieEntry k x).mem = s.mem := rfl
@[simp] theorem setDieEntry_banks (s : State) (k : Nat) (x : DieDir) : (s.setDieEntry k x).banks = s.banks := rfl
@[simp] theorem setDieEntry_bankMem (s : State) (k : Nat) (x : DieDir) : (s.setDieEntry k x).bankMem = s.bankMem := rfl
@[simp] theorem setDieEntry_cores (s : State) (k : Nat) (x : DieDir) : (s.setDieEntry k x).cores = s.cores := rfl
@[simp] theorem setDieEntry_quarters (s : State) (k : Nat) (x : DieDir) : (s.setDieEntry k x).quarters = s.quarters := rfl
@[simp] theorem setDieEntry_slices (s : State) (k : Nat) (x : DieDir) : (s.setDieEntry k x).slices = s.slices := rfl
@[simp] theorem setDieEntry_l2 (s : State) (k : Nat) (x : DieDir) : (s.setDieEntry k x).l2 = s.l2 := rfl
@[simp] theorem setDieEntry_asks (s : State) (k : Nat) (x : DieDir) : (s.setDieEntry k x).asks = s.asks := rfl
@[simp] theorem setDieEntry_arenas (s : State) (k : Nat) (x : DieDir) : (s.setDieEntry k x).arenas = s.arenas := rfl
@[simp] theorem setDieEntry_dies (s : State) (k : Nat) (x : DieDir) : (s.setDieEntry k x).dies = s.dies := rfl
@[simp] theorem setDieEntry_contexts (s : State) (k : Nat) (x : DieDir) : (s.setDieEntry k x).contexts = s.contexts := rfl
@[simp] theorem setDieEntry_launches (s : State) (k : Nat) (x : DieDir) : (s.setDieEntry k x).launches = s.launches := rfl
@[simp] theorem setDieEntry_teams (s : State) (k : Nat) (x : DieDir) : (s.setDieEntry k x).teams = s.teams := rfl
@[simp] theorem setDieEntry_groups (s : State) (k : Nat) (x : DieDir) : (s.setDieEntry k x).groups = s.groups := rfl
@[simp] theorem setDieEntry_specs (s : State) (k : Nat) (x : DieDir) : (s.setDieEntry k x).specs = s.specs := rfl
@[simp] theorem setDieEntry_pkgTick (s : State) (k : Nat) (x : DieDir) : (s.setDieEntry k x).pkgTick = s.pkgTick := rfl
@[simp] theorem setDieEntry_pairTick (s : State) (k : Nat) (x : DieDir) : (s.setDieEntry k x).pairTick = s.pairTick := rfl
@[simp] theorem setDieEntry_clk (s : State) (k : Nat) (x : DieDir) : (s.setDieEntry k x).clk = s.clk := rfl
@[simp] theorem setDieEntry_agenda (s : State) (k : Nat) (x : DieDir) : (s.setDieEntry k x).agenda = s.agenda := rfl
@[simp] theorem setDieEntry_cur (s : State) (k : Nat) (x : DieDir) : (s.setDieEntry k x).cur = s.cur := rfl
@[simp] theorem setDieEntry_freeCtr (s : State) (k : Nat) (x : DieDir) : (s.setDieEntry k x).freeCtr = s.freeCtr := rfl
@[simp] theorem setDieEntry_groupOf (s : State) (k : Nat) (x : DieDir) (j : Nat) :
    (s.setDieEntry k x).group? j = s.group? j := rfl
@[simp] theorem setDieEntry_coreAt (s : State) (k : Nat) (x : DieDir) (j : Nat) : (s.setDieEntry k x).core j = s.core j := rfl
@[simp] theorem setDieEntry_quarter (s : State) (k : Nat) (x : DieDir) (j : Nat) :
    (s.setDieEntry k x).quarter j = s.quarter j := rfl
@[simp] theorem setDieEntry_slice (s : State) (k : Nat) (x : DieDir) (j : Nat) : (s.setDieEntry k x).slice j = s.slice j := rfl
@[simp] theorem setDieEntry_die (s : State) (k : Nat) (x : DieDir) (j : Nat) : (s.setDieEntry k x).die j = s.die j := rfl
@[simp] theorem setDieEntry_contextOf (s : State) (k : Nat) (x : DieDir) (j : Nat) :
    (s.setDieEntry k x).context? j = s.context? j := rfl
@[simp] theorem setDieEntry_launchOf (s : State) (k : Nat) (x : DieDir) (j : Nat) :
    (s.setDieEntry k x).launch? j = s.launch? j := rfl
@[simp] theorem setDieEntry_teamOf (s : State) (k : Nat) (x : DieDir) (j : Nat) : (s.setDieEntry k x).team? j = s.team? j := rfl
@[simp] theorem setDieEntry_bank (s : State) (k : Nat) (x : DieDir) (j : Nat) : (s.setDieEntry k x).bank j = s.bank j := rfl
@[simp] theorem setDieEntry_l2At (s : State) (k : Nat) (x : DieDir) (j : Nat) : (s.setDieEntry k x).l2At j = s.l2At j := rfl
@[simp] theorem setDieEntry_link (s : State) (k : Nat) (x : DieDir) (j : Nat) : (s.setDieEntry k x).link j = s.link j := rfl
@[simp] theorem setDieEntry_dramByte (s : State) (k : Nat) (x : DieDir) (j : Nat) :
    (s.setDieEntry k x).dramByte j = s.dramByte j := rfl
@[simp] theorem setDieEntry_hostByte (s : State) (k : Nat) (x : DieDir) (j : Nat) :
    (s.setDieEntry k x).hostByte j = s.hostByte j := rfl

/-! ### setL1 -/

@[simp] theorem setL1_pkg (s : State) (c k : Nat) (x : Option L1Line) : (s.setL1 c k x).pkg = s.pkg := rfl
@[simp] theorem setL1_host (s : State) (c k : Nat) (x : Option L1Line) : (s.setL1 c k x).host = s.host := rfl
@[simp] theorem setL1_links (s : State) (c k : Nat) (x : Option L1Line) : (s.setL1 c k x).links = s.links := rfl
@[simp] theorem setL1_fab (s : State) (c k : Nat) (x : Option L1Line) : (s.setL1 c k x).fab = s.fab := rfl
@[simp] theorem setL1_mem (s : State) (c k : Nat) (x : Option L1Line) : (s.setL1 c k x).mem = s.mem := rfl
@[simp] theorem setL1_banks (s : State) (c k : Nat) (x : Option L1Line) : (s.setL1 c k x).banks = s.banks := rfl
@[simp] theorem setL1_bankMem (s : State) (c k : Nat) (x : Option L1Line) : (s.setL1 c k x).bankMem = s.bankMem := rfl
@[simp] theorem setL1_quarters (s : State) (c k : Nat) (x : Option L1Line) : (s.setL1 c k x).quarters = s.quarters := rfl
@[simp] theorem setL1_slices (s : State) (c k : Nat) (x : Option L1Line) : (s.setL1 c k x).slices = s.slices := rfl
@[simp] theorem setL1_l2 (s : State) (c k : Nat) (x : Option L1Line) : (s.setL1 c k x).l2 = s.l2 := rfl
@[simp] theorem setL1_dieDir (s : State) (c k : Nat) (x : Option L1Line) : (s.setL1 c k x).dieDir = s.dieDir := rfl
@[simp] theorem setL1_asks (s : State) (c k : Nat) (x : Option L1Line) : (s.setL1 c k x).asks = s.asks := rfl
@[simp] theorem setL1_arenas (s : State) (c k : Nat) (x : Option L1Line) : (s.setL1 c k x).arenas = s.arenas := rfl
@[simp] theorem setL1_dies (s : State) (c k : Nat) (x : Option L1Line) : (s.setL1 c k x).dies = s.dies := rfl
@[simp] theorem setL1_contexts (s : State) (c k : Nat) (x : Option L1Line) : (s.setL1 c k x).contexts = s.contexts := rfl
@[simp] theorem setL1_launches (s : State) (c k : Nat) (x : Option L1Line) : (s.setL1 c k x).launches = s.launches := rfl
@[simp] theorem setL1_teams (s : State) (c k : Nat) (x : Option L1Line) : (s.setL1 c k x).teams = s.teams := rfl
@[simp] theorem setL1_groups (s : State) (c k : Nat) (x : Option L1Line) : (s.setL1 c k x).groups = s.groups := rfl
@[simp] theorem setL1_specs (s : State) (c k : Nat) (x : Option L1Line) : (s.setL1 c k x).specs = s.specs := rfl
@[simp] theorem setL1_pkgTick (s : State) (c k : Nat) (x : Option L1Line) : (s.setL1 c k x).pkgTick = s.pkgTick := rfl
@[simp] theorem setL1_pairTick (s : State) (c k : Nat) (x : Option L1Line) : (s.setL1 c k x).pairTick = s.pairTick := rfl
@[simp] theorem setL1_clk (s : State) (c k : Nat) (x : Option L1Line) : (s.setL1 c k x).clk = s.clk := rfl
@[simp] theorem setL1_agenda (s : State) (c k : Nat) (x : Option L1Line) : (s.setL1 c k x).agenda = s.agenda := rfl
@[simp] theorem setL1_cur (s : State) (c k : Nat) (x : Option L1Line) : (s.setL1 c k x).cur = s.cur := rfl
@[simp] theorem setL1_freeCtr (s : State) (c k : Nat) (x : Option L1Line) : (s.setL1 c k x).freeCtr = s.freeCtr := rfl
@[simp] theorem setL1_groupOf (s : State) (c k : Nat) (x : Option L1Line) (j : Nat) : (s.setL1 c k x).group? j = s.group? j := rfl
@[simp] theorem setL1_quarter (s : State) (c k : Nat) (x : Option L1Line) (j : Nat) :
    (s.setL1 c k x).quarter j = s.quarter j := rfl
@[simp] theorem setL1_slice (s : State) (c k : Nat) (x : Option L1Line) (j : Nat) : (s.setL1 c k x).slice j = s.slice j := rfl
@[simp] theorem setL1_die (s : State) (c k : Nat) (x : Option L1Line) (j : Nat) : (s.setL1 c k x).die j = s.die j := rfl
@[simp] theorem setL1_contextOf (s : State) (c k : Nat) (x : Option L1Line) (j : Nat) :
    (s.setL1 c k x).context? j = s.context? j := rfl
@[simp] theorem setL1_launchOf (s : State) (c k : Nat) (x : Option L1Line) (j : Nat) :
    (s.setL1 c k x).launch? j = s.launch? j := rfl
@[simp] theorem setL1_teamOf (s : State) (c k : Nat) (x : Option L1Line) (j : Nat) : (s.setL1 c k x).team? j = s.team? j := rfl
@[simp] theorem setL1_bank (s : State) (c k : Nat) (x : Option L1Line) (j : Nat) : (s.setL1 c k x).bank j = s.bank j := rfl
@[simp] theorem setL1_l2At (s : State) (c k : Nat) (x : Option L1Line) (j : Nat) : (s.setL1 c k x).l2At j = s.l2At j := rfl
@[simp] theorem setL1_dieEntry (s : State) (c k : Nat) (x : Option L1Line) (j : Nat) :
    (s.setL1 c k x).dieEntry j = s.dieEntry j := rfl
@[simp] theorem setL1_link (s : State) (c k : Nat) (x : Option L1Line) (j : Nat) : (s.setL1 c k x).link j = s.link j := rfl
@[simp] theorem setL1_dramByte (s : State) (c k : Nat) (x : Option L1Line) (j : Nat) :
    (s.setL1 c k x).dramByte j = s.dramByte j := rfl
@[simp] theorem setL1_hostByte (s : State) (c k : Nat) (x : Option L1Line) (j : Nat) :
    (s.setL1 c k x).hostByte j = s.hostByte j := rfl

/-! ### setDram -/

@[simp] theorem setDram_pkg (s : State) (k : Nat) (b : BitVec 8) : (s.setDram k b).pkg = s.pkg := rfl
@[simp] theorem setDram_host (s : State) (k : Nat) (b : BitVec 8) : (s.setDram k b).host = s.host := rfl
@[simp] theorem setDram_links (s : State) (k : Nat) (b : BitVec 8) : (s.setDram k b).links = s.links := rfl
@[simp] theorem setDram_fab (s : State) (k : Nat) (b : BitVec 8) : (s.setDram k b).fab = s.fab := rfl
@[simp] theorem setDram_banks (s : State) (k : Nat) (b : BitVec 8) : (s.setDram k b).banks = s.banks := rfl
@[simp] theorem setDram_bankMem (s : State) (k : Nat) (b : BitVec 8) : (s.setDram k b).bankMem = s.bankMem := rfl
@[simp] theorem setDram_cores (s : State) (k : Nat) (b : BitVec 8) : (s.setDram k b).cores = s.cores := rfl
@[simp] theorem setDram_quarters (s : State) (k : Nat) (b : BitVec 8) : (s.setDram k b).quarters = s.quarters := rfl
@[simp] theorem setDram_slices (s : State) (k : Nat) (b : BitVec 8) : (s.setDram k b).slices = s.slices := rfl
@[simp] theorem setDram_l2 (s : State) (k : Nat) (b : BitVec 8) : (s.setDram k b).l2 = s.l2 := rfl
@[simp] theorem setDram_dieDir (s : State) (k : Nat) (b : BitVec 8) : (s.setDram k b).dieDir = s.dieDir := rfl
@[simp] theorem setDram_asks (s : State) (k : Nat) (b : BitVec 8) : (s.setDram k b).asks = s.asks := rfl
@[simp] theorem setDram_arenas (s : State) (k : Nat) (b : BitVec 8) : (s.setDram k b).arenas = s.arenas := rfl
@[simp] theorem setDram_dies (s : State) (k : Nat) (b : BitVec 8) : (s.setDram k b).dies = s.dies := rfl
@[simp] theorem setDram_contexts (s : State) (k : Nat) (b : BitVec 8) : (s.setDram k b).contexts = s.contexts := rfl
@[simp] theorem setDram_launches (s : State) (k : Nat) (b : BitVec 8) : (s.setDram k b).launches = s.launches := rfl
@[simp] theorem setDram_teams (s : State) (k : Nat) (b : BitVec 8) : (s.setDram k b).teams = s.teams := rfl
@[simp] theorem setDram_groups (s : State) (k : Nat) (b : BitVec 8) : (s.setDram k b).groups = s.groups := rfl
@[simp] theorem setDram_specs (s : State) (k : Nat) (b : BitVec 8) : (s.setDram k b).specs = s.specs := rfl
@[simp] theorem setDram_pkgTick (s : State) (k : Nat) (b : BitVec 8) : (s.setDram k b).pkgTick = s.pkgTick := rfl
@[simp] theorem setDram_pairTick (s : State) (k : Nat) (b : BitVec 8) : (s.setDram k b).pairTick = s.pairTick := rfl
@[simp] theorem setDram_clk (s : State) (k : Nat) (b : BitVec 8) : (s.setDram k b).clk = s.clk := rfl
@[simp] theorem setDram_agenda (s : State) (k : Nat) (b : BitVec 8) : (s.setDram k b).agenda = s.agenda := rfl
@[simp] theorem setDram_cur (s : State) (k : Nat) (b : BitVec 8) : (s.setDram k b).cur = s.cur := rfl
@[simp] theorem setDram_freeCtr (s : State) (k : Nat) (b : BitVec 8) : (s.setDram k b).freeCtr = s.freeCtr := rfl
@[simp] theorem setDram_groupOf (s : State) (k : Nat) (b : BitVec 8) (j : Nat) : (s.setDram k b).group? j = s.group? j := rfl
@[simp] theorem setDram_coreAt (s : State) (k : Nat) (b : BitVec 8) (j : Nat) : (s.setDram k b).core j = s.core j := rfl
@[simp] theorem setDram_quarter (s : State) (k : Nat) (b : BitVec 8) (j : Nat) : (s.setDram k b).quarter j = s.quarter j := rfl
@[simp] theorem setDram_slice (s : State) (k : Nat) (b : BitVec 8) (j : Nat) : (s.setDram k b).slice j = s.slice j := rfl
@[simp] theorem setDram_die (s : State) (k : Nat) (b : BitVec 8) (j : Nat) : (s.setDram k b).die j = s.die j := rfl
@[simp] theorem setDram_contextOf (s : State) (k : Nat) (b : BitVec 8) (j : Nat) :
    (s.setDram k b).context? j = s.context? j := rfl
@[simp] theorem setDram_launchOf (s : State) (k : Nat) (b : BitVec 8) (j : Nat) : (s.setDram k b).launch? j = s.launch? j := rfl
@[simp] theorem setDram_teamOf (s : State) (k : Nat) (b : BitVec 8) (j : Nat) : (s.setDram k b).team? j = s.team? j := rfl
@[simp] theorem setDram_bank (s : State) (k : Nat) (b : BitVec 8) (j : Nat) : (s.setDram k b).bank j = s.bank j := rfl
@[simp] theorem setDram_l2At (s : State) (k : Nat) (b : BitVec 8) (j : Nat) : (s.setDram k b).l2At j = s.l2At j := rfl
@[simp] theorem setDram_dieEntry (s : State) (k : Nat) (b : BitVec 8) (j : Nat) : (s.setDram k b).dieEntry j = s.dieEntry j := rfl
@[simp] theorem setDram_link (s : State) (k : Nat) (b : BitVec 8) (j : Nat) : (s.setDram k b).link j = s.link j := rfl
@[simp] theorem setDram_hostByte (s : State) (k : Nat) (b : BitVec 8) (j : Nat) : (s.setDram k b).hostByte j = s.hostByte j := rfl

/-! ### setHost -/

@[simp] theorem setHost_pkg (s : State) (k : Nat) (b : BitVec 8) : (s.setHost k b).pkg = s.pkg := rfl
@[simp] theorem setHost_links (s : State) (k : Nat) (b : BitVec 8) : (s.setHost k b).links = s.links := rfl
@[simp] theorem setHost_fab (s : State) (k : Nat) (b : BitVec 8) : (s.setHost k b).fab = s.fab := rfl
@[simp] theorem setHost_mem (s : State) (k : Nat) (b : BitVec 8) : (s.setHost k b).mem = s.mem := rfl
@[simp] theorem setHost_banks (s : State) (k : Nat) (b : BitVec 8) : (s.setHost k b).banks = s.banks := rfl
@[simp] theorem setHost_bankMem (s : State) (k : Nat) (b : BitVec 8) : (s.setHost k b).bankMem = s.bankMem := rfl
@[simp] theorem setHost_cores (s : State) (k : Nat) (b : BitVec 8) : (s.setHost k b).cores = s.cores := rfl
@[simp] theorem setHost_quarters (s : State) (k : Nat) (b : BitVec 8) : (s.setHost k b).quarters = s.quarters := rfl
@[simp] theorem setHost_slices (s : State) (k : Nat) (b : BitVec 8) : (s.setHost k b).slices = s.slices := rfl
@[simp] theorem setHost_l2 (s : State) (k : Nat) (b : BitVec 8) : (s.setHost k b).l2 = s.l2 := rfl
@[simp] theorem setHost_dieDir (s : State) (k : Nat) (b : BitVec 8) : (s.setHost k b).dieDir = s.dieDir := rfl
@[simp] theorem setHost_asks (s : State) (k : Nat) (b : BitVec 8) : (s.setHost k b).asks = s.asks := rfl
@[simp] theorem setHost_arenas (s : State) (k : Nat) (b : BitVec 8) : (s.setHost k b).arenas = s.arenas := rfl
@[simp] theorem setHost_dies (s : State) (k : Nat) (b : BitVec 8) : (s.setHost k b).dies = s.dies := rfl
@[simp] theorem setHost_contexts (s : State) (k : Nat) (b : BitVec 8) : (s.setHost k b).contexts = s.contexts := rfl
@[simp] theorem setHost_launches (s : State) (k : Nat) (b : BitVec 8) : (s.setHost k b).launches = s.launches := rfl
@[simp] theorem setHost_teams (s : State) (k : Nat) (b : BitVec 8) : (s.setHost k b).teams = s.teams := rfl
@[simp] theorem setHost_groups (s : State) (k : Nat) (b : BitVec 8) : (s.setHost k b).groups = s.groups := rfl
@[simp] theorem setHost_specs (s : State) (k : Nat) (b : BitVec 8) : (s.setHost k b).specs = s.specs := rfl
@[simp] theorem setHost_pkgTick (s : State) (k : Nat) (b : BitVec 8) : (s.setHost k b).pkgTick = s.pkgTick := rfl
@[simp] theorem setHost_pairTick (s : State) (k : Nat) (b : BitVec 8) : (s.setHost k b).pairTick = s.pairTick := rfl
@[simp] theorem setHost_clk (s : State) (k : Nat) (b : BitVec 8) : (s.setHost k b).clk = s.clk := rfl
@[simp] theorem setHost_agenda (s : State) (k : Nat) (b : BitVec 8) : (s.setHost k b).agenda = s.agenda := rfl
@[simp] theorem setHost_cur (s : State) (k : Nat) (b : BitVec 8) : (s.setHost k b).cur = s.cur := rfl
@[simp] theorem setHost_freeCtr (s : State) (k : Nat) (b : BitVec 8) : (s.setHost k b).freeCtr = s.freeCtr := rfl
@[simp] theorem setHost_groupOf (s : State) (k : Nat) (b : BitVec 8) (j : Nat) : (s.setHost k b).group? j = s.group? j := rfl
@[simp] theorem setHost_coreAt (s : State) (k : Nat) (b : BitVec 8) (j : Nat) : (s.setHost k b).core j = s.core j := rfl
@[simp] theorem setHost_quarter (s : State) (k : Nat) (b : BitVec 8) (j : Nat) : (s.setHost k b).quarter j = s.quarter j := rfl
@[simp] theorem setHost_slice (s : State) (k : Nat) (b : BitVec 8) (j : Nat) : (s.setHost k b).slice j = s.slice j := rfl
@[simp] theorem setHost_die (s : State) (k : Nat) (b : BitVec 8) (j : Nat) : (s.setHost k b).die j = s.die j := rfl
@[simp] theorem setHost_contextOf (s : State) (k : Nat) (b : BitVec 8) (j : Nat) :
    (s.setHost k b).context? j = s.context? j := rfl
@[simp] theorem setHost_launchOf (s : State) (k : Nat) (b : BitVec 8) (j : Nat) : (s.setHost k b).launch? j = s.launch? j := rfl
@[simp] theorem setHost_teamOf (s : State) (k : Nat) (b : BitVec 8) (j : Nat) : (s.setHost k b).team? j = s.team? j := rfl
@[simp] theorem setHost_bank (s : State) (k : Nat) (b : BitVec 8) (j : Nat) : (s.setHost k b).bank j = s.bank j := rfl
@[simp] theorem setHost_l2At (s : State) (k : Nat) (b : BitVec 8) (j : Nat) : (s.setHost k b).l2At j = s.l2At j := rfl
@[simp] theorem setHost_dieEntry (s : State) (k : Nat) (b : BitVec 8) (j : Nat) : (s.setHost k b).dieEntry j = s.dieEntry j := rfl
@[simp] theorem setHost_link (s : State) (k : Nat) (b : BitVec 8) (j : Nat) : (s.setHost k b).link j = s.link j := rfl
@[simp] theorem setHost_dramByte (s : State) (k : Nat) (b : BitVec 8) (j : Nat) : (s.setHost k b).dramByte j = s.dramByte j := rfl

/-! ### setScratch -/

@[simp] theorem setScratch_pkg (s : State) (t : Team) (o : Nat) (b : List (Nat × Byte)) : (s.setScratch t o b).pkg = s.pkg := rfl
@[simp] theorem setScratch_host (s : State) (t : Team) (o : Nat) (b : List (Nat × Byte)) :
    (s.setScratch t o b).host = s.host := rfl
@[simp] theorem setScratch_links (s : State) (t : Team) (o : Nat) (b : List (Nat × Byte)) :
    (s.setScratch t o b).links = s.links := rfl
@[simp] theorem setScratch_fab (s : State) (t : Team) (o : Nat) (b : List (Nat × Byte)) : (s.setScratch t o b).fab = s.fab := rfl
@[simp] theorem setScratch_mem (s : State) (t : Team) (o : Nat) (b : List (Nat × Byte)) : (s.setScratch t o b).mem = s.mem := rfl
@[simp] theorem setScratch_banks (s : State) (t : Team) (o : Nat) (b : List (Nat × Byte)) :
    (s.setScratch t o b).banks = s.banks := rfl
@[simp] theorem setScratch_cores (s : State) (t : Team) (o : Nat) (b : List (Nat × Byte)) :
    (s.setScratch t o b).cores = s.cores := rfl
@[simp] theorem setScratch_quarters (s : State) (t : Team) (o : Nat) (b : List (Nat × Byte)) :
    (s.setScratch t o b).quarters = s.quarters := rfl
@[simp] theorem setScratch_slices (s : State) (t : Team) (o : Nat) (b : List (Nat × Byte)) :
    (s.setScratch t o b).slices = s.slices := rfl
@[simp] theorem setScratch_l2 (s : State) (t : Team) (o : Nat) (b : List (Nat × Byte)) : (s.setScratch t o b).l2 = s.l2 := rfl
@[simp] theorem setScratch_dieDir (s : State) (t : Team) (o : Nat) (b : List (Nat × Byte)) :
    (s.setScratch t o b).dieDir = s.dieDir := rfl
@[simp] theorem setScratch_asks (s : State) (t : Team) (o : Nat) (b : List (Nat × Byte)) :
    (s.setScratch t o b).asks = s.asks := rfl
@[simp] theorem setScratch_arenas (s : State) (t : Team) (o : Nat) (b : List (Nat × Byte)) :
    (s.setScratch t o b).arenas = s.arenas := rfl
@[simp] theorem setScratch_dies (s : State) (t : Team) (o : Nat) (b : List (Nat × Byte)) :
    (s.setScratch t o b).dies = s.dies := rfl
@[simp] theorem setScratch_contexts (s : State) (t : Team) (o : Nat) (b : List (Nat × Byte)) :
    (s.setScratch t o b).contexts = s.contexts := rfl
@[simp] theorem setScratch_launches (s : State) (t : Team) (o : Nat) (b : List (Nat × Byte)) :
    (s.setScratch t o b).launches = s.launches := rfl
@[simp] theorem setScratch_teams (s : State) (t : Team) (o : Nat) (b : List (Nat × Byte)) :
    (s.setScratch t o b).teams = s.teams := rfl
@[simp] theorem setScratch_groups (s : State) (t : Team) (o : Nat) (b : List (Nat × Byte)) :
    (s.setScratch t o b).groups = s.groups := rfl
@[simp] theorem setScratch_specs (s : State) (t : Team) (o : Nat) (b : List (Nat × Byte)) :
    (s.setScratch t o b).specs = s.specs := rfl
@[simp] theorem setScratch_pkgTick (s : State) (t : Team) (o : Nat) (b : List (Nat × Byte)) :
    (s.setScratch t o b).pkgTick = s.pkgTick := rfl
@[simp] theorem setScratch_pairTick (s : State) (t : Team) (o : Nat) (b : List (Nat × Byte)) :
    (s.setScratch t o b).pairTick = s.pairTick := rfl
@[simp] theorem setScratch_clk (s : State) (t : Team) (o : Nat) (b : List (Nat × Byte)) : (s.setScratch t o b).clk = s.clk := rfl
@[simp] theorem setScratch_agenda (s : State) (t : Team) (o : Nat) (b : List (Nat × Byte)) :
    (s.setScratch t o b).agenda = s.agenda := rfl
@[simp] theorem setScratch_cur (s : State) (t : Team) (o : Nat) (b : List (Nat × Byte)) : (s.setScratch t o b).cur = s.cur := rfl
@[simp] theorem setScratch_freeCtr (s : State) (t : Team) (o : Nat) (b : List (Nat × Byte)) :
    (s.setScratch t o b).freeCtr = s.freeCtr := rfl
@[simp] theorem setScratch_groupOf (s : State) (t : Team) (o : Nat) (b : List (Nat × Byte)) (j : Nat) :
    (s.setScratch t o b).group? j = s.group? j := rfl
@[simp] theorem setScratch_coreAt (s : State) (t : Team) (o : Nat) (b : List (Nat × Byte)) (j : Nat) :
    (s.setScratch t o b).core j = s.core j := rfl
@[simp] theorem setScratch_quarter (s : State) (t : Team) (o : Nat) (b : List (Nat × Byte)) (j : Nat) :
    (s.setScratch t o b).quarter j = s.quarter j := rfl
@[simp] theorem setScratch_slice (s : State) (t : Team) (o : Nat) (b : List (Nat × Byte)) (j : Nat) :
    (s.setScratch t o b).slice j = s.slice j := rfl
@[simp] theorem setScratch_die (s : State) (t : Team) (o : Nat) (b : List (Nat × Byte)) (j : Nat) :
    (s.setScratch t o b).die j = s.die j := rfl
@[simp] theorem setScratch_contextOf (s : State) (t : Team) (o : Nat) (b : List (Nat × Byte)) (j : Nat) :
    (s.setScratch t o b).context? j = s.context? j := rfl
@[simp] theorem setScratch_launchOf (s : State) (t : Team) (o : Nat) (b : List (Nat × Byte)) (j : Nat) :
    (s.setScratch t o b).launch? j = s.launch? j := rfl
@[simp] theorem setScratch_teamOf (s : State) (t : Team) (o : Nat) (b : List (Nat × Byte)) (j : Nat) :
    (s.setScratch t o b).team? j = s.team? j := rfl
@[simp] theorem setScratch_bank (s : State) (t : Team) (o : Nat) (b : List (Nat × Byte)) (j : Nat) :
    (s.setScratch t o b).bank j = s.bank j := rfl
@[simp] theorem setScratch_l2At (s : State) (t : Team) (o : Nat) (b : List (Nat × Byte)) (j : Nat) :
    (s.setScratch t o b).l2At j = s.l2At j := rfl
@[simp] theorem setScratch_dieEntry (s : State) (t : Team) (o : Nat) (b : List (Nat × Byte)) (j : Nat) :
    (s.setScratch t o b).dieEntry j = s.dieEntry j := rfl
@[simp] theorem setScratch_link (s : State) (t : Team) (o : Nat) (b : List (Nat × Byte)) (j : Nat) :
    (s.setScratch t o b).link j = s.link j := rfl
@[simp] theorem setScratch_dramByte (s : State) (t : Team) (o : Nat) (b : List (Nat × Byte)) (j : Nat) :
    (s.setScratch t o b).dramByte j = s.dramByte j := rfl
@[simp] theorem setScratch_hostByte (s : State) (t : Team) (o : Nat) (b : List (Nat × Byte)) (j : Nat) :
    (s.setScratch t o b).hostByte j = s.hostByte j := rfl

/-! ### cacheLeaf -/

@[simp] theorem cacheLeaf_pkg (s : State) (c : Ctx) (va : VA) (e : DWord) : (s.cacheLeaf c va e).pkg = s.pkg := rfl
@[simp] theorem cacheLeaf_host (s : State) (c : Ctx) (va : VA) (e : DWord) : (s.cacheLeaf c va e).host = s.host := rfl
@[simp] theorem cacheLeaf_links (s : State) (c : Ctx) (va : VA) (e : DWord) : (s.cacheLeaf c va e).links = s.links := rfl
@[simp] theorem cacheLeaf_fab (s : State) (c : Ctx) (va : VA) (e : DWord) : (s.cacheLeaf c va e).fab = s.fab := rfl
@[simp] theorem cacheLeaf_banks (s : State) (c : Ctx) (va : VA) (e : DWord) : (s.cacheLeaf c va e).banks = s.banks := rfl
@[simp] theorem cacheLeaf_bankMem (s : State) (c : Ctx) (va : VA) (e : DWord) : (s.cacheLeaf c va e).bankMem = s.bankMem := rfl
@[simp] theorem cacheLeaf_cores (s : State) (c : Ctx) (va : VA) (e : DWord) : (s.cacheLeaf c va e).cores = s.cores := rfl
@[simp] theorem cacheLeaf_quarters (s : State) (c : Ctx) (va : VA) (e : DWord) : (s.cacheLeaf c va e).quarters = s.quarters := rfl
@[simp] theorem cacheLeaf_slices (s : State) (c : Ctx) (va : VA) (e : DWord) : (s.cacheLeaf c va e).slices = s.slices := rfl
@[simp] theorem cacheLeaf_l2 (s : State) (c : Ctx) (va : VA) (e : DWord) : (s.cacheLeaf c va e).l2 = s.l2 := rfl
@[simp] theorem cacheLeaf_dieDir (s : State) (c : Ctx) (va : VA) (e : DWord) : (s.cacheLeaf c va e).dieDir = s.dieDir := rfl
@[simp] theorem cacheLeaf_asks (s : State) (c : Ctx) (va : VA) (e : DWord) : (s.cacheLeaf c va e).asks = s.asks := rfl
@[simp] theorem cacheLeaf_arenas (s : State) (c : Ctx) (va : VA) (e : DWord) : (s.cacheLeaf c va e).arenas = s.arenas := rfl
@[simp] theorem cacheLeaf_dies (s : State) (c : Ctx) (va : VA) (e : DWord) : (s.cacheLeaf c va e).dies = s.dies := rfl
@[simp] theorem cacheLeaf_contexts (s : State) (c : Ctx) (va : VA) (e : DWord) : (s.cacheLeaf c va e).contexts = s.contexts := rfl
@[simp] theorem cacheLeaf_launches (s : State) (c : Ctx) (va : VA) (e : DWord) : (s.cacheLeaf c va e).launches = s.launches := rfl
@[simp] theorem cacheLeaf_teams (s : State) (c : Ctx) (va : VA) (e : DWord) : (s.cacheLeaf c va e).teams = s.teams := rfl
@[simp] theorem cacheLeaf_groups (s : State) (c : Ctx) (va : VA) (e : DWord) : (s.cacheLeaf c va e).groups = s.groups := rfl
@[simp] theorem cacheLeaf_specs (s : State) (c : Ctx) (va : VA) (e : DWord) : (s.cacheLeaf c va e).specs = s.specs := rfl
@[simp] theorem cacheLeaf_pkgTick (s : State) (c : Ctx) (va : VA) (e : DWord) : (s.cacheLeaf c va e).pkgTick = s.pkgTick := rfl
@[simp] theorem cacheLeaf_pairTick (s : State) (c : Ctx) (va : VA) (e : DWord) : (s.cacheLeaf c va e).pairTick = s.pairTick := rfl
@[simp] theorem cacheLeaf_clk (s : State) (c : Ctx) (va : VA) (e : DWord) : (s.cacheLeaf c va e).clk = s.clk := rfl
@[simp] theorem cacheLeaf_agenda (s : State) (c : Ctx) (va : VA) (e : DWord) : (s.cacheLeaf c va e).agenda = s.agenda := rfl
@[simp] theorem cacheLeaf_cur (s : State) (c : Ctx) (va : VA) (e : DWord) : (s.cacheLeaf c va e).cur = s.cur := rfl
@[simp] theorem cacheLeaf_freeCtr (s : State) (c : Ctx) (va : VA) (e : DWord) : (s.cacheLeaf c va e).freeCtr = s.freeCtr := rfl
@[simp] theorem cacheLeaf_groupOf (s : State) (c : Ctx) (va : VA) (e : DWord) (j : Nat) :
    (s.cacheLeaf c va e).group? j = s.group? j := rfl
@[simp] theorem cacheLeaf_coreAt (s : State) (c : Ctx) (va : VA) (e : DWord) (j : Nat) :
    (s.cacheLeaf c va e).core j = s.core j := rfl
@[simp] theorem cacheLeaf_quarter (s : State) (c : Ctx) (va : VA) (e : DWord) (j : Nat) :
    (s.cacheLeaf c va e).quarter j = s.quarter j := rfl
@[simp] theorem cacheLeaf_slice (s : State) (c : Ctx) (va : VA) (e : DWord) (j : Nat) :
    (s.cacheLeaf c va e).slice j = s.slice j := rfl
@[simp] theorem cacheLeaf_die (s : State) (c : Ctx) (va : VA) (e : DWord) (j : Nat) : (s.cacheLeaf c va e).die j = s.die j := rfl
@[simp] theorem cacheLeaf_contextOf (s : State) (c : Ctx) (va : VA) (e : DWord) (j : Nat) :
    (s.cacheLeaf c va e).context? j = s.context? j := rfl
@[simp] theorem cacheLeaf_launchOf (s : State) (c : Ctx) (va : VA) (e : DWord) (j : Nat) :
    (s.cacheLeaf c va e).launch? j = s.launch? j := rfl
@[simp] theorem cacheLeaf_teamOf (s : State) (c : Ctx) (va : VA) (e : DWord) (j : Nat) :
    (s.cacheLeaf c va e).team? j = s.team? j := rfl
@[simp] theorem cacheLeaf_bank (s : State) (c : Ctx) (va : VA) (e : DWord) (j : Nat) :
    (s.cacheLeaf c va e).bank j = s.bank j := rfl
@[simp] theorem cacheLeaf_l2At (s : State) (c : Ctx) (va : VA) (e : DWord) (j : Nat) :
    (s.cacheLeaf c va e).l2At j = s.l2At j := rfl
@[simp] theorem cacheLeaf_dieEntry (s : State) (c : Ctx) (va : VA) (e : DWord) (j : Nat) :
    (s.cacheLeaf c va e).dieEntry j = s.dieEntry j := rfl
@[simp] theorem cacheLeaf_link (s : State) (c : Ctx) (va : VA) (e : DWord) (j : Nat) :
    (s.cacheLeaf c va e).link j = s.link j := rfl
@[simp] theorem cacheLeaf_dramByte (s : State) (c : Ctx) (va : VA) (e : DWord) (j : Nat) :
    (s.cacheLeaf c va e).dramByte j = s.dramByte j := rfl
@[simp] theorem cacheLeaf_hostByte (s : State) (c : Ctx) (va : VA) (e : DWord) (j : Nat) :
    (s.cacheLeaf c va e).hostByte j = s.hostByte j := rfl

/-! ### mapHost -/

@[simp] theorem mapHost_pkg (s : State) (h : HostIf → HostIf) : (s.mapHost h).pkg = s.pkg := rfl
@[simp] theorem mapHost_links (s : State) (h : HostIf → HostIf) : (s.mapHost h).links = s.links := rfl
@[simp] theorem mapHost_fab (s : State) (h : HostIf → HostIf) : (s.mapHost h).fab = s.fab := rfl
@[simp] theorem mapHost_mem (s : State) (h : HostIf → HostIf) : (s.mapHost h).mem = s.mem := rfl
@[simp] theorem mapHost_banks (s : State) (h : HostIf → HostIf) : (s.mapHost h).banks = s.banks := rfl
@[simp] theorem mapHost_bankMem (s : State) (h : HostIf → HostIf) : (s.mapHost h).bankMem = s.bankMem := rfl
@[simp] theorem mapHost_cores (s : State) (h : HostIf → HostIf) : (s.mapHost h).cores = s.cores := rfl
@[simp] theorem mapHost_quarters (s : State) (h : HostIf → HostIf) : (s.mapHost h).quarters = s.quarters := rfl
@[simp] theorem mapHost_slices (s : State) (h : HostIf → HostIf) : (s.mapHost h).slices = s.slices := rfl
@[simp] theorem mapHost_l2 (s : State) (h : HostIf → HostIf) : (s.mapHost h).l2 = s.l2 := rfl
@[simp] theorem mapHost_dieDir (s : State) (h : HostIf → HostIf) : (s.mapHost h).dieDir = s.dieDir := rfl
@[simp] theorem mapHost_asks (s : State) (h : HostIf → HostIf) : (s.mapHost h).asks = s.asks := rfl
@[simp] theorem mapHost_arenas (s : State) (h : HostIf → HostIf) : (s.mapHost h).arenas = s.arenas := rfl
@[simp] theorem mapHost_dies (s : State) (h : HostIf → HostIf) : (s.mapHost h).dies = s.dies := rfl
@[simp] theorem mapHost_contexts (s : State) (h : HostIf → HostIf) : (s.mapHost h).contexts = s.contexts := rfl
@[simp] theorem mapHost_launches (s : State) (h : HostIf → HostIf) : (s.mapHost h).launches = s.launches := rfl
@[simp] theorem mapHost_teams (s : State) (h : HostIf → HostIf) : (s.mapHost h).teams = s.teams := rfl
@[simp] theorem mapHost_groups (s : State) (h : HostIf → HostIf) : (s.mapHost h).groups = s.groups := rfl
@[simp] theorem mapHost_specs (s : State) (h : HostIf → HostIf) : (s.mapHost h).specs = s.specs := rfl
@[simp] theorem mapHost_pkgTick (s : State) (h : HostIf → HostIf) : (s.mapHost h).pkgTick = s.pkgTick := rfl
@[simp] theorem mapHost_pairTick (s : State) (h : HostIf → HostIf) : (s.mapHost h).pairTick = s.pairTick := rfl
@[simp] theorem mapHost_clk (s : State) (h : HostIf → HostIf) : (s.mapHost h).clk = s.clk := rfl
@[simp] theorem mapHost_agenda (s : State) (h : HostIf → HostIf) : (s.mapHost h).agenda = s.agenda := rfl
@[simp] theorem mapHost_cur (s : State) (h : HostIf → HostIf) : (s.mapHost h).cur = s.cur := rfl
@[simp] theorem mapHost_freeCtr (s : State) (h : HostIf → HostIf) : (s.mapHost h).freeCtr = s.freeCtr := rfl
@[simp] theorem mapHost_groupOf (s : State) (h : HostIf → HostIf) (j : Nat) : (s.mapHost h).group? j = s.group? j := rfl
@[simp] theorem mapHost_coreAt (s : State) (h : HostIf → HostIf) (j : Nat) : (s.mapHost h).core j = s.core j := rfl
@[simp] theorem mapHost_quarter (s : State) (h : HostIf → HostIf) (j : Nat) : (s.mapHost h).quarter j = s.quarter j := rfl
@[simp] theorem mapHost_slice (s : State) (h : HostIf → HostIf) (j : Nat) : (s.mapHost h).slice j = s.slice j := rfl
@[simp] theorem mapHost_die (s : State) (h : HostIf → HostIf) (j : Nat) : (s.mapHost h).die j = s.die j := rfl
@[simp] theorem mapHost_contextOf (s : State) (h : HostIf → HostIf) (j : Nat) : (s.mapHost h).context? j = s.context? j := rfl
@[simp] theorem mapHost_launchOf (s : State) (h : HostIf → HostIf) (j : Nat) : (s.mapHost h).launch? j = s.launch? j := rfl
@[simp] theorem mapHost_teamOf (s : State) (h : HostIf → HostIf) (j : Nat) : (s.mapHost h).team? j = s.team? j := rfl
@[simp] theorem mapHost_bank (s : State) (h : HostIf → HostIf) (j : Nat) : (s.mapHost h).bank j = s.bank j := rfl
@[simp] theorem mapHost_l2At (s : State) (h : HostIf → HostIf) (j : Nat) : (s.mapHost h).l2At j = s.l2At j := rfl
@[simp] theorem mapHost_dieEntry (s : State) (h : HostIf → HostIf) (j : Nat) : (s.mapHost h).dieEntry j = s.dieEntry j := rfl
@[simp] theorem mapHost_link (s : State) (h : HostIf → HostIf) (j : Nat) : (s.mapHost h).link j = s.link j := rfl
@[simp] theorem mapHost_dramByte (s : State) (h : HostIf → HostIf) (j : Nat) : (s.mapHost h).dramByte j = s.dramByte j := rfl

/-! ### mapPkg -/

@[simp] theorem mapPkg_host (s : State) (h : Package → Package) : (s.mapPkg h).host = s.host := rfl
@[simp] theorem mapPkg_links (s : State) (h : Package → Package) : (s.mapPkg h).links = s.links := rfl
@[simp] theorem mapPkg_fab (s : State) (h : Package → Package) : (s.mapPkg h).fab = s.fab := rfl
@[simp] theorem mapPkg_mem (s : State) (h : Package → Package) : (s.mapPkg h).mem = s.mem := rfl
@[simp] theorem mapPkg_banks (s : State) (h : Package → Package) : (s.mapPkg h).banks = s.banks := rfl
@[simp] theorem mapPkg_bankMem (s : State) (h : Package → Package) : (s.mapPkg h).bankMem = s.bankMem := rfl
@[simp] theorem mapPkg_cores (s : State) (h : Package → Package) : (s.mapPkg h).cores = s.cores := rfl
@[simp] theorem mapPkg_quarters (s : State) (h : Package → Package) : (s.mapPkg h).quarters = s.quarters := rfl
@[simp] theorem mapPkg_slices (s : State) (h : Package → Package) : (s.mapPkg h).slices = s.slices := rfl
@[simp] theorem mapPkg_l2 (s : State) (h : Package → Package) : (s.mapPkg h).l2 = s.l2 := rfl
@[simp] theorem mapPkg_dieDir (s : State) (h : Package → Package) : (s.mapPkg h).dieDir = s.dieDir := rfl
@[simp] theorem mapPkg_asks (s : State) (h : Package → Package) : (s.mapPkg h).asks = s.asks := rfl
@[simp] theorem mapPkg_arenas (s : State) (h : Package → Package) : (s.mapPkg h).arenas = s.arenas := rfl
@[simp] theorem mapPkg_dies (s : State) (h : Package → Package) : (s.mapPkg h).dies = s.dies := rfl
@[simp] theorem mapPkg_contexts (s : State) (h : Package → Package) : (s.mapPkg h).contexts = s.contexts := rfl
@[simp] theorem mapPkg_launches (s : State) (h : Package → Package) : (s.mapPkg h).launches = s.launches := rfl
@[simp] theorem mapPkg_teams (s : State) (h : Package → Package) : (s.mapPkg h).teams = s.teams := rfl
@[simp] theorem mapPkg_groups (s : State) (h : Package → Package) : (s.mapPkg h).groups = s.groups := rfl
@[simp] theorem mapPkg_specs (s : State) (h : Package → Package) : (s.mapPkg h).specs = s.specs := rfl
@[simp] theorem mapPkg_pkgTick (s : State) (h : Package → Package) : (s.mapPkg h).pkgTick = s.pkgTick := rfl
@[simp] theorem mapPkg_pairTick (s : State) (h : Package → Package) : (s.mapPkg h).pairTick = s.pairTick := rfl
@[simp] theorem mapPkg_clk (s : State) (h : Package → Package) : (s.mapPkg h).clk = s.clk := rfl
@[simp] theorem mapPkg_agenda (s : State) (h : Package → Package) : (s.mapPkg h).agenda = s.agenda := rfl
@[simp] theorem mapPkg_cur (s : State) (h : Package → Package) : (s.mapPkg h).cur = s.cur := rfl
@[simp] theorem mapPkg_freeCtr (s : State) (h : Package → Package) : (s.mapPkg h).freeCtr = s.freeCtr := rfl
@[simp] theorem mapPkg_groupOf (s : State) (h : Package → Package) (j : Nat) : (s.mapPkg h).group? j = s.group? j := rfl
@[simp] theorem mapPkg_coreAt (s : State) (h : Package → Package) (j : Nat) : (s.mapPkg h).core j = s.core j := rfl
@[simp] theorem mapPkg_quarter (s : State) (h : Package → Package) (j : Nat) : (s.mapPkg h).quarter j = s.quarter j := rfl
@[simp] theorem mapPkg_slice (s : State) (h : Package → Package) (j : Nat) : (s.mapPkg h).slice j = s.slice j := rfl
@[simp] theorem mapPkg_die (s : State) (h : Package → Package) (j : Nat) : (s.mapPkg h).die j = s.die j := rfl
@[simp] theorem mapPkg_contextOf (s : State) (h : Package → Package) (j : Nat) : (s.mapPkg h).context? j = s.context? j := rfl
@[simp] theorem mapPkg_launchOf (s : State) (h : Package → Package) (j : Nat) : (s.mapPkg h).launch? j = s.launch? j := rfl
@[simp] theorem mapPkg_teamOf (s : State) (h : Package → Package) (j : Nat) : (s.mapPkg h).team? j = s.team? j := rfl
@[simp] theorem mapPkg_bank (s : State) (h : Package → Package) (j : Nat) : (s.mapPkg h).bank j = s.bank j := rfl
@[simp] theorem mapPkg_l2At (s : State) (h : Package → Package) (j : Nat) : (s.mapPkg h).l2At j = s.l2At j := rfl
@[simp] theorem mapPkg_dieEntry (s : State) (h : Package → Package) (j : Nat) : (s.mapPkg h).dieEntry j = s.dieEntry j := rfl
@[simp] theorem mapPkg_link (s : State) (h : Package → Package) (j : Nat) : (s.mapPkg h).link j = s.link j := rfl
@[simp] theorem mapPkg_dramByte (s : State) (h : Package → Package) (j : Nat) : (s.mapPkg h).dramByte j = s.dramByte j := rfl
@[simp] theorem mapPkg_hostByte (s : State) (h : Package → Package) (j : Nat) : (s.mapPkg h).hostByte j = s.hostByte j := rfl

/-! ### setLink -/

@[simp] theorem setLink_pkg (s : State) (k : Nat) (x : Link) : (s.setLink k x).pkg = s.pkg := rfl
@[simp] theorem setLink_host (s : State) (k : Nat) (x : Link) : (s.setLink k x).host = s.host := rfl
@[simp] theorem setLink_fab (s : State) (k : Nat) (x : Link) : (s.setLink k x).fab = s.fab := rfl
@[simp] theorem setLink_mem (s : State) (k : Nat) (x : Link) : (s.setLink k x).mem = s.mem := rfl
@[simp] theorem setLink_banks (s : State) (k : Nat) (x : Link) : (s.setLink k x).banks = s.banks := rfl
@[simp] theorem setLink_bankMem (s : State) (k : Nat) (x : Link) : (s.setLink k x).bankMem = s.bankMem := rfl
@[simp] theorem setLink_cores (s : State) (k : Nat) (x : Link) : (s.setLink k x).cores = s.cores := rfl
@[simp] theorem setLink_quarters (s : State) (k : Nat) (x : Link) : (s.setLink k x).quarters = s.quarters := rfl
@[simp] theorem setLink_slices (s : State) (k : Nat) (x : Link) : (s.setLink k x).slices = s.slices := rfl
@[simp] theorem setLink_l2 (s : State) (k : Nat) (x : Link) : (s.setLink k x).l2 = s.l2 := rfl
@[simp] theorem setLink_dieDir (s : State) (k : Nat) (x : Link) : (s.setLink k x).dieDir = s.dieDir := rfl
@[simp] theorem setLink_asks (s : State) (k : Nat) (x : Link) : (s.setLink k x).asks = s.asks := rfl
@[simp] theorem setLink_arenas (s : State) (k : Nat) (x : Link) : (s.setLink k x).arenas = s.arenas := rfl
@[simp] theorem setLink_dies (s : State) (k : Nat) (x : Link) : (s.setLink k x).dies = s.dies := rfl
@[simp] theorem setLink_contexts (s : State) (k : Nat) (x : Link) : (s.setLink k x).contexts = s.contexts := rfl
@[simp] theorem setLink_launches (s : State) (k : Nat) (x : Link) : (s.setLink k x).launches = s.launches := rfl
@[simp] theorem setLink_teams (s : State) (k : Nat) (x : Link) : (s.setLink k x).teams = s.teams := rfl
@[simp] theorem setLink_groups (s : State) (k : Nat) (x : Link) : (s.setLink k x).groups = s.groups := rfl
@[simp] theorem setLink_specs (s : State) (k : Nat) (x : Link) : (s.setLink k x).specs = s.specs := rfl
@[simp] theorem setLink_pkgTick (s : State) (k : Nat) (x : Link) : (s.setLink k x).pkgTick = s.pkgTick := rfl
@[simp] theorem setLink_pairTick (s : State) (k : Nat) (x : Link) : (s.setLink k x).pairTick = s.pairTick := rfl
@[simp] theorem setLink_clk (s : State) (k : Nat) (x : Link) : (s.setLink k x).clk = s.clk := rfl
@[simp] theorem setLink_agenda (s : State) (k : Nat) (x : Link) : (s.setLink k x).agenda = s.agenda := rfl
@[simp] theorem setLink_cur (s : State) (k : Nat) (x : Link) : (s.setLink k x).cur = s.cur := rfl
@[simp] theorem setLink_freeCtr (s : State) (k : Nat) (x : Link) : (s.setLink k x).freeCtr = s.freeCtr := rfl
@[simp] theorem setLink_groupOf (s : State) (k : Nat) (x : Link) (j : Nat) : (s.setLink k x).group? j = s.group? j := rfl
@[simp] theorem setLink_coreAt (s : State) (k : Nat) (x : Link) (j : Nat) : (s.setLink k x).core j = s.core j := rfl
@[simp] theorem setLink_quarter (s : State) (k : Nat) (x : Link) (j : Nat) : (s.setLink k x).quarter j = s.quarter j := rfl
@[simp] theorem setLink_slice (s : State) (k : Nat) (x : Link) (j : Nat) : (s.setLink k x).slice j = s.slice j := rfl
@[simp] theorem setLink_die (s : State) (k : Nat) (x : Link) (j : Nat) : (s.setLink k x).die j = s.die j := rfl
@[simp] theorem setLink_contextOf (s : State) (k : Nat) (x : Link) (j : Nat) : (s.setLink k x).context? j = s.context? j := rfl
@[simp] theorem setLink_launchOf (s : State) (k : Nat) (x : Link) (j : Nat) : (s.setLink k x).launch? j = s.launch? j := rfl
@[simp] theorem setLink_teamOf (s : State) (k : Nat) (x : Link) (j : Nat) : (s.setLink k x).team? j = s.team? j := rfl
@[simp] theorem setLink_bank (s : State) (k : Nat) (x : Link) (j : Nat) : (s.setLink k x).bank j = s.bank j := rfl
@[simp] theorem setLink_l2At (s : State) (k : Nat) (x : Link) (j : Nat) : (s.setLink k x).l2At j = s.l2At j := rfl
@[simp] theorem setLink_dieEntry (s : State) (k : Nat) (x : Link) (j : Nat) : (s.setLink k x).dieEntry j = s.dieEntry j := rfl
@[simp] theorem setLink_dramByte (s : State) (k : Nat) (x : Link) (j : Nat) : (s.setLink k x).dramByte j = s.dramByte j := rfl
@[simp] theorem setLink_hostByte (s : State) (k : Nat) (x : Link) (j : Nat) : (s.setLink k x).hostByte j = s.hostByte j := rfl

/-! ### setSwitch -/

@[simp] theorem setSwitch_pkg (s : State) (k : Nat) (x : Switch) : (s.setSwitch k x).pkg = s.pkg := rfl
@[simp] theorem setSwitch_host (s : State) (k : Nat) (x : Switch) : (s.setSwitch k x).host = s.host := rfl
@[simp] theorem setSwitch_links (s : State) (k : Nat) (x : Switch) : (s.setSwitch k x).links = s.links := rfl
@[simp] theorem setSwitch_mem (s : State) (k : Nat) (x : Switch) : (s.setSwitch k x).mem = s.mem := rfl
@[simp] theorem setSwitch_banks (s : State) (k : Nat) (x : Switch) : (s.setSwitch k x).banks = s.banks := rfl
@[simp] theorem setSwitch_bankMem (s : State) (k : Nat) (x : Switch) : (s.setSwitch k x).bankMem = s.bankMem := rfl
@[simp] theorem setSwitch_cores (s : State) (k : Nat) (x : Switch) : (s.setSwitch k x).cores = s.cores := rfl
@[simp] theorem setSwitch_quarters (s : State) (k : Nat) (x : Switch) : (s.setSwitch k x).quarters = s.quarters := rfl
@[simp] theorem setSwitch_slices (s : State) (k : Nat) (x : Switch) : (s.setSwitch k x).slices = s.slices := rfl
@[simp] theorem setSwitch_l2 (s : State) (k : Nat) (x : Switch) : (s.setSwitch k x).l2 = s.l2 := rfl
@[simp] theorem setSwitch_dieDir (s : State) (k : Nat) (x : Switch) : (s.setSwitch k x).dieDir = s.dieDir := rfl
@[simp] theorem setSwitch_asks (s : State) (k : Nat) (x : Switch) : (s.setSwitch k x).asks = s.asks := rfl
@[simp] theorem setSwitch_arenas (s : State) (k : Nat) (x : Switch) : (s.setSwitch k x).arenas = s.arenas := rfl
@[simp] theorem setSwitch_dies (s : State) (k : Nat) (x : Switch) : (s.setSwitch k x).dies = s.dies := rfl
@[simp] theorem setSwitch_contexts (s : State) (k : Nat) (x : Switch) : (s.setSwitch k x).contexts = s.contexts := rfl
@[simp] theorem setSwitch_launches (s : State) (k : Nat) (x : Switch) : (s.setSwitch k x).launches = s.launches := rfl
@[simp] theorem setSwitch_teams (s : State) (k : Nat) (x : Switch) : (s.setSwitch k x).teams = s.teams := rfl
@[simp] theorem setSwitch_groups (s : State) (k : Nat) (x : Switch) : (s.setSwitch k x).groups = s.groups := rfl
@[simp] theorem setSwitch_specs (s : State) (k : Nat) (x : Switch) : (s.setSwitch k x).specs = s.specs := rfl
@[simp] theorem setSwitch_pkgTick (s : State) (k : Nat) (x : Switch) : (s.setSwitch k x).pkgTick = s.pkgTick := rfl
@[simp] theorem setSwitch_pairTick (s : State) (k : Nat) (x : Switch) : (s.setSwitch k x).pairTick = s.pairTick := rfl
@[simp] theorem setSwitch_clk (s : State) (k : Nat) (x : Switch) : (s.setSwitch k x).clk = s.clk := rfl
@[simp] theorem setSwitch_agenda (s : State) (k : Nat) (x : Switch) : (s.setSwitch k x).agenda = s.agenda := rfl
@[simp] theorem setSwitch_cur (s : State) (k : Nat) (x : Switch) : (s.setSwitch k x).cur = s.cur := rfl
@[simp] theorem setSwitch_freeCtr (s : State) (k : Nat) (x : Switch) : (s.setSwitch k x).freeCtr = s.freeCtr := rfl
@[simp] theorem setSwitch_groupOf (s : State) (k : Nat) (x : Switch) (j : Nat) : (s.setSwitch k x).group? j = s.group? j := rfl
@[simp] theorem setSwitch_coreAt (s : State) (k : Nat) (x : Switch) (j : Nat) : (s.setSwitch k x).core j = s.core j := rfl
@[simp] theorem setSwitch_quarter (s : State) (k : Nat) (x : Switch) (j : Nat) : (s.setSwitch k x).quarter j = s.quarter j := rfl
@[simp] theorem setSwitch_slice (s : State) (k : Nat) (x : Switch) (j : Nat) : (s.setSwitch k x).slice j = s.slice j := rfl
@[simp] theorem setSwitch_die (s : State) (k : Nat) (x : Switch) (j : Nat) : (s.setSwitch k x).die j = s.die j := rfl
@[simp] theorem setSwitch_contextOf (s : State) (k : Nat) (x : Switch) (j : Nat) :
    (s.setSwitch k x).context? j = s.context? j := rfl
@[simp] theorem setSwitch_launchOf (s : State) (k : Nat) (x : Switch) (j : Nat) : (s.setSwitch k x).launch? j = s.launch? j := rfl
@[simp] theorem setSwitch_teamOf (s : State) (k : Nat) (x : Switch) (j : Nat) : (s.setSwitch k x).team? j = s.team? j := rfl
@[simp] theorem setSwitch_bank (s : State) (k : Nat) (x : Switch) (j : Nat) : (s.setSwitch k x).bank j = s.bank j := rfl
@[simp] theorem setSwitch_l2At (s : State) (k : Nat) (x : Switch) (j : Nat) : (s.setSwitch k x).l2At j = s.l2At j := rfl
@[simp] theorem setSwitch_dieEntry (s : State) (k : Nat) (x : Switch) (j : Nat) :
    (s.setSwitch k x).dieEntry j = s.dieEntry j := rfl
@[simp] theorem setSwitch_link (s : State) (k : Nat) (x : Switch) (j : Nat) : (s.setSwitch k x).link j = s.link j := rfl
@[simp] theorem setSwitch_dramByte (s : State) (k : Nat) (x : Switch) (j : Nat) :
    (s.setSwitch k x).dramByte j = s.dramByte j := rfl
@[simp] theorem setSwitch_hostByte (s : State) (k : Nat) (x : Switch) (j : Nat) :
    (s.setSwitch k x).hostByte j = s.hostByte j := rfl

/-! ### setSysLine -/

@[simp] theorem setSysLine_pkg (s : State) (g : LineAddr) (x : SysLine) : (s.setSysLine g x).pkg = s.pkg := rfl
@[simp] theorem setSysLine_host (s : State) (g : LineAddr) (x : SysLine) : (s.setSysLine g x).host = s.host := rfl
@[simp] theorem setSysLine_links (s : State) (g : LineAddr) (x : SysLine) : (s.setSysLine g x).links = s.links := rfl
@[simp] theorem setSysLine_mem (s : State) (g : LineAddr) (x : SysLine) : (s.setSysLine g x).mem = s.mem := rfl
@[simp] theorem setSysLine_banks (s : State) (g : LineAddr) (x : SysLine) : (s.setSysLine g x).banks = s.banks := rfl
@[simp] theorem setSysLine_bankMem (s : State) (g : LineAddr) (x : SysLine) : (s.setSysLine g x).bankMem = s.bankMem := rfl
@[simp] theorem setSysLine_cores (s : State) (g : LineAddr) (x : SysLine) : (s.setSysLine g x).cores = s.cores := rfl
@[simp] theorem setSysLine_quarters (s : State) (g : LineAddr) (x : SysLine) : (s.setSysLine g x).quarters = s.quarters := rfl
@[simp] theorem setSysLine_slices (s : State) (g : LineAddr) (x : SysLine) : (s.setSysLine g x).slices = s.slices := rfl
@[simp] theorem setSysLine_l2 (s : State) (g : LineAddr) (x : SysLine) : (s.setSysLine g x).l2 = s.l2 := rfl
@[simp] theorem setSysLine_dieDir (s : State) (g : LineAddr) (x : SysLine) : (s.setSysLine g x).dieDir = s.dieDir := rfl
@[simp] theorem setSysLine_asks (s : State) (g : LineAddr) (x : SysLine) : (s.setSysLine g x).asks = s.asks := rfl
@[simp] theorem setSysLine_arenas (s : State) (g : LineAddr) (x : SysLine) : (s.setSysLine g x).arenas = s.arenas := rfl
@[simp] theorem setSysLine_dies (s : State) (g : LineAddr) (x : SysLine) : (s.setSysLine g x).dies = s.dies := rfl
@[simp] theorem setSysLine_contexts (s : State) (g : LineAddr) (x : SysLine) : (s.setSysLine g x).contexts = s.contexts := rfl
@[simp] theorem setSysLine_launches (s : State) (g : LineAddr) (x : SysLine) : (s.setSysLine g x).launches = s.launches := rfl
@[simp] theorem setSysLine_teams (s : State) (g : LineAddr) (x : SysLine) : (s.setSysLine g x).teams = s.teams := rfl
@[simp] theorem setSysLine_groups (s : State) (g : LineAddr) (x : SysLine) : (s.setSysLine g x).groups = s.groups := rfl
@[simp] theorem setSysLine_specs (s : State) (g : LineAddr) (x : SysLine) : (s.setSysLine g x).specs = s.specs := rfl
@[simp] theorem setSysLine_pkgTick (s : State) (g : LineAddr) (x : SysLine) : (s.setSysLine g x).pkgTick = s.pkgTick := rfl
@[simp] theorem setSysLine_pairTick (s : State) (g : LineAddr) (x : SysLine) : (s.setSysLine g x).pairTick = s.pairTick := rfl
@[simp] theorem setSysLine_clk (s : State) (g : LineAddr) (x : SysLine) : (s.setSysLine g x).clk = s.clk := rfl
@[simp] theorem setSysLine_agenda (s : State) (g : LineAddr) (x : SysLine) : (s.setSysLine g x).agenda = s.agenda := rfl
@[simp] theorem setSysLine_cur (s : State) (g : LineAddr) (x : SysLine) : (s.setSysLine g x).cur = s.cur := rfl
@[simp] theorem setSysLine_freeCtr (s : State) (g : LineAddr) (x : SysLine) : (s.setSysLine g x).freeCtr = s.freeCtr := rfl
@[simp] theorem setSysLine_groupOf (s : State) (g : LineAddr) (x : SysLine) (j : Nat) :
    (s.setSysLine g x).group? j = s.group? j := rfl
@[simp] theorem setSysLine_coreAt (s : State) (g : LineAddr) (x : SysLine) (j : Nat) : (s.setSysLine g x).core j = s.core j := rfl
@[simp] theorem setSysLine_quarter (s : State) (g : LineAddr) (x : SysLine) (j : Nat) :
    (s.setSysLine g x).quarter j = s.quarter j := rfl
@[simp] theorem setSysLine_slice (s : State) (g : LineAddr) (x : SysLine) (j : Nat) :
    (s.setSysLine g x).slice j = s.slice j := rfl
@[simp] theorem setSysLine_die (s : State) (g : LineAddr) (x : SysLine) (j : Nat) : (s.setSysLine g x).die j = s.die j := rfl
@[simp] theorem setSysLine_contextOf (s : State) (g : LineAddr) (x : SysLine) (j : Nat) :
    (s.setSysLine g x).context? j = s.context? j := rfl
@[simp] theorem setSysLine_launchOf (s : State) (g : LineAddr) (x : SysLine) (j : Nat) :
    (s.setSysLine g x).launch? j = s.launch? j := rfl
@[simp] theorem setSysLine_teamOf (s : State) (g : LineAddr) (x : SysLine) (j : Nat) :
    (s.setSysLine g x).team? j = s.team? j := rfl
@[simp] theorem setSysLine_bank (s : State) (g : LineAddr) (x : SysLine) (j : Nat) : (s.setSysLine g x).bank j = s.bank j := rfl
@[simp] theorem setSysLine_l2At (s : State) (g : LineAddr) (x : SysLine) (j : Nat) : (s.setSysLine g x).l2At j = s.l2At j := rfl
@[simp] theorem setSysLine_dieEntry (s : State) (g : LineAddr) (x : SysLine) (j : Nat) :
    (s.setSysLine g x).dieEntry j = s.dieEntry j := rfl
@[simp] theorem setSysLine_link (s : State) (g : LineAddr) (x : SysLine) (j : Nat) : (s.setSysLine g x).link j = s.link j := rfl
@[simp] theorem setSysLine_dramByte (s : State) (g : LineAddr) (x : SysLine) (j : Nat) :
    (s.setSysLine g x).dramByte j = s.dramByte j := rfl
@[simp] theorem setSysLine_hostByte (s : State) (g : LineAddr) (x : SysLine) (j : Nat) :
    (s.setSysLine g x).hostByte j = s.hostByte j := rfl

/-! ### carry -/

@[simp] theorem carry_pkg (s : State) (m : FabMsg) : (s.carry m).pkg = s.pkg := rfl
@[simp] theorem carry_host (s : State) (m : FabMsg) : (s.carry m).host = s.host := rfl
@[simp] theorem carry_links (s : State) (m : FabMsg) : (s.carry m).links = s.links := rfl
@[simp] theorem carry_mem (s : State) (m : FabMsg) : (s.carry m).mem = s.mem := rfl
@[simp] theorem carry_banks (s : State) (m : FabMsg) : (s.carry m).banks = s.banks := rfl
@[simp] theorem carry_bankMem (s : State) (m : FabMsg) : (s.carry m).bankMem = s.bankMem := rfl
@[simp] theorem carry_cores (s : State) (m : FabMsg) : (s.carry m).cores = s.cores := rfl
@[simp] theorem carry_quarters (s : State) (m : FabMsg) : (s.carry m).quarters = s.quarters := rfl
@[simp] theorem carry_slices (s : State) (m : FabMsg) : (s.carry m).slices = s.slices := rfl
@[simp] theorem carry_l2 (s : State) (m : FabMsg) : (s.carry m).l2 = s.l2 := rfl
@[simp] theorem carry_dieDir (s : State) (m : FabMsg) : (s.carry m).dieDir = s.dieDir := rfl
@[simp] theorem carry_asks (s : State) (m : FabMsg) : (s.carry m).asks = s.asks := rfl
@[simp] theorem carry_arenas (s : State) (m : FabMsg) : (s.carry m).arenas = s.arenas := rfl
@[simp] theorem carry_dies (s : State) (m : FabMsg) : (s.carry m).dies = s.dies := rfl
@[simp] theorem carry_contexts (s : State) (m : FabMsg) : (s.carry m).contexts = s.contexts := rfl
@[simp] theorem carry_launches (s : State) (m : FabMsg) : (s.carry m).launches = s.launches := rfl
@[simp] theorem carry_teams (s : State) (m : FabMsg) : (s.carry m).teams = s.teams := rfl
@[simp] theorem carry_groups (s : State) (m : FabMsg) : (s.carry m).groups = s.groups := rfl
@[simp] theorem carry_specs (s : State) (m : FabMsg) : (s.carry m).specs = s.specs := rfl
@[simp] theorem carry_pkgTick (s : State) (m : FabMsg) : (s.carry m).pkgTick = s.pkgTick := rfl
@[simp] theorem carry_pairTick (s : State) (m : FabMsg) : (s.carry m).pairTick = s.pairTick := rfl
@[simp] theorem carry_clk (s : State) (m : FabMsg) : (s.carry m).clk = s.clk := rfl
@[simp] theorem carry_agenda (s : State) (m : FabMsg) : (s.carry m).agenda = s.agenda := rfl
@[simp] theorem carry_cur (s : State) (m : FabMsg) : (s.carry m).cur = s.cur := rfl
@[simp] theorem carry_freeCtr (s : State) (m : FabMsg) : (s.carry m).freeCtr = s.freeCtr := rfl
@[simp] theorem carry_groupOf (s : State) (m : FabMsg) (j : Nat) : (s.carry m).group? j = s.group? j := rfl
@[simp] theorem carry_coreAt (s : State) (m : FabMsg) (j : Nat) : (s.carry m).core j = s.core j := rfl
@[simp] theorem carry_quarter (s : State) (m : FabMsg) (j : Nat) : (s.carry m).quarter j = s.quarter j := rfl
@[simp] theorem carry_slice (s : State) (m : FabMsg) (j : Nat) : (s.carry m).slice j = s.slice j := rfl
@[simp] theorem carry_die (s : State) (m : FabMsg) (j : Nat) : (s.carry m).die j = s.die j := rfl
@[simp] theorem carry_contextOf (s : State) (m : FabMsg) (j : Nat) : (s.carry m).context? j = s.context? j := rfl
@[simp] theorem carry_launchOf (s : State) (m : FabMsg) (j : Nat) : (s.carry m).launch? j = s.launch? j := rfl
@[simp] theorem carry_teamOf (s : State) (m : FabMsg) (j : Nat) : (s.carry m).team? j = s.team? j := rfl
@[simp] theorem carry_bank (s : State) (m : FabMsg) (j : Nat) : (s.carry m).bank j = s.bank j := rfl
@[simp] theorem carry_l2At (s : State) (m : FabMsg) (j : Nat) : (s.carry m).l2At j = s.l2At j := rfl
@[simp] theorem carry_dieEntry (s : State) (m : FabMsg) (j : Nat) : (s.carry m).dieEntry j = s.dieEntry j := rfl
@[simp] theorem carry_link (s : State) (m : FabMsg) (j : Nat) : (s.carry m).link j = s.link j := rfl
@[simp] theorem carry_dramByte (s : State) (m : FabMsg) (j : Nat) : (s.carry m).dramByte j = s.dramByte j := rfl
@[simp] theorem carry_hostByte (s : State) (m : FabMsg) (j : Nat) : (s.carry m).hostByte j = s.hostByte j := rfl

/-! ### A lookup after the update of the same part -/

@[simp] theorem setCore_core_same (s : State) (k : Nat) (x : Core) : (s.setCore k x).core k = x := by
  simp [State.setCore, State.core]
theorem setCore_core_other (s : State) {k j : Nat} (x : Core) (h : j ≠ k) : (s.setCore k x).core j = s.core j := by
  simp [State.setCore, State.core, SMap.get_set, h]
@[simp] theorem setQuarter_quarter_same (s : State) (k : Nat) (x : Quarter) : (s.setQuarter k x).quarter k = x := by
  simp [State.setQuarter, State.quarter]
theorem setQuarter_quarter_other (s : State) {k j : Nat} (x : Quarter) (h : j ≠ k) : (s.setQuarter k x).quarter j = s.quarter j := by
  simp [State.setQuarter, State.quarter, SMap.get_set, h]
@[simp] theorem setSlice_slice_same (s : State) (k : Nat) (x : Slice) : (s.setSlice k x).slice k = x := by
  simp [State.setSlice, State.slice]
theorem setSlice_slice_other (s : State) {k j : Nat} (x : Slice) (h : j ≠ k) : (s.setSlice k x).slice j = s.slice j := by
  simp [State.setSlice, State.slice, SMap.get_set, h]
@[simp] theorem setDie_die_same (s : State) (k : Nat) (x : DieState) : (s.setDie k x).die k = x := by
  simp [State.setDie, State.die]
theorem setDie_die_other (s : State) {k j : Nat} (x : DieState) (h : j ≠ k) : (s.setDie k x).die j = s.die j := by
  simp [State.setDie, State.die, SMap.get_set, h]
@[simp] theorem setLink_link_same (s : State) (k : Nat) (x : Link) : (s.setLink k x).link k = x := by
  simp [State.setLink, State.link]
theorem setLink_link_other (s : State) {k j : Nat} (x : Link) (h : j ≠ k) : (s.setLink k x).link j = s.link j := by
  simp [State.setLink, State.link, SMap.get_set, h]
@[simp] theorem setContext_contextOf_same (s : State) (k : Nat) (x : Context) : (s.setContext k x).context? k = some x := by
  simp [State.setContext, State.context?]
theorem setContext_contextOf_other (s : State) {k j : Nat} (x : Context) (h : j ≠ k) :
    (s.setContext k x).context? j = s.context? j := by simp [State.setContext, State.context?, SMap.get_set, h]
@[simp] theorem removeContext_contextOf_same (s : State) (k : Nat) : (s.removeContext k).context? k = none := by
  simp [State.removeContext, State.context?]
theorem removeContext_contextOf_other (s : State) {k j : Nat} (h : j ≠ k) : (s.removeContext k).context? j = s.context? j := by
  simp [State.removeContext, State.context?, SMap.get_set, h]
@[simp] theorem setLaunch_launchOf_same (s : State) (k : Nat) (x : Launch) : (s.setLaunch k x).launch? k = some x := by
  simp [State.setLaunch, State.launch?]
theorem setLaunch_launchOf_other (s : State) {k j : Nat} (x : Launch) (h : j ≠ k) : (s.setLaunch k x).launch? j = s.launch? j := by
  simp [State.setLaunch, State.launch?, SMap.get_set, h]
@[simp] theorem removeLaunch_launchOf_same (s : State) (k : Nat) : (s.removeLaunch k).launch? k = none := by
  simp [State.removeLaunch, State.launch?]
theorem removeLaunch_launchOf_other (s : State) {k j : Nat} (h : j ≠ k) : (s.removeLaunch k).launch? j = s.launch? j := by
  simp [State.removeLaunch, State.launch?, SMap.get_set, h]
@[simp] theorem setTeam_teamOf_same (s : State) (k : Nat) (x : Team) : (s.setTeam k x).team? k = some x := by
  simp [State.setTeam, State.team?]
theorem setTeam_teamOf_other (s : State) {k j : Nat} (x : Team) (h : j ≠ k) : (s.setTeam k x).team? j = s.team? j := by
  simp [State.setTeam, State.team?, SMap.get_set, h]
@[simp] theorem removeTeam_teamOf_same (s : State) (k : Nat) : (s.removeTeam k).team? k = none := by
  simp [State.removeTeam, State.team?]
theorem removeTeam_teamOf_other (s : State) {k j : Nat} (h : j ≠ k) : (s.removeTeam k).team? j = s.team? j := by
  simp [State.removeTeam, State.team?, SMap.get_set, h]
@[simp] theorem removeGroup_groupOf_same (s : State) (k : Nat) : (s.removeGroup k).group? k = none := by
  simp [State.removeGroup, State.group?]
theorem removeGroup_groupOf_other (s : State) {k j : Nat} (h : j ≠ k) : (s.removeGroup k).group? j = s.group? j := by
  simp [State.removeGroup, State.group?, SMap.get_set, h]

@[simp] theorem setBank_bank_same (s : State) (k : Nat) (x : Bank) :
    (s.setBank k x).bank k = x := by
  simp only [State.setBank, State.bank, SMap.get_set_same]; split <;> simp_all

theorem setBank_bank_other (s : State) {k j : Nat} (x : Bank) (h : j ≠ k) : (s.setBank k x).bank j = s.bank j := by
  simp [State.setBank, State.bank, SMap.get_set, h]

@[simp] theorem setL2_l2At_same (s : State) (k : Nat) (x : Option L2Line) : (s.setL2 k x).l2At k = x := by
  simp [State.setL2, State.l2At]

theorem setL2_l2At_other (s : State) {k j : Nat} (x : Option L2Line) (h : j ≠ k) : (s.setL2 k x).l2At j = s.l2At j := by
  simp [State.setL2, State.l2At, SMap.get_set, h]

@[simp] theorem setSwitch_fswitch_same (s : State) (k : Nat) (x : Switch) : (s.setSwitch k x).fswitch k = x := by
  simp [State.setSwitch, State.fswitch]

@[simp] theorem setSysLine_sysLine_same (s : State) (g : LineAddr) (x : SysLine) : (s.setSysLine g x).sysLine g = x := by
  simp only [State.setSysLine, State.sysLine, SMap.get_set_same]; split <;> simp_all

/-! ### Slots and registers of a group -/

@[simp] theorem setSlot_die (g : Group) (sel : PcSel) (p : PcSlot) : (g.setSlot sel p).die = g.die := by cases sel <;> rfl
@[simp] theorem setPc_die (g : Group) (sel : PcSel) (pc : VA) : (g.setPc sel pc).die = g.die := by cases sel <;> rfl
@[simp] theorem setSlot_core (g : Group) (sel : PcSel) (p : PcSlot) : (g.setSlot sel p).core = g.core := by cases sel <;> rfl
@[simp] theorem setPc_core (g : Group) (sel : PcSel) (pc : VA) : (g.setPc sel pc).core = g.core := by cases sel <;> rfl
@[simp] theorem setSlot_quarter (g : Group) (sel : PcSel) (p : PcSlot) : (g.setSlot sel p).quarter = g.quarter := by
  cases sel <;> rfl
@[simp] theorem setPc_quarter (g : Group) (sel : PcSel) (pc : VA) : (g.setPc sel pc).quarter = g.quarter := by cases sel <;> rfl
@[simp] theorem setSlot_slot (g : Group) (sel : PcSel) (p : PcSlot) : (g.setSlot sel p).slot = g.slot := by cases sel <;> rfl
@[simp] theorem setPc_slot (g : Group) (sel : PcSel) (pc : VA) : (g.setPc sel pc).slot = g.slot := by cases sel <;> rfl
@[simp] theorem setSlot_ctx (g : Group) (sel : PcSel) (p : PcSlot) : (g.setSlot sel p).ctx = g.ctx := by cases sel <;> rfl
@[simp] theorem setPc_ctx (g : Group) (sel : PcSel) (pc : VA) : (g.setPc sel pc).ctx = g.ctx := by cases sel <;> rfl
@[simp] theorem setSlot_team (g : Group) (sel : PcSel) (p : PcSlot) : (g.setSlot sel p).team = g.team := by cases sel <;> rfl
@[simp] theorem setPc_team (g : Group) (sel : PcSel) (pc : VA) : (g.setPc sel pc).team = g.team := by cases sel <;> rfl
@[simp] theorem setSlot_gidx (g : Group) (sel : PcSel) (p : PcSlot) : (g.setSlot sel p).gidx = g.gidx := by cases sel <;> rfl
@[simp] theorem setPc_gidx (g : Group) (sel : PcSel) (pc : VA) : (g.setPc sel pc).gidx = g.gidx := by cases sel <;> rfl
@[simp] theorem setSlot_lid (g : Group) (sel : PcSel) (p : PcSlot) : (g.setSlot sel p).lid = g.lid := by cases sel <;> rfl
@[simp] theorem setPc_lid (g : Group) (sel : PcSel) (pc : VA) : (g.setPc sel pc).lid = g.lid := by cases sel <;> rfl
@[simp] theorem setSlot_tidx (g : Group) (sel : PcSel) (p : PcSlot) : (g.setSlot sel p).tidx = g.tidx := by cases sel <;> rfl
@[simp] theorem setPc_tidx (g : Group) (sel : PcSel) (pc : VA) : (g.setPc sel pc).tidx = g.tidx := by cases sel <;> rfl
@[simp] theorem setSlot_tdim (g : Group) (sel : PcSel) (p : PcSlot) : (g.setSlot sel p).tdim = g.tdim := by cases sel <;> rfl
@[simp] theorem setPc_tdim (g : Group) (sel : PcSel) (pc : VA) : (g.setPc sel pc).tdim = g.tdim := by cases sel <;> rfl
@[simp] theorem setSlot_gcount (g : Group) (sel : PcSel) (p : PcSlot) : (g.setSlot sel p).gcount = g.gcount := by
  cases sel <;> rfl
@[simp] theorem setPc_gcount (g : Group) (sel : PcSel) (pc : VA) : (g.setPc sel pc).gcount = g.gcount := by cases sel <;> rfl
@[simp] theorem setSlot_arg (g : Group) (sel : PcSel) (p : PcSlot) : (g.setSlot sel p).arg = g.arg := by cases sel <;> rfl
@[simp] theorem setPc_arg (g : Group) (sel : PcSel) (pc : VA) : (g.setPc sel pc).arg = g.arg := by cases sel <;> rfl
@[simp] theorem setSlot_nvr (g : Group) (sel : PcSel) (p : PcSlot) : (g.setSlot sel p).nvr = g.nvr := by cases sel <;> rfl
@[simp] theorem setPc_nvr (g : Group) (sel : PcSel) (pc : VA) : (g.setPc sel pc).nvr = g.nvr := by cases sel <;> rfl
@[simp] theorem setSlot_ntile (g : Group) (sel : PcSel) (p : PcSlot) : (g.setSlot sel p).ntile = g.ntile := by cases sel <;> rfl
@[simp] theorem setPc_ntile (g : Group) (sel : PcSel) (pc : VA) : (g.setPc sel pc).ntile = g.ntile := by cases sel <;> rfl
@[simp] theorem setSlot_gwc (g : Group) (sel : PcSel) (p : PcSlot) : (g.setSlot sel p).gwc = g.gwc := by cases sel <;> rfl
@[simp] theorem setPc_gwc (g : Group) (sel : PcSel) (pc : VA) : (g.setPc sel pc).gwc = g.gwc := by cases sel <;> rfl
@[simp] theorem setSlot_v (g : Group) (sel : PcSel) (p : PcSlot) : (g.setSlot sel p).v = g.v := by cases sel <;> rfl
@[simp] theorem setPc_v (g : Group) (sel : PcSel) (pc : VA) : (g.setPc sel pc).v = g.v := by cases sel <;> rfl
@[simp] theorem setSlot_vtag (g : Group) (sel : PcSel) (p : PcSlot) : (g.setSlot sel p).vtag = g.vtag := by cases sel <;> rfl
@[simp] theorem setPc_vtag (g : Group) (sel : PcSel) (pc : VA) : (g.setPc sel pc).vtag = g.vtag := by cases sel <;> rfl
@[simp] theorem setSlot_s (g : Group) (sel : PcSel) (p : PcSlot) : (g.setSlot sel p).s = g.s := by cases sel <;> rfl
@[simp] theorem setPc_s (g : Group) (sel : PcSel) (pc : VA) : (g.setPc sel pc).s = g.s := by cases sel <;> rfl
@[simp] theorem setSlot_p (g : Group) (sel : PcSel) (p : PcSlot) : (g.setSlot sel p).p = g.p := by cases sel <;> rfl
@[simp] theorem setPc_p (g : Group) (sel : PcSel) (pc : VA) : (g.setPc sel pc).p = g.p := by cases sel <;> rfl
@[simp] theorem setSlot_trow (g : Group) (sel : PcSel) (p : PcSlot) : (g.setSlot sel p).trow = g.trow := by cases sel <;> rfl
@[simp] theorem setPc_trow (g : Group) (sel : PcSel) (pc : VA) : (g.setPc sel pc).trow = g.trow := by cases sel <;> rfl
@[simp] theorem setSlot_ttag (g : Group) (sel : PcSel) (p : PcSlot) : (g.setSlot sel p).ttag = g.ttag := by cases sel <;> rfl
@[simp] theorem setPc_ttag (g : Group) (sel : PcSel) (pc : VA) : (g.setPc sel pc).ttag = g.ttag := by cases sel <;> rfl
@[simp] theorem setSlot_rmax (g : Group) (sel : PcSel) (p : PcSlot) : (g.setSlot sel p).rmax = g.rmax := by cases sel <;> rfl
@[simp] theorem setPc_rmax (g : Group) (sel : PcSel) (pc : VA) : (g.setPc sel pc).rmax = g.rmax := by cases sel <;> rfl
@[simp] theorem setSlot_rsum (g : Group) (sel : PcSel) (p : PcSlot) : (g.setSlot sel p).rsum = g.rsum := by cases sel <;> rfl
@[simp] theorem setPc_rsum (g : Group) (sel : PcSel) (pc : VA) : (g.setPc sel pc).rsum = g.rsum := by cases sel <;> rfl
@[simp] theorem setSlot_m (g : Group) (sel : PcSel) (p : PcSlot) : (g.setSlot sel p).m = g.m := by cases sel <;> rfl
@[simp] theorem setPc_m (g : Group) (sel : PcSel) (pc : VA) : (g.setPc sel pc).m = g.m := by cases sel <;> rfl
@[simp] theorem setSlot_live (g : Group) (sel : PcSel) (p : PcSlot) : (g.setSlot sel p).live = g.live := by cases sel <;> rfl
@[simp] theorem setPc_live (g : Group) (sel : PcSel) (pc : VA) : (g.setPc sel pc).live = g.live := by cases sel <;> rfl
@[simp] theorem setSlot_nextSel (g : Group) (sel : PcSel) (p : PcSlot) : (g.setSlot sel p).nextSel = g.nextSel := by
  cases sel <;> rfl
@[simp] theorem setPc_nextSel (g : Group) (sel : PcSel) (pc : VA) : (g.setPc sel pc).nextSel = g.nextSel := by cases sel <;> rfl
@[simp] theorem setSlot_stack (g : Group) (sel : PcSel) (p : PcSlot) : (g.setSlot sel p).stack = g.stack := by cases sel <;> rfl
@[simp] theorem setPc_stack (g : Group) (sel : PcSel) (pc : VA) : (g.setPc sel pc).stack = g.stack := by cases sel <;> rfl
@[simp] theorem setSlot_hc (g : Group) (sel : PcSel) (p : PcSlot) : (g.setSlot sel p).hc = g.hc := by cases sel <;> rfl
@[simp] theorem setPc_hc (g : Group) (sel : PcSel) (pc : VA) : (g.setPc sel pc).hc = g.hc := by cases sel <;> rfl
@[simp] theorem setSlot_hb (g : Group) (sel : PcSel) (p : PcSlot) : (g.setSlot sel p).hb = g.hb := by cases sel <;> rfl
@[simp] theorem setPc_hb (g : Group) (sel : PcSel) (pc : VA) : (g.setPc sel pc).hb = g.hb := by cases sel <;> rfl
@[simp] theorem setSlot_fxf (g : Group) (sel : PcSel) (p : PcSlot) : (g.setSlot sel p).fxf = g.fxf := by cases sel <;> rfl
@[simp] theorem setPc_fxf (g : Group) (sel : PcSel) (pc : VA) : (g.setPc sel pc).fxf = g.fxf := by cases sel <;> rfl
@[simp] theorem setSlot_troute (g : Group) (sel : PcSel) (p : PcSlot) : (g.setSlot sel p).troute = g.troute := by
  cases sel <;> rfl
@[simp] theorem setPc_troute (g : Group) (sel : PcSel) (pc : VA) : (g.setPc sel pc).troute = g.troute := by cases sel <;> rfl
@[simp] theorem setSlot_lvl (g : Group) (sel : PcSel) (p : PcSlot) : (g.setSlot sel p).lvl = g.lvl := by cases sel <;> rfl
@[simp] theorem setPc_lvl (g : Group) (sel : PcSel) (pc : VA) : (g.setPc sel pc).lvl = g.lvl := by cases sel <;> rfl
@[simp] theorem setSlot_pv (g : Group) (sel : PcSel) (p : PcSlot) : (g.setSlot sel p).pv = g.pv := by cases sel <;> rfl
@[simp] theorem setPc_pv (g : Group) (sel : PcSel) (pc : VA) : (g.setPc sel pc).pv = g.pv := by cases sel <;> rfl
@[simp] theorem setSlot_ts (g : Group) (sel : PcSel) (p : PcSlot) : (g.setSlot sel p).ts = g.ts := by cases sel <;> rfl
@[simp] theorem setPc_ts (g : Group) (sel : PcSel) (pc : VA) : (g.setPc sel pc).ts = g.ts := by cases sel <;> rfl
@[simp] theorem setSlot_hintDrop (g : Group) (sel : PcSel) (p : PcSlot) : (g.setSlot sel p).hintDrop = g.hintDrop := by
  cases sel <;> rfl
@[simp] theorem setPc_hintDrop (g : Group) (sel : PcSel) (pc : VA) : (g.setPc sel pc).hintDrop = g.hintDrop := by
  cases sel <;> rfl
@[simp] theorem setSlot_tvecUser (g : Group) (sel : PcSel) (p : PcSlot) : (g.setSlot sel p).tvecUser = g.tvecUser := by
  cases sel <;> rfl
@[simp] theorem setPc_tvecUser (g : Group) (sel : PcSel) (pc : VA) : (g.setPc sel pc).tvecUser = g.tvecUser := by
  cases sel <;> rfl
@[simp] theorem setSlot_tvecDev (g : Group) (sel : PcSel) (p : PcSlot) : (g.setSlot sel p).tvecDev = g.tvecDev := by
  cases sel <;> rfl
@[simp] theorem setPc_tvecDev (g : Group) (sel : PcSel) (pc : VA) : (g.setPc sel pc).tvecDev = g.tvecDev := by cases sel <;> rfl
@[simp] theorem setSlot_tsave (g : Group) (sel : PcSel) (p : PcSlot) : (g.setSlot sel p).tsave = g.tsave := by cases sel <;> rfl
@[simp] theorem setPc_tsave (g : Group) (sel : PcSel) (pc : VA) : (g.setPc sel pc).tsave = g.tsave := by cases sel <;> rfl
@[simp] theorem setSlot_clkHi (g : Group) (sel : PcSel) (p : PcSlot) : (g.setSlot sel p).clkHi = g.clkHi := by cases sel <;> rfl
@[simp] theorem setPc_clkHi (g : Group) (sel : PcSel) (pc : VA) : (g.setPc sel pc).clkHi = g.clkHi := by cases sel <;> rfl
@[simp] theorem setSlot_bank0 (g : Group) (sel : PcSel) (p : PcSlot) : (g.setSlot sel p).bank0 = g.bank0 := by cases sel <;> rfl
@[simp] theorem setPc_bank0 (g : Group) (sel : PcSel) (pc : VA) : (g.setPc sel pc).bank0 = g.bank0 := by cases sel <;> rfl
@[simp] theorem setSlot_bank1 (g : Group) (sel : PcSel) (p : PcSlot) : (g.setSlot sel p).bank1 = g.bank1 := by cases sel <;> rfl
@[simp] theorem setPc_bank1 (g : Group) (sel : PcSel) (pc : VA) : (g.setPc sel pc).bank1 = g.bank1 := by cases sel <;> rfl
@[simp] theorem setSlot_trap1 (g : Group) (sel : PcSel) (p : PcSlot) : (g.setSlot sel p).trap1 = g.trap1 := by cases sel <;> rfl
@[simp] theorem setPc_trap1 (g : Group) (sel : PcSel) (pc : VA) : (g.setPc sel pc).trap1 = g.trap1 := by cases sel <;> rfl
@[simp] theorem setSlot_trap2 (g : Group) (sel : PcSel) (p : PcSlot) : (g.setSlot sel p).trap2 = g.trap2 := by cases sel <;> rfl
@[simp] theorem setPc_trap2 (g : Group) (sel : PcSel) (pc : VA) : (g.setPc sel pc).trap2 = g.trap2 := by cases sel <;> rfl
@[simp] theorem setSlot_late (g : Group) (sel : PcSel) (p : PcSlot) : (g.setSlot sel p).late = g.late := by cases sel <;> rfl
@[simp] theorem setPc_late (g : Group) (sel : PcSel) (pc : VA) : (g.setPc sel pc).late = g.late := by cases sel <;> rfl
@[simp] theorem setSlot_wd1 (g : Group) (sel : PcSel) (p : PcSlot) : (g.setSlot sel p).wd1 = g.wd1 := by cases sel <;> rfl
@[simp] theorem setPc_wd1 (g : Group) (sel : PcSel) (pc : VA) : (g.setPc sel pc).wd1 = g.wd1 := by cases sel <;> rfl
@[simp] theorem setSlot_wd2 (g : Group) (sel : PcSel) (p : PcSlot) : (g.setSlot sel p).wd2 = g.wd2 := by cases sel <;> rfl
@[simp] theorem setPc_wd2 (g : Group) (sel : PcSel) (pc : VA) : (g.setPc sel pc).wd2 = g.wd2 := by cases sel <;> rfl
@[simp] theorem setSlot_wdAt (g : Group) (sel : PcSel) (p : PcSlot) : (g.setSlot sel p).wdAt = g.wdAt := by cases sel <;> rfl
@[simp] theorem setPc_wdAt (g : Group) (sel : PcSel) (pc : VA) : (g.setPc sel pc).wdAt = g.wdAt := by cases sel <;> rfl
@[simp] theorem setSlot_ops (g : Group) (sel : PcSel) (p : PcSlot) : (g.setSlot sel p).ops = g.ops := by cases sel <;> rfl
@[simp] theorem setPc_ops (g : Group) (sel : PcSel) (pc : VA) : (g.setPc sel pc).ops = g.ops := by cases sel <;> rfl
@[simp] theorem setSlot_nextOp (g : Group) (sel : PcSel) (p : PcSlot) : (g.setSlot sel p).nextOp = g.nextOp := by
  cases sel <;> rfl
@[simp] theorem setPc_nextOp (g : Group) (sel : PcSel) (pc : VA) : (g.setPc sel pc).nextOp = g.nextOp := by cases sel <;> rfl
@[simp] theorem setSlot_yielded (g : Group) (sel : PcSel) (p : PcSlot) : (g.setSlot sel p).yielded = g.yielded := by
  cases sel <;> rfl
@[simp] theorem setPc_yielded (g : Group) (sel : PcSel) (pc : VA) : (g.setPc sel pc).yielded = g.yielded := by cases sel <;> rfl
@[simp] theorem setSlot_place (g : Group) (sel : PcSel) (p : PcSlot) : (g.setSlot sel p).place = g.place := by cases sel <;> rfl
@[simp] theorem setPc_place (g : Group) (sel : PcSel) (pc : VA) : (g.setPc sel pc).place = g.place := by cases sel <;> rfl
@[simp] theorem setSlot_readyAt (g : Group) (sel : PcSel) (p : PcSlot) : (g.setSlot sel p).readyAt = g.readyAt := by
  cases sel <;> rfl
@[simp] theorem setPc_readyAt (g : Group) (sel : PcSel) (pc : VA) : (g.setPc sel pc).readyAt = g.readyAt := by cases sel <;> rfl
@[simp] theorem setSlot_activeAt (g : Group) (sel : PcSel) (p : PcSlot) : (g.setSlot sel p).activeAt = g.activeAt := by
  cases sel <;> rfl
@[simp] theorem setPc_activeAt (g : Group) (sel : PcSel) (pc : VA) : (g.setPc sel pc).activeAt = g.activeAt := by
  cases sel <;> rfl
@[simp] theorem setSlot_victims (g : Group) (sel : PcSel) (p : PcSlot) : (g.setSlot sel p).victims = g.victims := by
  cases sel <;> rfl
@[simp] theorem setPc_victims (g : Group) (sel : PcSel) (pc : VA) : (g.setPc sel pc).victims = g.victims := by cases sel <;> rfl
@[simp] theorem setSlot_token (g : Group) (sel : PcSel) (p : PcSlot) : (g.setSlot sel p).token = g.token := by cases sel <;> rfl
@[simp] theorem setPc_token (g : Group) (sel : PcSel) (pc : VA) : (g.setPc sel pc).token = g.token := by cases sel <;> rfl
@[simp] theorem setSlot_wants (g : Group) (sel : PcSel) (p : PcSlot) : (g.setSlot sel p).wants = g.wants := by cases sel <;> rfl
@[simp] theorem setPc_wants (g : Group) (sel : PcSel) (pc : VA) : (g.setPc sel pc).wants = g.wants := by cases sel <;> rfl
@[simp] theorem setSlot_stalled (g : Group) (sel : PcSel) (p : PcSlot) : (g.setSlot sel p).stalled = g.stalled := by
  cases sel <;> rfl
@[simp] theorem setPc_stalled (g : Group) (sel : PcSel) (pc : VA) : (g.setPc sel pc).stalled = g.stalled := by cases sel <;> rfl
@[simp] theorem setSlot_longStall (g : Group) (sel : PcSel) (p : PcSlot) : (g.setSlot sel p).longStall = g.longStall := by
  cases sel <;> rfl
@[simp] theorem setPc_longStall (g : Group) (sel : PcSel) (pc : VA) : (g.setPc sel pc).longStall = g.longStall := by
  cases sel <;> rfl
@[simp] theorem setSlot_holdSel (g : Group) (sel : PcSel) (p : PcSlot) : (g.setSlot sel p).holdSel = g.holdSel := by
  cases sel <;> rfl
@[simp] theorem setPc_holdSel (g : Group) (sel : PcSel) (pc : VA) : (g.setPc sel pc).holdSel = g.holdSel := by cases sel <;> rfl
@[simp] theorem setSlot_draining (g : Group) (sel : PcSel) (p : PcSlot) : (g.setSlot sel p).draining = g.draining := by
  cases sel <;> rfl
@[simp] theorem setPc_draining (g : Group) (sel : PcSel) (pc : VA) : (g.setPc sel pc).draining = g.draining := by
  cases sel <;> rfl
@[simp] theorem setSlot_dead (g : Group) (sel : PcSel) (p : PcSlot) : (g.setSlot sel p).dead = g.dead := by cases sel <;> rfl
@[simp] theorem setPc_dead (g : Group) (sel : PcSel) (pc : VA) : (g.setPc sel pc).dead = g.dead := by cases sel <;> rfl

@[simp] theorem slotOf_setSlot (g : Group) (sel : PcSel) (p : PcSlot) : (g.setSlot sel p).slotOf sel = p := by
  cases sel <;> rfl

@[simp] theorem slotOf_setSlot_other (g : Group) (sel : PcSel) (p : PcSlot) :
    (g.setSlot sel p).slotOf (otherSel sel) = g.slotOf (otherSel sel) := by cases sel <;> rfl

@[simp] theorem slotOf_setPc (g : Group) (sel : PcSel) (pc : VA) :
    (g.setPc sel pc).slotOf sel = { g.slotOf sel with pc := pc } := by cases sel <;> rfl

@[simp] theorem otherSel_otherSel (sel : PcSel) : otherSel (otherSel sel) = sel := by cases sel <;> rfl

end Sys2Proof.Machine
end

