-- ==== Sys2Proof/Laws/Memory.lean ====
section
/-! SUPPORT. Every operation over memory keeps the canonical form, the state after reset has it, and what a read gives after a write. -/

namespace Sys2Proof.Machine

open Sys2Proof

/-! ### Reading after writing -/

@[simp] theorem dramByte_setDram_same (s : State) (k : Nat) (b : Byte) : (s.setDram k b).dramByte k = b := by
  simp [State.setDram, State.dramByte]

theorem dramByte_setDram_other (s : State) {k j : Nat} (b : Byte) (h : j ≠ k) : (s.setDram k b).dramByte j = s.dramByte j := by
  simp [State.setDram, State.dramByte, SMap.get_set, h]

@[simp] theorem hostByte_setHost_same (s : State) (k : Nat) (b : Byte) : (s.setHost k b).hostByte k = b := by
  simp [State.setHost, State.hostByte]

theorem hostByte_setHost_other (s : State) {k j : Nat} (b : Byte) (h : j ≠ k) : (s.setHost k b).hostByte j = s.hostByte j := by
  simp [State.setHost, State.hostByte, SMap.get_set, h]

/-- A write of bytes of a line leaves every byte outside them. -/
theorem dramByte_setDramBytes_other (s : State) (k j : Nat) (bs : List (Nat × Byte)) (h : ∀ e ∈ bs, j ≠ k + e.1) :
    (s.setDramBytes k bs).dramByte j = s.dramByte j := by
  induction bs generalizing s with
  | nil => rfl
  | cons e bs ih =>
    have he := h e (List.mem_cons_self ..)
    exact (ih (s.setDram (k + e.1) e.2) (fun x hx => h x (List.mem_cons_of_mem _ hx))).trans (dramByte_setDram_other s e.2 he)

theorem hostByte_setHostBytes_other (s : State) (k j : Nat) (bs : List (Nat × Byte)) (h : ∀ e ∈ bs, j ≠ k + e.1) :
    (s.setHostBytes k bs).hostByte j = s.hostByte j := by
  induction bs generalizing s with
  | nil => rfl
  | cons e bs ih =>
    have he := h e (List.mem_cons_self ..)
    exact (ih (s.setHost (k + e.1) e.2) (fun x hx => h x (List.mem_cons_of_mem _ hx))).trans (hostByte_setHost_other s e.2 he)

/-! ### The canonical form -/

/-- A state with the same four memories. -/
theorem State.MemoryOk.congr {s t : State} (h : s.MemoryOk) (h1 : t.mem.dram = s.mem.dram) (h2 : t.bankMem = s.bankMem)
    (h3 : t.host.mem = s.host.mem) (h4 : t.fab.remote = s.fab.remote) : t.MemoryOk :=
  ⟨h1 ▸ h.dram, h2 ▸ h.banks, h3 ▸ h.host, h4 ▸ h.remote⟩

theorem powerUp_memoryOk (p : Part) (f : FStart) : (State.powerUp p f).MemoryOk := ⟨rfl, rfl, rfl, rfl⟩

theorem reset_memoryOk : State.reset.MemoryOk := powerUp_memoryOk _ _

/-- A change that keeps the form keeps it when it is repeated over a list. -/
theorem foldl_memoryOk {α : Type} (f : State → α → State) (hf : ∀ s x, s.MemoryOk → (f s x).MemoryOk) (xs : List α) (s : State)
    (h : s.MemoryOk) : (xs.foldl f s).MemoryOk := by
  induction xs generalizing s with
  | nil => exact h
  | cons x xs ih => exact ih _ (hf s x h)

theorem setDram_memoryOk (s : State) (k : Nat) (b : Byte) (h : s.MemoryOk) : (s.setDram k b).MemoryOk :=
  ⟨SMap.wf_set _ _ _ _ h.dram, h.banks, h.host, h.remote⟩

theorem setDramBytes_memoryOk (s : State) (k : Nat) (bs : List (Nat × Byte)) (h : s.MemoryOk) : (s.setDramBytes k bs).MemoryOk :=
  foldl_memoryOk _ (fun s _ => setDram_memoryOk s _ _) bs s h

theorem setPhys_memoryOk (s : State) (d : Nat) (bs : List Byte) (h : s.MemoryOk) : (s.setPhys d bs).MemoryOk :=
  foldl_memoryOk _ (fun s _ => setDram_memoryOk s _ _) bs.zipIdx s h

theorem setHost_memoryOk (s : State) (k : Nat) (b : Byte) (h : s.MemoryOk) : (s.setHost k b).MemoryOk :=
  ⟨h.dram, h.banks, SMap.wf_set _ _ _ _ h.host, h.remote⟩

theorem setHostBytes_memoryOk (s : State) (k : Nat) (bs : List (Nat × Byte)) (h : s.MemoryOk) : (s.setHostBytes k bs).MemoryOk :=
  foldl_memoryOk _ (fun s _ => setHost_memoryOk s _ _) bs s h

theorem setScratch_memoryOk (s : State) (t : Team) (o : Nat) (bs : List (Nat × Byte)) (h : s.MemoryOk) :
    (s.setScratch t o bs).MemoryOk :=
  ⟨h.dram, SMap.wf_foldl _ bs _ _ _ h.banks, h.host, h.remote⟩

theorem bulkWrite_memoryOk (s : State) (xs : List (Nat × Nat)) (h : s.MemoryOk) : (s.bulkWrite xs).MemoryOk :=
  ⟨SMap.wf_join _ _ _, h.banks, h.host, h.remote⟩

theorem clearDies_memoryOk (s : State) (h : s.MemoryOk) : s.clearDies.MemoryOk := ⟨rfl, rfl, h.host, h.remote⟩

theorem clearBank_memoryOk (s : State) (pair bank : Nat) (h : s.MemoryOk) : (s.clearBank pair bank).MemoryOk :=
  ⟨h.dram, SMap.wf_filter _ _ _ h.banks, h.host, h.remote⟩

theorem streamTo_memoryOk (s : State) (a n : Nat) (h : s.MemoryOk) : (s.streamTo a n).MemoryOk :=
  ⟨h.dram, h.banks, SMap.wf_join _ _ _, h.remote⟩

theorem streamFrom_memoryOk (s : State) (mbound a n : Nat) (h : s.MemoryOk) : (s.streamFrom mbound a n).MemoryOk :=
  ⟨SMap.wf_join _ _ _, h.banks, h.host, h.remote⟩

theorem loadCheckpoint_memoryOk (s : State) (c : Ctx) (k : Checkpoint) (h : s.MemoryOk) : (s.loadCheckpoint c k).MemoryOk :=
  ⟨SMap.wf_join _ _ _, h.banks, h.host, h.remote⟩

theorem unpower_memoryOk (s : State) (h : s.MemoryOk) : s.unpower.MemoryOk := ⟨rfl, rfl, h.host, h.remote⟩

theorem setSlice_memoryOk (s : State) (k : Nat) (x : Slice) (h : s.MemoryOk) : (s.setSlice k x).MemoryOk := h.congr rfl rfl rfl rfl

theorem leaseEnd_memoryOk (s : State) (d : Nat) (p : L1Line → Bool) (h : s.MemoryOk) : (s.leaseEnd d p).MemoryOk :=
  h.congr rfl rfl rfl rfl

theorem strikeAll_memoryOk (s : State) (p : Watch → Bool) (h : s.MemoryOk) : (s.strikeAll p).MemoryOk := h.congr rfl rfl rfl rfl

theorem setL2_memoryOk (s : State) (k : Nat) (x : Option L2Line) (h : s.MemoryOk) : (s.setL2 k x).MemoryOk :=
  h.congr rfl rfl rfl rfl

theorem putHostRange_memoryOk (s : State) (a n : Nat) (bs : Memory) (h : s.MemoryOk) : (s.putHostRange a n bs).MemoryOk :=
  ⟨h.dram, h.banks, SMap.wf_join _ _ _, h.remote⟩

theorem post_memoryOk (s : State) (e : Instr) (h : s.MemoryOk) : (s.post e).MemoryOk := h.congr rfl rfl rfl rfl

theorem beginRebase_memoryOk (s : State) (sk : Nat) (h : s.MemoryOk) : (s.beginRebase sk).MemoryOk := by
  unfold State.beginRebase
  dsimp only
  split
  · exact h.congr rfl rfl rfl rfl
  · exact h.congr rfl rfl rfl rfl

theorem leaveL2_memoryOk (s : State) (k : Nat) (x : L2Line) (h : s.MemoryOk) : (s.leaveL2 k x).MemoryOk :=
  setL2_memoryOk _ _ _ (strikeAll_memoryOk _ _ (leaseEnd_memoryOk _ _ _ (setSlice_memoryOk _ _ _ h)))

theorem dropApertures_memoryOk (s : State) (h : s.MemoryOk) : s.dropApertures.MemoryOk := by
  refine foldl_memoryOk _ (fun s e hs => ?_) _ _ (h.congr rfl rfl rfl rfl)
  split
  · exact leaveL2_memoryOk _ _ _ hs
  · exact hs

theorem writeNames_memoryOk (s : State) (loc : Nat) (bs : List (Nat × Byte)) (h : s.MemoryOk) : (s.writeNames loc bs).MemoryOk :=
  foldl_memoryOk (fun (s : State) g => s.setSysLine g _) (fun _ _ hs => hs.congr rfl rfl rfl rfl) _ s h

theorem writeCopies_memoryOk (s : State) (loc die : Nat) (bs : List (Nat × Byte)) (dirties : Bool) (h : s.MemoryOk) :
    (s.writeCopies loc die bs dirties).MemoryOk :=
  foldl_memoryOk _ (fun s _ hs => setL2_memoryOk s _ _ hs) _ _ h

theorem writeHome_memoryOk (s : State) (loc : Nat) (bs : List (Nat × Byte)) (h : s.MemoryOk) : (s.writeHome loc bs).MemoryOk :=
  writeNames_memoryOk _ _ _ (writeCopies_memoryOk _ _ _ _ _ (setDramBytes_memoryOk _ _ _ h))

theorem setHomeLine_memoryOk (s : State) (g : LineAddr) (l : Line) (h : s.MemoryOk) : (s.setHomeLine g l).MemoryOk := by
  unfold State.setHomeLine
  generalize (List.range 128).map (fun j => (j, byteOf l j)) = bs
  split
  · split
    · exact dropApertures_memoryOk _ (writeHome_memoryOk _ _ _ h)
    · exact h
  · exact ⟨h.dram, h.banks, h.host, SMap.wf_foldl _ _ _ _ _ h.remote⟩

theorem toHome_memoryOk (s : State) (loc : Nat) (bs : List (Nat × Byte)) (h : s.MemoryOk) : (s.toHome loc bs).MemoryOk := by
  unfold State.toHome
  split
  · exact h
  · refine foldl_memoryOk _ (fun s e hs => ?_) _ _ (dropApertures_memoryOk _ (writeNames_memoryOk _ _ _ (setDramBytes_memoryOk _ _ _ h)))
    have := leaseEnd_memoryOk _ (locDie loc) (fun y => y.ctx == l2KeyCtx e.1 && y.line == l2KeyLine e.1)
      (setL2_memoryOk s e.1 (some (e.2.takeBytes bs)) hs)
    dsimp only
    split
    · exact beginRebase_memoryOk _ _ this
    · exact this

theorem cleanCopies_memoryOk (s : State) (loc die : Nat) (m : BitVec 128) (h : s.MemoryOk) : (s.cleanCopies loc die m).MemoryOk :=
  foldl_memoryOk (fun (s : State) (e : Nat × L2Line) => s.setL2 e.1 _) (fun s e hs => setL2_memoryOk s e.1 _ hs) _ s h

theorem dieWriteback_memoryOk (s : State) (loc die : Nat) (st : DirState) (h : s.MemoryOk) : (s.dieWriteback loc die st).MemoryOk := by
  unfold State.dieWriteback
  dsimp only
  split
  · exact h
  · split <;> exact h.congr rfl rfl rfl rfl

theorem dropL2_memoryOk (s : State) (k : Nat) (h : s.MemoryOk) : (s.dropL2 k).MemoryOk := by
  unfold State.dropL2
  split
  · exact h
  · exact dieWriteback_memoryOk _ _ _ _ (cleanCopies_memoryOk _ _ _ _ (toHome_memoryOk _ _ _ (leaveL2_memoryOk _ _ _ h)))

theorem zeroFrame_memoryOk (s : State) (n f : Nat) (h : s.MemoryOk) : (s.zeroFrame n f).MemoryOk := by
  have := foldl_memoryOk (fun (s : State) (e : Nat × Option L2Line) => s.dropL2 e.1) (fun s e => dropL2_memoryOk s e.1)
    (s.l2.filter (fun (e : Nat × Option L2Line) => e.2.any (fun x => (frameLines s.mem.mbound n f).contains x.loc))) s h
  exact ⟨SMap.wf_filter _ _ _ this.dram, this.banks, this.host, this.remote⟩

end Sys2Proof.Machine
end

