-- ==== Sys2Proof/Laws/Ops.lean ====
section
/-! SUPPORT. What the shared operations can do, each said once: taking a trap, issuing a word, one step; stalls, flags and the
outcomes of words that touch only their group. -/

namespace Sys2Proof.Machine

open Sys2Proof

/-! ### Taking a trap (R246, R254) -/

/-- Taking a trap whose information word leaves no bit free: it enters the next level, or escalates from level 2 or on a vector
of 0. -/
theorem takeTrap_cases (s : State) (gid : Nat) (sel : PcSel) (t : TrapInfo) (pc : VA) (word lit : Word) (g : Group)
    (hg : s.group? gid = some g) (hf : t.free = 0) :
    let ret := match kindOf t.cause with
      | .before | .after => pc
      | .next | .late => (g.slotOf sel).pc
    let s' := { s with cur := s.curWithout gid }
    (g.lvl = 2 ∧ s.takeTrap gid sel t pc word lit = s'.escalate g (killRecord g t 0 ret word)) ∨
    (g.lvl ≠ 2 ∧ g.vector t.cause = 0 ∧ s.takeTrap gid sel t pc word lit = s'.escalate g (killRecord g t 1 ret word)) ∨
    (g.lvl ≠ 2 ∧ g.vector t.cause ≠ 0 ∧
      s.takeTrap gid sel t pc word lit = s'.setGroup gid (((g.setPc sel ret).wdTick s.clk).enter sel t ret word lit)) := by
  have ht : ({ t with info := (t.info &&& ~~~t.free) ||| ((0#1024).setWidth 32 &&& t.free) } : TrapInfo) = t := by
    cases t; simp_all; exact BitVec.and_allOnes
  simp only [State.takeTrap, hg, hf, ↓reduceIte]
  rw [hf] at ht
  rw [ht]
  by_cases h2 : g.lvl = 2
  · exact .inl ⟨h2, by simp only [h2, ↓reduceIte]; try rfl⟩
  · by_cases hv : g.vector t.cause = 0
    · exact .inr (.inl ⟨h2, hv, by simp only [h2, hv, ↓reduceIte]; try rfl⟩)
    · exact .inr (.inr ⟨h2, hv, by simp only [h2, hv, ↓reduceIte]; try rfl⟩)

theorem takeTrap_absent (s : State) (gid : Nat) (sel : PcSel) (t : TrapInfo) (pc : VA) (word lit : Word)
    (hg : s.group? gid = none) : s.takeTrap gid sel t pc word lit = s := by
  simp [State.takeTrap, hg]

/-- The words that issue never end in more than these ways: a stop because nothing runs or nobody issues, or a next state. -/
theorem issue_answers (op : Op) (f : Fields) (body : Env → Group → State → Res) (s : State) :
    issue op f body s = .fault .clocksStopped ∨ issue op f body s = .refused .noIssuingGroup ∨
    ∃ t, issue op f body s = .next t := by
  unfold issue
  split
  · exact .inl rfl
  · split
    · exact .inr (.inl rfl)
    · split
      · exact .inr (.inl rfl)
      · refine .inr (.inr ?_)
        dsimp only
        split
        · exact ⟨_, rfl⟩
        · split
          · exact ⟨_, rfl⟩
          · split
            · exact ⟨_, rfl⟩
            · split <;> exact ⟨_, rfl⟩

/-- With a running package and an issuing group every word answers a next state. -/
theorem issue_goes (op : Op) (f : Fields) (body : Env → Group → State → Res) (s : State) (c : Cursor) (g : Group)
    (hr : s.running = true) (hc : s.cur = some c) (hg : s.group? c.gid = some g) : ∃ t, issue op f body s = .next t := by
  unfold issue
  simp only [hr, hc, hg, Bool.not_true, Bool.false_eq_true, ↓reduceIte]
  split
  · exact ⟨_, rfl⟩
  · split
    · exact ⟨_, rfl⟩
    · split
      · exact ⟨_, rfl⟩
      · split <;> exact ⟨_, rfl⟩

/-- A word that a pending register holds back does not issue (R240). -/
theorem issue_hazard (op : Op) (f : Fields) (body : Env → Group → State → Res) (s : State) (c : Cursor) (g : Group)
    (hr : s.running = true) (hc : s.cur = some c) (hg : s.group? c.gid = some g) (hh : g.hazard op f c.sel = true) :
    issue op f body s = .next (s.stall c.gid c.sel (s.speculates c.gid || g.awaitsLong op f c.sel)) := by
  unfold issue
  simp [hr, hc, hg, hh]

/-- A word that a check refuses takes that check's trap (R250, R307). -/
theorem issue_checked (op : Op) (f : Fields) (body : Env → Group → State → Res) (s : State) (c : Cursor) (g : Group) (t : TrapInfo)
    (hr : s.running = true) (hc : s.cur = some c) (hg : s.group? c.gid = some g) (hh : g.hazard op f c.sel = false)
    (hu : s.unitHazard c.gid g op f c.sel = false) (hn : s.held g c.sel = false) (hp : s.speculates c.gid = false) (ht : isLoadCode op.code = true → g.token.isSome = true)
    (hk : op.check f g c.sel = some t) :
    issue op f body s =
      .next (((s.noteIssue c.gid c.sel g.lvl).endReplay c.gid c.sel g).takeTrap c.gid c.sel t (g.slotOf c.sel).pc (c.env g op f).word f.lit) := by
  have htok : (isLoadCode op.code && g.token.isNone) = false := by
    by_cases hl : isLoadCode op.code = true
    · have := ht hl
      cases hg : g.token <;> simp_all
    · simp [hl]
  unfold issue
  simp only [hr, hc, hg, hh, hu, hn, hp, hk, htok, Bool.not_true, Bool.false_eq_true, ↓reduceIte, Bool.or_self, Bool.false_and]
  rfl

/-! ### One step -/

/-- What an event that lands next does: it is refused, carried out, or ends with the clocks. -/
theorem stepEvent_cases (s : State) (i : Instr) (rest : List Instr) :
    (isWord i = true ∧ stepEvent s i rest = .refused .notAnEvent) ∨
    (isWord i = false ∧ s.lands i = true ∧ stepEvent s i rest = exec i { s with agenda := rest }) ∨
    (isWord i = false ∧ s.lands i = false ∧ stepEvent s i rest = .next { s with agenda := rest }) := by
  unfold stepEvent
  by_cases hw : isWord i = true
  · exact .inl ⟨hw, by simp [hw]⟩
  · by_cases hl : s.lands i = true
    · exact .inr (.inl ⟨by simpa using hw, hl, by simp [hw, hl]⟩)
    · exact .inr (.inr ⟨by simpa using hw, by simpa using hl, by simp [hw, hl]⟩)

/-- What the run in progress does: it ends, where its group is gone or the clocks stand still, or its next word goes. -/
theorem stepRun_cases (s : State) (c : Cursor) :
    ((s.group? c.gid = none ∨ s.running = false) ∧ stepRun s c = .next { s with cur := none }) ∨
    (∃ g, s.group? c.gid = some g ∧ s.running = true ∧ stepRun s c = stepWord s c g) := by
  unfold stepRun
  cases hg : s.group? c.gid with
  | none => exact .inl ⟨.inl rfl, rfl⟩
  | some g =>
    by_cases hr : s.running = true
    · exact .inr ⟨g, rfl, hr, by simp [hr]⟩
    · exact .inl ⟨.inr (by simpa using hr), by simp [hr]⟩

/-- What a step can be: the event that lands next, the run in progress, also before an event that may kill (R211), or an
arbitration. -/
theorem step_cases (s : State) :
    (∃ i rest, s.agenda = i :: rest ∧ (s.cur = none ∨ afterRun i = false) ∧ step s = stepEvent s i rest) ∨
    (∃ c, s.cur = some c ∧ (s.agenda = [] ∨ ∃ i rest, s.agenda = i :: rest ∧ afterRun i = true) ∧ step s = stepRun s c) ∨
    (s.agenda = [] ∧ s.cur = none ∧ step s = .next (arbitrate s)) := by
  unfold step
  cases ha : s.agenda with
  | cons i rest =>
    cases hc : s.cur with
    | none => exact .inl ⟨i, rest, rfl, .inl rfl, rfl⟩
    | some c =>
      by_cases hk : afterRun i = true
      · exact .inr (.inl ⟨c, rfl, .inr ⟨i, rest, rfl, hk⟩, by simp [hk]⟩)
      · exact .inl ⟨i, rest, rfl, .inr (by simpa using hk), by simp [hk]⟩
  | nil =>
    cases hc : s.cur with
    | none => exact .inr (.inr ⟨rfl, rfl, rfl⟩)
    | some c => exact .inr (.inl ⟨c, rfl, .inl rfl, rfl⟩)

/-! ### Small operations -/

@[simp] theorem stall_outside (s : State) (gid : Nat) (sel : PcSel) (long : Bool) : (s.stall gid sel long).outside = s.outside := by
  unfold State.stall; dsimp only; split <;> rfl

@[simp] theorem stall_cur (s : State) (gid : Nat) (sel : PcSel) (long : Bool) : (s.stall gid sel long).cur = none := by
  unfold State.stall; dsimp only; split <;> rfl

/-- A word whose flags enable no trap completes with them raised (R261, R347). -/
theorem finish_done (g : Group) (fl : LaneFlags) (h : g.fpTrap fl = none) : g.finish fl = .done (g.raise fl) := by
  simp [Group.finish, h]

theorem finishDiv_done (g : Group) : g.finishDiv 0 = .done g := by simp [Group.finishDiv]

theorem finishCvt_done (g : Group) (fl : LaneFlags) (h : g.fpTrap fl = none) : g.finishCvt fl 0 = .done (g.raise fl) := by
  simp [Group.finishCvt, h]

/-- With every trap enable off no flag traps. -/
theorem fpTrap_off (g : Group) (fl : LaneFlags) (h : g.xe = 0) : g.fpTrap fl = none := by
  unfold Group.fpTrap
  rw [h, Option.map_eq_none_iff, List.find?_eq_none]
  intro k _
  simp

end Sys2Proof.Machine
end

