-- ==== Sys2Proof/Tests/Slice0.lean ====
section
/-! SUPPORT. Tests: ill-formed terms are refused, words of the opcode map decode, worked values of the spec; and for each statement
with hypotheses a witness that they can be met together. -/

namespace Sys2Proof.Tests

open Sys2Proof Sys2Proof.Machine Sys2Proof.Claims

set_option maxRecDepth 20000
set_option exponentiation.threshold 1100

/-- The fields of a word. -/
def ff (e l : Bool) (d a b : BitVec 7) (x : Bool) (lit : Word) : Fields :=
  { e := e
    l := l
    d := d
    a := a
    b := b
    x := x
    lit := lit }

/-- The fields of a word with E and X clear. -/
def fw (d a b : BitVec 7) : Fields := ff false false d a b false 0

/-- The fields of a word with a literal, E and X clear. -/
def fl (d a : BitVec 7) (lit : Word) : Fields := ff false true d a 0 false lit

/-! ### Well-formedness: one ill-formed term for each check -/

theorem test_wf_good : (Instr.vadd (fw 1 2 3)).wellFormed = true ∧ (Instr.bra (fl 0 0 5)).wellFormed = true := by decide

/-- R304: a literal without L, B beside a literal, X where no row has it; a literal that must be there, one that may not. -/
theorem test_wf_literal : (Instr.sadd { fw 96 96 96 with lit := 1 }).wellFormed = false ∧
    (Instr.sadd { fl 96 96 1 with b := 97 }).wellFormed = false ∧ (Instr.sadd { fw 96 96 96 with x := true }).wellFormed = false ∧
    (Instr.bra (fw 0 0 0)).wellFormed = false ∧ (Instr.nop (fl 0 0 0)).wellFormed = false := by decide

/-- R224, R345, R317, R363, R381, R392: literals with reserved or illegal parts. -/
theorem test_wf_control : (Instr.setm (fl 0 0 0x400000)).wellFormed = false ∧ (Instr.setm (fl 0 0 0xA0000)).wellFormed = false ∧
    (Instr.sbfe (fl 96 96 0x1000)).wellFormed = false ∧ (Instr.sbfe (fl 96 96 0x420)).wellFormed = false ∧
    (Instr.wait (fl 0 0 0x40)).wellFormed = false ∧ (Instr.wait (fl 0 0 0x80000000)).wellFormed = false ∧
    (Instr.qblk (fl 4 4 0x200)).wellFormed = false ∧ (Instr.qblk (fl 4 4 96)).wellFormed = false ∧
    (Instr.qblkn (fl 4 4 0x4000)).wellFormed = false ∧
    (Instr.tfrag (fl 0 0 0)).wellFormed = false ∧ (Instr.tfrag (fl 0 0 0x411)).wellFormed = false ∧
    (Instr.twid (fl 0 0 0)).wellFormed = false ∧ (Instr.twid (fl 0 0 17)).wellFormed = false ∧
    (Instr.twid (fl 0 0 0x81)).wellFormed = false := by decide

/-- R305, R306, R313 to R317, R330, R395: a field that its position does not allow. -/
theorem test_wf_kinds : (Instr.nop (fw 1 0 0)).wellFormed = false ∧ (Instr.vadd (fw 96 0 0)).wellFormed = false ∧
    (Instr.ldd (fw 1 0 0)).wellFormed = false ∧ (Instr.ldq (fw 2 0 0)).wellFormed = false ∧ (Instr.acas (fw 1 0 0)).wellFormed = false ∧
    (Instr.vapp (fw 96 96 0)).wellFormed = false ∧ (Instr.sadd (fw 0 96 96)).wellFormed = false ∧
    (Instr.sadd64 (fw 97 96 96)).wellFormed = false ∧ (Instr.ballot (fw 127 0 0)).wellFormed = true ∧
    (Instr.vapp (fw 0 97 0)).wellFormed = false ∧ (Instr.vapp (fw 0 126 0)).wellFormed = false ∧ (Instr.ldw (fw 0 1 0)).wellFormed = false ∧
    (Instr.condIf (fw 0 8 0)).wellFormed = false ∧ (Instr.tzero (fw 8 0 0)).wellFormed = false ∧ (Instr.trap (fw 0 16 0)).wellFormed = false ∧
    (Instr.cvt (fw 0 0 64)).wellFormed = false ∧ (Instr.cvt (fw 0 0 60)).wellFormed = false ∧ (Instr.homeq (fw 96 0 0)).wellFormed = false ∧
    (Instr.homeq (fw 0 0 1)).wellFormed = false ∧ (Instr.mma (fw 0 96 0)).wellFormed = false := by decide

/-- The words and events that are no words of the map. -/
theorem test_wf_events : (Instr.unassignedOpcode 0).wellFormed = false ∧ (Instr.unassignedOpcode 0x07000000).wellFormed = true ∧
    (Instr.flitSend 31 .payload 0 []).wellFormed = false ∧ (Instr.flitSend 0 .payload 0 [[0]]).wellFormed = false ∧
    (Instr.flitReceive 0 []).wellFormed = false ∧ (Instr.retryRequest 31 0).wellFormed = false ∧
    (Instr.linkRetrain 31).wellFormed = false ∧ (Instr.retrainComplete 31 true []).wellFormed = false ∧
    (Instr.linkReturn 31).wellFormed = false ∧ (Instr.loadLimitWindow 2048).wellFormed = false ∧
    (Instr.runArbitration 2048).wellFormed = false ∧ (Instr.cueArrival 0 (List.replicate 65 0)).wellFormed = false := by decide

/-! ### Decoding -/

/-- Bytes that hold no instruction. -/
theorem test_decode_short : decode [0, 0, 0] = .error .noWord ∧ decode [0x00, 0x00, 0x00, 0x48] = .error .noLiteral := by
  constructor <;> rfl

/-- Words 0 to 24 of the opcode map (R303, R311), each with every field that its row leaves open set. -/
theorem test_decode_0 : ([
  (0x80000000, 0x0, .nop (ff true false 0x0 0x0 0x0 false 0x0)),
  (0x80400026, 0x0, .setm (ff true false 0x0 0x0 0x13 false 0x0)),
  (0x80A88000, 0x0, .getm (ff true false 0x51 0x0 0x0 false 0x0)),
  (0x80E8AA00, 0x0, .sysr (ff true false 0x51 0x2A 0x0 false 0x0)),
  (0x81002A26, 0x0, .sysw (ff true false 0x0 0x2A 0x13 false 0x0)),
  (0x81402A00, 0x0, .trap (ff true false 0x0 0x2A 0x0 false 0x0)),
  (0x81800000, 0x0, .rtt (ff true false 0x0 0x0 0x0 false 0x0)),
  (0x81C00000, 0x0, .exit (ff true false 0x0 0x0 0x0 false 0x0)),
  (0x82000000, 0x0, .yield (ff true false 0x0 0x0 0x0 false 0x0)),
  (0x82400000, 0x0, .brkpt (ff true false 0x0 0x0 0x0 false 0x0)),
  (0xC2A8AA00, 0x89ABCDEF, .wait (ff true true 0x51 0x2A 0x0 false 0x89ABCDEF)),
  (0x82C02A26, 0x0, .waitx (ff true false 0x0 0x2A 0x13 false 0x0)),
  (0x83000001, 0x0, .fence (ff true false 0x0 0x0 0x0 true 0x0)),
  (0x83688026, 0x0, .homeq (ff true false 0x51 0x0 0x13 false 0x0)),
  (0x83A88026, 0x0, .launch (ff true false 0x51 0x0 0x13 false 0x0)),
  (0x83E88026, 0x0, .recv (ff true false 0x51 0x0 0x13 false 0x0)),
  (0x84288026, 0x0, .send (ff true false 0x51 0x0 0x13 false 0x0)),
  (0x84402A26, 0x0, .bankcfg (ff true false 0x0 0x2A 0x13 false 0x0)),
  (0x84A8AA00, 0x0, .bara (ff true false 0x51 0x2A 0x0 false 0x0)),
  (0x84C02A26, 0x0, .barw (ff true false 0x0 0x2A 0x13 false 0x0)),
  (0x85002A00, 0x0, .baraw (ff true false 0x0 0x2A 0x0 false 0x0)),
  (0xC568AA00, 0x89ABCDEF, .chkw (ff true true 0x51 0x2A 0x0 false 0x89ABCDEF)),
  (0x85800000, 0x0, .wclr (ff true false 0x0 0x0 0x0 false 0x0)),
  (0x85C02A26, 0x0, .clnr (ff true false 0x0 0x2A 0x13 false 0x0)),
  (0x86002A26, 0x0, .invr (ff true false 0x0 0x2A 0x13 false 0x0))] : List (Word × Word × Instr)).all (fun r => decide (decodeWord r.1 r.2.1 = r.2.2)) = true := by decide

/-- Words 25 to 49 of the opcode map (R303, R311), each with every field that its row leaves open set. -/
theorem test_decode_1 : ([
  (0x86402A26, 0x0, .flsr (ff true false 0x0 0x2A 0x13 false 0x0)),
  (0x86802A26, 0x0, .pref (ff true false 0x0 0x2A 0x13 false 0x0)),
  (0x86C02A26, 0x0, .resid (ff true false 0x0 0x2A 0x13 false 0x0)),
  (0xC828AA00, 0x89ABCDEF, .bra (ff true true 0x51 0x2A 0x0 false 0x89ABCDEF)),
  (0xC868AA00, 0x89ABCDEF, .brz (ff true true 0x51 0x2A 0x0 false 0x89ABCDEF)),
  (0xC8A8AA00, 0x89ABCDEF, .brnz (ff true true 0x51 0x2A 0x0 false 0x89ABCDEF)),
  (0xC8E8AA00, 0x89ABCDEF, .call (ff true true 0x51 0x2A 0x0 false 0x89ABCDEF)),
  (0x89002A00, 0x0, .ret (ff true false 0x0 0x2A 0x0 false 0x0)),
  (0x89402A00, 0x0, .jmpr (ff true false 0x0 0x2A 0x0 false 0x0)),
  (0x89802A00, 0x0, .condIf (ff true false 0x0 0x2A 0x0 false 0x0)),
  (0x89C00000, 0x0, .condElse (ff true false 0x0 0x0 0x0 false 0x0)),
  (0x8A000000, 0x0, .condEndif (ff true false 0x0 0x0 0x0 false 0x0)),
  (0x8A400000, 0x0, .loop (ff true false 0x0 0x0 0x0 false 0x0)),
  (0x8AA8AA00, 0x0, .brk (ff true false 0x51 0x2A 0x0 false 0x0)),
  (0x8AE8AA00, 0x0, .cont (ff true false 0x51 0x2A 0x0 false 0x0)),
  (0xCB28AA00, 0x89ABCDEF, .endl (ff true true 0x51 0x2A 0x0 false 0x89ABCDEF)),
  (0xCB68AA00, 0x89ABCDEF, .split (ff true true 0x51 0x2A 0x0 false 0x89ABCDEF)),
  (0x8B800000, 0x0, .join (ff true false 0x0 0x0 0x0 false 0x0)),
  (0x8C288026, 0x0, .smov (ff true false 0x51 0x0 0x13 false 0x0)),
  (0x8C68AA26, 0x0, .sadd (ff true false 0x51 0x2A 0x13 false 0x0)),
  (0x8CA8AA26, 0x0, .ssub (ff true false 0x51 0x2A 0x13 false 0x0)),
  (0x8CE8AA26, 0x0, .smul (ff true false 0x51 0x2A 0x13 false 0x0)),
  (0x8D28AA26, 0x0, .smulh (ff true false 0x51 0x2A 0x13 false 0x0)),
  (0x8D68AA26, 0x0, .sand (ff true false 0x51 0x2A 0x13 false 0x0)),
  (0x8DA8AA26, 0x0, .sor (ff true false 0x51 0x2A 0x13 false 0x0))] : List (Word × Word × Instr)).all (fun r => decide (decodeWord r.1 r.2.1 = r.2.2)) = true := by decide

/-- Words 50 to 74 of the opcode map (R303, R311), each with every field that its row leaves open set. -/
theorem test_decode_2 : ([
  (0x8DE8AA26, 0x0, .sxor (ff true false 0x51 0x2A 0x13 false 0x0)),
  (0x8E28AA26, 0x0, .sshl (ff true false 0x51 0x2A 0x13 false 0x0)),
  (0x8E68AA26, 0x0, .sshr (ff true false 0x51 0x2A 0x13 false 0x0)),
  (0x8EA8AA26, 0x0, .ssra (ff true false 0x51 0x2A 0x13 false 0x0)),
  (0x8EE8AA26, 0x0, .smin (ff true false 0x51 0x2A 0x13 false 0x0)),
  (0x8F28AA26, 0x0, .smax (ff true false 0x51 0x2A 0x13 false 0x0)),
  (0x8F68AA26, 0x0, .sceq (ff true false 0x51 0x2A 0x13 false 0x0)),
  (0x8FA8AA26, 0x0, .sclt (ff true false 0x51 0x2A 0x13 false 0x0)),
  (0x8FE8AA26, 0x0, .scltu (ff true false 0x51 0x2A 0x13 false 0x0)),
  (0x9028AA26, 0x0, .ssel (ff true false 0x51 0x2A 0x13 false 0x0)),
  (0x9068AA26, 0x0, .sadd64 (ff true false 0x51 0x2A 0x13 false 0x0)),
  (0x90A8AA26, 0x0, .ssub64 (ff true false 0x51 0x2A 0x13 false 0x0)),
  (0x90E88026, 0x0, .spopc (ff true false 0x51 0x0 0x13 false 0x0)),
  (0x91288026, 0x0, .sclz (ff true false 0x51 0x0 0x13 false 0x0)),
  (0x9168AA26, 0x0, .sdivu (ff true false 0x51 0x2A 0x13 false 0x0)),
  (0x91A8AA26, 0x0, .sremu (ff true false 0x51 0x2A 0x13 false 0x0)),
  (0x91E8AA26, 0x0, .sbfe (ff true false 0x51 0x2A 0x13 false 0x0)),
  (0x94288026, 0x0, .vmov (ff true false 0x51 0x0 0x13 false 0x0)),
  (0x9468AA26, 0x0, .vbcast (ff true false 0x51 0x2A 0x13 false 0x0)),
  (0x94A88000, 0x0, .vlane (ff true false 0x51 0x0 0x0 false 0x0)),
  (0x94E8AA26, 0x0, .vadd (ff true false 0x51 0x2A 0x13 false 0x0)),
  (0x9528AA26, 0x0, .vsub (ff true false 0x51 0x2A 0x13 false 0x0)),
  (0x9568AA26, 0x0, .vmul (ff true false 0x51 0x2A 0x13 false 0x0)),
  (0x95A8AA26, 0x0, .vfma (ff true false 0x51 0x2A 0x13 false 0x0)),
  (0x95E8AA26, 0x0, .vmin (ff true false 0x51 0x2A 0x13 false 0x0))] : List (Word × Word × Instr)).all (fun r => decide (decodeWord r.1 r.2.1 = r.2.2)) = true := by decide

/-- Words 75 to 99 of the opcode map (R303, R311), each with every field that its row leaves open set. -/
theorem test_decode_3 : ([
  (0x9628AA26, 0x0, .vmax (ff true false 0x51 0x2A 0x13 false 0x0)),
  (0x96688026, 0x0, .vabs (ff true false 0x51 0x0 0x13 false 0x0)),
  (0x96A88026, 0x0, .vneg (ff true false 0x51 0x0 0x13 false 0x0)),
  (0x96E8AA26, 0x0, .vdiv (ff true false 0x51 0x2A 0x13 false 0x0)),
  (0x9728AA26, 0x0, .vrem (ff true false 0x51 0x2A 0x13 false 0x0)),
  (0x9768AA26, 0x0, .vmulh (ff true false 0x51 0x2A 0x13 false 0x0)),
  (0x97A8AA26, 0x0, .vand (ff true false 0x51 0x2A 0x13 false 0x0)),
  (0x97E8AA26, 0x0, .vor (ff true false 0x51 0x2A 0x13 false 0x0)),
  (0x9828AA26, 0x0, .vxor (ff true false 0x51 0x2A 0x13 false 0x0)),
  (0x98688026, 0x0, .vnot (ff true false 0x51 0x0 0x13 false 0x0)),
  (0x98A8AA26, 0x0, .vshl (ff true false 0x51 0x2A 0x13 false 0x0)),
  (0x98E8AA26, 0x0, .vshr (ff true false 0x51 0x2A 0x13 false 0x0)),
  (0x9928AA26, 0x0, .vsra (ff true false 0x51 0x2A 0x13 false 0x0)),
  (0x9968AA26, 0x0, .vceq (ff true false 0x51 0x2A 0x13 false 0x0)),
  (0x99A8AA26, 0x0, .vcne (ff true false 0x51 0x2A 0x13 false 0x0)),
  (0x99E8AA26, 0x0, .vclt (ff true false 0x51 0x2A 0x13 false 0x0)),
  (0x9A28AA26, 0x0, .vcle (ff true false 0x51 0x2A 0x13 false 0x0)),
  (0x9A68AA26, 0x0, .vcun (ff true false 0x51 0x2A 0x13 false 0x0)),
  (0x9AA8AA26, 0x0, .vsel (ff true false 0x51 0x2A 0x13 false 0x0)),
  (0x9AE88026, 0x0, .vpopc (ff true false 0x51 0x0 0x13 false 0x0)),
  (0x9B288026, 0x0, .vclz (ff true false 0x51 0x0 0x13 false 0x0)),
  (0x9B68AA26, 0x0, .vbfe (ff true false 0x51 0x2A 0x13 false 0x0)),
  (0x9BA8AA26, 0x0, .vbfi (ff true false 0x51 0x2A 0x13 false 0x0)),
  (0x9BE8AA26, 0x0, .vpand (ff true false 0x51 0x2A 0x13 false 0x0)),
  (0x9C28AA26, 0x0, .vpor (ff true false 0x51 0x2A 0x13 false 0x0))] : List (Word × Word × Instr)).all (fun r => decide (decodeWord r.1 r.2.1 = r.2.2)) = true := by decide

/-- Words 100 to 124 of the opcode map (R303, R311), each with every field that its row leaves open set. -/
theorem test_decode_4 : ([
  (0x9C688026, 0x0, .vpnot (ff true false 0x51 0x0 0x13 false 0x0)),
  (0x9CA88026, 0x0, .vrcp (ff true false 0x51 0x0 0x13 false 0x0)),
  (0x9CE88026, 0x0, .vrsq (ff true false 0x51 0x0 0x13 false 0x0)),
  (0x9D288026, 0x0, .vsqrt (ff true false 0x51 0x0 0x13 false 0x0)),
  (0x9D688026, 0x0, .vex2 (ff true false 0x51 0x0 0x13 false 0x0)),
  (0x9DA88026, 0x0, .vlg2 (ff true false 0x51 0x0 0x13 false 0x0)),
  (0x9DE88026, 0x0, .vsin (ff true false 0x51 0x0 0x13 false 0x0)),
  (0x9E288026, 0x0, .vcos (ff true false 0x51 0x0 0x13 false 0x0)),
  (0x9E688026, 0x0, .vflr (ff true false 0x51 0x0 0x13 false 0x0)),
  (0x9EA88026, 0x0, .vceil (ff true false 0x51 0x0 0x13 false 0x0)),
  (0x9EE88026, 0x0, .vrnd (ff true false 0x51 0x0 0x13 false 0x0)),
  (0x9F288026, 0x0, .vclass (ff true false 0x51 0x0 0x13 false 0x0)),
  (0x9F688026, 0x0, .vmovi (ff true false 0x51 0x0 0x13 false 0x0)),
  (0x9FA8AA00, 0x0, .vpset (ff true false 0x51 0x2A 0x0 false 0x0)),
  (0xA028AA26, 0x0, .cvt (ff true false 0x51 0x2A 0x13 false 0x0)),
  (0xA068AA00, 0x0, .vpk2 (ff true false 0x51 0x2A 0x0 false 0x0)),
  (0xA0A8AA00, 0x0, .vpk4 (ff true false 0x51 0x2A 0x0 false 0x0)),
  (0xA0E8AA00, 0x0, .vpk8 (ff true false 0x51 0x2A 0x0 false 0x0)),
  (0xA128AA26, 0x0, .vunpk (ff true false 0x51 0x2A 0x13 false 0x0)),
  (0xA168AA26, 0x0, .dot4 (ff true false 0x51 0x2A 0x13 false 0x0)),
  (0xA1A8AA26, 0x0, .dot8 (ff true false 0x51 0x2A 0x13 false 0x0)),
  (0xA1E8AA26, 0x0, .idot4 (ff true false 0x51 0x2A 0x13 false 0x0)),
  (0xA228AA26, 0x0, .qblk (ff true false 0x51 0x2A 0x13 false 0x0)),
  (0xA268AA26, 0x0, .qblkn (ff true false 0x51 0x2A 0x13 false 0x0)),
  (0xA2A8AA26, 0x0, .vscl (ff true false 0x51 0x2A 0x13 false 0x0))] : List (Word × Word × Instr)).all (fun r => decide (decodeWord r.1 r.2.1 = r.2.2)) = true := by decide

/-- Words 125 to 149 of the opcode map (R303, R311), each with every field that its row leaves open set. -/
theorem test_decode_5 : ([
  (0xA428AA26, 0x0, .shfl (ff true false 0x51 0x2A 0x13 false 0x0)),
  (0xA468AA26, 0x0, .shflx (ff true false 0x51 0x2A 0x13 false 0x0)),
  (0xA4A8AA00, 0x0, .voteany (ff true false 0x51 0x2A 0x0 false 0x0)),
  (0xA4E8AA00, 0x0, .voteall (ff true false 0x51 0x2A 0x0 false 0x0)),
  (0xA528AA00, 0x0, .ballot (ff true false 0x51 0x2A 0x0 false 0x0)),
  (0xA568AA26, 0x0, .gred (ff true false 0x51 0x2A 0x13 false 0x0)),
  (0xA5A8AA26, 0x0, .gscan (ff true false 0x51 0x2A 0x13 false 0x0)),
  (0xA628AA27, 0x0, .mma (ff true false 0x51 0x2A 0x13 true 0x0)),
  (0xA668AA27, 0x0, .mmaz (ff true false 0x51 0x2A 0x13 true 0x0)),
  (0xA6A88000, 0x0, .tzero (ff true false 0x51 0x0 0x0 false 0x0)),
  (0xA6E8AA26, 0x0, .tld (ff true false 0x51 0x2A 0x13 false 0x0)),
  (0xA728AA26, 0x0, .tst (ff true false 0x51 0x2A 0x13 false 0x0)),
  (0xA768AA26, 0x0, .tfrag (ff true false 0x51 0x2A 0x13 false 0x0)),
  (0xA7A8AA26, 0x0, .tfill (ff true false 0x51 0x2A 0x13 false 0x0)),
  (0xA7E8AA00, 0x0, .tmaxr (ff true false 0x51 0x2A 0x0 false 0x0)),
  (0xA828AA26, 0x0, .texps (ff true false 0x51 0x2A 0x13 false 0x0)),
  (0xA8688000, 0x0, .tnorm (ff true false 0x51 0x0 0x0 false 0x0)),
  (0xA8A88026, 0x0, .tfft (ff true false 0x51 0x0 0x13 false 0x0)),
  (0xA8E8AA26, 0x0, .tfstg (ff true false 0x51 0x2A 0x13 false 0x0)),
  (0xA9288026, 0x0, .tbrev (ff true false 0x51 0x0 0x13 false 0x0)),
  (0xA968AA26, 0x0, .twid (ff true false 0x51 0x2A 0x13 false 0x0)),
  (0xA9A88026, 0x0, .tscl (ff true false 0x51 0x0 0x13 false 0x0)),
  (0xA9E8AA00, 0x0, .tcvt (ff true false 0x51 0x2A 0x0 false 0x0)),
  (0xAC28AA26, 0x0, .ldb (ff true false 0x51 0x2A 0x13 false 0x0)),
  (0xAC68AA26, 0x0, .ldh (ff true false 0x51 0x2A 0x13 false 0x0))] : List (Word × Word × Instr)).all (fun r => decide (decodeWord r.1 r.2.1 = r.2.2)) = true := by decide

/-- Words 150 to 174 of the opcode map (R303, R311), each with every field that its row leaves open set. -/
theorem test_decode_6 : ([
  (0xACA8AA26, 0x0, .ldw (ff true false 0x51 0x2A 0x13 false 0x0)),
  (0xACE8AA26, 0x0, .ldd (ff true false 0x51 0x2A 0x13 false 0x0)),
  (0xAD28AA26, 0x0, .ldq (ff true false 0x51 0x2A 0x13 false 0x0)),
  (0xAD68AA26, 0x0, .stb (ff true false 0x51 0x2A 0x13 false 0x0)),
  (0xADA8AA26, 0x0, .sth (ff true false 0x51 0x2A 0x13 false 0x0)),
  (0xADE8AA26, 0x0, .stw (ff true false 0x51 0x2A 0x13 false 0x0)),
  (0xAE28AA26, 0x0, .std (ff true false 0x51 0x2A 0x13 false 0x0)),
  (0xAE68AA26, 0x0, .stq (ff true false 0x51 0x2A 0x13 false 0x0)),
  (0xAEA8AA26, 0x0, .ldsw (ff true false 0x51 0x2A 0x13 false 0x0)),
  (0xAEE8AA26, 0x0, .ldsd (ff true false 0x51 0x2A 0x13 false 0x0)),
  (0xAF28AA26, 0x0, .stsw (ff true false 0x51 0x2A 0x13 false 0x0)),
  (0xAF68AA26, 0x0, .stsd (ff true false 0x51 0x2A 0x13 false 0x0)),
  (0xAFA8AA26, 0x0, .lduw (ff true false 0x51 0x2A 0x13 false 0x0)),
  (0xAFE8AA26, 0x0, .ldud (ff true false 0x51 0x2A 0x13 false 0x0)),
  (0xB028AA26, 0x0, .lduq (ff true false 0x51 0x2A 0x13 false 0x0)),
  (0xB068AA26, 0x0, .lldw (ff true false 0x51 0x2A 0x13 false 0x0)),
  (0xB0A8AA26, 0x0, .lldq (ff true false 0x51 0x2A 0x13 false 0x0)),
  (0xB0E8AA26, 0x0, .lstw (ff true false 0x51 0x2A 0x13 false 0x0)),
  (0xB128AA26, 0x0, .lstq (ff true false 0x51 0x2A 0x13 false 0x0)),
  (0xB168AA00, 0x0, .qenq (ff true false 0x51 0x2A 0x0 false 0x0)),
  (0xB1A8AA00, 0x0, .qdeq (ff true false 0x51 0x2A 0x0 false 0x0)),
  (0xB228AA26, 0x0, .aadd (ff true false 0x51 0x2A 0x13 false 0x0)),
  (0xB268AA26, 0x0, .amin (ff true false 0x51 0x2A 0x13 false 0x0)),
  (0xB2A8AA26, 0x0, .amax (ff true false 0x51 0x2A 0x13 false 0x0)),
  (0xB2E8AA26, 0x0, .aand (ff true false 0x51 0x2A 0x13 false 0x0))] : List (Word × Word × Instr)).all (fun r => decide (decodeWord r.1 r.2.1 = r.2.2)) = true := by decide

/-- Words 175 to 198 of the opcode map (R303, R311), each with every field that its row leaves open set. -/
theorem test_decode_7 : ([
  (0xB328AA26, 0x0, .aor (ff true false 0x51 0x2A 0x13 false 0x0)),
  (0xB368AA26, 0x0, .axor (ff true false 0x51 0x2A 0x13 false 0x0)),
  (0xB3A8AA26, 0x0, .axch (ff true false 0x51 0x2A 0x13 false 0x0)),
  (0xB3E8AA26, 0x0, .acas (ff true false 0x51 0x2A 0x13 false 0x0)),
  (0xB428AA26, 0x0, .afadd (ff true false 0x51 0x2A 0x13 false 0x0)),
  (0xB468AA26, 0x0, .radd (ff true false 0x51 0x2A 0x13 false 0x0)),
  (0xB4A8AA26, 0x0, .rfadd (ff true false 0x51 0x2A 0x13 false 0x0)),
  (0xB4E8AA26, 0x0, .rmin (ff true false 0x51 0x2A 0x13 false 0x0)),
  (0xB528AA26, 0x0, .rmax (ff true false 0x51 0x2A 0x13 false 0x0)),
  (0xB568AA26, 0x0, .cpy (ff true false 0x51 0x2A 0x13 false 0x0)),
  (0xB5A8AA26, 0x0, .cpya (ff true false 0x51 0x2A 0x13 false 0x0)),
  (0xB5E8AA26, 0x0, .cpyr (ff true false 0x51 0x2A 0x13 false 0x0)),
  (0xB628AA26, 0x0, .cpyar (ff true false 0x51 0x2A 0x13 false 0x0)),
  (0xB668AA26, 0x0, .cpy2d (ff true false 0x51 0x2A 0x13 false 0x0)),
  (0xB828AA26, 0x0, .vapp (ff true false 0x51 0x2A 0x13 false 0x0)),
  (0xB868AA00, 0x0, .vstamp (ff true false 0x51 0x2A 0x0 false 0x0)),
  (0xB8802A00, 0x0, .vdrop (ff true false 0x0 0x2A 0x0 false 0x0)),
  (0xB8E8AA26, 0x0, .vget (ff true false 0x51 0x2A 0x13 false 0x0)),
  (0xB928AA26, 0x0, .vconn (ff true false 0x51 0x2A 0x13 false 0x0)),
  (0xB968AA26, 0x0, .vmrg (ff true false 0x51 0x2A 0x13 false 0x0)),
  (0xB9A8AA26, 0x0, .vrwt (ff true false 0x51 0x2A 0x13 false 0x0)),
  (0xB9E8AA26, 0x0, .vret (ff true false 0x51 0x2A 0x13 false 0x0)),
  (0xBA28AA26, 0x0, .sight (ff true false 0x51 0x2A 0x13 false 0x0)),
  (0xBA68AA26, 0x0, .sighta (ff true false 0x51 0x2A 0x13 false 0x0))] : List (Word × Word × Instr)).all (fun r => decide (decodeWord r.1 r.2.1 = r.2.2)) = true := by decide

/-! ### A small state -/

/-- The slot A of group 0 issues. -/
def cur0 : Cursor :=
  { gid := 0
    sel := .a
    count := 0
    load := false }

/-- A group of context 0 as R208 starts it, with handlers. -/
def g0 : Group := { placedGroup with tvecDev := 0x8000000001000 }

/-- The same with a mode word. -/
def gm (m : Word) : Group := { g0 with m := m }

/-- Running dies with one group, which issues. -/
def demo (g : Group) : State :=
  { State.reset with
    pkg := { State.reset.pkg with dieReset := false }
    groups := [(0, some g)]
    cores := [(0, { Core.reset with active := some 0 })]
    contexts := [(0, some { killed := false, resilient := false, safe := 0, safeSize := 0, interval := 0, ckpts := 0, ckptAt := 0,
                            guarded := [], failures := 0, saved := none, redo := [], heldEvts := [] })]
    cur := some cur0 }

/-- `Ready`, as a test. -/
def readyB (s : State) (c : Cursor) (g : Group) (op : Op) (f : Fields) : Bool :=
  s.running && decide (s.cur = some c) && decide (s.group? c.gid = some g) && !g.hazard op f c.sel &&
  !s.unitHazard c.gid g op f c.sel && !s.held g c.sel && !s.speculates c.gid && (!isLoadCode op.code || g.token.isSome) &&
  (op.check f g c.sel).isNone

theorem ready_of {s : State} {c : Cursor} {g : Group} {op : Op} {f : Fields} (h : readyB s c g op f = true) : Ready s c g op f := by
  simp only [readyB, Bool.and_eq_true, Bool.not_eq_true', decide_eq_true_eq, Bool.or_eq_true, Option.isNone_iff_eq_none] at h
  obtain ⟨⟨⟨⟨⟨⟨⟨⟨h1, h2⟩, h3⟩, h4⟩, hu⟩, h5⟩, h6⟩, h7⟩, h8⟩ := h
  refine ⟨h1, h2, h3, h4, hu, h5, h6, fun hl => ?_, h8⟩
  rcases h7 with h7 | h7
  · simp_all
  · exact h7

/-- `Meets`, as a test. -/
def meetsB (s : State) (c : Cursor) (g : Group) (op : Op) (f : Fields) : Bool :=
  s.running && decide (s.cur = some c) && decide (s.group? c.gid = some g) && !g.hazard op f c.sel &&
  !s.unitHazard c.gid g op f c.sel && !s.held g c.sel && !s.speculates c.gid && (!isLoadCode op.code || g.token.isSome)

theorem meets_of {s : State} {c : Cursor} {g : Group} {op : Op} {f : Fields} (h : meetsB s c g op f = true) : Meets s c g op f := by
  simp only [meetsB, Bool.and_eq_true, Bool.not_eq_true', decide_eq_true_eq, Bool.or_eq_true] at h
  obtain ⟨⟨⟨⟨⟨⟨⟨h1, h2⟩, h3⟩, h4⟩, hu⟩, h5⟩, h6⟩, h7⟩ := h
  refine ⟨h1, h2, h3, h4, hu, h5, h6, fun hl => ?_⟩
  rcases h7 with h7 | h7
  · simp_all
  · exact h7

/-- A word that some state finds ready, with STEP off. -/
def Met (op : Op) (P : State → Cursor → Group → Fields → Prop) : Prop :=
  ∃ s c g f, Ready s c g op f ∧ StepOff g ∧ P s c g f

theorem met {op : Op} {P : State → Cursor → Group → Fields → Prop} (s : State) (g : Group) (f : Fields)
    (h : (readyB s cur0 g op f && !g.troute.getLsbD 16) = true) (p : P s cur0 g f) : Met op P := by
  rw [Bool.and_eq_true] at h
  exact ⟨s, cur0, g, f, ready_of h.1, fun _ => by simpa using h.2, p⟩

/-- A row of the table below: opcode, type in `m.t`, D, A, B, literal. The group under that type finds the word ready. -/
def rowReady (r : Nat × Nat × Nat × Nat × Nat × Option Nat) : Bool :=
  let (n, t, d, a, b, l) := r
  let f := ff false l.isSome (BitVec.ofNat 7 d) (BitVec.ofNat 7 a) (BitVec.ofNat 7 b) false (BitVec.ofNat 32 (l.getD 0))
  let g := gm (BitVec.ofNat 32 (t * 16))
  match Instr.ofCode n with
  | none => false
  | some mk =>
    match (mk f).word? with
    | none => false
    | some (op, f') => op.code == n && f' == f && (mk f).wellFormed && readyB (demo g) cur0 g op f && !g.troute.getLsbD 16

/-! ### Every word can be ready: the hypotheses of the statements about all words of one shape (R307) -/

theorem wit_words_0 : ([
  (0, 2, 0, 0, 0, none), (1, 2, 0, 0, 96, none), (2, 2, 96, 0, 0, none), (3, 2, 96, 0, 0, none), (4, 2, 0, 96, 96, none),
  (5, 2, 0, 0, 0, none), (7, 2, 0, 0, 0, none), (8, 2, 0, 0, 0, none), (9, 2, 0, 0, 0, none), (10, 2, 0, 0, 0, some 0),
  (11, 2, 0, 0, 96, none), (12, 2, 0, 0, 0, none), (13, 2, 0, 0, 0, none), (14, 2, 96, 0, 96, none), (15, 2, 0, 0, 96, none),
  (16, 2, 96, 0, 0, none), (17, 2, 0, 96, 96, none), (18, 2, 96, 0, 0, none), (19, 2, 0, 0, 96, none), (20, 2, 0, 0, 0, none),
  (21, 2, 0, 0, 0, some 0), (22, 2, 0, 0, 0, none), (23, 2, 0, 96, 96, none), (24, 2, 0, 96, 96, none),
  (25, 2, 0, 96, 96, none), (26, 2, 0, 96, 96, none), (27, 2, 0, 96, 96, none), (32, 2, 0, 0, 0, some 0),
  (33, 2, 0, 96, 0, some 0), (34, 2, 0, 96, 0, some 0), (35, 2, 96, 0, 0, some 0), (36, 2, 0, 96, 0, none),
  (37, 2, 0, 96, 0, none), (38, 2, 0, 0, 0, none), (39, 2, 0, 0, 0, none), (40, 2, 0, 0, 0, none), (41, 2, 0, 0, 0, none),
  (42, 2, 0, 0, 0, none), (43, 2, 0, 0, 0, none), (44, 2, 0, 0, 0, some 0)] :
    List (Nat × Nat × Nat × Nat × Nat × Option Nat)).all rowReady = true := by decide

theorem wit_words_1 : ([
  (45, 2, 0, 0, 0, some 0), (46, 2, 0, 0, 0, none), (48, 2, 96, 0, 96, none), (49, 2, 96, 96, 96, none),
  (50, 2, 96, 96, 96, none), (51, 2, 96, 96, 96, none), (52, 2, 96, 96, 96, none), (53, 2, 96, 96, 96, none),
  (54, 2, 96, 96, 96, none), (55, 2, 96, 96, 96, none), (56, 2, 96, 96, 96, none), (57, 2, 96, 96, 96, none),
  (58, 2, 96, 96, 96, none), (59, 2, 96, 96, 96, none), (60, 2, 96, 96, 96, none), (61, 2, 96, 96, 96, none),
  (62, 2, 96, 96, 96, none), (63, 2, 96, 96, 96, none), (64, 2, 96, 96, 96, none), (65, 2, 96, 96, 96, none),
  (66, 2, 96, 96, 96, none), (67, 2, 96, 0, 96, none), (68, 2, 96, 0, 96, none), (69, 2, 96, 96, 96, none),
  (70, 2, 96, 96, 96, none), (71, 2, 96, 96, 96, none), (80, 2, 0, 0, 0, none), (81, 2, 0, 0, 96, none),
  (82, 2, 0, 0, 0, none), (83, 2, 0, 0, 0, none), (84, 2, 0, 0, 0, none), (85, 2, 0, 0, 0, none), (86, 2, 0, 0, 0, none),
  (87, 2, 0, 0, 0, none), (88, 2, 0, 0, 0, none), (89, 2, 0, 0, 0, none), (90, 2, 0, 0, 0, none), (91, 2, 0, 0, 0, none),
  (92, 0, 0, 0, 0, none), (93, 0, 0, 0, 0, none)] :
    List (Nat × Nat × Nat × Nat × Nat × Option Nat)).all rowReady = true := by decide

theorem wit_words_2 : ([
  (94, 2, 0, 0, 0, none), (95, 2, 0, 0, 0, none), (96, 2, 0, 0, 0, none), (97, 2, 0, 0, 0, none), (98, 2, 0, 0, 0, none),
  (99, 2, 0, 0, 0, none), (100, 2, 0, 0, 0, none), (101, 2, 0, 0, 0, none), (102, 2, 0, 0, 0, none), (103, 2, 0, 0, 0, none),
  (104, 2, 0, 0, 0, none), (105, 2, 0, 0, 0, none), (106, 2, 0, 0, 0, none), (107, 2, 0, 0, 0, none), (108, 2, 0, 0, 0, none),
  (109, 2, 0, 0, 0, none), (110, 2, 0, 0, 0, none), (111, 2, 0, 0, 0, none), (112, 2, 0, 0, 0, none), (113, 2, 0, 0, 0, none),
  (114, 2, 0, 0, 0, none), (115, 2, 0, 0, 0, none), (116, 2, 0, 0, 0, none), (117, 2, 0, 0, 0, none), (118, 2, 0, 0, 0, none),
  (119, 2, 0, 0, 0, none), (120, 2, 0, 0, 0, none), (121, 2, 0, 0, 0, none), (122, 2, 0, 0, 0, none), (123, 2, 0, 0, 0, none),
  (124, 2, 0, 0, 0, none), (125, 2, 96, 0, 0, none), (126, 2, 0, 96, 0, none), (128, 2, 0, 0, 0, none),
  (129, 4, 0, 0, 0, none), (130, 8, 0, 0, 0, none), (131, 10, 0, 0, 0, none), (132, 4, 0, 0, 96, none),
  (133, 8, 0, 0, 0, none), (134, 10, 0, 0, 0, none)] :
    List (Nat × Nat × Nat × Nat × Nat × Option Nat)).all rowReady = true := by decide

theorem wit_words_3 : ([
  (135, 6, 0, 0, 0, none), (136, 8, 4, 4, 96, none), (137, 8, 4, 4, 96, none), (138, 2, 0, 0, 0, none),
  (144, 2, 0, 0, 0, none), (145, 2, 0, 0, 0, none), (146, 2, 0, 0, 0, none), (147, 2, 0, 0, 0, none), (148, 2, 96, 0, 0, none),
  (149, 2, 0, 0, 0, none), (150, 2, 0, 0, 0, none), (152, 2, 0, 0, 0, none), (153, 2, 0, 0, 0, none), (154, 2, 0, 0, 0, none),
  (155, 2, 0, 0, 0, none), (156, 2, 0, 0, 0, none), (157, 2, 0, 0, 0, some 32), (158, 2, 0, 0, 0, some 32),
  (159, 2, 0, 0, 0, none), (160, 4, 0, 0, 0, none), (161, 2, 0, 0, 0, none), (165, 2, 0, 0, 0, some 1),
  (166, 2, 0, 0, 96, none), (167, 2, 0, 0, 0, none), (176, 2, 0, 0, 0, none), (177, 2, 0, 0, 0, none), (178, 2, 0, 0, 0, none),
  (179, 2, 0, 0, 0, none), (180, 2, 0, 0, 0, none), (181, 2, 0, 0, 0, none), (182, 2, 0, 0, 0, none), (183, 2, 0, 0, 0, none),
  (184, 2, 0, 0, 0, none), (185, 2, 0, 0, 0, none), (186, 2, 96, 96, 96, none), (187, 2, 96, 96, 96, none),
  (188, 2, 96, 96, 96, none), (189, 2, 96, 96, 96, none), (190, 2, 0, 0, 0, none), (191, 2, 0, 0, 0, none)] :
    List (Nat × Nat × Nat × Nat × Nat × Option Nat)).all rowReady = true := by decide

theorem wit_words_4 : ([
  (192, 2, 0, 0, 0, none), (193, 2, 0, 0, 0, none), (194, 2, 0, 0, 0, none), (195, 2, 0, 0, 0, none), (196, 2, 0, 0, 0, none),
  (197, 2, 0, 0, 0, none), (198, 2, 0, 0, 0, none), (200, 0, 0, 0, 0, none), (201, 2, 0, 0, 0, none), (202, 2, 0, 0, 0, none),
  (203, 2, 0, 0, 0, none), (204, 2, 0, 0, 0, none), (205, 2, 0, 0, 0, none), (206, 2, 0, 0, 0, none), (207, 2, 0, 0, 0, none),
  (208, 2, 0, 0, 0, none), (209, 0, 0, 0, 0, none), (210, 2, 0, 0, 0, none), (211, 2, 0, 0, 0, none), (212, 2, 0, 0, 0, none),
  (213, 2, 96, 96, 96, none), (214, 2, 96, 96, 96, none), (215, 2, 96, 96, 96, none), (216, 2, 96, 96, 96, none),
  (217, 2, 96, 96, 96, none), (224, 2, 0, 96, 0, none), (225, 2, 96, 96, 0, none), (226, 2, 0, 96, 0, none),
  (227, 2, 0, 96, 0, none), (228, 2, 0, 96, 0, none), (229, 2, 0, 96, 0, none), (230, 2, 96, 96, 96, none),
  (231, 2, 0, 96, 0, none), (232, 2, 0, 96, 0, none), (233, 2, 0, 96, 0, none)] :
    List (Nat × Nat × Nat × Nat × Nat × Option Nat)).all rowReady = true := by decide

/-! ### Witnesses: encoding, steps, traps -/

/-- An operation in flight. -/
def opIn (kind : OpKind) (cls : CntClass) : MemOp :=
  { id := 0
    kind := kind
    cls := cls
    level := 0
    user := false
    sel := .a
    pc := 0
    word := 0
    lit := 0
    order := { acq := false, rel := false, sc := false }
    miss := false
    lanes := 1
    addrs := [(0, placedPc.toNat)]
    ptes := []
    data := []
    regs := []
    dst := 0
    ty := 0
    ticket := false
    done := false }

/-- A group with operations in flight. -/
def gops (os : List MemOp) : Group := { g0 with ops := os, nextOp := os.length }

theorem wit_DecodeEncode : ∃ i, i.wellFormed = true ∧ isWord i = true := ⟨.sadd (fl 96 96 0xFFFFFFFF), by decide⟩

theorem wit_EncodeDecode : ∃ bs rest i, decode bs = .ok (i, rest) ∧ rest ≠ [] :=
  ⟨[0, 0, 0, 0, 9], [9], .nop (fw 0 0 0), by rfl, by decide⟩

theorem wit_OpcodeMap : (∃ k, Instr.ofCode 0xE9 = some k) ∧ Instr.ofCode 0xEA = none ∧
    ∃ op f, (Instr.nop (fw 0 0 0)).word? = some (op, f) := ⟨⟨_, rfl⟩, rfl, _, _, rfl⟩

/-- A placed word, and one with a literal, can be fetched. -/
def placed (n w : Nat) : State := State.reset.withFetchWord n w

theorem wit_StepRunsWord : (placed 32 0).agenda = [] ∧ (placed 32 0).cur = some cur0 ∧ (placed 32 0).group? 0 = some placedGroup ∧
    (placed 32 0).running = true ∧ fetchLeaf (placed 32 0) placedGroup .a placedPc = .ok placedLeaf ∧
    (placed 32 0).fetchWaits placedGroup .a = none ∧ (placed 64 0x548000000).fetchWaits placedGroup .a = none ∧
    takesLiteral (wordAt (placed 32 0) placedGroup placedPc placedLeaf) = false ∧
    takesLiteral (wordAt (placed 64 0x548000000) placedGroup placedPc placedLeaf) = true ∧
    fetchLeaf (placed 64 0x548000000) placedGroup .a (placedPc + 4) = .ok placedLeaf := by decide

/-- A group whose PC is misaligned. -/
def godd : Group := { g0 with slotA := { g0.slotA with pc := 2 } }

/-- The placed word, while the slice that serves its line is in a sweep. -/
def placedSweep : State :=
  { placed 32 0 with slices := [(0, { Slice.reset with sweep := true })] }

theorem wit_StepOtherwise : ((∃ t, fetchLeaf (demo godd) godd .a (godd.slotOf .a).pc = .error t) ∧ (demo godd).agenda = [] ∧
      (demo godd).running = true ∧ (demo godd).group? 0 = some godd ∧ (demo godd).fetchWaits godd .a = none) ∧
    (∀ i ∈ [Instr.readyTimeout, .eventWrite, .cueAttest, .thermalTripEvent, .thermTripNAssert], afterRun i = false ∧ isWord i = false) ∧
    State.reset.running = false ∧ isWord (.nop (fw 0 0 0)) = true ∧ afterRun (.nop (fw 0 0 0)) = false ∧
    afterRun (.containmentAction 0) = true ∧ isWord (.containmentAction 0) = false ∧ (demo g0).cur = some cur0 ∧
    (demo g0).group? 0 = some g0 ∧ (demo g0).running = true ∧
    (placedSweep.agenda = [] ∧ placedSweep.cur = some cur0 ∧ placedSweep.group? 0 = some placedGroup ∧ placedSweep.running = true ∧
      (placedSweep.fetchWaits placedGroup .a).isSome = true) :=
  ⟨⟨⟨_, rfl⟩, by decide⟩, by decide⟩

theorem wit_MemoryCanonical : ∃ t, State.reset.MemoryOk ∧ step State.reset = .next t := ⟨_, ⟨rfl, rfl, rfl, rfl⟩, rfl⟩

/-- A group whose handlers are at both vectors. -/
def gv (lvl : Nat) (troute : BitVec 17) : Group := { g0 with lvl := lvl, troute := troute, tvecUser := 0x8000000002000 }

theorem wit_TrapEntry : (∀ l ∈ [0, 1], ∀ c ∈ [0x01, 0x10, 0x16, 0x17, 0x20, 0x21, 0x22, 0x37, 0x38, 0x3F], Enters (gv l 0x1FFFF) c) ∧
    (gv 0 0x100).vector 0x10 = 0x8000000002000 ∧ (gv 0 0x4000).vector 0x16 = 0x8000000002000 ∧
    (gv 0 0xFFFF).vector 0x17 = 0x8000000001000 ∧ (gv 0 0x8000).vector 0x21 = 0x8000000002000 ∧
    (gv 0 1).vector 0x38 = 0x8000000002000 ∧ (gv 0 0x80).vector 0x3F = 0x8000000002000 ∧ (gv 0 0xFFFF).vector 0x22 = 0x8000000001000 ∧
    ({ gv 0 0x80 with tvecUser := 0 }).vector 0x3F = 0x8000000001000 := by
  refine ⟨?_, by decide⟩
  intro l hl c hc
  have : ([0, 1] : List Nat).all (fun l => [0x01, 0x10, 0x16, 0x17, 0x20, 0x21, 0x22, 0x37, 0x38, 0x3F].all (fun c =>
    decide ((gv l 0x1FFFF).lvl < 2) && decide ((gv l 0x1FFFF).vector c ≠ 0))) = true := by decide
  have := List.all_eq_true.1 (List.all_eq_true.1 this l hl) c hc
  simpa [Enters] using this

theorem wit_TrapEscalates : ∀ g ∈ [gv 2 0, { g0 with tvecDev := 0 }, { gv 2 0 with ctx := 1 }],
    (demo g).group? 0 = some g ∧ (g.lvl = 2 ∨ g.vector 1 = 0) ∧ g.die < 8 := by decide

/-- A launch of the context waits on the die when its group escalates. -/
theorem wit_TrapEscalates_queued :
    let s := { demo { gv 2 0 with ctx := 1 } with
      launches := [(3, some (Launch.fresh
        { entry := 0, tdim := (1, 1, 1), gwc := 0, ngrp := 1, nvr := 96, ntile := 8, scrb := 16384, fifon := 0, prio := 0, pair := false,
          dep := false, ctx := 1, depva := 0, depval := 0, cmpva := 0, argp := 0 } 0 0 0))]
      dies := [(0, { DieState.reset with queues := [(2, [3])] })] }
    (s.die 0).queue 2 = [3] ∧ ((s.takeTrap 0 .a { cause := 1, mask := 1 } 0 0 0).die 0).queue 2 = [] := by decide

/-- A group at level 1 whose slot A of level 0 owns the lanes of a mask. -/
def grtt (m : Mask) : Group :=
  { gv 1 0 with bank0 := { (gv 1 0).bank0 with slotA := { pc := 4, owned := m, enable := m, status := .ready, back := 0, sib := 0 } } }

theorem wit_RttReturns : Met Op.rtt (fun _ _ g _ => g.lvl = 1 ∧ g.troute.getLsbD 16 = false ∧ g.bank0.slotA.status ≠ .empty ∧
      g.bank0.slotA.owned ≠ 0 ∧ g.bank0.slotB.status = .empty) ∧
    Met Op.rtt (fun _ _ g _ => g.lvl = 1 ∧ g.troute.getLsbD 16 = false ∧ g.bank0.mark = 0 ∧ g.bank0.slotA.status ≠ .empty ∧
      g.bank0.slotA.owned = 0) ∧
    Met Op.rtt (fun _ _ g _ => g.lvl = 2 ∧ g.troute.getLsbD 16 = false ∧ g.bank1.mark ≤ g.stack.length) :=
  ⟨met (demo (grtt 1)) (grtt 1) (fw 0 0 0) (by decide) (by decide), met (demo (grtt 0)) (grtt 0) (fw 0 0 0) (by decide) (by decide),
   met (demo (gv 2 0)) (gv 2 0) (fw 0 0 0) (by decide) (by decide)⟩

theorem wit_EnterThenReturn : ∀ l ∈ [0, 1], (gv l 0).lvl < 2 ∧ (gv l 0).modeWord (gv l 0).m = (gv l 0).m ∧
    ∀ x ∈ [PcSel.a, .b], ((gv l 0).slotOf x).status ≠ .empty → ((gv l 0).slotOf x).owned ≠ 0 := by decide

theorem wit_TrapWords : (∀ k ∈ ([0, 7, 8, 15] : List (BitVec 7)), Met Op.trap (fun _ _ g f => f.a = k ∧ f.a.toNat ≤ 15 ∧
      Enters g (if f.a.toNat < 8 then 0x38 + f.a.toNat else 0x30 + (f.a.toNat - 8)))) ∧
    Met Op.brkpt (fun _ _ g _ => Enters g 0x21) := by
  refine ⟨?_, met (demo g0) g0 (fw 0 0 0) (by decide) ⟨by decide, by decide⟩⟩
  intro k hk
  have : ∀ k ∈ ([0, 7, 8, 15] : List (BitVec 7)), readyB (demo g0) cur0 g0 Op.trap (fw 0 k 0) = true ∧ k.toNat ≤ 15 ∧
      g0.vector (if k.toNat < 8 then 0x38 + k.toNat else 0x30 + (k.toNat - 8)) ≠ 0 := by decide
  obtain ⟨h1, h2, h3⟩ := this k hk
  exact met (demo g0) g0 (fw 0 k 0) (by rw [h1]; decide) ⟨rfl, h2, by decide, h3⟩

theorem wit_IllegalOpTraps : (demo g0).running = true ∧ g0.pendingRegs = [] ∧ (demo g0).held g0 .a = false ∧
    (demo g0).speculates 0 = false ∧ Enters g0 1 ∧ Meets (demo g0) cur0 g0 Op.rtt (fw 0 0 0) ∧ g0.lvl = 0 :=
  ⟨by decide, by decide, by decide, by decide, ⟨by decide, by decide⟩, meets_of (by decide), by decide⟩

/-- An unprivileged group of context 1. -/
def gu : Group := { g0 with ctx := 1, pv := false }

theorem wit_PrivilegedTraps : Enters gu 3 ∧ gu.privileged = false ∧
    Meets (demo gu) cur0 gu Op.launch (fw 96 0 96) ∧ Meets (demo gu) cur0 gu Op.recv (fw 0 0 96) ∧
    Meets (demo gu) cur0 gu Op.send (fw 96 0 0) ∧ Meets (demo gu) cur0 gu Op.bankcfg (fw 0 96 96) ∧
    Meets (demo gu) cur0 gu Op.trap (fw 0 8 0) ∧ Meets (demo gu) cur0 gu Op.trap (fw 0 15 0) ∧
    Meets (demo gu) cur0 gu Op.sysr (fw 96 0x50 0) ∧ Meets (demo gu) cur0 gu Op.sysw (fw 0 0x7F 96) :=
  ⟨⟨by decide, by decide⟩, by decide, meets_of (by decide), meets_of (by decide), meets_of (by decide), meets_of (by decide),
   meets_of (by decide), meets_of (by decide), meets_of (by decide), meets_of (by decide)⟩

/-! ### Witnesses: scalar and system words -/

/-- A group with scalar registers. -/
def gs (xs : SMap Word) : Group := { g0 with s := xs }

theorem wit_ScalarResults : Met Op.sdivu (fun _ c g f => (g.begun (c.env g Op.sdivu f)).sB c.sel f ≠ 0) ∧
    Met Op.sremu (fun _ c g f => (g.begun (c.env g Op.sremu f)).sB c.sel f ≠ 0) ∧
    Met Op.sdivu (fun _ c g f => (g.begun (c.env g Op.sdivu f)).sB c.sel f = 0 ∧ Enters g 0x10) ∧
    Met Op.sremu (fun _ c g f => (g.begun (c.env g Op.sremu f)).sB c.sel f = 0 ∧ Enters g 0x10) :=
  ⟨met (demo (gs [(1, 5)])) (gs [(1, 5)]) (fw 96 97 97) (by decide) (by decide),
   met (demo (gs [(1, 5)])) (gs [(1, 5)]) (fw 96 97 97) (by decide) (by decide),
   met (demo (gs [(1, 5)])) (gs [(1, 5)]) (fw 123 97 98) (by decide) ⟨by decide, by decide, by decide⟩,
   met (demo (gs [(1, 5)])) (gs [(1, 5)]) (fw 127 97 98) (by decide) ⟨by decide, by decide, by decide⟩⟩

theorem wit_ModeAndHome : Met Op.homeq (fun _ _ _ f => f.d = 96) ∧ Met Op.homeq (fun _ _ _ f => f.d = 95) ∧
    (0x7FFFFFFFFFFFF : VA).toNat / 2 ^ 48 = 7 ∧ (0x8000000000000 : VA).toNat / 2 ^ 48 = 8 ∧
    (0xBFFFFFFFFFFFF : VA).toNat / 2 ^ 48 = 11 ∧ (0xC000000000000 : VA).toNat / 2 ^ 48 = 12 ∧
    (0xEFFFFFFFFFFFF : VA).toNat / 2 ^ 48 = 14 :=
  ⟨met (demo g0) g0 (fw 96 0 96) (by decide) rfl, met (demo g0) g0 (fw 95 0 94) (by decide) rfl, by decide⟩

/-- Every register that SystemReads names can be read. -/
theorem wit_SystemReads : ([0x00, 0x01, 0x02, 0x03, 0x04, 0x05, 0x06, 0x07, 0x08, 0x09, 0x0A, 0x0B, 0x0C, 0x0D, 0x0E, 0x0F, 0x10, 0x11, 0x12,
      0x13, 0x14, 0x15, 0x16, 0x17, 0x18, 0x20, 0x21, 0x22, 0x23, 0x30, 0x31, 0x32, 0x33, 0x34, 0x35, 0x36, 0x37, 0x38, 0x39, 0x3A, 0x3B,
      0x40, 0x41, 0x42, 0x43, 0x44, 0x45, 0x46, 0x47, 0x48, 0x49, 0x4A, 0x4B, 0x50, 0x51, 0x52, 0x53, 0x60, 0x61, 0x62, 0x63, 0x64, 0x65,
      0x66, 0x67, 0x68, 0x69, 0x6A, 0x6B, 0x6C, 0x6D, 0x6E, 0x6F] :
      List (BitVec 7)).all (fun n => readyB (demo (gv 2 0)) cur0 (gv 2 0) Op.sysr (fw 96 n 0)) = true ∧
    (gv 2 0).ops.length ≤ 63 ∧ (gv 2 0).lvl ≤ 2 ∧ ((demo (gv 2 0)).watches (gv 2 0)).length ≤ 31 ∧
    ((demo (gv 2 0)).quarter (quarterKey (gv 2 0).coreId (gv 2 0).quarter)).limit < 256 := by decide

/-- Every register that SystemWrites names can be written. -/
theorem wit_SystemWrites : ([0x10, 0x16, 0x21, 0x22, 0x23, 0x50, 0x51, 0x52, 0x53, 0x3A, 0x4A, 0x31, 0x3B, 0x33, 0x60, 0x61, 0x62, 0x63, 0x64,
      0x65, 0x67, 0x69, 0x6A, 0x6C, 0x6E, 0x6F] : List (BitVec 7)).all (fun n =>
      readyB (demo (gv 2 0)) cur0 (gv 2 0) Op.sysw (fw 0 n 96)) = true ∧
    (gv 2 0).trap1.cause ≠ 0x0B ∧ (gv 2 0).trap1.cause ≠ 0x0C ∧ (demo g0).hasContexts = false ∧
    ({ demo g0 with contexts := (demo g0).contexts ++ [(1, (demo g0).context? 0)] }).hasContexts = true ∧
    (demo g0).mem.xiBusy = false ∧ readyB (demo g0) cur0 g0 Op.sysw (fl 0 0x65 0x200) = true ∧
    (2048#32).toNat ≤ (demo g0).channelMiB ∧
    readyB (demo (gops [opIn (.load 4 false) .ld])) cur0 (gops [opIn (.load 4 false) .ld]) Op.sysw (fw 0 0x7F 96) = false ∧
    readyB (demo (gops [opIn (.load 4 false) .ld])) cur0 (gops [opIn (.load 4 false) .ld]) Op.sysw (fw 0 0x60 96) = true ∧
    (gops [opIn (.load 4 false) .ld]).ops.any (fun o => !o.done) = true := by decide

/-- A group of which lane 0 is held, so that EXIT leaves it behind. -/
def gheld : Group := { g0 with hc := [(0, 1)] }

theorem wit_ExitLeaves : Met Op.exit (fun s c g f => s.watches g = [] ∧ g.dead = false ∧
      ((g.begun (c.env g Op.exit f)).slotOf c.sel).owned &&& ~~~(g.en0 c.sel) ≠ 0 ∧ g.undone = []) ∧
    Met Op.exit (fun s c g _ => s.watches g = [] ∧ g.dead = false ∧ g.undone = [] ∧ g.live &&& ~~~(g.en0 c.sel) = 0) ∧
    Met Op.exit (fun s _ g _ => s.watches g = [] ∧ g.dead = false ∧ g.undone ≠ [] ∧ g.headOp = none) :=
  ⟨met (demo gheld) gheld (fw 0 0 0) (by decide) (by decide), met (demo g0) g0 (fw 0 0 0) (by decide) (by decide),
   met (demo (gops [opIn (.store 4) .st])) (gops [opIn (.store 4) .st]) (fw 0 0 0) (by decide) (by decide)⟩

theorem wit_WaitsAndFence : Met Op.wait (fun _ c g f => let g := g.begun (c.env g Op.wait f)
      g.cnt .ld ≤ f.lit.toNat % 64 ∧ g.cnt .st ≤ f.lit.toNat / 2 ^ 8 % 64 ∧ g.cnt .cp ≤ f.lit.toNat / 2 ^ 16 % 64 ∧
      g.cnt .xt ≤ f.lit.toNat / 2 ^ 24 % 64 ∧ g.cnt .ld = 1) ∧
    Met Op.wait (fun _ _ g f => f.lit.toNat % 64 < g.cnt .ld) ∧
    (∀ x ∈ [(CntClass.st, (1 : BitVec 7)), (.cp, 2), (.xt, 3)], Met Op.wait (fun _ _ g _ => g.cnt x.1 = 1 ∧ g.cnt .ld = 0) ∧
      Met Op.waitx (fun _ c g f => f.a = x.2 ∧ min 63 (g.sField c.sel f.b).toNat < g.cnt x.1)) ∧
    Met Op.waitx (fun _ c g f => f.a = 0 ∧ min 63 (g.sField c.sel f.b).toNat < g.cnt .ld) ∧
    (∀ k ∈ ([0, 1, 2, 3] : List (BitVec 7)), Met Op.waitx (fun _ c g f => f.a = k ∧ (g.begun (c.env g Op.waitx f)).sField c.sel f.b = 0)) ∧
    Met Op.yield (fun _ _ _ _ => True) ∧
    Met Op.fence (fun s _ g f => s.watches g = [] ∧ g.undone.any (fun o => !f.x || o.kind.isLoad) = false ∧ f.x = true ∧ g.undone ≠ []) ∧
    Met Op.fence (fun s _ g f => s.watches g = [] ∧ g.undone.any (fun o => !f.x || o.kind.isLoad) = false ∧ f.x = false) := by
  refine ⟨met (demo (gops [opIn (.load 4 false) .ld])) (gops [opIn (.load 4 false) .ld]) (fl 0 0 1) (by decide) (by decide),
   met (demo (gops [opIn (.load 4 false) .ld])) (gops [opIn (.load 4 false) .ld]) (fl 0 0 0) (by decide) (by decide), ?_,
   met (demo (gops [opIn (.load 4 false) .ld])) (gops [opIn (.load 4 false) .ld]) (fw 0 0 96) (by decide) (by decide), ?_,
   met (demo g0) g0 (fw 0 0 0) (by decide) trivial,
   met (demo (gops [opIn (.store 4) .st])) (gops [opIn (.store 4) .st]) (ff false false 0 0 0 true 0) (by decide) (by decide),
   met (demo g0) g0 (fw 0 0 0) (by decide) (by decide)⟩
  · intro x hx
    fin_cases hx
    · exact ⟨met (demo (gops [opIn (.store 4) .st])) (gops [opIn (.store 4) .st]) (fl 0 0 0) (by decide) (by decide),
        met (demo (gops [opIn (.store 4) .st])) (gops [opIn (.store 4) .st]) (fw 0 1 96) (by decide) (by decide)⟩
    · exact ⟨met (demo (gops [opIn (.store 4) .cp])) (gops [opIn (.store 4) .cp]) (fl 0 0 0) (by decide) (by decide),
        met (demo (gops [opIn (.store 4) .cp])) (gops [opIn (.store 4) .cp]) (fw 0 2 96) (by decide) (by decide)⟩
    · exact ⟨met (demo (gops [opIn (.store 4) .xt])) (gops [opIn (.store 4) .xt]) (fl 0 0 0) (by decide) (by decide),
        met (demo (gops [opIn (.store 4) .xt])) (gops [opIn (.store 4) .xt]) (fw 0 3 96) (by decide) (by decide)⟩
  intro k hk
  have : ([0, 1, 2, 3] : List (BitVec 7)).all (fun k => readyB (demo g0) cur0 g0 Op.waitx (fw 0 k 96) && !g0.troute.getLsbD 16) = true := by
    decide
  exact met (demo g0) g0 (fw 0 k 96) (List.all_eq_true.1 this k hk) ⟨rfl, rfl⟩

/-- A privileged group of context 1. -/
def gp : Group := { g0 with ctx := 1 }

/-- The state with a die's queues. -/
def demoQ (g : Group) (hw cues : List (List Byte)) : State :=
  { demo g with dies := [(0, { DieState.reset with hw := hw, cues := cues })] }

/-- A group that waits at a RECV until a clock. -/
def grecv (d : Nat) : Group :=
  { g0 with slotA := { g0.slotA with kept := { SlotKept.none with recv := some { pc := placedPc, until_ := some d } } } }

theorem wit_DirectorWords :
    Met Op.launch (fun _ _ g _ => g.ctx ≠ 0 ∧ Enters g 0x1D) ∧ Met Op.launch (fun _ _ g _ => g.ctx = 0) ∧
    Met Op.recv (fun _ _ g _ => g.gwc ≤ 2 ∧ g.ctx ≠ 0 ∧ Enters g 0x1E) ∧
    Met Op.recv (fun s _ g _ => g.gwc ≤ 2 ∧ g.ctx = 0 ∧ (s.die g.die).hw = [[1], [2]]) ∧
    Met Op.recv (fun s _ g _ => g.gwc ≤ 2 ∧ g.ctx = 0 ∧ (s.die g.die).hw = [] ∧ (s.die g.die).cues = [[1], [2]]) ∧
    Met Op.recv (fun s c g f => g.gwc ≤ 2 ∧ g.ctx = 0 ∧ (s.die g.die).hw = [] ∧ (s.die g.die).cues = [] ∧ g.waiting c.sel = none ∧
      (g.begun (c.env g Op.recv f)).sB c.sel f = 0) ∧
    Met Op.recv (fun s c g f => g.gwc ≤ 2 ∧ g.ctx = 0 ∧ (s.die g.die).hw = [] ∧ (s.die g.die).cues = [] ∧ g.waiting c.sel = none ∧
      (g.begun (c.env g Op.recv f)).sB c.sel f = 0xFFFFFFFF#32) ∧
    Met Op.recv (fun s c g f => g.gwc ≤ 2 ∧ g.ctx = 0 ∧ (s.die g.die).hw = [] ∧ (s.die g.die).cues = [] ∧ g.waiting c.sel = none ∧
      ((g.begun (c.env g Op.recv f)).sB c.sel f).toNat = 0xFFFFFFFE) ∧
    (∀ d ∈ [0, 1], Met Op.recv (fun s c g _ => g.gwc ≤ 2 ∧ g.ctx = 0 ∧ (s.die g.die).hw = [] ∧ (s.die g.die).cues = [] ∧ s.clk = 0 ∧
      g.waiting c.sel = some { pc := (g.slotOf c.sel).pc, until_ := some d })) :=
  ⟨met (demo gp) gp (fw 96 0 96) (by decide) ⟨by decide, by decide, by decide⟩, met (demo g0) g0 (fw 122 0 96) (by decide) (by decide),
   met (demo gp) gp (fw 0 0 96) (by decide) ⟨by decide, by decide, by decide, by decide⟩,
   met (demoQ g0 [[1], [2]] [[3]]) g0 (fw 0 0 96) (by decide) (by decide),
   met (demoQ g0 [] [[1], [2]]) g0 (fw 95 0 96) (by decide) (by decide),
   met (demo g0) g0 (fw 0 0 96) (by decide) (by decide), met (demo g0) g0 (fl 0 0 0xFFFFFFFF) (by decide) (by decide),
   met (demo g0) g0 (fl 0 0 0xFFFFFFFE) (by decide) (by decide), fun d h => by
    fin_cases h
    · exact met (demo (grecv 0)) (grecv 0) (fw 0 0 96) (by decide) (by decide)
    · exact met (demo (grecv 1)) (grecv 1) (fw 0 0 96) (by decide) (by decide)⟩

/-- A group whose v0 holds, in lane 1, the kind of an event to send. -/
def gsend (kind : Word) : Group := { g0 with v := [(1, kind)] }

theorem wit_DirectorWords_send :
    (∀ k ∈ [0x02, 0x0A, 0x40, 0x7F], ((gsend (BitVec.ofNat 32 k)).vRead 0 1).toNat % 256 = k) ∧
    ((gsend 0x0B).vRead 0 1).toNat % 256 = 0x0B ∧ ((gsend 0x80).vRead 0 1).toNat % 256 = 0x80 ∧
    Met Op.send (fun s _ g _ => s.watches g = [] ∧ g.ctx = 0 ∧ g.undone = [] ∧ s.host.hold.length < 1024 ∧ s.host.waitEvts = []) ∧
    Met Op.send (fun s _ g _ => s.watches g = [] ∧ g.ctx ≠ 0 ∧ Enters g 0x1E) :=
  ⟨by decide, by decide, by decide, met (demo (gsend 2)) (gsend 2) (fw 96 0 0) (by decide) (by decide),
   met (demo gp) gp (fw 96 0 0) (by decide) ⟨by decide, by decide, by decide, by decide⟩⟩

theorem wit_DirectorWords_banks :
    Met Op.bankcfg (fun _ c g f => let b := g.begun (c.env g Op.bankcfg f)
      (List.range 64).filter (fun n => (b.spField c.sel f.a).getLsbD n) = [] ∧ Enters g 0x1F) ∧
    Met Op.bankcfg (fun _ c g f => ((g.begun (c.env g Op.bankcfg f)).sB c.sel f).toNat / 16 % 4 = 3 ∧ Enters g 0x1F) ∧
    Met Op.bankcfg (fun s c g f => let b := g.begun (c.env g Op.bankcfg f)
      (b.sB c.sel f).toNat = 0x11 ∧ (List.range 64).filter (fun n => (b.spField c.sel f.a).getLsbD n) = [0, 63] ∧
      ∀ n ∈ [0, 63], (s.bank (bankKey g.pairId n)).clm = none) :=
  ⟨met (demo g0) g0 (fw 0 96 96) (by decide) ⟨by decide, by decide, by decide⟩,
   met (demo (gs [(0, 1)])) (gs [(0, 1)]) (fl 0 96 0x30) (by decide) ⟨by decide, by decide, by decide⟩,
   met (demo (gs [(0, 1), (1, 0x80000000)])) (gs [(0, 1), (1, 0x80000000)]) (fl 0 96 0x11) (by decide) (by decide)⟩

/-! ### Witnesses: control -/

theorem wit_Branches : Met Op.bra (fun _ _ _ _ => True) ∧ Met Op.brz (fun _ c g f => (g.begun (c.env g Op.brz f)).sField c.sel f.a = 0) ∧
    Met Op.brnz (fun _ c g f => (g.begun (c.env g Op.brnz f)).sField c.sel f.a ≠ 0) ∧ Met Op.call (fun _ _ _ _ => True) ∧
    Met Op.ret (fun _ _ _ _ => True) ∧ Met Op.jmpr (fun _ _ _ _ => True) :=
  ⟨met (demo g0) g0 (fl 0 0 0x80000000) (by decide) trivial, met (demo g0) g0 (fl 0 96 5) (by decide) (by decide),
   met (demo (gs [(0, 1)])) (gs [(0, 1)]) (fl 0 96 5) (by decide) (by decide), met (demo g0) g0 (fl 122 0 5) (by decide) trivial,
   met (demo g0) g0 (fw 0 96 0) (by decide) trivial, met (demo g0) g0 (fw 0 96 0) (by decide) trivial⟩

/-- A group whose lane 0 has a hold count. -/
def gh (n : Nat) : Group := { g0 with hc := if n = 0 then [] else [(0, n)] }

/-- The lanes that stand at 126. -/
def atTop (b : Group) : Mask := maskOf (fun l => lane b.slotA.enable l && decide (126 ≤ hold b l))

theorem wit_StructuredControl :
    (∀ op ∈ [Op.condIf, Op.loop], Met op (fun _ c g f => let b := g.begun (c.env g op f)
      hold b 0 = 125 ∧ ∀ l, lane (b.slotOf c.sel).enable l = true → hold b l < 126)) ∧
    (∀ op ∈ [Op.condIf, Op.loop], Met op (fun _ c g f => atTop (g.begun (c.env g op f)) = 1 ∧ Enters g 7)) ∧
    Met Op.condElse (fun _ _ _ _ => True) ∧ Met Op.condEndif (fun _ _ _ _ => True) ∧ Met Op.brk (fun _ _ _ f => f.d.toNat = 62) ∧
    Met Op.cont (fun _ _ _ f => f.d.toNat = 62) ∧
    Met Op.endl (fun _ c g f => let b := g.begun (c.env g Op.endl f)
      lane (b.slotOf c.sel).enable 1 = true ∧ hold b 1 = 0) ∧
    Met Op.endl (fun _ c g f => (g.begun (c.env g Op.endl f)).en0 c.sel = 0) := by
  have room : ∀ l, hold (gh 125) l < 126 := by
    intro l
    by_cases h : l = 0
    · subst h; decide
    · have : hold (gh 125) l = 0 := by simp [hold, gh, SMap.get, h]
      omega
  refine ⟨?_, ?_, met (demo g0) g0 (fw 0 0 0) (by decide) trivial, met (demo g0) g0 (fw 0 0 0) (by decide) trivial,
    met (demo g0) g0 (fw 62 7 0) (by decide) (by decide), met (demo g0) g0 (fw 62 7 0) (by decide) (by decide),
    met (demo g0) g0 (fl 0 0 5) (by decide) (by decide), ?_⟩
  · intro op h
    fin_cases h
    · exact met (demo (gh 125)) (gh 125) (fw 0 7 0) (by decide) ⟨by decide, fun l _ => room l⟩
    · exact met (demo (gh 125)) (gh 125) (fw 0 0 0) (by decide) ⟨by decide, fun l _ => room l⟩
  · intro op h
    fin_cases h
    · exact met (demo (gh 126)) (gh 126) (fw 0 7 0) (by decide) ⟨by decide, by decide, by decide⟩
    · exact met (demo (gh 126)) (gh 126) (fw 0 0 0) (by decide) ⟨by decide, by decide, by decide⟩
  · let g : Group := { gh 1 with slotA := { g0.slotA with enable := 1 } }
    exact met (demo g) g (fl 0 0 5) (by decide) (by decide)

/-- A group with two slots, a predicate 1 and a split stack. -/
def g2 (p : Mask) (a b : PcSlot) (stack : List StackEntry) : Group :=
  { g0 with p := [(1, p)], slotA := a, slotB := b, stack := stack }

/-- A slot at an address with lanes. -/
def sl (pc : VA) (m : Mask) (st : SlotStatus) : PcSlot :=
  { pc := pc
    owned := m
    enable := m
    status := st
    back := 0
    sib := 0 }

/-- An entry of the split stack. -/
def se (m : Mask) : StackEntry := { pc := placedPc, owned := m, enable := m }

theorem wit_Split :
    Met Op.split (fun _ c g f => g.en0 c.sel &&& g.pRead f.a.toNat = 0) ∧
    Met Op.split (fun _ c g f => let m := g.en0 c.sel &&& g.pRead f.a.toNat; m ≠ 0 ∧ m = (g.slotOf c.sel).owned) ∧
    Met Op.split (fun _ c g f => let m := g.en0 c.sel &&& g.pRead f.a.toNat
      m ≠ 0 ∧ m ≠ (g.slotOf c.sel).owned ∧ (g.slotOf (otherSel c.sel)).status = .empty) ∧
    Met Op.split (fun _ c g f => let m := g.en0 c.sel &&& g.pRead f.a.toNat
      m ≠ 0 ∧ m ≠ (g.slotOf c.sel).owned ∧ (g.slotOf (otherSel c.sel)).status ≠ .empty ∧ g.stack.length = 63) ∧
    Met Op.split (fun _ c g f => let m := g.en0 c.sel &&& g.pRead f.a.toNat
      m ≠ 0 ∧ m ≠ (g.slotOf c.sel).owned ∧ (g.slotOf (otherSel c.sel)).status ≠ .empty ∧ g.stack.length = 64 ∧ Enters g 6) := by
  let a := sl placedPc 0xFF .ready
  let b := sl 0x8000000000100 0xFF00 .ready
  let x0 := g2 0xFF00 a .none []
  let x1 := g2 0xFFFF a .none []
  let x2 := g2 0x0F a .none []
  let x3 := g2 0x0F a b (List.replicate 63 (se 0x10000))
  let x4 := g2 0x0F a b (List.replicate 64 (se 0x10000))
  exact ⟨met (demo x0) x0 (fl 0 1 5) (by decide) (by decide), met (demo x1) x1 (fl 0 1 5) (by decide) (by decide),
    met (demo x2) x2 (fl 0 1 5) (by decide) (by decide), met (demo x3) x3 (fl 0 1 5) (by decide) (by decide),
    met (demo x4) x4 (fl 0 1 5) (by decide) ⟨by decide, by decide, by decide, by decide, by decide, by decide⟩⟩

theorem wit_Join :
    Met Op.join (fun _ c g _ => (g.slotOf (otherSel c.sel)).status = .empty) ∧
    Met Op.join (fun _ c g _ => let o := g.slotOf (otherSel c.sel)
      o.status = .joining ∧ o.pc = (g.slotOf c.sel).pc ∧ g.stack.length ≤ g.mark) ∧
    Met Op.join (fun _ c g _ => let o := g.slotOf (otherSel c.sel)
      o.status = .joining ∧ o.pc = (g.slotOf c.sel).pc ∧ g.stack = [se 0x10000] ∧ g.mark < g.stack.length) ∧
    Met Op.join (fun _ c g _ => let o := g.slotOf (otherSel c.sel); o.status = .joining ∧ (g.slotOf c.sel).pc.toNat + 4 = o.pc.toNat) ∧
    Met Op.join (fun _ c g _ => let o := g.slotOf (otherSel c.sel); o.status = .joining ∧ o.pc.toNat + 4 = (g.slotOf c.sel).pc.toNat) ∧
    Met Op.join (fun _ c g _ => (g.slotOf (otherSel c.sel)).status = .ready) ∧
    Met Op.join (fun _ c g _ => (g.slotOf (otherSel c.sel)).status = .demoted) := by
  let a := sl placedPc 0xFF .ready
  let b := fun (pc : VA) (st : SlotStatus) => sl pc 0xFF00 st
  let x0 := g2 0 a .none []
  let x1 := g2 0 a (b placedPc .joining) []
  let x2 := g2 0 a (b placedPc .joining) [se 0x10000]
  let x3 := g2 0 a (b (placedPc + 4) .joining) []
  let x4 := g2 0 a (b (placedPc - 4) .joining) []
  let x5 := g2 0 a (b placedPc .ready) []
  let x6 := g2 0 a (b placedPc .demoted) []
  exact ⟨met (demo x0) x0 (fw 0 0 0) (by decide) (by decide), met (demo x1) x1 (fw 0 0 0) (by decide) (by decide),
    met (demo x2) x2 (fw 0 0 0) (by decide) (by decide), met (demo x3) x3 (fw 0 0 0) (by decide) (by decide),
    met (demo x4) x4 (fw 0 0 0) (by decide) (by decide), met (demo x5) x5 (fw 0 0 0) (by decide) (by decide),
    met (demo x6) x6 (fw 0 0 0) (by decide) (by decide)⟩

/-! ### Witnesses: barriers, watches, maintenance -/

/-- A team of one group, whose FIFO 0 has a bank and holds some entries. -/
def team1 (ph : BitVec 16) (ring : List Line) : Team :=
  { lid := 0
    index := 0
    die := 0
    core := 0
    paired := false
    ctx := 0
    scrb := 16384
    groups := [0]
    ended := []
    scratch := [0]
    fifoBk := [(0, [1]), (15, [2])]
    fifos := if ring = [] then [] else [(0, ring)]
    ph := ph
    arrived := []
    losses := 0 }

/-- The state with the group's team and its page. -/
def demoT (g : Group) (t : Team) : State :=
  ({ demo g with teams := [(0, some t)], launches := [(0, some (Launch.fresh
      { entry := 0, tdim := (1, 1, 1), gwc := 0, ngrp := 1, nvr := 96, ntile := 8, scrb := 16384, fifon := 0, prio := 0, pair := false,
        dep := false, ctx := 0, depva := 0, depval := 0, cmpva := 0, argp := 0 } 0 0 0))] }).cacheLeaf 0 placedPc placedLeaf

/-- A group that waits at a BARAW. -/
def gbar (k : Nat) (phase : Bool) : Group := 
  { g0 with slotA := { g0.slotA with kept := { SlotKept.none with bar := some { pc := placedPc, k := k, phase := phase } } } }

theorem wit_Barriers :
    (∀ k ∈ ([0, 15] : List (BitVec 7)), Met Op.bara (fun s _ g f => f.a = k ∧ s.watches g = [] ∧ s.hasArrived g k.toNat = false ∧
      g.undone = [] ∧ (s.team? g.teamId).isSome = true ∧ ∀ tm, s.team? g.teamId = some tm → (tm.arrive k.toNat g.gidx).complete k.toNat = true)) ∧
    Met Op.barw (fun s c g f => s.phase g f.a.toNat ≠ ((g.begun (c.env g Op.barw f)).sField c.sel f.b).getLsbD 0) ∧
    Met Op.barw (fun s c g f => s.phase g f.a.toNat = ((g.begun (c.env g Op.barw f)).sField c.sel f.b).getLsbD 0) ∧
    Met Op.baraw (fun s c g f => ∃ w, (g.slotOf c.sel).kept.bar = some w ∧ w.pc = (g.slotOf c.sel).pc ∧
      w.k = f.a.toNat ∧ s.phase g f.a.toNat ≠ w.phase) ∧
    Met Op.baraw (fun s c g f => ∃ w, (g.slotOf c.sel).kept.bar = some w ∧ w.pc = (g.slotOf c.sel).pc ∧
      w.k = f.a.toNat ∧ s.phase g f.a.toNat = w.phase) ∧
    Met Op.baraw (fun s c g f => (g.slotOf c.sel).kept.bar = none ∧ s.watches g = [] ∧
      s.hasArrived g f.a.toNat = false) := by
  have hteam : (demoT g0 (team1 0 [])).team? g0.teamId = some (team1 0 []) := by decide
  refine ⟨?_, met (demoT g0 (team1 0x8000 [])) g0 (fw 0 15 96) (by decide) (by decide),
    met (demoT g0 (team1 0 [])) g0 (fw 0 15 96) (by decide) (by decide),
    met (demoT (gbar 15 true) (team1 0 [])) (gbar 15 true) (fw 0 15 0) (by decide)
      ⟨{ pc := placedPc, k := 15, phase := true }, by decide, by decide, by decide, by decide⟩,
    met (demoT (gbar 15 false) (team1 0 [])) (gbar 15 false) (fw 0 15 0) (by decide)
      ⟨{ pc := placedPc, k := 15, phase := false }, by decide, by decide, by decide, by decide⟩,
    met (demoT g0 (team1 0 [])) g0 (fw 0 0 0) (by decide) (by decide)⟩
  intro k hk
  fin_cases hk
  · exact met (demoT g0 (team1 0 [])) g0 (fw 96 0 0) (by decide)
      ⟨by decide, by decide, by decide, by decide, by decide, fun tm h => by rw [hteam] at h; cases h; decide⟩
  · exact met (demoT g0 (team1 0 [])) g0 (fw 96 15 0) (by decide)
      ⟨by decide, by decide, by decide, by decide, by decide, fun tm h => by rw [hteam] at h; cases h; decide⟩

/-- The state with watch entries of the group. -/
def demoW (g : Group) (st : WatchState) : State :=
  { demo g with cores := [(0, { Core.reset with
      active := some 0
      uwt := [{ gid := 0, op := 0, level := 0, ctx := 0, line := 0, wts := 0, state := st }] })] }

theorem wit_Watches : Met Op.wclr (fun s _ g _ => s.watches g ≠ []) ∧
    Met Op.chkw (fun s _ g _ => (∀ w ∈ s.watches g, w.state ≠ .pending) ∧ (s.watches g).any (fun w => w.state == .struck) = true) ∧
    Met Op.chkw (fun s _ g _ => (∀ w ∈ s.watches g, w.state ≠ .pending) ∧ (s.watches g).any (fun w => w.state == .struck) = false) ∧
    Met Op.chkw (fun s _ g _ => (∀ w ∈ s.watches g, w.state ≠ .pending) ∧ s.watches g = [] ∧ g.ops ≠ []) ∧
    Met Op.chkw (fun s _ g _ => ∃ w ∈ s.watches g, w.state = .pending) :=
  ⟨met (demoW g0 .pending) g0 (fw 0 0 0) (by decide) (by decide), met (demoW g0 .struck) g0 (fl 0 0 5) (by decide) (by decide),
   met (demoW g0 .confirmed) g0 (fl 0 0 5) (by decide) (by decide),
   met (demo (gops [opIn (.load 4 true) .ld])) (gops [opIn (.load 4 true) .ld]) (fl 0 0 5) (by decide) (by decide),
   met (demoW g0 .pending) g0 (fl 0 0 5) (by decide) (by decide)⟩

theorem wit_Maintenance : (∀ op ∈ [Op.clnr, Op.invr, Op.flsr], Met op (fun _ _ g _ => g.cnt .st < 63)) ∧
    Met Op.pref (fun s c g f => let b := g.begun (c.env g Op.pref f)
      ((s.setGroup c.gid b).hintLeaf b ((b.spField c.sel f.a + (b.sB c.sel f).signExtend 64).setWidth 52)).isNone = true) ∧
    Met Op.resid (fun _ c g f => (g.begun (c.env g Op.resid f)).sB c.sel f = 0) ∧
    Met Op.resid (fun _ c g f => 8192 * 128 < ((g.begun (c.env g Op.resid f)).sB c.sel f).toNat) := by
  refine ⟨?_, met (demo g0) g0 (fw 0 96 96) (by decide) (by decide), met (demo g0) g0 (fw 0 96 96) (by decide) (by decide),
    met (demo g0) g0 (fl 0 96 0x100001) (by decide) (by decide)⟩
  intro op h
  fin_cases h
  · exact met (demo g0) g0 (fw 0 96 96) (by decide) (by decide)
  · exact met (demo g0) g0 (fw 0 96 96) (by decide) (by decide)
  · exact met (demo g0) g0 (fw 0 96 96) (by decide) (by decide)

/-- A maintenance of the line at address 0, and that line in the die's slice, software managed, byte 5 dirty with 9. -/
def gmaint (fn : MaintFn) : Group := gops [opIn (.maintain fn 0 128) .st]

/-- The line's copy. -/
def swmLine : L2Line :=
  { st := .e
    wts := 0
    rts := 0
    attr := { leafAttr placedLeaf with swm := true }
    loc := 0
    dirty := 0x20
    data := 9 * 2 ^ 40
    touched := 0 }

/-- The state with it. -/
def demoM (fn : MaintFn) : State := { demo (gmaint fn) with l2 := [(l2Key 0 0 0, some swmLine)] }

theorem wit_Maintenance_performed : ∀ fn ∈ [MaintFn.clean, .invalidate, .flush],
    SMap.sorted (demoM fn).l2 = true ∧ (demoM fn).l2At (l2Key 0 0 0) = some swmLine ∧
    Covered (gmaint fn) 0 128 (l2Key 0 0 0) swmLine ∧ isAperture (l2KeyLine (l2Key 0 0 0)) = false ∧
    ((demoM fn).slice (l2KeySlice (l2Key 0 0 0))).sweep = false ∧ (demoM fn).mem.xiNow = none := by
  intro fn h
  fin_cases h <;> exact ⟨by decide, by decide, ⟨by decide, by decide, by decide, by decide, by decide, by decide⟩, by decide, by decide, by decide⟩

/-! ### Witnesses: vector and tile words -/

theorem wit_VectorMoves : Met Op.vmov (fun _ _ _ f => f.b = 96) ∧ Met Op.vmov (fun _ _ _ f => f.b = 95) ∧ Met Op.vsel (fun _ _ _ _ => True) :=
  ⟨met (demo g0) g0 (fw 0 0 96) (by decide) rfl, met (demo g0) g0 (fw 0 0 95) (by decide) rfl,
   met (demo g0) g0 (fw 0 0 0) (by decide) trivial⟩

theorem wit_PredicatesAndHandlers : Met Op.vpand (fun _ _ _ f => f.d = 0) ∧ Met Op.ballot (fun _ _ _ _ => True) ∧
    Met Op.vmovi (fun _ c g f => ((g.begun (c.env g Op.vmovi f)).sField c.sel f.d).toNat + 1 = g.nvr) ∧
    Met Op.vmovi (fun _ c g f => ((g.begun (c.env g Op.vmovi f)).sField c.sel f.d).toNat = g.nvr ∧ Enters g 9) :=
  ⟨met (demo g0) g0 (fw 0 7 7) (by decide) rfl, met (demo g0) g0 (fw 96 0 0) (by decide) trivial,
   met (demo (gs [(0, 95)])) (gs [(0, 95)]) (fw 96 0 0) (by decide) (by decide),
   met (demo (gs [(0, 96)])) (gs [(0, 96)]) (fw 96 0 0) (by decide) ⟨by decide, by decide, by decide⟩⟩

/-- The group with a type in `m.t` (R224) and vector registers. -/
def gty (t : Nat) (v : SMap Word) : Group := { gm (BitVec.ofNat 32 (16 * t)) with v := v }

theorem wit_TypedArithmetic : Met Op.vadd (fun _ _ g _ => g.xe = 0) ∧
    Met Op.vdiv (fun _ c g f => let b := g.begun (c.env g Op.vdiv f); g.xe = 0 ∧ (fmtOf b.ty).isSome = true) ∧
    Met Op.vdiv (fun _ c g f => let b := g.begun (c.env g Op.vdiv f)
      g.xe = 0 ∧ (fmtOf b.ty).isNone = true ∧ ∀ l, lane (b.exec c.sel) l = true → b.typedB c.sel b.ty f l ≠ 0) ∧
    Met Op.vrem (fun _ c g f => let b := g.begun (c.env g Op.vrem f)
      g.xe = 0 ∧ ∀ l, lane (b.exec c.sel) l = true → b.typedB c.sel b.ty f l ≠ 0) :=
  ⟨met (demo (gty 2 [])) (gty 2 []) (fw 0 0 0) (by decide) (by decide), met (demo (gty 2 [])) (gty 2 []) (fw 0 0 0) (by decide) (by decide),
   met (demo (gty 0 [])) (gty 0 []) (fl 0 0 7) (by decide) ⟨by decide, by decide, fun l _ => (by decide : (7 : Nat) ≠ 0)⟩,
   met (demo (gty 0 [])) (gty 0 []) (fl 0 0 7) (by decide) ⟨by decide, fun l _ => (by decide : (7 : Nat) ≠ 0)⟩⟩

theorem wit_Compares : ∀ op ∈ [Op.vceq, Op.vcne, Op.vclt, Op.vcle, Op.vcun], Met op (fun _ _ g f => g.xe = 0 ∧ f.d = 7) := by
  intro op h
  fin_cases h <;> exact met (demo (gty 2 [])) (gty 2 []) (fw 7 0 0) (by decide) (by decide)

theorem wit_SpecialFunctions : ∀ op ∈ [Op.vrcp, Op.vrsq, Op.vex2, Op.vlg2, Op.vsin, Op.vcos, Op.vsqrt, Op.vflr, Op.vceil, Op.vrnd, Op.vclass],
    Met op (fun _ _ g _ => g.xe = 0) := by
  intro op h
  fin_cases h <;> exact met (demo (gty 2 [])) (gty 2 []) (fw 0 0 0) (by decide) (by decide)

theorem wit_Conversions :
    Met Op.cvt (fun _ c g f => let b := g.begun (c.env g Op.cvt f); g.xe = 0 ∧ wide b.ty = false ∧ f.b.toNat % 4 ≠ 3) ∧
    Met Op.cvt (fun _ c g f => let b := g.begun (c.env g Op.cvt f); g.xe = 0 ∧ wide b.ty = false ∧ f.b.toNat % 4 = 3 ∧ b.exec c.sel = 0) ∧
    Met Op.cvt (fun _ c g f => let b := g.begun (c.env g Op.cvt f); g.xe = 0 ∧ wide b.ty = true ∧ f.b.toNat % 4 ≠ 3) ∧
    Met Op.vpk2 (fun _ _ g _ => g.xe = 0 ∧ wide g.ty = false) ∧ Met Op.vscl (fun _ _ g _ => g.xe = 0 ∧ wide g.ty = false) ∧
    Met Op.dot4 (fun _ _ g _ => g.xe = 0) ∧ Met Op.qblk (fun _ _ g _ => g.xe = 0) ∧
    Met Op.qblkn (fun _ c g f => g.xe = 0 ∧ ((g.begun (c.env g Op.qblkn f)).sB c.sel f).toNat / 2 ^ 9 % 32 = 31) := by
  let off : Group := { gty 2 [] with slotA := { g0.slotA with enable := 0 } }
  exact ⟨met (demo (gty 2 [])) (gty 2 []) (fw 0 0 8) (by decide) (by decide), met (demo off) off (fw 0 0 11) (by decide) (by decide),
    met (demo (gty 12 [])) (gty 12 []) (fw 0 0 8) (by decide) (by decide), met (demo (gty 4 [])) (gty 4 []) (fw 0 0 0) (by decide) (by decide),
    met (demo (gty 2 [])) (gty 2 []) (fw 0 0 0) (by decide) (by decide), met (demo (gty 8 [])) (gty 8 []) (fw 0 0 0) (by decide) (by decide),
    met (demo (gty 8 [])) (gty 8 []) (fl 4 20 0) (by decide) (by decide), met (demo (gty 8 [])) (gty 8 []) (fl 4 20 0x3E00) (by decide) (by decide)⟩

theorem wit_GroupReductions : (∀ op ∈ [Op.gred, Op.gscan], Met op (fun _ _ g f => g.xe = 0 ∧ f.a.toNat = 2)) ∧
    (∀ op ∈ [Op.gred, Op.gscan], Met op (fun _ _ g f => g.xe = 0 ∧ f.a.toNat = 3)) := by
  constructor <;> intro op h
  · fin_cases h <;> exact met (demo (gty 2 [])) (gty 2 []) (fw 0 2 0) (by decide) (by decide)
  · fin_cases h <;> exact met (demo (gty 0 [])) (gty 0 []) (fw 0 3 0) (by decide) (by decide)

/-- The group with IV enabled (R224), v0 all +∞ and v1 all −∞ in lane 0. -/
def giv : Group := { gm (BitVec.ofNat 32 (32 + 2 ^ 12)) with v := [(0, 0x7F800000), (96, 0xFF800000)] }

theorem wit_ArithmeticTraps :
    (∀ op ∈ [Op.vdiv, Op.vrem], Met op (fun _ c g f => let b := g.begun (c.env g op f)
      (fmtOf b.ty).isNone = true ∧ (∃ l, lane (b.exec c.sel) l = true ∧ b.typedB c.sel b.ty f l = 0) ∧ Enters g 0x10)) ∧
    Met Op.vadd (fun _ c g f => let b := g.begun (c.env g Op.vadd f)
      Enters g 0x11 ∧ b.xe.getLsbD 0 = true ∧ lane (b.exec c.sel) 0 = true ∧ (AOp.add.elem b.ty b.rm b.ftz b.sati
        (elem b.ty (b.typed c.sel b.ty f.a 0) 0) (elem b.ty (b.typedB c.sel b.ty f 0) 0) 0).flags.iv = true) ∧
    Met Op.vmul (fun _ _ g _ => Enters g 0x11 ∧ g.xe.getLsbD 0 = true) := by
  refine ⟨?_, met (demo giv) giv (fw 2 0 1) (by decide) ⟨⟨by decide, by decide⟩, by decide, by decide, by decide⟩,
    met (demo giv) giv (fw 2 0 1) (by decide) ⟨⟨by decide, by decide⟩, by decide⟩⟩
  intro op h
  fin_cases h <;> exact met (demo (gty 0 [])) (gty 0 []) (fl 0 0 0) (by decide) ⟨by decide, ⟨0, by decide, by decide⟩, by decide, by decide⟩

theorem wit_TileWords : ∀ r ∈ [(Op.mma, 2, fw 0 0 0), (Op.mmaz, 12, fw 0 0 0), (Op.tzero, 2, fw 7 0 0), (Op.tfrag, 2, fl 64 0 0x400),
      (Op.tfill, 2, fl 0 64 0x400), (Op.tcvt, 2, fw 0 0 0), (Op.tscl, 2, fw 0 0 96), (Op.tmaxr, 2, fw 0 1 0), (Op.texps, 4, fw 0 0 0),
      (Op.tnorm, 2, fw 0 0 0), (Op.twid, 2, fl 0 0 1)],
    Met r.1 (fun _ _ g f => f = r.2.2 ∧ g.ty = r.2.1 ∧ g.xe = 0 ∧ g.gwc ≤ 2) := by
  intro r h
  fin_cases h
  · exact met (demo (gty 2 [])) (gty 2 []) (fw 0 0 0) (by decide) (by decide)
  · exact met (demo (gty 12 [])) (gty 12 []) (fw 0 0 0) (by decide) (by decide)
  · exact met (demo (gty 2 [])) (gty 2 []) (fw 7 0 0) (by decide) (by decide)
  · exact met (demo (gty 2 [])) (gty 2 []) (fl 64 0 0x400) (by decide) (by decide)
  · exact met (demo (gty 2 [])) (gty 2 []) (fl 0 64 0x400) (by decide) (by decide)
  · exact met (demo (gty 2 [])) (gty 2 []) (fw 0 0 0) (by decide) (by decide)
  · exact met (demo (gty 2 [])) (gty 2 []) (fw 0 0 96) (by decide) (by decide)
  · exact met (demo (gty 2 [])) (gty 2 []) (fw 0 1 0) (by decide) (by decide)
  · exact met (demo (gty 4 [])) (gty 4 []) (fw 0 0 0) (by decide) (by decide)
  · exact met (demo (gty 2 [])) (gty 2 []) (fw 0 0 0) (by decide) (by decide)
  · exact met (demo (gty 2 [])) (gty 2 []) (fl 0 0 1) (by decide) (by decide)

/-- The unit of the group's quarter is at work for another group of it. -/
theorem wit_TileWords_busy : let s := { demo (gty 2 []) with quarters := [(0, { Quarter.reset with unit := some { gid := 5, regs := [] } })] }
    s.running = true ∧ s.cur = some cur0 ∧ s.group? 0 = some (gty 2 []) ∧
    (s.quarter (quarterKey (gty 2 []).coreId (gty 2 []).quarter)).unit = some { gid := 5, regs := [] } := by decide

/-- A group whose tile 0 holds complex points. -/
def gpts (s : SMap Word) : Group := { g0.setSliceTags 0 14 with s := s }

theorem wit_Butterflies :
    (∀ op ∈ [Op.tbrev, Op.tfft], Met op (fun _ c g f => g.xe = 0 ∧ g.gwc ≤ 2 ∧ ∃ pl, PlanFits c.sel f (g.begun (c.env g op f)) pl)) ∧
    Met Op.tfstg (fun _ c g f => g.xe = 0 ∧ g.gwc ≤ 2 ∧ ∃ pl, PlanFits c.sel f (g.begun (c.env g Op.tfstg f)) pl ∧
      ((g.begun (c.env g Op.tfstg f)).sField c.sel f.a).toNat + 1 = pl.stages.length) ∧
    Met Op.tfft (fun _ c g f => planOf ((g.begun (c.env g Op.tfft f)).sB c.sel f) = none ∧ Enters g 0x18) := by
  let pl : Plan := { stages := [3, 3, 3], inv := false, scale := 0 }
  have one : ∀ x : Group, x.beats = 1 → ∀ b, b < x.beats → x.sliceTag 0 b = x.sliceTag 0 0 := by
    intro x hx b hb
    have : b = 0 := by omega
    rw [this]
  refine ⟨?_, ?_, met (demo (gpts [])) (gpts []) (fw 0 0 96) (by decide) ⟨by decide, by decide, by decide⟩⟩
  · intro op h
    fin_cases h
    · exact met (demo (gpts [(0, 0x2A3)])) (gpts [(0, 0x2A3)]) (fw 0 0 96) (by decide) ⟨by decide, by decide, pl, by decide, by decide, one _ (by decide)⟩
    · exact met (demo (gpts [(0, 0x2A3)])) (gpts [(0, 0x2A3)]) (fw 0 0 96) (by decide) ⟨by decide, by decide, pl, by decide, by decide, one _ (by decide)⟩
  · exact met (demo (gpts [(0, 0x2A3), (1, 2)])) (gpts [(0, 0x2A3), (1, 2)]) (fw 0 97 96) (by decide)
      ⟨by decide, by decide, pl, ⟨by decide, by decide, one _ (by decide)⟩, by decide⟩

/-! ### Witnesses: memory words -/

/-- A group of which lane 0 executes alone, `s0:s1` at an address, with a type. -/
def gmem (t : Nat) (va : VA) : Group :=
  { gm (BitVec.ofNat 32 (16 * t)) with
    s := [(0, va.setWidth 32), (1, (va.extractLsb' 32 20).setWidth 32)]
    slotA := { g0.slotA with enable := 1 } }

/-- Its state: a team with a bank of scratch, and the page of the program. -/
def smem (g : Group) : State := demoT g (team1 0 [])

/-- The address of R393. -/
def eaOf (g : Group) (sel : PcSel) (f : Fields) (l : Nat) : VA := (g.base sel f.a l + (g.opB sel f l).signExtend 64).setWidth 52

/-- A memory word with an address that its channel translates. -/
def MemMet (op : Op) (n : Nat) (write : Bool) (leaf : DWord) (at_ : VA → VA) : Prop :=
  Met op (fun s c g f => let b := g.begun (c.env g op f)
    Claims.running c g b ≠ 0 ∧ g.cnt .ld < 63 ∧ g.cnt .st < 63 ∧ g.cnt .xt < 63 ∧ s.watches g = [] ∧
    Reaches s b (Claims.running c g b) (fun l => at_ (eaOf b c.sel f l)) n write (fun _ => leaf))

theorem lane_one {l : Nat} (h : lane (1#96) l = true) : l = 0 := by
  by_contra hl
  have : (1#96).getLsbD l = false := by
    rw [BitVec.getLsbD_one]
    simp [hl]
  simp [lane, this] at h

/-- The lowest address of scratch. -/
def lowAddr (va : VA) : VA := BitVec.ofNat 52 (14 * 2 ^ 48 + va.toNat % 2 ^ 32)

theorem memMet {op : Op} {n : Nat} {write : Bool} {leaf : DWord} {at_ : VA → VA} (g : Group) (f : Fields)
    (h : (readyB (smem g) cur0 g op f && !g.troute.getLsbD 16) = true)
    (hm : Claims.running cur0 g (g.begun (cur0.env g op f)) = 1#96)
    (hc : g.cnt .ld < 63 ∧ g.cnt .st < 63 ∧ g.cnt .xt < 63 ∧ (smem g).watches g = [])
    (hk : (smem g).accessCheck (g.begun (cur0.env g op f)) 1 (fun l => at_ (eaOf (g.begun (cur0.env g op f)) .a f l)) n write = none)
    (hl : (smem g).channelFor (g.begun (cur0.env g op f)) (g.begun (cur0.env g op f)).privileged write
      (at_ (eaOf (g.begun (cur0.env g op f)) .a f 0)) = .ok leaf) :
    MemMet op n write leaf at_ := by
  refine met (smem g) g f h ⟨by rw [hm]; decide, hc.1, hc.2.1, hc.2.2.1, hc.2.2.2, ?_⟩
  rw [hm]
  refine ⟨hk, rfl, fun l hl' => ?_⟩
  rw [lane_one hl']
  exact hl

/-- The end of the page: the last aligned place for n bytes. -/
def lastOf (n : Nat) : VA := placedPc + BitVec.ofNat 52 (65536 - n)

theorem wit_LoadsIssue : MemMet Op.ldb 1 false placedLeaf id ∧ MemMet Op.ldh 2 false placedLeaf id ∧ MemMet Op.ldw 4 false placedLeaf id ∧
    MemMet Op.ldd 8 false placedLeaf id ∧ MemMet Op.ldq 16 false placedLeaf id ∧ MemMet Op.ldsw 4 false placedLeaf id ∧
    MemMet Op.ldsd 8 false placedLeaf id ∧ MemMet Op.lduw 4 false placedLeaf id ∧ MemMet Op.ldud 8 false placedLeaf id ∧
    MemMet Op.lduq 16 false placedLeaf id ∧ MemMet Op.lldw 4 false 0 lowAddr ∧ MemMet Op.lldq 16 false 0 lowAddr :=
  ⟨memMet (gmem 0 (lastOf 1)) (fw 0 96 126) (by decide) (by decide) (by decide) (by decide) (by rfl),
   memMet (gmem 0 (lastOf 2)) (fw 0 96 126) (by decide) (by decide) (by decide) (by decide) (by rfl),
   memMet (gmem 0 (lastOf 4)) (fw 95 96 126) (by decide) (by decide) (by decide) (by decide) (by rfl),
   memMet (gmem 0 (lastOf 8)) (fw 94 96 126) (by decide) (by decide) (by decide) (by decide) (by rfl),
   memMet (gmem 0 (lastOf 16)) (fw 92 96 126) (by decide) (by decide) (by decide) (by decide) (by rfl),
   memMet (gmem 0 (lastOf 4)) (fw 123 96 126) (by decide) (by decide) (by decide) (by decide) (by rfl),
   memMet (gmem 0 (lastOf 8)) (fw 122 96 126) (by decide) (by decide) (by decide) (by decide) (by rfl),
   memMet (gmem 0 (lastOf 4)) (fw 0 96 126) (by decide) (by decide) (by decide) (by decide) (by rfl),
   memMet (gmem 0 (lastOf 8)) (fw 0 96 126) (by decide) (by decide) (by decide) (by decide) (by rfl),
   memMet (gmem 0 (lastOf 16)) (fw 0 96 126) (by decide) (by decide) (by decide) (by decide) (by rfl),
   memMet (gmem 0 16380) (fw 0 96 126) (by decide) (by decide) (by decide) (by decide) (by rfl),
   memMet (gmem 0 16368) (fw 0 96 126) (by decide) (by decide) (by decide) (by decide) (by rfl)⟩

/-- A group with an acquire outstanding. -/
def gacq : Group :=
  { gmem 0 placedPc with
    ops := [{ opIn (.atomic .add false) .ld with order := { acq := true, rel := false, sc := false } }]
    nextOp := 1 }

theorem wit_LoadsIssue_held : ∀ op ∈ [Op.lduw, Op.ldud, Op.lduq], Met op (fun s c g f => let b := g.begun (c.env g op f)
    s.watchHeld b (Claims.running c g b) (eaOf b c.sel f) = true) ∧
    Met op (fun s c g f => let b := g.begun (c.env g op f)
      s.watchHeld b (Claims.running c g b) (eaOf b c.sel f) = false ∧ g.dead = false) := by
  intro op h
  fin_cases h <;> exact ⟨met (smem gacq) gacq (fw 4 96 126) (by decide) (by decide),
    met (smem (gmem 0 placedPc)) (gmem 0 placedPc) (fw 4 96 126) (by decide) (by decide)⟩

/-- An understudy load of the lane 0. -/
def opW : MemOp := { opIn (.watchLoad 4) .ld with ptes := [(0, placedLeaf.toNat)] }

/-- Its group, with the line's copy in the slice and watch entries of another line, or with neither. -/
def demoU (copy : Bool) (n : Nat) : State :=
  let l : L2Line := { st := .s, wts := 5, rts := 9, attr := leafAttr placedLeaf, loc := 0, dirty := 0, data := 0, touched := 0 }
  { demo (gops [opW]) with
    l2 := if copy then [(l2Key 0 0 placedPc, some l)] else []
    cores := [(0, { Core.reset with
      active := some 0
      uwt := List.replicate n { gid := 0, op := 9, level := 0, ctx := 0, line := 0, wts := 0, state := .pending } })] }

theorem wit_LoadsIssue_watch : (∀ x ∈ [(true, 0), (true, 15), (true, 16), (true, 64), (false, 0)],
      (demoU x.1 x.2).group? 0 = some (gops [opW]) ∧ (gops [opW]).ops = [opW] ∧ opW.done = false ∧ (gops [opW]).dead = false ∧
      (demoU x.1 x.2).speculates 0 = false ∧ opW.lanes = (1#96) <<< 0 ∧
      (demoU x.1 x.2).localCopy 0 0 placedPc placedLeaf = (if x.1 then some (0, 5) else none) ∧
      ((demoU x.1 x.2).core 0).uwt.length = x.2 ∧
      (((demoU x.1 x.2).core 0).uwt.filter (fun w => w.gid == 0)).length = x.2 ∧
      ((demoU x.1 x.2).core 0).uwt.any (fun w => w.line == lineNo placedPc) = false) ∧
    opW.addr 0 = placedPc ∧ opW.pte 0 = placedLeaf := by decide

theorem wit_StoresIssue : MemMet Op.stb 1 true placedLeaf id ∧ MemMet Op.sth 2 true placedLeaf id ∧ MemMet Op.stw 4 true placedLeaf id ∧
    MemMet Op.std 8 true placedLeaf id ∧ MemMet Op.stq 16 true placedLeaf id ∧ MemMet Op.stsw 4 true placedLeaf id ∧
    MemMet Op.stsd 8 true placedLeaf id ∧ MemMet Op.lstw 4 true 0 lowAddr ∧ MemMet Op.lstq 16 true 0 lowAddr :=
  ⟨memMet (gmem 0 (lastOf 1)) (fw 0 96 126) (by decide) (by decide) (by decide) (by decide) (by rfl),
   memMet (gmem 0 (lastOf 2)) (fw 0 96 126) (by decide) (by decide) (by decide) (by decide) (by rfl),
   memMet (gmem 0 (lastOf 4)) (fw 95 96 126) (by decide) (by decide) (by decide) (by decide) (by rfl),
   memMet (gmem 0 (lastOf 8)) (fw 94 96 126) (by decide) (by decide) (by decide) (by decide) (by rfl),
   memMet (gmem 0 (lastOf 16)) (fw 92 96 126) (by decide) (by decide) (by decide) (by decide) (by rfl),
   memMet (gmem 0 (lastOf 4)) (fw 127 96 126) (by decide) (by decide) (by decide) (by decide) (by rfl),
   memMet (gmem 0 (lastOf 8)) (fw 126 96 126) (by decide) (by decide) (by decide) (by decide) (by rfl),
   memMet (gmem 0 16380) (fw 0 96 126) (by decide) (by decide) (by decide) (by decide) (by rfl),
   memMet (gmem 0 16368) (fw 0 96 126) (by decide) (by decide) (by decide) (by decide) (by rfl)⟩

/-- A word of a tile, from the last place for 32 rows; its row of lane l is 128 × l further. -/
theorem wit_TileAccess : ∀ r ∈ [(Op.tld, false), (Op.tst, true)],
    let g := { gmem 2 (lastOf 4096) with slotA := g0.slotA }
    let b := g.begun (cur0.env g r.1 (fw 7 96 126))
    let addr := fun l => eaOf b .a (fw 7 96 126) l + BitVec.ofNat 52 (128 * l)
    (readyB (smem g) cur0 g r.1 (fw 7 96 126) && !g.troute.getLsbD 16) = true ∧ Claims.running cur0 g b = 0xFFFFFFFF#96 ∧
    g.cnt .xt < 63 ∧ (smem g).accessCheck b 0xFFFFFFFF#96 addr 128 r.2 = none ∧
    ∀ l, l < 32 → ((smem g).channel b.ctx b.privileged r.2 (addr l)).toOption = some placedLeaf := by decide

theorem wit_AtomicsIssue : (∀ op ∈ [Op.aadd, Op.amin, Op.amax, Op.aand, Op.aor, Op.axor, Op.axch, Op.acas, Op.radd, Op.rmin, Op.rmax],
      MemMet op 4 true placedLeaf id ∧ MemMet op 8 true placedLeaf id) ∧
    (∀ op ∈ [Op.afadd, Op.rfadd], MemMet op 4 true placedLeaf id) := by
  constructor <;> intro op h
  · fin_cases h <;>
      exact ⟨memMet (gmem 0 (lastOf 4)) (fw 88 96 126) (by decide) (by decide) (by decide) (by decide) (by rfl),
        memMet (gmem 13 (lastOf 8)) (fw 88 96 126) (by decide) (by decide) (by decide) (by decide) (by rfl)⟩
  · fin_cases h <;>
      exact memMet (gmem 2 (lastOf 4)) (fw 88 96 126) (by decide) (by decide) (by decide) (by decide) (by rfl)

/-- The group of a copy from `s0:s1` to `s2:s3`, with the shape of CPY2D in `s4` to `s7`. -/
def gcpy : Group :=
  { gmem 2 placedPc with slotA := g0.slotA, s := (gmem 2 placedPc).s ++ [(2, 0x8000), (3, 0x80000), (4, 16), (5, 2), (6, 16), (7, 32)] }

theorem wit_CopiesAndFifos :
    (∀ op ∈ [Op.cpy, Op.cpya, Op.cpyr, Op.cpyar], Met op (fun s c g f => let e := c.env g op f; let b := g.begun e
      Claims.running c g b ≠ 0 ∧ s.watches g = [] ∧ (plainShape e b).check s e b = none ∧ (plainShape e b).bytes = 32768 ∧ g.cnt .cp < 63)) ∧
    Met Op.cpy2d (fun s c g f => let e := c.env g Op.cpy2d f; let b := g.begun e
      Claims.running c g b ≠ 0 ∧ (rowShape e b).check s e b = none ∧ (rowShape e b).rows = 2 ∧ g.cnt .cp < 63) ∧
    Met Op.cpy (fun _ c g f => Claims.running c g (g.begun (c.env g Op.cpy f)) = 0) ∧
    Met Op.qenq (fun s _ g f => g.undone = [] ∧ s.watches g = [] ∧ f.a = 0 ∧ s.team? g.teamId = some (team1 0 (List.replicate 127 1))) ∧
    Met Op.qdeq (fun s _ g f => g.undone = [] ∧ s.watches g = [] ∧ f.a = 0 ∧ s.team? g.teamId = some (team1 0 [1])) ∧
    Met Op.qenq (fun s _ g f => g.undone = [] ∧ s.watches g = [] ∧ f.a = 0 ∧ s.team? g.teamId = some (team1 0 (List.replicate 128 1))) ∧
    Met Op.qdeq (fun s _ g f => g.undone = [] ∧ s.watches g = [] ∧ f.a = 0 ∧ s.team? g.teamId = some (team1 0 [])) ∧
    (SMap.get [] (team1 0 []).fifoBk 0).length = 1 ∧ g0.cnt .st < 63 ∧ g0.cnt .ld < 63 := by
  let off : Group := { gcpy with m := 0x21 }
  refine ⟨?_, met (smem gcpy) gcpy (fw 98 96 100) (by decide) (by decide), met (smem off) off (fl 98 96 64) (by decide) (by decide),
    met (demoT g0 (team1 0 (List.replicate 127 1))) g0 (fw 0 0 0) (by decide) (by decide),
    met (demoT g0 (team1 0 [1])) g0 (fw 0 0 0) (by decide) (by decide),
    met (demoT g0 (team1 0 (List.replicate 128 1))) g0 (fw 0 0 0) (by decide) (by decide),
    met (demoT g0 (team1 0 [])) g0 (fw 0 0 0) (by decide) (by decide), by decide⟩
  intro op h
  fin_cases h <;> exact met (smem gcpy) gcpy (fl 98 96 32768) (by decide) (by decide)

theorem wit_WingsIssue :
    (∀ r ∈ [(Op.vapp, fw 0 96 8, WingsFn.append), (Op.vstamp, fw 100 96 0, WingsFn.stamp), (Op.vdrop, fw 0 96 0, .drop), (Op.vget, fw 0 96 40, .get),
        (Op.vconn, fw 0 96 40, .connect), (Op.vmrg, fw 0 96 40, .merge), (Op.vrwt, fw 100 96 100, .reweight),
        (Op.vret, fw 0 96 40, .retire), (Op.sight, fw 0 96 40, .sight), (Op.sighta, fw 0 96 40, .sightAny)],
      readyB (smem gcpy) cur0 gcpy r.1 r.2.1 = true ∧ Claims.running cur0 gcpy (gcpy.begun (cur0.env gcpy r.1 r.2.1)) = 0xFFFFFFFF#96 ∧
      (smem gcpy).watches gcpy = [] ∧ gcpy.cnt .xt < 63 ∧
      (smem gcpy).wingsCheck (gcpy.begun (cur0.env gcpy r.1 r.2.1)) 0xFFFFFFFF#96 (r.2.2.bases ((gcpy.begun (cur0.env gcpy r.1 r.2.1)).quad .a r.2.1.a)) = none) := by
  decide

theorem wit_MisalignedTraps : ∀ r ∈ [(Op.ldh, 2), (Op.ldw, 4), (Op.ldd, 8), (Op.ldq, 16), (Op.sth, 2), (Op.stw, 4), (Op.std, 8), (Op.stq, 16)],
    let g := gmem 0 (placedPc + 1)
    let b := g.begun (cur0.env g r.1 (fw 0 96 126))
    let bad := maskOf (fun l => lane (Claims.running cur0 g b) l && (b.ea .a (fw 0 96 126) l).toNat % r.2 != 0)
    readyB (smem g) cur0 g r.1 (fw 0 96 126) = true ∧ g.cnt .ld < 63 ∧ g.cnt .st < 63 ∧ (smem g).watches g = [] ∧ g.lvl < 2 ∧
    g.vector 0x0A ≠ 0 ∧ lane bad 0 = true := by decide

/-- The other forms: understudy loads, scratch, tiles, atomics and reductions, each with its size, its type and the address it accesses. -/
theorem wit_MisalignedTraps_forms : ∀ r ∈ [(Op.lduw, 4, 2), (Op.ldud, 8, 2), (Op.lduq, 16, 2), (Op.lldw, 4, 2), (Op.lldq, 16, 2), (Op.lstw, 4, 2),
      (Op.lstq, 16, 2), (Op.tld, 128, 2), (Op.tst, 128, 2), (Op.aadd, 4, 0), (Op.amin, 8, 13), (Op.amax, 4, 0), (Op.aand, 8, 13), (Op.aor, 4, 0),
      (Op.axor, 4, 0), (Op.axch, 8, 13), (Op.acas, 8, 13), (Op.afadd, 4, 2), (Op.radd, 8, 13), (Op.rfadd, 4, 2), (Op.rmin, 4, 0), (Op.rmax, 4, 0)],
    let g0' := gmem r.2.2 (placedPc + 2)
    let g := if r.2.1 = 128 then { g0' with slotA := { g0'.slotA with enable := g0.slotA.enable } } else g0'
    let b := g.begun (cur0.env g r.1 (fw 4 96 126))
    let bad := maskOf (fun l => lane (Claims.running cur0 g b) l && (lowAddr (b.ea .a (fw 4 96 126) l)).toNat % r.2.1 != 0)
    readyB (smem g) cur0 g r.1 (fw 4 96 126) = true ∧ g.cnt .ld < 63 ∧ g.cnt .st < 63 ∧ g.cnt .xt < 63 ∧ (smem g).watches g = [] ∧
    g.lvl < 2 ∧ g.vector 0x0A ≠ 0 ∧ lane bad 0 = true ∧
    (smem g).watchHeld b (Claims.running cur0 g b) (b.ea .a (fw 4 96 126)) = false ∧ g.undone = [] := by decide

theorem wit_MisalignedTraps_scalar : ∀ r ∈ [(Op.ldsw, 4), (Op.ldsd, 8), (Op.stsw, 4), (Op.stsd, 8)],
    let g := gmem 0 (placedPc + 1)
    let b := g.begun (cur0.env g r.1 (fw 100 96 126))
    readyB (smem g) cur0 g r.1 (fw 100 96 126) = true ∧ (b.ea .a (fw 100 96 126) 0).toNat % r.2 ≠ 0 := by decide

/-! ### Witnesses: links, fabric, start, host -/

/-- A link that carries flits, with kept flits. -/
def lk (n : Nat) (kept : List (List Byte)) : Link :=
  { Link.reset with
    up := true
    replay := kept
    credit := [(0, 512), (1, 512), (2, 512), (3, 512)]
    width := lanesOfLink n }

/-- A state with one link. -/
def linked (n : Nat) (l : Link) : State := { demo g0 with links := [(n, l)] }

/-- A message of one unit. -/
def msg1 (mtype : Byte) : List Byte := mtype :: 1 :: List.replicate 14 0

theorem wit_LinkEvents :
    (∀ n ∈ [0, 16, 0x20], Carries (linked n (lk n [])) n) ∧
    ((lk 30 []).maySend 0 [msg1 0x01] = true ∧ (lk 30 []).maySend 3 (List.replicate 15 (msg1 0x35)) = true) ∧
    FlitKind.retry ≠ .payload ∧ (lk 0 (List.replicate 511 [])).replay.length < 512 ∧
    512 ≤ (lk 0 (List.replicate 512 [])).replay.length ∧ (isDieLink 0x20 = true ∧ (demo g0).pkg.tripped = none) ∧
    (let s := { linked 16 (lk 16 []) with fab := { Fabric.reset with inForce := true } }
     isIfl 16 = true ∧ s.fab.inForce = true ∧ ∀ k ∈ iflLinks, k ≠ 16 → (s.link k).up = false) ∧
    (isLink ihl = true ∧ (lk ihl []).up = true ∧ minWidth ihl ≤ (lk ihl []).width - [0].length) ∧
    ((lk ihl []).width - (List.range 32).length < minWidth ihl) ∧ (3 ≤ ({ lk ihl [] with failed := 2 }).failed + 1) ∧
    (({ lk ihl [] with failed := 1 }).failed + 1 < 3) ∧ Link.reset.up = false ∧ (demo g0).pkg.powered = true ∧
    (demo g0).pkg.phase = .rails ∧ { lk 0 [] with askDue := true }.askDue = true ∧
    ((List.replicate 512 [5, 0]).filter (fun x => decide (0 < (flitSeq x - 0xFFFF).toInt))).length = 512 := by
  refine ⟨?_, by decide, by decide, by decide, by decide, by decide, by decide, by decide, by decide, by decide, by decide, by decide,
    by decide, by decide, by decide, by decide +kernel⟩
  have : ∀ n ∈ [0, 16, 0x20], isLink n = true ∧ ((linked n (lk n [])).link n).up = true ∧ ((linked n (lk n [])).link n).train = false := by
    decide
  exact fun n h => this n h

/-- R30: the check value of the CRC. -/
theorem test_crc : crc64 [0x31, 0x32, 0x33, 0x34, 0x35, 0x36, 0x37, 0x38, 0x39] = 0x62EC59E3F1A4F00A := by decide

/-- A flit that a link at number 0 accepts, a retry request, one too far ahead, an old one, one that is no flit. -/
theorem wit_LinkEvents_flits :
    flitGood (flitBytes 0 0xFFFF .payload 0 0 []) = true ∧ flitGood (flitBytes 0 0xFFFF .retry 0 0 []) = true ∧
    flitGood (flitBytes 1 0xFFFF .payload 0 0 []) = true ∧ flitGood (flitBytes 0xFFFF 0 .payload 0 0 []) = true := by decide +kernel

theorem wit_LinkEvents_gaps :
    (flitSeq (flitBytes 0 0xFFFF .payload 0 0 []) - Link.reset.expect).toInt = 0 ∧
    (flitSeq (flitBytes 0 0xFFFF .retry 0 0 []) - Link.reset.expect).toInt = 0 ∧
    0 < (flitSeq (flitBytes 1 0xFFFF .payload 0 0 []) - Link.reset.expect).toInt ∧
    (flitSeq (flitBytes 0xFFFF 0 .payload 0 0 []) - Link.reset.expect).toInt < 0 ∧ flitGood [] = false := by decide +kernel

/-- The device of a partition of two, whose switches in slots 0 and 1 are live. -/
def part : Fabric :=
  let c : PartCfg :=
    { PartCfg.reset with
      count := 2
      n := 2
      gen := 1
      members := 3
      homes := [(0, { ident := 1, live := true, dead := false }), (1, { ident := 2, live := true, dead := false })]
      hasHdr := true
      homeSet := 1 }
  { Fabric.reset with cfg := c, inForce := true }

/-- The state of that device, with a directory entry of line 0 in its primary slot. -/
def fabS (e : Option DirEntry) (x : Option Txn) : State :=
  let k := (part.cfg.primary 0).getD 0
  let sw : Switch := { Switch.reset with
    dir := match e with
      | some e => [((waysOf 0).headD 0, some e)]
      | none => []
    txns := match x with
      | some x => [(0, some x)]
      | none => [] }
  { demo g0 with fab := { part with switches := [(k, sw)] } }

/-- A request of this device for line 0. -/
def req0 : FabReq :=
  { g := 0
    dev := 0
    port := 0
    txn := 7 }

/-- A directory entry of line 0. -/
def ent (st : DirState) (busy : Bool) (shv : BitVec 64) : DirEntry :=
  { age := 0
    st := st
    busy := busy
    gla := 0
    own := 0
    shv := shv }

/-- A transaction of that request. -/
def txn0 (owning : Bool) (acks : BitVec 64) (owner : Option Device) (note : Bool) : Txn :=
  { req := req0
    owning := owning
    acks := acks
    selfDue := false
    restDue := false
    owner := owner
    data := none
    dirty := false
    noteDue := note
    evict := none }

/-- `Takes`, as a test. -/
def takesB (s : State) (slot : Slot) (r : FabReq) : Bool :=
  decide (s.fab.cfg.primary r.g = some slot.val) && ((s.fswitch slot.val).txnOf r.g).isNone && !s.sweeping r.g &&
  (s.fswitch slot.val).waiting.isEmpty

theorem takes_of {s : State} {slot : Slot} {r : FabReq} (h : takesB s slot r = true) : Takes s slot r := by
  simp only [takesB, Bool.and_eq_true, decide_eq_true_eq, Option.isNone_iff_eq_none, Bool.not_eq_true', List.isEmpty_iff] at h
  exact ⟨h.1.1.1, h.1.1.2, h.1.2, by intro w hw; simp [h.2] at hw⟩

/-- The primary slot of line 0. -/
def prim0 : Slot := 0

/-- An entry in the first way of its set is the one entry of its line. -/
theorem entry_of {s : State} {slot : Slot} {e : DirEntry} (hd : (s.fswitch slot.val).dir = [((waysOf e.gla).headD 0, some e)]) :
    EntryIs (s.fswitch slot.val) e.gla (some e) := by
  refine ⟨rfl, (waysOf e.gla).headD 0, by simp [waysOf, List.range_succ_eq_map], by simp [hd, SMap.get], ?_⟩
  intro j _ hj y hy
  rw [hd] at hy
  simp only [SMap.get] at hy
  split at hy
  · next h => simp_all
  · simp at hy

theorem noEntry_of {s : State} {slot : Slot} {g : LineAddr} (hd : (s.fswitch slot.val).dir = []) : EntryIs (s.fswitch slot.val) g none := by
  intro j _ y hy
  simp [hd] at hy

theorem fabS_takes (e : DirEntry) : takesB (fabS (some e) none) prim0 req0 = true := by rfl

theorem fabS_dir (e : DirEntry) (x : Option Txn) (h : e.gla = 0) :
    ((fabS (some e) x).fswitch prim0.val).dir = [((waysOf e.gla).headD 0, some e)] := by rw [h]; rfl

theorem fabS_entry (st : DirState) (busy : Bool) (v : BitVec 64) (x : Option Txn) :
    EntryIs ((fabS (some (ent st busy v)) x).fswitch prim0.val) 0 (some (ent st busy v)) :=
  entry_of (slot := prim0) (e := ent st busy v) (fabS_dir _ x rfl)

/-- The owner of line 0 is device 1, which cannot be reached (R54). -/
def fabAway (st : DirState) : State :=
  let s := fabS (some { ent st false 2 with own := 1 }) none
  { s with fab := { s.fab with away := 2 } }

theorem wit_FabricEvents_away : ∀ st ∈ [DirState.e, .o, .m], Takes (fabAway st) prim0 req0 ∧
    EntryIs ((fabAway st).fswitch prim0.val) 0 (some { ent st false 2 with own := 1 }) ∧ Owns { ent st false 2 with own := 1 } ∧
    (fabAway st).isAway 1 = true := by
  intro st hs
  refine ⟨takes_of (by rfl), entry_of (slot := prim0) (e := { ent st false 2 with own := 1 }) (by rfl), ?_, by
    simp [State.isAway, fabAway]⟩
  unfold Owns
  fin_cases hs <;> decide

/-- The ports that owe an acknowledgement: none beside the requester's own, or that of device 1. -/
theorem wit_FabricEvents_owing : (fabS none none).owing 1 [0] [0] = 0 ∧ (fabS none none).owing 3 [0] [0] = 2 ∧
    (fabS none none).isAway 0 = false := by decide

/-- Every state of the entry when a request arrives (R42). -/
theorem wit_FabricEvents_requests :
    (Takes (fabS none none) prim0 req0 ∧ EntryIs ((fabS none none).fswitch prim0.val) 0 none ∧
      ∃ k ∈ waysOf 0, SMap.get none ((fabS none none).fswitch prim0.val).dir k = none) ∧
    (∀ v ∈ ([0, 1, 2, 3] : List (BitVec 64)), Takes (fabS (some (ent .s false v)) none) prim0 req0 ∧
      EntryIs ((fabS (some (ent .s false v)) none).fswitch prim0.val) 0 (some (ent .s false v))) ∧
    (∀ st ∈ [DirState.e, .o, .m], Takes (fabS (some (ent st false 1)) none) prim0 req0 ∧
      EntryIs ((fabS (some (ent st false 1)) none).fswitch prim0.val) 0 (some (ent st false 1)) ∧ Owns (ent st false 1)) := by
  refine ⟨⟨takes_of (by rfl), noEntry_of (slot := prim0) (by rfl), 16 * setOf 0, by decide, by rfl⟩, ?_, ?_⟩
  · intro v _
    exact ⟨takes_of (fabS_takes _), fabS_entry .s false v none⟩
  · intro st hs
    refine ⟨takes_of (fabS_takes _), fabS_entry st false 1 none, ?_⟩
    unfold Owns
    fin_cases hs <;> decide

/-- `Awaits` of a switch that has one entry and one transaction. -/
theorem awaits_of {s : State} {slot : Slot} {x : Txn} {e : DirEntry}
    (h : (decide ((s.fswitch slot.val).txnOf e.gla = some x) && decide (x.req.g = e.gla) && x.evict.isNone && !x.noteDue && !x.dirty &&
      e.busy && (s.fswitch slot.val).waiting.isEmpty) = true)
    (hd : (s.fswitch slot.val).dir = [((waysOf e.gla).headD 0, some e)]) : Awaits s slot e.gla x e := by
  simp only [Bool.and_eq_true, decide_eq_true_eq, Option.isNone_iff_eq_none, Bool.not_eq_true', List.isEmpty_iff] at h
  obtain ⟨⟨⟨⟨⟨⟨h1, h2⟩, h3⟩, h4⟩, h5⟩, h6⟩, h7⟩ := h
  exact ⟨h1, h2, h3, h4, h5, entry_of hd, h6, by intro w hw; simp [h7] at hw⟩

theorem fabS_awaits (st : DirState) (v : BitVec 64) (own : Bool) (acks : BitVec 64) (owner : Option Device) :
    Awaits (fabS (some (ent st true v)) (some (txn0 own acks owner false))) prim0 0 (txn0 own acks owner false) (ent st true v) :=
  awaits_of (slot := prim0) (e := ent st true v) (by rw [show (ent st true v).gla = 0 from rfl, show ((fabS (some (ent st true v))
    (some (txn0 own acks owner false))).fswitch prim0.val).txnOf 0 = some (txn0 own acks owner false) from rfl]; simp; exact ⟨⟨⟨⟨⟨rfl, rfl⟩, rfl⟩, rfl⟩, rfl⟩, rfl⟩) (fabS_dir _ _ rfl)

/-- What a transaction may wait for: the owner, with and without a change of ownership; acknowledgements; a note. -/
theorem wit_FabricEvents_answers :
    (∀ own : Bool, Awaits (fabS (some (ent .m true 1)) (some (txn0 own 0 (some 0) false))) prim0 0 (txn0 own 0 (some 0) false) (ent .m true 1)) ∧
    (∀ a : BitVec 64, Awaits (fabS (some (ent .s true 3)) (some (txn0 true a none false))) prim0 0 (txn0 true a none false) (ent .s true 3)) ∧
    (((fabS (some (ent .m true 1)) (some (txn0 true 0 none true))).fswitch prim0.val).txnOf 0 = some (txn0 true 0 none true) ∧
      EntryIs ((fabS (some (ent .m true 1)) (some (txn0 true 0 none true))).fswitch prim0.val) 0 (some (ent .m true 1))) ∧
    ((fabS (some (ent .m true 1)) (some (txn0 true 0 none true))).fswitch prim0.val).waiting = [] ∧ (ent .m true 1).st ≠ .i ∧
    (∃ x, x.selfDue = true ∧ x.acks ≠ 0 ∧ x.owner = none ∧ x.owning = true ∧ portOf part.cfg.devno = 0 ∧
      Awaits (fabS (some (ent .s true 3)) (some x)) prim0 0 x (ent .s true 3)) ∧
    (∀ st : DirState, EntryIs ((fabS (some (ent st false 1)) none).fswitch prim0.val) 0 (some (ent st false 1)) ∧
      ((fabS (some (ent st false 1)) none).fswitch prim0.val).txnOf 0 = none) ∧
    part.cfg.live 1 = true ∧ homeDevice 0 = part.cfg.devno ∧ homeDevice 0x200000000 ≠ part.cfg.devno :=
  ⟨fun own => fabS_awaits .m 1 own 0 (some 0), fun a => fabS_awaits .s 3 true a none, ⟨by rfl, fabS_entry .m true 1 _⟩,
    by rfl, by decide, ⟨{ txn0 true 1 none false with selfDue := true }, by decide, by decide, by decide, by decide, by decide,
      awaits_of (slot := prim0) (e := ent .s true 3) (by rfl) (fabS_dir _ _ rfl)⟩, fun st => ⟨fabS_entry st false 1 none, by rfl⟩, by decide, by decide, by decide⟩

/-- This device holds line 0 in a state, or misses it. -/
def sysS (st : DirState) (miss : Option Bool) : State :=
  { demo g0 with fab := { part with lines := [(0, some { st := st, data := 1, miss := miss, waited := 0, wbWait := true })] } }

theorem wit_FabricEvents_device :
    (∀ m ∈ [none, some false, some true], ((sysS .s m).sysLine 0).miss = m) ∧ ((sysS .s (some true)).sysLine 0).st ≠ .i ∧
    (∀ st ∈ [DirState.i, .s, .e, .o, .m], ((sysS st none).sysLine 0).st = st) ∧
    (part.cfg.wasPrimary 0 0 = true ∧ (0 : LineAddr) ≤ 0) ∧
    (∀ cs ∈ [[], [(0, 0)], [(0, 0), (1, 1)]], let w : Sweep := { slot := 1, chunks := cs, awaited := 0, written := 0, started := 0, txn := 5 }
     let s := { sysS .m none with fab := { part with sweeps := [w] } }
     s.fab.sweeps.find? (fun w => w.slot == 1 && w.awaited == 0) = some w) ∧
    ((sysS .i (some true)).sysLine 0).st = .i ∧ (((sysS .m none).sysLine 0).miss = none ∧ ((sysS .m none).sysLine 0).wbWait = true) ∧
    ((sysS .m none).portDevices 0).length ≤ 1 ∧ (let s := sysS .m none
      ¬ ({ s with fab := { s.fab with cfg := { s.fab.cfg with members := 2 ^ 64 + 3 } } }.portDevices 0).length ≤ 1) ∧
    (part.inForce = true ∧ part.cfg.live 0 = true ∧ part.cfg.live 1 = true ∧ part.cfg.primary 0 = some 0) ∧
    ((0 : Nat) ∈ { part with unsent := [0] }.unsent ∧ part.away = 0 ∧ part.cfg.live 1 = true ∧ (0 : Nat) < part.cfg.n) := by decide

/-- The slot 1 of the partition has been lost: what it asks does not arrive; that of slot 0 does. Two sweeps of two lost slots await
device 0, another the device 1 only. -/
theorem wit_FabricEvents_lost :
    (let s := { sysS .m none with fab := { part with cfg := { part.cfg with homes := [(1, { ident := 2, live := true, dead := true })] } } }
     (SMap.get HomeSlot.reset s.fab.cfg.homes 1).dead = true ∧ (SMap.get HomeSlot.reset s.fab.cfg.homes 0).dead = false) ∧
    (∀ k x, (k, some x) ∈ (sysS .m none).l2 → x.dirty = 0) ∧
    (let w : Sweep := { slot := 0, chunks := [(0, 0)], awaited := 3, written := 0, started := 0, txn := 5 }
     let s := { sysS .m none with fab := { part with sweeps := [w, { w with slot := 1, awaited := 1, txn := 6 }] } }
     s.oldestSweep 0 = some w ∧ s.oldestSweep 1 = some w ∧ s.oldestSweep 2 = none ∧
     s.fab.sweeps.find? (fun w => w.slot == 0 && w.chunks.head? == some (0, 0)) = some w) ∧
    homeDevice 0x200000000 ≠ part.cfg.devno ∧
    (let a : Abroad := { slot := 1, swept := [], served := [], ended := false }
     { part with abroad := [a] }.abroad = [a] ∧ a.slot = 1) ∧
    (∀ n ∈ [1, 2], SMap.get 0 { Switch.reset with unacked := [(0, n)] }.unacked 0 = n) := by
  have h2 : (sysS .m none).l2 = [] := by rfl
  refine ⟨by decide, fun k x h => by simp [h2] at h, by decide, by decide, by decide, by decide⟩

/-- The package in a phase and a mode. -/
def pkgS (phase : BootPhase) (mode : Nat) : State :=
  let p := State.reset.pkg
  { demo g0 with pkg := { p with
      phase := phase
      mode := mode
      dieReset := false } }

/-- A link that is down, with the power on, after a start. -/
theorem wit_LinkEvents_return : let s := pkgS .running 3
    isLink 0 = true ∧ (s.link 0).up = false ∧ s.pkg.powered = true ∧ s.pkg.phase ≠ .rails ∧ s.pkg.phase ≠ .off := by decide

theorem wit_PowerAndStartEvents :
    (∀ p ∈ [BootPhase.rails, .off], (pkgS p 1).pkg.phase = .rails ∨ (pkgS p 1).pkg.phase = .off) ∧ (pkgS .off 1).pkg.tripped = none ∧
    (∀ p ∈ [BootPhase.waitGo, .readImage, .bringUp, .waitReady, .running], (pkgS p 1).pkg.phase ∉ [.rails, .off, .failed, .minimal]) ∧
    (pkgS .running 3).pkg.powered = true ∧ (pkgS .running 3).pkg.tripped = none ∧ (linked ihl (lk ihl [])).ihlUp = true ∧
    (pkgS .running 3).pkg.tripTold = false ∧
    (pkgS .waitGo 1).pkg.phase = .waitGo ∧ (pkgS .minimal 4).pkg.mode = 4 ∧ (pkgS .failed 6).pkg.mode = 6 ∧
    (pkgS .readImage 1).pkg.phase = .readImage ∧ (pkgS .readImage 1).pkg.log = [] ∧ (pkgS .bringUp 2).pkg.phase = .bringUp ∧
    (pkgS .waitReady 2).pkg.phase = .waitReady := by decide

/-- The budgets of the dies, of which one is written. -/
def budgets (w : Nat) : Nat := ((List.range 8).map (fun d => if d = 7 then w else ((pkgS .running 3).pkg.die d).lim)).sum

theorem wit_PowerAndStartEvents_values :
    (∀ w ∈ [120, 270], 120 ≤ w ∧ w ≤ 320 ∧ budgets w ≤ 2160) ∧ ¬ budgets 271 ≤ 2160 ∧
    ((List.replicate 92 (BitVec.ofNat 24 (16 * 120)))[51]?).map (fun x => (x.setWidth 16).toInt) = some 1920 ∧
    (∀ x ∈ [(7, 0), (8, 3), (8, 4)], x.1 ≤ 8 ∧ x.2 ≤ 4) ∧ 0x7F ||| ((1#8) <<< 7) = BitVec.allOnes 8 := by decide

/-- The package after a thermal trip. -/
def trippedS : State :=
  let p := (pkgS .running 3).pkg
  { demo g0 with pkg := { p with tripped := some (51, 0x780) } }

/-- A failed start, the rails in range or not. -/
def railsS (r : BitVec 20) : State :=
  let s := pkgS .failed 6
  { s with pkg := { s.pkg with rails := r } }

theorem wit_PowerAndStartEvents_rails : ∀ r : BitVec 20, (railsS r).pkg.rails = r ∧ (railsS r).pkg.mode = 6 ∧ (railsS r).pkg.tripped = none :=
  fun _ => ⟨rfl, rfl, rfl⟩

theorem wit_PowerAndStartEvents_off : let s := pkgS .off 3
    { s with pkg := { s.pkg with powered := false } }.pkg.powered = false ∧ s.pkg.stream = none := ⟨rfl, rfl⟩

/-- A checkpoint or restore is in progress when a start fails. -/
theorem wit_PowerAndStartEvents_stream :
    let s := pkgS .bringUp 2
    let x : Stream := { restore := false, href := 5, die := 0, safe := 0, size := 0, started := 0 }
    { s with pkg := { s.pkg with stream := some x } }.pkg.stream = some x ∧ s.host.hold.length + 0 < holdSize := by decide

theorem wit_PowerAndStartEvents_trip : trippedS.pkg.tripped = some (51, 0x780) ∧ trippedS.pkg.tripTold = false := by decide

/-- An event of the hold, 64 bytes. -/
def ev1 (n : Word) : List Byte := Event.bytes { kind := 0x03, src := 0, body := [] } n

/-- The host interface with a ring of 64 slots. -/
def hostS (hold store : List (List Byte)) (replay : Option Word) (ack : Word) : State :=
  let s := linked ihl (lk ihl [])
  { s with host := { s.host with
      baseLo := 0x1000
      size := 6
      ringOk := true
      hold := hold
      store := store
      replayAt := replay
      evtSent := 64
      evtAck := ack
      evtNext := 66 } }

theorem wit_HostEvents_window :
    ((0x4C : BitVec 16).toNat ∈ [0x04, 0x18, 0x1C, 0x2C, 0x34, 0x38, 0x3C, 0x4C] ∧ (0x11C : BitVec 16).toNat = 0x100 + 4 * 7 ∧
      (0x2 : BitVec 16).toNat % 4 ≠ 0 ∧ 0x3400 ≤ (0x3400 : BitVec 16).toNat ∧ 0x144 ≤ (0x144 : BitVec 16).toNat) ∧
    ((2 : Word) - 1).toInt = 1 ∧ 1 < ((3 : Word) - 1).toInt ∧
    (6 ≤ (6 : Word).toNat ∧ (16 : Word).toNat ≤ 16) ∧ (17 : Word).toNat > 16 ∧ (5 : Word).toNat < 6 ∧ (64 : Word).toNat % 64 = 0 ∧
    (demo g0).host.intr = false := by decide

/-- The power is on or off; an access waits for its turn at the window, or none; the hold has room, or none. -/
theorem wit_HostEvents_power : (demo g0).pkg.powered = true ∧ (demo g0).host.window = [] ∧
    (let s := demo g0; { s with pkg := { s.pkg with powered := false } }.pkg.powered = false) ∧
    (let s := demo g0; { s with host := { s.host with window := [.read 0 0] } }.host.window ≠ []) ∧ (trippedS.pkg.powered = true ∧ trippedS.host.window = [] ∧
      trippedS.pkg.tripped ≠ none) ∧
    (demo g0).host.hold.length < 1024 ∧ (∀ x : List Byte, 1024 ≤ (List.replicate 1024 x).length) := by
  refine ⟨rfl, rfl, rfl, by decide, by decide, by decide, fun x => by simp⟩

theorem wit_HostEvents_memory : (∀ w : Bool, ((demoT g0 (team1 0 [])).channel 0 true w placedPc).toOption = some placedLeaf) ∧
    ((demo g0).channel 0 true false 0).toOption = none := by decide

/-- A line of the placed page while a sweep of its slice runs; while another device owns the same location through its window-10 name;
with a copy in the slice that allows no write, or no read. -/
theorem wit_HostEvents_line :
    placedSweep.hostHeld placedPc placedLeaf false = true ∧ placedSweep.engineOwned (lineLoc placedSweep 0 placedPc placedLeaf) = false ∧
    (placed 32 0).hostHeld placedPc placedLeaf false = false ∧ (placed 32 0).hostHeld placedPc placedLeaf true = false ∧
    (let s := ((fabS (some { ent .m false 2 with own := 1 }) none).cacheLeaf 0 placedPc placedLeaf).cacheLeaf 0 (fabricVa 0) placedLeaf
     (s.channel 0 true true placedPc).toOption = some placedLeaf ∧ s.hostHeld placedPc placedLeaf true = false ∧
     s.engineOwned (lineLoc s 0 placedPc placedLeaf) = false ∧
     s.fabricNeed placedPc (lineLoc s 0 placedPc placedLeaf) true = some 0 ∧ s.fabricNeed placedPc (lineLoc s 0 placedPc placedLeaf) false = some 0) ∧
    permBad { leafAttr placedLeaf with ro := true } .write true = true ∧ permBad (leafAttr placedLeaf) .write true = false := by decide

theorem wit_HostEvents_replay :
    (let s := hostS [] [ev1 63, ev1 64] none 60
     ((64 : Word) - s.host.evtSent).toInt ≤ 0 ∧ (∃ x ∈ s.host.store, BitVec.ofNat 32 (field x 0 4) = (64 : Word)) ∧
     ∀ x ∈ s.host.store, BitVec.ofNat 32 (field x 0 4) ≠ (62 : Word)) := by decide

theorem wit_HostEvents_ring :
    (let s := hostS [ev1 65] [ev1 64] none 2
     s.host.ringOk = true ∧ s.ihlUp = true ∧ s.host.inFlight = [] ∧ s.host.replayAt = none ∧ (ev1 65).length = 64 ∧
     BitVec.ofNat 32 (field (ev1 65) 0 4) = (65 : Word) ∧ ((65 : Word) - s.host.evtAck).toNat < 2 ^ s.host.size.toNat) ∧
    (hostS [ev1 65] [ev1 64] none 2).ringBusy = false ∧
    (let s := hostS [ev1 65] [ev1 64] none 1; ¬ ((65 : Word) - s.host.evtAck).toNat < 2 ^ s.host.size.toNat) := by decide

theorem wit_HostEvents_again :
    (let s := hostS [] [ev1 64] (some 64) 63
     s.host.replayAt = some 64 ∧ s.host.stored 64 = some (ev1 64) ∧ ((64 : Word) - s.host.evtAck).toNat < 2 ^ s.host.size.toNat) := by decide

theorem wit_HostEvents_intr :
    (let s := { demo g0 with host := { State.reset.host with intr := true } }
     s.host.intr = true ∧ s.host.intrAt ≤ s.clk) := by decide

/-! ### Witnesses: cues -/

/-- The bytes of a cue for number 1. -/
def mkCue (kind ctx : Nat) (body : List (Nat × List Byte)) : List Byte :=
  block64 ([(0, bytesNat 4 1), (4, bytesNat 1 kind), (8, bytesNat 1 ctx)] ++ body)

/-- A device that runs, with context 1 and a cue in the queue of die 0. -/
def cueS (cue : List Byte) : State :=
  let s := demo g0
  let p := s.pkg
  let x : Option Context := (s.contexts.headD (0, none)).2
  { s with
    pkg := { p with
      mode := 3
      phase := .running
      diesUp := BitVec.allOnes 8 }
    contexts := s.contexts ++ [(1, x)]
    dies := [(0, { DieState.reset with cues := [cue] })] }

/-- `NextCue`, as a test. -/
def nextB (s : State) (die : Die) (kind : Nat) (cue : List Byte) (rest : List (List Byte)) : Bool :=
  s.pkg.mode == 3 && s.running && s.pkg.stream.isNone && s.host.waitEvts.isEmpty && decide ((s.die die.val).cues = cue :: rest) && cue.length == 64 &&
  field cue 4 1 == kind && field cue 9 7 == 0

theorem next_of {s : State} {die : Die} {kind : Nat} {cue : List Byte} {rest : List (List Byte)}
    (h : nextB s die kind cue rest = true) : NextCue s die kind cue rest := by
  simp only [nextB, Bool.and_eq_true, beq_iff_eq, decide_eq_true_eq, Option.isNone_iff_eq_none, List.isEmpty_iff] at h
  obtain ⟨⟨⟨⟨⟨⟨⟨h1, hr⟩, h2⟩, hw⟩, h3⟩, h4⟩, h5⟩, h6⟩ := h
  exact ⟨h1, hr, h2, hw, h3, h4, h5, h6⟩

/-- The cue stands at the head of the queue of die 0. -/
def Next (s : State) (kind : Nat) (cue : List Byte) : Prop := NextCue s 0 kind cue []

/-- The classes of an arriving cue (R62): a duplicate, the next one of kind ATTEST and LAUNCH, one after a gap; dies, modes, queues. -/
theorem wit_CueEvents_arrival :
    (mkCue 1 0 []).length = 64 ∧ (0x40 : BitVec 12).toNat % 64 = 0 ∧ (0x41 : BitVec 12).toNat % 64 ≠ 0 ∧
    (BitVec.ofNat 32 (field (mkCue 1 0 []) 0 4) - (1 : Word)).toInt = 0 ∧
    (BitVec.ofNat 32 (field (mkCue 1 0 []) 0 4) - (0 : Word)).toInt = 1 ∧
    1 < (BitVec.ofNat 32 (field (mkCue 1 0 []) 0 4) - (0xFFFFFFFF : Word)).toInt ∧
    field (mkCue 9 0 []) 4 1 = 0x09 ∧ field (mkCue 1 0 []) 4 1 ≠ 0x09 ∧ (pkgS .minimal 4).pkg.mode = 4 ∧
    (cueS []).pkg.mode ≠ 4 ∧ (∀ n, n < 8 → (pkgS .waitReady 2).pkg.diesUp.getLsbD n = false) ∧
    (∀ n, n < 8 → (cueS []).pkg.diesUp.getLsbD n = true) ∧ field (mkCue 1 0 [(5, [7])]) 5 1 = 7 ∧
    field (mkCue 1 0 [(5, [0xFF])]) 5 1 = 0xFF ∧ (List.replicate 256 (mkCue 1 0 [])).length = 256 ∧
    ((cueS []).die 0).cues.length < 256 ∧ State.reset.host.refused = false ∧ (cueS []).pkg.powered = true ∧
    (cueS []).host.window = [] ∧ (cueS []).pkg.tripped = none ∧ (cueS []).roundTrip 8 0 = true := by decide

/-- The cue does not go to its die: a trip has stopped the core clocks, or a die link on the way retrains. -/
theorem wit_CueEvents_stays :
    (let s := cueS []; { s with pkg := { s.pkg with tripped := some (51, 0x780) } }.pkg.tripped ≠ none) ∧
    { cueS [] with links := (List.range 8).map (fun k => (0x20 + k, { Link.reset with up := true, train := true })) }.roundTrip 8 7 = false := by
  decide

/-- An access of the host waits at the window when a cue arrives. -/
theorem wit_CueEvents_held : let s := cueS []
    let t := { s with host := { s.host with window := [.read 0 0, .cue 0 []] } }
    t.host.window ≠ [] ∧ (t.die 0).cues.length + (t.host.window.filterMap (fun r => r.heldFor 0)).length = 2 := by decide

/-- A broken header, for each kind (R67). -/
theorem wit_CueEvents_header : ∀ k ∈ [1, 2, 3, 4, 5, 6, 7, 8],
    let cue := mkCue k 1 [(15, [1])]
    (cueS cue).pkg.mode = 3 ∧ (cueS cue).running = true ∧ (cueS cue).pkg.stream = none ∧ (cueS cue).host.waitEvts = [] ∧
    (cueS cue).host.hold.length < holdSize ∧ ((cueS cue).die 0).cues = [cue] ∧ field cue 4 1 = k ∧ field cue 9 7 ≠ 0 := by
  decide

/-- A launch block: an entry, one team of one group, 8 registers, a context; its field of byte 21, the number of groups. -/
def blockN (ctx ngrp : Nat) : Nat :=
  placedPc.toNat + 2 ^ 64 + 2 ^ 96 + 2 ^ 128 + 2 ^ 168 * ngrp + 2 ^ 176 * 8 + 2 ^ 272 * ctx

/-- The LAUNCH cue of that block. -/
def launchCue : List Byte := mkCue 1 0 [(16, bytesNat 8 placedPc.toNat)]

/-- The page of the block is in contexts 0 and 1. -/
def launchS (ctx ngrp : Nat) : State :=
  let s := cueS launchCue
  let s := { s with mem := { s.mem with mbound := 0 } }
  ((s.cacheLeaf 0 placedPc placedLeaf).cacheLeaf 1 placedPc placedLeaf).placeBytes 40 (blockN ctx ngrp)

/-- Context 1 has been killed. -/
def killS : State :=
  let s := launchS 1 1
  { s with contexts := [(1, (s.context? 1).map (fun x => { x with killed := true }))] }

/-- The queue of priority 0 is full. -/
def fullS : State :=
  let s := launchS 1 1
  let d := s.die 0
  { s with dies := [(0, { d with queues := [(0, List.replicate 1024 0)] })] }

theorem wit_CueEvents_launch :
    nextB (launchS 1 1) 0 1 launchCue [] = true ∧ field launchCue 24 40 = 0 ∧
    (cueS launchCue).cueBlock launchCue = none ∧
    ((launchS 1 1).cueBlock launchCue).map (fun l => (launchS 1 1).blockReason l) = some none ∧
    ((launchS 1 1).cueBlock launchCue).map (fun l => (popped (launchS 1 1) 0 []).blockReason l) = some none ∧
    (launchS 1 1).queueFull 0 0 = false ∧ (popped (launchS 1 1) 0 []).queueFull 0 0 = false ∧
    ((launchS 1 0).cueBlock launchCue).map (fun l => (launchS 1 0).blockReason l) = some (some 4) ∧
    ((launchS 1 33).cueBlock launchCue).map (fun l => (popped (launchS 1 33) 0 []).blockReason l) = some (some 4) ∧
    ((launchS 0 1).cueBlock launchCue).map (fun l => (launchS 0 1).blockReason l) = some (some 12) := by decide

theorem wit_CueEvents_launch_stops :
    nextB killS 0 1 launchCue [] = true ∧ (killS.cueBlock launchCue).isSome = true ∧ (killS.context? 1).any (fun x => x.killed) = true ∧
    nextB fullS 0 1 launchCue [] = true ∧ (fullS.cueBlock launchCue).map (fun l => fullS.blockReason l) = some none ∧
    fullS.queueFull 0 0 = true := by decide

/-- A MAP of the page at 65536 of a context; an UNMAP of it. -/
def mapCue (ctx : Nat) : List Byte := mkCue 2 ctx [(16, bytesNat 8 65536), (32, bytesNat 8 65536), (40, bytesNat 2 0x8001)]
def unmapCue (ctx : Nat) : List Byte := mkCue 3 ctx [(16, bytesNat 8 65536), (24, bytesNat 8 65536)]

/-- Context 1 with a table of which entry 0 leads to itself, and entry 1. -/
def tableS (cue : List Byte) (leaf : Nat) : State :=
  let s := cueS cue
  ({ s with mem := { s.mem with mbound := 1 } }.setPhys 64 (bytesNat 8 0x10001)).setPhys 0x10000 (bytesNat 8 0x800000000001C000 ++ bytesNat 8 leaf)

theorem wit_CueEvents_map :
    nextB (tableS (mapCue 1) 0) 0 2 (mapCue 1) [] = true ∧ mapLayout (mapCue 1) = true ∧ (tableS (mapCue 1) 0).exists 1 = true ∧
    nextB (tableS (mapCue 9) 0) 0 2 (mapCue 9) [] = true ∧ mapLayout (mapCue 9) = true ∧ (tableS (mapCue 9) 0).exists 9 = false ∧
    field (mapCue 1) 42 1 = 0 ∧ field (mapCue 1) 32 8 = 65536 ∧ (tableS (mapCue 1) 0).l2 = [] := by decide

theorem wit_CueEvents_map_entry :
    (popped (tableS (mapCue 1) 0) 0 []).entryOf 1 65536 true 0 = (popped (tableS (mapCue 1) 0) 0 [], some 0x10008) := by rfl

theorem wit_CueEvents_unmap :
    nextB (tableS (unmapCue 1) placedLeaf.toNat) 0 3 (unmapCue 1) [] = true ∧ (tableS (unmapCue 1) placedLeaf.toNat).unmapLayout (unmapCue 1) = true ∧
    (tableS (unmapCue 1) placedLeaf.toNat).exists 1 = true ∧ nextB (tableS (unmapCue 9) 0) 0 3 (unmapCue 9) [] = true ∧
    (tableS (unmapCue 9) 0).unmapLayout (unmapCue 9) = true ∧ (tableS (unmapCue 9) 0).exists 9 = false ∧
    field (unmapCue 1) 24 8 = 65536 ∧ (tableS (unmapCue 1) placedLeaf.toNat).l2 = [] ∧
    (popped (tableS (unmapCue 1) placedLeaf.toNat) 0 []).unmapPages (unmapCue 1) = [(field (unmapCue 1) 16 8, 0)] := by decide

theorem wit_CueEvents_unmap_entry :
    (popped (tableS (unmapCue 1) placedLeaf.toNat) 0 []).entryOf 1 65536 false 0 = (popped (tableS (unmapCue 1) placedLeaf.toNat) 0 [], some 0x10008) := by rfl

theorem wit_CueEvents_context :
    (∀ c ∈ [0, 1, 9], nextB (cueS (mkCue 4 c [(6, [1])])) 0 4 (mkCue 4 c [(6, [1])]) [] = true ∧
      bodyZero (mkCue 4 c [(6, [1])]) [(16, 37), (56, 8)] = true) ∧ (cueS []).exists 1 = true ∧ (cueS []).exists 255 = false ∧
    (∀ d, d < 8 → ((cueS []).die d).hsav = 0 ∧ ((cueS []).die d).hvec = 0) ∧ field (mkCue 4 9 []) 24 8 = 0 ∧
    (∀ k ∈ [5, 6], ∀ c ∈ [1, 9], nextB (cueS (mkCue k c [])) 0 k (mkCue k c []) [] = true ∧ bodyZero (mkCue k c []) [] = true) := by decide

/-- A cue with a place and a size of a safe-tier area. -/
def safeCue (kind size : Nat) : List Byte := mkCue kind 0 [(24, bytesNat 8 size)]

/-- The bytes of device memory of an MZ880-1T. -/
def deviceBytes : Nat := 2 ^ 40

/-- A header of a checkpoint in host memory at 0. -/
def headS (cue : List Byte) : State :=
  let s := cueS cue
  let h := s.host
  { s with host := { h with mem := [(0, 0x50), (1, 0x4B), (2, 0x43), (3, 0x5A), (4, 1), (13, 1), (18, 2), (26, 2), (34, 2), (42, 2), (50, 2),
                                    (58, 2), (66, 2), (74, 2)] } }

theorem wit_CueEvents_streams :
    (∀ n ∈ [deviceBytes + 65535, deviceBytes + 65536], nextB (cueS (safeCue 7 n)) 0 7 (safeCue 7 n) [] = true ∧
      bodyZero (safeCue 7 n) [(16, 16)] = true ∧ field (safeCue 7 n) 24 8 = n) ∧
    nextB (headS (safeCue 8 (deviceBytes + 65536))) 0 8 (safeCue 8 (deviceBytes + 65536)) [] = true ∧
    (headS []).headerOk 0 (deviceBytes + 65536) = true ∧ (headS []).headerOk 0 (deviceBytes + 65535) = false ∧
    (cueS []).headerOk 0 (deviceBytes + 65536) = false := by decide

/-- The IHL is up when a CHECKPOINT is taken, or down. -/
theorem wit_CueEvents_checkpoint : (cueS []).deviceBytes = deviceBytes ∧ (cueS []).ihlUp = false ∧
    { cueS [] with links := [(ihl, lk ihl [])] }.ihlUp = true := by decide

theorem wit_CueEvents_attest :
    (let s := { cueS [] with host := { State.reset.host with attests := [mkCue 9 0 [(48, bytesNat 8 0x1000)]] } }
     s.host.attests = [mkCue 9 0 [(48, bytesNat 8 0x1000)]]) ∧ (mkCue 9 0 [(48, bytesNat 8 0x1000)]).length = 64 ∧
    field (mkCue 9 0 []) 9 7 = 0 ∧ field (mkCue 9 0 []) 56 8 = 0 ∧ field (mkCue 9 0 [(15, [1])]) 9 7 ≠ 0 ∧ field (mkCue 9 0 [(63, [1])]) 56 8 ≠ 0 := by
  decide

theorem wit_CueEvents_defined : ∀ k ∈ [0, 0x0B, 0x7F, 0x80, 0xFF],
    nextB (cueS (mkCue k 1 [])) 0 k (mkCue k 1 []) [] = true ∧ (k = 0 ∨ 0x0B ≤ k) := by decide

/-- The blocks of partition configuration (R66). -/
def headerCue : List Byte := mkCue 0x0A 0 [(26, bytesNat 2 256), (28, bytesNat 1 64), (32, bytesNat 8 1)]
def membersCue : List Byte := mkCue 0x0A 0 [(16, [1]), (24, [3])]
def homesCue : List Byte := mkCue 0x0A 0 [(16, [2]), (17, [3]), (24, bytesNat 2 0x80FF)]
def portsCue : List Byte := mkCue 0x0A 0 [(16, [3]), (24, bytesNat 2 0x80FF)]
def commitCue (btype gen : Nat) : List Byte := mkCue 0x0A 0 [(16, bytesNat 1 btype), (24, bytesNat 8 gen)]

theorem wit_CueEvents_blocks :
    (∀ cue ∈ [headerCue, membersCue, homesCue, portsCue, commitCue 5 0, commitCue 4 1], nextB (cueS cue) 0 0x0A cue [] = true ∧
      (field cue 18 6 = 0)) ∧
    (field headerCue 17 1 = 0 ∧ field headerCue 25 1 = 0 ∧ field headerCue 26 2 = 256 ∧ field headerCue 28 1 = 64 ∧ field headerCue 29 3 = 0 ∧
      field headerCue 32 8 ≠ 0 ∧ field headerCue 40 24 = 0) ∧
    (field membersCue 17 1 = 0 ∧ field membersCue 56 8 = 0) ∧
    (field homesCue 17 1 ≤ 3 ∧ field homesCue 56 8 = 0 ∧ ∀ k, k < 16 → (BitVec.ofNat 16 (field homesCue (24 + 2 * k) 2)).toNat / 256 % 128 = 0) ∧
    (field portsCue 17 1 = 0 ∧ field portsCue 56 8 = 0 ∧ ∀ k, k < 16 → (BitVec.ofNat 16 (field portsCue (24 + 2 * k) 2)).toNat / 256 % 128 = 0) ∧
    4 < field (commitCue 5 0) 16 1 ∧ (field (commitCue 4 1) 17 7 = 0 ∧ field (commitCue 4 1) 32 32 = 0) ∧ (cueS []).fab.sweeps = [] ∧
    (cueS []).fab.abroad = [] ∧ (∃ k, k < part.cfg.n ∧ part.cfg.live k = true ∧ ∀ j, j < k → part.cfg.live j = false) ∧
    (let a : Abroad := { slot := 1, swept := [], served := [], ended := true }
     a.isOpen = false ∧ { a with ended := false }.isOpen = true ∧ { a with swept := [(0, 0)] }.isOpen = true) := by
  refine ⟨by decide, by decide, by decide, by decide, by decide, by decide, by decide, by decide, by decide,
    ⟨0, by decide, by decide, fun j hj => absurd hj (by omega)⟩, by decide⟩

/-- The staged configuration at a commit: no header; another generation; a home table missing; no member; whole. -/
theorem wit_CueEvents_commit : PartCfg.reset.hasHdr = false ∧ (part.cfg.hasHdr = true ∧ part.cfg.gen.toNat ≠ 2) ∧
    (∃ k, k < 17 ∧ part.cfg.homeSet.getLsbD (k / 16) = false) ∧ ({ part.cfg with members := 2 }).members.getLsbD part.cfg.devno.toNat = false ∧
    (part.cfg.gen.toNat = field (commitCue 4 1) 24 8 ∧ (∀ k, k < part.cfg.n → part.cfg.homeSet.getLsbD (k / 16) = true) ∧
      part.cfg.members.getLsbD part.cfg.devno.toNat = true) := by decide

/-! ### Witnesses: streams and containment -/

/-- A stream in progress. -/
def streamS (restore : Bool) : State :=
  let s := cueS []
  let p := s.pkg
  let x : Stream := { restore := restore, href := 1, die := 0, safe := 0, size := 0x20000000000, started := 0 }
  { s with
    pkg := { p with
      mode := if restore then 7 else 5
      stream := some x }
    cur := none }

theorem wit_Stream : (streamS false).pkg.stream.map (fun x => x.restore) = some false ∧ (streamS false).allPaused = true ∧
    (streamS true).pkg.stream.map (fun x => x.restore) = some true ∧ InterruptWhy.refused ≠ .poison ∧
    (streamS false).ihlUp = false ∧ { streamS false with links := [(ihl, lk ihl [])] }.ihlUp = true ∧
    ((streamS false).mem.poison = [] ∧ (streamS false).dirtyAbroad = [] ∧ (streamS false).ownedAway = []) ∧
    (streamS true).hostField 200 4 ≤ (streamS true).channelMiB ∧ Memory.wf (streamS true).mem.dram = true ∧
    min 0 (streamS true).deviceBytes ≤ streamOffset 0 0 := by decide

/-- A resilient context, before and after its first incremental checkpoint, with failed restores. -/
def resS (saved : Bool) (failures : Nat) : State :=
  let s := cueS []
  let k : Checkpoint := { number := 1, bytes := [] }
  let c : Context := { killed := false, resilient := true, safe := 0, safeSize := 0, interval := 1, ckptAt := 0, guarded := [], ckpts := if saved then 1 else 0, failures := failures, saved := if saved then some k else none, redo := [], heldEvts := [] }
  { s with contexts := [(1, some c)], links := [(ihl, lk ihl [])] }

/-- An incremental checkpoint is due, and the context pauses; a group of it issues; it is not due with the IHL down. -/
theorem wit_Resilient_due : (resS true 0).clk = 0 ∧ (resS true 0).ihlUp = true ∧ (resS true 0).pkg.stream = none ∧
    (resS true 0).ctxPaused 1 = true ∧ (resS true 0).ctxPaused 0 = false ∧ { resS true 0 with links := [] }.ihlUp = false ∧
    ((resS true 0).die 0).hvec = 0 := by decide

theorem wit_Resilient : ((resS false 0).context? 1).map (fun x => (x.resilient, x.killed, x.saved)) = some (true, false, none) ∧
    ((resS true 1).context? 1).map (fun x => (x.killed, x.saved.isSome, decide (x.failures + 1 < 3))) = some (false, true, true) ∧
    ((resS true 2).context? 1).map (fun x => (x.killed, x.saved.isSome, decide (3 ≤ x.failures + 1))) = some (false, true, true) := by decide

/-- Context 1 has one mapping, in a table of which one entry is used, a private range, and a fabric access; a line is poisoned. -/
def ownS (idx leaf prv line : Nat) : State :=
  let s := cueS []
  let s := { s with mem := { s.mem with
    mbound := 1
    poison := [(line, some { ctx := 1, va := 0, wher := 2, shared := false })] } }
  (s.setPhys 64 (bytesNat 8 0x30001 ++ bytesNat 8 0 ++ bytesNat 8 0 ++ bytesNat 8 prv ++ bytesNat 1 2)).setPhys (0x30000 + 8 * idx)
    (bytesNat 8 leaf)

/-- The same with a team of context 1. -/
def ownTeamS : State := { ownS 0 placedLeaf.toNat 65536 0 with teams := [(0, some { team1 0 [] with ctx := 1 })] }

/-- A line of package frame 5. -/
def line5 : Nat := packageLine 1 0 5

theorem wit_PartitionReset : (cueS []).contextTags.filter (fun c => (cueS []).descriptor c 32 1 != 0) = [] ∧
    (ownS 0 0 0 0).contextTags.filter (fun c => (ownS 0 0 0 0).descriptor c 32 1 != 0) = [1] ∧
    ((ownS 0 0 0 0).context? 1).isSome = true ∧ (ownS 0 0 0 0).descriptor 1 32 1 ≠ 0 := by decide

/-- The owners of R114: none, a device line, a context's, a team's, a partition's. -/
theorem wit_Owners : ((ownS 0 0 0 line5).ownerOf line5).isNone = true ∧
    ((ownS 0 0 0 (packageLine 1 0 0)).ownerOf (packageLine 1 0 0)).map (fun r => r.1) = some .device ∧
    ((ownS 0 placedLeaf.toNat 0 0).ownerOf 0).map (fun r => r.1) = some .context ∧
    (ownTeamS.ownerOf 0).map (fun r => r.1) = some .team ∧
    ((ownS 320 (0xC300000000000000 + 5 * 65536) 0 line5).ownerOf line5).map (fun r => r.1) = some .partition := by decide +kernel

theorem wit_Owners_context : (SMap.get none (ownS 0 placedLeaf.toNat 0 0).mem.poison 0).isSome = true ∧
    (ownS 0 placedLeaf.toNat 0 0).mem.resets = 0 ∧ ((ownS 0 placedLeaf.toNat 0 0).context? 1).map (fun x => x.killed) = some false ∧
    (ownS 0 placedLeaf.toNat 0 0).arenas = [] ∧ (ownS 0 placedLeaf.toNat 0 0).pkg.tripped = none ∧
    (ownS 0 placedLeaf.toNat 0 0).restoring 1 = false ∧
    { ownS 0 placedLeaf.toNat 0 0 with agenda := [.contextRestore 1 false] }.restoring 1 = true := by decide

/-- A line of the context and one of the device are poisoned together: the device's action takes in the context's. A line of a team
alone; a line whose loss the fabric shares; a line of another device. -/
theorem wit_Owners_absorbed :
    (let s := ownS 0 placedLeaf.toNat 0 0
     let q : Poison := { ctx := 0, va := 0, wher := 2, shared := false }
     let t := { s with mem := { s.mem with poison := SMap.set none s.mem.poison (packageLine 1 0 0) (some q) } }
     s.absorbed 0 .context 1 = false ∧ t.absorbed 0 .context 1 = true) ∧
    (ownTeamS.absorbed 0 .team 1 = false ∧ ownTeamS.restoring 1 = false ∧
      ownTeamS.teamsWhere (fun x => x.ctx == 1) = [(0, { team1 0 [] with ctx := 1 })] ∧ { team1 0 [] with ctx := 1 }.losses = 0) ∧
    (let q : Poison := { ctx := 0, va := 0, wher := 2, shared := true }
     let s := ownS 0 0 0 0
     let t := { s with mem := { s.mem with poison := [(0, some q)] } }
     SMap.get none t.mem.poison 0 = some q ∧ isDram 0 = true ∧ t.absorbed 0 .partition 0 = false) ∧
    isDram (2 ^ 40) = false ∧ isDram (2 ^ 40 - 1) = true := by decide +kernel

theorem wit_Scrub : (∀ n ∈ [1023, 1024], n < 1024 ∨ 1024 ≤ n) ∧ (demo g0).clk < 1 ∧ SMap.get 0 (demo g0).mem.quiet 0 ≤ (demo g0).clk ∧
    (demo g0).mem.flaws = [] ∧ (demo g0).goodL2 0 (fun _ => true) = false ∧ (demo g0).goodMsc 0 = false ∧
    { demo g0 with l2 := [(l2Key 0 0 0, some { st := .e, wts := 0, rts := 0, attr := leafAttr placedLeaf, loc := 0, dirty := 0, data := 0, touched := 0 })] }.goodL2 0 (fun _ => true) = true ∧
    2 ^ 31 - 128 < (demo g0).channelMiB * 2 ^ 20 ∧ (demo g0).poisoned (dramKey 0 0 0) = false := by decide

/-! ### Witnesses: operations in flight -/

/-- An operation of lane 0 at an address. -/
def op1 (kind : OpKind) (va : VA) : MemOp :=
  { id := 0, kind := kind, cls := .ld, level := 0, user := true, sel := .a, pc := placedPc, word := 0, lit := 0, order := { acq := false, rel := false, sc := false }, miss := false, lanes := 1, addrs := [(0, va.toNat)], ptes := [(0, placedLeaf.toNat)], data := [], regs := [], dst := 5, ty := 0, ticket := false, done := false }

/-- A group with that operation in flight. -/
def gop (o : MemOp) : Group := { g0 with ops := [o], nextOp := 1 }

/-- Its state. -/
def sop (o : MemOp) : State := demoT (gop o) (team1 0 [])

/-- `Alone`, as a test. -/
def aloneB (s : State) (gid : Nat) (g : Group) (o : MemOp) : Bool :=
  decide (s.group? gid = some g) && decide (g.ops = [o]) && !o.done && !g.dead && !s.speculates gid

theorem alone_of {s : State} {gid : Nat} {g : Group} {o : MemOp} (h : aloneB s gid g o = true) : Alone s gid g o := by
  simp only [aloneB, Bool.and_eq_true, decide_eq_true_eq, Bool.not_eq_true'] at h
  obtain ⟨⟨⟨⟨h1, h2⟩, h3⟩, h4⟩, h5⟩ := h
  exact ⟨h1, h2, h3, h4, h5⟩

theorem alone_sop (o : MemOp) (h : o.done = false) : Alone (sop o) 0 (gop o) o := ⟨rfl, rfl, h, rfl, rfl⟩

/-- `HomeLine` of a line that no L2 holds, as a test. -/
def homeB (s : State) (die : Nat) (c : Ctx) (va : VA) (e : DWord) (ct : Nat) : Bool :=
  decide (windowOf va ≤ 8) && !(leafAttr e).swm && !s.engineOwned (lineLoc s c va e) && !s.poisoned (lineLoc s c va e) &&
  (s.heldAbroad (lineLoc s c va e) true).isNone && s.mem.xiNow.isNone && s.links.isEmpty && s.slices.isEmpty && decide ((s.slice (sliceKeyOf die (homeSlice va))).mrts + 1 < rebaseAt) &&
  decide (ct < (s.slice (sliceKeyOf die (homeSlice va))).base + rebaseAt) && s.l2.isEmpty

theorem home_of {s : State} {die : Nat} {c : Ctx} {va : VA} {e : DWord} {ct : Nat} (h : homeB s die c va e ct = true) :
    HomeLine s die c va e ct := by
  simp only [homeB, Bool.and_eq_true, decide_eq_true_eq, Bool.not_eq_true', List.isEmpty_iff, Option.isNone_iff_eq_none] at h
  obtain ⟨⟨⟨⟨⟨⟨⟨⟨⟨⟨h1, h2⟩, h3⟩, h4⟩, ha⟩, hx⟩, hl⟩, h5⟩, h6⟩, h7⟩, h8⟩ := h
  exact ⟨h1, h2, h3, h4, ha, hx, fun n _ => by simp [State.link, hl, Link.reset], fun d => by simp [State.slice, h5, Slice.reset], h6,
    h7, by simp [h8]⟩

/-- The line of the program's page is served at home, for any operation in flight. -/
theorem home_sop (o : MemOp) : HomeLine (sop o) 0 0 (lastOf 16) placedLeaf 0 := home_of (by rfl)

/-- A line that the host writes through the memory window is served at home; one of an arena's header belongs to an engine. -/
theorem wit_HostEvents_home (o : MemOp) : HomeLine (sop o) (homeDie (lastOf 16)) 0 (lastOf 16) placedLeaf 0 ∧ (sop o).host.hmwSel ≤ 8 ∧
    (sop o).fabricNeed (lastOf 16) (lineLoc (sop o) 0 (lastOf 16) placedLeaf) false = none :=
  ⟨home_of (by rfl), Nat.zero_le 8, by rfl⟩

/-- Loads in flight: at home, from scratch, and from a copy that the core holds. -/
def copyD (data : Line) (o : MemOp) : State :=
  let y : L1Line := { ctx := 0, line := lineNo (lastOf 16), attr := leafAttr placedLeaf, data := data, wts := 0, rts := 5, filled := 0, expired := false, used := 0, loader := some 0 }
  let way := ((sop o).ways 0).headD 0
  { sop o with cores := [(0, { Core.reset with active := some 0, l1 := [(l1Key (lastOf 16) way, some y)] })] }

def copyS (o : MemOp) : State := copyD 7 o

theorem copy_found (o : MemOp) : ((copyS o).l1Find 0 (tagFor 0 (lastOf 16)) (lastOf 16)).map (fun y => y.2.valid 0 0) = some true := by rfl

theorem reads_home {s : State} {g : Group} {o : MemOp} {l : Nat} (n : Nat) (hs : isScratch (o.addr l) = false)
    (hf : s.l1Find g.coreId (tagFor g.ctx (o.addr l)) (o.addr l) = none)
    (hh : HomeLine s (serveDie g.coreId (o.addr l) (leafAttr (leafFor s g o false l))) g.ctx (o.addr l) (leafFor s g o false l) 0) : ∃ x, Reads s g o l n x :=
  ⟨_, by
    simp only [Reads, hs, hf]
    exact ⟨hh, rfl⟩⟩

theorem reads_copy {s : State} {g : Group} {o : MemOp} {l : Nat} (n : Nat) (hs : isScratch (o.addr l) = false)
    (hf : (s.l1Find g.coreId (tagFor g.ctx (o.addr l)) (o.addr l)).map (fun y => y.2.valid (s.core g.coreId).ct s.clk) = some true)
    (hx : s.mem.xiNow = none) : ∃ x, Reads s g o l n x := by
  rcases h : s.l1Find g.coreId (tagFor g.ctx (o.addr l)) (o.addr l) with _ | y
  · simp [h] at hf
  · rw [h] at hf
    refine ⟨lineField y.2.data ((o.addr l).toNat % 128) n, ?_⟩
    simp only [Reads, hs, h]
    exact ⟨hx, by simpa using hf, trivial⟩

theorem reads_scratch {s : State} {g : Group} {o : MemOp} {l : Nat} (n : Nat) (t : Team) (hs : isScratch (o.addr l) = true)
    (ht : s.team? g.teamId = some t) : ∃ x, Reads s g o l n x :=
  ⟨_, by
    simp only [Reads, hs]
    exact ⟨t, ht, rfl⟩⟩

/-- Loads: at home, from scratch, from a copy; a row of a tile. -/
theorem wit_Loads : (∀ k va, Alone (sop (op1 k va)) 0 (gop (op1 k va)) (op1 k va)) ∧
    (∀ k va, Alone (copyS (op1 k va)) 0 (gop (op1 k va)) (op1 k va)) ∧ (0 : Nat) < 96 ∧ (1 : Mask) = 1#96 <<< 0 ∧
    (∀ k, (op1 k 0).level = (gop (op1 k 0)).lvl ∧ (op1 k 0).ticket = false) ∧ 5 + 8 / 4 ≤ 28 :=
  ⟨fun _ _ => ⟨rfl, rfl, rfl, rfl, rfl⟩, fun _ _ => ⟨rfl, rfl, rfl, rfl, rfl⟩, by decide, by decide, fun _ => ⟨rfl, rfl⟩, by decide⟩

theorem wit_Loads_home : ∀ r ∈ [(OpKind.load 1 true, 1), (.load 16 false, 16), (.loadScalar 4, 4), (.loadScalar 8, 8), (.tileLoad, 128)],
    ∃ x, Reads (sop (op1 r.1 (lastOf r.2))) (gop (op1 r.1 (lastOf r.2))) (op1 r.1 (lastOf r.2)) 0 r.2 x := by
  intro r h
  fin_cases h <;> exact reads_home _ (by decide) (by decide) (home_of (by decide))

theorem wit_Loads_other : ∀ r ∈ [(OpKind.load 1 true, 1), (.load 16 false, 16), (.loadScalar 8, 8)],
    (∃ x, Reads (sop (op1 r.1 (lowAddr 16368))) (gop (op1 r.1 (lowAddr 16368))) (op1 r.1 (lowAddr 16368)) 0 r.2 x) ∧
    ∃ x, Reads (copyS (op1 r.1 (lastOf 16))) (gop (op1 r.1 (lastOf 16))) (op1 r.1 (lastOf 16)) 0 r.2 x := by
  intro r h
  fin_cases h <;> exact ⟨reads_scratch _ (team1 0 []) (by decide) (by decide), reads_copy _ (by decide) (by decide) (by decide)⟩

/-- A store at home and one in scratch; an atomic and a reduction, whose access translates late. -/
theorem wit_Updates : ∀ k ∈ [OpKind.store 1, .store 16, .atomic .cas true, .atomic .fadd false, .reduce .add true],
    (let o := op1 k (lastOf 16)
     homeB (sop o) (serveDie 0 (lastOf 16) (leafAttr placedLeaf)) 0 (lastOf 16) placedLeaf
      (timeOf (sop o) 0 (remoteAccess 0 (lastOf 16) (leafAttr placedLeaf))) = true ∧
     homeB (sop o) (homeDie (lastOf 16)) 0 (lastOf 16) placedLeaf (timeOf (sop o) 0 (homeDie (lastOf 16) != 0)) = true ∧
     o.order.sc = false ∧ (sop o).team? (gop o).teamId = some (team1 0 []) ∧ leafFor (sop o) (gop o) o true 0 = placedLeaf ∧
     ((sop o).slice (serveSlice 0 (lastOf 16) (leafAttr placedLeaf))).sweep = false ∧ (sop o).mem.flaws = [] ∧
     ((sop o).lateChannel (gop o) o true (lastOf 16) 8).toOption = some placedLeaf) := by decide

theorem wit_Updates_places : (lastOf 16).toNat % 16 = 0 ∧ isScratch (lowAddr 16368) = true := by decide

/-- A copy of one chunk within the page, and an empty one. -/
def cpyOp (rows bytes : Nat) : MemOp := { op1 (.copy (lastOf 32) (lastOf 16) rows bytes 0 0) 0 with cls := .cp, dst := 0, lanes := 0 }

theorem wit_Copies : (∀ r c, Alone (sop (cpyOp r c)) 0 (gop (cpyOp r c)) (cpyOp r c)) ∧
    ((sop (cpyOp 1 16)).lateChannel (gop (cpyOp 1 16)) (cpyOp 1 16) false (lastOf 16) 16).toOption = some placedLeaf ∧
    ((sop (cpyOp 1 16)).lateChannel (gop (cpyOp 1 16)) (cpyOp 1 16) true (lastOf 32) 16).toOption = some placedLeaf ∧
    (lastOf 16).toNat % 16 = 0 ∧ (lastOf 32).toNat % 16 = 0 ∧
    homeB (sop (cpyOp 1 16)) (serveDie 0 (lastOf 16) (leafAttr placedLeaf)) 0 (lastOf 16) placedLeaf 0 = true ∧
    homeB (sop (cpyOp 1 16)) (serveDie 0 (lastOf 32) (leafAttr placedLeaf)) 0 (lastOf 32) placedLeaf
      (timeOf (sop (cpyOp 1 16)) 0 (remoteAccess 0 (lastOf 32) (leafAttr placedLeaf))) = true :=
  ⟨fun _ _ => ⟨rfl, rfl, rfl, rfl, rfl⟩, by decide, by decide, by decide, by decide, by decide, by decide⟩

/-- A load that a group runs ahead of: it has used the copy of a version. -/
def specOp (v : Word) : MemOp := { op1 (.load 4 false) (lastOf 16) with data := [(0, v)] }

/-- Its state: the line at home has version 0. -/
def specS (v : Word) : State := { sop (specOp v) with specs := [(0, some (gop (specOp v)))] }

/-- What the renewal of that load finds. -/
def renewed (v : Word) : State × Option Bool :=
  (specS v).renewCopies 0 (gop (specOp v)) (specOp v) (lanesOf (specOp v).lanes) true

theorem wit_Renewal : (∀ v : Word, (specS v).group? 0 = some (gop (specOp v)) ∧ SMap.get none (specS v).specs 0 = some (gop (specOp v)) ∧
      (gop (specOp v)).undone.find? (fun o => o.kind.isLoad) = some (specOp v) ∧
      ((gop (specOp v)).undone.find? (fun x => x.id == (specOp v).id)).isSome = true) ∧
    (renewed 0).2 = some true ∧ ((renewed 0).1.group? 0).map (fun y => y.dead) = some false ∧ (renewed 5).2 = some false ∧
    ((renewed 5).1.group? 0).isSome = true :=
  ⟨fun _ => ⟨rfl, rfl, rfl, rfl⟩, by decide +kernel, by decide +kernel, by decide +kernel, by decide +kernel⟩

/-- A watch that is pending: no L2 line; one of its version, of another one, and of a line that another die homes. -/
def watchS (line : Nat) (x : Option L2Line) : State :=
  let w : Watch := { gid := 0, op := 0, level := 0, ctx := 0, line := line, wts := 3, state := .pending }
  { demo g0 with
    cores := [(0, { Core.reset with uwt := [w] })]
    l2 := match x with
      | some x => [(l2Key 0 0 (BitVec.ofNat 52 (line * 128)), some x)]
      | none => [] }

theorem wit_UwtResolution : ((((watchS 0 none).core 0).uwt)[0]?).map (fun w => w.state) = some .pending ∧
    (watchS 0 none).l2At (l2Key 0 0 0) = none ∧
    ((watchS 0 (some { st := .s, wts := 3, rts := 3, attr := leafAttr placedLeaf, loc := 0, dirty := 0, data := 0, touched := 0 })).l2At
      (l2Key 0 0 0)).map (fun x => x.wts) = some 3 ∧ homeDie 0 = 0 ∧ homeDie (BitVec.ofNat 52 (2 ^ 48)) ≠ 0 := by decide

/-- A seq-cst operation with and without its ticket, in device, package and system scope. -/
def scOp (leaf : DWord) (ticket : Bool) : MemOp :=
  { op1 (.load 4 false) (lastOf 16) with
    order := { acq := true, rel := true, sc := true }
    ptes := [(0, leaf.toNat)]
    ticket := ticket }

theorem wit_Tickets : (∀ leaf ticket, (sop (scOp leaf ticket)).groupsWhere (fun _ => true) = [(0, gop (scOp leaf ticket))] ∧
      Alone (sop (scOp leaf ticket)) 0 (gop (scOp leaf ticket)) (scOp leaf ticket) ∧ (scOp leaf ticket).order.sc = true) ∧
    (scopesOf (gop (scOp placedLeaf false)) (scOp placedLeaf false)).length = 1 := by
  refine ⟨fun leaf ticket => ⟨rfl, ⟨rfl, rfl, rfl, rfl, rfl⟩, rfl⟩, by decide⟩

/-- An access of host memory on its way. -/
def ihlS (write : Bool) : State :=
  let o := { op1 (.store 8) (BitVec.ofNat 52 (9 * 2 ^ 48)) with ptes := [(0, 0xE300000000000000)] }
  let s := sop o
  let r : IhlAccess := { addr := hostAddr (o.addr 0) (o.pte 0), write := write, owner := .op 0 0, data := [(0, 1)], reply := none, va := o.addr 0, leaf := o.pte 0, rmw := none }
  { s with host := { s.host with inFlight := [r] } }

theorem wit_Ihl : ((ihlS false).host.inFlight.find? (fun r => !r.write && r.reply.isNone)).isSome = true ∧
    ((ihlS true).host.inFlight.find? (fun r => r.write)).map (fun r => (r.addr, decide (r.owner = .op 0 0))) = some (hostAddr
      (BitVec.ofNat 52 (9 * 2 ^ 48)) 0xE300000000000000, true) ∧
    windowOf (BitVec.ofNat 52 (9 * 2 ^ 48)) = 9 ∧
    (let o := { op1 (.store 8) (BitVec.ofNat 52 (9 * 2 ^ 48)) with ptes := [(0, 0xE300000000000000)] }
     aloneB (ihlS true) 0 (gop o) o = true) ∧ (∀ q ∈ (ihlS true).host.inFlight, q.rmw = none) := by decide

/-- The slice of that store takes it. -/
theorem wit_Ihl_slice : SliceOpen (ihlS true) (sliceKeyOf 0 (homeSlice (BitVec.ofNat 52 (9 * 2 ^ 48)))) ((ihlS true).core 0).ct := by
  refine ⟨by decide, by decide, by decide, fun k x h => ?_⟩
  have h2 : (ihlS true).l2 = [] := by rfl
  simp [h2] at h

theorem wit_TileUnit : quarterKey g0.coreId g0.quarter = 0 / 16 ∧ (∀ n ∈ [0, 5], let s := { demo g0 with quarters := [(0, { Quarter.reset with unit := some { gid := n, regs := [] } })] }
    (s.quarter 0).unit.map (fun w => w.gid) = some n) := by decide

/-! ### Witnesses: groups, schedulers and slices -/

/-- The state of a group with no slot that issues. -/
def idle (g : Group) : State := { demoT g (team1 0 []) with cur := none }

/-- A barrier that all have reached, in a team of which one group has ended. -/
def barS (k : Fin 16) : State :=
  let t : Team := { team1 0 [] with groups := [0, 1], ended := [1], arrived := [(0, (1#16) <<< k.val)] }
  { demo g0 with teams := [(0, some t)] }

theorem wit_GroupEvents : (∀ k ∈ [0, 15], ((barS k).team? 0).map (fun t => (t.counting, t.hasArrived k.val 0)) = some ([0], true)) ∧
    (let g : Group := { g0 with live := 0 }
     (idle g).group? 0 = some g ∧ g.live = 0 ∧ g.undone = [] ∧ ((idle g).team? g.teamId).isSome = true) := by decide

/-- A group with a late fault recorded. -/
def glate : Group :=
  let r : LateRec := { cause := 0x22, inner := 0x10, mask := 1, addr := 0, word := 0, lit := 0, cls := 0, more := false }
  { g0 with late := [(0, some r)] }

theorem wit_LateFault : (idle glate).group? 0 = some glate ∧ (idle glate).issuable 0 glate = true ∧ (idle glate).cur = none ∧
    (SMap.get none glate.late glate.lvl).map (fun r => r.cause) = some 0x22 ∧ glate.pick = some .a ∧ glate.lvl < 2 ∧ glate.vector 0x22 ≠ 0 := by decide

/-- A group whose counter of level 1 has run out; a group with spinning slots. -/
def gwd : Group := { g0 with lvl := 1, wd1 := 2 ^ 24 }
def gspin (n : Nat) (st : SlotStatus) : Group :=
  { g2 0 (sl placedPc 0xFF st) (sl 0x8000000000100 0xFF00 .ready) [] with slotA := { sl placedPc 0xFF st with back := n } }

/-- The time at level 1 counts as well as what was counted before it. -/
theorem wit_Watchdog_clock : let g : Group := { g0 with lvl := 1, wdAt := 5 }
    2 ^ 24 ≤ g.wd1 + ({ idle g with clk := 2 ^ 24 + 5 }.clk - g.wdAt) := by decide

theorem wit_Watchdog : (idle gwd).group? 0 = some gwd ∧ (idle gwd).cur = none ∧ gwd.lvl = 1 ∧ 2 ^ 24 ≤ gwd.wd1 + ((idle gwd).clk - gwd.wdAt) ∧ gwd.lvl < 2 ∧
    gwd.vector 0x23 ≠ 0 := by decide

theorem wit_Spin : (∀ n ∈ [63, 64], ∀ st ∈ [SlotStatus.ready, .demoted], (idle (gspin n st)).group? 0 = some (gspin n st)) ∧
    64 ≤ ((gspin 64 .ready).slotOf .a).back ∧ ((gspin 64 .ready).slotOf .a).status = .ready ∧ ((gspin 64 .ready).slotOf .b).status = .ready ∧
    ((gspin 63 .ready).slotOf .a).back < 64 ∧ ((gspin 64 .demoted).slotOf .a).status = .demoted := by decide

theorem wit_Recv : (idle (grecv 100)).group? 0 = some (grecv 100) ∧
    ((grecv 100).slotOf .a).kept.recv = some { pc := placedPc, until_ := some 100 } := by decide

theorem wit_Banks : (let s := { demo g0 with banks := [(bankKey 0 63, some { mode := .cache, core := 0, fifo := 0, clm := none, drn := true, next := some (.fifo, 1, 5) })] }
    (s.bank (bankKey 0 63)).drn = true ∧ (s.bank (bankKey 0 63)).next = some (.fifo, 1, 5)) := by decide

theorem wit_Slices : (let s := { demo g0 with slices := [(sliceKeyOf 7 63, { base := 0, mrts := 100, sweep := true, ticket := 0 })] }
    (s.slice (sliceKeyOf 7 63)).sweep = true) ∧
    (let s := { demo g0 with cores := [(64, { Core.reset with ct := 2 ^ 63 })] }
     64 / 64 = (1 : Die).val ∧ 2 ^ 63 ≤ (s.core 64).ct) := by decide

theorem wit_Kills : (let r : List Byte := List.replicate 64 1
    let s := { demo g0 with dies := [(0, { DieState.reset with kills := [r] })] }
    (s.die 0).kills = [r] ∧ r.length = 64) := by decide

/-- An active group that waits, and a pending one that is ready and has been so for some time. -/
def pairS (clk : Nat) : State :=
  let a : Group := { g0 with stalled := [.a], longStall := true }
  let p : Group := { g0 with slot := 1, place := .pending }
  { demo g0 with
    clk := clk
    groups := [(0, some a), (1, some p)]
    cur := none }

theorem wit_Exchange : (pairS 0).mayExchange 0 1 = true ∧
    ((pairS 1024).group? 1).map (fun y => ((pairS 1024).overdue 1 y, (pairS 1024).longestActive y.quarterId)) = some (true, some 0) ∧
    ((pairS 1023).group? 1).map (fun y => (pairS 1023).overdue 1 y) = some false := by decide

theorem wit_Schedulers : (∃ k, (idle g0).group? 0 = some g0 ∧ g0.token = some k) ∧ (idle g0).running = true ∧ (idle g0).cur = none ∧
    roundRobin ((idle g0).quarter 0).last ((idle g0).choosable 0) = [0] ∧ (idle g0).lateDue 0 g0 = false ∧ g0.pickOpen = some .a :=
  ⟨⟨{ since := 0, runs := 0 }, by decide, by decide⟩, by decide, by decide, by decide, by decide, by decide⟩

theorem wit_Lines : (translate (idle g0) 0 .read true placedPc).toOption = some placedLeaf ∧
    (translate (idle g0) 0 .write true (lineOf placedPc)).toOption = some placedLeaf ∧
    homeB (idle g0) 0 0 placedPc placedLeaf 0 = true ∧ remoteAccess 0 placedPc (leafAttr placedLeaf) = false ∧ ((idle g0).ways 0).length ≠ 0 ∧
    homeB (idle g0) (serveDie 0 (lineOf placedPc) (leafAttr placedLeaf)) 0 (lineOf placedPc) placedLeaf
      (timeOf (idle g0) 0 (remoteAccess 0 (lineOf placedPc) (leafAttr placedLeaf))) = true ∧
    homeB (idle g0) (homeDie (lineOf placedPc)) 0 (lineOf placedPc) placedLeaf 0 = true ∧
    windowOf placedPc ≤ 8 ∧ (leafAttr placedLeaf).sh = 1 ∧ (leafAttr placedLeaf).swm = false ∧ (1 : Die).val ≠ homeDie placedPc ∧
    (idle g0).l2At (l2Key 1 0 placedPc) = none ∧ ((idle g0).dieEntry (lineLoc (idle g0) 0 placedPc placedLeaf)).st = .i ∧
    (idle g0).mem.xiNow = none ∧ State.reset.running = false ∧
    (∀ own : Bool, (idle g0).lineHeld 1 1 placedPc (leafAttr placedLeaf) (lineLoc (idle g0) 0 placedPc placedLeaf) own = false ∧
      { idle g0 with slices := [(sliceKeyOf 1 (homeSlice placedPc), { Slice.reset with sweep := true })] }.lineHeld 1 1 placedPc
        (leafAttr placedLeaf) (lineLoc (idle g0) 0 placedPc placedLeaf) own = true) := by decide

/-! ### Witnesses: arenas -/

/-- The arena of the program's page. -/
def ar0 : ArenaRef := { ctx := 0, header := placedPc, priv := false, sh := 1 }

/-- What the engine holds of it: a counter and a stamp table; a parameter set stands below stamp 1. -/
def hold (ctr : Nat) (stamps : SMap (Option (Nat × Word))) : Arena :=
  { ctx := 0, header := placedPc, drops := [], nsm1 := 1, gbits := 10, grid := 0, ctr := ctr, stamps := stamps,
    sets := [(0, some { q := 0, r := 0, w := 0, fcur := 0, npf := 0, ntot := 0, eta := 0 })], pslot := 0 }

/-- Stamp 1 is live. -/
def hold0 : Arena := hold 5 [(0, some (1, 7))]

/-- A state with that arena open, and bytes of it. -/
def arH (a : Arena) (bytes : List (Nat × Nat)) (ops : List MemOp) : State :=
  let s : State := { sop (op1 .enqueue 0) with groups := [(0, some { g0 with ops := ops })], arenas := [a] }
  bytes.foldl (fun s b => s.setDram (placeOf s ar0 (ar0.header + BitVec.ofNat 52 b.1)) (BitVec.ofNat 8 b.2)) s

def arS (bytes : List (Nat × Nat)) (ops : List MemOp) : State := arH hold0 bytes ops

/-- An operation of the Wings pipe on lane 0, with a stamp and sources. -/
def wop (fn : WingsFn) (st : Nat) (data : SMap Word) (taken : Bool) : MemOp :=
  { op1 (.wings fn) placedPc with
    addrs := [(0, placedPc.toNat), (1, st)]
    data := data
    ticket := taken }

/-- The state of that operation. -/
def wS (bytes : List (Nat × Nat)) (o : MemOp) : State := arS bytes [o]

/-- `AtEngine`, as a test. -/
def atB (s : State) (gid : Nat) (g : Group) (o : MemOp) (fn : WingsFn) (taken : Bool) (r : ArenaRef) : Bool :=
  aloneB s gid g o && decide (o.kind = .wings fn) && o.ticket == taken && decide (o.id < 2 ^ 32) &&
  (match arenaRef g.ctx (o.addr 0) (!o.user) s with
   | .ok x => decide (x = r)
   | .error _ => false) && s.arenaOpen r.ctx r.header && s.arenas.all (fun a => a.drops.isEmpty)

theorem at_of {s : State} {gid : Nat} {g : Group} {o : MemOp} {fn : WingsFn} {taken : Bool} {r : ArenaRef}
    (h : atB s gid g o fn taken r = true) : AtEngine s gid g o fn taken r := by
  simp only [atB, Bool.and_eq_true, decide_eq_true_eq, beq_iff_eq, List.all_eq_true, List.isEmpty_iff] at h
  obtain ⟨⟨⟨⟨⟨⟨h1, h2⟩, h3⟩, h4⟩, h5⟩, h6⟩, h7⟩ := h
  refine ⟨alone_of h1, h2, h3, h4, ?_, h6, fun a ha _ _ => h7 a ha⟩
  split at h5
  · next x hx => rw [hx, of_decide_eq_true h5]
  · cases h5

/-- The rest of an engine's event goes through: the reclamation, the frontier. -/
def restB (s : State) (gid : Nat) (g : Group) (o : MemOp) (r : ArenaRef) (back : Bool) : Bool :=
  let front := fun (s : State) =>
    match writeFront r (s.unsealed g.ctx (o.addr 0) gid o.id) s with
    | .ok _ => true
    | .error _ => false
  if back then
    match reclaimAll r s with
    | .ok (s, none) => front s
    | _ => false
  else front s

/-- The engine's operation succeeds, and the rest goes through. -/
def engB (f : Eng (List Word)) (s : State) (gid : Nat) (g : Group) (o : MemOp) (r : ArenaRef) (back : Bool) : Bool :=
  match f s with
  | .ok (_, s) => restB s gid g o r back
  | .error _ => false

/-- The engine's operation fails with a trap, and the rest goes through. -/
def engBad (f : Eng (List Word)) (s : State) (gid : Nat) (g : Group) (o : MemOp) (r : ArenaRef) (back : Bool) : Bool :=
  match f s with
  | .error (.fail _ _ _ _) => restB s gid g o r back
  | _ => false

/-- A lane that succeeds and one that fails. -/
def rowB (fn : WingsFn) (f : MemOp → ArenaRef → Nat → Eng (List Word)) (back backBad : Bool) (bytes : List (Nat × Nat)) (good bad : MemOp) : Bool :=
  atB (wS bytes good) 0 { g0 with ops := [good] } good fn false ar0 && engB (f good ar0 0) (wS bytes good) 0 { g0 with ops := [good] } good ar0 back &&
  atB (wS bytes bad) 0 { g0 with ops := [bad] } bad fn false ar0 && engBad (f bad ar0 0) (wS bytes bad) 0 { g0 with ops := [bad] } bad ar0 backBad

/-- Two slots in use, which a stamp 1 sees, the second of a light vertex. -/
def slots2 : List (Nat × Nat) :=
  [(4, 1), (24, 2), (4096 + 80, 2), (4096 + 128 + 80, 2), (4096 + 128 + 63, 128)]

theorem wit_EngineRows :
    rowB .drop (fun o r _ => engDrop r (stampOf o)) true false [] (wop .drop 1 [] false) (wop .drop 5 [] false) = true ∧
    rowB .get (fun o r l => engGet r (stampOf o) (srcNat o l 0)) false false slots2 (wop .get 1 [] false) (wop .get 1 [(0, 2)] false) = true ∧
    rowB .connect (fun o r l => engConnect r (stampOf o) (srcNat o l 0) (srcNat o l 1)) false false slots2 (wop .connect 1 [(1, 1)] false)
      (wop .connect 1 [(0, 1)] false) = true := by decide +kernel

theorem wit_EngineRows_more :
    rowB .merge (fun o r l => engMerge r (stampOf o) (srcNat o l 0)) false false slots2 (wop .merge 1 [] false) (wop .merge 1 [(0, 2)] false) = true ∧
    rowB .reweight (fun o r _ => engReweight r (srcNat o 0 0) (srcNat o 0 1 % 65536) (srcNat o 0 1 / 65536) (srcNat o 0 2)) false false []
      (wop .reweight 0 [(1, 1)] false) (wop .reweight 0 [] false) = true ∧
    rowB .retire (fun o r l => engRetire r (srcNat o l 0)) true true slots2 (wop .retire 0 [] false) (wop .retire 0 [(0, 2)] false) = true := by
  decide +kernel

/-- Appends: at the engine, and sealed. -/
def free1 : List (Nat × Nat) := [(32, 0xFF), (33, 0xFF), (34, 0xFF), (35, 0xFF)]

/-- What an append of record 0 gives, and whether the frontier can be written. -/
def appendB (bytes : List (Nat × Nat)) : Bool :=
  let o := wop .append 0 [] false
  match engAppend ar0 (fun k => SMap.get 0 o.data k) (wS bytes o) with
  | .ok ([i, n, n1], s1) => i == 0 && n == 5 && n1 == 0 &&
      (match writeFront ar0 (5 :: s1.unsealed 0 placedPc 0 0) s1 with
       | .ok _ => true
       | .error _ => false)
  | _ => false

theorem wit_EngineAppend : atB (wS free1 (wop .append 0 [] false)) 0 { g0 with ops := [wop .append 0 [] false] } (wop .append 0 [] false) .append false ar0 = true ∧
    appendB free1 = true ∧
    atB (wS free1 (wop .append 0 [] true)) 0 { g0 with ops := [wop .append 0 [] true] } (wop .append 0 [] true) .append true ar0 = true ∧
    restB (wS free1 (wop .append 0 [] true)) 0 { g0 with ops := [wop .append 0 [] true] } (wop .append 0 [] true) ar0 false = true := by decide +kernel

/-- A stamp table of which the first n entries are taken. -/
def taken (n : Nat) : SMap (Option (Nat × Word)) := (List.range n).map (fun k => (k, some (k + 1, 7)))

/-- What a stamp gives, and whether the frontier can be written. -/
def stampB (n : Nat) : Option Nat :=
  let o := wop .stamp 0 [] false
  match engStamp ar0 0 (arH (hold 300 (taken n)) [] [o]) with
  | .ok (n, s1) => if restB s1 0 { g0 with ops := [o] } o ar0 false then some n else none
  | .error _ => none

theorem wit_EngineStamp : atB (wS [] (wop .stamp 0 [] false)) 0 { g0 with ops := [wop .stamp 0 [] false] } (wop .stamp 0 [] false) .stamp false ar0 = true ∧
    (wop .stamp 0 [] false).lanes ≠ 0 ∧ stampB 256 = some (2 ^ 64 - 1) ∧ stampB 255 = some 300 := by decide +kernel

/-- A stamp that waits, below which an append of another group is not sealed, and one below which all are. -/
def stOp : MemOp := { wop .stamp 0 [] true with ptes := [(0, 5)] }
def stampS (first : Nat) : State :=
  let a := { wop .append 0 [] true with ptes := [(0, first)] }
  { wS [] stOp with groups := [(0, some { g0 with ops := [stOp] }), (1, some { g0 with slot := 1, ops := [a] })] }

theorem wit_StampReturn : (∀ first ∈ [4, 5], atB (stampS first) 0 { g0 with ops := [stOp] } stOp .stamp true ar0 = true) ∧
    (∀ m ∈ (stampS 5).unsealed 0 placedPc 0 0, 5 ≤ m) ∧ ¬ (∀ m ∈ (stampS 4).unsealed 0 placedPc 0 0, 5 ≤ m) := by decide +kernel

/-- The ray of a query, from the sources of lane 0. -/
def rayOf (o : MemOp) : Ray :=
  let w := srcNat o 0
  { org := { x := w 0, y := w 1, z := w 2 }, dir := { x := w 3, y := w 4, z := w 5 }, tmin := w 6, tmax := w 7, mask := w 8 % 256 }

/-- A query that misses a BVH of one leaf that holds nothing. -/
def rayOp (any : Bool) (dx : Word) : MemOp :=
  { op1 (.wings (if any then .sightAny else .sight)) placedPc with
    addrs := [(0, placedPc.toNat), (1, placedPc.toNat)]
    data := [(3, dx), (7, 0x40000000), (8, 255)] }

/-- A node without children stands at 0. -/
def nodeS (o : MemOp) : State := (sop o).setDram (lineLoc (sop o) 0 placedPc placedLeaf) 0xB4

/-- The query completes. -/
def queryB (o : MemOp) : Bool :=
  match runQuery { gid := 0, op := o, nodes := o.addr 0, tris := o.addr 1, any := true } (rayOf o) (nodeS o) with
  | .ok (_, s) => decide ((s.group? 0).map (fun x => x.ops) = some [o])
  | .error _ => false

theorem wit_Sightline : aloneB (nodeS (rayOp true 0x3F800000)) 0 (gop (rayOp true 0x3F800000)) (rayOp true 0x3F800000) = true ∧
    (rayOp true 0).id < 2 ^ 32 ∧ queryB (rayOp true 0x3F800000) = true ∧ srcNat (rayOp true 0) 0 3 % 2 ^ 31 = 0 := by decide +kernel

theorem wit_WingsReplies : (∀ fn, Alone (sop (op1 (.wingsReply fn) 0)) 0 (gop (op1 (.wingsReply fn) 0)) (op1 (.wingsReply fn) 0) ∧
      (op1 (.wingsReply fn) 0).id < 2 ^ 32 ∧ (op1 (.wingsReply fn) 0).level = (gop (op1 (.wingsReply fn) 0)).lvl) ∧ 5 + 2 ≤ 28 ∧
    WingsFn.stamp.once = true ∧ WingsFn.get.once = false :=
  ⟨fun _ => ⟨⟨rfl, rfl, rfl, rfl, rfl⟩, Nat.lt_of_sub_eq_succ rfl, rfl⟩, by decide, by decide, by decide⟩

/-- A group of context 1 whose mailbox is set; the context's table, whose entry leads to no page of the save area, or to one. -/
def gbox : Group := { g0 with ctx := 1, tsave := placedPc }
def boxS (mapped : Bool) : State :=
  let s := (tableS [] 0).setGroup 0 gbox
  let s := s.cacheLeaf 1 gbox.mailbox placedLeaf
  let s := if mapped then s.mapFresh 1 placedPc else s
  s.setDram (lineLoc s 1 gbox.mailbox placedLeaf + gbox.mailbox.toNat % 128) 1

/-- The service has mapped the page, and its invalidation runs or is over. -/
def boxListed (busy : Bool) : State :=
  let s := (boxS true).setMapping [(1, placedPc)]
  { s with mem := { s.mem with xiBusy := busy } }

/-- No frame of the pool is left, so that nothing can be mapped. -/
def boxBare : State :=
  let s := boxS false
  { s with mem := { s.mem with pkgPool := packageFrames s, freed := [] } }

theorem wit_Mailbox : gbox.tsave &&& ~~~0xFFFF = placedPc ∧ (idle g0).mailboxAsks g0 = false ∧
    (∀ m : Bool, (boxS m).group? 0 = some gbox ∧ (boxS m).mailboxAsks gbox = true ∧ (boxS m).mapped 1 placedPc = m ∧
      (1, placedPc) ∉ (boxS m).mem.mapping) ∧
    ((boxS false).mapFresh 1 placedPc).mapped 1 placedPc = true ∧
    (boxBare.group? 0 = some gbox ∧ boxBare.mailboxAsks gbox = true ∧ boxBare.mapped 1 placedPc = false ∧
      (boxBare.mapFresh 1 placedPc).mapped 1 placedPc = false) ∧
    (∀ b : Bool, (boxListed b).mailboxAsks gbox = true ∧ (1, placedPc) ∈ (boxListed b).mem.mapping ∧ (boxListed b).mem.xiBusy = b) := by
  decide +kernel

/-- The line of the request is served at home. -/
theorem wit_Mailbox_home : ∀ s ∈ [boxS true, (boxListed false).setMapping []],
    (translate s 1 .write true (gbox.tsave + 0x200000)).toOption = some placedLeaf ∧
    homeB s (homeDie (gbox.tsave + 0x200000)) 1 (gbox.tsave + 0x200000) placedLeaf 0 = true ∧ (gbox.tsave + 0x200000).toNat % 4 = 0 := by
  decide +kernel

/-- The lines of the header, and others. -/
def linesOf (r : ArenaRef) (more : List VA) : List VA :=
  (List.range 32).map (fun k => r.header + BitVec.ofNat 52 (128 * k)) ++ more

/-- One line of `Works`. -/
def lineB (s : State) (r : ArenaRef) (va : VA) : Bool :=
  windowOf va == 8 && va.toNat % 128 == 0 &&
  (match SMap.find? s.mem.tcache (tkey r.ctx va) with
   | some e => e != 0 && (leafAttr e).sh == r.sh && !(leafAttr e).swm && !permBad (leafAttr e) .read r.priv && !s.poisoned (lineKey s r.ctx va e)
   | none => false)

/-- `Works`, as a test, where nothing is known of any slice, no line stands in an L2 and no partition is in force. -/
def worksB (s : State) (r : ArenaRef) (more : List VA) : Bool :=
  r.header.toNat % 4096 == 0 && (linesOf r more).all (lineB s r) && decide ((linesOf r more).map (placeOf s r)).Nodup && s.l2.isEmpty &&
  s.mem.xiNow.isNone && s.mem.flaws.isEmpty && !s.fab.inForce && s.slices.isEmpty && s.links.isEmpty

theorem works_of {s : State} {r : ArenaRef} {more : List VA} {p : VA → Prop} (h : worksB s r more = true)
    (hp : ∀ va, p va → va ∈ linesOf r more) (hh : ∀ va, headerLines r va → p va) : Works s r p := by
  simp only [worksB, Bool.and_eq_true, beq_iff_eq, decide_eq_true_eq, List.all_eq_true, List.isEmpty_iff, Option.isNone_iff_eq_none,
    Bool.not_eq_true'] at h
  obtain ⟨⟨⟨⟨⟨⟨⟨⟨h1, h2⟩, h3⟩, h4⟩, h5⟩, h6⟩, h7⟩, h8⟩, h9⟩ := h
  refine ⟨⟨h1, fun k hk => hh _ ⟨k, hk, rfl⟩⟩, fun va hv => ?_, fun va _ => ?_, fun n _ => by simp [State.link, h9, Link.reset], by simp [h4],
    fun a b ha hb hab => ?_, ⟨h5, h6⟩, by simp [h7]⟩
  · have := h2 va (hp va hv)
    simp only [lineB, Bool.and_eq_true, beq_iff_eq] at this
    obtain ⟨⟨w, al⟩, e⟩ := this
    refine ⟨w, al, ?_⟩
    split at e
    · next x hx =>
      simp only [Bool.and_eq_true, bne_iff_ne, ne_eq, beq_iff_eq, Bool.not_eq_true'] at e
      obtain ⟨⟨⟨⟨e1, e2⟩, e3⟩, e4⟩, e5⟩ := e
      exact ⟨x, hx, e1, e2, e3, e4, e5, by simp [State.l2At, h4]⟩
    · cases e
  · simp [State.slice, h8, Slice.reset, rebaseAt]
  · exact List.inj_on_of_nodup_map h3 (hp a ha) (hp b hb) hab

theorem mem_header {r : ArenaRef} {more : List VA} {va : VA} (h : headerLines r va) : va ∈ linesOf r more := by
  obtain ⟨k, hk, e⟩ := h
  exact List.mem_append_left _ (List.mem_map.2 ⟨k, List.mem_range.2 hk, e.symm⟩)

theorem mem_more {r : ArenaRef} {more : List VA} {va : VA} (h : va ∈ more) : va ∈ linesOf r more := List.mem_append_right _ h

theorem works_header {s : State} {r : ArenaRef} (h : worksB s r [] = true) : Works s r (headerLines r) :=
  works_of h (fun _ => mem_header) (fun _ h => h)

theorem works_slot {s : State} {r : ArenaRef} {i : Nat} (h : worksB s r [slotAddr r i] = true) :
    Works s r (fun va => headerLines r va ∨ va = slotAddr r i) :=
  works_of h (fun va hv => hv.elim mem_header (fun e => mem_more (by simp [e]))) (fun _ h => .inl h)

/-- The engine works on the header of an arena in the program's page, whatever it holds, and on a slot 0. -/
theorem wit_Works : (∀ n ∈ [0, 255, 256], Works (arH (hold 300 (taken n)) [] []) ar0 (headerLines ar0)) ∧
    Works (arH (hold (2 ^ 64 - 2) []) [] []) ar0 (headerLines ar0) ∧
    Works (arS slots2 []) ar0 (fun va => headerLines ar0 va ∨ va = slotAddr ar0 0) ∧
    Works (arS free1 []) ar0 (fun va => headerLines ar0 va ∨ va = slotAddr ar0 0) := by
  refine ⟨fun n h => ?_, works_header (by decide +kernel), works_slot (by decide +kernel), works_slot (by decide +kernel)⟩
  fin_cases h <;> exact works_header (by decide +kernel)

theorem held_hold (ctr : Nat) (xs : SMap (Option (Nat × Word))) : Held (arH (hold ctr xs) [] []) ar0 (hold ctr xs) := rfl

/-- The first free entry is the first, the last, none; an entry of a live stamp stands first, last; a number that no stamp has. -/
theorem wit_Stamps : stampAt (hold 300 []) 0 = none ∧
    (stampAt (hold 300 (taken 255)) 255 = none ∧ ∀ k, k < 255 → stampAt (hold 300 (taken 255)) k ≠ none) ∧
    (∀ k, k < 256 → stampAt (hold 300 (taken 256)) k ≠ none) ∧ stampAt (hold 300 (taken 256)) 0 = some (1, 7) ∧
    stampAt (hold 300 (taken 256)) 255 = some (256, 7) ∧ (∀ k, k < 255 → (stampAt (hold 300 (taken 256)) k).map (fun x => x.1) ≠ some 256) ∧
    (300 < 2 ^ 64 - 2 ∧ 2 ^ 64 - 2 ≤ (hold (2 ^ 64 - 2) []).ctr) := by decide +kernel

theorem wit_Stamps_live : NotLive (hold 300 []) 1 ∧ ¬ NotLive hold0 1 :=
  ⟨fun _ _ _ h => (by cases h), fun h => h 0 7 (by decide) rfl⟩

/-- What the engine holds in the states below. -/
theorem held_arS : ∀ bs ∈ [slots2, free1, free1 ++ [(24, 1)], [(24, 1)], (24, 1) :: (List.range 4).map (fun j => (40 + j, 0xFF))],
    Held (arS bs []) ar0 hold0 := by
  unfold Held
  decide +kernel

/-- A vertex that a stamp sees, and one in an unused slot. -/
theorem wit_Vertices :
    hold0.ctr < 2 ^ 64 - 2 ∧ HdrAt (arS slots2 []) (arS slots2 []) ar0 4 4 1 ∧ HdrAt (arS slots2 []) (arS slots2 []) ar0 24 8 2 ∧
    HoldsAt (arS slots2 []) (arS slots2 []) ar0 (slotAddr ar0 0 + 72) 8 0 ∧ HoldsAt (arS slots2 []) (arS slots2 []) ar0 (slotAddr ar0 0 + 80) 8 2 ∧
    HoldsAt (arS slots2 []) (arS slots2 []) ar0 (slotAddr ar0 2 + 72) 8 0 ∧ HoldsAt (arS slots2 []) (arS slots2 []) ar0 (slotAddr ar0 2 + 80) 8 0 ∧
    (0 ≤ 1 ∧ 0 < 2 ∧ 0 ≠ 2 ^ 64 - 1 ∧ 1 < 2) ∧ ¬ 2 ≤ 1 := by
  unfold HdrAt HoldsAt
  decide +kernel

/-- An arena with an unused slot, one that is full, one with a slot in its free list. -/
theorem wit_Slots :
    (let s := arS free1 []
     HdrAt s s ar0 24 8 0 ∧ HdrAt s s ar0 4 4 0 ∧ HdrAt s s ar0 32 4 (2 ^ 32 - 1) ∧ HdrAt s s ar0 80 8 0 ∧
     HoldsAt s s ar0 (slotAddr ar0 0) 4 0) ∧
    (let s := arS (free1 ++ [(24, 1)]) []
     HdrAt s s ar0 32 4 (2 ^ 32 - 1) ∧ HdrAt s s ar0 24 8 1 ∧ HdrAt s s ar0 4 4 0) ∧
    (let s := arS [(24, 1)] []
     HdrAt s s ar0 32 4 0 ∧ HdrAt s s ar0 24 8 1 ∧ HoldsAt s s ar0 (slotAddr ar0 0) 4 0) := by
  unfold HdrAt HoldsAt
  decide +kernel

theorem wit_Records : (0x40000 : Word).toNat / 2 ^ 18 ≠ 0 ∧ (0x3FFFF : Word).toNat / 2 ^ 18 = 0 ∧
    (0x1000000 : Word).toNat / 2 ^ 24 % 2 ^ 6 ≠ 0 ∧ (0x40FFFFFF : Word).toNat / 2 ^ 24 % 2 ^ 6 = 0 ∧ (0x40FFFFFF : Word).getLsbD 31 = false := by decide

/-- A slot in use, retired or not, with an empty queue; parameters within and outside the limits. -/
theorem wit_Retire :
    (let s := arS ((24, 1) :: (List.range 4).map (fun j => (40 + j, 0xFF))) []
     HdrAt s s ar0 24 8 1 ∧ HoldsAt s s ar0 (slotAddr ar0 0 + 72) 8 0 ∧ HoldsAt s s ar0 (slotAddr ar0 0 + 63) 1 0 ∧
     HdrAt s s ar0 40 4 (2 ^ 32 - 1)) ∧
    (let s := arS [(24, 1), (4096 + 63, 64)] []
     HoldsAt s s ar0 (slotAddr ar0 0 + 63) 1 64) ∧
    (let s := arS [] []
     HdrAt s s ar0 24 8 0 ∧ HdrAt s s ar0 52 4 0) ∧
    (∀ w ∈ [0, 17, 32 * 1023 + 16], w % 32 = 0 ∨ 16 < w % 32 ∨ w / 32 % 1024 ≠ 0) ∧ 2 ^ 28 < 2 ^ 28 + 1 ∧ 0x7F800000 < 0xFFFFFFFF % 2 ^ 31 := by
  unfold HdrAt HoldsAt
  decide +kernel

/-- Slot 1 stands at the tail of the queue of retired slots when slot 0 is retired. -/
theorem wit_Retire_queued :
    (let s := arS [(24, 2), (40, 1)] []
     Works s ar0 (fun va => headerLines ar0 va ∨ va = slotAddr ar0 0 ∨ va = slotAddr ar0 1) ∧ Held s ar0 hold0) ∧
    (let s := arS [(24, 2), (40, 1)] []
     HdrAt s s ar0 24 8 2 ∧ HoldsAt s s ar0 (slotAddr ar0 0 + 72) 8 0 ∧ HoldsAt s s ar0 (slotAddr ar0 0 + 63) 1 0 ∧ HdrAt s s ar0 40 4 1) := by
  refine ⟨⟨works_of (more := [slotAddr ar0 0, slotAddr ar0 1]) (by decide +kernel) (fun va hv => ?_) (fun _ h => .inl h), by unfold Held; decide +kernel⟩, ?_⟩
  · rcases hv with h | h | h
    · exact mem_header h
    · exact mem_more (by simp [h])
    · exact mem_more (by simp [h])
  · unfold HdrAt HoldsAt
    decide +kernel

/-- A grid of cell edge 1.0 whose bucket table lies at the offset 0x8000, of 2^10 buckets. -/
def gridBytes : List (Nat × Nat) := [(46, 10), (54, 0x80), (55, 0x3F), (73, 0x80), (78, 8)]

/-- Where the table lies, and its entry b without a chain. -/
def grid0 : Nat := placedPc.toNat + 0x8000
def emptyAt (b : Nat) : List (Nat × Nat) := (List.range 8).map (fun j => (0x8000 + 8 * b + j, 0xFF))

/-- The bucket of the cell around the origin. -/
def bucket0 : Nat := bucketOf 10 (cellOf 0x3F800000 V3.zero V3.zero)

/-- The fields of `Grid`. -/
def GridHeader (s : State) : Prop :=
  HdrAt s s ar0 46 1 10 ∧ HdrAt s s ar0 52 4 0x3F800000 ∧ HdrAt s s ar0 56 4 0 ∧ HdrAt s s ar0 60 4 0 ∧ HdrAt s s ar0 64 4 0 ∧
  HdrAt s s ar0 72 8 grid0

theorem grid_of {s : State} (h : GridHeader s) : Grid s ar0 10 0x3F800000 grid0 V3.zero :=
  ⟨h.1, h.2.1, h.2.2.1, h.2.2.2.1, h.2.2.2.2.1, h.2.2.2.2.2, by decide⟩

/-- An arena where slot 0 is taken next, of a light vertex that falls into an empty bucket; one where slot 0 stands at the tail of that bucket and
slot 1 is taken. -/
def lightS (tail : Bool) : State :=
  arS ((4, 1) :: free1 ++ gridBytes ++ (if tail then [(24, 1)] else emptyAt bucket0)) []

theorem wit_LightAppend : ∀ tail : Bool,
    (let s := lightS tail
     let i := if tail then 1 else 0
     let last := if tail then 0 else 2 ^ 32 - 1
     let b := entryAddr grid0 bucket0
     Works s ar0 (fun va => headerLines ar0 va ∨ va = slotAddr ar0 i ∨ va = lineOf b ∨ (last ≠ 2 ^ 32 - 1 ∧ va = slotAddr ar0 last)) ∧
     Held s ar0 hold0 ∧ Grid s ar0 10 0x3F800000 grid0 V3.zero ∧ ¬ headerLines ar0 (lineOf b) ∧ lineOf b ≠ slotAddr ar0 i ∧ last ≠ i ∧
     lineOf b ≠ slotAddr ar0 last ∧ HdrAt s s ar0 24 8 i ∧ HdrAt s s ar0 4 4 1 ∧ HdrAt s s ar0 32 4 (2 ^ 32 - 1) ∧ HdrAt s s ar0 80 8 0 ∧
     HoldsAt s s ar0 (slotAddr ar0 i) 4 0 ∧ HoldsAt s s ar0 (b + 4) 4 last ∧ (0x80000000 : Word).getLsbD 31 = true ∧
     (0x80000000 : Word).toNat / 2 ^ 24 % 2 ^ 6 = 0) := by
  have away : ¬ headerLines ar0 (lineOf (entryAddr grid0 bucket0)) := by
    rintro ⟨k, hk, e⟩
    have : ∀ k, k < 32 → lineOf (entryAddr grid0 bucket0) ≠ ar0.header + BitVec.ofNat 52 (128 * k) := by decide +kernel
    exact this k hk e
  intro tail
  cases tail
  · refine ⟨works_of (more := [slotAddr ar0 0, lineOf (entryAddr grid0 bucket0)]) (by decide +kernel) (fun va hv => ?_) (fun _ h => .inl h), by unfold Held; decide +kernel,
      grid_of (by unfold GridHeader HdrAt HoldsAt; decide +kernel), away, ?_⟩
    · rcases hv with h | h | h | ⟨h, _⟩
      · exact mem_header h
      · exact mem_more (by simp [h])
      · exact mem_more (by simp [h])
      · exact absurd rfl h
    · unfold HdrAt HoldsAt
      decide +kernel
  · refine ⟨works_of (more := [slotAddr ar0 1, lineOf (entryAddr grid0 bucket0), slotAddr ar0 0]) (by decide +kernel) (fun va hv => ?_)
      (fun _ h => .inl h), by unfold Held; decide +kernel, grid_of (by unfold GridHeader HdrAt HoldsAt; decide +kernel), away, ?_⟩
    · rcases hv with h | h | h | ⟨_, h⟩
      · exact mem_header h
      · exact mem_more (by simp [h])
      · exact mem_more (by simp [h])
      · exact mem_more (by simp [h])
    · unfold HdrAt HoldsAt
      decide +kernel

/-- Parameter sets in all slots, each in force at a live stamp. -/
def holdSets : Arena :=
  { hold 300 (taken 16) with sets := (List.range 16).map (fun k => (k, some { q := k, r := 0, w := 0, fcur := 0, npf := 0, ntot := 0, eta := 0 })) }

theorem wit_Reweight :
    (∀ k, k < 16 → SetTaken holdSets k) ∧ SetFree hold0 1 ∧ (∀ k, k < 1 → SetTaken hold0 k) ∧
    (let s := arS gridBytes []
     Works s ar0 (headerLines ar0) ∧ Held s ar0 hold0 ∧ HdrAt s s ar0 52 4 0x3F800000 ∧
     ∀ j, j < 16 → HdrAt s s ar0 (128 + 8 * j) 2 0 ∧ HdrAt s s ar0 (130 + 8 * j) 1 0 ∧ HdrAt s s ar0 (132 + 8 * j) 4 0) ∧
    (let s := arH holdSets gridBytes []
     Works s ar0 (headerLines ar0) ∧ Held s ar0 holdSets) ∧
    (0x80000001 > 2 ^ 31 ∧ 0x80000001 ≤ 0xFF800000 ∧ 0x3F800000 < 0x3F800001 ∧ 0x3F800001 ≤ 0x7F800000) := by
  refine ⟨fun k hk => ?_, ⟨by decide, by decide, fun e st l p _ _ hp _ => by cases hp⟩, fun k hk => .inl ((Nat.lt_one_iff.1 hk).trans rfl),
    ⟨works_header (by decide +kernel), by unfold Held; decide +kernel, ?_⟩, ⟨works_header (by decide +kernel), by unfold Held; decide +kernel⟩, by decide⟩
  · have hs : ∀ k, k < 16 → stampAt holdSets k = some (k + 1, 7) ∧
        SMap.get none holdSets.sets k = some { q := k, r := 0, w := 0, fcur := 0, npf := 0, ntot := 0, eta := 0 } := by decide +kernel
    refine .inr ⟨k, k + 1, 7, _, by omega, (hs k hk).1, hk, (hs k hk).2, Nat.lt_succ_self k, fun j x hj hn hx hq => ?_⟩
    rw [(hs j hj).2] at hx
    cases hx
    simp only at hq ⊢
    omega
  · unfold HdrAt HoldsAt
    decide +kernel

theorem inForce_one {a : Arena} {p : ParamSet} (st : Nat) (h : a.sets = [(0, some p)]) (hq : p.q < st) : InForce a st 0 p := by
  refine ⟨by decide, by simp [h, SMap.get], hq, fun j x _ hj hx => ?_⟩
  rw [h] at hx
  simp only [SMap.get] at hx
  split at hx
  · next e => exact absurd e hj
  · cases hx

/-- An eye vertex and a light vertex that stamp 1 sees. -/
theorem wit_Connect :
    (let s := arS slots2 []
     Works s ar0 (fun va => headerLines ar0 va ∨ va = slotAddr ar0 0 ∨ va = slotAddr ar0 1) ∧ Held s ar0 hold0 ∧ InForce hold0 1 0
       { q := 0, r := 0, w := 0, fcur := 0, npf := 0, ntot := 0, eta := 0 }) ∧
    (let s := arS slots2 []
     HdrAt s s ar0 4 4 1 ∧ HdrAt s s ar0 24 8 2 ∧ (∀ i ∈ [0, 1], lineField (slotLine s ar0 i) 72 8 ≠ 2 ^ 64 - 1 ∧
       lineField (slotLine s ar0 i) 72 8 ≤ 1 ∧ 1 < lineField (slotLine s ar0 i) 80 8) ∧
     (vertexOf (slotLine s ar0 0)).light = false ∧ (vertexOf (slotLine s ar0 1)).light = true) := by
  refine ⟨⟨works_of (more := [slotAddr ar0 0, slotAddr ar0 1]) (by decide +kernel) (fun va hv => ?_) (fun _ h => .inl h), by unfold Held; decide +kernel,
    inForce_one 1 rfl (by decide)⟩, ?_⟩
  · rcases hv with h | h | h
    · exact mem_header h
    · exact mem_more (by simp [h])
    · exact mem_more (by simp [h])
  · unfold HdrAt HoldsAt
    decide +kernel

/-- A merge at the eye vertex of slot 0: the light vertex of slot 1 is the chain of its bucket, every other bucket around is empty. -/
def holdM (r : Nat) : Arena := { hold0 with sets := [(0, some { q := 0, r := r, w := 1, fcur := 0, npf := 1, ntot := 1, eta := 0x3F800000 })] }
def around : List Nat := bucketsAround 10 (0, 0, 0)
def mergeS (r : Nat) : State :=
  arH (holdM r) (slots2 ++ gridBytes ++ around.flatMap emptyAt ++ [(0x8000 + 8 * bucket0, 1), (0x8001 + 8 * bucket0, 0), (0x8002 + 8 * bucket0, 0),
    (0x8003 + 8 * bucket0, 0)] ++ (List.range 4).map (fun j => (4096 + 128 + 68 + j, 0xFF))) []
def chain0 (b : Nat) : List Nat := if b = bucket0 then [1] else []

theorem wit_Merge : ∀ r ∈ [0, 0x3F800000],
    Works (mergeS r) ar0 (fun va => headerLines ar0 va ∨ va = slotAddr ar0 0 ∨
      ∃ b ∈ around, va = lineOf (entryAddr grid0 b) ∨ ∃ j ∈ chain0 b, va = slotAddr ar0 j) ∧
    Held (mergeS r) ar0 (holdM r) ∧ InForce (holdM r) 1 0 { q := 0, r := r, w := 1, fcur := 0, npf := 1, ntot := 1, eta := 0x3F800000 } ∧
    Grid (mergeS r) ar0 10 0x3F800000 grid0 V3.zero ∧
    (∀ b ∈ around, (chain0 b).length ≤ 3 ∧ ∃ x, HoldsAt (mergeS r) (mergeS r) ar0 (entryAddr grid0 b) 4 x ∧ Chain (mergeS r) ar0 (chain0 b) x) := by
  have lines : ∀ va, (∃ b ∈ around, va = lineOf (entryAddr grid0 b) ∨ ∃ j ∈ chain0 b, va = slotAddr ar0 j) →
      va ∈ slotAddr ar0 0 :: slotAddr ar0 1 :: (around.map (fun b => lineOf (entryAddr grid0 b))).eraseDups := by
    rintro va ⟨b, hb, h | ⟨j, hj, h⟩⟩
    · have : ∀ b ∈ around, lineOf (entryAddr grid0 b) ∈
          slotAddr ar0 0 :: slotAddr ar0 1 :: (around.map (fun b => lineOf (entryAddr grid0 b))).eraseDups := by decide +kernel
      rw [h]
      exact this b hb
    · unfold chain0 at hj
      split at hj
      · simp only [List.mem_singleton] at hj
        simp [h, hj]
      · cases hj
  have entries : ∀ r ∈ [0, 0x3F800000], (∀ b ∈ around, HoldsAt (mergeS r) (mergeS r) ar0 (entryAddr grid0 b) 4 (if b = bucket0 then 1 else 2 ^ 32 - 1)) ∧
      HoldsAt (mergeS r) (mergeS r) ar0 (slotAddr ar0 1 + 68) 4 (2 ^ 32 - 1) := by
    unfold HoldsAt
    decide +kernel
  intro r hr
  refine ⟨?_, ?_, inForce_one 1 rfl Nat.zero_lt_one, ?_, fun b hb => ⟨?_, _, (entries r hr).1 b hb, ?_⟩⟩
  · refine works_of (more := slotAddr ar0 0 :: slotAddr ar0 1 :: (around.map (fun b => lineOf (entryAddr grid0 b))).eraseDups) ?_ (fun va hv => ?_)
      (fun _ h => .inl h)
    · fin_cases hr <;> decide +kernel
    · rcases hv with h | h | h
      · exact mem_header h
      · exact mem_more (by simp [h])
      · exact mem_more (lines va h)
  · unfold Held
    fin_cases hr <;> decide +kernel
  · fin_cases hr <;> exact grid_of (by unfold GridHeader HdrAt HoldsAt; decide +kernel)
  · unfold chain0
    split <;> decide
  · unfold chain0
    split
    · exact ⟨rfl, by decide, _, (entries r hr).2, rfl⟩
    · rfl

/-- What stands in that bucket is a candidate, once; the merged vertex is one that the stamp sees. -/
theorem wit_Merge_candidates :
    (let s := mergeS 0x3F800000
     let y := vertexOf (slotLine s ar0 0)
     let p : ParamSet := { q := 0, r := 0x3F800000, w := 1, fcur := 0, npf := 1, ntot := 1, eta := 0x3F800000 }
     (candidates s ar0 1 y p around chain0).map (fun e => e.1) = [0] ∧ F32.eq p.r 0 = false ∧ y.light = false ∧ cellOf 0x3F800000 V3.zero y.pos = (0, 0, 0) ∧
     lineField (slotLine s ar0 0) 72 8 ≤ 1 ∧ 1 < lineField (slotLine s ar0 0) 80 8) := by decide +kernel

/-! ### Witnesses: launches and placement -/

/-- A launch of one team of a context: its dependence, its completion word. -/
def blk (dep : Bool) (cmpva : VA) (teams : Word) (ctx : Ctx) (pair : Bool) : LaunchBlock :=
  { entry := placedPc.setWidth 64, tdim := (teams, 1, 1), gwc := 0, ngrp := 1, nvr := 96, ntile := 8, scrb := 16384, fifon := 0, prio := 0, pair := pair, dep := dep, ctx := ctx, depva := placedPc.setWidth 64, depval := 1, cmpva := cmpva.setWidth 64, argp := 0 }

/-- A state with that launch. -/
def launched (l : Launch) : State :=
  { idle g0 with launches := [(1, some l)] }

/-- The launch as the Cue Unit accepts it. -/
def la (b : LaunchBlock) : Launch := Launch.fresh b 0 0 1

theorem wit_Dependence :
    (let l := la (blk true 0 1 0 false)
     (launched l).launch? 1 = some l ∧ l.queued = true ∧ l.ready = false ∧ l.blk.dep = true ∧ l.faultSent = false ∧
     ((launched l).channel l.blk.ctx true false (vaOf l.blk.depva)).toOption = some placedLeaf ∧ windowOf (vaOf l.blk.depva) ≤ 8 ∧
     (leafAttr placedLeaf).swm = false ∧
     lineField ((launched l).dramLine (lineLoc (launched l) 0 (vaOf l.blk.depva) placedLeaf)) ((vaOf l.blk.depva).toNat % 128) 8 < l.blk.depval.toNat) ∧
    (let l := { la (blk true 0 1 0 false) with blk := { blk true 0 1 0 false with depval := 0 } }
     (launched l).launch? 1 = some l ∧ l.blk.depval.toNat ≤ 0) ∧
    (let l := { la (blk true 0 1 0 false) with blk := { blk true 0 1 0 false with depva := 0 } }
     ((launched l).channel l.blk.ctx true false (vaOf l.blk.depva)).toOption = none) := by decide

/-- A LAUNCH that waits for its answer. -/
theorem wit_LaunchAnswer :
    (∀ va : VA, Alone (sop (op1 (.launch va) 0)) 0 (gop (op1 (.launch va) 0)) (op1 (.launch va) 0) ∧
      (op1 (.launch va) 0).level = (gop (op1 (.launch va) 0)).lvl) ∧ 5 + 2 ≤ 28 ∧
    (placedPc + 4).toNat % 128 ≠ 0 ∧ placedPc.toNat % 128 = 0 ∧
    ((sop (op1 (.launch placedPc) 0)).channel 0 true false placedPc).toOption = some placedLeaf ∧
    homeB (sop (op1 (.launch placedPc) 0)) (serveDie 0 placedPc (leafAttr placedLeaf)) 0 placedPc placedLeaf 0 = true :=
  ⟨fun _ => ⟨⟨rfl, rfl, rfl, rfl, rfl⟩, rfl⟩, by decide, by decide, by decide, by decide, by decide⟩

/-- A launch of n teams that owes an increment. -/
def owing (teams : Word) (incs : Nat) (cmpva : VA) : Launch :=
  { la (blk false cmpva teams 0 false) with
    incs := incs
    pendingIncs := 1 }

theorem wit_Increments : (∀ r ∈ [(2, 0), (1, 0), (1, 1)],
      (let l := owing r.1 r.2 placedPc
       (launched l).launch? 1 = some l ∧ 0 < l.pendingIncs ∧ ((launched l).context? l.blk.ctx.toNat).any (fun x => x.killed) = false ∧
       l.discarding = false ∧ ((launched l).channel l.blk.ctx true true (vaOf l.blk.cmpva)).toOption = some placedLeaf ∧
       ((launched l).slice (serveSlice (l.die * 64) placedPc (leafAttr placedLeaf))).sweep = false ∧
       homeB (launched l) (homeDie placedPc) l.blk.ctx (vaOf l.blk.cmpva) placedLeaf 0 = true)) ∧ placedPc.toNat % 8 = 0 ∧
    (owing 2 0 placedPc).incs + 1 < (owing 2 0 placedPc).blk.teams ∧ (owing 1 0 placedPc).incs + 1 = (owing 1 0 placedPc).blk.teams ∧
    (owing 1 1 placedPc).incs = (owing 1 1 placedPc).blk.teams ∧
    (let l := owing 2 0 8
     ((launched l).channel l.blk.ctx true true (vaOf l.blk.cmpva)).toOption = none ∧ windowOf (vaOf l.blk.cmpva) ≠ 10 ∧
     l.incs + 1 < l.blk.teams) := by decide

/-- A team of which every group has ended. -/
def endedT : Team := { team1 0 [] with lid := 1, ended := [0] }

/-- The state of that team. -/
def teamEndS (teams : Word) (cmpva : VA) : State :=
  { launched (la (blk false cmpva teams 0 false)) with teams := [(0, some endedT)] }

theorem wit_TeamEnd : ∀ teams cmpva, (teamEndS teams cmpva).team? 0 = some endedT ∧ endedT.groups ≠ [] ∧ (∀ i, i < endedT.groups.length → i ∈ endedT.ended) ∧
    (teamEndS teams cmpva).launch? endedT.lid = some (la (blk false cmpva teams 0 false)) := fun _ _ => ⟨rfl, by decide, by decide, rfl⟩

/-- A queued launch of context 1. -/
def queuedS (pair : Bool) (clk : Nat) : State :=
  let s := cueS []
  { s with
    groups := []
    cores := []
    cur := none
    clk := clk
    banks := [(bankKey 0 40, some { Bank.reset 40 with mode := .scratch })]
    launches := [(1, some (la (blk false 0 1 1 pair)))]
    dies := [(0, { DieState.reset with queues := [(0, [1])] })] }

theorem wit_Aging : (let s := queuedS false (2 ^ 20)
    let l := la (blk false 0 1 1 false)
    s.launch? 1 = some l ∧ l.queued = true ∧ l.ready = true ∧ l.level < 7 ∧ l.agedFrom + 2 ^ 20 ≤ s.clk ∧ ((s.die 0).queue 1).length < 64) ∧
    (queuedS false (2 ^ 20 - 1)).clk < (la (blk false 0 1 1 false)).agedFrom + 2 ^ 20 := by decide

theorem wit_Placement : ∀ pair : Bool,
    (let s := queuedS pair 0
     let l := la (blk false 0 1 1 pair)
     (s.die 0).placeAt ≤ s.clk ∧ s.urgency 0 = [(1, l)] ∧ l.die = 0 ∧ s.clk < l.agedFrom + 2 ^ 20 ∧ l.ready = true ∧ (∀ c, c < 64 → (s.core (coreKey 0 c)).claim = none) ∧
     s.chooseCore 1 l.blk 0 = some 0 ∧
     ∀ c ∈ l.blk.cores 0, ∀ q, q < 4 → ∀ n, n < 16 → (s.group? (gidOf 0 c q n)).isNone = true) := by decide +kernel

theorem wit_Placement_late : (let s := { queuedS false 0 with dies := [(0, { DieState.reset with placeAt := 64 })] }
    s.clk < (s.die 0).placeAt) := by decide

/-- A core of which context 1 is active and drains, in shadow, or in memory. -/
def coreS (k : Core) (base : Nat) : State :=
  let s := cueS []
  let g : Group := { g0 with ctx := 1 }
  let s : State := { s with
    groups := [(0, some g)]
    cur := none
    cores := [(0, k)]
    dies := [(0, { DieState.reset with cimtab := 0x100000 })] }
  s.setPhys 0x100008 (bytesNat 8 base)

/-- The group of that core. -/
def g1 : Group := { g0 with ctx := 1 }

theorem wit_Shadows :
    (let k : Core := { Core.reset with active := some 1, switching := true, shadows := [{ ctx := 2, since := 0 }] }
     let s := coreS k 0
     (s.core 0).active = some 1 ∧ (s.core 0).switching = true ∧ s.drained 0 1 = true ∧ (s.core 0).shadows.length < 2 ∧
     s.groupsOn 0 1 = [(0, g1)]) ∧
    (let k : Core := { Core.reset with shadows := [{ ctx := 1, since := 0 }] }
     let s := coreS k 0x200001
     (s.core 0).switching = false ∧ s.occupied 0 0 = false ∧ s.highShadow 0 = some 1 ∧ s.groupsOn 0 1 = [(0, g1)] ∧
     s.activeCount g1.die g1.core g1.quarter < 8 ∧ s.imageEntry 0 1 ≠ 0 ∧ g1.undone = [] ∧ s.l2 = [] ∧ g1.quarter < 4 ∧ g1.slot < 16 ∧
     g1.nvr ≤ 96 ∧ g1.ntile ≤ 8 ∧ g1.gwc ≤ 2 ∧ g1.stack.length ≤ 64) := by decide

/-- Context 1 in memory, with a whole image or none. -/
def imageS (whole : Bool) : State :=
  let s := coreS { Core.reset with inMem := [1] } 0x200000
  if whole then
    (((s.setPhys 0x200000 (bytesNat 4 0x4358494D ++ bytesNat 1 1)).setPhys 0x200008 (bytesNat 8 1)).setPhys 0x210698 (bytesNat 4 1)).setPhys 0x2106AC (bytesNat 1 96 ++ bytesNat 1 8)
  else s

theorem wit_StreamIn : (∀ whole : Bool, (1 : Ctx) ∈ ((imageS whole).core 0).inMem ∧ ((imageS whole).core 0).shadows.length < 2 ∧
      (imageS whole).groupsOn 0 1 = [(0, g1)] ∧
      (let s := imageS whole
       let base := s.imageEntry 0 1 % 2 ^ 48 + 0 % 64 * 0x210000
       let rec_ := base + 0x10000 + 0x4000 * (16 * g1.quarter + g1.slot)
       (headerRange [(0, g1)] 1 0 (fun o n => s.phys (base + o) n) && recordRange g1 (fun o n => s.phys (rec_ + o) n)) = whole)) := by
  decide +kernel

/-! ### Witnesses: invalidations -/

theorem wit_Invalidations : (∀ x ∈ [Span.page 0 placedPc, .context 0, .all],
      (let s := { demo g0 with mem := { State.reset.mem with xiBusy := true, xiNow := some x, xiWait := [x] } }
       s.mem.xiNow = some x)) ∧ (demo g0).mem.xiNow = none ∧ windowOf placedPc ≠ 10 ∧
    ((demo g0).channelMiB < (2049 : Word).toNat ∧ (2048 : Word).toNat ≤ (demo g0).channelMiB) ∧
    (State.reset.contexts.all (fun e => e.1 == 0) = true ∧ (cueS []).contexts.any (fun e => e.1 != 0 && e.2.isSome) = true) := by decide

end Sys2Proof.Tests
end

/-! Steps that run no word, or land an event (O6). -/

namespace Sys2Proof.Machine

open Sys2Proof

/-- A run in progress goes on with its next word, where no event waits or the first one waits for the run (R211). -/
theorem step_run {s : State} {c : Cursor} {g : Group}
    (ha : s.agenda = [] ∨ ∃ i rest, s.agenda = i :: rest ∧ afterRun i = true)
    (hc : s.cur = some c) (hg : s.group? c.gid = some g) (hr : s.running = true) : step s = stepWord s c g := by
  obtain ha | ⟨i, rest, ha, hi⟩ := ha
  · simp [step, stepRun, ha, hc, hg, hr]
  · simp [step, stepRun, ha, hc, hg, hr, hi]

/-- The first event of the agenda lands, where no run is in progress or it need not wait for one (R211). -/
theorem step_event {s : State} {i : Instr} {rest : List Instr} (ha : s.agenda = i :: rest)
    (hc : s.cur = none ∨ afterRun i = false) : step s = stepEvent s i rest := by
  cases hcur : s.cur with
  | none => simp [step, ha, hcur]
  | some c =>
    have hi : afterRun i = false := hc.resolve_left (by simp [hcur])
    simp [step, ha, hcur, hi]

/-- Whatever refuses a fetch at the PC of a slot, the trap reports the PC and the enabled lanes of the slot (R251). -/
theorem fetchLeaf_error {s : State} {g : Group} {sel : PcSel} {va : VA} {t : TrapInfo}
    (h : fetchLeaf s g sel va = .error t) : t.addr = (g.slotOf sel).pc ∧ t.mask = g.en0 sel := by
  have key : ∃ cause info, t = g.fetchTrap sel cause info := by
    unfold fetchLeaf at h
    dsimp only at h
    repeat' split at h
    all_goals cases h
    all_goals exact ⟨_, _, rfl⟩
  obtain ⟨cause, info, rfl⟩ := key
  exact ⟨rfl, rfl⟩

/-- A word whose fetch faults: its group takes the fault, unless a speculation holds it back (R133, R250). -/
theorem stepWord_fault {s : State} {c : Cursor} {g : Group} {t : TrapInfo} (hw : s.fetchWaits g c.sel = none)
    (hf : fetchLeaf s g c.sel (g.slotOf c.sel).pc = .error t) :
    stepWord s c g = .next (if s.speculates c.gid then s.stall c.gid c.sel true
      else s.takeTrap c.gid c.sel t (g.slotOf c.sel).pc 0 0) := by
  simp [stepWord, hw, fetch, hf]

/-- The events that IO0 carries out by itself (R27). -/
theorem ioEvent_iff (i : Instr) :
    ioEvent i = true ↔ i ∈ [Instr.eventWrite, .cueAttest, .thermalTripEvent, .thermTripNAssert] := by
  unfold ioEvent
  split <;> simp_all

/-- Where the clocks run every event lands; where they stand still, those of IO0 alone (R27). -/
theorem lands_iff (s : State) (i : Instr) :
    s.lands i = true ↔ s.running = true ∨ i ∈ [Instr.eventWrite, .cueAttest, .thermalTripEvent, .thermTripNAssert] := by
  simp only [State.lands, Bool.or_eq_true, ioEvent_iff]

/-- Settles O6: each clause is one branch of `step`. -/
theorem stepOtherwise : Obligations.StepOtherwise := by
  unfold Obligations.StepOtherwise
  refine ⟨?_, ?_, ?_, ?_⟩
  · intro s c g t ha hc hg hr hw hf
    exact ⟨(step_run (.inl ha) hc hg hr).trans (stepWord_fault hw hf), fetchLeaf_error hf⟩
  · intro s t c g ha hc hg hr hw
    rw [step_run (.inl ha) hc hg hr]
    simp [stepWord, hw]
  · intro s i rest ha hc
    rw [step_event ha hc]
    refine ⟨fun hi hl => ?_, fun hi hr hl => ?_, fun hi => by simp [stepEvent, hi]⟩
    · simp [stepEvent, hi, (lands_iff s i).2 hl]
    · have hn : s.lands i = false := by
        rw [Bool.eq_false_iff, Ne, lands_iff]
        simp only [hr, Bool.false_eq_true, false_or]
        exact hl
      simp [stepEvent, hi, hn]
  · intro s c g i rest ha hi hc hg hr
    exact step_run (.inr ⟨i, rest, ha, hi⟩) hc hg hr

end Sys2Proof.Machine

/-! A die's request where the map of L2 lines lists one key twice (O56). -/

namespace Sys2Proof.Machine

open Sys2Proof

/-- An address of window 8 whose line CD1 homes. -/
def doubledVa : VA := 0x8000000002000

/-- The location of its line through `placedLeaf`. -/
def doubledLoc : Nat := lineLoc State.reset 0 doubledVa placedLeaf

/-- An L2's copy of that line with these bytes dirty. -/
def doubledCopy (dirty : BitVec 128) : L2Line :=
  { st := .s, wts := 0, rts := 0, attr := leafAttr placedLeaf, loc := doubledLoc, dirty := dirty, data := 0, touched := 0 }

/-- A running package whose L2 map is not in canonical form: it lists the key of CD1's copy twice, first with no line, so that a lookup
finds none while the list still shows a copy. CD2 holds a copy with a dirty byte. -/
def doubledState : State :=
  { State.reset with
    pkg := { State.reset.pkg with dieReset := false }
    mem := { State.reset.mem with tcache := [(tkey 0 doubledVa, placedLeaf)] }
    l2 := [(l2Key 1 0 doubledVa, none), (l2Key 1 0 doubledVa, some (doubledCopy 0)), (l2Key 2 0 doubledVa, some (doubledCopy 1))] }

/-- Nothing holds a request of CD0 for that line. -/
theorem doubledState_free (own : Bool) :
    doubledState.lineHeld 0 0 doubledVa (leafAttr placedLeaf) (lineLoc doubledState 0 doubledVa placedLeaf) own = false := by
  revert own
  decide +kernel

/-- CD0 takes ownership of the line, and a lookup then finds CD1's copy: its removal met the entry without a line and did nothing,
and the writeback of CD2's copy, which goes by the list, wrote the listed copy to the key. -/
theorem doubledState_revives :
    ((doubledState.dieRequest 0 true 0 doubledVa).1.l2At (l2Key 1 0 doubledVa)).map (fun x => x.loc) =
      some (lineLoc doubledState 0 doubledVa placedLeaf) := by
  decide +kernel

/-- The request goes through at once. -/
theorem doubledState_served :
    exec (.interdieCoherenceRequest 0 true 0 doubledVa) doubledState = .next (doubledState.dieRequest 0 true 0 doubledVa).1 := by
  have hgo : (doubledState.dieRequest 0 true 0 doubledVa).2 = true := by decide +kernel
  have hrun : doubledState.running = true := rfl
  show execInterdieCoherenceRequest 0 true 0 doubledVa doubledState = _
  simp only [execInterdieCoherenceRequest, hrun, Bool.not_true, Bool.false_eq_true, if_false]
  split
  next h => exact congrArg (fun r => Host.Outcome.next r.1) h.symm
  next h => exact absurd (h ▸ hgo) (by simp)

/-- Refutes O56 in its last clause: that an ownership request leaves a copy on no other die fails in a state whose map of L2 lines is not
in canonical form (`SMap.wf`), which the statement does not exclude. `doubledState` lists the key of CD1's copy twice, and CD1's copy can
be looked up after CD0 has taken ownership. -/
theorem not_groupAndSliceEvents : ¬ Obligations.GroupAndSliceEvents := by
  unfold Obligations.GroupAndSliceEvents
  rintro ⟨-, -, -, -, -, -, -, -, -, -, -, -, -, -, -, -, hdie⟩
  have habsent : doubledState.l2At (l2Key 0 (tagFor 0 doubledVa) doubledVa) = none := by decide
  obtain ⟨-, -, hserve⟩ := hdie doubledState 0 0 doubledVa placedLeaf placedLeaf rfl rfl (by decide) (by decide) (by decide) (by decide)
    (by decide) rfl (fun x hx => absurd (habsent.symm.trans hx) (by simp)) (by decide) rfl
  obtain ⟨t, u, ht, -, -, -, -, honly, -⟩ := hserve rfl (fun own => by simpa using doubledState_free own)
  rw [doubledState_served] at ht
  obtain rfl : (doubledState.dieRequest 0 true 0 doubledVa).1 = t := by simpa using ht
  obtain ⟨x, hx, hloc⟩ := Option.map_eq_some_iff.1 doubledState_revives
  have : l2KeyDie (l2Key 1 0 doubledVa) = 0 := honly _ x hx hloc
  exact absurd this (by decide)

end Sys2Proof.Machine

/-! Fields of the 64-byte blocks that the device sends (R68). -/

namespace Sys2Proof.Machine

open Sys2Proof

/-- Byte `i` of a block after an overlay: a byte of the overlay where that covers it. -/
theorem getElem?_overlay {bs xs : List Byte} {off : Nat} (h : off + xs.length ≤ bs.length) (i : Nat) :
    (overlay bs off xs)[i]? = if off ≤ i ∧ i < off + xs.length then xs[i - off]? else bs[i]? := by
  have hoff : min off bs.length = off := by omega
  simp only [overlay, List.append_assoc, List.getElem?_append, List.length_take, hoff, List.getElem?_take, List.getElem?_drop]
  by_cases h1 : i < off
  · simp [h1, Nat.not_le.2 h1]
  · by_cases h2 : i - off < xs.length
    · rw [if_neg h1, if_pos h2, if_pos (by omega)]
    · rw [if_neg h1, if_neg h2, if_neg (by omega)]
      congr 1
      omega

theorem length_overlay {bs xs : List Byte} {off : Nat} (h : off + xs.length ≤ bs.length) :
    (overlay bs off xs).length = bs.length := by
  simp only [overlay, List.length_append, List.length_take, List.length_drop]
  omega

/-- Every field of a block lies within its 64 bytes. -/
def FieldsFit (fs : List (Nat × List Byte)) : Prop := ∀ e ∈ fs, e.1 + e.2.length ≤ 64

/-- No field of a list covers byte `i`. -/
def FieldsMiss (i : Nat) (fs : List (Nat × List Byte)) : Prop := ∀ e ∈ fs, i < e.1 ∨ e.1 + e.2.length ≤ i

/-- Overlays of fields keep the length, and every byte that none of them covers. -/
theorem foldl_overlay_miss (fs : List (Nat × List Byte)) (bs : List Byte) (hb : bs.length = 64) (hf : FieldsFit fs) :
    (fs.foldl (fun bs e => overlay bs e.1 e.2) bs).length = 64 ∧
    ∀ i, FieldsMiss i fs → (fs.foldl (fun bs e => overlay bs e.1 e.2) bs)[i]? = bs[i]? := by
  induction fs generalizing bs with
  | nil => exact ⟨hb, fun _ _ => rfl⟩
  | cons e fs ih =>
    have he : e.1 + e.2.length ≤ bs.length := hb ▸ hf e (List.mem_cons_self ..)
    obtain ⟨hl, hi⟩ := ih (overlay bs e.1 e.2) ((length_overlay he).trans hb) (fun x hx => hf x (List.mem_cons_of_mem _ hx))
    refine ⟨hl, fun i hm => ?_⟩
    have hmiss : ¬(e.1 ≤ i ∧ i < e.1 + e.2.length) := by
      have := hm e (List.mem_cons_self ..)
      omega
    rw [List.foldl_cons, hi i (fun x hx => hm x (List.mem_cons_of_mem _ hx)), getElem?_overlay he, if_neg hmiss]

/-- A byte of a block is that of the last field that covers it. -/
theorem getElem?_block64 {pre post : List (Nat × List Byte)} {off i : Nat} {xs : List Byte}
    (hf : FieldsFit (pre ++ (off, xs) :: post)) (hi : off ≤ i ∧ i < off + xs.length) (hm : FieldsMiss i post) :
    (block64 (pre ++ (off, xs) :: post))[i]? = xs[i - off]? := by
  have hpre : FieldsFit pre := fun e he => hf e (List.mem_append_left _ he)
  have hpost : FieldsFit post := fun e he => hf e (by simp [he])
  obtain ⟨hl, -⟩ := foldl_overlay_miss pre (List.replicate 64 0) (by simp) hpre
  have hx : off + xs.length ≤ (pre.foldl (fun bs e => overlay bs e.1 e.2) (List.replicate 64 0)).length := by
    rw [hl]
    exact hf (off, xs) (by simp)
  rw [block64, List.foldl_append, List.foldl_cons,
    (foldl_overlay_miss post _ ((length_overlay hx).trans hl) hpost).2 i hm, getElem?_overlay hx, if_pos hi]

/-- A field of one byte. -/
theorem field_one {bs : List Byte} {off : Nat} {b : Byte} (h : bs[off]? = some b) : field bs off 1 = b.toNat := by
  obtain ⟨hlt, hb⟩ := List.getElem?_eq_some_iff.1 h
  simp [field, List.drop_eq_getElem_cons hlt, hb, natOfBytes]

/-- The first byte of field `k` of a block, where no later field covers it. -/
theorem field_block64 {fs : List (Nat × List Byte)} {k off : Nat} {b : Byte} {xs : List Byte} (hf : FieldsFit fs)
    (hk : fs[k]? = some (off, b :: xs)) (hm : FieldsMiss off (fs.drop (k + 1))) : field (block64 fs) off 1 = b.toNat := by
  obtain ⟨hlt, hx⟩ := List.getElem?_eq_some_iff.1 hk
  have hfs : fs = fs.take k ++ (off, b :: xs) :: fs.drop (k + 1) := by
    rw [← hx, ← List.drop_eq_getElem_cons hlt, List.take_append_drop]
  refine field_one ?_
  rw [hfs, getElem?_block64 (hfs ▸ hf) (by simp) hm]
  simp

@[simp] theorem length_bytesNat (n x : Nat) : (bytesNat n x).length = n := by simp [bytesNat]

@[simp] theorem length_bytesOfWord (w : Word) : (bytesOfWord w).length = 4 := rfl

@[simp] theorem length_padTo (n : Nat) (bs : List Byte) : (padTo n bs).length = n := by
  simp only [padTo, List.length_take, List.length_append, List.length_replicate]
  omega

/-- The BOOT_RECORD that a start cause gives (R69). -/
def bootEvent (s : State) (cause : Nat) : Event :=
  { kind := 0x01, src := srcIo, body := [(16, bytesOfWord (if cause = 2 then 0 else s.pkg.imgVer)),
    (20, bytesNat 1 s.pkg.diesUp.toNat), (21, bytesNat 1 cause),
    (22, [s.pkg.fstart.why0, s.pkg.fstart.why1, s.pkg.fstart.why2]), (25, bytesNat 1 s.pkg.fstart.count),
    (26, bytesNat 2 s.memoryGiB), (32, (padTo 64 s.pkg.measure).take 32)] }

theorem bootRecord_eq (s : State) (cause : Nat) : s.bootRecord cause = s.hwEvent (bootEvent s cause) := rfl

/-- What BOOT_RECORD says of the start: its cause, the newest reason code, the count. -/
theorem bootEvent_fields (s : State) (cause : Nat) (n : Word) :
    field ((bootEvent s cause).bytes n) 4 1 = 0x01 ∧ field ((bootEvent s cause).bytes n) 21 1 = cause % 256 ∧
    field ((bootEvent s cause).bytes n) 22 1 = s.pkg.fstart.why0.toNat ∧
    field ((bootEvent s cause).bytes n) 25 1 = s.pkg.fstart.count % 256 := by
  have hfit : FieldsFit ([(0, bytesOfWord n), (4, bytesNat 1 0x01), (5, bytesNat 1 srcIo), (8, bytesOfWord 0), (12, bytesNat 1 0)] ++
      (bootEvent s cause).body) := by
    simp [FieldsFit, bootEvent]
  refine ⟨(field_block64 (k := 1) hfit rfl ?_).trans ?_, (field_block64 (k := 7) hfit rfl ?_).trans ?_,
    field_block64 (k := 8) hfit rfl ?_, (field_block64 (k := 9) hfit rfl ?_).trans ?_⟩
  all_goals simp [FieldsMiss, bootEvent]

end Sys2Proof.Machine

/-! What telling the host changes (R70): the hold, what waits for room in it, the counts of both. -/

namespace Sys2Proof.Machine

open Sys2Proof Sys2Proof.Claims

/-- What the host has been sent is neither lost nor acknowledged: the hold and the events that wait for it have only grown, the cue
and event counts and the ring are the same. -/
structure HostGrows (s t : State) : Prop where
  hold    : s.host.hold ⊆ t.host.hold
  wait    : s.host.waitEvts ⊆ t.host.waitEvts
  cueRcvd : t.host.cueRcvd = s.host.cueRcvd
  evtSent : t.host.evtSent = s.host.evtSent
  store   : t.host.store = s.host.store
  ringOk  : t.host.ringOk = s.host.ringOk

theorem HostGrows.of_eq {s t : State} (h : t.host = s.host) : HostGrows s t := by
  constructor <;> simp [h]

theorem HostGrows.refl (s : State) : HostGrows s s := .of_eq rfl

theorem HostGrows.trans {s t u : State} (h : HostGrows s t) (h' : HostGrows t u) : HostGrows s u :=
  ⟨List.Subset.trans h.hold h'.hold, List.Subset.trans h.wait h'.wait, h'.cueRcvd.trans h.cueRcvd, h'.evtSent.trans h.evtSent, h'.store.trans h.store,
    h'.ringOk.trans h.ringOk⟩

/-! ### Hardware events -/

@[simp] theorem hwEvent_pkg (s : State) (e : Event) : (s.hwEvent e).pkg = s.pkg := by unfold State.hwEvent; split <;> rfl
@[simp] theorem hwEvent_mem (s : State) (e : Event) : (s.hwEvent e).mem = s.mem := by unfold State.hwEvent; split <;> rfl
@[simp] theorem hwEvent_contexts (s : State) (e : Event) : (s.hwEvent e).contexts = s.contexts := by
  unfold State.hwEvent; split <;> rfl
@[simp] theorem hwEvent_groups (s : State) (e : Event) : (s.hwEvent e).groups = s.groups := by unfold State.hwEvent; split <;> rfl
@[simp] theorem hwEvent_die (s : State) (e : Event) (d : Nat) : (s.hwEvent e).die d = s.die d := by
  unfold State.hwEvent; split <;> rfl
@[simp] theorem hwEvent_link (s : State) (e : Event) (n : Nat) : (s.hwEvent e).link n = s.link n := by
  unfold State.hwEvent; split <;> rfl

/-- An event of the hardware stands in the hold when that has room (R70). -/
theorem hwEvent_reported (s : State) (e : Event) : Reported s (s.hwEvent e) 0 e := by
  intro hroom
  refine ⟨s.host.evtNext, ?_⟩
  simp [State.hwEvent, (show s.host.hold.length < holdSize from hroom), State.holdEvent]

theorem hwEvent_grows (s : State) (e : Event) : HostGrows s (s.hwEvent e) := by
  unfold State.hwEvent
  split
  · exact ⟨List.subset_append_left .., List.Subset.refl _, rfl, rfl, rfl, rfl⟩
  · exact ⟨List.Subset.refl _, List.Subset.refl _, rfl, rfl, rfl, rfl⟩

/-- A start reports itself: BOOT_RECORD with its cause, the reason code and the count that stand at its end (R69, R77). -/
theorem bootRecord_records {s u : State} (cause : Nat) (hh : u.host = s.host) : BootRecord s (u.bootRecord cause) cause := by
  intro hroom
  obtain ⟨n, hn⟩ := hwEvent_reported u (bootEvent u cause) (by simpa [hh] using hroom)
  refine ⟨_, bootRecord_eq u cause ▸ hn, ?_⟩
  simpa [bootRecord_eq] using bootEvent_fields u cause n

/-! ### Events of the Directors -/

@[simp] theorem dirBytes_pkg (s : State) (bs : List Byte) : (s.dirBytes bs).pkg = s.pkg := by
  unfold State.dirBytes; split <;> rfl
@[simp] theorem dirBytes_contextOf (s : State) (bs : List Byte) (c : Nat) : (s.dirBytes bs).context? c = s.context? c := by
  unfold State.dirBytes; split <;> rfl

theorem dirBytes_grows (s : State) (bs : List Byte) : HostGrows s (s.dirBytes bs) := by
  unfold State.dirBytes
  split
  · exact ⟨List.subset_append_left .., List.Subset.refl _, rfl, rfl, rfl, rfl⟩
  · exact ⟨List.Subset.refl _, List.subset_append_left .., rfl, rfl, rfl, rfl⟩

/-- The bytes of a Director's event have gone to the hold under some number, or wait for room in it. -/
def Sent (t : State) (bs : List Byte) : Prop :=
  (∃ n : Word, overlay bs 0 (bytesOfWord n) ∈ t.host.hold) ∨ bs ∈ t.host.waitEvts

theorem Sent.grow {s t : State} {bs : List Byte} (h : Sent s bs) (hg : HostGrows s t) : Sent t bs :=
  h.imp (fun ⟨n, hn⟩ => ⟨n, hg.hold hn⟩) (fun hw => hg.wait hw)

theorem dirBytes_sent (s : State) (bs : List Byte) : Sent (s.dirBytes bs) bs := by
  unfold State.dirBytes
  split
  · exact .inl ⟨s.host.evtNext, by simp [State.holdEvent]⟩
  · exact .inr (by simp)

theorem foldl_dirBytes_grows (xs : List (List Byte)) (s : State) : HostGrows s (xs.foldl State.dirBytes s) :=
  List.foldlRecOn xs State.dirBytes (.refl s) (fun t ht bs _ => ht.trans (dirBytes_grows t bs))

theorem foldl_dirBytes_sent {xs : List (List Byte)} {bs : List Byte} (h : bs ∈ xs) (s : State) :
    Sent (xs.foldl State.dirBytes s) bs := by
  induction xs generalizing s with
  | nil => simp at h
  | cons x xs ih =>
    obtain rfl | h := List.mem_cons.1 h
    · exact (dirBytes_sent s bs).grow (foldl_dirBytes_grows xs _)
    · exact ih h _

/-! ### What contexts hold back (R86) -/

theorem sendHeld_grows (s : State) (c : Ctx) : HostGrows s (s.sendHeld c) := by
  unfold State.sendHeld
  split
  · exact (HostGrows.of_eq (setContext_host s _ _)).trans (foldl_dirBytes_grows _ _)
  · exact .refl s

@[simp] theorem sendHeld_pkg (s : State) (c : Ctx) : (s.sendHeld c).pkg = s.pkg := by
  unfold State.sendHeld
  split
  · exact List.foldlRecOn (motive := fun t : State => t.pkg = s.pkg) _ State.dirBytes rfl (fun t ht bs _ => by simpa using ht)
  · rfl

/-- What a context holds back is sent. -/
theorem sendHeld_sent {s : State} {c : Ctx} {x : Context} {bs : List Byte} (hx : s.context? c.toNat = some x)
    (hb : bs ∈ x.heldEvts) : Sent (s.sendHeld c) bs := by
  simp only [State.sendHeld, hx]
  exact foldl_dirBytes_sent hb _

/-- Sending what one context holds back leaves the others. -/
theorem sendHeld_contextOf_other (s : State) {c d : Ctx} (h : d ≠ c) :
    (s.sendHeld c).context? d.toNat = s.context? d.toNat := by
  have hd : d.toNat ≠ c.toNat := fun he => h (BitVec.eq_of_toNat_eq he)
  unfold State.sendHeld
  split
  · exact List.foldlRecOn (motive := fun t : State => t.context? d.toNat = s.context? d.toNat) _ State.dirBytes
      (setContext_contextOf_other s _ hd) (fun t ht bs _ => by simpa using ht)
  · rfl

theorem foldl_sendHeld_grows (cs : List Ctx) (s : State) : HostGrows s (cs.foldl State.sendHeld s) :=
  List.foldlRecOn cs State.sendHeld (.refl s) (fun t ht c _ => ht.trans (sendHeld_grows t c))

theorem foldl_sendHeld_sent {cs : List Ctx} {s : State} {c : Ctx} {x : Context} {bs : List Byte} (hc : c ∈ cs)
    (hx : s.context? c.toNat = some x) (hb : bs ∈ x.heldEvts) : Sent (cs.foldl State.sendHeld s) bs := by
  induction cs generalizing s with
  | nil => simp at hc
  | cons d cs ih =>
    by_cases hd : c = d
    · subst hd
      exact (sendHeld_sent hx hb).grow (foldl_sendHeld_grows cs _)
    · exact ih ((List.mem_cons.1 hc).resolve_left hd) ((sendHeld_contextOf_other s hd).trans hx)

/-- A listed key has its entry in the list. -/
theorem mem_of_get_eq_some {α : Type} {m : SMap (Option α)} {k : Nat} {x : α} (h : SMap.get none m k = some x) :
    (k, some x) ∈ m := by
  induction m with
  | nil => simp at h
  | cons e m ih =>
    obtain ⟨j, v⟩ := e
    by_cases hk : k = j
    · subst hk
      simp_all [SMap.get]
    · exact List.mem_cons_of_mem _ (ih (by simpa [SMap.get, hk] using h))

/-- A context other than 0 is among those that are told to send. -/
theorem mem_contextTags {s : State} {c : Ctx} {x : Context} (hc : c ≠ 0) (hx : s.context? c.toNat = some x) :
    c ∈ s.contextTags := by
  have h0 : c.toNat ≠ 0 := fun h => hc (BitVec.eq_of_toNat_eq h)
  exact List.mem_filterMap.2 ⟨(c.toNat, some x), mem_of_get_eq_some hx, by simp [h0]⟩

theorem sendAllHeld_grows (s : State) : HostGrows s s.sendAllHeld := foldl_sendHeld_grows _ s

@[simp] theorem sendAllHeld_pkg (s : State) : s.sendAllHeld.pkg = s.pkg :=
  List.foldlRecOn (motive := fun t : State => t.pkg = s.pkg) _ State.sendHeld rfl (fun t ht c _ => by simpa using ht)

/-- Whatever a context holds back has been sent. -/
theorem sendAllHeld_sent {s : State} {c : Ctx} {x : Context} {bs : List Byte} (hc : c ≠ 0) (hx : s.context? c.toNat = some x)
    (hb : bs ∈ x.heldEvts) : Sent s.sendAllHeld bs :=
  foldl_sendHeld_sent (mem_contextTags hc hx) hx hb

/-! ### Cues that a reset discards (R64) -/

theorem foldl_discard_grows (cues : List (List Byte)) (s : State) : HostGrows s (cues.foldl State.discard s) :=
  List.foldlRecOn cues State.discard (.refl s) (fun t ht _ _ => ht.trans (hwEvent_grows t _))

theorem foldl_discard_pkg (cues : List (List Byte)) (s : State) : (cues.foldl State.discard s).pkg = s.pkg :=
  List.foldlRecOn (motive := fun t : State => t.pkg = s.pkg) cues State.discard rfl
    (fun t ht _ _ => (hwEvent_pkg t _).trans ht)

theorem refuseQueued_grows (s : State) : HostGrows s s.refuseQueued :=
  List.foldlRecOn _ _ ⟨List.Subset.refl _, List.Subset.refl _, rfl, rfl, rfl, rfl⟩
    (fun t ht d _ => ht.trans ((HostGrows.of_eq (setDie_host t d _)).trans (foldl_discard_grows _ _)))

@[simp] theorem refuseQueued_pkg (s : State) : s.refuseQueued.pkg = s.pkg :=
  List.foldlRecOn (motive := fun t : State => t.pkg = s.pkg) _ _ rfl
    (fun _ ht _ _ => (foldl_discard_pkg _ _).trans ht)

end Sys2Proof.Machine

/-! Failed starts, the begin of a start, and the device that a reset leaves (R18, R77, R78, R81, R82). -/

namespace Sys2Proof.Machine

open Sys2Proof Sys2Proof.Claims

/-! ### Links that a start brings up (R77) -/

/-- Bringing links up changes no other part of the state. -/
theorem linksUp_eq (s : State) (ns : List Nat) : ∃ ls, s.linksUp ns = { s with links := ls } :=
  List.foldlRecOn (motive := fun t : State => ∃ ls, t = { s with links := ls }) ns _ ⟨s.links, rfl⟩
    (by
      rintro t ⟨ls, rfl⟩ n -
      split
      · exact ⟨_, rfl⟩
      · exact ⟨_, rfl⟩)

@[simp] theorem linksUp_pkg (s : State) (ns : List Nat) : (s.linksUp ns).pkg = s.pkg := by
  obtain ⟨ls, h⟩ := linksUp_eq s ns; rw [h]
@[simp] theorem linksUp_host (s : State) (ns : List Nat) : (s.linksUp ns).host = s.host := by
  obtain ⟨ls, h⟩ := linksUp_eq s ns; rw [h]
@[simp] theorem linksUp_mem (s : State) (ns : List Nat) : (s.linksUp ns).mem = s.mem := by
  obtain ⟨ls, h⟩ := linksUp_eq s ns; rw [h]
@[simp] theorem linksUp_contexts (s : State) (ns : List Nat) : (s.linksUp ns).contexts = s.contexts := by
  obtain ⟨ls, h⟩ := linksUp_eq s ns; rw [h]
@[simp] theorem linksUp_groups (s : State) (ns : List Nat) : (s.linksUp ns).groups = s.groups := by
  obtain ⟨ls, h⟩ := linksUp_eq s ns; rw [h]
@[simp] theorem linksUp_clk (s : State) (ns : List Nat) : (s.linksUp ns).clk = s.clk := by
  obtain ⟨ls, h⟩ := linksUp_eq s ns; rw [h]
@[simp] theorem linksUp_die (s : State) (ns : List Nat) (d : Nat) : (s.linksUp ns).die d = s.die d := by
  obtain ⟨ls, h⟩ := linksUp_eq s ns; rw [h]; rfl

/-- A link that has been brought up, or was up before, is up. -/
theorem linksUp_link_up (s : State) (ns : List Nat) (n : Nat) (h : n ∈ ns ∨ (s.link n).up = true) :
    ((s.linksUp ns).link n).up = true := by
  induction ns generalizing s with
  | nil => simpa [State.linksUp] using h
  | cons m ns ih =>
    refine ih (if (s.link m).up then s else s.setLink m (.begin m)) ?_
    by_cases hm : n = m
    · subst hm
      refine .inr ?_
      split
      · assumption
      · simp [Link.begin]
    · refine h.imp (fun hn => (List.mem_cons.1 hn).resolve_left hm) (fun hu => ?_)
      split
      · exact hu
      · rwa [setLink_link_other s _ hm]

@[simp] theorem linksUp_ihl (s : State) : ((s.linksUp [ihl]).link ihl).up = true :=
  linksUp_link_up s [ihl] ihl (.inl (by simp))

/-! ### Failed starts (R78) -/

@[simp] theorem bootRecord_pkg (s : State) (cause : Nat) : (s.bootRecord cause).pkg = s.pkg := by simp [bootRecord_eq]

theorem bootRecord_grows (s : State) (cause : Nat) : HostGrows s (s.bootRecord cause) := bootRecord_eq s cause ▸ hwEvent_grows s _

@[simp] theorem dropStream_pkg (s : State) : s.dropStream.pkg = { s.pkg with stream := none } := by
  unfold State.dropStream
  split
  · simp [State.discardCue, State.mapPkg]
  · rename_i h
    rw [← h]

theorem failStart_pkg (s : State) (code : BitVec 8) : (s.failStart code).pkg =
    { s.pkg with
      stream := none
      fstart := s.pkg.fstart.record code
      dieReset := true
      diesUp := 0
      directors := 0
      mode := 6
      phase := .failed } := by
  simp [State.failStart, State.mapPkg]

/-- A start fails whose record, stream and host are still those of `s`. -/
theorem fails_of_eq {s u : State} (code : BitVec 8) (hf : u.pkg.fstart = s.pkg.fstart) (hs : u.pkg.stream = s.pkg.stream)
    (hh : u.host = s.host) : Fails s (u.failStart code) code := by
  have hp := failStart_pkg u code
  refine ⟨?_, ?_, ?_, ?_, ?_, ?_, ?_, fun hn => ?_, fun x hx => ?_⟩
  · simp [Recorded, hp, hf, FStart.record]
  · simp [hp, hf, FStart.record]
  · simp [hp]
  · simp [hp]
  · simp [hp]
  · simp [State.running, hp]
  · simp [hp]
  · refine bootRecord_records 3 ?_
    simp [State.dropStream, hs, hn, hh]
  · intro hroom
    have hd : u.dropStream = (u.mapPkg (fun p => { p with stream := none })).discardCue x.href 0 := by
      simp [State.dropStream, hs, hx]
    have hr : u.host.hold.length < holdSize := by simpa [hh] using hroom
    obtain ⟨k, hk⟩ := hwEvent_reported (u.mapPkg (fun p => { p with stream := none }))
      { kind := 0x05, src := srcIo, href := x.href, ctx := 0, body := [(16, bytesNat 4 0xFFFFFFFF)] } hr
    refine ⟨k, (bootRecord_grows _ 3).hold ?_⟩
    rw [mapPkg_host, hd]
    exact hk

theorem fails_failStart (s : State) (code : BitVec 8) : Fails s (s.failStart code) code := fails_of_eq code rfl rfl rfl

/-! ### The begin of a start (R77, R81) -/

theorem catchUp_count (f : FStart) : f.catchUp.count = if f.trip then min 3 (f.count + 1) else f.count := by
  unfold FStart.catchUp
  split
  · rfl
  · split <;> rfl

/-- What a boot finds of the start before it, as reason codes. -/
theorem catchUp_why (f : FStart) :
    if f.trip then Recorded f f.catchUp 0x09 else if f.begun then Recorded f f.catchUp 0x0B
    else f.catchUp.why0 = f.why0 ∧ f.catchUp.why1 = f.why1 ∧ f.catchUp.why2 = f.why2 := by
  unfold FStart.catchUp
  split
  · exact ⟨rfl, rfl, rfl⟩
  · split <;> exact ⟨rfl, rfl, rfl⟩

/-- The package with which a start goes on after it has caught up with the one before. -/
def Package.freshStart (p : Package) (cause : Nat) : Package :=
  { p with
    fstart := p.fstart.catchUp
    cause := cause
    imgVer := 0
    diesUp := 0
    measure := []
    log := []
    image := []
    directors := 0 }

/-- A start in minimal mode: after three failed starts (R81). -/
theorem beginStart_minimal {s : State} (cause : Nat) (h : s.pkg.fstart.catchUp.count = 3) :
    s.beginStart cause = ({ s with pkg := { s.pkg.freshStart cause with mode := 4, dieReset := true, phase := .minimal } }.linksUp
      [ihl]).bootRecord 2 := by
  simp only [State.beginStart, h, if_true]
  rfl

/-- A start that waits for the image. -/
theorem beginStart_waits {s : State} (cause : Nat) (h : s.pkg.fstart.catchUp.count ≠ 3) :
    s.beginStart cause = (({ s with pkg := s.pkg.freshStart cause }.linksUp [ihl]).mapPkg (fun p => { p with
      fstart := { s.pkg.fstart.catchUp with
        count := s.pkg.fstart.catchUp.count + 1
        begun := true }
      dieReset := false
      mode := 1
      phase := .waitGo
      goAt := s.clk })) := by
  simp only [State.beginStart, h, if_false]
  rfl

/-- Either way the start begins. -/
theorem starts_beginStart {s u : State} (cause : Nat) (hf : u.pkg.fstart = s.pkg.fstart) : Starts s (u.beginStart cause) cause := by
  have hc := catchUp_count s.pkg.fstart
  have hw := catchUp_why s.pkg.fstart
  by_cases h : u.pkg.fstart.catchUp.count = 3
  · rw [beginStart_minimal cause h]
    rw [hf] at h
    rw [hc] at h
    simp only [Starts, bootRecord_pkg, linksUp_pkg, Package.freshStart, hf, h, if_true, true_and]
    refine ⟨hw, ?_, hc.trans h, ?_⟩
    · simp [bootRecord_eq]
    · simp [State.running]
  · rw [beginStart_waits cause h]
    rw [hf] at h ⊢
    rw [hc] at h
    simp only [Starts, linksUp_pkg, linksUp_clk, State.mapPkg, Package.freshStart, h, if_false, true_and, and_true]
    exact ⟨hw, linksUp_ihl _, congrArg (· + 1) hc⟩

/-- The begin of a start changes of the machine its package, the IHL and what the host has been told. -/
theorem beginStart_frame (s : State) (cause : Nat) :
    (s.beginStart cause).groups = s.groups ∧ (s.beginStart cause).contexts = s.contexts ∧
    (s.beginStart cause).mem = s.mem ∧ (∀ d, (s.beginStart cause).die d = s.die d) ∧ HostGrows s (s.beginStart cause) := by
  by_cases h : s.pkg.fstart.catchUp.count = 3
  · rw [beginStart_minimal cause h]
    refine ⟨by simp [bootRecord_eq], by simp [bootRecord_eq], by simp [bootRecord_eq], fun d => by simp [bootRecord_eq]; rfl, ?_⟩
    exact (HostGrows.of_eq (by simp)).trans (bootRecord_grows _ 2)
  · rw [beginStart_waits cause h]
    exact ⟨by simp, by simp, by simp, fun d => by simp; rfl, .of_eq (by simp)⟩

theorem beginStart_pkg (s : State) (cause : Nat) :
    (s.beginStart cause).pkg.powered = s.pkg.powered ∧ (s.beginStart cause).pkg.rails = s.pkg.rails := by
  by_cases h : s.pkg.fstart.catchUp.count = 3
  · rw [beginStart_minimal cause h]; simp [Package.freshStart]
  · rw [beginStart_waits cause h]; simp [State.mapPkg, Package.freshStart]

end Sys2Proof.Machine

/-! `boot_ctl.rst`, and the device that it leaves (R82). -/

namespace Sys2Proof.Machine

open Sys2Proof Sys2Proof.Claims

theorem mayRestart_iff (p : Package) : p.mayRestart = true ↔ p.mode = 4 ∨ p.mode = 6 := by simp [Package.mayRestart]

/-- With every rail in range a reset begins a start at once. -/
theorem restart_begins {s : State} (cause : Nat) (ht : s.pkg.tripped = none) (hr : s.pkg.rails = BitVec.allOnes 20) :
    s.restart cause = s.beginStart cause := by
  simp [State.restart, ht, hr]

/-- With a rail out of range a reset waits for it (R18). -/
theorem restart_waits {s : State} (cause : Nat) (ht : s.pkg.tripped = none) (hr : s.pkg.rails ≠ BitVec.allOnes 20) :
    s.restart cause = s.mapPkg (fun p => { p with
      cause := cause
      dieReset := true
      diesUp := 0
      mode := 1
      phase := .rails }) := by
  simp only [State.restart, ht, hr, Option.isSome_none, Bool.false_eq_true, if_false]

/-- Either way a reset changes of the machine its package, the IHL and what the host has been told. -/
theorem restart_frame {s : State} (cause : Nat) (ht : s.pkg.tripped = none) :
    (s.restart cause).groups = s.groups ∧ (s.restart cause).contexts = s.contexts ∧ (s.restart cause).mem = s.mem ∧
    (∀ d, (s.restart cause).die d = s.die d) ∧ HostGrows s (s.restart cause) := by
  by_cases hr : s.pkg.rails = BitVec.allOnes 20
  · rw [restart_begins cause ht hr]
    exact beginStart_frame s cause
  · rw [restart_waits cause ht hr]
    exact ⟨rfl, rfl, rfl, fun _ => rfl, .of_eq (mapPkg_host s _)⟩

theorem clearDies_pkg (s : State) : s.clearDies.pkg = s.pkg := rfl

theorem clearDies_host (s : State) : s.clearDies.host = s.host := rfl

/-- The dies hold nothing any more. -/
theorem clearDies_empty (s : State) :
    s.clearDies.groups = [] ∧ s.clearDies.contexts = [] ∧ s.clearDies.mem.dram = [] ∧ ∀ d, (s.clearDies.die d).cues = [] :=
  ⟨rfl, rfl, rfl, fun _ => rfl⟩

/-- The state in which `rst` begins its start: what contexts hold back is sent, queued cues are answered, the dies hold nothing. -/
def State.wiped (s : State) : State := s.sendAllHeld.refuseQueued.clearDies

@[simp] theorem wiped_pkg (s : State) : s.wiped.pkg = s.pkg := by
  rw [State.wiped, clearDies_pkg, refuseQueued_pkg, sendAllHeld_pkg]

theorem wiped_empty (s : State) :
    s.wiped.groups = [] ∧ s.wiped.contexts = [] ∧ s.wiped.mem.dram = [] ∧ ∀ d, (s.wiped.die d).cues = [] := by
  unfold State.wiped
  exact clearDies_empty _

theorem wiped_grows_sent (s : State) : HostGrows s.sendAllHeld s.wiped :=
  (refuseQueued_grows _).trans (.of_eq (clearDies_host _))

theorem bootRst_eq {s : State} (hm : s.pkg.mode = 4 ∨ s.pkg.mode = 6) (ht : s.pkg.tripped = none) :
    s.bootRst = s.wiped.restart 1 := by
  simp only [State.bootRst, State.wiped, (mayRestart_iff s.pkg).2 hm, ht, Option.isNone_none, Bool.and_self, if_true]

/-- `clr` clears the count, in minimal mode and after a failed start. -/
theorem bootClr_eq {s : State} (hm : s.pkg.mode = 4 ∨ s.pkg.mode = 6) :
    s.bootClr = { s with pkg := { s.pkg with fstart := { s.pkg.fstart with count := 0 } } } := by
  simp only [State.bootClr, (mayRestart_iff s.pkg).2 hm, if_true]
  rfl

/-- In every other mode `clr` and `rst` do nothing. -/
theorem bootClrRst_idle {s : State} (h4 : s.pkg.mode ≠ 4) (h6 : s.pkg.mode ≠ 6) : s.bootClr = s ∧ s.bootRst = s := by
  have hm : s.pkg.mayRestart = false := by simp [Package.mayRestart, h4, h6]
  simp [State.bootClr, State.bootRst, hm]

/-- A package that has tripped starts no more (R27). -/
theorem bootRst_tripped {s : State} (ht : s.pkg.tripped ≠ none) : s.bootRst = s := by
  have hn : s.pkg.tripped.isNone = false := by
    rwa [Option.isNone_eq_false_iff, Option.isSome_iff_ne_none]
  simp [State.bootRst, hn]

/-- With its rails in range `rst` begins a start; else the device waits for them (R82). -/
theorem bootRst_starts {s : State} (hm : s.pkg.mode = 4 ∨ s.pkg.mode = 6) (ht : s.pkg.tripped = none) :
    (s.pkg.rails = BitVec.allOnes 20 → Starts s s.bootRst 1) ∧
    (s.pkg.rails ≠ BitVec.allOnes 20 → At s.bootRst .rails ∧ s.bootRst.pkg.cause = 1 ∧ s.bootRst.running = false ∧
      s.bootRst.pkg.fstart = s.pkg.fstart) := by
  rw [bootRst_eq hm ht]
  have ht' : s.wiped.pkg.tripped = none := by simpa using ht
  refine ⟨fun hr => ?_, fun hr => ?_⟩
  · rw [restart_begins 1 ht' (by simpa using hr)]
    exact starts_beginStart 1 (by simp)
  · rw [restart_waits 1 ht' (by simpa using hr)]
    simp [At, State.running, State.mapPkg, ht]

/-- What the device that `rst` leaves holds no more: groups, contexts, the contents of device memory, cues (R75). -/
theorem bootRst_wipes {s : State} (hm : s.pkg.mode = 4 ∨ s.pkg.mode = 6) (ht : s.pkg.tripped = none) :
    s.bootRst.groups = [] ∧ s.bootRst.contexts = [] ∧ s.bootRst.mem.dram = [] ∧ ∀ d, (s.bootRst.die d).cues = [] := by
  rw [bootRst_eq hm ht]
  obtain ⟨hg, hc, hmem, hd, -⟩ := restart_frame 1 (s := s.wiped) (by simpa using ht)
  obtain ⟨hg', hc', hmem', hd'⟩ := wiped_empty s
  exact ⟨hg.trans hg', hc.trans hc', (congrArg DevMem.dram hmem).trans hmem', fun d => (congrArg DieState.cues (hd d)).trans (hd' d)⟩

/-- The host keeps what it has been told, and is told what resilient contexts hold back (R65, R86). -/
theorem bootRst_tells {s : State} (hm : s.pkg.mode = 4 ∨ s.pkg.mode = 6) (ht : s.pkg.tripped = none) :
    HostGrows s s.bootRst ∧
    ∀ (c : Ctx) x bs, c ≠ 0 → s.context? c.toNat = some x → bs ∈ x.heldEvts → Sent s.bootRst bs := by
  rw [bootRst_eq hm ht]
  obtain ⟨-, -, -, -, hg⟩ := restart_frame 1 (s := s.wiped) (by simpa using ht)
  have hsent : HostGrows s.sendAllHeld (s.wiped.restart 1) := (wiped_grows_sent s).trans hg
  exact ⟨(sendAllHeld_grows s).trans hsent, fun c x bs hc hx hb => (sendAllHeld_sent hc hx hb).grow hsent⟩

end Sys2Proof.Machine

/-! Sensors, the thermal trip, power capping and power limits (R16, R21, R22, R26, R27). -/

namespace Sys2Proof.Machine

open Sys2Proof Sys2Proof.Claims

/-! ### A change of every die's power state -/

theorem die_setDie (p : Package) (n k : Nat) (x : DiePower) : (p.setDie n x).die k = if k = n then x else p.die k := by
  simp only [Package.die, Package.setDie, SMap.get_set]

/-- A change of each die's power state in turn, by what does not depend on those states, changes each once. -/
theorem foldl_setDie (f : Package → Nat → DiePower → DiePower) (hf : ∀ p d x, f (p.setDie d x) = f p) (p : Package) (n : Nat) :
    ∃ q : SMap DiePower, (List.range n).foldl (fun (p : Package) d => p.setDie d (f p d (p.die d))) p = { p with power := q } ∧
      f { p with power := q } = f p ∧
      ∀ k, ({ p with power := q } : Package).die k = if k < n then f p k (p.die k) else p.die k := by
  induction n with
  | zero => exact ⟨p.power, rfl, rfl, fun _ => rfl⟩
  | succ n ih =>
    obtain ⟨q, hq, hfq, hd⟩ := ih
    rw [List.range_succ, List.foldl_append, hq]
    refine ⟨_, rfl, (hf _ n _).trans hfq, fun k => (die_setDie _ n k _).trans ?_⟩
    obtain hk | rfl | hk := Nat.lt_trichotomy k n
    · rw [if_neg (Nat.ne_of_lt hk), hd, if_pos hk, if_pos (by omega)]
    · rw [if_pos rfl, hfq, hd, if_neg (Nat.lt_irrefl k), if_pos (by omega)]
    · rw [if_neg (by omega), hd, if_neg (by omega), if_neg (by omega)]

/-! ### Sensors (R16, R26, R60) -/

/-- The sensors' words after readings have been put into them from sensor `n` on. -/
theorem get_foldl_sensorWord (xs : List (BitVec 24)) (n : Nat) (m : SMap Word) (k : Nat) :
    SMap.get 0 ((xs.zipIdx n).foldl (fun (m : SMap Word) (e : BitVec 24 × Nat) =>
      if e.2 < 92 then SMap.set 0 m e.2 (sensorWord e.2 e.1) else m) m) k =
    if k < 92 ∧ n ≤ k then ((xs[k - n]?).map (sensorWord k)).getD (SMap.get 0 m k) else SMap.get 0 m k := by
  induction xs generalizing n m with
  | nil => simp
  | cons x xs ih =>
    have hset : SMap.get 0 (if n < 92 then SMap.set 0 m n (sensorWord n x) else m) k =
        if k = n ∧ n < 92 then sensorWord n x else SMap.get 0 m k := by
      by_cases hn : n < 92
      · simp [hn, SMap.get_set]
      · simp [hn]
    rw [List.zipIdx_cons, List.foldl_cons, ih]
    dsimp only
    rw [hset]
    obtain hk | rfl | hk := Nat.lt_trichotomy k n
    · rw [if_neg (by omega), if_neg (by omega), if_neg (by omega)]
    · by_cases h92 : k < 92
      · simp [h92]
      · simp [h92]
    · have hidx : k - n = k - (n + 1) + 1 := by omega
      rw [if_neg (by omega : ¬(k = n ∧ n < 92)), hidx, List.getElem?_cons_succ]
      by_cases h92 : k < 92
      · rw [if_pos ⟨h92, by omega⟩, if_pos ⟨h92, by omega⟩]
      · rw [if_neg (by omega), if_neg (by omega)]

/-- The package with readings in its sensors. -/
def Package.withReadings (p : Package) (xs : List (BitVec 24)) : Package :=
  { p with sensors := xs.zipIdx.foldl (fun (m : SMap Word) (e : BitVec 24 × Nat) =>
      if e.2 < 92 then SMap.set 0 m e.2 (sensorWord e.2 e.1) else m) p.sensors }

/-- The package after a sample: its readings, and the caps of R26. -/
def Package.sampled (p : Package) (xs : List (BitVec 24)) : Package := (List.range 8).foldl Package.capDie (p.withReadings xs)

/-- The `therm` of a die after a sample. -/
def Package.capped (p : Package) (n : Nat) (x : DiePower) : DiePower :=
  { x with therm := (p.junction n).any (fun t => decide (105 * 16 ≤ t)) ||
      (x.therm && (p.junction n).any (fun t => decide (100 * 16 ≤ t))) }

theorem sampled_eq (p : Package) (xs : List (BitVec 24)) : ∃ q : SMap DiePower, p.sampled xs = { p.withReadings xs with power := q } ∧
    ∀ n, n < 8 → (p.sampled xs).die n = (p.withReadings xs).capped n (p.die n) := by
  obtain ⟨q, hq, -, hd⟩ := foldl_setDie Package.capped (fun _ _ _ => rfl) (p.withReadings xs) 8
  have hs : p.sampled xs = { p.withReadings xs with power := q } := hq
  exact ⟨q, hs, fun n hn => by rw [hs, hd, if_pos hn]; rfl⟩

theorem sampled_sensor {p : Package} {xs : List (BitVec 24)} {k : Nat} {x : BitVec 24} (hk : k < 92) (hx : xs[k]? = some x) :
    SMap.get 0 (p.sampled xs).sensors k = sensorWord k x := by
  obtain ⟨q, hq, -⟩ := sampled_eq p xs
  rw [hq, Package.withReadings, get_foldl_sensorWord, if_pos ⟨hk, Nat.zero_le k⟩]
  simp [hx]

/-- The temperature that a reading of a list gives, in 1/16 °C. -/
def degrees (xs : List (BitVec 24)) (k : Nat) : Option Int := (xs[k]?).map (fun x => (x.setWidth 16).toInt)

/-- A temperature sensor reads what a list gives for it. -/
theorem withReadings_temp {p : Package} {xs : List (BitVec 24)} {k : Nat} (hk : k < 72) (hl : k < xs.length) :
    (p.withReadings xs).temp k = degrees xs k := by
  have hw : SMap.get (0#32) (p.withReadings xs).sensors k = 0x80000000#32 ||| (xs[k].setWidth 16).setWidth 32 := by
    refine (get_foldl_sensorWord xs 0 p.sensors k).trans ?_
    rw [if_pos ⟨by omega, Nat.zero_le k⟩]
    simp [hl, sensorWord, Nat.not_le.2 hk]
  have hv : (0x80000000#32 ||| (xs[k].setWidth 16).setWidth 32).getLsbD 31 = true := by simp
  have ht : ((0x80000000#32 ||| (xs[k].setWidth 16).setWidth 32).setWidth 16 : BitVec 16) = xs[k].setWidth 16 := by
    ext i hi
    simp
  simp only [Package.temp, hw, hv, if_true, ht, degrees, List.getElem?_eq_getElem hl, Option.map_some]

/-- A list of readings has sensor `k` at `c` °C or more. -/
def Hotter (xs : List (BitVec 24)) (k : Nat) (c : Int) : Prop := ∃ d, degrees xs k = some d ∧ 16 * c ≤ d

theorem Hotter.lt_length {xs : List (BitVec 24)} {k : Nat} {c : Int} (h : Hotter xs k c) : k < xs.length := by
  obtain ⟨d, hd, -⟩ := h
  obtain ⟨x, hx, -⟩ := Option.map_eq_some_iff.1 hd
  exact (List.getElem?_eq_some_iff.1 hx).1

/-- A junction at 105 °C caps its die (R26). -/
theorem capped_of_hotter {p : Package} {xs : List (BitVec 24)} {n j : Nat} (x : DiePower) (hn : n < 8) (hj : j < 4)
    (h : Hotter xs (4 * n + j) 105) : ((p.withReadings xs).capped n x).therm = true := by
  obtain ⟨d, hd, hle⟩ := h
  have hmem : d ∈ (p.withReadings xs).junction n :=
    List.mem_filterMap.2 ⟨j, List.mem_range.2 hj, (withReadings_temp (by omega) (Hotter.lt_length ⟨d, hd, hle⟩)).trans hd⟩
  have hany : ((p.withReadings xs).junction n).any (fun t => decide (105 * 16 ≤ t)) = true :=
    List.any_eq_true.2 ⟨d, hmem, by simp; omega⟩
  simp only [Package.capped, hany, Bool.true_or]

/-- With every junction below 100 °C the die is capped no more (R26). -/
theorem uncapped_of_cool {p : Package} {xs : List (BitVec 24)} {n : Nat} (x : DiePower) (hn : n < 8) (hl : 32 ≤ xs.length)
    (h : ∀ j, j < 4 → ¬Hotter xs (4 * n + j) 100) : ((p.withReadings xs).capped n x).therm = false := by
  have hcool : ∀ t ∈ (p.withReadings xs).junction n, t < 100 * 16 := by
    intro t ht
    obtain ⟨j, hj, htj⟩ := List.mem_filterMap.1 ht
    have hj4 := List.mem_range.1 hj
    rw [withReadings_temp (by omega) (by omega)] at htj
    refine Int.not_le.1 (fun hle => h j hj4 ⟨t, htj, by omega⟩)
  have hany : ∀ c : Int, 100 ≤ c → ((p.withReadings xs).junction n).any (fun t => decide (c * 16 ≤ t)) = false := by
    intro c hc
    refine List.any_eq_false.2 (fun t ht => ?_)
    have := hcool t ht
    simp only [decide_eq_true_eq]
    omega
  simp only [Package.capped, hany 105 (by omega), hany 100 (by omega), Bool.and_false, Bool.or_false]

/-! ### The thermal trip (R27) -/

/-- The search for the first number that a test accepts finds one where there is one. -/
theorem firstFrom_finds {p : Nat → Bool} {n k m : Nat} (hk : k ≤ m) (hm : m < k + n) (hp : p m = true) :
    ∃ j, firstFrom p k n = some j ∧ j < k + n := by
  induction n generalizing k with
  | zero => omega
  | succ n ih =>
    by_cases h : p k = true
    · exact ⟨k, by simp [firstFrom, h], by omega⟩
    · have hne : k ≠ m := fun he => h (he ▸ hp)
      obtain ⟨j, hj, hlt⟩ := ih (k := k + 1) (by omega) (by omega)
      exact ⟨j, by simp [firstFrom, h, hj], by omega⟩

/-- A sensor at 120 °C or more is found. -/
theorem sampled_hot {p : Package} {xs : List (BitVec 24)} {k : Nat} (hk : k < 52) (h : Hotter xs k 120) :
    ∃ j, (p.sampled xs).hot = some j ∧ j < 52 := by
  obtain ⟨q, hq, -⟩ := sampled_eq p xs
  have hlen := h.lt_length
  obtain ⟨d, hd, hle⟩ := h
  have ht : (p.sampled xs).temp k = some d := by
    rw [hq]
    exact (withReadings_temp (by omega) hlen).trans hd
  have := firstFrom_finds (p := fun k => ((p.sampled xs).temp k).any (fun t => decide (120 * 16 ≤ t))) (n := 52) (Nat.zero_le k)
    (by omega) (by rw [ht]; simp; omega)
  simpa [Package.hot] using this

/-- A sample changes the package alone, or trips it. -/
theorem sample_cases {s : State} {xs : List (BitVec 24)} (hp : s.pkg.powered = true) :
    (((s.pkg.sampled xs).hot = none ∨ s.pkg.tripped ≠ none) ∧ s.sample xs = { s with pkg := s.pkg.sampled xs }) ∨
    ∃ k, (s.pkg.sampled xs).hot = some k ∧ s.pkg.tripped = none ∧ s.sample xs =
      (({ s with pkg := (s.pkg.sampled xs).trip k, cur := none }).post .thermalTripEvent).post .thermTripNAssert := by
  obtain ⟨q, hq, -⟩ := sampled_eq s.pkg xs
  have htrip : (s.pkg.sampled xs).tripped = s.pkg.tripped := by rw [hq]; rfl
  unfold State.sample
  rw [if_neg (by simp [hp])]
  dsimp only
  split
  next k hk =>
    by_cases ht : s.pkg.tripped = none
    · refine .inr ⟨k, hk, ht, if_neg ?_⟩
      show ¬(s.pkg.sampled xs).tripped.isSome = true
      simp [htrip, ht]
    · refine .inl ⟨.inr ht, if_pos ?_⟩
      show (s.pkg.sampled xs).tripped.isSome = true
      rwa [htrip, Option.isSome_iff_ne_none]
  next hk => exact .inl ⟨.inl hk, rfl⟩

theorem trip_sensors (p : Package) (k : Nat) : (p.trip k).sensors = p.sensors := rfl

theorem trip_die (p : Package) (k n : Nat) : (p.trip k).die n = p.die n := rfl

/-- Sensors and dies after a sample, whether or not it trips the package. -/
theorem sample_pkg {s : State} {xs : List (BitVec 24)} (hp : s.pkg.powered = true) :
    (s.sample xs).pkg.sensors = (s.pkg.sampled xs).sensors ∧ ∀ n, (s.sample xs).pkg.die n = (s.pkg.sampled xs).die n := by
  obtain ⟨-, h⟩ | ⟨k, -, -, h⟩ := sample_cases (s := s) (xs := xs) hp
  · rw [h]
    exact ⟨rfl, fun _ => rfl⟩
  · rw [h]
    exact ⟨trip_sensors _ k, trip_die _ k⟩

/-- A junction sensor at 120 °C or more trips a package that has not tripped. -/
theorem sample_trips {s : State} {xs : List (BitVec 24)} {k : Nat} (hp : s.pkg.powered = true) (ht : s.pkg.tripped = none)
    (hk : k < 52) (h : Hotter xs k 120) :
    (∃ k r, k < 52 ∧ (s.sample xs).pkg.tripped = some (k, r)) ∧ (s.sample xs).running = false ∧ (s.sample xs).pkg.diesUp = 0 ∧
    (s.sample xs).cur = none ∧ Instr.thermalTripEvent ∈ (s.sample xs).agenda ∧ Instr.thermTripNAssert ∈ (s.sample xs).agenda := by
  obtain ⟨j, hj, hj52⟩ := sampled_hot (p := s.pkg) hk h
  obtain ⟨hc | hc, -⟩ | ⟨k', hk', -, hs⟩ := sample_cases (s := s) (xs := xs) hp
  · rw [hj] at hc; cases hc
  · exact absurd ht hc
  · obtain rfl : j = k' := by rw [hj] at hk'; exact Option.some.inj hk'
    rw [hs]
    refine ⟨⟨j, _, hj52, rfl⟩, ?_, rfl, rfl, ?_, ?_⟩
    · simp [State.running, Package.trip]
    · simp [State.post]
    · simp [State.post]

/-! ### Capping (R22, R26) -/

/-- A die far below its limit loses, once it has been so for 100 evaluations, a doubling of its gate, else a step. -/
theorem relax_spec (x : DiePower) :
    x.relax.watts = x.watts ∧ x.relax.beyond = x.beyond ∧ x.relax.lim = x.lim ∧
    x.relax.step = (if 100 ≤ x.below + 1 ∧ x.gate = 0 then x.step - 1 else x.step) ∧
    x.relax.gate = (if 100 ≤ x.below + 1 then x.gate - 1 else x.gate) := by
  by_cases hb : x.below + 1 < 100
  · have hn : ¬100 ≤ x.below + 1 := by omega
    simp [DiePower.relax, hb, hn]
  · have h100 : 100 ≤ x.below + 1 := by omega
    by_cases hg : 0 < x.gate
    · simp [DiePower.relax, hb, h100, hg, Nat.ne_of_gt hg]
    · simp [DiePower.relax, hb, h100, Nat.eq_zero_of_not_pos hg]

/-- A die above its limit, or with a hot junction, steps down; one far below it for 1 ms steps up again. -/
theorem evaluate_spec (x : DiePower) (w n : Nat) :
    let above := x.lim < w ∨ x.therm = true
    (x.evaluate w n).watts = min 511 w ∧ ((x.evaluate w n).beyond = true ↔ above) ∧ (x.evaluate w n).lim = x.lim ∧
    650 ≤ (x.evaluate w n).vcd ∧ (x.evaluate w n).vcd ≤ 900 ∧
    (above → x.step < 8 → x.step < (x.evaluate w n).step ∧ (x.evaluate w n).step ≤ 8) ∧
    (above → x.step = 8 → (x.evaluate w n).step = 8 ∧
      (x.gate < 4 → x.gate < (x.evaluate w n).gate ∧ (x.evaluate w n).gate ≤ 4)) ∧
    (¬above → (x.evaluate w n).step = (if 10 * w ≤ 9 * x.lim ∧ 100 ≤ x.below + 1 ∧ x.gate = 0 then x.step - 1 else x.step) ∧
      (x.evaluate w n).gate = (if 10 * w ≤ 9 * x.lim ∧ 100 ≤ x.below + 1 then x.gate - 1 else x.gate)) := by
  intro above
  have hv : ∀ m, 650 ≤ 650 + m % 251 ∧ 650 + m % 251 ≤ 900 := by omega
  by_cases ha : above
  · have hb : (decide (x.lim < w) || x.therm) = true := by simpa [above] using ha
    have he : x.evaluate w n = ({ x with watts := min 511 w, beyond := true }.lower n).setVcd := by
      simp only [DiePower.evaluate, hb, if_true]
    rw [he]
    refine ⟨rfl, ⟨fun _ => ha, fun _ => rfl⟩, rfl, (hv _).1, (hv _).2, fun _ h8 => ?_, fun _ h8 => ?_, fun hn => absurd ha hn⟩
    · simp only [DiePower.setVcd, DiePower.lower]
      omega
    · simp only [DiePower.setVcd, DiePower.lower, h8]
      split <;> omega
  · have hb : (decide (x.lim < w) || x.therm) = false := by simpa [above] using ha
    have hn : ∀ {P : Prop}, above → P := fun h => absurd h ha
    by_cases hlow : 10 * w ≤ 9 * x.lim
    · have he : x.evaluate w n = ({ x with watts := min 511 w, beyond := false }.relax).setVcd := by
        simp only [DiePower.evaluate, hb, hlow, Bool.false_eq_true, if_false, if_true]
      obtain ⟨hwatts, hbeyond, hlim, hstep, hgate⟩ := relax_spec { x with watts := min 511 w, beyond := false }
      rw [he]
      refine ⟨hwatts, ⟨fun h => ?_, hn⟩, hlim, (hv _).1, (hv _).2, hn, hn, fun _ => ⟨?_, ?_⟩⟩
      · exact absurd (hbeyond.symm.trans h) (by simp)
      · exact hstep.trans (by simp [hlow])
      · exact hgate.trans (by simp [hlow])
    · have he : x.evaluate w n = { x with watts := min 511 w, beyond := false, below := 0 }.setVcd := by
        simp only [DiePower.evaluate, hb, hlow, Bool.false_eq_true, if_false]
      rw [he]
      refine ⟨rfl, ⟨fun h => absurd h (by simp [DiePower.setVcd]), hn⟩, rfl, (hv _).1, (hv _).2, hn, hn, fun _ => ?_⟩
      simp [hlow, DiePower.setVcd]

/-- An evaluation evaluates each die once (R22). -/
theorem capPower_die {s : State} (ws : List Nat) (hp : s.pkg.powered = true) (ht : s.pkg.tripped = none) {d : Nat} (hd : d < 8) :
    ∃ n, (s.capPower ws).pkg.die d = (s.pkg.die d).evaluate (ws.getD d 0) n := by
  obtain ⟨q, hq, -, hdie⟩ := foldl_setDie
    (fun _ d x => x.evaluate (ws.getD d 0) (Config.predictedSteps (s.freeCtr + d))) (fun _ _ _ => rfl) s.pkg 8
  refine ⟨Config.predictedSteps (s.freeCtr + d), ?_⟩
  have hs : (s.capPower ws).pkg = { s.pkg with power := q } := by
    unfold State.capPower
    rw [if_neg (by simp [hp, ht])]
    exact hq
  rw [hs, hdie, if_pos hd]

/-- Without power, or after a trip, the controller evaluates nothing (R28). -/
theorem capPower_idle {s : State} (ws : List Nat) (h : s.pkg.powered = false ∨ s.pkg.tripped ≠ none) : s.capPower ws = s := by
  refine if_pos ?_
  obtain h | h := h
  · simp [h]
  · simp [Option.isSome_iff_ne_none.2 h]

/-! ### Limits (R21) -/

/-- A limit from 120 W to 320 W that keeps the sum at 2,160 W is taken; another is refused with an event. -/
theorem writePlim_spec {s : State} (die : Nat) (w : Nat) (ht : s.pkg.tripped = none) :
    if 120 ≤ w ∧ w ≤ 320 ∧ ((List.range 8).map (fun d => if d = die then w else (s.pkg.die d).lim)).sum ≤ 2160 then
      (s.writePlim die w).host = s.host ∧
      ∀ d, (s.writePlim die w).pkg.die d = if d = die then { s.pkg.die d with lim := w } else s.pkg.die d
    else (s.writePlim die w).pkg = s.pkg ∧
      Reported s (s.writePlim die w) 0 { kind := 0x08, src := srcIo, body := [(17, bytesNat 1 die)] } := by
  have hw : s.writePlim die w = if 120 ≤ w ∧ w ≤ 320 ∧ s.pkg.limitSum die w ≤ 2160 then
      s.mapPkg (fun p => p.setDie die { p.die die with lim := w })
      else s.hwEvent { kind := 0x08, src := srcIo, body := [(17, bytesNat 1 die)] } := by
    simp only [State.writePlim, ht, Option.isSome_none, Bool.false_eq_true, if_false]
  rw [hw]
  unfold Package.limitSum
  split
  · refine ⟨rfl, fun d => (die_setDie _ _ _ _).trans ?_⟩
    split
    next hd => rw [hd]
    next => rfl
  · exact ⟨hwEvent_pkg s _, hwEvent_reported s _⟩

end Sys2Proof.Machine

/-! The image, the dies, the Directors and the tables that they lay out (R77, R96, R97). -/

namespace Sys2Proof.Machine

open Sys2Proof Sys2Proof.Claims

/-! ### What the coherence of device memory leaves alone -/

/-- The package and the host interface are the same. -/
def SameEdge (s t : State) : Prop := t.pkg = s.pkg ∧ t.host = s.host

theorem SameEdge.refl (s : State) : SameEdge s s := ⟨rfl, rfl⟩

theorem SameEdge.trans {s t u : State} (h : SameEdge s t) (h' : SameEdge t u) : SameEdge s u :=
  ⟨h'.1.trans h.1, h'.2.trans h.2⟩

theorem sameEdge_foldl {α : Type} {f : State → α → State} (hf : ∀ s x, SameEdge s (f s x)) (xs : List α) (s : State) :
    SameEdge s (xs.foldl f s) :=
  List.foldlRecOn xs f (.refl s) (fun t ht x _ => ht.trans (hf t x))

theorem sameEdge_setL2 (s : State) (k : Nat) (x : Option L2Line) : SameEdge s (s.setL2 k x) := ⟨rfl, rfl⟩

theorem sameEdge_setDram (s : State) (k : Nat) (b : Byte) : SameEdge s (s.setDram k b) := ⟨rfl, rfl⟩

theorem sameEdge_setSysLine (s : State) (g : LineAddr) (x : SysLine) : SameEdge s (s.setSysLine g x) := ⟨rfl, rfl⟩

theorem sameEdge_leaseEnd (s : State) (d : Nat) (p : L1Line → Bool) : SameEdge s (s.leaseEnd d p) := ⟨rfl, rfl⟩

theorem sameEdge_strikeAll (s : State) (p : Watch → Bool) : SameEdge s (s.strikeAll p) := ⟨rfl, rfl⟩

theorem sameEdge_setSlice (s : State) (k : Nat) (x : Slice) : SameEdge s (s.setSlice k x) := ⟨rfl, rfl⟩

theorem sameEdge_leaveL2 (s : State) (k : Nat) (x : L2Line) : SameEdge s (s.leaveL2 k x) :=
  (sameEdge_setSlice s _ _).trans ((sameEdge_leaseEnd _ _ _).trans ((sameEdge_strikeAll _ _).trans (sameEdge_setL2 _ k none)))

theorem sameEdge_beginRebase (s : State) (sk : Nat) : SameEdge s (s.beginRebase sk) := by
  unfold State.beginRebase
  dsimp only
  split <;> exact ⟨rfl, rfl⟩

theorem sameEdge_dropApertures (s : State) : SameEdge s s.dropApertures := by
  refine SameEdge.trans (t := { s with cores := s.cores.map (fun (e : Nat × Core) => (e.1, e.2.expire (fun y => isAperture y.line))) })
    ⟨rfl, rfl⟩ (sameEdge_foldl (fun t e => ?_) _ _)
  split
  · exact sameEdge_leaveL2 t _ _
  · exact .refl t

theorem sameEdge_setDramBytes (s : State) (k : Nat) (bs : List (Nat × Byte)) : SameEdge s (s.setDramBytes k bs) :=
  sameEdge_foldl (fun t (e : Nat × Byte) => sameEdge_setDram t (k + e.1) e.2) bs s

theorem sameEdge_writeNames (s : State) (loc : Nat) (bs : List (Nat × Byte)) : SameEdge s (s.writeNames loc bs) :=
  sameEdge_foldl (fun t g => sameEdge_setSysLine t g { t.sysLine g with data := setBytes (t.sysLine g).data bs, st := .m }) _ s

theorem sameEdge_toHome (s : State) (loc : Nat) (bs : List (Nat × Byte)) : SameEdge s (s.toHome loc bs) := by
  unfold State.toHome
  split
  · exact .refl s
  · refine ((sameEdge_setDramBytes s loc bs).trans (sameEdge_writeNames _ loc bs)).trans ((sameEdge_dropApertures _).trans
      (sameEdge_foldl (fun t e => ?_) _ _))
    dsimp only
    split
    · exact SameEdge.trans ⟨rfl, rfl⟩ (sameEdge_beginRebase _ _)
    · exact ⟨rfl, rfl⟩

theorem sameEdge_cleanCopies (s : State) (loc die : Nat) (m : BitVec 128) : SameEdge s (s.cleanCopies loc die m) :=
  sameEdge_foldl (fun t (e : Nat × L2Line) => sameEdge_setL2 t e.1 (some { e.2 with dirty := e.2.dirty &&& ~~~m })) _ s

theorem sameEdge_dieWriteback (s : State) (loc die : Nat) (st : DirState) : SameEdge s (s.dieWriteback loc die st) := by
  unfold State.dieWriteback
  dsimp only
  split
  · exact .refl s
  · split <;> exact ⟨rfl, rfl⟩

theorem sameEdge_dropL2 (s : State) (k : Nat) : SameEdge s (s.dropL2 k) := by
  unfold State.dropL2
  split
  · exact .refl s
  · exact (sameEdge_leaveL2 s k _).trans ((sameEdge_toHome _ _ _).trans ((sameEdge_cleanCopies _ _ _ _).trans
      (sameEdge_dieWriteback _ _ _ _)))

/-! ### The tables that the Directors lay out (R96, R97) -/

theorem sameEdge_zeroFrame (s : State) (n f : Nat) : SameEdge s (s.zeroFrame n f) :=
  SameEdge.trans (sameEdge_foldl (fun t (e : Nat × Option L2Line) => sameEdge_dropL2 t e.1) _ s) ⟨rfl, rfl⟩

theorem sameEdge_setPhys (s : State) (d : Nat) (bs : List Byte) : SameEdge s (s.setPhys d bs) :=
  sameEdge_foldl (fun t (e : Byte × Nat) => sameEdge_setDram t (physKey t (d + e.2)) e.1) _ s

theorem sameEdge_physWrite (s : State) (d : Nat) (bs : List Byte) : SameEdge s (s.physWrite d bs) := by
  refine SameEdge.trans (sameEdge_foldl (fun t loc => sameEdge_foldl (fun u (e : Nat × L2Line) => ?_) _ t) _ s)
    (sameEdge_setPhys _ d bs)
  split
  · exact .refl u
  · exact sameEdge_dropL2 u e.1

theorem sameEdge_bulkWrite (s : State) (xs : List (Nat × Nat)) : SameEdge s (s.bulkWrite xs) := ⟨rfl, rfl⟩

theorem sameEdge_layOut (s : State) : SameEdge s s.layOut := by
  have hzero := sameEdge_foldl (fun t k => sameEdge_zeroFrame t 8 (packageFrames s - 1 - k)) (List.range 7) s
  unfold State.layOut
  dsimp only
  generalize (List.range 7).foldl (fun t k => t.zeroFrame 8 (packageFrames s - 1 - k)) s = u at hzero ⊢
  refine hzero.trans (SameEdge.trans (t := { u with mem := { u.mem with
    pkgPool := 7
    ctxtab := BitVec.ofNat 64 ((packageFrames s - 7) * 65536) } }) ⟨rfl, rfl⟩ ?_)
  exact (sameEdge_bulkWrite _ _).trans (sameEdge_physWrite _ _ _)

/-! ### The image (R76, R77) -/

/-- A header and a body of this length are a Director image of the device: magic, length and signature are good. -/
def ImageGood (len : Nat) (hdr body : List Byte) : Prop :=
  field hdr 0 4 = 0x5A444952 ∧ field hdr 8 4 ≤ 2 ^ 24 ∧ len = 256 + field hdr 8 4 ∧
  Config.signatureValid ((hdr.drop 16).take 114) (digest (hdr.take 16 ++ body)) = true

theorem imageGood_iff (len : Nat) (hdr body : List Byte) : imageGood len hdr body = true ↔ ImageGood len hdr body := by
  simp only [imageGood, ImageGood, imageMagic, Bool.and_eq_true, beq_iff_eq, decide_eq_true_eq, and_assoc]

section
variable {s : State} {hdr body : List Byte} (h : s.pkg.at .readImage = true) (hb : s.imageBytes = (hdr, body))
include h hb

/-- A bad image fails the start. -/
theorem readImage_bad (hg : ¬ImageGood s.host.imgLen.toNat hdr body) : s.readImage = s.failStart 0x01 := by
  unfold State.readImage
  rw [if_pos h, hb]
  exact if_neg (fun hi => hg ((imageGood_iff _ _ _).1 hi))

/-- An image below the fused minimum version fails the start, which keeps its version. -/
theorem readImage_old (hg : ImageGood s.host.imgLen.toNat hdr body) (ho : field hdr 4 4 % 2 ^ 32 < Config.fusedMinVersion.toNat) :
    s.readImage = (s.mapPkg (fun p => { p with imgVer := BitVec.ofNat 32 (field hdr 4 4) })).failStart 0x03 := by
  unfold State.readImage
  rw [if_pos h, hb]
  dsimp only
  rw [if_pos ((imageGood_iff _ _ _).2 hg), if_pos (by rwa [BitVec.toNat_ofNat])]

/-- A good image is measured, and the dies are brought up. -/
theorem readImage_new (hg : ImageGood s.host.imgLen.toNat hdr body) (ho : ¬field hdr 4 4 % 2 ^ 32 < Config.fusedMinVersion.toNat) :
    s.readImage.pkg.imgVer = BitVec.ofNat 32 (field hdr 4 4) ∧ s.readImage.pkg.mode = 2 ∧
    s.readImage.pkg.phase = .bringUp ∧ (s.pkg.log = [] → s.readImage.pkg.log.map (fun e => e.1) = [1, 2, 3, 4]) := by
  unfold State.readImage
  rw [if_pos h, hb]
  dsimp only
  rw [if_pos ((imageGood_iff _ _ _).2 hg), if_neg (by rwa [BitVec.toNat_ofNat])]
  refine ⟨rfl, rfl, rfl, fun hl => ?_⟩
  simp [State.mapPkg, Package.extend, hl]

end

@[simp] theorem mapPkg_pkg (s : State) (h : Package → Package) : (s.mapPkg h).pkg = h s.pkg := rfl

/-! ### The dies (R77) -/

theorem foldl_loadImage (s : State) (n : Nat) :
    ((List.range n).foldl State.loadImage s).pkg = s.pkg ∧ (∀ k, ((List.range n).foldl State.loadImage s).link k = s.link k) ∧
    ∀ d, d < n → (((List.range n).foldl State.loadImage s).die d).image = s.pkg.image := by
  induction n with
  | zero => exact ⟨rfl, fun _ => rfl, fun d hd => absurd hd (Nat.not_lt_zero d)⟩
  | succ n ih =>
    obtain ⟨hp, hl, hi⟩ := ih
    rw [List.range_succ, List.foldl_append]
    refine ⟨hp, hl, fun d hd => ?_⟩
    by_cases hdn : d = n
    · subst hdn
      simp [State.loadImage, hp]
    · simpa [State.loadImage, setDie_die_other _ _ hdn] using hi d (by omega)

theorem mem_bringUp_links {n : Nat} (h : (isIfl n || isDieLink n) = true) : n ∈ iflLinks ++ dieLinks := by
  simp only [isIfl, isDieLink, Bool.or_eq_true, Bool.and_eq_true, decide_eq_true_eq] at h
  simp only [iflLinks, dieLinks, List.mem_append, List.mem_map, List.mem_range]
  obtain h | h := h
  · exact .inl ⟨n - 0x10, by omega, by omega⟩
  · exact .inr ⟨n - 0x20, by omega, by omega⟩

/-- Bringing up the dies fails at the first failure that it has found (R78). -/
theorem bringUpDone_fails {s : State} {r : BringUp} (h : s.pkg.at .bringUp = true) :
    (r.dieOk ≠ BitVec.allOnes 8 → s.bringUpDone r = s.failStart 0x04) ∧
    (r.dieOk = BitVec.allOnes 8 → r.cacheOk = false → s.bringUpDone r = s.failStart 0x05) ∧
    (r.dieOk = BitVec.allOnes 8 → r.cacheOk = true → r.hbmOk = false → s.bringUpDone r = s.failStart 0x06) ∧
    (r.dieOk = BitVec.allOnes 8 → r.cacheOk = true → r.hbmOk = true → r.linkOk = false → s.bringUpDone r = s.failStart 0x07) := by
  unfold State.bringUpDone
  rw [if_pos h]
  refine ⟨fun hd => if_pos hd, fun hd hc => ?_, fun hd hc hh => ?_, fun hd hc hh hl => ?_⟩
  · rw [if_neg (not_not.2 hd), hc]; rfl
  · rw [if_neg (not_not.2 hd), hc, hh]; rfl
  · rw [if_neg (not_not.2 hd), hc, hh, hl]; rfl

/-- The dies' records and the mode of the memory-side cache are measured (R79). -/
def Package.measureDies (p : Package) (r : BringUp) : Package :=
  let p := (List.range 8).foldl (fun (p : Package) d => p.extend 5 d (r.records.getD d [])) p
  p.extend 6 0 [p.mscmode]

theorem measureDies_mscmode (p : Package) (r : BringUp) : (p.measureDies r).mscmode = p.mscmode :=
  List.foldlRecOn (motive := fun q : Package => q.mscmode = p.mscmode) _ _ rfl (fun _ hq _ _ => hq)

theorem extend_log_length {p : Package} {n : Nat} (kind die : Nat) (item : List Byte) (h : p.log.length = n) (hn : n < 64) :
    (p.extend kind die item).log.length = n + 1 := by
  simp [Package.extend, h, hn]

/-- Nine items more stand in the log. -/
theorem measureDies_log {p : Package} (r : BringUp) (h : p.log.length = 4) : (p.measureDies r).log.length = 13 := by
  have hdies : ∀ n, n ≤ 8 →
      ((List.range n).foldl (fun (p : Package) d => p.extend 5 d (r.records.getD d [])) p).log.length = 4 + n := by
    intro n
    induction n with
    | zero => exact fun _ => h
    | succ n ih =>
      intro hn
      rw [List.range_succ, List.foldl_append]
      exact extend_log_length (n := 4 + n) 5 n _ (ih (by omega)) (by omega)
  exact extend_log_length 6 0 _ (hdies 8 (Nat.le_refl 8)) (by decide)

/-- The package that waits for its Directors, which have been started. -/
def Package.directed (p : Package) (clk : Nat) : Package :=
  { p with
    mscActive := p.mscmode
    directors := BitVec.allOnes 8
    phase := .waitReady
    goAt := clk }

theorem directed_spec (p : Package) (clk : Nat) :
    (p.directed clk).phase = .waitReady ∧ (p.directed clk).directors = BitVec.allOnes 8 ∧ (p.directed clk).goAt = clk ∧
    (p.directed clk).mscActive = p.mscmode ∧ (p.directed clk).log = p.log := ⟨rfl, rfl, rfl, rfl, rfl⟩

/-- With no failure the image is loaded, the dies are measured, and the Directors are started. -/
theorem bringUpDone_eq {s : State} {r : BringUp} (h : s.pkg.at .bringUp = true) (hd : r.dieOk = BitVec.allOnes 8)
    (hc : r.cacheOk = true) (hh : r.hbmOk = true) (hl : r.linkOk = true) :
    s.bringUpDone r = ((List.range 8).foldl State.loadImage (s.linksUp (iflLinks ++ dieLinks))).mapPkg
      (fun p => (p.measureDies r).directed s.clk) := by
  unfold State.bringUpDone
  rw [if_pos h, if_neg (not_not.2 hd), if_neg (by simp [hc]), if_neg (by simp [hh]), if_neg (by simp [hl])]
  rfl

/-- Then every link of the package is up, and every die has the image. -/
theorem bringUpDone_goes {s : State} {r : BringUp} (h : s.pkg.at .bringUp = true) (hd : r.dieOk = BitVec.allOnes 8)
    (hc : r.cacheOk = true) (hh : r.hbmOk = true) (hl : r.linkOk = true) :
    (s.bringUpDone r).pkg.phase = .waitReady ∧ (s.bringUpDone r).pkg.directors = BitVec.allOnes 8 ∧
    (s.bringUpDone r).pkg.goAt = s.clk ∧ (s.bringUpDone r).pkg.mscActive = s.pkg.mscmode ∧
    (∀ n, (isIfl n || isDieLink n) = true → ((s.bringUpDone r).link n).up = true) ∧
    (∀ d, d < 8 → ((s.bringUpDone r).die d).image = s.pkg.image) ∧
    (s.pkg.log.length = 4 → (s.bringUpDone r).pkg.log.length = 13) := by
  obtain ⟨hp, hlink, himg⟩ := foldl_loadImage (s.linksUp (iflLinks ++ dieLinks)) 8
  rw [linksUp_pkg] at hp himg
  obtain ⟨hphase, hdir, hgo, hmsc, hlog⟩ := directed_spec (s.pkg.measureDies r) s.clk
  rw [bringUpDone_eq h hd hc hh hl, mapPkg_pkg, hp]
  refine ⟨hphase, hdir, hgo, hmsc.trans (measureDies_mscmode _ r), fun n hn => ?_, fun d hd => ?_, fun h4 => ?_⟩
  · rw [mapPkg_link, hlink]
    exact linksUp_link_up s _ n (.inl (mem_bringUp_links hn))
  · rw [mapPkg_die]
    exact himg d hd
  · rw [hlog, measureDies_log r h4]

/-! ### The Directors (R77, R78) -/

/-- A Director that is not the last one to be ready is noted. -/
theorem directorUp_waits {s : State} {die : Nat} (h : s.pkg.at .waitReady = true)
    (hn : s.pkg.diesUp ||| ((1#8) <<< die) ≠ BitVec.allOnes 8) :
    s.directorUp die = s.mapPkg (fun p => { p with diesUp := p.diesUp ||| ((1#8) <<< die) }) := by
  unfold State.directorUp
  rw [if_pos h]
  exact if_neg hn

/-- The package of a device that runs. -/
def Package.started (p : Package) : Package :=
  { p with
    fstart := { p.fstart with
      count := 0
      begun := false }
    mode := 3
    phase := .running }

/-- With the last Director the device runs, and reports its start. -/
theorem directorUp_runs {s : State} {die : Nat} (h : s.pkg.at .waitReady = true)
    (hn : s.pkg.diesUp ||| ((1#8) <<< die) = BitVec.allOnes 8) :
    (s.directorUp die).pkg = ({ s.pkg with diesUp := s.pkg.diesUp ||| ((1#8) <<< die) } : Package).started ∧
    BootRecord s (s.directorUp die) s.pkg.cause := by
  have hup : s.directorUp die =
      (((s.mapPkg (fun p => { p with diesUp := p.diesUp ||| ((1#8) <<< die) })).mapPkg Package.started).layOut).bootRecord s.pkg.cause := by
    unfold State.directorUp
    rw [if_pos h]
    exact if_pos hn
  obtain ⟨hp, hh⟩ := sameEdge_layOut ((s.mapPkg (fun p => { p with diesUp := p.diesUp ||| ((1#8) <<< die) })).mapPkg Package.started)
  rw [hup]
  refine ⟨?_, bootRecord_records _ (hh.trans rfl)⟩
  rw [bootRecord_pkg, hp, mapPkg_pkg, mapPkg_pkg]

end Sys2Proof.Machine

/-! The events of power and of the start (O51). -/

namespace Sys2Proof.Machine

open Sys2Proof Sys2Proof.Claims

theorem at_iff (s : State) (ph : BootPhase) : s.pkg.at ph = true ↔ At s ph := by simp [Package.at, At]

/-! ### Rails and power (R18, R19, R78) -/

/-- R18: with its rails in range a package that waits for them starts. -/
theorem railsUp_starts {s : State} (h : At s .rails ∨ At s .off) :
    Starts s s.railsUp s.pkg.cause ∧ s.railsUp.pkg.powered = true ∧ s.railsUp.pkg.rails = BitVec.allOnes 20 := by
  have hs : (s.pkg.at .rails || s.pkg.at .off) = true := by
    rw [Bool.or_eq_true, at_iff, at_iff]
    exact h
  have hup : s.railsUp = (s.mapPkg (fun p => { p with
      powered := true
      rails := BitVec.allOnes 20
      dieReset := false })).beginStart s.pkg.cause := by
    simp only [State.railsUp, hs, if_true]
    rfl
  rw [hup]
  refine ⟨starts_beginStart _ rfl, ?_, ?_⟩
  · rw [(beginStart_pkg _ _).1, mapPkg_pkg]
  · rw [(beginStart_pkg _ _).2, mapPkg_pkg]

/-- R78: a rail out of its range fails a start, or a device that runs. -/
theorem railOut_fails {s : State} (rail : Nat) (ht : s.pkg.tripped = none)
    (hp : s.pkg.phase ∉ [BootPhase.rails, .off, .failed, .minimal]) :
    s.railOut rail = (s.mapPkg (fun p => { p with rails := p.rails &&& ~~~((1#20) <<< rail) })).failStart 0x0A := by
  unfold State.railOut
  dsimp only
  rw [mapPkg_pkg, if_neg (by simp [ht])]
  split
  all_goals simp_all

/-- The rail that is out of range reads so. -/
theorem rails_clear (x : BitVec 20) (rail : Fin 20) : (x &&& ~~~((1#20) <<< rail.val)).getLsbD rail.val = false := by
  simp [rail.isLt]

/-- R19: what is left without power. -/
theorem unpower_keeps (s : State) :
    s.unpower.pkg.fstart = s.pkg.fstart ∧ s.unpower.running = false ∧ s.unpower.pkg.phase = .off ∧
    s.unpower.host.mem = s.host.mem ∧ s.unpower.host.cueRcvd = 0 ∧ s.unpower.host.evtSent = 0 ∧ s.unpower.host.store = [] ∧
    s.unpower.groups = [] ∧ s.unpower.mem.dram = [] :=
  ⟨rfl, rfl, rfl, rfl, rfl, rfl, rfl, rfl, rfl⟩

/-! ### The thermal trip (R27) -/

/-- The trip is told once, while the IHL is up. -/
theorem thermalTripEvent_reports {s : State} {k : Nat} {r : BitVec 16} (h : s.pkg.tripped = some (k, r)) :
    ∃ t, exec .thermalTripEvent s = .next t ∧ (s.pkg.tripTold = false → s.ihlUp = true →
      Reported s t 0 { kind := 0x0E, src := srcIo, body := [(16, bytesNat 1 k), (18, bytesNat 2 r.toNat)] }) := by
  show ∃ t, execThermalTripEvent s = .next t ∧ _
  refine ⟨_, rfl, fun hn hu => ?_⟩
  simp only [h, hn, hu, Bool.not_true, Bool.or_self, Bool.false_eq_true, if_false]
  exact hwEvent_reported (s.mapPkg (fun p => { p with tripTold := true })) _

theorem thermTripNAssert_sets {s : State} (h : s.pkg.tripped ≠ none) :
    exec .thermTripNAssert s = .next (s.mapPkg (fun p => { p with thermN := true })) := by
  show execThermTripNAssert s = _
  simp [execThermTripNAssert, Option.isSome_iff_ne_none.2 h]

/-! ### Power limits (R21, R28) -/

/-- Without power, or after a trip, no limit is written. -/
theorem plimWrite_idle {s : State} (die : Fin 8) (w : Word) (h : s.pkg.powered = false ∨ s.pkg.tripped ≠ none) :
    exec (.plimWrite die w) s = .next s := by
  show Host.Outcome.next (s.ifPowered (fun s => s.writePlim die.val w.toNat)) = _
  obtain h | h := h
  · simp [State.ifPowered, h]
  · simp [State.ifPowered, State.writePlim, Option.isSome_iff_ne_none.2 h]

theorem plimWrite_powered {s : State} (die : Fin 8) (w : Word) (h : s.pkg.powered = true) :
    exec (.plimWrite die w) s = .next (s.writePlim die.val w.toNat) := by
  show Host.Outcome.next (s.ifPowered (fun s => s.writePlim die.val w.toNat)) = _
  simp [State.ifPowered, h]

/-! ### Waits of a start that run out (R78) -/

theorem goTimeout_fails {s : State} (h : At s .waitGo) : exec .goTimeout s = .next (s.failStart 0x02) := by
  show Host.Outcome.next (if s.pkg.at .waitGo then s.failStart 0x02 else s) = _
  rw [if_pos ((at_iff s _).2 h)]

theorem readyTimeout_fails {s : State} (h : At s .waitReady) : exec .readyTimeout s = .next (s.failStart 0x08) := by
  show Host.Outcome.next (if s.pkg.at .waitReady then s.failStart 0x08 else s) = _
  rw [if_pos ((at_iff s _).2 h)]

theorem bootGo_eq {s : State} (h : At s .waitGo) : s.bootGo = { s with pkg := { s.pkg with phase := .readImage } } := by
  unfold State.bootGo
  rw [if_pos ((at_iff s _).2 h)]
  rfl

/-! ### O51 -/

/-- Settles O51: each clause is what the lemmas above say of one event. -/
theorem powerAndStartEvents : Obligations.PowerAndStartEvents := by
  unfold Obligations.PowerAndStartEvents
  refine ⟨?_, ?_, ?_, ?_, ?_, ?_, ?_, ?_, ?_, ?_, ?_, ?_, ?_, ?_⟩
  -- the rails
  · exact fun s h => ⟨s.railsUp, rfl, railsUp_starts h⟩
  -- power removal
  · exact fun s => ⟨s.unpower, rfl, unpower_keeps s⟩
  -- a rail out of range
  · intro s rail ht hp
    refine ⟨s.railOut rail.val, rfl, ?_⟩
    rw [railOut_fails rail.val ht hp]
    refine ⟨fails_of_eq 0x0A rfl rfl rfl, ?_⟩
    rw [failStart_pkg]
    exact rails_clear _ rail
  -- a sensor sample
  · intro s xs hp
    obtain ⟨hs, hd⟩ := sample_pkg (xs := xs) hp
    obtain ⟨q, -, hcap⟩ := sampled_eq s.pkg xs
    refine ⟨s.sample xs, rfl, fun k x hk hx => ?_, fun n hn ⟨j, hj, hh⟩ => ?_, fun n hn hl hh => ?_, fun ht ⟨k, hk, hh⟩ => ?_⟩
    · rw [hs, sampled_sensor hk hx, sensorWord]
      by_cases h72 : k < 72
      · rw [if_neg (Nat.not_le.2 h72), if_pos h72]
      · rw [if_pos (Nat.not_lt.1 h72), if_neg h72]
    · rw [hd, hcap n hn]
      exact capped_of_hotter _ hn hj hh
    · rw [hd, hcap n hn]
      exact uncapped_of_cool _ hn hl hh
    · exact sample_trips hp ht hk hh
  -- the thermal trip
  · intro s k r h
    obtain ⟨t, ht, hrep⟩ := thermalTripEvent_reports h
    exact ⟨t, _, ht, thermTripNAssert_sets (by simp [h]), rfl, hrep⟩
  -- power capping
  · exact fun s ws h => congrArg Host.Outcome.next (capPower_idle ws h)
  · intro s ws hp ht
    refine ⟨s.capPower ws, rfl, fun d hd => ?_⟩
    obtain ⟨n, hn⟩ := capPower_die ws hp ht hd
    rw [hn]
    exact evaluate_spec _ _ n
  -- a power limit
  · exact fun s die w h => plimWrite_idle die w h
  · exact fun s die w hp ht => ⟨_, plimWrite_powered die w hp, writePlim_spec die.val w.toNat ht⟩
  -- `go` and its absence
  · exact fun s h => ⟨s.bootGo, _, rfl, goTimeout_fails h, bootGo_eq h, fails_failStart s 0x02⟩
  -- `clr` and `rst`
  · intro s
    refine ⟨s.bootClr, s.bootRst, rfl, rfl, bootClrRst_idle, fun hm => ⟨bootClr_eq hm, bootRst_tripped, fun ht => ?_⟩⟩
    obtain ⟨hgo, hwait⟩ := bootRst_starts hm ht
    obtain ⟨hgroups, hctx, hdram, hcues⟩ := bootRst_wipes hm ht
    obtain ⟨hkeep, hsent⟩ := bootRst_tells hm ht
    exact ⟨hgo, hwait, hkeep.cueRcvd, hkeep.evtSent, hkeep.store, hkeep.ringOk, hgroups, hctx, hdram, hcues, hsent⟩
  -- the image
  · intro s h
    have hat := (at_iff s _).2 h
    refine ⟨s.readImage, rfl, ?_⟩
    rcases hb : s.imageBytes with ⟨hdr, body⟩
    refine ⟨fun hg => ?_, fun hg => ?_, fun hg ho => ?_, fun hg ho => (readImage_new hat hb hg ho).2⟩
    · rw [readImage_bad hat hb hg]
      exact fails_failStart s _
    · by_cases ho : field hdr 4 4 % 2 ^ 32 < Config.fusedMinVersion.toNat
      · rw [readImage_old hat hb hg ho, failStart_pkg, mapPkg_pkg]
      · exact (readImage_new hat hb hg ho).1
    · rw [readImage_old hat hb hg ho]
      exact fails_of_eq 0x03 rfl rfl rfl
  -- the dies come up
  · intro s r h
    have hat := (at_iff s _).2 h
    obtain ⟨hdies, hcache, hhbm, hlink⟩ := bringUpDone_fails (r := r) hat
    refine ⟨s.bringUpDone r, rfl, ?_⟩
    split
    next hd => exact hdies hd ▸ fails_failStart s _
    next hd =>
      have hd := not_not.1 hd
      split
      next hc => exact hcache hd hc ▸ fails_failStart s _
      next hc =>
        have hc := Bool.eq_true_of_not_eq_false hc
        split
        next hh => exact hhbm hd hc hh ▸ fails_failStart s _
        next hh =>
          have hh := Bool.eq_true_of_not_eq_false hh
          split
          next hl => exact hlink hd hc hh hl ▸ fails_failStart s _
          next hl =>
            exact bringUpDone_goes hat hd hc hh (Bool.eq_true_of_not_eq_false hl)
  -- the Directors
  · intro s die h
    have hat := (at_iff s _).2 h
    refine ⟨s.directorUp die.val, _, rfl, readyTimeout_fails h, fails_failStart s _, ?_⟩
    by_cases hup : s.pkg.diesUp ||| ((1#8) <<< die.val) = BitVec.allOnes 8
    · obtain ⟨hp, hrec⟩ := directorUp_runs hat hup
      dsimp only
      rw [if_pos hup, hp]
      exact ⟨rfl, rfl, rfl, rfl, hrec⟩
    · dsimp only
      rw [if_neg hup, directorUp_waits hat hup]
      exact ⟨rfl, h.1, rfl⟩

end Sys2Proof.Machine

/-! What caches and device memory do, and what they leave alone (R93, R127 to R137). -/

namespace Sys2Proof.Machine

open Sys2Proof Sys2Proof.Claims

/-- The state without what the caches and device memory hold: copies, leases, timestamps, directories, the bytes of memory, the
system-scope lines of this device, and the events that are to land. -/
def State.bare (s : State) : State :=
  { s with
    fab := { s.fab with lines := [] }
    mem := { s.mem with
      dram := []
      msc := []
      foot := [] }
    cores := []
    slices := []
    l2 := []
    dieDir := []
    agenda := [] }

/-- Updates that each leave the bare state leave it together. -/
theorem foldl_bare {β : Type} (f : State → β → State) (h : ∀ t x, (f t x).bare = t.bare) (xs : List β) (s : State) :
    (xs.foldl f s).bare = s.bare :=
  List.foldlRecOn (motive := fun t : State => t.bare = s.bare) xs f rfl (fun t ht x _ => (h t x).trans ht)

@[simp] theorem post_bare (s : State) (e : Instr) : (s.post e).bare = s.bare := rfl
@[simp] theorem setL2_bare (s : State) (k : Nat) (x : Option L2Line) : (s.setL2 k x).bare = s.bare := rfl
@[simp] theorem setSlice_bare (s : State) (k : Nat) (x : Slice) : (s.setSlice k x).bare = s.bare := rfl
@[simp] theorem setCore_bare (s : State) (k : Nat) (x : Core) : (s.setCore k x).bare = s.bare := rfl
@[simp] theorem leaseEnd_bare (s : State) (d : Nat) (p : L1Line → Bool) : (s.leaseEnd d p).bare = s.bare := rfl
@[simp] theorem strikeAll_bare (s : State) (p : Watch → Bool) : (s.strikeAll p).bare = s.bare := rfl
@[simp] theorem setDieEntry_bare (s : State) (l : Nat) (x : DieDir) : (s.setDieEntry l x).bare = s.bare := rfl
@[simp] theorem setSysLine_bare (s : State) (g : LineAddr) (x : SysLine) : (s.setSysLine g x).bare = s.bare := rfl
@[simp] theorem setDram_bare (s : State) (k : Nat) (b : Byte) : (s.setDram k b).bare = s.bare := rfl
@[simp] theorem leaveL2_bare (s : State) (k : Nat) (x : L2Line) : (s.leaveL2 k x).bare = s.bare := by simp [State.leaveL2]

@[simp] theorem dropApertures_bare (s : State) : s.dropApertures.bare = s.bare := by
  unfold State.dropApertures
  refine (foldl_bare _ (fun t e => ?_) _ _).trans rfl
  split <;> simp

@[simp] theorem setDramBytes_bare (s : State) (k : Nat) (bs : List (Nat × Byte)) : (s.setDramBytes k bs).bare = s.bare := by
  unfold State.setDramBytes
  exact foldl_bare _ (by intros; rfl) bs s

@[simp] theorem writeNames_bare (s : State) (loc : Nat) (bs : List (Nat × Byte)) : (s.writeNames loc bs).bare = s.bare := by
  unfold State.writeNames
  exact foldl_bare _ (by intros; rfl) _ s

@[simp] theorem beginRebase_bare (s : State) (sk : Nat) : (s.beginRebase sk).bare = s.bare := by
  unfold State.beginRebase
  dsimp only
  split <;> simp

@[simp] theorem toHome_bare (s : State) (loc : Nat) (bs : List (Nat × Byte)) : (s.toHome loc bs).bare = s.bare := by
  unfold State.toHome
  split
  · rfl
  · refine (foldl_bare _ (fun t e => ?_) _ _).trans (by simp)
    dsimp only
    split <;> simp

@[simp] theorem cleanCopies_bare (s : State) (loc die : Nat) (m : BitVec 128) : (s.cleanCopies loc die m).bare = s.bare := by
  unfold State.cleanCopies
  exact foldl_bare _ (by intros; rfl) _ s

@[simp] theorem dieWriteback_bare (s : State) (loc die : Nat) (st : DirState) : (s.dieWriteback loc die st).bare = s.bare := by
  unfold State.dieWriteback
  dsimp only
  split
  · rfl
  · split <;> simp

@[simp] theorem dropL2_bare (s : State) (k : Nat) : (s.dropL2 k).bare = s.bare := by
  unfold State.dropL2
  split <;> simp

@[simp] theorem forgetSys_bare (s : State) (g : LineAddr) : (s.forgetSys g).bare = s.bare := by simp [State.forgetSys]

/-! ### A line that has left an L2 -/

/-- No entry of the map of L2 lines, shadowed or not, has the key. -/
def State.l2Lacks (s : State) (k : Nat) : Prop := ∀ e ∈ s.l2, e.1 ≠ k

theorem get_of_lacks {α : Type} {m : SMap (Option α)} {k : Nat} (h : ∀ e ∈ m, e.1 ≠ k) : SMap.get none m k = none := by
  cases hg : SMap.get none m k with
  | none => rfl
  | some x => exact absurd rfl (h _ (mem_of_get_eq_some hg))

theorem mem_set {α : Type} [DecidableEq α] {d : α} {m : SMap α} {k : Nat} {v : α} {e : Nat × α} (h : e ∈ SMap.set d m k v) :
    e = (k, v) ∨ e ∈ m := by
  unfold SMap.set at h
  split at h
  · exact .inr (List.mem_filter.1 h).1
  · exact SMap.mem_insert h

theorem leaveL2_l2 (s : State) (k : Nat) (x : L2Line) : (s.leaveL2 k x).l2 = SMap.erase s.l2 k := rfl

theorem l2Lacks_leaveL2 (s : State) (k : Nat) (x : L2Line) : (s.leaveL2 k x).l2Lacks k := fun _ he => by
  have hne := (List.mem_filter.1 (leaveL2_l2 s k x ▸ he)).2
  exact bne_iff_ne.1 hne

theorem l2Lacks_setL2 {s : State} {k j : Nat} {x : Option L2Line} (h : s.l2Lacks k) (hj : j ≠ k) : (s.setL2 j x).l2Lacks k := by
  intro e he
  rcases mem_set he with rfl | he
  · exact hj
  · exact h e he

theorem l2Lacks_of_l2 {s t : State} {k : Nat} (h : s.l2Lacks k) (hl : t.l2 ⊆ s.l2) : t.l2Lacks k := fun e he => h e (hl he)

/-- The copies of a location are listed under their keys. -/
theorem mem_copiesOf {s : State} {loc : Nat} {p : Nat → Bool} {e : Nat × L2Line} (h : e ∈ s.copiesOf loc p) :
    (e.1, some e.2) ∈ s.l2 ∧ e.2.loc = loc ∧ p e.1 = true := by
  obtain ⟨⟨k, y⟩, hy, hx⟩ := List.mem_filterMap.1 h
  cases y with
  | none => simp at hx
  | some x =>
    simp only at hx
    split at hx
    · rename_i hc
      simp only [Option.some.injEq] at hx
      subst hx
      simpa using And.intro hy hc
    · simp at hx

theorem l2Lacks_dropApertures {s : State} {k : Nat} (h : s.l2Lacks k) : s.dropApertures.l2Lacks k :=
  List.foldlRecOn (motive := fun t : State => t.l2Lacks k) _ _ h (fun t ht _ _ => by
    split
    · exact l2Lacks_of_l2 ht (List.filter_subset_self _)
    · exact ht)

@[simp] theorem setDramBytes_l2 (s : State) (k : Nat) (bs : List (Nat × Byte)) : (s.setDramBytes k bs).l2 = s.l2 :=
  List.foldlRecOn (motive := fun t : State => t.l2 = s.l2) bs _ rfl (fun _ ht _ _ => ht)

@[simp] theorem writeNames_l2 (s : State) (loc : Nat) (bs : List (Nat × Byte)) : (s.writeNames loc bs).l2 = s.l2 :=
  List.foldlRecOn (motive := fun t : State => t.l2 = s.l2) _ _ rfl (fun _ ht _ _ => ht)

@[simp] theorem beginRebase_l2 (s : State) (sk : Nat) : (s.beginRebase sk).l2 = s.l2 := by
  unfold State.beginRebase
  dsimp only
  split <;> rfl

theorem l2Lacks_toHome {s : State} {k : Nat} (h : s.l2Lacks k) (loc : Nat) (bs : List (Nat × Byte)) : (s.toHome loc bs).l2Lacks k := by
  unfold State.toHome
  split
  · exact h
  · have h' : (((s.setDramBytes loc bs).writeNames loc bs).dropApertures).l2Lacks k :=
      l2Lacks_dropApertures (l2Lacks_of_l2 h (by simp))
    refine List.foldlRecOn (motive := fun t : State => t.l2Lacks k) _ _ h' (fun t ht e he => ?_)
    have hk : e.1 ≠ k := h' _ (mem_copiesOf he).1
    have hs := l2Lacks_setL2 (x := some (e.2.takeBytes bs)) ht hk
    dsimp only
    split
    · exact l2Lacks_of_l2 hs (by simp [State.leaseEnd])
    · exact hs

theorem l2Lacks_cleanCopies {s : State} {k : Nat} (h : s.l2Lacks k) (loc die : Nat) (m : BitVec 128) :
    (s.cleanCopies loc die m).l2Lacks k :=
  List.foldlRecOn (motive := fun t : State => t.l2Lacks k) _ _ h
    (fun _ ht _ he => l2Lacks_setL2 ht (h _ (mem_copiesOf he).1))

@[simp] theorem dieWriteback_l2 (s : State) (loc die : Nat) (st : DirState) : (s.dieWriteback loc die st).l2 = s.l2 := by
  unfold State.dieWriteback
  dsimp only
  split
  · rfl
  · split <;> rfl

/-- A line that has been removed from an L2 cannot be looked up any more, whatever else its key was listed with. -/
@[simp] theorem dropL2_l2At (s : State) (k : Nat) : (s.dropL2 k).l2At k = none := by
  unfold State.dropL2
  split
  · assumption
  · next x _ =>
    refine get_of_lacks ?_
    rw [dieWriteback_l2]
    exact l2Lacks_cleanCopies (l2Lacks_toHome (l2Lacks_leaveL2 s k x) _ _) _ _ _

/-- Removing a line that an L2 does not hold does nothing. -/
theorem dropL2_absent {s : State} {k : Nat} (h : s.l2At k = none) : s.dropL2 k = s := by simp [State.dropL2, h]

/-! ### A system-scope line that this device gives up -/

@[simp] theorem sysLine_setSysLine (s : State) (g : LineAddr) (x : SysLine) : (s.setSysLine g x).sysLine g = x := by
  by_cases h : x = .none
  · simp [State.sysLine, State.setSysLine, h]
  · simp [State.sysLine, State.setSysLine, h]

theorem sysLine_setSysLine_other (s : State) {g h : LineAddr} (x : SysLine) (hne : h ≠ g) :
    (s.setSysLine g x).sysLine h = s.sysLine h := by
  have : h.toNat ≠ g.toNat := fun he => hne (BitVec.eq_of_toNat_eq he)
  simp [State.sysLine, State.setSysLine, SMap.get_set_other _ _ _ this]

@[simp] theorem sysLine_forgetSys (s : State) (g : LineAddr) : (s.forgetSys g).sysLine g = { s.sysLine g with st := .i, data := 0 } := by
  simp [State.forgetSys]

@[simp] theorem forgetSys_l2At (s : State) (g : LineAddr) :
    (s.forgetSys g).l2At (l2Key (homeDie (fabricVa g)) 0 (fabricVa g)) = none := by
  simp [State.forgetSys]

end Sys2Proof.Machine

/-! A copy whose own read makes its write wait (O55). -/

namespace Sys2Proof.Machine

open Sys2Proof Sys2Proof.Claims

/-! ### The state -/

/-- The copy goes from the first 16 bytes of a line of window 8 to the next 16. -/
def crowdSrc : VA := placedPc

def crowdDst : VA := placedPc + 16

/-- A leaf that maps the page of the line to package frame 0: device scope, atomics in the base die. -/
def crowdLeaf : DWord := 0x9300000000000000#64

/-- A leaf that maps the first page of this device's system-scope memory to the same frame. -/
def crowdFabricLeaf : DWord := 0xC300000000000000#64

/-- The location of the line. -/
def crowdLoc : Nat := packageLine 0 0 0

/-- Keys of the L2 of CD0: lines of window 10 of its slice 0, one of each page. -/
def crowdKey (i : Nat) : Nat := 10 * 2 ^ 41 + 512 * i

/-- An L2's copy of a system-scope line. -/
def crowdLine : L2Line :=
  { st := .e, wts := 0, rts := 0, attr := leafAttr crowdFabricLeaf, loc := crowdLoc, dirty := 0, data := 0, touched := 0 }

/-- A slice that is full (R4). -/
def crowdL2 : SMap (Option L2Line) := (List.range sliceLines).map (fun i => (crowdKey i, some crowdLine))

/-- The copy, alone in flight. -/
def crowdOp : MemOp :=
  { id := 0, kind := .copy crowdDst crowdSrc 1 16 0 0, cls := .cp, level := 0, user := true, sel := .a, pc := placedPc, word := 0,
    lit := 0, order := .relaxed, miss := false, lanes := 1, addrs := [], ptes := [], data := [], regs := [], dst := 0, ty := 0,
    ticket := false, done := false }

def crowdGroup : Group := { placedGroup with
  ops := [crowdOp]
  nextOp := 1 }

/-- This device holds its own line 0 of window 10 in E; the entry of that line at a switch says that port 1 shares it. -/
def crowdFabric : Fabric :=
  { Fabric.reset with
    inForce := true
    lines := [(0, some { st := .e, data := 0, miss := none, waited := 0, wbWait := false })]
    switches := [(0, { Switch.reset with
      dir := [(0, some { age := 0, st := .s, busy := false, gla := 0, own := 0, shv := 2 })] })] }

def crowdState : State :=
  { State.reset with
    fab := crowdFabric
    mem := { State.reset.mem with tcache := [(tkey 0 placedPc, crowdLeaf), (tkey 0 (fabricVa 0#41), crowdFabricLeaf)] }
    l2 := crowdL2
    groups := [(0, some crowdGroup)] }

/-- What is true of the state whatever its caches hold. -/
def Crowded (s : State) : Prop := s.bare = crowdState.bare

theorem crowded_state : Crowded crowdState := rfl

section
variable {s : State} (h : Crowded s)
include h

theorem crowded_groups : s.groups = [(0, some crowdGroup)] := congrArg State.groups h

theorem crowded_group : s.group? 0 = some crowdGroup := by simp [State.group?, crowded_groups h, SMap.get]

theorem crowded_owned (loc : Nat) : s.engineOwned loc = false := by
  have : s.arenas = [] := congrArg State.arenas h
  simp [State.engineOwned, this]

theorem crowded_poisoned (loc : Nat) : s.poisoned loc = false := by
  have : s.mem.poison = [] := congrArg (fun t => t.mem.poison) h
  simp [State.poisoned, this]

theorem crowded_tcache : s.mem.tcache = [(tkey 0 placedPc, crowdLeaf), (tkey 0#8 (fabricVa 0#41), crowdFabricLeaf)] :=
  congrArg (fun t => t.mem.tcache) h

theorem crowded_mbound : s.mem.mbound = 0 := congrArg (fun t => t.mem.mbound) h

theorem crowded_leaf {va : VA} (hv : va = crowdSrc ∨ va = crowdDst) : leafOf s 0#8 va = .ok crowdLeaf := by
  have hf : SMap.find? s.mem.tcache (tkey 0#8 va) = some crowdLeaf := by
    rw [crowded_tcache h]
    obtain rfl | rfl := hv <;> decide
  rw [leafOf, hf]

theorem crowded_loc {va : VA} (hv : va = crowdSrc ∨ va = crowdDst) : lineLoc s 0#8 va crowdLeaf = crowdLoc := by
  have hw : windowOf va = 8 := by obtain rfl | rfl := hv <;> decide
  simp only [lineLoc, lineKey, hw, crowded_mbound h]
  obtain rfl | rfl := hv <;> rfl

/-- The line has a second name: line 0 of window 10. -/
theorem crowded_homeKey : s.homeKey 0#41 = some crowdLoc := by
  have hl : leafOf s 0 (fabricVa 0#41) = .ok crowdFabricLeaf := by
    have hf : SMap.find? s.mem.tcache (tkey 0 (fabricVa 0#41)) = some crowdFabricLeaf := by
      rw [crowded_tcache h]
      decide
    rw [leafOf, hf]
  have hw : windowOf (fabricVa 0#41) = 10 := by decide
  simp only [State.homeKey, hl, lineKey, hw, crowded_mbound h]
  rfl

/-- A write of the line must ask the fabric, unless this device holds its second name so that it may write it (R93); a read need not. -/
theorem crowded_abroad (own : Bool) :
    s.heldAbroad crowdLoc own = if own && !(s.sysLine 0#41).held true then some 0#41 else none := by
  have hin : s.fab.inForce = true := congrArg (fun t => t.fab.inForce) h
  have hsw : s.fab.switches = crowdFabric.switches := congrArg (fun t => t.fab.switches) h
  have hc : s.fab.cfg = PartCfg.reset := congrArg (fun t => t.fab.cfg) h
  have hd : homeDevice 0#41 = PartCfg.reset.devno := by decide
  have hp : ¬ 2#64 &&& ~~~(1#64 <<< (portOf PartCfg.reset.devno).val) = 0#64 := by decide
  cases own <;> cases hh : (s.sysLine 0#41).held true <;>
    simp [State.heldAbroad, hin, hsw, hc, crowdFabric, hd, hp, hh, crowded_homeKey h]

end

/-! ### The hypotheses -/

theorem crowdState_l2 : crowdState.l2 = crowdL2 := by simp only [crowdState]

theorem mem_crowdL2 {e : Nat × Option L2Line} (he : e ∈ crowdState.l2) : e.2 = some crowdLine ∧ 10 * 2 ^ 41 ≤ e.1 ∧ l2KeySlice e.1 = 0 := by
  rw [crowdState_l2] at he
  rw [crowdL2] at he
  obtain ⟨i, hi, rfl⟩ := List.mem_map.1 he
  have hi : i < sliceLines := List.mem_range.1 hi
  rw [sliceLines] at hi
  refine ⟨rfl, by simp [crowdKey], ?_⟩
  have hd : l2KeyDie (crowdKey i) = 0 := by
    simp only [l2KeyDie, crowdKey]
    omega
  have hl : l2KeyLine (crowdKey i) % 512 = 0 := by
    simp only [l2KeyLine, crowdKey]
    omega
  simp [l2KeySlice, hd, hl, sliceKeyOf, sliceOf]

theorem mem_of_l2At {s : State} {k : Nat} {x : L2Line} (h : s.l2At k = some x) : (k, some x) ∈ s.l2 := mem_of_get_eq_some h

/-- The slice does not hold the line of window 8. -/
theorem crowd_absent {va : VA} (hv : va = crowdSrc ∨ va = crowdDst) : crowdState.l2At (l2Key 0 0#8 va) = none := by
  refine get_of_lacks (fun e he => ?_)
  have hk : l2Key 0 0#8 va = 8 * 2 ^ 41 := by obtain rfl | rfl := hv <;> decide
  have := (mem_crowdL2 he).2.1
  omega

theorem crowd_alone : Alone crowdState 0 crowdGroup crowdOp := ⟨crowded_group crowded_state, rfl, rfl, rfl, rfl⟩

theorem crowd_late (write : Bool) {va : VA} (hv : va = crowdSrc ∨ va = crowdDst) :
    crowdState.lateChannel crowdGroup crowdOp write va 16 = .ok crowdLeaf := by
  have hw : windowOf va = 8 := by obtain rfl | rfl := hv <;> decide
  have hc : crowdGroup.ctx = 0#8 := rfl
  have hid : crowdGroup.coreId = 0 := by decide
  have hl1 : crowdState.l1Find 0 0#8 va = none := by
    have : ∀ n, SMap.get none (crowdState.core 0).l1 (l1Key va n) = none := fun _ => rfl
    simp [State.l1Find, this]
  have hperm : permBad (leafAttr crowdLeaf) .read false = false ∧ permBad (leafAttr crowdLeaf) .write false = false := by decide
  have hserve : serveDie 0 va (leafAttr crowdLeaf) = 0 := by obtain rfl | rfl := hv <;> decide
  have hch : crowdState.channel 0#8 (!crowdOp.user) write va = .ok crowdLeaf := by
    cases write <;>
      simp [State.channel, isScratch, hw, translate, crowded_leaf crowded_state hv, crowded_poisoned crowded_state, hperm, crowdOp]
  have hhit : crowdState.hitAttr 0 0#8 va crowdLeaf = none := by
    simp [State.hitAttr, tagFor, hw, hl1, hserve, crowd_absent hv]
  simp [State.lateChannel, issueCheck, hw, State.channelFor, hc, hid, hch, hhit]

theorem crowd_sysLine : crowdState.sysLine 0#41 = { st := .e, data := 0, miss := none, waited := 0, wbWait := false } := by
  simp [State.sysLine, crowdState, crowdFabric, SMap.get]

/-- The line is served at home. -/
theorem crowd_home {va : VA} (hv : va = crowdSrc ∨ va = crowdDst) : HomeLine crowdState 0 0#8 va crowdLeaf 0 := by
  have hloc := crowded_loc crowded_state hv
  refine ⟨?_, by decide, crowded_owned crowded_state _, crowded_poisoned crowded_state _, ?_, rfl, fun _ _ => rfl, fun _ => rfl, ?_, ?_,
    fun k x hx => ?_⟩
  · obtain rfl | rfl := hv <;> decide
  · have hheld : (crowdState.sysLine 0#41).held true = true := by simp [crowd_sysLine, SysLine.held]
    simp [hloc, crowded_abroad crowded_state, hheld]
  · show Slice.reset.mrts + 1 < rebaseAt
    decide
  · show 0 < Slice.reset.base + rebaseAt
    decide
  · obtain ⟨hx', hk, -⟩ := mem_crowdL2 hx
    obtain rfl : x = crowdLine := by simpa using hx'
    refine ⟨by decide, rfl, fun he => ?_, fun _ hm => absurd hm (by decide)⟩
    have : l2Key 0 (tagFor 0#8 va) va = 8 * 2 ^ 41 := by obtain rfl | rfl := hv <;> decide
    simp only at hk
    omega

/-! ### What the read does -/

theorem leastBy_const {key : Nat → Nat} {c : Nat} (h : ∀ k, key k = c) (x : Nat) (xs : List Nat) : leastBy key (x :: xs) = some x := by
  simp only [leastBy, h, Nat.lt_irrefl, if_false, Option.some.injEq]
  exact List.foldlRecOn (motive := fun a => a = x) xs _ rfl (fun _ ha _ _ => ha)

theorem crowdL2_cons : ∃ rest, crowdL2 = (crowdKey 0, some crowdLine) :: rest := by
  refine ⟨((List.range 131071).map Nat.succ).map (fun i => (crowdKey i, some crowdLine)), ?_⟩
  rw [crowdL2, show sliceLines = 131071 + 1 from rfl, List.range_succ_eq_map, List.map_cons]

/-- The full slice makes way for one more line: it gives up line 0 of window 10, the second name of that line. -/
theorem crowd_makeWay : crowdState.makeWay 0 = crowdState.forgetSys 0#41 := by
  obtain ⟨rest, hrest⟩ := crowdL2_cons
  have hall : crowdState.l2.filter (fun e => l2KeySlice e.1 == 0) = crowdL2 := by
    rw [List.filter_eq_self.2 (fun e he => by simp [(mem_crowdL2 he).2.2]), crowdState_l2]
  have htouch : ∀ k, ((crowdState.l2At k).map (fun x => x.touched)).getD 0 = 0 := by
    intro k
    cases hk : crowdState.l2At k with
    | none => rfl
    | some x =>
      obtain rfl : x = crowdLine := by simpa using (mem_crowdL2 (mem_of_l2At hk)).1
      rfl
  have hfull : ¬ crowdL2.length < sliceLines := by rw [crowdL2, List.length_map, List.length_range]; exact Nat.lt_irrefl _
  have hhead : crowdState.l2At (crowdKey 0) = some crowdLine := by
    rw [State.l2At, crowdState_l2, hrest]
    simp [SMap.get]
  have hva : (BitVec.ofNat 52 (l2KeyLine (crowdKey 0) * 128) : VA) = fabricVa 0#41 := by decide
  have hw : windowOf (fabricVa 0#41) = 10 := by decide
  have hg : globalOf (fabricVa 0#41) = 0#41 := by decide
  have hk : crowdKey 0 = l2Key (homeDie (fabricVa 0#41)) 0 (fabricVa 0#41) := by decide
  have hsys : crowdState.evictSys 0#41 = crowdState.forgetSys 0#41 := by
    simp [State.evictSys, crowd_sysLine, SysLine.dirty]
  simp only [State.makeWay, hall, List.length_map, hfull, if_false]
  rw [hrest, List.map_cons, leastBy_const htouch]
  simp only [State.evictL2, hhead, hva, hw, hg, if_true, hsys]
  rw [hk]
  exact dropL2_absent (forgetSys_l2At _ _)

/-- After the read this device holds the second name no more. -/
def Robbed (s : State) : Prop := Crowded s ∧ (s.sysLine 0#41).st = .i

theorem robbed_setL2 {s : State} (h : Robbed s) (k : Nat) (x : Option L2Line) : Robbed (s.setL2 k x) :=
  ⟨(setL2_bare s k x).trans h.1, h.2⟩

/-- A line that a slice fills past the memory-side cache takes the place of another. -/
theorem ensureL2_absent {s : State} {die : Nat} {c : Ctx} {va : VA} {e : DWord} (h : s.l2At (l2Key die c va) = none)
    (hms : (leafAttr e).ms = true) :
    ∃ x, s.ensureL2 die c va e = ((s.makeWay (l2KeySlice (l2Key die c va))).setL2 (l2Key die c va) (some x), x) := by
  have hfill : ∀ (t : State) loc, t.fillFrom die va loc (leafAttr e) = (t, false) := by simp [State.fillFrom, mscTakes, hms]
  simp only [State.ensureL2, h, hfill]
  exact ⟨_, rfl⟩

theorem sliceRead_waits {s : State} {core : Nat} {c : Ctx} {va : VA} {e : DWord}
    (h : s.mustWait core (serveDie core va (leafAttr e)) (tagFor c va) va e false = true) : s.sliceRead core c va e = .blocked s := by
  simp [State.sliceRead, h]

/-- A read at home that need not wait leaves what its slice does to hold the line. -/
theorem sliceRead_home {s : State} {core : Nat} {c : Ctx} {va : VA} {e : DWord}
    (hwait : s.mustWait core (serveDie core va (leafAttr e)) (tagFor c va) va e false = false)
    (hneed : s.fabricNeed va (lineLoc s (tagFor c va) va e) false = none) (hdies : ∀ t : State, t.betweenDies va (leafAttr e) = false) :
    ∃ x, s.sliceRead core c va e = .done (s.ensureL2 (serveDie core va (leafAttr e)) (tagFor c va) va e).1 x := by
  simp only [State.sliceRead, hwait, hneed, hdies, if_false, Bool.false_eq_true]
  exact ⟨_, rfl⟩

/-- The read waits, or robs the write of what it needs. -/
theorem crowd_read : (∃ t x, crowdState.sliceRead 0 0#8 crowdSrc crowdLeaf = .done t x ∧ Robbed t) ∨
    crowdState.sliceRead 0 0#8 crowdSrc crowdLeaf = .blocked crowdState := by
  have htag : tagFor 0#8 crowdSrc = 0#8 := by decide
  have hserve : serveDie 0 crowdSrc (leafAttr crowdLeaf) = 0 := by decide
  have hslice : l2KeySlice (l2Key 0 0#8 crowdSrc) = 0 := by decide
  have hbetween : ∀ s : State, s.betweenDies crowdSrc (leafAttr crowdLeaf) = false := by
    intro s
    have : coherentPkg crowdSrc (leafAttr crowdLeaf) = false := by decide
    have hw : windowOf crowdSrc = 8 := by decide
    simp [State.betweenDies, this, hw]
  have hloc := crowded_loc crowded_state (.inl rfl)
  have hneed : crowdState.fabricNeed crowdSrc crowdLoc false = none := by
    have hw : windowOf crowdSrc = 8 := by decide
    simp [State.fabricNeed, hw, crowded_abroad crowded_state]
  cases hwait : crowdState.mustWait 0 0 0#8 crowdSrc crowdLeaf false with
  | true => exact .inr (sliceRead_waits (by rw [htag, hserve, hwait]))
  | false =>
    obtain ⟨y, hy⟩ := sliceRead_home (s := crowdState) (core := 0) (c := 0#8) (va := crowdSrc) (e := crowdLeaf)
      (by rw [htag, hserve, hwait]) (by rw [htag, hloc, hneed]) hbetween
    obtain ⟨x, hx⟩ := ensureL2_absent (s := crowdState) (e := crowdLeaf) (crowd_absent (.inl rfl)) (by decide)
    rw [htag, hserve, hx, hslice, crowd_makeWay] at hy
    exact .inl ⟨_, y, hy, robbed_setL2 ⟨forgetSys_bare _ _, by rw [sysLine_forgetSys]⟩ _ _⟩

@[simp] theorem missSys_groups (s : State) (va : VA) (own : Bool) : (s.missSys va own).groups = s.groups := by
  simp only [State.missSys, State.request]
  split
  · rfl
  · split <;> rfl

/-- The write then asks the fabric, and waits. -/
theorem crowd_write {s : State} (h : Robbed s) (bs : List (Nat × Byte)) :
    ∃ t, s.storeLine 0 0#8 crowdDst crowdLeaf bs = .blocked t ∧ t.groups = s.groups := by
  obtain ⟨hc, hi⟩ := h
  have hw : windowOf crowdDst = 8 := by decide
  have hloc := crowded_loc hc (.inr rfl)
  have hneed : s.fabricNeed crowdDst crowdLoc true = some 0#41 := by
    simp [State.fabricNeed, hw, crowded_abroad hc, SysLine.held, hi]
  cases hwait : s.mustWait 0 (serveDie 0 crowdDst (leafAttr crowdLeaf)) 0#8 crowdDst crowdLeaf true with
  | true => exact ⟨s, by simp [State.storeLine, crowded_owned hc, crowded_poisoned hc, tagFor, hw, hwait], rfl⟩
  | false =>
    refine ⟨s.missSys (fabricVa 0#41) true, ?_, missSys_groups s _ _⟩
    simp [State.storeLine, crowded_owned hc, crowded_poisoned hc, tagFor, hw, hwait, State.writeAt, hloc, hneed]

theorem meetLanes_of_flaws {s : State} (h : s.mem.flaws = []) (g : Group) (m : Mask) (addr : Nat → VA) (write : Bool) :
    s.meetLanes g m addr write = s := by simp [State.meetLanes, h]

/-- Where both channels accept a chunk that does not go to the host, it is read, then written. -/
theorem moveChunk_of_blocked {s t : State} {gid : Nat} {g : Group} {o : MemOp} {dst src : VA} {es ed : DWord} (hf : s.mem.flaws = [])
    (hs : s.lateChannel g o false src 16 = .ok es) (hd : s.lateChannel g o true dst 16 = .ok ed) (hw : windowOf dst ≠ 9)
    (hr : s.engineRead gid g o src es = .blocked t) : s.moveChunk gid g o dst src = .waits t := by
  simp [State.moveChunk, meetLanes_of_flaws hf, hs, hd, hw, hr]

theorem moveChunk_of_read {s t : State} {gid : Nat} {g : Group} {o : MemOp} {dst src : VA} {es ed : DWord} {x : Nat} (hf : s.mem.flaws = [])
    (hs : s.lateChannel g o false src 16 = .ok es) (hd : s.lateChannel g o true dst 16 = .ok ed) (hw : windowOf dst ≠ 9)
    (hr : s.engineRead gid g o src es = .done t x) : s.moveChunk gid g o dst src = t.engineWrite gid g o dst ed x := by
  simp [State.moveChunk, meetLanes_of_flaws hf, hs, hd, hw, hr]

/-- A chunk in memory of the package is read as its line is, and written as a store of its bytes is performed. -/
theorem engineRead_of_blocked {s t : State} {gid : Nat} {g : Group} {o : MemOp} {va : VA} {e : DWord} (h : windowOf va = 8)
    (hr : s.sliceRead g.coreId g.ctx va e = .blocked t) : s.engineRead gid g o va e = .blocked t := by
  simp [State.engineRead, isScratch, h, hr]

theorem engineRead_of_done {s t : State} {gid : Nat} {g : Group} {o : MemOp} {va : VA} {e : DWord} {x : Line × L2Line}
    (h : windowOf va = 8) (hr : s.sliceRead g.coreId g.ctx va e = .done t x) :
    s.engineRead gid g o va e = .done t (lineField x.1 (va.toNat % 128) 16) := by
  simp [State.engineRead, isScratch, h, hr]

theorem engineWrite_blocked {s t : State} {gid : Nat} {g : Group} {o : MemOp} {va : VA} {e : DWord} {x : Nat} (h : windowOf va = 8)
    (hb : s.storeLine g.coreId g.ctx va e (storeBytes (va.toNat % 128) 16 x) = .blocked t) :
    s.engineWrite gid g o va e x = .waits t := by
  simp [State.engineWrite, isScratch, h, hb]

/-- So the chunk waits. -/
theorem crowd_move : ∃ t, crowdState.moveChunk 0 crowdGroup crowdOp crowdDst crowdSrc = .waits t ∧ t.groups = crowdState.groups := by
  have hs : windowOf crowdSrc = 8 := by decide
  have hd : windowOf crowdDst = 8 := by decide
  have hd9 : windowOf crowdDst ≠ 9 := by decide
  have hid : crowdGroup.coreId = 0 := by decide
  have hc : crowdGroup.ctx = 0#8 := rfl
  obtain ⟨t, x, hr, ht⟩ | hr := crowd_read
  · obtain ⟨u, hw, hu⟩ := crowd_write ht (storeBytes (crowdDst.toNat % 128) 16 (lineField x.1 (crowdSrc.toNat % 128) 16))
    refine ⟨u, ?_, hu.trans (crowded_groups ht.1)⟩
    rw [moveChunk_of_read rfl (crowd_late false (.inl rfl)) (crowd_late true (.inr rfl)) hd9
      (engineRead_of_done hs (by rw [hid, hc, hr]))]
    exact engineWrite_blocked hd (by rw [hid, hc, hw])
  · exact ⟨crowdState, moveChunk_of_blocked rfl (crowd_late false (.inl rfl)) (crowd_late true (.inr rfl)) hd9
      (engineRead_of_blocked hs (by rw [hid, hc, hr])), rfl⟩

theorem exec_copyComplete (gid : Nat) (s : State) : exec (.copyComplete gid) s = .next (s.runCopies gid) := rfl

/-- A copy alone in flight, and not held back, is the one to go on. -/
theorem runCopies_of_alone {s : State} {gid : Nat} {g : Group} {o : MemOp} {dst src : VA} {rows bytes dp sp : Nat} (h : Alone s gid g o)
    (hk : o.kind = .copy dst src rows bytes dp sp) (hm : g.mayPerform o = true) :
    s.runCopies gid = s.performCopy gid o { dst := dst, src := src, rows := rows, bytes := bytes, dpitch := dp, spitch := sp } := by
  have hu : g.undone = [o] := by simp [Group.undone, h.ops, h.open_]
  simp [State.runCopies, State.runOp, h.group, hu, hk, hm]

/-- A copy of one chunk goes on as its chunk does. -/
theorem performCopy_of_waits {s t : State} {gid : Nat} {g : Group} {o : MemOp} {dst src : VA} (hg : s.group? gid = some g) (hd : o.dst = 0)
    (hm : s.moveChunk gid g o dst src = .waits t) :
    s.performCopy gid o { dst := dst, src := src, rows := 1, bytes := 16, dpitch := 0, spitch := 0 } = t.putOp gid o := by
  simp [State.performCopy, CopyShape.empty, hd, State.moveChunks, hg, hm]

theorem crowd_putOp {t : State} (h : t.group? 0 = some crowdGroup) : (t.putOp 0 crowdOp).group? 0 = some crowdGroup := by
  have hput : t.putOp 0 crowdOp = t.setGroup 0 crowdGroup := by
    rw [State.putOp, h]
    rfl
  rw [hput]
  simp

/-- The copy stays in flight. -/
theorem crowd_stays : (crowdState.runCopies 0).group? 0 = some crowdGroup := by
  obtain ⟨t, ht, hg⟩ := crowd_move
  have hgroup : t.group? 0 = crowdState.group? 0 := by simp only [State.group?, hg]
  rw [runCopies_of_alone crowd_alone rfl (by decide), performCopy_of_waits (crowded_group crowded_state) rfl ht]
  exact crowd_putOp (hgroup.trans (crowded_group crowded_state))

theorem crowd_time (out : Bool) : timeOf crowdState crowdGroup.coreId out = 0 := by cases out <;> rfl

/-- Both lines are served at home, as the statement asks. -/
theorem crowd_served {va : VA} (hv : va = crowdSrc ∨ va = crowdDst) {n : Nat} (hn : n = 0) :
    HomeLine crowdState (serveDie crowdGroup.coreId va (leafAttr crowdLeaf)) crowdGroup.ctx va crowdLeaf n := by
  have hserve : serveDie crowdGroup.coreId va (leafAttr crowdLeaf) = 0 := by obtain rfl | rfl := hv <;> decide
  rw [hserve, hn]
  exact crowd_home hv

/-- Refutes O55: the read of a copy can take from its write what that needs. Here it fills a full slice, which gives up a system-scope
line that this device holds in E, a second name of the line to be written; another device may hold that name too, so the write asks the
fabric (R93), and the copy is not done. -/
theorem not_completionEvents : ¬ Obligations.CompletionEvents := by
  intro h
  obtain ⟨-, -, -, -, hcopy, -⟩ := h
  obtain ⟨t, g', hx, ⟨hg, hdone⟩, -⟩ := (hcopy crowdState 0 crowdGroup crowdOp crowdDst crowdSrc 1 16 0 0 crowd_alone rfl).2
    crowdLeaf crowdLeaf rfl rfl rfl rfl (crowd_late false (.inl rfl)) (crowd_late true (.inr rfl)) (by decide) (by decide)
    (crowd_served (.inl rfl) rfl) (crowd_served (.inr rfl) (crowd_time _))
  rw [exec_copyComplete] at hx
  obtain rfl : crowdState.runCopies 0 = t := by simpa using hx
  rw [crowd_stays] at hg
  obtain rfl : crowdGroup = g' := Option.some.inj hg
  exact absurd hdone (by decide)

end Sys2Proof.Machine

/-! Flits: the numbers in their bytes, their messages and CRC (R30, R32). -/

namespace Sys2Proof.Machine

open Sys2Proof Sys2Proof.Claims

/-! ### Numbers as bytes -/

theorem natOfBytes_append (xs ys : List Byte) : natOfBytes (xs ++ ys) = natOfBytes xs + 256 ^ xs.length * natOfBytes ys := by
  induction xs with
  | nil => simp [natOfBytes]
  | cons x xs ih =>
    simp only [List.cons_append, natOfBytes, ih, List.length_cons, pow_succ]
    ring

@[simp] theorem natOfBytes_bytesNat (n x : Nat) : natOfBytes (bytesNat n x) = x % 256 ^ n := by
  induction n with
  | zero => simp [bytesNat, natOfBytes, Nat.mod_one]
  | succ n ih =>
    have hpow : 2 ^ (8 * n) = 256 ^ n := by rw [pow_mul]; norm_num
    have happ : bytesNat (n + 1) x = bytesNat n x ++ [BitVec.ofNat 8 (x / 2 ^ (8 * n))] := by simp [bytesNat, List.range_succ]
    rw [happ, natOfBytes_append, ih, length_bytesNat, pow_succ, Nat.mod_mul, hpow]
    simp [natOfBytes]

theorem bytes64_eq (x : DWord) : bytes64 x = bytesNat 8 x.toNat := by
  have hlt := x.isLt
  simp only [bytes64, bytesOfWord, bytesNat, List.range_succ, List.range_zero, lo32, hi32]
  simp only [List.nil_append, List.cons_append, List.map_cons, List.map_nil, List.cons.injEq, and_true]
  refine ⟨?_, ?_, ?_, ?_, ?_, ?_, ?_, ?_⟩ <;>
    (refine BitVec.eq_of_toNat_eq ?_; simp [BitVec.toNat_ofNat, Nat.shiftRight_eq_div_pow]; try omega)

/-- A field that lies in the first part of a list, and one that lies in the second. -/
theorem field_append_left {xs : List Byte} {off n : Nat} (ys : List Byte) (h : off + n ≤ xs.length) : field (xs ++ ys) off n = field xs off n := by
  rw [field, field, List.drop_append_of_le_length (by omega), List.take_append_of_le_length (by rw [List.length_drop]; omega)]

theorem field_append_right {xs : List Byte} {off : Nat} (n : Nat) (ys : List Byte) (h : xs.length ≤ off) :
    field (xs ++ ys) off n = field ys (off - xs.length) n := by
  rw [field, field, List.drop_append, List.drop_of_length_le h, List.nil_append]

/-- A number is read back from where it stands. -/
theorem field_bytesNat {xs ys : List Byte} {off n x : Nat} (h : xs.length = off) (hx : x < 256 ^ n) :
    field (xs ++ (bytesNat n x ++ ys)) off n = x := by
  rw [field_append_right _ _ h.le, h, Nat.sub_self, field_append_left _ (by simp), field, List.drop_zero,
    List.take_of_length_le (by simp), natOfBytes_bytesNat, Nat.mod_eq_of_lt hx]

/-! ### Messages -/

theorem msgTypes_pos : ∀ e ∈ msgTypes, 1 ≤ e.1 ∧ 1 ≤ e.2.2 := by decide

/-- What a message that may be sent shows: its type, of the table and not 0, and its length. -/
theorem sendableMsg_spec {vc : Nat} {m : List Byte} (h : sendableMsg vc m = true) :
    knownType (field m 0 1) = true ∧ field m 0 1 ≠ 0 ∧ 1 ≤ field m 1 1 ∧ m.length = 16 * field m 1 1 := by
  obtain ⟨e, he, hm⟩ := List.any_eq_true.1 h
  simp only [Bool.and_eq_true, beq_iff_eq] at hm
  obtain ⟨⟨⟨ht, -⟩, hn⟩, hl⟩ := hm
  obtain ⟨h1, h2⟩ := msgTypes_pos e he
  rw [← ht, ← hn]
  exact ⟨List.any_eq_true.2 ⟨e, he, by simp⟩, by omega, h2, hl⟩

theorem field_zeros {bs : List Byte} (h : bs.all (· == 0) = true) : field bs 0 1 = 0 := by
  cases bs with
  | nil => rfl
  | cons b bs =>
    simp only [List.all_cons, Bool.and_eq_true, beq_iff_eq] at h
    simp [field, natOfBytes, h.1]

/-- Messages that may be sent, with zeros after them, are read back. -/
theorem messages_flatten {vc : Nat} {msgs : List (List Byte)} (h : msgs.all (sendableMsg vc) = true) (k : Nat) {fuel : Nat}
    (hf : msgs.length ≤ fuel) : messages (msgs.flatten ++ List.replicate k 0) fuel = some msgs := by
  induction msgs generalizing fuel with
  | nil => cases fuel <;> simp [messages]
  | cons m ms ih =>
    obtain ⟨fuel, rfl⟩ := Nat.exists_eq_add_one_of_ne_zero (n := fuel) (by simp at hf; omega)
    simp only [List.all_cons, Bool.and_eq_true] at h
    obtain ⟨hm, hms⟩ := h
    obtain ⟨hknown, hne, hpos, hlen⟩ := sendableMsg_spec hm
    have hbody : (m :: ms).flatten ++ List.replicate k 0 = m ++ (ms.flatten ++ List.replicate k 0) := by simp
    have ht : ∀ o n, o + n ≤ 16 → field (m ++ (ms.flatten ++ List.replicate k (0 : Byte))) o n = field m o n :=
      fun o n hon => field_append_left _ (by omega)
    have hnz : ¬ ((m ++ (ms.flatten ++ List.replicate k (0 : Byte))).length < 16 ∨
        (m ++ (ms.flatten ++ List.replicate k (0 : Byte))).all (· == 0) = true) := by
      rintro (hs | hz)
      · rw [List.length_append] at hs
        omega
      · exact hne (by rw [← ht 0 1 (by omega)]; exact field_zeros hz)
    have hfit : knownType (field m 0 1) && decide (1 ≤ field m 1 1) &&
        decide (16 * field m 1 1 ≤ (m ++ (ms.flatten ++ List.replicate k (0 : Byte))).length) := by
      simp [hknown, hpos, hlen]
    rw [hbody, messages]
    simp only [ht 0 1 (by omega), ht 1 1 (by omega)]
    rw [if_neg hnz, if_pos hfit, ← hlen, List.drop_left, List.take_left, ih hms (by simpa using hf)]
    rfl

/-- A message takes at least one unit. -/
theorem length_le_units {vc : Nat} {msgs : List (List Byte)} (h : msgs.all (sendableMsg vc) = true) :
    msgs.length ≤ (msgs.map msgUnits).sum ∧ msgs.flatten.length = 16 * (msgs.map msgUnits).sum := by
  induction msgs with
  | nil => simp
  | cons m ms ih =>
    simp only [List.all_cons, Bool.and_eq_true] at h
    obtain ⟨-, -, hpos, hlen⟩ := sendableMsg_spec h.1
    obtain ⟨h1, h2⟩ := ih h.2
    have hu : msgUnits m = field m 1 1 := by rw [msgUnits, hlen, Nat.mul_div_cancel_left _ (by omega)]
    simp only [List.map_cons, List.sum_cons, List.length_cons, List.flatten_cons, List.length_append, hu]
    omega

/-! ### Flits -/

theorem padTo_eq {n : Nat} {bs : List Byte} (h : bs.length ≤ n) : padTo n bs = bs ++ List.replicate (n - bs.length) 0 :=
  List.take_of_length_le (by simp; omega)

/-- A flit is as R30 lays it out, its body being messages that may be sent. -/
theorem flitBytes_is (seq ack : BitVec 16) (kind : FlitKind) {vc : Nat} (hvc : vc < 4) (cred : Nat) {ch : Nat} {msgs : List (List Byte)}
    (hm : msgs.all (sendableMsg ch) = true) (hn : (msgs.map msgUnits).sum ≤ 15) :
    FlitIs (flitBytes seq ack kind vc cred msgs.flatten) seq ack (kindCode kind) vc msgs := by
  obtain ⟨hle, hlen⟩ := length_le_units hm
  have hkind : kindCode kind ≤ 3 := by cases kind <;> decide
  set head := bytesNat 2 seq.toNat ++ bytesNat 2 ack.toNat ++ bytesNat 1 (kindCode kind) ++ bytesNat 1 vc ++ bytesNat 2 cred with hhead
  set bs := head ++ padTo 240 msgs.flatten with hbs
  have hf : flitBytes seq ack kind vc cred msgs.flatten = bs ++ bytes64 (crc64 bs) := rfl
  have hh : head.length = 8 := by simp [hhead]
  have hb : bs.length = 248 := by simp [hbs, hh]
  have hin : ∀ o n, o + n ≤ 8 → field (bs ++ bytes64 (crc64 bs)) o n = field head o n := fun o n hon => by
    rw [field_append_left _ (by omega), hbs, field_append_left _ (by omega)]
  have hk : field head 4 1 = kindCode kind := by
    rw [show head = (bytesNat 2 seq.toNat ++ bytesNat 2 ack.toNat) ++ (bytesNat 1 (kindCode kind) ++ (bytesNat 1 vc ++ bytesNat 2 cred)) by
      simp [hhead]]
    exact field_bytesNat (by simp) (by omega)
  have hbody : ((bs ++ bytes64 (crc64 bs)).drop 8).take 240 = msgs.flatten ++ List.replicate (240 - msgs.flatten.length) 0 := by
    rw [hbs, List.append_assoc, List.drop_left' hh, List.take_left' (length_padTo _ _), padTo_eq (by omega)]
  have hread : messages (((bs ++ bytes64 (crc64 bs)).drop 8).take 240) 16 = some msgs := by
    rw [hbody]
    exact messages_flatten hm _ (by omega)
  have hsize : (bs ++ bytes64 (crc64 bs)).length = 256 := by simp [hb, bytes64_eq]
  rw [hf]
  refine ⟨hsize, ?_, ?_, ?_, ?_, ?_, hread⟩
  · rw [hin 0 2 (by omega), show head = [] ++ (bytesNat 2 seq.toNat ++ (bytesNat 2 ack.toNat ++ (bytesNat 1 (kindCode kind) ++
      (bytesNat 1 vc ++ bytesNat 2 cred)))) by simp [hhead]]
    exact field_bytesNat rfl seq.isLt
  · rw [hin 2 2 (by omega), show head = bytesNat 2 seq.toNat ++ (bytesNat 2 ack.toNat ++ (bytesNat 1 (kindCode kind) ++
      (bytesNat 1 vc ++ bytesNat 2 cred))) by simp [hhead]]
    exact field_bytesNat (by simp) ack.isLt
  · rw [hin 4 1 (by omega), hk]
  · rw [hin 5 1 (by omega), show head = (bytesNat 2 seq.toNat ++ bytesNat 2 ack.toNat ++ bytesNat 1 (kindCode kind)) ++ (bytesNat 1 vc ++
      bytesNat 2 cred) by simp [hhead]]
    exact field_bytesNat (by simp) (by omega)
  · have hcrc : field (bs ++ bytes64 (crc64 bs)) 248 8 = (crc64 ((bs ++ bytes64 (crc64 bs)).take 248)).toNat := by
      rw [List.take_left' hb, bytes64_eq, ← List.append_nil (bytesNat 8 _)]
      exact field_bytesNat hb (crc64 bs).isLt
    have hkind' : field (bs ++ bytes64 (crc64 bs)) 4 1 ≤ 3 := by rw [hin 4 1 (by omega), hk]; exact hkind
    simp [flitGood, hsize, hcrc, hkind', hread]

end Sys2Proof.Machine

/-! The link layer (R31 to R36): what a link does with a flit, and that an event of a link changes no other. -/

namespace Sys2Proof.Machine

open Sys2Proof Sys2Proof.Claims

/-! ### One link changes -/

theorem linkOnly_setLink (s : State) (n : Nat) (l : Link) : LinkOnly s (s.setLink n l) n :=
  ⟨fun _ h => setLink_link_other s l h, rfl⟩

theorem onLink_eq {s : State} {n : Nat} (h : isLink n = true) (f : Link → Link) : s.onLink n f = s.setLink n (f (s.link n)) := by
  simp [State.onLink, h]

theorem onLink_only {s : State} {n : Nat} (h : isLink n = true) (f : Link → Link) : LinkOnly s (s.onLink n f) n := by
  rw [onLink_eq h]
  exact linkOnly_setLink s n _

theorem onLink_link {s : State} {n : Nat} (h : isLink n = true) (f : Link → Link) : (s.onLink n f).link n = f (s.link n) := by
  rw [onLink_eq h, setLink_link_same]

theorem exec_flitSend (n : Nat) (kind : FlitKind) (vc : Fin 4) (msgs : List (List Byte)) (s : State) :
    exec (.flitSend n kind vc msgs) s = .next (s.onLink n (fun l => l.send kind vc.val msgs)) := rfl

theorem exec_flitReceive (n : Nat) (f : List Byte) (s : State) :
    exec (.flitReceive n f) s = .next (s.onLink n (fun l => l.receive f)) := rfl

theorem exec_retryRequest (n : Nat) (seq : BitVec 16) (s : State) :
    exec (.retryRequest n seq) s = .next (s.onLink n (fun l => l.answerRetry seq)) := rfl

theorem exec_linkRetrain (n : Nat) (s : State) : exec (.linkRetrain n) s = .next (s.onLink n Link.retrain) := rfl

theorem exec_retrainComplete (n : Nat) (ok : Bool) (dropped : List Nat) (s : State) :
    exec (.retrainComplete n ok dropped) s = .next (s.retrained n ok dropped) := rfl

theorem exec_linkReturn (n : Nat) (s : State) : exec (.linkReturn n) s = .next (s.linkReturns n) := rfl

/-! ### Sending -/

/-- The flit that a link sends next. -/
def Link.nextFlit (l : Link) (kind : FlitKind) (vc : Nat) (msgs : List (List Byte)) : List Byte :=
  flitBytes l.seqNext (l.expect - 1) kind vc l.returnCredit.1 msgs.flatten

/-- A flit without messages, as idle, retry and marker flits are. -/
theorem nextFlit_empty (l : Link) (kind : FlitKind) : FlitIs (l.nextFlit kind 0 []) l.seqNext (l.expect - 1) (kindCode kind) 0 [] :=
  flitBytes_is _ _ kind (by omega) _ (ch := 0) (msgs := []) rfl (by decide)

theorem emit_numbered (l : Link) {kind : FlitKind} (vc : Nat) (msgs : List (List Byte)) (h : kind = .payload ∨ kind = .retry) :
    l.emit kind vc msgs.flatten = { l with
      outbox := l.outbox ++ [l.nextFlit kind vc msgs]
      owed := l.returnCredit.2
      replay := l.replay ++ [l.nextFlit kind vc msgs]
      seqNext := l.seqNext + 1 } := by
  obtain rfl | rfl := h <;> rfl

theorem emit_unnumbered (l : Link) {kind : FlitKind} (vc : Nat) (msgs : List (List Byte)) (h : kind = .idle ∨ kind = .marker) :
    l.emit kind vc msgs.flatten = { l with
      outbox := l.outbox ++ [l.nextFlit kind vc msgs]
      owed := l.returnCredit.2 } := by
  obtain rfl | rfl := h <;> rfl

theorem send_payload {l : Link} {vc : Nat} {msgs : List (List Byte)} (hup : l.up = true) (ht : l.train = false)
    (h : l.maySend vc msgs = true) :
    l.send .payload vc msgs =
      ({ l with credit := SMap.set 0 l.credit vc (SMap.get 0 l.credit vc - (msgs.map msgUnits).sum) }).emit .payload vc msgs.flatten := by
  simp [Link.send, hup, ht, h]

theorem send_bare {l : Link} {kind : FlitKind} (vc : Nat) (msgs : List (List Byte)) (hup : l.up = true) (ht : l.train = false)
    (hk : kind ≠ .payload) (hr : kind = .retry → l.replay.length < 512) : l.send kind vc msgs = l.emit kind 0 ([] : List (List Byte)).flatten := by
  cases kind with
  | payload => exact absurd rfl hk
  | retry => simp [Link.send, hup, ht, replaySize, hr rfl]
  | idle => simp [Link.send, hup, ht]
  | marker => simp [Link.send, hup, ht]

/-! ### Asking again -/

theorem requestRetry_room {l : Link} (h : l.replay.length < 512) :
    l.requestRetry = { l with
      askDue := false
      outbox := l.outbox ++ [l.nextFlit .retry 0 []]
      owed := l.returnCredit.2
      replay := l.replay ++ [l.nextFlit .retry 0 []]
      seqNext := l.seqNext + 1 } := by
  rw [Link.requestRetry, if_pos (show l.replay.length < replaySize from h)]
  exact emit_numbered _ 0 [] (.inr rfl)

theorem requestRetry_full {l : Link} (h : 512 ≤ l.replay.length) : l.requestRetry = { l with askDue := true } := by
  rw [Link.requestRetry, if_neg (by simpa [replaySize] using h)]

/-- How often a link has asked for the number that it misses now. -/
def Link.asked (l : Link) : Nat := if l.retries ≠ 0 ∧ l.retryOf = l.expect then l.retries + 1 else 1

/-- The link with one more request counted. -/
def Link.counted (l : Link) : Link := { l with
  retryOf := l.expect
  retries := l.asked }

theorem askRetry_eq (l : Link) : l.askRetry = if 16 ≤ l.asked then
    { l.counted.requestRetry with
      train := true
      trains := l.counted.requestRetry.trains + 1 }
  else l.counted.requestRetry := rfl

/-- What a request leaves as it was: all but the flit that is sent and kept, and whether the request is due. -/
theorem requestRetry_keeps (l : Link) : l.requestRetry.inbox = l.inbox ∧ l.requestRetry.expect = l.expect ∧ l.requestRetry.acked = l.acked ∧
    l.requestRetry.credit = l.credit ∧ l.requestRetry.retries = l.retries ∧ l.requestRetry.retryOf = l.retryOf ∧
    l.requestRetry.train = l.train := by
  unfold Link.requestRetry
  split <;> exact ⟨rfl, rfl, rfl, rfl, rfl, rfl, rfl⟩

/-- A number is missing: the link asks for it (R33, R34). -/
theorem askRetry_spec {l : Link} (ht : l.train = false) :
    l.askRetry.inbox = l.inbox ∧ l.askRetry.expect = l.expect ∧
    (l.askRetry.retries = l.asked ∧ l.askRetry.retryOf = l.expect ∧ l.askRetry.train = decide (16 ≤ l.asked)) ∧
    (512 ≤ l.replay.length → l.askRetry.askDue = true ∧ l.askRetry.outbox = l.outbox ∧ l.askRetry.replay = l.replay) ∧
    (l.replay.length < 512 → ∃ r, FlitIs r l.seqNext (l.expect - 1) 2 0 [] ∧ l.askRetry.askDue = false ∧
      l.askRetry.outbox = l.outbox ++ [r] ∧ l.askRetry.replay = l.replay ++ [r]) := by
  obtain ⟨hinbox, hexpect, -, -, hretries, hretryOf, htrain⟩ := requestRetry_keeps l.counted
  have hfull : 512 ≤ l.replay.length → l.counted.requestRetry = { l.counted with askDue := true } :=
    fun h => requestRetry_full (l := l.counted) h
  have hroom : l.replay.length < 512 → _ := fun h => requestRetry_room (l := l.counted) h
  have hflit : FlitIs (l.counted.nextFlit .retry 0 []) l.seqNext (l.expect - 1) 2 0 [] := nextFlit_empty l.counted .retry
  rw [askRetry_eq]
  by_cases h : 16 ≤ l.asked
  · simp only [h, if_true, decide_true]
    exact ⟨hinbox, hexpect, ⟨hretries, hretryOf, trivial⟩, fun hf => by rw [hfull hf]; exact ⟨rfl, rfl, rfl⟩,
      fun hr => ⟨_, hflit, by rw [hroom hr]; exact ⟨rfl, rfl, rfl⟩⟩⟩
  · simp only [h, if_false, decide_false]
    exact ⟨hinbox, hexpect, ⟨hretries, hretryOf, htrain.trans ht⟩, fun hf => by rw [hfull hf]; exact ⟨rfl, rfl, rfl⟩,
      fun hr => ⟨_, hflit, by rw [hroom hr]; exact ⟨rfl, rfl, rfl⟩⟩⟩

/-! ### Receiving -/

/-- The credits with those that a flit returns. -/
def returned (c : SMap Nat) (f : List Byte) : SMap Nat :=
  (List.range 4).foldl (fun c v => SMap.set 0 c v (SMap.get 0 c v + field f 6 2 / 16 ^ v % 16)) c

theorem get_returned (c : SMap Nat) (f : List Byte) {v : Nat} (h : v < 4) :
    SMap.get 0 (returned c f) v = SMap.get 0 c v + field f 6 2 / 16 ^ v % 16 := by
  interval_cases v <;> simp [returned, List.range_succ, SMap.get_set]

/-- A link that has taken up an accepted flit: acknowledgement, number, credits and messages. -/
def Link.taken (l : Link) (f : List Byte) : Link := { l.release (BitVec.ofNat 16 (field f 2 2)) with
  expect := if field f 4 1 = 1 ∨ field f 4 1 = 2 then l.expect + 1 else l.expect
  retries := 0
  askDue := l.askDue && field f 4 1 != 1 && field f 4 1 != 2
  credit := returned l.credit f
  inbox := l.inbox ++ (messages ((f.drop 8).take 240) 16).getD []
  owed := SMap.set 0 l.owed (field f 5 1 % 4)
    (SMap.get 0 l.owed (field f 5 1 % 4) + (((messages ((f.drop 8).take 240) 16).getD []).map msgUnits).sum) }

theorem accept_eq (l : Link) (f : List Byte) :
    l.accept f = if field f 4 1 = 2 then
        (if (l.taken f).askDue then (l.taken f).requestRetry else l.taken f).resend (BitVec.ofNat 16 (field f 2 2) + 1)
      else if (l.taken f).askDue then (l.taken f).requestRetry else l.taken f := rfl

theorem taken_askDue (l : Link) (f : List Byte) : (l.taken f).askDue = true ↔ l.askDue = true ∧ ¬ (field f 4 1 = 1 ∨ field f 4 1 = 2) := by
  simp [Link.taken, and_assoc]

/-- The request that is due is none, or the missing flit has come. -/
theorem accept_quiet {l : Link} {f : List Byte} (h : l.askDue = false ∨ field f 4 1 = 1 ∨ field f 4 1 = 2) :
    l.accept f = { l.taken f with
      askDue := false
      outbox := l.outbox ++ (if field f 4 1 = 2 then keptFrom (l.taken f) (BitVec.ofNat 16 (field f 2 2) + 1) else []) } := by
  have hq : (l.taken f).askDue = false := by
    cases hd : (l.taken f).askDue with
    | false => rfl
    | true =>
      obtain ⟨h1, h2⟩ := (taken_askDue l f).1 hd
      exact h.elim (fun h => by simp [h1] at h) (fun h => absurd h h2)
  have hset : ∀ o, o = (l.taken f).outbox → l.taken f = { l.taken f with askDue := false, outbox := o } := by
    rintro o rfl
    rw [← hq]
  rw [accept_eq, hq]
  split
  · rw [if_neg (by simp), Link.resend, ← hq]
    rfl
  · rw [if_neg (by simp)]
    exact hset _ (List.append_nil _)

/-- A request is due and the flit is not the missing one. -/
theorem accept_due {l : Link} {f : List Byte} (hd : l.askDue = true) (hn : ¬ (field f 4 1 = 1 ∨ field f 4 1 = 2)) :
    l.accept f = (l.taken f).requestRetry := by
  rw [accept_eq, if_neg (fun h => hn (.inr h)), if_pos ((taken_askDue l f).2 ⟨hd, hn⟩)]

/-- In every case an accepted flit brings its messages, number, acknowledgement and credits. -/
theorem accept_brings (l : Link) (f : List Byte) : (l.accept f).inbox = (l.taken f).inbox ∧ (l.accept f).expect = (l.taken f).expect ∧
    (l.accept f).acked = (l.taken f).acked ∧ (l.accept f).credit = (l.taken f).credit := by
  by_cases h : l.askDue = false ∨ field f 4 1 = 1 ∨ field f 4 1 = 2
  · rw [accept_quiet h]
    exact ⟨rfl, rfl, rfl, rfl⟩
  · obtain ⟨hd, hn⟩ := not_or.1 h
    rw [accept_due (by simpa using hd) hn]
    obtain ⟨hi, he, ha, hc, -⟩ := requestRetry_keeps (l.taken f)
    exact ⟨hi, he, ha, hc⟩

section
variable {l : Link} {f : List Byte} (hup : l.up = true) (ht : l.train = false)
include hup ht

theorem receive_bad (h : flitGood f = false) : l.receive f = l.askRetry := by simp [Link.receive, hup, ht, h]

theorem receive_next (hg : flitGood f = true) (h : (flitSeq f - l.expect).toInt = 0) : l.receive f = l.accept f := by
  simp [Link.receive, hup, ht, hg, h]

theorem receive_past (hg : flitGood f = true) (h : (flitSeq f - l.expect).toInt < 0) : l.receive f = l := by
  simp [Link.receive, hup, ht, hg, h, h.ne, -BitVec.toInt_sub]

theorem receive_ahead (h : 0 < (flitSeq f - l.expect).toInt) : l.receive f = l.askRetry := by
  cases hg : flitGood f with
  | false => exact receive_bad hup ht hg
  | true => simp [Link.receive, hup, ht, hg, h.ne', h.le, -BitVec.toInt_sub]

end

end Sys2Proof.Machine

/-! What leaves the edge of the device alone: its links, its package, and the events that its host will see (R14, R69, R70). -/

namespace Sys2Proof.Machine

open Sys2Proof Sys2Proof.Claims

/-- The links and the package are as they were, and no event for the host is gone. -/
structure KeepsEdge (s t : State) : Prop where
  links : t.links = s.links
  pkg   : t.pkg = s.pkg
  host  : HostGrows s t

theorem KeepsEdge.refl (s : State) : KeepsEdge s s := ⟨rfl, rfl, .refl s⟩

theorem KeepsEdge.trans {s t u : State} (h : KeepsEdge s t) (h' : KeepsEdge t u) : KeepsEdge s u :=
  ⟨h'.links.trans h.links, h'.pkg.trans h.pkg, h.host.trans h'.host⟩

theorem KeepsEdge.of_eq {s t : State} (hl : t.links = s.links) (hp : t.pkg = s.pkg) (hh : t.host = s.host) : KeepsEdge s t :=
  ⟨hl, hp, .of_eq hh⟩

theorem KeepsEdge.of_bare {s t : State} (h : t.bare = s.bare) : KeepsEdge s t := by
  have hl : t.bare.links = s.bare.links := by rw [h]
  have hp : t.bare.pkg = s.bare.pkg := by rw [h]
  have hh : t.bare.host = s.bare.host := by rw [h]
  exact .of_eq hl hp hh

theorem KeepsEdge.link {s t : State} (h : KeepsEdge s t) (n : Nat) : t.link n = s.link n := by simp [State.link, h.links]

theorem keepsEdge_foldl {β : Type} {f : State → β → State} (h : ∀ t x, KeepsEdge t (f t x)) (xs : List β) (s : State) :
    KeepsEdge s (xs.foldl f s) :=
  List.foldlRecOn xs f (.refl s) (fun t ht x _ => ht.trans (h t x))

theorem keepsEdge_hwEvent (s : State) (e : Event) : KeepsEdge s (s.hwEvent e) :=
  ⟨by unfold State.hwEvent; split <;> rfl, hwEvent_pkg s e, hwEvent_grows s e⟩

theorem keepsEdge_dirBytes (s : State) (bs : List Byte) : KeepsEdge s (s.dirBytes bs) :=
  ⟨by unfold State.dirBytes; split <;> rfl, dirBytes_pkg s bs, dirBytes_grows s bs⟩

theorem keepsEdge_postOnce (s : State) (e : Instr) : KeepsEdge s (s.postOnce e) := by
  unfold State.postOnce
  split
  · exact .refl s
  · exact .of_eq rfl rfl rfl

theorem keepsEdge_wake (s : State) (gid : Nat) : KeepsEdge s (s.wake gid) := by
  unfold State.wake
  split
  · exact .refl s
  · refine .trans ?_ (keepsEdge_foldl keepsEdge_postOnce _ _)
    split
    · exact keepsEdge_postOnce s _
    · exact .refl s

theorem keepsEdge_wakeAll (s : State) : KeepsEdge s s.wakeAll :=
  (keepsEdge_foldl keepsEdge_wake _ s).trans (keepsEdge_foldl (fun t _ => keepsEdge_postOnce t _) _ _)

/-! ### Lines that leave an L2 or enter it -/

theorem foldl_mscLeave_bare (ys : List MscLine) (s : State) : (ys.foldl State.mscLeave s).bare = s.bare :=
  foldl_bare _ (fun t y => by unfold State.mscLeave; split <;> rfl) ys s

theorem mscPut_bare (s : State) (loc : Nat) (x : MscLine) : (s.mscPut loc x).bare = s.bare :=
  Eq.trans rfl (foldl_mscLeave_bare _ s)

theorem mscEvict_bare (s : State) (loc : Nat) (dirty : Bool) : (s.mscEvict loc dirty).bare = s.bare := by
  unfold State.mscEvict
  dsimp only
  split
  · split
    · exact mscPut_bare s _ _
    · rfl
  · exact mscPut_bare s _ _

theorem mscRead_bare (s : State) (loc : Nat) : (s.mscRead loc).1.bare = s.bare := by
  unfold State.mscRead
  split
  · split <;> exact mscPut_bare s _ _
  · split <;> rfl

theorem fillFrom_bare (s : State) (die : Nat) (va : VA) (loc : Nat) (a : PageAttr) : (s.fillFrom die va loc a).1.bare = s.bare := by
  unfold State.fillFrom
  dsimp only
  split
  · exact mscRead_bare s loc
  · rfl

theorem keepsEdge_sendBack (s : State) (slot : Nat) (g : LineAddr) (l : Line) : KeepsEdge s (s.sendBack slot g l) := .of_eq rfl rfl rfl

theorem keepsEdge_evictSys (s : State) (g : LineAddr) : KeepsEdge s (s.evictSys g) := by
  unfold State.evictSys
  dsimp only
  have hforget : ∀ t : State, KeepsEdge t (t.forgetSys g) := fun t => .of_bare (forgetSys_bare t g)
  split
  · exact .refl s
  · split
    · split
      · exact (KeepsEdge.of_bare (setSysLine_bare s g _)).trans ((hforget _).trans (keepsEdge_sendBack _ _ g _))
      · exact hforget s
    · exact hforget s

theorem keepsEdge_setL2 (s : State) (k : Nat) (x : Option L2Line) : KeepsEdge s (s.setL2 k x) := .of_eq rfl rfl rfl

theorem keepsEdge_dropL2 (s : State) (k : Nat) : KeepsEdge s (s.dropL2 k) := .of_bare (dropL2_bare s k)

theorem keepsEdge_evictL2 (s : State) (k : Nat) : KeepsEdge s (s.evictL2 k) := by
  unfold State.evictL2
  split
  · exact .refl s
  · dsimp only
    split
    · exact (keepsEdge_evictSys s _).trans (keepsEdge_dropL2 _ k)
    · split
      · exact (keepsEdge_dropL2 s k).trans (.of_bare (mscEvict_bare _ _ _))
      · exact keepsEdge_dropL2 s k

theorem keepsEdge_makeWay (s : State) (sk : Nat) : KeepsEdge s (s.makeWay sk) := by
  unfold State.makeWay
  dsimp only
  split
  · exact .refl s
  · split
    · exact keepsEdge_evictL2 s _
    · exact .refl s

/-- A line that an L2 does not hold enters it once there is room. -/
theorem ensureL2_enters {s : State} {die : Nat} {c : Ctx} {va : VA} {e : DWord} (h : s.l2At (l2Key die c va) = none) :
    ∃ x, (s.ensureL2 die c va e).1 =
      ((s.makeWay (l2KeySlice (l2Key die c va))).fillFrom die va (lineLoc s c va e) (leafAttr e)).1.setL2 (l2Key die c va) (some x) := by
  simp only [State.ensureL2, h]
  exact ⟨_, rfl⟩

theorem keepsEdge_ensureL2 (s : State) (die : Nat) (c : Ctx) (va : VA) (e : DWord) : KeepsEdge s (s.ensureL2 die c va e).1 := by
  cases h : s.l2At (l2Key die c va) with
  | some x =>
    simp only [State.ensureL2, h]
    exact .refl s
  | none =>
    obtain ⟨x, hx⟩ := ensureL2_enters (e := e) h
    rw [hx]
    exact ((keepsEdge_makeWay s _).trans (.of_bare (fillFrom_bare _ die va _ _))).trans (keepsEdge_setL2 _ _ _)

theorem setCopies_bare (s : State) (loc die : Nat) (st : DirState) : (s.setCopies loc die st).bare = s.bare := by
  unfold State.setCopies
  exact foldl_bare _ (by intros; rfl) _ s

theorem dropAll_bare (xs : List (Nat × L2Line)) (s : State) : (xs.foldl (fun s e => s.dropL2 e.1) s).bare = s.bare :=
  foldl_bare _ (fun t e => dropL2_bare t e.1) xs s

theorem makeEntry_bare (s : State) (loc : Nat) : (s.makeEntry loc).bare = s.bare := by
  unfold State.makeEntry
  split
  · rfl
  · dsimp only
    split
    · rfl
    · split
      · rfl
      · exact dropAll_bare _ s

theorem dieRead_bare (s : State) (loc die home : Nat) : (s.dieRead loc die home).bare = s.bare := by
  unfold State.dieRead
  dsimp only
  split
  · split
    · rfl
    · exact makeEntry_bare s loc
  · rw [setCopies_bare]; split <;> rfl
  · split
    · rfl
    · rw [setCopies_bare]; split <;> rfl
  · split
    · rfl
    · split
      · rw [setCopies_bare, setCopies_bare]; split <;> rfl
      · rw [setCopies_bare, setCopies_bare]; split <;> rfl

theorem dieOwn_bare (s : State) (loc die home : Nat) : (s.dieOwn loc die home).bare = s.bare := by
  unfold State.dieOwn
  dsimp only
  split
  · exact dropAll_bare _ s
  · exact (makeEntry_bare _ loc).trans (dropAll_bare _ s)

theorem writeCopies_bare (s : State) (loc die : Nat) (bs : List (Nat × Byte)) (dirties : Bool) :
    (s.writeCopies loc die bs dirties).bare = s.bare := by
  unfold State.writeCopies
  exact foldl_bare _ (by intros; rfl) _ s

theorem writeHome_bare (s : State) (loc : Nat) (bs : List (Nat × Byte)) : (s.writeHome loc bs).bare = s.bare := by
  simp [State.writeHome, writeCopies_bare]

theorem putBytes_bare (s : State) (va : VA) (a : PageAttr) (die loc : Nat) (bs : List (Nat × Byte)) :
    (s.putBytes va a die loc bs).bare = s.bare := by
  unfold State.putBytes
  dsimp only
  split
  · split
    · rw [writeHome_bare, setSysLine_bare]
    · rfl
  · split
    · split
      · rw [writeNames_bare, writeCopies_bare]
      · exact writeCopies_bare s _ _ _ _
    · exact writeHome_bare s _ _

theorem touched_bare (s : State) (t : Ctx) (va : VA) (loc : Nat) : (s.touched t va loc).bare = s.bare := by
  unfold State.touched State.notifyDeps
  exact (foldl_bare _ (by intros; rfl) _ _).trans (strikeAll_bare s _)

/-- A write to the source of an aperture drops the aperture's lines. -/
theorem apertures_bare (s : State) (va : VA) : (if s.isSource va then s.dropApertures else s).bare = s.bare := by
  split
  · exact dropApertures_bare s
  · rfl

theorem storeRule_bare {s t : State} {die sk loc ct wts : Nat} (h : s.storeRule die sk loc ct = .done t wts) : t.bare = s.bare := by
  unfold State.storeRule at h
  dsimp only at h
  split at h
  · simp at h
  · simp only [Acc.done.injEq] at h
    rw [← h.1]
    exact foldl_bare _ (by intros; rfl) _ s

theorem keepsEdge_sliceRead {s t : State} {core : Nat} {c : Ctx} {va : VA} {e : DWord} {x : Line × L2Line}
    (h : s.sliceRead core c va e = .done t x) : KeepsEdge s t := by
  unfold State.sliceRead at h
  dsimp only at h
  split at h
  · simp at h
  · split at h
    · simp at h
    · simp only [Acc.done.injEq] at h
      rw [← h.1]
      refine (keepsEdge_ensureL2 s (serveDie core va (leafAttr e)) (tagFor c va) va e).trans ?_
      split
      · exact .of_bare (dieRead_bare _ _ _ _)
      · exact .refl _

theorem keepsEdge_writeAt {s t : State} {die : Nat} {c : Ctx} {va : VA} {e : DWord} {ct : Nat} {outside : Bool} {bs : List (Nat × Byte)}
    {wts : Nat} (h : s.writeAt die c va e ct outside bs = .done t wts) : KeepsEdge s t := by
  unfold State.writeAt at h
  dsimp only at h
  split at h
  · simp at h
  · split at h
    · simp at h
    · split at h
      · simp at h
      next u wts hr =>
        simp only [Acc.done.injEq] at h
        rw [← h.1]
        refine (keepsEdge_ensureL2 s die (tagFor c va) va e).trans (.trans ?_ (.trans (.of_bare (storeRule_bare hr)) (.of_bare ?_)))
        · split
          · exact .of_bare (dieOwn_bare _ _ _ _)
          · exact .refl _
        · have ht : ∀ b : Bool, ∀ loc : Nat, ((if b then (u.putBytes va (leafAttr e) die loc bs).endLeases loc die
              else u.putBytes va (leafAttr e) die loc bs).touched (tagFor c va) va loc).bare = u.bare := by
            intro b loc
            rw [touched_bare]
            split
            · exact (leaseEnd_bare _ _ _).trans (putBytes_bare _ _ _ _ _ _)
            · exact putBytes_bare _ _ _ _ _ _
          exact (apertures_bare _ va).trans (ht _ _)

end Sys2Proof.Machine

/-! The engine, the end of a context, and of all contexts, leave the edge of the device alone (R88, R180, R422). -/

namespace Sys2Proof.Machine

open Sys2Proof Sys2Proof.Claims

/-! ### The engine -/

/-- A computation of the engine leaves the edge alone where it completes. -/
def EngKeeps {α : Type} (m : Eng α) : Prop := ∀ s a t, m s = .ok (a, t) → KeepsEdge s t

theorem EngKeeps.pure {α : Type} (a : α) : EngKeeps (pure a : Eng α) := by
  intro s b t h
  obtain ⟨-, rfl⟩ : a = b ∧ s = t := by simpa [Pure.pure, StateT.pure, Except.pure] using h
  exact .refl s

theorem EngKeeps.bind {α β : Type} {m : Eng α} {f : α → Eng β} (hm : EngKeeps m) (hf : ∀ a, EngKeeps (f a)) : EngKeeps (m >>= f) := by
  intro s b t h
  change (m s).bind (fun p => f p.1 p.2) = .ok (b, t) at h
  cases hs : m s with
  | error x => simp [hs, Except.bind] at h
  | ok p =>
    rw [hs] at h
    exact (hm s p.1 p.2 hs).trans (hf p.1 p.2 b t h)

theorem EngKeeps.ite {α : Type} {c : Prop} [Decidable c] {m m' : Eng α} (h : EngKeeps m) (h' : EngKeeps m') :
    EngKeeps (if c then m else m') := by
  split
  · exact h
  · exact h'

theorem engKeeps_page (r : ArenaRef) (write : Bool) (va : VA) : EngKeeps (engPage r write va) := by
  intro s e t h
  unfold engPage at h
  split at h
  · simp at h
  · split at h
    · simp at h
    · simp only [Except.ok.injEq, Prod.mk.injEq] at h
      rw [← h.2]
      split
      · exact .refl s
      · exact .of_eq rfl rfl rfl

theorem engKeeps_line (r : ArenaRef) (va : VA) : EngKeeps (engLine r va) := by
  refine .bind (engKeeps_page r false va) (fun e s l t h => ?_)
  change (match s.sliceRead (homeDie va * 64) r.ctx va e with
    | .blocked _ => fun _ => .error (.wait va false)
    | .done s (l, _) => fun _ => .ok (l, s) : Eng Line) s = .ok (l, t) at h
  cases hr : s.sliceRead (homeDie va * 64) r.ctx va e with
  | blocked u => simp [hr] at h
  | done u x =>
    simp only [hr, Except.ok.injEq, Prod.mk.injEq] at h
    exact h.2 ▸ keepsEdge_sliceRead hr

theorem engKeeps_read (r : ArenaRef) (va : VA) (n : Nat) : EngKeeps (engRead r va n) :=
  .bind (engKeeps_line r va) (fun _ => .pure _)

theorem engKeeps_put (r : ArenaRef) (va : VA) (bs : List (Nat × Byte)) : EngKeeps (engPut r va bs) := by
  refine .bind (engKeeps_page r true va) (fun e s l t h => ?_)
  change (match s.writeAt (homeDie va) r.ctx va e 0 true bs with
    | .blocked _ => fun _ => .error (.wait va true)
    | .done s _ => fun _ => .ok ((), s) : Eng Unit) s = .ok (l, t) at h
  cases hr : s.writeAt (homeDie va) r.ctx va e 0 true bs with
  | blocked u => simp [hr] at h
  | done u x =>
    simp only [hr, Except.ok.injEq, Prod.mk.injEq, true_and] at h
    exact h ▸ keepsEdge_writeAt hr

theorem engKeeps_write (r : ArenaRef) (va : VA) (n x : Nat) : EngKeeps (engWrite r va n x) := engKeeps_put r va _

theorem engKeeps_hRead (r : ArenaRef) (off n : Nat) : EngKeeps (hRead r off n) := engKeeps_read r _ n

theorem engKeeps_hWrite (r : ArenaRef) (off n x : Nat) : EngKeeps (hWrite r off n x) := engKeeps_write r _ n x

theorem engKeeps_arena (r : ArenaRef) : EngKeeps (engArena r) := by
  intro s a t h
  unfold engArena at h
  split at h
  · simp only [Except.ok.injEq, Prod.mk.injEq] at h
    exact h.2 ▸ .refl s
  · simp at h

theorem engKeeps_hold (r : ArenaRef) (f : Arena → Arena) : EngKeeps (engHold r f) := by
  intro s a t h
  obtain rfl : _ = t := (Prod.mk.inj (Except.ok.inj h)).2
  exact .of_eq rfl rfl rfl

theorem engKeeps_setStamp (r : ArenaRef) (k : Nat) (x : Option (Nat × Word)) : EngKeeps (setStamp r k x) := by
  refine .bind (engKeeps_hold r _) (fun _ => .bind (engKeeps_arena r) (fun _ => .bind (engKeeps_hWrite r _ _ _) (fun _ => ?_)))
  cases x with
  | none => exact .bind (engKeeps_hWrite r _ _ _) (fun _ => engKeeps_hWrite r _ _ _)
  | some x => exact .bind (engKeeps_hWrite r _ _ _) (fun _ => .bind (engKeeps_hWrite r _ _ _) (fun _ => engKeeps_hWrite r _ _ _))

theorem engKeeps_freeStamps (r : ArenaRef) (ks : List Nat) : EngKeeps (freeStamps r ks) := by
  induction ks with
  | nil => exact .pure _
  | cons k ks ih => exact .bind (engKeeps_setStamp r k none) (fun _ => ih)

theorem engKeeps_bucketAt (r : ArenaRef) (pos : V3) : EngKeeps (bucketAt r pos) :=
  .bind (engKeeps_hRead r _ _) (fun _ => .bind (engKeeps_hRead r _ _) (fun _ => .bind (engKeeps_hRead r _ _) (fun _ =>
    .bind (engKeeps_hRead r _ _) (fun _ => .bind (engKeeps_hRead r _ _) (fun _ =>
      .bind (.bind (engKeeps_hRead r _ _) (fun _ => .pure _)) (fun _ => .pure _))))))

theorem engKeeps_prevIn (r : ArenaRef) (i n k : Nat) : EngKeeps (prevIn r i n k) := by
  induction n generalizing k with
  | zero => exact .pure _
  | succ n ih => exact .ite (.pure _) (.bind (engKeeps_read r _ _) (fun _ => .ite (.pure _) (ih _)))

theorem engKeeps_unlinkSlot (r : ArenaRef) (i : Nat) (pos : V3) : EngKeeps (unlinkSlot r i pos) := by
  refine .bind (engKeeps_bucketAt r pos) (fun b => .bind (engKeeps_read r _ _) (fun first => .bind (engKeeps_read r _ _) (fun last =>
    .bind (engKeeps_read r _ _) (fun next => .bind (engKeeps_hRead r _ _) (fun hwm => .ite ?_ ?_)))))
  · exact .bind (engKeeps_write r _ _ _) (fun _ => .ite (engKeeps_write r _ _ _) (.pure _))
  · refine .bind (engKeeps_prevIn r i _ _) (fun p => ?_)
    cases p with
    | none => exact .pure _
    | some p => exact .bind (engKeeps_write r _ _ _) (fun _ => .ite (engKeeps_write r _ _ _) (.pure _))

theorem engKeeps_reclaimOne (r : ArenaRef) : EngKeeps (reclaimOne r) := by
  refine .bind (engKeeps_hRead r _ _) (fun i => .ite (.pure _) (.bind (engKeeps_arena r) (fun a => .bind (engKeeps_read r _ _) (fun rnum =>
    .ite (.pure _) (.bind (engKeeps_line r _) (fun l => ?_))))))
  have hrest : EngKeeps (do
      let rnext ← engRead r (r.slot i + 88) 4
      let tail ← hRead r 40 4
      let next := if tail = i then noSlot else rnext
      hWrite r 36 4 next
      if tail = i then hWrite r 40 4 noSlot else Pure.pure ()
      let fhead ← hRead r 32 4
      engWrite r (r.slot i) 4 fhead
      engWrite r (r.slot i + 72) 8 noNumber
      hWrite r 32 4 i
      let nvert ← hRead r 80 8
      hWrite r 80 8 (nvert - 1)
      Pure.pure true) := by
    refine .bind (engKeeps_read r _ _) (fun _ => .bind (engKeeps_hRead r _ _) (fun tail => .bind (engKeeps_hWrite r _ _ _) (fun _ => ?_)))
    have hlast : EngKeeps (do
        let fhead ← hRead r 32 4
        engWrite r (r.slot i) 4 fhead
        engWrite r (r.slot i + 72) 8 noNumber
        hWrite r 32 4 i
        let nvert ← hRead r 80 8
        hWrite r 80 8 (nvert - 1)
        Pure.pure true) :=
      .bind (engKeeps_hRead r _ _) (fun _ => .bind (engKeeps_write r _ _ _) (fun _ => .bind (engKeeps_write r _ _ _) (fun _ =>
        .bind (engKeeps_hWrite r _ _ _) (fun _ => .bind (engKeeps_hRead r _ _) (fun _ => .bind (engKeeps_hWrite r _ _ _) (fun _ => .pure _))))))
    exact .ite (.bind (engKeeps_hWrite r _ _ _) (fun _ => hlast)) hlast
  exact .ite (.bind (engKeeps_unlinkSlot r _ _) (fun _ => hrest)) hrest

theorem keepsEdge_reclaim {r : ArenaRef} {n : Nat} {s t : State} {f : Option (Nat × Nat × VA)} (h : reclaim r n s = .ok (t, f)) :
    KeepsEdge s t := by
  induction n generalizing s with
  | zero =>
    obtain ⟨rfl, -⟩ := Prod.mk.inj (Except.ok.inj h)
    exact .refl _
  | succ n ih =>
    unfold reclaim at h
    split at h
    next u hr => exact (engKeeps_reclaimOne r _ _ _ hr).trans (ih h)
    next u hr =>
      obtain ⟨rfl, -⟩ := Prod.mk.inj (Except.ok.inj h)
      exact engKeeps_reclaimOne r _ _ _ hr
    · obtain ⟨rfl, -⟩ := Prod.mk.inj (Except.ok.inj h)
      exact .refl _
    · simp at h

theorem keepsEdge_reclaimAll {r : ArenaRef} {s t : State} {f : Option (Nat × Nat × VA)} (h : reclaimAll r s = .ok (t, f)) :
    KeepsEdge s t := by
  unfold reclaimAll at h
  split at h
  next hr => exact (engKeeps_hRead r _ _ _ _ _ hr).trans (keepsEdge_reclaim h)
  · obtain ⟨rfl, -⟩ := Prod.mk.inj (Except.ok.inj h)
    exact .refl _
  · simp at h

/-! ### Drops (R180, R422) -/

theorem keepsEdge_setDie (s : State) (d : Nat) (x : DieState) : KeepsEdge s (s.setDie d x) := .of_eq rfl rfl rfl

theorem keepsEdge_reclaimMessage (s : State) (c : Ctx) (header : VA) (lid : Word) (f : Nat × Nat × VA) :
    KeepsEdge s (s.reclaimMessage c header lid f) := by
  unfold State.reclaimMessage
  dsimp only
  split
  · exact .refl s
  · exact keepsEdge_setDie s _ _

theorem keepsEdge_paid (s : State) (a : Arena) : KeepsEdge s (s.paid a) := .of_eq rfl rfl rfl

theorem keepsEdge_settleArena {s t : State} {a : Arena} (h : s.settleArena a = .ok t) : KeepsEdge s t := by
  unfold State.settleArena at h
  split at h
  · exact Except.ok.inj h ▸ .refl s
  next lid rest hd =>
    dsimp only at h
    split at h
    · exact Except.ok.inj h ▸ keepsEdge_paid s a
    · have hfail : ∀ u f, KeepsEdge u (u.reclaimMessage a.ctx a.header lid f) := fun u f => keepsEdge_reclaimMessage u _ _ _ f
      have hfree : ∀ (u : State) as, KeepsEdge u { u with arenas := as } := fun _ _ => .of_eq rfl rfl rfl
      split at h
      · simp at h
      · exact Except.ok.inj h ▸ ((keepsEdge_paid s a).trans (hfree _ _)).trans (hfail _ _)
      · split at h
        · simp at h
        · exact Except.ok.inj h ▸ ((keepsEdge_paid s a).trans (hfree _ _)).trans (hfail _ _)
        next r _ _ u hu =>
          have hs := (engKeeps_freeStamps _ _ _ _ _ hu).trans (keepsEdge_paid u a)
          split at h
          · simp at h
          next hr => exact Except.ok.inj h ▸ hs.trans (keepsEdge_reclaimAll hr)
          next hr => exact Except.ok.inj h ▸ (hs.trans (keepsEdge_reclaimAll hr)).trans (hfail _ _)

/-! ### Errors that a blocked access meets (R112, R113) -/

theorem keepsEdge_poisonLine (s : State) (loc wher : Nat) (c : Ctx) (va : VA) : KeepsEdge s (s.poisonLine loc wher c va) :=
  .of_eq rfl rfl rfl

theorem keepsEdge_recovered (s : State) (src loc : Nat) (va : VA) : KeepsEdge s (s.recovered src loc va) := by
  unfold State.recovered
  exact keepsEdge_hwEvent s _

theorem keepsEdge_loseCopy (s : State) (p : EccPlace) (loc : Nat) (c : Ctx) (va : VA) : KeepsEdge s (s.loseCopy p loc c va) := by
  unfold State.loseCopy
  have hp := keepsEdge_poisonLine s loc
  have hr := keepsEdge_recovered s
  cases p with
  | l2 d =>
    dsimp only
    split
    · exact .refl s
    · split
      · exact hp _ _ _
      · split
        · exact hr _ _ _
        · exact hp _ _ _
  | baseDie =>
    dsimp only
    split
    · exact .refl s
    · split
      · exact hr _ _ _
      · exact hp _ _ _
  | dram =>
    dsimp only
    split
    · exact hr _ _ _
    · exact hp _ _ _

theorem keepsEdge_setMem (s : State) (m : DevMem) : KeepsEdge s { s with mem := m } := .of_eq rfl rfl rfl

theorem keepsEdge_reportCorrected (s : State) (die chan count : Nat) : KeepsEdge s (s.reportCorrected die chan count) := by
  unfold State.reportCorrected
  dsimp only
  split
  · exact .refl s
  · exact (keepsEdge_setMem s _).trans (keepsEdge_hwEvent _ _)

theorem keepsEdge_noteCorrected (s : State) (ch : Nat) : KeepsEdge s (s.noteCorrected ch) := by
  unfold State.noteCorrected
  exact (keepsEdge_setMem s _).trans (keepsEdge_reportCorrected _ _ _ _)

theorem keepsEdge_meetFlaw (s : State) (f : Flaw) (c : Ctx) (va : VA) : KeepsEdge s (s.meetFlaw f c va) := by
  unfold State.meetFlaw
  have hm : KeepsEdge s { s with mem := { s.mem with flaws := s.mem.flaws.erase f } } := keepsEdge_setMem s _
  dsimp only
  split
  · exact hm.trans (keepsEdge_loseCopy _ _ _ _ _)
  · exact hm.trans (keepsEdge_noteCorrected _ _)

theorem keepsEdge_meetLine (s : State) (core : Nat) (c : Ctx) (va : VA) (e : DWord) : KeepsEdge s (s.meetLine core c va e) := by
  unfold State.meetLine
  dsimp only
  split
  · exact .refl s
  · exact keepsEdge_foldl (fun t f => keepsEdge_meetFlaw t f c va) _ s

theorem keepsEdge_request (s : State) (g : LineAddr) (own : Bool) : KeepsEdge s (s.request g own) := by
  unfold State.request
  split
  · split <;> exact .of_eq rfl rfl rfl
  · exact .refl s

theorem keepsEdge_missSys (s : State) (va : VA) (own : Bool) : KeepsEdge s (s.missSys va own) := by
  unfold State.missSys
  dsimp only
  split
  · exact .refl s
  · exact (KeepsEdge.of_bare (setSysLine_bare s _ _)).trans (keepsEdge_request _ _ _)

theorem keepsEdge_unblock (s : State) (c : Ctx) (va : VA) (own : Bool) : KeepsEdge s (s.unblock c va own) := by
  unfold State.unblock
  dsimp only
  split
  · exact .refl s
  · split
    · exact (keepsEdge_meetLine s _ _ _ _).trans (keepsEdge_wakeAll _)
    · split
      · exact keepsEdge_missSys s _ _
      · split
        · exact .refl s
        · exact .of_bare (beginRebase_bare s _)

/-! ### The end of a context (R88) -/

theorem keepsEdge_dropStamps (s : State) (c : Ctx) (lid : Word) : KeepsEdge s (s.dropStamps c lid) := by
  unfold State.dropStamps
  have ha : ∀ as, KeepsEdge s { s with arenas := as } := fun _ => .of_eq rfl rfl rfl
  refine (ha _).trans (keepsEdge_foldl (fun t a => ?_) _ _)
  split
  next h => exact keepsEdge_settleArena h
  · exact keepsEdge_unblock t _ _ _
  · exact .refl t

theorem keepsEdge_setContext (s : State) (k : Nat) (x : Context) : KeepsEdge s (s.setContext k x) := .of_eq rfl rfl rfl

theorem keepsEdge_removeContext (s : State) (k : Nat) : KeepsEdge s (s.removeContext k) := .of_eq rfl rfl rfl

theorem keepsEdge_removeLaunch (s : State) (k : Nat) : KeepsEdge s (s.removeLaunch k) := .of_eq rfl rfl rfl

theorem keepsEdge_setArenas (s : State) (as : List Arena) : KeepsEdge s { s with arenas := as } := .of_eq rfl rfl rfl

theorem keepsEdge_sendHeld (s : State) (c : Ctx) : KeepsEdge s (s.sendHeld c) := by
  unfold State.sendHeld
  split
  · exact (keepsEdge_setContext s _ _).trans (keepsEdge_foldl keepsEdge_dirBytes _ _)
  · exact .refl s

theorem keepsEdge_killGroup (s : State) (gid : Nat) : KeepsEdge s (s.killGroup gid) := by
  unfold State.killGroup
  split
  · exact .refl s
  · dsimp only
    split <;> exact .of_eq rfl rfl rfl

theorem keepsEdge_dropTeam (s : State) (k : Nat) : KeepsEdge s (s.dropTeam k) := by
  unfold State.dropTeam
  split <;> exact .of_eq rfl rfl rfl

theorem keepsEdge_killContext (s : State) (c : Ctx) : KeepsEdge s (s.killContext c) := by
  have hg := keepsEdge_foldl (fun t (e : Nat × Group) => keepsEdge_killGroup t e.1)
  have ht := keepsEdge_foldl (fun t (e : Nat × Team) => keepsEdge_dropTeam t e.1)
  have hrest : ∀ (t : State) (ds : SMap DieState) (ls : SMap (Option Launch)) (cs : SMap Core),
      KeepsEdge t { t with dies := ds, launches := ls, cores := cs } := fun _ _ _ _ => .of_eq rfl rfl rfl
  exact ((hg _ s).trans (ht _ _)).trans (hrest _ _ _ _)

theorem keepsEdge_endLaunches (s : State) (c : Ctx) (status : Nat) : KeepsEdge s (s.endLaunches c status) := by
  unfold State.endLaunches State.dirEvent
  exact keepsEdge_foldl (fun t (e : Nat × Launch) => ((keepsEdge_dropStamps t c _).trans (keepsEdge_removeLaunch _ e.1)).trans
    (keepsEdge_dirBytes _ _)) _ s

theorem keepsEdge_endWork (s : State) (c : Ctx) (status : Nat) : KeepsEdge s (s.endWork c status) := by
  unfold State.endWork
  have h := (((keepsEdge_sendHeld s c).trans (keepsEdge_killContext _ c)).trans (keepsEdge_endLaunches _ c status)).trans
    (keepsEdge_setArenas _ ((((s.sendHeld c).killContext c).endLaunches c status).arenas.filter (fun a => a.ctx != c)))
  dsimp only
  split
  · exact h.trans (keepsEdge_setContext _ _ _)
  · exact h

theorem setPhys_bare (s : State) (d : Nat) (bs : List Byte) : (s.setPhys d bs).bare = s.bare := by
  unfold State.setPhys
  exact foldl_bare _ (by intros; rfl) _ s

theorem physWrite_bare (s : State) (d : Nat) (bs : List Byte) : (s.physWrite d bs).bare = s.bare := by
  unfold State.physWrite
  dsimp only
  refine (setPhys_bare _ _ _).trans (foldl_bare _ (fun t loc => foldl_bare _ (fun u e => ?_) _ t) _ s)
  split
  · rfl
  · exact dropL2_bare u _

theorem keepsEdge_reconcile (s : State) (loc : Nat) (xs : List (Nat × L2Line)) : KeepsEdge s (s.reconcile loc xs) := by
  unfold State.reconcile
  have hfree : KeepsEdge s s.free.2 := .of_eq rfl rfl rfl
  have hclean : ∀ t : State, KeepsEdge t (xs.foldl (fun s e => s.setL2 e.1 (some { e.2 with dirty := 0 })) t) := fun t =>
    keepsEdge_foldl (fun u e => keepsEdge_setL2 u _ _) xs t
  dsimp only
  have hall : ∀ bs, KeepsEdge s ((xs.foldl (fun s e => s.setL2 e.1 (some { e.2 with dirty := 0 })) s.free.2).toHome loc bs) := fun bs =>
    (hfree.trans (hclean _)).trans (.of_bare (toHome_bare _ loc bs))
  split
  · split
    · exact hall _
    · exact (hall _).trans (keepsEdge_hwEvent _ _)
  · exact hall _

theorem keepsEdge_removeSpan (s : State) (x : Cover) : KeepsEdge s (s.removeSpan x) := by
  have hr : KeepsEdge s (s.reconcileSpan x) := keepsEdge_foldl (fun t loc => keepsEdge_reconcile t loc _) _ s
  have hd := keepsEdge_foldl (fun t (e : Nat × Option L2Line) => keepsEdge_dropL2 t e.1)
  have hs := keepsEdge_foldl (fun t (e : Nat × Option SysLine) => keepsEdge_evictSys t (BitVec.ofNat 41 e.1))
  have hc : ∀ (t : State) (cs : SMap Core), KeepsEdge t { t with cores := cs } := fun _ _ => .of_eq rfl rfl rfl
  exact (((hr.trans (hd _ _)).trans (hc _ _)).trans (hs _ _)).trans (keepsEdge_setMem _ _)

theorem keepsEdge_checkDep (s : State) (lid : Nat) : KeepsEdge s (s.checkDep lid) := by
  unfold State.checkDep
  split
  · exact .refl s
  · split
    · split
      · split
        · exact .of_eq rfl rfl rfl
        · exact .refl s
      · split
        · exact .refl s
        · exact .of_eq rfl rfl rfl
    · exact .refl s

theorem keepsEdge_invalidate (s : State) (x : Span) : KeepsEdge s (s.invalidate x) := by
  unfold State.invalidate State.rereadDeps
  exact (keepsEdge_removeSpan s _).trans (keepsEdge_foldl (fun t (e : Nat × Launch) => keepsEdge_checkDep t e.1) _ _)

theorem keepsEdge_dropContext (s : State) (c : Ctx) : KeepsEdge s (s.dropContext c) := by
  unfold State.dropContext
  have h : KeepsEdge s ((s.freeFrames c).setMapping (s.mem.mapping.filter (fun p => p.1 != c))) := keepsEdge_setMem s _
  exact ((h.trans (.of_bare (physWrite_bare _ _ _))).trans (keepsEdge_invalidate _ _)).trans (keepsEdge_removeContext _ _)

theorem keepsEdge_failContext (s : State) (c : Ctx) (reason : Nat) : KeepsEdge s (s.failContext c reason) := by
  unfold State.failContext
  have h := (keepsEdge_sendHeld s c).trans (keepsEdge_hwEvent _
    { kind := 0x07, src := srcIo, ctx := c.toNat, body := [(16, bytesNat 1 reason)] })
  dsimp only
  refine (h.trans ?_).trans ((keepsEdge_endWork _ c 2).trans (keepsEdge_dropContext _ c))
  split
  · exact (keepsEdge_killContext _ c).trans (keepsEdge_foldl (fun t (e : Nat × Launch) => keepsEdge_removeLaunch t e.1) _ _)
  · exact .refl _

/-! ### The device-reset action -/

theorem dropStream_links (s : State) : s.dropStream.links = s.links := by
  unfold State.dropStream
  split
  · exact (keepsEdge_hwEvent _ _).links
  · rfl

theorem dropStream_grows (s : State) : HostGrows s s.dropStream := by
  unfold State.dropStream
  split
  · exact (HostGrows.of_eq (mapPkg_host s _)).trans (hwEvent_grows _ _)
  · exact .refl s

theorem keepsEdge_refuseQueued (s : State) : KeepsEdge s s.refuseQueued := by
  refine ⟨?_, refuseQueued_pkg s, refuseQueued_grows s⟩
  have hd : ∀ (cues : List (List Byte)) (t : State), KeepsEdge t (cues.foldl State.discard t) := fun cues t =>
    keepsEdge_foldl (fun u _ => keepsEdge_hwEvent u _) cues t
  exact List.foldlRecOn (motive := fun t : State => t.links = s.links) _ _ rfl (fun t ht d _ => (hd _ _).links.trans ht)

theorem linksUp_link_other (s : State) {ns : List Nat} {n : Nat} (h : n ∉ ns) : (s.linksUp ns).link n = s.link n := by
  refine List.foldlRecOn (motive := fun t : State => t.link n = s.link n) ns _ rfl (fun t ht m hm => ?_)
  have hne : n ≠ m := fun he => h (he ▸ hm)
  split
  · exact ht
  · rw [setLink_link_other t _ hne, ht]

theorem bootRecord_link (s : State) (cause n : Nat) : (s.bootRecord cause).link n = s.link n := by simp [bootRecord_eq]

theorem beginStart_link (s : State) (cause : Nat) {n : Nat} (h : n ≠ ihl) : (s.beginStart cause).link n = s.link n := by
  have hn : n ∉ [ihl] := by simpa using h
  by_cases hc : s.pkg.fstart.catchUp.count = 3
  · rw [beginStart_minimal cause hc, bootRecord_link, linksUp_link_other _ hn]
    rfl
  · rw [beginStart_waits cause hc, mapPkg_link, linksUp_link_other _ hn]
    rfl

theorem restart_link {s : State} (cause : Nat) {n : Nat} (h : n ≠ ihl) : (s.restart cause).link n = s.link n := by
  unfold State.restart
  split
  · rfl
  · split
    · exact beginStart_link s cause h
    · rfl

/-- A start that begins, or waits for its rails, does not run. -/
theorem restart_phase {s : State} (cause : Nat) (ht : s.pkg.tripped = none) : (s.restart cause).pkg.phase ≠ .running := by
  by_cases hr : s.pkg.rails = BitVec.allOnes 20
  · rw [restart_begins cause ht hr]
    by_cases hc : s.pkg.fstart.catchUp.count = 3
    · rw [beginStart_minimal cause hc]
      simp
    · rw [beginStart_waits cause hc]
      simp
  · rw [restart_waits cause ht hr]
    simp

theorem clearDies_links (s : State) : s.clearDies.links = s.links := rfl

/-- The device after a reset, from what its contexts leave when they have failed. -/
def State.afterReset (u : State) : State := (u.dropStream.refuseQueued.clearDies).restart 1

theorem afterReset_edge {s u : State} (h : KeepsEdge s u) (ht : s.pkg.tripped = none) :
    (∀ n, n ≠ ihl → u.afterReset.link n = s.link n) ∧ HostGrows s u.afterReset ∧ u.afterReset.pkg.phase ≠ .running := by
  unfold State.afterReset
  have hq := keepsEdge_refuseQueued u.dropStream
  have htrip : u.dropStream.refuseQueued.clearDies.pkg.tripped = none := by
    rw [clearDies_pkg, refuseQueued_pkg, dropStream_pkg, h.pkg]
    exact ht
  have hphase := restart_phase 1 htrip
  refine ⟨fun n hn => ?_, ?_, hphase⟩
  · have hl : u.dropStream.refuseQueued.links = s.links := hq.links.trans ((dropStream_links u).trans h.links)
    rw [restart_link 1 hn, State.link, State.link, clearDies_links, hl]
  · have hclear : HostGrows u.dropStream.refuseQueued u.dropStream.refuseQueued.clearDies := .of_eq (clearDies_host _)
    obtain ⟨-, -, -, -, hstart⟩ := restart_frame 1 htrip
    exact (((h.host.trans (dropStream_grows u)).trans hq.host).trans hclear).trans hstart

theorem resetDevice_eq {s : State} (ht : s.pkg.tripped = none) :
    s.resetDevice = (s.contextTags.foldl (fun s c => s.failContext c 0) s).afterReset := by
  simp [State.resetDevice, State.afterReset, ht]

/-- The device-reset action leaves every link but the IHL as it was, loses no event, and ends what ran. -/
theorem resetDevice_edge (s : State) : (∀ n, n ≠ ihl → s.resetDevice.link n = s.link n) ∧ HostGrows s s.resetDevice ∧
    (s.pkg.tripped = none → s.resetDevice.pkg.phase ≠ .running) := by
  cases ht : s.pkg.tripped with
  | some x => simp [State.resetDevice, ht, HostGrows.refl]
  | none =>
    rw [resetDevice_eq ht]
    obtain ⟨hl, hg, hp⟩ := afterReset_edge (keepsEdge_foldl (fun t c => keepsEdge_failContext t c 0) s.contextTags s) ht
    exact ⟨hl, hg, fun _ => hp⟩

end Sys2Proof.Machine

/-! What the work of the switches changes of the fabric: directories, and messages to switches that live (R38, R42 to R49). -/

namespace Sys2Proof.Machine

open Sys2Proof Sys2Proof.Claims

/-! ### Slots that live (R38) -/

theorem firstFrom_holds {p : Nat → Bool} {n k j : Nat} (h : firstFrom p k n = some j) : p j = true := by
  induction n generalizing k with
  | zero => simp [firstFrom] at h
  | succ n ih =>
    unfold firstFrom at h
    split at h
    next hk => exact Option.some.inj h ▸ hk
    · exact ih h

theorem nextLive_live {c : PartCfg} {k j : Nat} {past : Option Nat} (h : c.nextLive k past = some j) : c.live j = true := by
  obtain ⟨i, hi, rfl⟩ := Option.map_eq_some_iff.1 h
  exact (Bool.and_eq_true_iff.1 (firstFrom_holds hi)).1

theorem primary_live {c : PartCfg} {g : LineAddr} {k : Nat} (h : c.primary g = some k) : c.live k = true := by
  unfold PartCfg.primary at h
  split at h
  · simp at h
  · split at h
    next hl => exact Option.some.inj h ▸ hl
    · split at h
      · simp at h
      · exact nextLive_live h

theorem alternate_live {c : PartCfg} {g : LineAddr} {k : Nat} (h : c.alternate g = some k) : c.live k = true := by
  unfold PartCfg.alternate at h
  split at h
  · simp at h
  · exact nextLive_live h

/-! ### The frame -/

/-- The fabric without what the work of its switches changes: directories, this device's lines, memory elsewhere, messages on
their way. -/
def Fabric.frame (b : Fabric) : Fabric :=
  { b with wire := [], lines := [], remote := [], switches := [], nextTxn := 0 }

/-- Only the work of switches has been done: the messages that have been sent, to switches of `P`, and what the host is told. With no
device out of reach the host is told nothing, where `quiet` says so. -/
structure Flow (quiet : Prop) (P : Nat → Prop) (s t : State) : Prop where
  edge  : KeepsEdge s t
  clk   : t.clk = s.clk
  fab   : t.fab.frame = s.fab.frame
  wire  : s.fab.wire ⊆ t.fab.wire
  fresh : ∀ m ∈ t.fab.wire, m ∈ s.fab.wire ∨ ∀ k, m.toSlot k = true → P k
  still : quiet → s.fab.away = 0 → t.host = s.host

/-- The same, `P` holding of the slots that live. -/
def Flows (quiet : Prop) (P : Nat → Prop) (s t : State) : Prop := (∀ k, s.fab.cfg.live k = true → P k) → Flow quiet P s t

section
variable {quiet : Prop} {P : Nat → Prop}

theorem Flow.cfg {s t : State} (h : Flow quiet P s t) : t.fab.cfg = s.fab.cfg := by
  have hf : t.fab.frame.cfg = s.fab.frame.cfg := by rw [h.fab]
  exact hf

theorem Flow.away {s t : State} (h : Flow quiet P s t) : t.fab.away = s.fab.away := by
  have hf : t.fab.frame.away = s.fab.frame.away := by rw [h.fab]
  exact hf

theorem Flow.sweeps {s t : State} (h : Flow quiet P s t) : t.fab.sweeps = s.fab.sweeps := by
  have hf : t.fab.frame.sweeps = s.fab.frame.sweeps := by rw [h.fab]
  exact hf

theorem Flow.abroad {s t : State} (h : Flow quiet P s t) : t.fab.abroad = s.fab.abroad := by
  have hf : t.fab.frame.abroad = s.fab.frame.abroad := by rw [h.fab]
  exact hf

theorem Flow.unsent {s t : State} (h : Flow quiet P s t) : t.fab.unsent = s.fab.unsent := by
  have hf : t.fab.frame.unsent = s.fab.frame.unsent := by rw [h.fab]
  exact hf

theorem Flow.sent {s t : State} (h : Flow quiet P s t) : t.fab.sent = s.fab.sent := by
  have hf : t.fab.frame.sent = s.fab.frame.sent := by rw [h.fab]
  exact hf

theorem Flow.seqSlot {s t : State} (h : Flow quiet P s t) : t.fab.seqSlot = s.fab.seqSlot := by
  have hf : t.fab.frame.seqSlot = s.fab.frame.seqSlot := by rw [h.fab]
  exact hf

theorem Flows.refl (s : State) : Flows quiet P s s := fun _ =>
  ⟨.refl s, rfl, rfl, List.Subset.refl _, fun _ hm => .inl hm, fun _ _ => rfl⟩

theorem Flows.trans {s t u : State} (h : Flows quiet P s t) (h' : Flows quiet P t u) : Flows quiet P s u := by
  intro hP
  have a := h hP
  have b := h' (fun k hk => hP k (a.cfg ▸ hk))
  refine ⟨a.edge.trans b.edge, b.clk.trans a.clk, b.fab.trans a.fab, List.Subset.trans a.wire b.wire, fun m hm => ?_, fun hq ha => ?_⟩
  · exact (b.fresh m hm).elim (fun h => a.fresh m h) .inr
  · exact (b.still hq (a.away.trans ha)).trans (a.still hq ha)

theorem Flows.foldl {β : Type} {f : State → β → State} {xs : List β} (h : ∀ t, ∀ x ∈ xs, Flows quiet P t (f t x)) (s : State) :
    Flows quiet P s (xs.foldl f s) :=
  List.foldlRecOn xs f (.refl s) (fun t ht x hx => ht.trans (h t x hx))

/-- What changes neither the fabric's frame, the messages on their way, nor the edge. -/
theorem Flows.of_eq {s t : State} (he : KeepsEdge s t) (hh : t.host = s.host) (hc : t.clk = s.clk) (hf : t.fab.frame = s.fab.frame)
    (hw : t.fab.wire = s.fab.wire) : Flows quiet P s t := fun _ =>
  ⟨he, hc, hf, by rw [hw]; exact List.Subset.refl _, fun _ hm => .inl (hw ▸ hm), fun _ _ => hh⟩

theorem Flows.of_bare {s t : State} (h : t.bare = s.bare) : Flows quiet P s t := by
  have hh : t.bare.host = s.bare.host := by rw [h]
  have hc : t.bare.clk = s.bare.clk := by rw [h]
  have hf : t.bare.fab.frame = s.bare.fab.frame := by rw [h]
  have hw : t.bare.fab.wire = s.bare.fab.wire := by rw [h]
  exact .of_eq (.of_bare h) hh hc hf hw

theorem flows_carry (s : State) {m : FabMsg} (hm : ∀ k, m.toSlot k = true → P k) : Flows quiet P s (s.carry m) := fun _ =>
  ⟨.of_eq rfl rfl rfl, rfl, rfl, List.subset_append_left .., fun x hx => (List.mem_append.1 hx).imp id
    (fun h => by obtain rfl := List.mem_singleton.1 h; exact hm), fun _ _ => rfl⟩

theorem flows_setSwitch (s : State) (k : Nat) (x : Switch) : Flows quiet P s (s.setSwitch k x) :=
  .of_eq (.of_eq rfl rfl rfl) rfl rfl rfl rfl

theorem flows_useTxn (s : State) : Flows quiet P s s.useTxn := .of_eq (.of_eq rfl rfl rfl) rfl rfl rfl rfl

theorem flows_setPoison (s : State) (x : SMap (Option Poison)) : Flows quiet P s { s with mem := { s.mem with poison := x } } :=
  .of_eq (.of_eq rfl rfl rfl) rfl rfl rfl rfl

theorem flows_hwEvent (s : State) (e : Event) : Flows False P s (s.hwEvent e) := fun _ => by
  have hf : (s.hwEvent e).fab = s.fab := by unfold State.hwEvent; split <;> rfl
  have hc : (s.hwEvent e).clk = s.clk := by unfold State.hwEvent; split <;> rfl
  exact ⟨keepsEdge_hwEvent s e, hc, by rw [hf], by rw [hf]; exact List.Subset.refl _, fun m hm => .inl (hf ▸ hm), False.elim⟩

/-- Less is asked of what may tell the host. -/
theorem Flow.loud {s t : State} (h : Flow quiet P s t) : Flow False P s t := ⟨h.edge, h.clk, h.fab, h.wire, h.fresh, False.elim⟩

theorem Flows.loud {s t : State} (h : Flows quiet P s t) : Flows False P s t := fun hP => (h hP).loud

/-! ### Lost lines, notes, messages -/

theorem flows_loseRange (s : State) (g : LineAddr) (own : Device) : Flows False P s (s.loseRange g own) := by
  unfold State.loseRange
  dsimp only
  split
  · split
    · exact ((flows_hwEvent s _).trans (flows_setPoison _ _)).trans (.of_bare (post_bare _ _))
    · exact flows_hwEvent s _
  · exact .refl s

theorem flows_ownerLost (s : State) (g : LineAddr) {e : DirEntry} (h : s.isAway e.own = true) : Flows quiet P s (s.ownerLost g e) := by
  intro hP
  have hl : Flow False P s (s.ownerLost g e) := by
    unfold State.ownerLost
    split
    · exact flows_loseRange s g _ hP
    · exact Flows.refl s hP
  refine ⟨hl.edge, hl.clk, hl.fab, hl.wire, hl.fresh, fun _ ha => ?_⟩
  simp [State.isAway, ha] at h

theorem flows_toDevice (s : State) (slot : Nat) (d : Device) (mtype : Nat) (txn : Word) (g : LineAddr) (body : List Byte) {m : FabMsg}
    (hm : ∀ k, m.toSlot k = true → P k) : Flows quiet P s (s.toDevice slot d mtype txn g body m) := by
  unfold State.toDevice
  split
  · exact flows_carry s hm
  · exact flows_setSwitch s _ _

/-- A slot that a message of the switch itself may name. -/
theorem toSlot_own {slot k : Nat} (hs : P slot) (h : (slot == k) = true) : P k := beq_iff_eq.1 h ▸ hs

section
variable {slot : Nat} (hs : P slot)
include hs

theorem flows_invalidatePorts (s : State) (txn : Word) (g : LineAddr) (ports : BitVec 64) (but : List Device) :
    Flows quiet P s (s.invalidatePorts slot txn g ports but) :=
  .foldl (fun t _ _ => .foldl (fun u d _ => flows_toDevice u slot d _ _ _ _ (m := .inval slot g) (fun _ hk => toSlot_own hs hk)) t) s

theorem flows_noteTo (s : State) (g : LineAddr) (own : Device) (st : DirState) : Flows quiet P s (s.noteTo slot g own st) := by
  intro hP
  unfold State.noteTo
  split
  next a ha =>
    refine ((flows_setSwitch s slot _).trans (flows_carry _ (fun k hk => ?_))) hP
    exact (Bool.or_eq_true_iff.1 hk).elim (toSlot_own (hP a (alternate_live ha))) (toSlot_own hs)
  · exact Flows.refl s hP

theorem flows_sendNote (s : State) {a : Nat} (g : LineAddr) (own : Device) (st : DirState) (ha : P a) :
    Flows quiet P s (s.sendNote a slot g own st) :=
  (flows_setSwitch s slot _).trans (flows_carry _ (fun _ hk => (Bool.or_eq_true_iff.1 hk).elim (toSlot_own ha) (toSlot_own hs)))

/-! ### Transactions -/

theorem flows_beginTxn (s : State) (own : Bool) (r : FabReq) (k : Nat) (e : DirEntry) : Flows quiet P s (s.beginTxn slot own r k e) := by
  have hset := flows_setSwitch (quiet := quiet) (P := P) s slot
  have hlost : ∀ x, s.isAway e.own = true → Flows quiet P s ((s.setSwitch slot x).ownerLost r.g e) := fun x h =>
    (hset x).trans (flows_ownerLost _ r.g h)
  have hfwd : ∀ x mtype m, (∀ k, m.toSlot k = true → P k) →
      Flows quiet P s ((s.setSwitch slot x).toDevice slot e.own mtype r.txn r.g [] m) := fun x _ _ hm =>
    (hset x).trans (flows_toDevice _ slot _ _ _ _ _ hm)
  have hinv := fun t : State => flows_invalidatePorts (quiet := quiet) hs t r.txn r.g
  have hown : ∀ x mtype m, (∀ k, m.toSlot k = true → P k) → ∀ x' t', t' = (if s.isAway e.own then (s.setSwitch slot x).ownerLost r.g e
      else (s.setSwitch slot x').toDevice slot e.own mtype r.txn r.g [] m) → Flows quiet P s t' := by
    rintro x mtype m hm x' t' rfl
    split
    next h => exact hlost x h
    · exact hfwd x' _ _ hm
  unfold State.beginTxn
  dsimp only
  split
  · exact hset _
  · exact hset _
  · split
    next h => exact hlost _ h
    · exact hfwd _ _ (.fwdRead slot r.g) (fun _ hk => toSlot_own hs hk)
  · exact hset _
  · exact (hset _).trans (hinv _ _ _)
  · exact (hown _ _ (.fwdInv slot r.g) (fun _ hk => toSlot_own hs hk) _ _ rfl).trans (hinv _ _ _)

theorem flows_beginEvict (s : State) (own : Bool) (r : FabReq) (k : Nat) (e : DirEntry) : Flows quiet P s (s.beginEvict slot own r k e) := by
  unfold State.beginEvict
  dsimp only
  have hinv := fun t : State => flows_invalidatePorts (quiet := quiet) hs t r.txn e.gla
  by_cases hl : (e.st != .s && s.isAway e.own) = true
  · simp only [hl, if_true]
    exact (((flows_ownerLost s e.gla (Bool.and_eq_true_iff.1 hl).2).trans (flows_setSwitch _ slot _)).trans
      (flows_noteTo hs _ _ _ _)).trans (hinv _ _ _)
  · simp only [hl, if_false, Bool.false_eq_true]
    exact (flows_setSwitch s slot _).trans (hinv _ _ _)

theorem flows_takeRequest (s : State) (own : Bool) (r : FabReq) : Flows quiet P s (s.takeRequest slot own r) := by
  have hwait : Flows quiet P s (s.waitAt slot own r) := flows_setSwitch s slot _
  unfold State.takeRequest
  dsimp only
  split
  · exact hwait
  · split
    · exact flows_beginTxn hs s own r _ _
    · split
      · exact flows_beginTxn hs s own r _ _
      · split
        · exact hwait
        · exact flows_beginEvict hs s own r _ _

theorem flows_swRequest (s : State) (own : Bool) (r : FabReq) : Flows quiet P s (s.swRequest slot own r) := by
  unfold State.swRequest
  split
  · exact flows_takeRequest hs s own r
  · exact .refl s

omit hs in
theorem flows_sendGrant (s : State) (t : Txn) (e : DirEntry) : Flows quiet P s (s.sendGrant slot t e) := by
  unfold State.sendGrant
  split <;> exact flows_toDevice s slot _ _ _ _ _ (fun k hk => by simp [FabMsg.toSlot] at hk)

omit hs in
theorem flows_finishTxn (s : State) (t : Txn) (k : Nat) (e : DirEntry) : Flows quiet P s (s.finishTxn slot t k e) :=
  (flows_setSwitch s slot _).trans (flows_sendGrant _ t e)

theorem flows_settleLine (s : State) (t : Txn) : Flows quiet P s (s.settleLine slot t) := by
  intro hP
  unfold State.settleLine
  dsimp only
  split
  · exact flows_setSwitch s slot _ hP
  · split
    · exact flows_setSwitch s slot _ hP
    · split
      next a ha =>
        have hlive : s.fab.cfg.alternate t.req.g = some a := by
          split at ha
          · simp at ha
          · exact ha
        exact ((flows_setSwitch s slot _).trans (flows_sendNote hs _ _ _ _ (hP a (alternate_live hlive)))) hP
      · exact flows_finishTxn s t _ _ hP

theorem flows_freeWay {s u : State} {t : Txn} {old : LineAddr} (h : s.freeWay slot t old = some u) : Flows quiet P s u := by
  unfold State.freeWay at h
  dsimp only at h
  split at h
  · exact Option.some.inj h ▸ flows_setSwitch s slot _
  · split at h
    · simp at h
    · obtain rfl := Option.some.inj h
      split
      · exact (flows_setSwitch s slot _).trans (flows_noteTo hs _ _ _ _)
      · exact flows_setSwitch s slot _

theorem flows_advance (s : State) (t : Txn) : Flows quiet P s (s.advance slot t) := by
  unfold State.advance
  split
  · exact flows_settleLine hs s t
  · split
    · exact flows_setSwitch s slot _
    next u hu =>
      have h := (flows_freeWay (quiet := quiet) hs hu).trans (flows_takeRequest hs u t.owning t.req)
      dsimp only
      split
      · split
        · exact h.trans (flows_settleLine hs _ _)
        · exact h
      · exact h

theorem flows_advanceLine (s : State) (g : LineAddr) : Flows quiet P s (s.advanceLine slot g) := by
  unfold State.advanceLine
  split
  · exact flows_advance hs s _
  · exact .refl s

theorem flows_takeWaiting (n : Nat) (s : State) (set : Nat) : Flows quiet P s (s.takeWaiting slot set n) := by
  induction n generalizing s with
  | zero => exact .refl s
  | succ n ih =>
    unfold State.takeWaiting
    dsimp only
    split
    · exact .refl s
    · exact (((flows_setSwitch s slot _).trans (flows_swRequest hs _ _ _)).trans (flows_advanceLine hs _ _)).trans (ih _)

theorem flows_retryWaiting (s : State) (g : LineAddr) : Flows quiet P s (s.retryWaiting slot g) := flows_takeWaiting hs _ s _

theorem flows_onTxn (s : State) (g : LineAddr) (h : Txn → Txn) : Flows quiet P s (s.onTxn slot g h) := by
  unfold State.onTxn
  split
  · exact (flows_advance hs s _).trans (flows_retryWaiting hs _ g)
  · exact .refl s

theorem flows_swNoteAck (s : State) (g : LineAddr) : Flows quiet P s (s.swNoteAck slot g) := by
  unfold State.swNoteAck
  dsimp only
  split
  · split
    · exact ((flows_setSwitch s slot _).trans (flows_finishTxn _ _ _ _)).trans (flows_retryWaiting hs _ g)
    · exact flows_setSwitch s slot _
  · exact flows_setSwitch s slot _

theorem flows_retryAll (s : State) : Flows quiet P s (s.retryAll slot) :=
  (flows_setSwitch s slot _).trans (.foldl (fun t _ _ => (flows_swRequest hs t _ _).trans (flows_onTxn hs _ _ id)) _)

theorem flows_resendNote (s : State) (e : DirEntry) : Flows quiet P s (s.resendNote slot e) := by
  intro hP
  unfold State.resendNote
  split
  next a ha => exact flows_sendNote hs s _ _ _ (hP a (alternate_live ha)) hP
  · exact flows_swNoteAck hs s _ hP

theorem flows_releaseEvicted (s : State) (t : Txn) : Flows quiet P s (s.releaseEvicted slot t) := by
  unfold State.releaseEvicted
  split
  · split
    next h =>
      have haway := (Bool.and_eq_true_iff.1 h).2
      exact ((flows_setSwitch s slot _).trans (flows_ownerLost _ _ haway)).trans (flows_noteTo hs _ _ _ _)
    · exact .refl s
  · exact .refl s

theorem flows_releaseTxn (s : State) (g : LineAddr) : Flows False P s (s.releaseTxn slot g) := by
  unfold State.releaseTxn
  split
  · exact .refl s
  next t _ =>
    have he := (flows_releaseEvicted (quiet := False) hs s t)
    dsimp only
    refine he.trans (.trans ?_ ((flows_advance hs _ _).trans (flows_retryWaiting hs _ g)))
    split
    · split
      · split
        · unfold State.ownerLost
          split
          · exact flows_loseRange _ _ _
          · exact .refl _
        · exact .refl _
      · exact .refl _
    · exact .refl _

end

end

theorem postOnce_bare (s : State) (e : Instr) : (s.postOnce e).bare = s.bare := by
  unfold State.postOnce
  split <;> rfl

theorem wake_bare (s : State) (gid : Nat) : (s.wake gid).bare = s.bare := by
  unfold State.wake
  split
  · rfl
  · refine (foldl_bare _ postOnce_bare _ _).trans ?_
    split
    · exact postOnce_bare s _
    · rfl

theorem wakeAll_bare (s : State) : s.wakeAll.bare = s.bare :=
  (foldl_bare _ (fun t _ => postOnce_bare t _) _ _).trans (foldl_bare _ wake_bare _ s)

end Sys2Proof.Machine

/-! The loss of a switch (R50 to R54, R158), and of a link (R35, R55). -/

namespace Sys2Proof.Machine

open Sys2Proof Sys2Proof.Claims

/-! ### The steps of a loss -/

section
variable {quiet : Prop} {P : Nat → Prop}

theorem flows_loseLines (s : State) (xs : List (LineAddr × Device)) : Flows False P s (s.loseLines xs) :=
  .foldl (fun t e _ => flows_loseRange t e.1 e.2) s

theorem flows_request (s : State) (g : LineAddr) (own : Bool) : Flows quiet P s (s.request g own) := by
  intro hP
  unfold State.request
  split
  next k hk =>
    refine ((flows_carry s (fun j hj => ?_)).trans (flows_useTxn _)) hP
    have hkj : (k == j) = true := by cases own <;> exact hj
    exact toSlot_own (hP k (primary_live hk)) hkj
  · exact Flows.refl s hP

theorem flows_setSysLine (s : State) (g : LineAddr) (x : SysLine) : Flows quiet P s (s.setSysLine g x) := .of_bare (setSysLine_bare s g x)

theorem flows_askAgain (s : State) (lost : Nat) : Flows quiet P s (s.askAgain lost) := by
  refine .foldl (fun t e _ => ?_) s
  dsimp only
  split
  · split
    · split
      · exact (flows_setSysLine t _ _).trans (flows_request _ _ _)
      · exact .refl t
    · exact .refl t
  · exact .refl t

/-- The transactions of the switches that live go on. -/
theorem flows_releaseAway {s : State} (h : ∀ k, s.fab.cfg.live k = true → P k) : Flows False P s s.releaseAway :=
  .foldl (fun t k hk => .foldl (fun u _ _ => flows_releaseTxn (h k (List.mem_filter.1 hk).2) u _) t) s

theorem flows_wakeAll (s : State) : Flows quiet P s s.wakeAll := .of_bare (wakeAll_bare s)

end

theorem Flows.edge {quiet : Prop} {s t : State} (h : Flows quiet (fun _ => True) s t) : KeepsEdge s t := (h (fun _ _ => trivial)).edge

theorem keepsEdge_setFab (s : State) (b : Fabric) : KeepsEdge s { s with fab := b } := .of_eq rfl rfl rfl

/-- The sequencer moves to the next slot that lives. -/
theorem moveSequencer_some {s : State} {k : Nat} (h : s.fab.cfg.nextLive s.fab.seqSlot none = some k) :
    ∃ gs e, s.moveSequencer = (State.hwEvent { s with groups := gs, fab := { s.fab with seqSlot := k } } e).wakeAll := by
  simp only [State.moveSequencer, h]
  exact ⟨_, _, rfl⟩

theorem keepsEdge_moveSequencer (s : State) : KeepsEdge s s.moveSequencer := by
  cases h : s.fab.cfg.nextLive s.fab.seqSlot none with
  | none => simp only [State.moveSequencer, h, KeepsEdge.refl]
  | some k =>
    obtain ⟨gs, e, he⟩ := moveSequencer_some h
    have hm : KeepsEdge s { s with groups := gs, fab := { s.fab with seqSlot := k } } := .of_eq rfl rfl rfl
    rw [he]
    exact (hm.trans (keepsEdge_hwEvent _ e)).trans (keepsEdge_wakeAll _)

theorem keepsEdge_broadcastChunk (s : State) (w : Sweep) : KeepsEdge s (s.broadcastChunk w) := by
  unfold State.broadcastChunk
  split
  · exact .refl s
  · exact keepsEdge_setFab s _

theorem keepsEdge_beginSweep (s : State) (slot : Nat) : KeepsEdge s (s.beginSweep slot) := by
  unfold State.beginSweep
  exact ((keepsEdge_setFab s _).trans (keepsEdge_hwEvent _ _)).trans (keepsEdge_broadcastChunk _ _)

theorem keepsEdge_free (s : State) : KeepsEdge s s.free.2 := .of_eq rfl rfl rfl

theorem keepsEdge_strand (s : State) : KeepsEdge s s.strand := by
  unfold State.strand
  exact ((keepsEdge_free s).trans (keepsEdge_setFab _ _)).trans (flows_releaseAway (fun _ _ => trivial)).edge

/-- SWITCH_LOST. -/
def lossEvent (slot : Nat) (bySwitch : Bool) (by_ : Nat) : Event :=
  { kind := 0x13, src := srcLink, body := [(16, bytesNat 1 slot), (17, bytesNat 1 (if bySwitch then 1 else 0)), (18, bytesNat 1 by_)] }

/-- The slot is dead, and the host has been told. -/
def State.lossTold (s : State) (slot : Nat) (bySwitch : Bool) (by_ : Nat) : State := (s.markDead slot).hwEvent (lossEvent slot bySwitch by_)

/-- The switch of the slot is gone, and with it the lines whose owners it alone knew. -/
def State.switchGone (s : State) (slot : Nat) : State := (s.setSwitch slot .reset).loseLines (s.lostLines slot)

/-- The sequencer has left the slot. -/
def State.sequencerLeaves (s : State) (slot : Nat) : State := if s.fab.seqSlot = slot then s.moveSequencer else s

/-- Devices may have gone out of reach; the sweeps begin. -/
def State.sweepBegins (s : State) (slot : Nat) : State :=
  State.beginSweep { s.strand with fab := { s.strand.fab with abroad := s.strand.fab.abroad ++ [Abroad.begun slot] } } slot

/-- A loss up to its recovery sweeps. -/
def State.beforeSweep (s : State) (slot : Nat) (bySwitch : Bool) (by_ : Nat) : State :=
  (((s.lossTold slot bySwitch by_).switchGone slot).sequencerLeaves slot).askAgain slot

theorem loseSwitch_eq {s : State} {slot : Nat} (hf : s.fab.inForce = true) (hl : s.fab.cfg.live slot = true) (bySwitch : Bool) (by_ : Nat) :
    s.loseSwitch slot bySwitch by_ =
      if (List.range (s.beforeSweep slot bySwitch by_).fab.cfg.n).any (s.beforeSweep slot bySwitch by_).fab.cfg.live then
        (s.beforeSweep slot bySwitch by_).sweepBegins slot
      else s.beforeSweep slot bySwitch by_ := by
  rw [State.loseSwitch, if_neg (by simp [hf, hl])]
  have hu : (let t := s.lossTold slot bySwitch by_
      let v := (t.setSwitch slot .reset).loseLines (t.lostLines slot)
      (if v.fab.seqSlot = slot then v.moveSequencer else v).askAgain slot) = s.beforeSweep slot bySwitch by_ := rfl
  have ht : s.lossTold slot bySwitch by_ = (s.markDead slot).hwEvent (lossEvent slot bySwitch by_) := rfl
  rw [lossEvent] at ht
  dsimp only at hu ⊢
  rw [← ht, hu]
  rfl

theorem loseSwitch_idle {s : State} {slot : Nat} (h : ¬ (s.fab.inForce = true ∧ s.fab.cfg.live slot = true)) (bySwitch : Bool) (by_ : Nat) :
    s.loseSwitch slot bySwitch by_ = s := by
  rw [State.loseSwitch, if_pos (by cases hf : s.fab.inForce <;> cases hl : s.fab.cfg.live slot <;> simp_all)]

theorem keepsEdge_lossTold (s : State) (slot : Nat) (bySwitch : Bool) (by_ : Nat) : KeepsEdge s (s.lossTold slot bySwitch by_) :=
  (keepsEdge_setFab s _).trans (keepsEdge_hwEvent (s.markDead slot) _)

theorem flows_switchGone {P : Nat → Prop} (s : State) (slot : Nat) : Flows False P s (s.switchGone slot) :=
  (flows_setSwitch s slot _).trans (flows_loseLines _ _)

theorem keepsEdge_sequencerLeaves (s : State) (slot : Nat) : KeepsEdge s (s.sequencerLeaves slot) := by
  unfold State.sequencerLeaves
  split
  · exact keepsEdge_moveSequencer s
  · exact .refl s

theorem keepsEdge_sweepBegins (s : State) (slot : Nat) : KeepsEdge s (s.sweepBegins slot) :=
  ((keepsEdge_strand s).trans (keepsEdge_setFab _ _)).trans (keepsEdge_beginSweep _ slot)

theorem keepsEdge_beforeSweep (s : State) (slot : Nat) (bySwitch : Bool) (by_ : Nat) : KeepsEdge s (s.beforeSweep slot bySwitch by_) :=
  (((keepsEdge_lossTold s slot bySwitch by_).trans (flows_switchGone _ slot).edge).trans (keepsEdge_sequencerLeaves _ slot)).trans
    (flows_askAgain (quiet := False) _ slot).edge

theorem keepsEdge_loseSwitch (s : State) (slot : Nat) (bySwitch : Bool) (by_ : Nat) : KeepsEdge s (s.loseSwitch slot bySwitch by_) := by
  by_cases h : s.fab.inForce = true ∧ s.fab.cfg.live slot = true
  · rw [loseSwitch_eq h.1 h.2]
    split
    · exact (keepsEdge_beforeSweep s slot bySwitch by_).trans (keepsEdge_sweepBegins _ slot)
    · exact keepsEdge_beforeSweep s slot bySwitch by_
  · rw [loseSwitch_idle h]
    exact .refl s

theorem keepsEdge_declareLost (s : State) (k : Nat) : KeepsEdge s (s.declareLost k) := by
  unfold State.declareLost
  exact ((keepsEdge_setFab s _).trans (keepsEdge_setFab _ _)).trans (keepsEdge_loseSwitch _ k false _)

theorem keepsEdge_suspect (s : State) (slot : Nat) : KeepsEdge s (s.suspect slot) := by
  have hcond : ∀ t : State, KeepsEdge s t → ∀ b : Bool, KeepsEdge s (if b then t.declareLost slot else t) := fun t h b => by
    split
    · exact h.trans (keepsEdge_declareLost t slot)
    · exact h
  unfold State.suspect
  dsimp only
  split
  · exact hcond s (.refl s) _
  · exact hcond s.free.2 (keepsEdge_free s) _

theorem keepsEdge_suspectAll (s : State) (n : Nat) : KeepsEdge s (s.suspectAll n) := keepsEdge_foldl keepsEdge_suspect _ s

/-! ### A link goes down (R35) -/

/-- Lanes that drop leave their link narrower, other parts of the state as they were, and report themselves. -/
theorem dropLanes_spec (s : State) (n : Nat) (lanes : List Nat) :
    (s.dropLanes n lanes).link n = { s.link n with width := (s.link n).width - lanes.length } ∧
    (s.dropLanes n lanes).pkg = s.pkg ∧ (s.dropLanes n lanes).fab = s.fab ∧
    (∀ k, k ≠ n → (s.dropLanes n lanes).link k = s.link k) ∧
    (s.dropLanes n lanes).host.hold.length ≤ s.host.hold.length + lanes.length := by
  induction lanes generalizing s with
  | nil => exact ⟨rfl, rfl, rfl, fun _ _ => rfl, Nat.le_refl _⟩
  | cons k lanes ih =>
    let e : Event := { kind := 0x11, src := srcLink, body := [(16, bytesNat 1 n), (17, bytesNat 1 k), (18, bytesNat 1 ((s.link n).width - 1))] }
    let u := (s.setLink n { s.link n with width := (s.link n).width - 1 }).hwEvent e
    have hstep : s.dropLanes n (k :: lanes) = u.dropLanes n lanes := rfl
    have hfab : u.fab = s.fab := by simp only [u]; unfold State.hwEvent; split <;> rfl
    have hlink : u.link n = { s.link n with width := (s.link n).width - 1 } := by simp [u]
    have hhold : u.host.hold.length ≤ s.host.hold.length + 1 := by
      simp only [u]
      unfold State.hwEvent
      split <;> simp [State.holdEvent]
    obtain ⟨hl, hp, hf, ho, hh⟩ := ih u
    rw [hstep, hl, hp, hf, hlink, hfab]
    refine ⟨by simp [Nat.sub_sub, Nat.add_comm], by simp [u], rfl, fun j hj => ?_, by simp only [List.length_cons]; omega⟩
    rw [ho j hj]
    simp [u, setLink_link_other s _ hj]

/-- An event of a state whose hold has taken `n` events since `s`, and that loses none after it, stands in the hold. -/
theorem reported_of_hold {s u t : State} {n : Nat} {e : Event} (hold : u.host.hold.length ≤ s.host.hold.length + n)
    (h : HostGrows (u.hwEvent e) t) : Reported s t n e := fun hroom => by
  obtain ⟨k, hk⟩ := hwEvent_reported u e (show u.host.hold.length + 0 < holdSize by omega)
  exact ⟨k, h.hold hk⟩

/-- The link that has gone down, and the event that says so (R35). -/
def State.downed (s : State) (n : Nat) : State :=
  (s.setLink n { s.link n with
    up := false
    train := false }).hwEvent
      { kind := 0x12, src := srcLink, body := [(16, bytesNat 1 n), (18, bytesNat 2 (s.link n).acked.toNat)] }

theorem linkDown_eq (s : State) (n : Nat) : s.linkDown n =
    if isDieLink n then (if (s.downed n).pkg.starting then (s.downed n).failStart 0x07 else (s.downed n).resetDevice)
    else if isIfl n && (s.downed n).fab.inForce then
      (if iflLinks.all (fun k => !((s.downed n).link k).up) then (s.downed n).fence else (s.downed n).suspectAll n)
    else s.downed n := rfl

theorem failStart_edge (s : State) (code : BitVec 8) : (∀ n, (s.failStart code).link n = s.link n) ∧ HostGrows s (s.failStart code) ∧
    (s.failStart code).pkg.phase ≠ .running := by
  refine ⟨fun n => ?_, ?_, by simp [failStart_pkg]⟩
  · unfold State.failStart
    rw [bootRecord_link, mapPkg_link, State.link, dropStream_links]
    rfl
  · exact ((dropStream_grows s).trans (.of_eq (mapPkg_host _ _))).trans (bootRecord_grows _ 3)

theorem fence_edge (s : State) : KeepsEdge s s.fence ∧ s.fence.fab.fenced = true ∧ s.fence.fab.lines = [] ∧ s.fence.fab.cfg.n = 0 := by
  refine ⟨?_, rfl, rfl, rfl⟩
  unfold State.fence
  exact (keepsEdge_removeSpan s _).trans (keepsEdge_setFab _ _)

theorem isDieLink_ne_ihl {n : Nat} (h : isDieLink n = true) : n ≠ ihl := by
  rintro rfl
  revert h
  decide

theorem not_isDieLink_of_isIfl {n : Nat} (h : isIfl n = true) : isDieLink n = false := by
  simp only [isIfl, Bool.and_eq_true, decide_eq_true_eq] at h
  simp only [isDieLink, Bool.and_eq_false_iff, decide_eq_false_iff_not]
  omega

section
variable (s : State) (n : Nat)

@[simp] theorem downed_pkg : (s.downed n).pkg = s.pkg := by simp [State.downed]

theorem downed_fab : (s.downed n).fab = s.fab := by
  unfold State.downed State.hwEvent
  split <;> rfl

theorem downed_link : ((s.downed n).link n).up = false := by simp [State.downed]

theorem downed_link_other {k : Nat} (h : k ≠ n) : (s.downed n).link k = s.link k := by simp [State.downed, setLink_link_other s _ h]

/-- A link that goes down is down, and has lost no event since. -/
theorem linkDown_edge : ((s.linkDown n).link n).up = false ∧ HostGrows (s.downed n) (s.linkDown n) := by
  have hdown := downed_link s n
  have hkeep : ∀ t, KeepsEdge (s.downed n) t → (t.link n).up = false ∧ HostGrows (s.downed n) t := fun t h =>
    ⟨by rw [h.link]; exact hdown, h.host⟩
  rw [linkDown_eq]
  split
  next hd =>
    split
    · obtain ⟨hl, hg, -⟩ := failStart_edge (s.downed n) 0x07
      exact ⟨by rw [hl]; exact hdown, hg⟩
    · obtain ⟨hl, hg, -⟩ := resetDevice_edge (s.downed n)
      exact ⟨by rw [hl n (isDieLink_ne_ihl hd)]; exact hdown, hg⟩
  · split
    · split
      · exact hkeep _ (fence_edge _).1
      · exact hkeep _ (keepsEdge_suspectAll _ n)
    · exact hkeep _ (.refl _)

/-- Without a die-to-die link the device does not run. -/
theorem linkDown_phase (hd : isDieLink n = true) (ht : s.pkg.tripped = none) : (s.linkDown n).pkg.phase ≠ .running := by
  rw [linkDown_eq, if_pos hd]
  split
  · exact (failStart_edge _ _).2.2
  · exact (resetDevice_edge _).2.2 (by simpa using ht)

/-- A device whose every IFL is down is cut off (R55). -/
theorem linkDown_fences (hi : isIfl n = true) (hf : s.fab.inForce = true) (h : ∀ k ∈ iflLinks, k ≠ n → (s.link k).up = false) :
    (s.linkDown n).fab.fenced = true ∧ (s.linkDown n).fab.lines = [] ∧ (s.linkDown n).fab.cfg.n = 0 := by
  have hall : iflLinks.all (fun k => !((s.downed n).link k).up) = true := by
    refine List.all_eq_true.2 (fun k hk => ?_)
    by_cases hkn : k = n
    · rw [hkn, downed_link]
      rfl
    · rw [downed_link_other s n hkn, h k hk hkn]
      rfl
  rw [linkDown_eq, if_neg (by simp [not_isDieLink_of_isIfl hi]), if_pos (by simp [hi, downed_fab, hf]), if_pos hall]
  exact (fence_edge _).2

end

/-! ### The end of retraining (R34, R35) -/

/-- A link that goes on. -/
def Link.resumed (l : Link) : Link := ({ l with
  train := false
  failed := 0
  retries := 0
  askDue := false }).resend (l.acked + 1)

/-- The event that says so. -/
def resumedEvent (n : Nat) (l : Link) : Event :=
  { kind := 0x10, src := srcLink, body := [(16, bytesNat 1 n), (17, bytesNat 1 l.trains), (18, bytesNat 1 l.width)] }

theorem linkResumes_eq (s : State) (n : Nat) : s.linkResumes n =
    let t := (s.setLink n (s.link n).resumed).hwEvent (resumedEvent n (s.link n))
    if n = ihl then t.post .eventWrite else if isDieLink n then t.wakeAll else t := rfl

theorem linkResumes_spec (s : State) (n : Nat) : (s.linkResumes n).link n = (s.link n).resumed ∧
    HostGrows ((s.setLink n (s.link n).resumed).hwEvent (resumedEvent n (s.link n))) (s.linkResumes n) := by
  have hkeep : ∀ t, KeepsEdge ((s.setLink n (s.link n).resumed).hwEvent (resumedEvent n (s.link n))) t →
      t.link n = (s.link n).resumed ∧ HostGrows ((s.setLink n (s.link n).resumed).hwEvent (resumedEvent n (s.link n))) t := fun t h =>
    ⟨by rw [h.link]; simp, h.host⟩
  rw [linkResumes_eq]
  dsimp only
  split
  · exact hkeep _ (.of_bare (post_bare _ _))
  · split
    · exact hkeep _ (keepsEdge_wakeAll _)
    · exact hkeep _ (.refl _)

end Sys2Proof.Machine

/-! The events of the link layer (O49). -/

namespace Sys2Proof.Machine

open Sys2Proof Sys2Proof.Claims

/-! ### Flits sent and received -/

/-- A payload that may go is sent with its credits spent. -/
theorem flitSend_payload {s : State} {n : Nat} (h : Carries s n) {vc : Fin 4} {msgs : List (List Byte)}
    (hm : (s.link n).maySend vc.val msgs = true) :
    ∃ f, (s.onLink n (fun l => l.send .payload vc.val msgs)).link n = { s.link n with
        credit := SMap.set 0 (s.link n).credit vc.val (SMap.get 0 (s.link n).credit vc.val - (msgs.map msgUnits).sum)
        outbox := (s.link n).outbox ++ [f]
        owed := (s.link n).returnCredit.2
        replay := (s.link n).replay ++ [f]
        seqNext := (s.link n).seqNext + 1 } ∧
      FlitIs f (s.link n).seqNext ((s.link n).expect - 1) 1 vc.val msgs := by
  obtain ⟨hl, hup, ht⟩ := h
  have hok := hm
  simp only [Link.maySend, Bool.and_eq_true, decide_eq_true_eq] at hok
  obtain ⟨⟨⟨⟨hall, -⟩, hn⟩, -⟩, -⟩ := hok
  rw [onLink_link hl, send_payload hup ht hm, emit_numbered _ _ _ (.inl rfl)]
  exact ⟨_, rfl, flitBytes_is _ _ .payload vc.isLt _ hall hn⟩

theorem flitSend_bare {s : State} {n : Nat} (h : Carries s n) {kind : FlitKind} (vc : Fin 4) (msgs : List (List Byte))
    (hk : kind ≠ .payload) (hr : kind = .retry → (s.link n).replay.length < 512) :
    ∃ f, FlitIs f (s.link n).seqNext ((s.link n).expect - 1) (kindCode kind) 0 [] ∧
      (s.onLink n (fun l => l.send kind vc.val msgs)).link n = { s.link n with
        outbox := (s.link n).outbox ++ [f]
        owed := (s.link n).returnCredit.2
        replay := if kind = .retry then (s.link n).replay ++ [f] else (s.link n).replay
        seqNext := if kind = .retry then (s.link n).seqNext + 1 else (s.link n).seqNext } := by
  obtain ⟨hl, hup, ht⟩ := h
  refine ⟨(s.link n).nextFlit kind 0 [], nextFlit_empty _ kind, ?_⟩
  rw [onLink_link hl, send_bare vc.val msgs hup ht hk hr]
  cases kind with
  | payload => exact absurd rfl hk
  | retry => exact emit_numbered _ 0 [] (.inr rfl)
  | idle => exact emit_unnumbered _ 0 [] (.inl rfl)
  | marker => exact emit_unnumbered _ 0 [] (.inr rfl)

/-- A flit in order: with a request due that is not yet the missing flit, the request goes where there is room now. -/
theorem accept_room {l : Link} {f : List Byte} (hd : l.askDue = true) (hn : ¬ (field f 4 1 = 1 ∨ field f 4 1 = 2))
    (hroom : (l.taken f).replay.length < 512) : ∃ r, FlitIs r l.seqNext (l.expect - 1) 2 0 [] ∧
      (l.accept f).outbox = l.outbox ++ [r] ∧ (l.accept f).replay = (l.taken f).replay ++ [r] ∧ (l.accept f).askDue = false := by
  have hexpect : (l.taken f).expect = l.expect := if_neg hn
  rw [accept_due hd hn, requestRetry_room hroom]
  exact ⟨_, hexpect ▸ nextFlit_empty (l.taken f) .retry, rfl, rfl, rfl⟩

theorem accept_full {l : Link} {f : List Byte} (hd : l.askDue = true) (hn : ¬ (field f 4 1 = 1 ∨ field f 4 1 = 2))
    (hfull : 512 ≤ (l.taken f).replay.length) :
    (l.accept f).outbox = l.outbox ∧ (l.accept f).replay = (l.taken f).replay ∧ (l.accept f).askDue = true := by
  rw [accept_due hd hn, requestRetry_full hfull]
  exact ⟨rfl, rfl, rfl⟩

/-! ### The end of retraining -/

section
variable {s : State} {n : Nat} (ok : Bool) (dropped : List Nat)

/-- The link once its lanes have dropped. -/
theorem retrained_eq (hl : isLink n = true) (hup : (s.link n).up = true) (ht : (s.link n).train = true) :
    s.retrained n ok dropped =
      if (s.link n).width - dropped.length < minWidth n then (s.dropLanes n dropped).linkDown n
      else if ok then (s.dropLanes n dropped).linkResumes n
      else if 3 ≤ (s.link n).failed + 1 then (s.dropLanes n dropped).linkDown n
      else (s.dropLanes n dropped).setLink n { (s.dropLanes n dropped).link n with
        failed := ((s.dropLanes n dropped).link n).failed + 1
        trains := ((s.dropLanes n dropped).link n).trains + 1 } := by
  obtain ⟨hlink, -⟩ := dropLanes_spec s n dropped
  have hw : ((s.dropLanes n dropped).link n).width = (s.link n).width - dropped.length := by rw [hlink]
  have hf : ((s.dropLanes n dropped).link n).failed = (s.link n).failed := by rw [hlink]
  simp only [State.retrained, hl, hup, ht, hw, hf, Bool.not_true, Bool.or_self, Bool.false_eq_true, if_false]

/-- Too narrow, or after the third failure in a row, the link goes down. -/
theorem retrained_down (hl : isLink n = true) (hup : (s.link n).up = true) (ht : (s.link n).train = true)
    (h : (s.link n).width - dropped.length < minWidth n ∨ ok = false ∧ 3 ≤ (s.link n).failed + 1) :
    s.retrained n ok dropped = (s.dropLanes n dropped).linkDown n := by
  rw [retrained_eq ok dropped hl hup ht]
  obtain hw | ⟨rfl, hf⟩ := h
  · rw [if_pos hw]
  · simp only [hf, if_true, Bool.false_eq_true, if_false, ite_self]

theorem downed_dropLanes_reported {t : State} (h : HostGrows ((s.dropLanes n dropped).downed n) t) :
    Reported s t dropped.length { kind := 0x12, src := srcLink, body := [(16, bytesNat 1 n), (18, bytesNat 2 (s.link n).acked.toNat)] } := by
  obtain ⟨hlink, -, -, -, hhold⟩ := dropLanes_spec s n dropped
  have hacked : ((s.dropLanes n dropped).link n).acked = (s.link n).acked := by rw [hlink]
  rw [← hacked]
  exact reported_of_hold (u := (s.dropLanes n dropped).setLink n { (s.dropLanes n dropped).link n with
    up := false
    train := false }) (by simpa using hhold) h

end

/-! ### The statement -/

theorem linkReturns_eq {s : State} {n : Nat} (hl : isLink n = true) (hup : (s.link n).up = false) (hp : s.pkg.powered = true)
    (hr : s.pkg.phase ≠ .rails) (ho : s.pkg.phase ≠ .off) :
    (s.linkReturns n).link n = { s.link n with
      up := true
      failed := 0
      retries := 0
      askDue := false
      credit := startCredit n
      width := lanesOfLink n
      outbox := (s.link n).outbox ++ keptFrom (s.link n) ((s.link n).acked + 1) } := by
  have hc : (!isLink n || (s.link n).up || !s.pkg.powered || s.pkg.phase == .rails || s.pkg.phase == .off) = false := by
    simp [hl, hup, hp, hr, ho]
  simp only [State.linkReturns, hc, Bool.false_eq_true, if_false]
  split <;> simp only [post_link, setLink_link_same] <;> rfl

theorem get_startCredit (n : Nat) {v : Nat} (h : v < 4) : SMap.get 0 (startCredit n) v = if isDieLink n then 256 else 512 := by
  interval_cases v <;> simp [startCredit, List.range_succ, SMap.get]

/-- Settles O49, event by event: each is a function of its link, and a link that goes down takes the device with it. -/
theorem linkEvents : Obligations.LinkEvents := by
  unfold Obligations.LinkEvents
  refine ⟨?_, ?_, ?_, ?_, ?_, ?_, ?_, ?_⟩
  · intro s n vc msgs h hm
    obtain ⟨f, hl, hf⟩ := flitSend_payload h hm
    refine ⟨_, f, exec_flitSend n .payload vc msgs s, onLink_only h.1 _, ?_⟩
    rw [hl]
    refine ⟨hf, rfl, rfl, rfl, fun v => ?_⟩
    rw [SMap.get_set]
    split
    next hv => rw [hv]; rfl
    next => rfl
  · intro s n kind vc msgs h hk hr
    obtain ⟨f, hf, hl⟩ := flitSend_bare h vc msgs hk hr
    refine ⟨_, f, exec_flitSend n kind vc msgs s, onLink_only h.1 _, ?_⟩
    rw [hl]
    refine ⟨hf, rfl, rfl, ?_⟩
    split
    · exact ⟨rfl, rfl⟩
    · exact ⟨rfl, rfl⟩
  · rintro s n f ⟨hl, hup, ht⟩
    refine ⟨_, exec_flitReceive n f s, onLink_only hl _, ?_⟩
    rw [onLink_link hl]
    refine ⟨fun hg hgap => ?_, fun hg hgap => receive_past hup ht hg hgap, fun hbad => ?_⟩
    · rw [receive_next hup ht hg hgap]
      obtain ⟨hin, hex, hack, hcr⟩ := accept_brings (s.link n) f
      refine ⟨hin, hex, hack, fun v hv => by rw [hcr]; exact get_returned _ f hv, fun hq => ?_, accept_room, accept_full⟩
      rw [accept_quiet hq]
      exact ⟨rfl, rfl, rfl⟩
    · have hask : (s.link n).receive f = (s.link n).askRetry := hbad.elim (receive_bad hup ht) (receive_ahead hup ht)
      rw [hask]
      exact askRetry_spec ht
  · rintro s n seq ⟨hl, hup, ht⟩
    refine ⟨_, exec_retryRequest n seq s, onLink_only hl _, ?_⟩
    rw [onLink_link hl, Link.answerRetry, if_pos (by simp [hup, ht])]
    rfl
  · rintro s n ⟨hl, hup, ht⟩
    refine ⟨_, exec_linkRetrain n s, onLink_only hl _, ?_⟩
    rw [onLink_link hl, Link.retrain, if_pos (by simp [hup, ht])]
  · intro s n ok dropped hl hup ht
    obtain ⟨hlink, hpkg, hfab, hother, hhold⟩ := dropLanes_spec s n dropped
    refine ⟨_, exec_retrainComplete n ok dropped s, fun hdown => ?_, fun hw hok => ?_, fun hw hok hf => ?_⟩
    · rw [retrained_down ok dropped hl hup ht hdown]
      obtain ⟨hend, hgrow⟩ := linkDown_edge (s.dropLanes n dropped) n
      exact ⟨hend, downed_dropLanes_reported dropped hgrow,
        fun hd htrip => linkDown_phase _ n hd (by rw [hpkg]; exact htrip),
        fun hi hin hall => linkDown_fences _ n hi (by rw [hfab]; exact hin) (fun k hk hkn => by rw [hother k hkn]; exact hall k hk hkn)⟩
    · rw [retrained_eq ok dropped hl hup ht, if_neg (Nat.not_lt.2 hw), if_pos hok]
      obtain ⟨hres, hgrow⟩ := linkResumes_spec (s.dropLanes n dropped) n
      rw [hres, hlink]
      refine ⟨rfl, ?_⟩
      rw [hlink] at hgrow
      exact reported_of_hold (e := resumedEvent n { s.link n with width := (s.link n).width - dropped.length }) (by simpa using hhold) hgrow
    · rw [retrained_eq ok dropped hl hup ht, if_neg (Nat.not_lt.2 hw), if_neg (by simp [hok]), if_neg (by omega), setLink_link_same, hlink]
  · intro s n h
    have hc : (!isLink n || (s.link n).up || !s.pkg.powered || s.pkg.phase == .rails || s.pkg.phase == .off) = true := by
      obtain h | h | h := h <;> simp [h]
    rw [exec_linkReturn, State.linkReturns, if_pos hc]
  · intro s n hl hup hp hr ho
    refine ⟨_, exec_linkReturn n s, ?_⟩
    rw [linkReturns_eq hl hup hp hr ho]
    exact ⟨rfl, rfl, rfl, rfl, rfl, rfl, rfl, rfl, fun v hv => get_startCredit n hv⟩

end Sys2Proof.Machine

/-! A switch's directory: the entry of a line, its transaction, and what completes it (R39, R42, R43, R49). -/

namespace Sys2Proof.Machine

open Sys2Proof Sys2Proof.Claims

/-! ### Switches -/

@[simp] theorem fswitch_setSwitch (s : State) (k : Nat) (x : Switch) : (s.setSwitch k x).fswitch k = x := by
  simp [State.fswitch, State.setSwitch]

@[simp] theorem fswitch_carry (s : State) (m : FabMsg) (k : Nat) : (s.carry m).fswitch k = s.fswitch k := rfl

/-! ### The ways of a set -/

/-- The way `k` of a line's set is the only one that may hold the line. -/
def OnlyWay (x : Switch) (g : LineAddr) (k : Nat) : Prop :=
  k ∈ waysOf g ∧ ∀ j ∈ waysOf g, j ≠ k → ∀ y, SMap.get none x.dir j = some y → y.gla ≠ g

theorem entryIs_some {x : Switch} {g : LineAddr} {e : DirEntry} :
    EntryIs x g (some e) ↔ e.gla = g ∧ ∃ k, OnlyWay x g k ∧ SMap.get none x.dir k = some e :=
  ⟨fun ⟨hg, k, hk, he, hj⟩ => ⟨hg, k, ⟨hk, hj⟩, he⟩, fun ⟨hg, k, ⟨hk, hj⟩, he⟩ => ⟨hg, k, hk, he, hj⟩⟩

/-- A free way, when no way holds the line. -/
theorem OnlyWay.of_none {x : Switch} {g : LineAddr} {k : Nat} (h : EntryIs x g none) (hk : k ∈ waysOf g) : OnlyWay x g k :=
  ⟨hk, fun j hj _ => h j hj⟩

/-- The ways are searched for the one that answers. -/
theorem findSome?_only {α β : Type} {xs : List α} {f : α → Option β} {k : α} {v : β} (hk : k ∈ xs) (hv : f k = some v)
    (h : ∀ j ∈ xs, j ≠ k → f j = none) : xs.findSome? f = some v := by
  induction xs with
  | nil => simp at hk
  | cons x xs ih =>
    by_cases hx : x = k
    · simp [hx, hv]
    · rw [List.findSome?_cons, h x (by simp) hx]
      exact ih ((List.mem_cons.1 hk).resolve_left (Ne.symm hx)) (fun j hj => h j (List.mem_cons_of_mem _ hj))

section
variable {x : Switch} {g : LineAddr} {k : Nat} {e : DirEntry}

theorem wayOf_only (h : OnlyWay x g k) (he : SMap.get none x.dir k = some e) (hg : e.gla = g) : x.wayOf g = some (k, e) := by
  refine findSome?_only h.1 (by simp [he, hg]) (fun j hj hjk => ?_)
  cases hy : SMap.get none x.dir j with
  | none => rfl
  | some y => simp [h.2 j hj hjk y hy]

theorem find_only (h : OnlyWay x g k) (he : SMap.get none x.dir k = some e) (hg : e.gla = g) (hi : e.st ≠ .i) : x.find g = some (k, e) := by
  refine findSome?_only h.1 (by simp [he, hg, hi]) (fun j hj hjk => ?_)
  cases hy : SMap.get none x.dir j with
  | none => rfl
  | some y => simp [h.2 j hj hjk y hy]

theorem find_none (h : EntryIs x g none) : x.find g = none := by
  refine List.findSome?_eq_none_iff.2 (fun j hj => ?_)
  cases hy : SMap.get none x.dir j with
  | none => rfl
  | some y => simp [h j hj y hy]

@[simp] theorem get_setEntry (x : Switch) (k : Nat) (e : Option DirEntry) : SMap.get none (x.setEntry k e).dir k = e := by
  simp [Switch.setEntry]

theorem get_setEntry_other (x : Switch) {k j : Nat} (e : Option DirEntry) (h : j ≠ k) :
    SMap.get none (x.setEntry k e).dir j = SMap.get none x.dir j := by
  simp [Switch.setEntry, SMap.get_set, h]

theorem OnlyWay.setEntry (h : OnlyWay x g k) (e : Option DirEntry) : OnlyWay (x.setEntry k e) g k :=
  ⟨h.1, fun j hj hjk y hy => h.2 j hj hjk y (by rwa [get_setEntry_other x e hjk] at hy)⟩

theorem entryIs_setEntry (h : OnlyWay x g k) (hg : e.gla = g) : EntryIs (x.setEntry k (some e)) g (some e) :=
  entryIs_some.2 ⟨hg, k, h.setEntry _, by simp⟩

theorem entryIs_freed (h : OnlyWay x g k) : EntryIs (x.setEntry k none) g none := by
  intro j hj y hy
  by_cases hjk : j = k
  · subst hjk
    simp at hy
  · exact h.2 j hj hjk y (by rwa [get_setEntry_other x none hjk] at hy)

/-! ### Touching a way -/

/-- One step of touching way `k`: the entry of way `j` gets its new age. -/
def Switch.aged (x : Switch) (k old j : Nat) : Switch :=
  match SMap.get none x.dir j with
  | some e => x.setEntry j (some { e with age := if j = k then 0 else if e.age < old then e.age + 1 else e.age })
  | none => x

theorem aged_get (x : Switch) (k old j i : Nat) : SMap.get none (x.aged k old j).dir i =
    (SMap.get none x.dir i).map (fun e => if i = j then
      { e with age := if j = k then 0 else if e.age < old then e.age + 1 else e.age } else e) := by
  unfold Switch.aged
  split
  next e he =>
    by_cases hij : i = j
    · subst hij
      simp [he]
    · simp [get_setEntry_other x _ hij, hij]
  next he =>
    by_cases hij : i = j
    · subst hij
      simp [he]
    · simp [hij]

/-- Touching changes of a switch the ages of entries only. -/
theorem aged_eq (x : Switch) (k old j : Nat) : ∃ d, x.aged k old j = { x with dir := d } := by
  unfold Switch.aged
  split
  · exact ⟨_, rfl⟩
  · exact ⟨x.dir, rfl⟩

theorem foldl_aged_eq (js : List Nat) (k old : Nat) (x : Switch) : ∃ d, js.foldl (fun x j => x.aged k old j) x = { x with dir := d } :=
  List.foldlRecOn (motive := fun y : Switch => ∃ d, y = { x with dir := d }) js _ ⟨x.dir, rfl⟩ (by
    rintro y ⟨d, rfl⟩ j -
    obtain ⟨d', h⟩ := aged_eq { x with dir := d } k old j
    exact ⟨d', h⟩)

/-- The line of each way stays. -/
theorem foldl_aged_gla (js : List Nat) (k old i : Nat) (x : Switch) : ∀ y,
    SMap.get none (js.foldl (fun x j => x.aged k old j) x).dir i = some y → ∃ z, SMap.get none x.dir i = some z ∧ y.gla = z.gla := by
  induction js generalizing x with
  | nil => exact fun y hy => ⟨y, hy, rfl⟩
  | cons j js ih =>
    intro y hy
    obtain ⟨z, hz, hg⟩ := ih (x.aged k old j) y hy
    rw [aged_get] at hz
    obtain ⟨w, hw, rfl⟩ := Option.map_eq_some_iff.1 hz
    refine ⟨w, hw, hg.trans ?_⟩
    split <;> rfl

/-- The way that is touched becomes the most recent. -/
theorem foldl_aged_get {js : List Nat} {k old : Nat} {x : Switch} {e : DirEntry} (h : SMap.get none x.dir k = some e)
    (hk : k ∈ js ∨ e.age = 0) : SMap.get none (js.foldl (fun x j => x.aged k old j) x).dir k = some { e with age := 0 } := by
  induction js generalizing x e with
  | nil =>
    have h0 : e.age = 0 := hk.resolve_left (by simp)
    simpa [← h0] using h
  | cons j js ih =>
    by_cases hj : k = j
    · have hs : SMap.get none (x.aged k old j).dir k = some { e with age := 0 } := by rw [aged_get, h]; simp [hj]
      exact ih (e := { e with age := 0 }) hs (.inr rfl)
    · have hs : SMap.get none (x.aged k old j).dir k = some e := by rw [aged_get, h]; simp [hj]
      exact ih hs (hk.imp (fun h => (List.mem_cons.1 h).resolve_left hj) id)

/-- The way that is touched holds its entry with age 0; the other ways keep their lines; nothing else of the switch changes. -/
theorem touch_spec (hk : OnlyWay x g k) (he : SMap.get none x.dir k = some e) :
    ∃ d, x.touch g k = { x with dir := d } ∧ SMap.get none d k = some { e with age := 0 } ∧ OnlyWay { x with dir := d } g k := by
  have hfold : x.touch g k = (waysOf g).foldl (fun y j => y.aged k (((SMap.get none x.dir k).map (fun e => e.age)).getD 15) j) x := rfl
  obtain ⟨d, hd⟩ := foldl_aged_eq (waysOf g) k (((SMap.get none x.dir k).map (fun e => e.age)).getD 15) x
  have hdir : ((waysOf g).foldl (fun y j => y.aged k (((SMap.get none x.dir k).map (fun e => e.age)).getD 15) j) x).dir = d := by rw [hd]
  refine ⟨d, hfold.trans hd, ?_, hk.1, fun j hj hjk y hy => ?_⟩
  · rw [← hdir]
    exact foldl_aged_get he (.inl hk.1)
  · obtain ⟨z, hz, hyz⟩ := foldl_aged_gla _ _ _ _ _ y (by rw [hdir]; exact hy)
    exact hyz ▸ hk.2 j hj hjk z hz

/-- A way that becomes busy with a request is touched. -/
theorem busied_spec (hk : OnlyWay x g k) (e : DirEntry) :
    ∃ d, (x.setEntry k (some { e with busy := true })).touch g k = { x with dir := d } ∧
      SMap.get none d k = some { e with busy := true, age := 0 } ∧ OnlyWay { x with dir := d } g k :=
  touch_spec (hk.setEntry _) (get_setEntry x k _)

end

/-! ### Transactions -/

@[simp] theorem get_setTxn (x : Switch) (g : LineAddr) (t : Option Txn) : SMap.get none (x.setTxn g t).txns g.toNat = t := by
  simp [Switch.setTxn]

/-- The transaction of a line on which nothing was in progress is the one that is set. -/
theorem txnOf_setTxn {x : Switch} {g : LineAddr} {t : Txn} (h : x.txnOf g = none) (ht : t.req.g = g) :
    (x.setTxn g (some t)).txnOf g = some t := by
  have hmem : (g.toNat, some t) ∈ (x.setTxn g (some t)).txns := mem_of_get_eq_some (get_setTxn x g (some t))
  unfold Switch.txnOf at h ⊢
  refine findSome?_only hmem (by simp [ht]) (fun e he hne => ?_)
  exact List.findSome?_eq_none_iff.1 h e ((mem_set (d := none) he).resolve_left hne)

end Sys2Proof.Machine

/-! What a switch sends, and how it settles a line (R42, R43, R49). -/

namespace Sys2Proof.Machine

open Sys2Proof Sys2Proof.Claims

theorem entryIs_congr {x y : Switch} {g : LineAddr} {e : Option DirEntry} (h : y.dir = x.dir) (hx : EntryIs x g e) : EntryIs y g e := by
  unfold EntryIs at hx ⊢
  rw [h]
  exact hx

theorem OnlyWay.congr {x y : Switch} {g : LineAddr} {k : Nat} (h : y.dir = x.dir) (hx : OnlyWay x g k) : OnlyWay y g k := by
  unfold OnlyWay at hx ⊢
  rw [h]
  exact hx

/-! ### Messages of a switch -/

/-- A switch but for what it has sent to other devices. -/
def Switch.unsaid (x : Switch) : Switch := { x with sent := [] }

/-- A switch has sent messages, and done nothing else. -/
structure Says (s t : State) (slot : Nat) : Prop where
  cfg    : t.fab.cfg = s.fab.cfg
  away   : t.fab.away = s.fab.away
  wire   : s.fab.wire ⊆ t.fab.wire
  sent   : (s.fswitch slot).sent ⊆ (t.fswitch slot).sent
  unsaid : (t.fswitch slot).unsaid = (s.fswitch slot).unsaid

section
variable {s t u : State} {slot : Nat}

theorem Says.refl (s : State) (slot : Nat) : Says s s slot := ⟨rfl, rfl, List.Subset.refl _, List.Subset.refl _, rfl⟩

theorem Says.trans (h : Says s t slot) (h' : Says t u slot) : Says s u slot :=
  ⟨h'.cfg.trans h.cfg, h'.away.trans h.away, List.Subset.trans h.wire h'.wire, List.Subset.trans h.sent h'.sent,
    h'.unsaid.trans h.unsaid⟩

theorem Says.dir (h : Says s t slot) : (t.fswitch slot).dir = (s.fswitch slot).dir := by
  have hd : (t.fswitch slot).unsaid.dir = (s.fswitch slot).unsaid.dir := by rw [h.unsaid]
  exact hd

theorem Says.txns (h : Says s t slot) : (t.fswitch slot).txns = (s.fswitch slot).txns := by
  have hd : (t.fswitch slot).unsaid.txns = (s.fswitch slot).unsaid.txns := by rw [h.unsaid]
  exact hd

theorem Says.waiting (h : Says s t slot) : (t.fswitch slot).waiting = (s.fswitch slot).waiting := by
  have hd : (t.fswitch slot).unsaid.waiting = (s.fswitch slot).unsaid.waiting := by rw [h.unsaid]
  exact hd

theorem Says.unacked (h : Says s t slot) : (t.fswitch slot).unacked = (s.fswitch slot).unacked := by
  have hd : (t.fswitch slot).unsaid.unacked = (s.fswitch slot).unsaid.unacked := by rw [h.unsaid]
  exact hd

theorem Says.behind (h : Says s t slot) (p : Nat) (but : List Device) : t.behind p but = s.behind p but := by
  simp [State.behind, State.portDevices, State.isAway, h.cfg, h.away]

theorem Says.foldl {β : Type} {f : State → β → State} {xs : List β} (h : ∀ t, ∀ x ∈ xs, Says t (f t x) slot) (s : State) :
    Says s (xs.foldl f s) slot :=
  List.foldlRecOn (motive := fun t => Says s t slot) xs f (Says.refl s slot) (fun t ht x hx => ht.trans (h t x hx))

end

section
variable (s : State) (slot : Nat) (d : Device) (mtype : Nat) (txn : Word) (g : LineAddr) (body : List Byte) (m : FabMsg)

theorem says_toDevice : Says s (s.toDevice slot d mtype txn g body m) slot := by
  unfold State.toDevice
  split
  · exact ⟨rfl, rfl, List.subset_append_left .., List.Subset.refl _, rfl⟩
  · exact ⟨rfl, rfl, List.Subset.refl _, by simp, by simp; rfl⟩

theorem told_toDevice : Told s (s.toDevice slot d mtype txn g body m) slot d (message mtype (srcSwitch slot) txn g.toNat body) m := by
  unfold Told State.toDevice
  split
  · exact ⟨rfl, rfl⟩
  · refine ⟨rfl, ?_⟩
    simp

/-- The message is on its way, or out of the model. -/
theorem toDevice_arrives : if d = s.fab.cfg.devno then m ∈ (s.toDevice slot d mtype txn g body m).fab.wire
    else (d, message mtype (srcSwitch slot) txn g.toNat body) ∈ ((s.toDevice slot d mtype txn g body m).fswitch slot).sent := by
  have h := told_toDevice s slot d mtype txn g body m
  unfold Told at h
  split
  next hd => rw [if_pos hd] at h; rw [h.1]; simp
  next hd => rw [if_neg hd] at h; rw [h.2]; simp

end

/-- A message that has been sent stays sent. -/
theorem Says.arrives {s t : State} {slot : Nat} (h : Says s t slot) {d : Device} {bytes : List Byte} {m : FabMsg}
    (hm : if d = s.fab.cfg.devno then m ∈ s.fab.wire else (d, bytes) ∈ (s.fswitch slot).sent) :
    if d = s.fab.cfg.devno then m ∈ t.fab.wire else (d, bytes) ∈ (t.fswitch slot).sent := by
  split
  next hd => rw [if_pos hd] at hm; exact h.wire hm
  next hd => rw [if_neg hd] at hm; exact h.sent hm

/-- What each step of a fold brings, and every later step keeps, is there in the end. -/
theorem foldl_brings {σ β : Type} {f : σ → β → σ} {Q : σ → Prop} {I : σ → Prop} {xs : List β} {x : β} (hx : x ∈ xs)
    (hI : ∀ t, I t → ∀ y ∈ xs, I (f t y)) (hQ : ∀ t, I t → Q (f t x)) (hk : ∀ t, I t → Q t → ∀ y ∈ xs, Q (f t y)) {s : σ} (hs : I s) :
    Q (xs.foldl f s) := by
  induction xs generalizing s with
  | nil => simp at hx
  | cons y ys ih =>
    have hrest : ∀ t, I t → Q t → Q (ys.foldl f t) := fun t hIt hQt =>
      (List.foldlRecOn (motive := fun t => I t ∧ Q t) ys f ⟨hIt, hQt⟩
        (fun u hu z hz => ⟨hI u hu.1 z (List.mem_cons_of_mem _ hz), hk u hu.1 hu.2 z (List.mem_cons_of_mem _ hz)⟩)).2
    by_cases hxy : x = y
    · subst hxy
      exact hrest _ (hI s hs x (by simp)) (hQ s hs)
    · exact ih ((List.mem_cons.1 hx).resolve_left hxy) (fun t ht z hz => hI t ht z (List.mem_cons_of_mem _ hz))
        (fun t ht h z hz => hk t ht h z (List.mem_cons_of_mem _ hz)) (hI s hs y (by simp))

theorem says_invalidatePorts (s : State) (slot : Nat) (txn : Word) (g : LineAddr) (ports : BitVec 64) (but : List Device) :
    Says s (s.invalidatePorts slot txn g ports but) slot :=
  .foldl (fun t _ _ => .foldl (fun u d _ => says_toDevice u slot d _ _ _ _ _) t) s

theorem invalidatePorts_zero (s : State) (slot : Nat) (txn : Word) (g : LineAddr) (but : List Device) :
    s.invalidatePorts slot txn g 0 but = s := by
  simp [State.invalidatePorts]

/-- A device has been sent an invalidation. -/
def ToldInval (c : PartCfg) (slot : Nat) (r : FabReq) (d : Device) (t : State) : Prop :=
  if d = c.devno then .inval slot r.g ∈ t.fab.wire else (d, fromSwitch slot 0x15 r []) ∈ (t.fswitch slot).sent

theorem Says.toldInval {t u : State} {slot : Nat} (h : Says t u slot) {c : PartCfg} (hc : t.fab.cfg = c) {r : FabReq} {d : Device}
    (hd : ToldInval c slot r d t) : ToldInval c slot r d u := by
  subst hc
  exact h.arrives hd

/-- Every device behind the ports is sent an invalidation. -/
theorem invalidated_invalidatePorts (s : State) (slot : Nat) (r : FabReq) (ports : BitVec 64) (but : List Device) :
    Invalidated s (s.invalidatePorts slot r.txn r.g ports but) slot r ports but := by
  intro p hp hbit d hd hbut haway
  have hbehind : d ∈ s.behind p but := by simp [State.behind, hd, hbut, haway]
  have hport : p ∈ (List.range 64).filter (fun p => ports.getLsbD p) := by simp [hp, hbit]
  have hsay := fun (u : State) e => says_toDevice u slot e 0x15 r.txn r.g [] (.inval slot r.g)
  have hport' : ∀ t q, Says t ((t.behind q but).foldl (fun s d => s.toDevice slot d 0x15 r.txn r.g [] (.inval slot r.g)) t) slot :=
    fun t q => .foldl (fun u e _ => hsay u e) t
  have hdevice : ∀ t, Says s t slot → ToldInval s.fab.cfg slot r d
      ((t.behind p but).foldl (fun s d => s.toDevice slot d 0x15 r.txn r.g [] (.inval slot r.g)) t) := fun t ht =>
    foldl_brings (I := fun u => Says s u slot) (x := d) (by rw [ht.behind]; exact hbehind) (fun u hu e _ => hu.trans (hsay u e))
      (fun u hu => by
        have h := toDevice_arrives u slot d 0x15 r.txn r.g [] (.inval slot r.g)
        rw [hu.cfg] at h
        exact h)
      (fun u hu hm e _ => (hsay u e).toldInval hu.cfg hm) ht
  exact foldl_brings (I := fun t => Says s t slot) (Q := ToldInval s.fab.cfg slot r d) hport (fun t ht q _ => ht.trans (hport' t q)) hdevice
    (fun t ht hm q _ => (hport' t q).toldInval ht.cfg hm) (.refl s slot)

/-! ### A transaction that has all it awaits -/

/-- The switch of a slot has sent nothing since. -/
structure Hushed (s u : State) (slot : Nat) : Prop where
  cfg  : u.fab.cfg = s.fab.cfg
  wire : u.fab.wire = s.fab.wire
  sent : (u.fswitch slot).sent = (s.fswitch slot).sent

/-- Nor have the devices in reach, the notes and the waiting requests changed. -/
structure Quiet (s u : State) (slot : Nat) : Prop extends Hushed s u slot where
  away    : u.fab.away = s.fab.away
  unacked : (u.fswitch slot).unacked = (s.fswitch slot).unacked
  waiting : (u.fswitch slot).waiting = (s.fswitch slot).waiting

theorem Hushed.told {s u t : State} {slot : Nat} (h : Hushed s u slot) {d : Device} {bytes : List Byte} {m : FabMsg}
    (ht : Told u t slot d bytes m) : Told s t slot d bytes m := by
  unfold Told at ht ⊢
  rw [← h.cfg, ← h.wire, ← h.sent]
  exact ht

theorem Quiet.refl (s : State) (slot : Nat) : Quiet s s slot := ⟨⟨rfl, rfl, rfl⟩, rfl, rfl, rfl⟩

theorem Quiet.setSwitch {s u : State} {slot : Nat} (h : Quiet s u slot) {x : Switch} (hs : x.sent = (u.fswitch slot).sent)
    (hu : x.unacked = (u.fswitch slot).unacked) (hw : x.waiting = (u.fswitch slot).waiting) : Quiet s (u.setSwitch slot x) slot :=
  ⟨⟨h.cfg, h.wire, by simp [hs, h.sent]⟩, h.away, by simp [hu, h.unacked], by simp [hw, h.waiting]⟩

/-- The state that a grant gives. -/
def Txn.grants (t : Txn) (e : DirEntry) : DirState := if t.owning then .m else if e.st = .e then .e else .s

theorem grants_sendGrant (s : State) (slot : Nat) (t : Txn) (e : DirEntry) :
    Grants s (s.sendGrant slot t e) slot t.req (t.grants e) t.data ∧ Says s (s.sendGrant slot t e) slot := by
  unfold State.sendGrant
  cases h : t.data with
  | none => exact ⟨told_toDevice s slot _ _ _ _ _ _, says_toDevice s slot _ _ _ _ _ _⟩
  | some l => exact ⟨told_toDevice s slot _ _ _ _ _ _, says_toDevice s slot _ _ _ _ _ _⟩

theorem Hushed.grants {s u t : State} {slot : Nat} (h : Hushed s u slot) {r : FabReq} {st : DirState} {d : Option Line}
    (hg : Grants u t slot r st d) : Grants s t slot r st d := by
  unfold Grants at hg ⊢
  cases d with
  | none => exact h.told hg
  | some l => exact h.told hg

section
variable {s u : State} {slot : Nat} {t : Txn} {k : Nat}

/-- Grant and clear `busy`. -/
theorem finishTxn_spec (hq : Quiet s u slot) (hk : OnlyWay (u.fswitch slot) t.req.g k) {e : DirEntry} (hg : e.gla = t.req.g) :
    Grants s (u.finishTxn slot t k e) slot t.req (t.grants e) t.data ∧
    EntryIs ((u.finishTxn slot t k e).fswitch slot) t.req.g (some { e with busy := false }) ∧
    SMap.get none ((u.finishTxn slot t k e).fswitch slot).txns t.req.g.toNat = none ∧
    ((u.finishTxn slot t k e).fswitch slot).waiting = (s.fswitch slot).waiting ∧
    ((u.finishTxn slot t k e).fswitch slot).unacked = (s.fswitch slot).unacked := by
  set v := u.setSwitch slot (((u.fswitch slot).setEntry k (some { e with busy := false })).setTxn t.req.g none) with hv
  have hvq : Quiet s v slot := hq.setSwitch rfl rfl rfl
  have hfin : u.finishTxn slot t k e = v.sendGrant slot t e := rfl
  obtain ⟨hgr, hsay⟩ := grants_sendGrant v slot t e
  rw [hfin]
  refine ⟨hvq.grants hgr, ?_, ?_, hsay.waiting.trans hvq.waiting, hsay.unacked.trans hvq.unacked⟩
  · refine entryIs_congr hsay.dir ?_
    rw [hv, fswitch_setSwitch]
    exact entryIs_congr (x := (u.fswitch slot).setEntry k _) rfl (entryIs_setEntry (e := { e with busy := false }) hk hg)
  · rw [hsay.txns, hv, fswitch_setSwitch]
    exact get_setTxn _ _ _

/-- A transaction that waits for nothing settles its line. -/
theorem settleLine_settles (hq : Quiet s u slot) (hk : OnlyWay (u.fswitch slot) t.req.g k) {e old new : DirEntry}
    (he : SMap.get none (u.fswitch slot).dir k = some e) (hg : e.gla = t.req.g) (hw : t.waits = false)
    (hafter : e.after t = { new with busy := true }) (hold : old.owner? = e.owner?) :
    Settles s (u.settleLine slot t) slot t.req old new (t.grants new) t.data ∧
      ((u.settleLine slot t).fswitch slot).waiting = (s.fswitch slot).waiting := by
  have hgl : (e.after t).gla = t.req.g := by
    unfold DirEntry.after
    cases t.owning <;> cases e.st <;> cases t.dirty <;> rfl
  have hcond : (if (e.after t).owner? = e.owner? then none else u.fab.cfg.alternate t.req.g) =
      (if old.owner? = new.owner? then none else s.fab.cfg.alternate t.req.g) := by
    have hn : (e.after t).owner? = new.owner? := by rw [hafter]; rfl
    rw [hn, ← hold, hq.cfg]
    simp only [eq_comm]
  rw [State.settleLine, hw, wayOf_only hk he hg]
  simp only [Bool.false_eq_true, if_false, hcond]
  unfold Settles
  cases halt : (if old.owner? = new.owner? then none else s.fab.cfg.alternate t.req.g) with
  | none =>
    obtain ⟨hgr, hent, htx, hwt, -⟩ := finishTxn_spec hq hk (e := e.after t) hgl
    rw [hafter] at hgr hent ⊢
    rw [hafter] at htx hwt
    exact ⟨⟨hgr, hent, htx⟩, hwt⟩
  | some a =>
    simp only [State.sendNote, fswitch_carry, fswitch_setSwitch]
    refine ⟨⟨?_, ?_, ?_, { t with noteDue := true }, get_setTxn _ _ _, rfl, rfl, rfl⟩, hq.waiting⟩
    · rw [hafter]
      show u.fab.wire ++ _ = _
      rw [hq.wire]
    · rw [hafter]
      rw [hafter] at hgl
      exact entryIs_congr (x := (u.fswitch slot).setEntry k (some { new with busy := true })) rfl
        (entryIs_setEntry (e := { new with busy := true }) hk hgl)
    · show SMap.get 0 (SMap.set 0 (u.fswitch slot).unacked _ (SMap.get 0 (u.fswitch slot).unacked _ + 1)) _ = _
      rw [SMap.get_set_same, hq.unacked]

/-- A transaction that waits stays. -/
theorem settleLine_waits (hw : t.waits = true) :
    u.settleLine slot t = u.setSwitch slot ((u.fswitch slot).setTxn t.req.g (some t)) := by
  rw [State.settleLine, if_pos hw]

/-- With no request that waits for a line of the set, none is taken. -/
theorem retryWaiting_alone {g : LineAddr} (h : AloneInSet s slot g) : s.retryWaiting slot g = s := by
  unfold State.retryWaiting
  cases (s.fswitch slot).waiting.length with
  | zero => rfl
  | succ n =>
    have hnone : (s.fswitch slot).waiting.find? (fun w => setOf w.2.g == setOf g && s.mayTake slot w.2) = none :=
      List.find?_eq_none.2 (fun w hw => by simp [h w hw])
    simp only [State.takeWaiting, hnone]

theorem aloneInSet_congr {g : LineAddr} (h : AloneInSet s slot g) (hw : (u.fswitch slot).waiting = (s.fswitch slot).waiting) :
    AloneInSet u slot g := by
  unfold AloneInSet
  rw [hw]
  exact h

/-- A transaction that evicts nothing goes on by settling its line. -/
theorem onTxn_settles {g : LineAddr} {h : Txn → Txn} {x : Txn} (hx : (s.fswitch slot).txnOf g = some x) (he : (h x).evict = none)
    (ha : AloneInSet s slot g) (hw : ((s.settleLine slot (h x)).fswitch slot).waiting = (s.fswitch slot).waiting) :
    s.onTxn slot g h = s.settleLine slot (h x) := by
  have hadv : s.advance slot (h x) = s.settleLine slot (h x) := by simp [State.advance, he]
  rw [State.onTxn, hx]
  simp only [hadv]
  exact retryWaiting_alone (aloneInSet_congr ha hw)

end

end Sys2Proof.Machine

/-! A request at the primary of its line (R42, R43). -/

namespace Sys2Proof.Machine

open Sys2Proof Sys2Proof.Claims

/-- A lost line is the business of the host and of memory, not of the fabric. -/
theorem loseRange_fab (s : State) (g : LineAddr) (own : Device) : (s.loseRange g own).fab = s.fab := by
  have hev : ∀ e, (s.hwEvent e).fab = s.fab := fun e => by unfold State.hwEvent; split <;> rfl
  unfold State.loseRange
  dsimp only
  split
  · split
    · exact hev _
    · exact hev _
  · rfl

theorem ownerLost_fab (s : State) (g : LineAddr) (e : DirEntry) : (s.ownerLost g e).fab = s.fab := by
  unfold State.ownerLost
  split
  · exact loseRange_fab s g _
  · rfl

/-- The line of a request is busy with it: the entry, at way `k`, and the transaction. -/
structure Busy (u : State) (slot : Nat) (r : FabReq) (k : Nat) (e : DirEntry) (t : Txn) : Prop where
  way   : OnlyWay (u.fswitch slot) r.g k
  entry : SMap.get none (u.fswitch slot).dir k = some e
  line  : e.gla = r.g
  txn   : (u.fswitch slot).txnOf r.g = some t
  req   : t.req = r
  evict : t.evict = none
  alone : AloneInSet u slot r.g

section
variable {s u v : State} {slot k : Nat} {r : FabReq} {e : DirEntry} {t : Txn}

theorem Busy.of_switch (h : Busy u slot r k e t) (hd : (v.fswitch slot).dir = (u.fswitch slot).dir)
    (ht : (v.fswitch slot).txns = (u.fswitch slot).txns) (hw : (v.fswitch slot).waiting = (u.fswitch slot).waiting) :
    Busy v slot r k e t :=
  ⟨h.way.congr hd, hd ▸ h.entry, h.line, by rw [Switch.txnOf, ht]; exact h.txn, h.req, h.evict, aloneInSet_congr h.alone hw⟩

theorem Busy.says (h : Busy u slot r k e t) (hs : Says u v slot) : Busy v slot r k e t := h.of_switch hs.dir hs.txns hs.waiting

theorem Busy.entryIs (h : Busy u slot r k e t) : EntryIs (u.fswitch slot) r.g (some e) := entryIs_some.2 ⟨h.line, k, h.way, h.entry⟩

/-- A transaction that has all it awaits settles its line. -/
theorem Busy.settles (h : Busy u slot r k e t) (hq : Quiet s u slot) (hw : t.waits = false) {old new : DirEntry}
    (hafter : e.after t = { new with busy := true }) (hold : old.owner? = e.owner?) {st : DirState} (hst : t.grants new = st)
    {d : Option Line} (hd : t.data = d) : Settles s (u.settleTxn slot r.g) slot r old new st d := by
  obtain ⟨hway, hentry, hline, htxn, rfl, hev, halone⟩ := h
  obtain ⟨hset, hwait⟩ := settleLine_settles hq hway hentry hline hw hafter hold
  have hlocal : u.settleTxn slot t.req.g = u.settleLine slot t :=
    onTxn_settles (h := id) htxn hev halone (hwait.trans hq.waiting.symm)
  rw [hlocal, ← hst, ← hd]
  exact hset

/-- A transaction that waits stays as it is. -/
theorem Busy.waits (h : Busy u slot r k e t) (hw : t.waits = true) :
    (u.settleTxn slot r.g).fab.wire = u.fab.wire ∧ ((u.settleTxn slot r.g).fswitch slot).sent = (u.fswitch slot).sent ∧
    EntryIs ((u.settleTxn slot r.g).fswitch slot) r.g (some e) ∧
    SMap.get none ((u.settleTxn slot r.g).fswitch slot).txns r.g.toNat = some t := by
  have hentry := h.entryIs
  obtain ⟨-, -, -, htxn, rfl, hev, halone⟩ := h
  have hstay := settleLine_waits (u := u) (slot := slot) hw
  have hset : u.settleTxn slot t.req.g = u.settleLine slot t := onTxn_settles (h := id) htxn hev halone (by
    show ((u.settleLine slot t).fswitch slot).waiting = _
    rw [hstay, fswitch_setSwitch]
    rfl)
  rw [hset, hstay, fswitch_setSwitch]
  exact ⟨rfl, rfl, entryIs_congr rfl hentry, get_setTxn _ _ _⟩

/-- The switch with the line busy with a new transaction. -/
def Switch.begun (x : Switch) (r : FabReq) (k : Nat) (e : DirEntry) (t : Txn) : Switch :=
  ((x.setEntry k (some { e with busy := true })).touch r.g k).setTxn r.g (some t)

theorem busy_begun (hidle : (s.fswitch slot).txnOf r.g = none) (halone : AloneInSet s slot r.g) (hk : OnlyWay (s.fswitch slot) r.g k)
    (hg : e.gla = r.g) (hreq : t.req = r) (hev : t.evict = none) :
    Busy (s.setSwitch slot ((s.fswitch slot).begun r k e t)) slot r k { e with age := 0, busy := true } t ∧
    Quiet s (s.setSwitch slot ((s.fswitch slot).begun r k e t)) slot := by
  obtain ⟨d, hd, hget, honly⟩ := busied_spec hk e
  have hx : (s.fswitch slot).begun r k e t = Switch.setTxn { s.fswitch slot with dir := d } r.g (some t) := by
    rw [Switch.begun, hd]
  rw [hx]
  refine ⟨⟨?_, ?_, hg, ?_, hreq, hev, ?_⟩, (Quiet.refl s slot).setSwitch rfl rfl rfl⟩
  · rw [fswitch_setSwitch]
    exact honly.congr rfl
  · rw [fswitch_setSwitch]
    exact hget
  · rw [fswitch_setSwitch]
    exact txnOf_setTxn (x := { s.fswitch slot with dir := d }) hidle (by rw [hreq])
  · exact aloneInSet_congr halone (by rw [fswitch_setSwitch]; rfl)

theorem Busy.ownerLost (h : Busy u slot r k e t) (g : LineAddr) (f : DirEntry) : Busy (u.ownerLost g f) slot r k e t := by
  have hx : (u.ownerLost g f).fswitch slot = u.fswitch slot := by rw [State.fswitch, ownerLost_fab]; rfl
  exact h.of_switch (by rw [hx]) (by rw [hx]) (by rw [hx])

theorem Quiet.ownerLost (h : Quiet s u slot) (g : LineAddr) (f : DirEntry) : Quiet s (u.ownerLost g f) slot := by
  have hx : (u.ownerLost g f).fswitch slot = u.fswitch slot := by rw [State.fswitch, ownerLost_fab]; rfl
  exact ⟨⟨by rw [ownerLost_fab]; exact h.cfg, by rw [ownerLost_fab]; exact h.wire, by rw [hx]; exact h.sent⟩,
    by rw [ownerLost_fab]; exact h.away, by rw [hx]; exact h.unacked,
    by rw [hx]; exact h.waiting⟩

end

/-! ### The entry that takes the request -/

section
variable {s : State} {slot : Slot} {r : FabReq}

/-- A request for a line that has an entry takes it. -/
theorem swRequest_entry (h : Takes s slot r) {e : DirEntry} (he : EntryIs (s.fswitch slot.val) r.g (some e)) (hi : e.st ≠ .i) (own : Bool) :
    ∃ k, OnlyWay (s.fswitch slot.val) r.g k ∧ e.gla = r.g ∧ s.swRequest slot.val own r = s.beginTxn slot.val own r k e := by
  obtain ⟨hg, k, hk, hget⟩ := entryIs_some.1 he
  have hfind := find_only hk hget hg hi
  have hmay : s.mayTake slot.val r = true := by simp [State.mayTake, h.idle, h.sweep, hfind]
  refine ⟨k, hk, hg, ?_⟩
  rw [State.swRequest, if_pos h.primary]
  simp only [State.takeRequest, hmay, hfind, Bool.not_true, Bool.false_eq_true, if_false]

/-- A request for a line without an entry takes a way that is free. -/
theorem swRequest_fresh (h : Takes s slot r) (he : EntryIs (s.fswitch slot.val) r.g none)
    (hfree : ∃ k ∈ waysOf r.g, SMap.get none (s.fswitch slot.val).dir k = none) (own : Bool) :
    ∃ k, OnlyWay (s.fswitch slot.val) r.g k ∧ s.swRequest slot.val own r = s.beginTxn slot.val own r k (.fresh r.g) := by
  obtain ⟨j, hj, hnone⟩ := hfree
  have hsome : ((waysOf r.g).find? (fun k => (SMap.get none (s.fswitch slot.val).dir k).isNone)).isSome = true :=
    List.find?_isSome.2 ⟨j, hj, by simp [hnone]⟩
  obtain ⟨k, hk⟩ := Option.isSome_iff_exists.1 hsome
  have hany : (waysOf r.g).any (fun k => (SMap.get none (s.fswitch slot.val).dir k).isNone) = true :=
    List.any_eq_true.2 ⟨j, hj, by simp [hnone]⟩
  have hmay : s.mayTake slot.val r = true := by simp [State.mayTake, h.idle, h.sweep, hany]
  refine ⟨k, .of_none he (List.mem_of_find?_eq_some hk), ?_⟩
  rw [State.swRequest, if_pos h.primary]
  simp only [State.takeRequest, hmay, find_none he, hk, Bool.not_true, Bool.false_eq_true, if_false]

end

/-! ### What a request begins, by the state of the entry -/

section
variable (s : State) (slot : Nat) (r : FabReq) (k : Nat) {e : DirEntry}

/-- The transaction of a request that home memory answers. -/
def homeTxn (s : State) (r : FabReq) (own : Bool) : Txn := { Txn.start r own with data := some (s.homeLine r.g) }

/-- The ports that owe an acknowledgement for a shared line. -/
def State.sharers (s : State) (r : FabReq) (e : DirEntry) : BitVec 64 := s.owing e.shv [r.port.val] [r.dev]

/-- The same, for a line with an owner. -/
def State.others (s : State) (r : FabReq) (e : DirEntry) : BitVec 64 :=
  s.owing e.shv [r.port.val, (portOf e.own).val] [r.dev, e.own]

/-- The owning request of a shared line, which needs no data where the requester holds a copy. -/
def shareTxn (s : State) (r : FabReq) (e : DirEntry) : Txn :=
  s.await { Txn.start r true with data := if e.shv &&& (1#64) <<< r.port.val = 0 then some (s.homeLine r.g) else none } (s.sharers r e) [r.dev]

/-- The request of an owned line waits for its owner. -/
def ownerTxn (s : State) (r : FabReq) (e : DirEntry) : Bool → Txn
  | false => { Txn.start r false with owner := some e.own }
  | true => { s.await (Txn.start r true) (s.others r e) [r.dev, e.own] with owner := some e.own }

theorem beginTxn_home {own : Bool} (h : e.st = .i ∨ own = false ∧ e.st = .s) :
    s.beginTxn slot own r k e = s.setSwitch slot ((s.fswitch slot).begun r k e (homeTxn s r own)) := by
  obtain h | ⟨rfl, h⟩ := h
  · cases own <;> simp only [State.beginTxn, h, Switch.begun, homeTxn]
  · simp only [State.beginTxn, h, Switch.begun, homeTxn]

theorem beginTxn_shared (h : e.st = .s) : s.beginTxn slot true r k e =
    (s.setSwitch slot ((s.fswitch slot).begun r k e (shareTxn s r e))).invalidatePorts slot r.txn r.g (s.sharers r e) [r.dev] := by
  simp only [State.beginTxn, h, Switch.begun, shareTxn, State.sharers]

theorem beginTxn_away (h : Owns e) (ha : s.isAway e.own = true) : s.beginTxn slot false r k e =
    (s.setSwitch slot ((s.fswitch slot).begun r k e (homeTxn s r false))).ownerLost r.g e := by
  obtain h | h | h := h <;> simp only [State.beginTxn, h, ha, if_true, Switch.begun, homeTxn]

theorem beginTxn_owner (h : Owns e) (ha : s.isAway e.own = false) : s.beginTxn slot false r k e =
    (s.setSwitch slot ((s.fswitch slot).begun r k e (ownerTxn s r e false))).toDevice slot e.own 0x16 r.txn r.g [] (.fwdRead slot r.g) := by
  obtain h | h | h := h <;> simp only [State.beginTxn, h, ha, Bool.false_eq_true, if_false, Switch.begun, ownerTxn]

theorem beginTxn_ownerTaken (h : Owns e) (ha : s.isAway e.own = false) : s.beginTxn slot true r k e =
    ((s.setSwitch slot ((s.fswitch slot).begun r k e (ownerTxn s r e true))).toDevice slot e.own 0x17 r.txn r.g []
      (.fwdInv slot r.g)).invalidatePorts slot r.txn r.g (s.others r e) [r.dev, e.own] := by
  obtain h | h | h := h <;> simp only [State.beginTxn, h, ha, Bool.false_eq_true, if_false, Switch.begun, ownerTxn, State.others]

end

/-! ### READ_REQUEST and OWNERSHIP_REQUEST -/

/-- The entry after an owning request. -/
theorem after_owning {t : Txn} {e : DirEntry} (ho : t.owning = true) (hg : e.gla = t.req.g) : e.after t = owned e t.req := by
  simp [DirEntry.after, ho, owned, portBit, hg]

/-- The entry after a read of an owned line. -/
theorem after_owner {t : Txn} {e : DirEntry} (ho : t.owning = false) (hst : Owns e) (hg : e.gla = t.req.g) :
    e.after t = shared e t.req t.dirty := by
  obtain h | h | h := hst <;> cases hd : t.dirty <;> simp [DirEntry.after, DirEntry.ports, ho, h, shared, portBit, hg, hd]

section
variable {s : State} {slot : Slot} {r : FabReq} {k : Nat} {e : DirEntry}

/-- The request, once it has begun. -/
theorem takes_begun (h : Takes s slot r) (hk : OnlyWay (s.fswitch slot.val) r.g k) (hg : e.gla = r.g) {t : Txn} (hreq : t.req = r)
    (hev : t.evict = none) :
    Busy (s.setSwitch slot.val ((s.fswitch slot.val).begun r k e t)) slot.val r k { e with age := 0, busy := true } t ∧
    Quiet s (s.setSwitch slot.val ((s.fswitch slot.val).begun r k e t)) slot.val := busy_begun h.idle h.alone hk hg hreq hev

/-- Home memory answers a request for a line that nobody holds, or a read of a shared one. -/
theorem request_home (h : Takes s slot r) (hk : OnlyWay (s.fswitch slot.val) r.g k) (hg : e.gla = r.g) {own : Bool}
    (hst : e.st = .i ∨ own = false ∧ e.st = .s) {old new : DirEntry} {st : DirState}
    (hafter : DirEntry.after { e with age := 0, busy := true } (homeTxn s r own) = { new with busy := true }) (hold : old.owner? = e.owner?)
    (hgrant : (homeTxn s r own).grants new = st) :
    Settles s ((s.beginTxn slot.val own r k e).settleTxn slot.val r.g) slot.val r old new st (some (s.homeLine r.g)) := by
  obtain ⟨hb, hq⟩ := takes_begun h hk hg (t := homeTxn s r own) rfl rfl
  rw [beginTxn_home s slot.val r k hst]
  exact hb.settles hq rfl hafter hold hgrant rfl

/-- A line that has no entry gets one, with the requester as its owner. -/
theorem request_fresh (h : Takes s slot r) (he : EntryIs (s.fswitch slot.val) r.g none)
    (hfree : ∃ k ∈ waysOf r.g, SMap.get none (s.fswitch slot.val).dir k = none) (own : Bool) :
    Settles s ((s.swRequest slot.val own r).settleTxn slot.val r.g) slot.val r { DirEntry.fresh r.g with age := 0 }
      { owned { DirEntry.fresh r.g with age := 0 } r with st := if own then .m else .e } (if own then .m else .e) (some (s.homeLine r.g)) := by
  obtain ⟨k, hk, hsw⟩ := swRequest_fresh h he hfree own
  rw [hsw]
  refine request_home h hk rfl (.inl rfl) ?_ rfl ?_
  · cases own <;> rfl
  · cases own <;> rfl

/-- Home memory answers a read of a shared line. -/
theorem read_shared (h : Takes s slot r) (he : EntryIs (s.fswitch slot.val) r.g (some e)) (hs : e.st = .s) :
    Settles s ((s.swRequest slot.val false r).settleTxn slot.val r.g) slot.val r e { e with age := 0, shv := e.shv ||| portBit r.port } .s
      (some (s.homeLine r.g)) := by
  obtain ⟨k, hk, hg, hsw⟩ := swRequest_entry h he (by simp [hs]) false
  rw [hsw]
  refine request_home h hk hg (.inr ⟨rfl, hs⟩) ?_ ?_ ?_
  · simp [DirEntry.after, homeTxn, Txn.start, hs, hg, portBit]
  · rfl
  · simp [Txn.grants, homeTxn, Txn.start, hs]

/-- An owner out of reach gives no data: home memory answers the read. -/
theorem read_away (h : Takes s slot r) (he : EntryIs (s.fswitch slot.val) r.g (some e)) (ho : Owns e) (ha : s.isAway e.own = true) :
    Settles s ((s.swRequest slot.val false r).settleTxn slot.val r.g) slot.val r e (shared { e with age := 0 } r false) .s
      (some (s.homeLine r.g)) := by
  obtain ⟨k, hk, hg, hsw⟩ := swRequest_entry h he (by obtain ho | ho | ho := ho <;> simp [ho]) false
  obtain ⟨hb, hq⟩ := takes_begun h hk hg (t := homeTxn s r false) rfl rfl
  rw [hsw, beginTxn_away s slot.val r k ho ha]
  refine (hb.ownerLost r.g e).settles (hq.ownerLost r.g e) rfl
    (after_owner (e := { e with age := 0, busy := true }) rfl ho hg) rfl rfl rfl

/-- A read of an owned line is forwarded to its owner. -/
theorem read_owner (h : Takes s slot r) (he : EntryIs (s.fswitch slot.val) r.g (some e)) (ho : Owns e) (ha : s.isAway e.own = false) :
    let t := (s.swRequest slot.val false r).settleTxn slot.val r.g
    Told s t slot.val e.own (fromSwitch slot.val 0x16 r []) (.fwdRead slot.val r.g) ∧
    EntryIs (t.fswitch slot.val) r.g (some { e with age := 0, busy := true }) ∧
    SMap.get none (t.fswitch slot.val).txns r.g.toNat = some (ownerTxn s r e false) := by
  obtain ⟨k, hk, hg, hsw⟩ := swRequest_entry h he (by obtain ho | ho | ho := ho <;> simp [ho]) false
  obtain ⟨hb, hq⟩ := takes_begun h hk hg (t := ownerTxn s r e false) rfl rfl
  rw [hsw, beginTxn_owner s slot.val r k ho ha]
  obtain ⟨hwire, hsent, hentry, htxn⟩ := (hb.says (says_toDevice _ slot.val e.own 0x16 r.txn r.g [] (.fwdRead slot.val r.g))).waits rfl
  have htold := hq.told (told_toDevice _ slot.val e.own 0x16 r.txn r.g [] (.fwdRead slot.val r.g))
  refine ⟨?_, hentry, htxn⟩
  unfold Told at htold ⊢
  rw [hwire, hsent]
  exact htold

theorem shareTxn_waits (s : State) (r : FabReq) (e : DirEntry) : (shareTxn s r e).waits = (s.sharers r e != 0) := by
  simp [shareTxn, State.await, Txn.start, Txn.waits]

/-- With no other sharer the owning request of a shared line is granted. -/
theorem own_alone (h : Takes s slot r) (he : EntryIs (s.fswitch slot.val) r.g (some e)) (hs : e.st = .s) (h0 : s.sharers r e = 0) :
    Settles s ((s.swRequest slot.val true r).settleTxn slot.val r.g) slot.val r e (owned { e with age := 0 } r) .m (shareTxn s r e).data := by
  obtain ⟨k, hk, hg, hsw⟩ := swRequest_entry h he (by simp [hs]) true
  obtain ⟨hb, hq⟩ := takes_begun h hk hg (t := shareTxn s r e) rfl rfl
  rw [hsw, beginTxn_shared s slot.val r k hs, h0, invalidatePorts_zero]
  exact hb.settles hq (by rw [shareTxn_waits, h0]; rfl)
    (after_owning (t := shareTxn s r e) (e := { e with age := 0, busy := true }) rfl hg) rfl rfl rfl

/-- What has been told since a quiet state has been told since the state before it. -/
theorem Quiet.invalidated {u v : State} {slot : Nat} (hq : Quiet s u slot) {ports : BitVec 64} {but : List Device}
    (h : Invalidated u v slot r ports but) : Invalidated s v slot r ports but := by
  unfold Invalidated at h ⊢
  simp only [State.portDevices, State.isAway, hq.cfg, hq.away] at h ⊢
  exact h

/-- Once the switch of a slot has the same messages out, as many devices have been sent an invalidation. -/
theorem invalidated_congr {u v w : State} {slot : Nat} (hwire : w.fab.wire = v.fab.wire)
    (hsent : (w.fswitch slot).sent = (v.fswitch slot).sent) {ports : BitVec 64} {but : List Device}
    (h : Invalidated u v slot r ports but) : Invalidated u w slot r ports but := by
  unfold Invalidated at h ⊢
  rw [hwire, hsent]
  exact h

/-- The other sharers are invalidated first. -/
theorem own_sharers (h : Takes s slot r) (he : EntryIs (s.fswitch slot.val) r.g (some e)) (hs : e.st = .s) (h0 : s.sharers r e ≠ 0) :
    let u := (s.swRequest slot.val true r).settleTxn slot.val r.g
    Invalidated s u slot.val r (s.sharers r e) [r.dev] ∧
    EntryIs (u.fswitch slot.val) r.g (some { e with age := 0, busy := true }) ∧
    SMap.get none (u.fswitch slot.val).txns r.g.toNat = some (shareTxn s r e) := by
  obtain ⟨k, hk, hg, hsw⟩ := swRequest_entry h he (by simp [hs]) true
  obtain ⟨hb, hq⟩ := takes_begun h hk hg (t := shareTxn s r e) rfl rfl
  rw [hsw, beginTxn_shared s slot.val r k hs]
  obtain ⟨hwire, hsent, hentry, htxn⟩ := (hb.says (says_invalidatePorts _ slot.val r.txn r.g (s.sharers r e) [r.dev])).waits
    (by rw [shareTxn_waits]; simpa using h0)
  exact ⟨invalidated_congr hwire hsent (hq.invalidated (invalidated_invalidatePorts _ slot.val r (s.sharers r e) [r.dev])), hentry, htxn⟩

/-- The owner and the sharers are invalidated first. -/
theorem own_owner (h : Takes s slot r) (he : EntryIs (s.fswitch slot.val) r.g (some e)) (ho : Owns e) (ha : s.isAway e.own = false) :
    let u := (s.swRequest slot.val true r).settleTxn slot.val r.g
    (if e.own = s.fab.cfg.devno then .fwdInv slot.val r.g ∈ u.fab.wire
      else (e.own, fromSwitch slot.val 0x17 r []) ∈ (u.fswitch slot.val).sent) ∧
    Invalidated s u slot.val r (s.others r e) [r.dev, e.own] ∧
    EntryIs (u.fswitch slot.val) r.g (some { e with age := 0, busy := true }) ∧
    SMap.get none (u.fswitch slot.val).txns r.g.toNat = some (ownerTxn s r e true) := by
  obtain ⟨k, hk, hg, hsw⟩ := swRequest_entry h he (by obtain ho | ho | ho := ho <;> simp [ho]) true
  obtain ⟨hb, hq⟩ := takes_begun h hk hg (t := ownerTxn s r e true) rfl rfl
  rw [hsw, beginTxn_ownerTaken s slot.val r k ho ha]
  set v := s.setSwitch slot.val ((s.fswitch slot.val).begun r k e (ownerTxn s r e true)) with hv
  set w := v.toDevice slot.val e.own 0x17 r.txn r.g [] (.fwdInv slot.val r.g) with hw
  have htold := toDevice_arrives v slot.val e.own 0x17 r.txn r.g [] (.fwdInv slot.val r.g)
  have hfwd : Says v w slot.val := says_toDevice _ _ _ _ _ _ _ _
  have hinv : Says w (w.invalidatePorts slot.val r.txn r.g (s.others r e) [r.dev, e.own]) slot.val := says_invalidatePorts _ _ _ _ _ _
  obtain ⟨hwire, hsent, hentry, htxn⟩ := (hb.says (hfwd.trans hinv)).waits (by simp [Txn.waits, ownerTxn])
  rw [← hw] at htold
  have harr := hinv.arrives (d := e.own) (by rw [hfwd.cfg]; exact htold)
  rw [hfwd.cfg, hq.cfg] at harr
  refine ⟨?_, invalidated_congr hwire hsent (hq.invalidated ?_), hentry, htxn⟩
  · rw [hwire, hsent]
    exact harr
  · have h := invalidated_invalidatePorts w slot.val r (s.others r e) [r.dev, e.own]
    unfold Invalidated at h ⊢
    simp only [State.portDevices, State.isAway, hfwd.cfg, hfwd.away] at h ⊢
    exact h

end

end Sys2Proof.Machine

/-! Answers that a switch awaits, writebacks, notes and notices (R42, R43, R45, R49). -/

namespace Sys2Proof.Machine

open Sys2Proof Sys2Proof.Claims

/-! ### Answers -/

section
variable {s : State} {slot : Slot} {g : LineAddr} {x y : Txn} {e : DirEntry} {f : Txn → Txn}

/-- An answer that leaves nothing to await settles the line. -/
theorem answer_settles (h : Awaits s slot g x e) (hf : f x = y) (hreq : y.req = x.req) (hev : y.evict = none) (hw : y.waits = false)
    {new : DirEntry} (hafter : e.after y = { new with busy := true }) {st : DirState} (hst : y.grants new = st) :
    Settles s (s.onTxn slot.val g f) slot.val x.req e new st y.data := by
  subst hf
  obtain ⟨htxn, rfl, -, -, -, hentry, -, halone⟩ := h
  obtain ⟨hg, k, hk, hget⟩ := entryIs_some.1 hentry
  obtain ⟨hset, hwait⟩ := settleLine_settles (t := f x) (Quiet.refl s slot.val) (by rw [hreq]; exact hk) hget
    (by rw [hreq]; exact hg) hw hafter rfl
  rw [onTxn_settles htxn hev halone hwait, ← hst, ← hreq]
  exact hset

/-- An answer that leaves something to await changes the transaction. -/
theorem answer_waits (h : Awaits s slot g x e) (hf : f x = y) (hreq : y.req = x.req) (hev : y.evict = none) (hw : y.waits = true) :
    EntryIs ((s.onTxn slot.val g f).fswitch slot.val) g (some e) ∧
    SMap.get none ((s.onTxn slot.val g f).fswitch slot.val).txns g.toNat = some y := by
  subst hf
  obtain ⟨htxn, rfl, -, -, -, hentry, -, halone⟩ := h
  have hstay := settleLine_waits (u := s) (slot := slot.val) hw
  rw [onTxn_settles htxn hev halone (by rw [hstay, fswitch_setSwitch]; rfl), hstay, fswitch_setSwitch, hreq]
  exact ⟨entryIs_congr rfl hentry, get_setTxn _ _ _⟩

/-- An entry that is busy stays busy while its line settles. -/
theorem owned_busy (h : e.busy = true) (r : FabReq) : { owned e r with busy := true } = owned e r := by simp [owned, h]

theorem shared_busy (h : e.busy = true) (r : FabReq) (dirty : Bool) : { shared e r dirty with busy := true } = shared e r dirty := by
  simp [shared, h]

/-- The owner's answer, or what home memory gives in its place. -/
def Txn.answered (x : Txn) (d : Line) (dirty : Bool) : Txn := { x with owner := none, data := some d, dirty := dirty }

/-- The owner's answer settles the line. -/
theorem owner_answers (h : Awaits s slot g x e) (hst : Owns e) (hacks : x.acks = 0) {d : Line} {dirty : Bool} (hf : f x = x.answered d dirty) :
    if x.owning then Settles s (s.onTxn slot.val g f) slot.val x.req e (owned e x.req) .m (some d)
    else Settles s (s.onTxn slot.val g f) slot.val x.req e (shared e x.req dirty) .s (some d) := by
  obtain ⟨-, hline, hev, hnote, -, hentry, hbusy, -⟩ := id h
  have hg : e.gla = x.req.g := (entryIs_some.1 hentry).1.trans hline.symm
  have hw : (x.answered d dirty).waits = false := by simp [Txn.answered, Txn.waits, hacks, hnote]
  cases ho : x.owning with
  | true =>
    rw [if_pos rfl]
    exact answer_settles h hf rfl hev hw ((after_owning (t := x.answered d dirty) ho hg).trans (owned_busy hbusy _).symm)
      (by simp [Txn.grants, Txn.answered, ho])
  | false =>
    rw [if_neg (by simp)]
    exact answer_settles h hf rfl hev hw ((after_owner (t := x.answered d dirty) ho hst hg).trans (shared_busy hbusy _ _).symm)
      (by cases dirty <;> simp [Txn.grants, Txn.answered, ho, shared])

/-- An acknowledgement that is the last one settles the line. -/
theorem acked_last (h : Awaits s slot g x e) (ho : x.owning = true) (hn : x.owner = none) {port : Fin 64}
    (hleft : x.acks &&& ~~~portBit port = 0) (hf : f x = x.acked port.val) :
    Settles s (s.onTxn slot.val g f) slot.val x.req e (owned e x.req) .m x.data := by
  obtain ⟨-, hline, hev, hnote, -, hentry, hbusy, -⟩ := id h
  have hg : e.gla = x.req.g := (entryIs_some.1 hentry).1.trans hline.symm
  have hw : (x.acked port.val).waits = false := by
    have h0 : x.acks &&& ~~~((1#64) <<< port.val) = 0 := hleft
    simp [Txn.acked, Txn.waits, h0, hn, hnote]
  exact answer_settles h hf rfl hev hw ((after_owning (t := x.acked port.val) ho hg).trans (owned_busy hbusy _).symm)
    (by simp [Txn.grants, Txn.acked, ho])

end

/-! ### Notes of ownership (R49) -/

/-- A note that reaches the alternate. -/
theorem swNote_spec (s : State) {alt : Nat} (prim : Nat) (g : LineAddr) (own : Device) (st : DirState) (h : s.fab.cfg.live alt = true) :
    (s.swNote alt prim g own st).fab.wire = s.fab.wire ++ [.noteAck prim g] ∧
    SMap.get none ((s.swNote alt prim g own st).fswitch alt).notes g.toNat = (if st = .i ∨ st = .s then none else some (own, st)) ∧
    ((s.swNote alt prim g own st).fswitch alt).dir = (s.fswitch alt).dir := by
  rw [State.swNote, if_pos h]
  dsimp only
  rw [fswitch_carry, fswitch_setSwitch]
  exact ⟨rfl, SMap.get_set_same _ _ _ _, rfl⟩

/-- The switch with one note less outstanding. -/
def Switch.noteAcked (x : Switch) (g : LineAddr) : Switch :=
  { x with unacked := SMap.set 0 x.unacked g.toNat (SMap.get 0 x.unacked g.toNat - 1) }

section
variable {s : State} {prim : Nat} {g : LineAddr} {x : Txn} {e : DirEntry}

theorem swNoteAck_eq (htxn : (s.fswitch prim).txnOf g = some x) (hn : x.noteDue = true) {k : Nat}
    (hf : (s.fswitch prim).find g = some (k, e)) : s.swNoteAck prim g =
      if SMap.get 0 (s.fswitch prim).unacked g.toNat ≤ 1 then
        ((s.setSwitch prim ((s.fswitch prim).noteAcked g)).finishTxn prim { x with noteDue := false } k e).retryWaiting prim g
      else s.setSwitch prim ((s.fswitch prim).noteAcked g) := by
  have ht : ((s.fswitch prim).noteAcked g).txnOf g = some x := htxn
  have hg : ((s.fswitch prim).noteAcked g).find g = some (k, e) := hf
  have hleft : SMap.get 0 (s.fswitch prim).unacked g.toNat - 1 = 0 ↔ SMap.get 0 (s.fswitch prim).unacked g.toNat ≤ 1 := by omega
  unfold Switch.noteAcked at ht hg ⊢
  simp only [State.swNoteAck, ht, hg, hn, Bool.true_and, beq_iff_eq, hleft]

/-- The note that was the last to be acknowledged lets the grant go. -/
theorem noteAck_last (htxn : (s.fswitch prim).txnOf g = some x) (hg : x.req.g = g) (hn : x.noteDue = true)
    (he : EntryIs (s.fswitch prim) g (some e)) (hi : e.st ≠ .i) (ha : AloneInSet s prim g)
    (hdue : SMap.get 0 (s.fswitch prim).unacked g.toNat ≤ 1) :
    Grants s (s.swNoteAck prim g) prim x.req (x.grants e) x.data ∧
    EntryIs ((s.swNoteAck prim g).fswitch prim) g (some { e with busy := false }) ∧
    SMap.get none ((s.swNoteAck prim g).fswitch prim).txns g.toNat = none ∧
    SMap.get 0 ((s.swNoteAck prim g).fswitch prim).unacked g.toNat = SMap.get 0 (s.fswitch prim).unacked g.toNat - 1 := by
  subst hg
  obtain ⟨hline, k, hk, hget⟩ := entryIs_some.1 he
  set u := s.setSwitch prim ((s.fswitch prim).noteAcked x.req.g) with hu
  have hhush : Hushed s u prim := ⟨rfl, rfl, by rw [hu, fswitch_setSwitch]; rfl⟩
  have hway : OnlyWay (u.fswitch prim) x.req.g k := by rw [hu, fswitch_setSwitch]; exact hk.congr rfl
  obtain ⟨hgr, hent, htx, hwt, hun⟩ := finishTxn_spec (t := { x with noteDue := false }) (Quiet.refl u prim) hway hline
  have hwait : (u.fswitch prim).waiting = (s.fswitch prim).waiting := by rw [hu, fswitch_setSwitch]; rfl
  rw [swNoteAck_eq htxn hn (find_only hk hget hline hi), if_pos hdue, retryWaiting_alone (aloneInSet_congr ha (hwt.trans hwait))]
  refine ⟨hhush.grants hgr, hent, htx, ?_⟩
  rw [hun, hu, fswitch_setSwitch, Switch.noteAcked, SMap.get_set_same]

/-- Until then the grant waits. -/
theorem noteAck_waits (htxn : (s.fswitch prim).txnOf g = some x) (hn : x.noteDue = true)
    (he : EntryIs (s.fswitch prim) g (some e)) (hi : e.st ≠ .i) (hdue : 1 < SMap.get 0 (s.fswitch prim).unacked g.toNat) :
    s.swNoteAck prim g = s.setSwitch prim ((s.fswitch prim).noteAcked g) := by
  obtain ⟨hline, k, hk, hget⟩ := entryIs_some.1 he
  rw [swNoteAck_eq htxn hn (find_only hk hget hline hi), if_neg (by omega)]

/-- One note less is outstanding. -/
theorem noteAck_unacked (htxn : (s.fswitch prim).txnOf g = some x) (hg : x.req.g = g) (hn : x.noteDue = true)
    (he : EntryIs (s.fswitch prim) g (some e)) (hi : e.st ≠ .i) (ha : AloneInSet s prim g) :
    SMap.get 0 ((s.swNoteAck prim g).fswitch prim).unacked g.toNat = SMap.get 0 (s.fswitch prim).unacked g.toNat - 1 := by
  obtain hdue | hdue := Nat.lt_or_ge 1 (SMap.get 0 (s.fswitch prim).unacked g.toNat)
  · rw [noteAck_waits htxn hn he hi hdue, fswitch_setSwitch, Switch.noteAcked, SMap.get_set_same]
  · obtain ⟨-, -, -, hun⟩ := noteAck_last htxn hg hn he hi ha hdue
    exact hun

end

/-! ### Notices to requests that wait (R45) -/

/-- Each request that waits brings a notice to its device. -/
theorem notices_spec (slot : Nat) (ws : List (Bool × FabReq)) (s : State) :
    let t := ws.foldl (fun s w => s.toDevice slot w.2.dev 0x19 w.2.txn w.2.g [] (.notice w.2.g)) s
    Says s t slot ∧
    t.fab.wire = s.fab.wire ++ (ws.filter (fun w => w.2.dev == s.fab.cfg.devno)).map (fun w => FabMsg.notice w.2.g) ∧
    (t.fswitch slot).sent = (s.fswitch slot).sent ++
      (ws.filter (fun w => !(w.2.dev == s.fab.cfg.devno))).map (fun w => (w.2.dev, fromSwitch slot 0x19 w.2 [])) := by
  induction ws generalizing s with
  | nil => exact ⟨.refl s slot, by simp, by simp⟩
  | cons w ws ih =>
    have hsay := says_toDevice s slot w.2.dev 0x19 w.2.txn w.2.g [] (.notice w.2.g)
    have htold := told_toDevice s slot w.2.dev 0x19 w.2.txn w.2.g [] (.notice w.2.g)
    obtain ⟨hsays, hwire, hsent⟩ := ih (s.toDevice slot w.2.dev 0x19 w.2.txn w.2.g [] (.notice w.2.g))
    refine ⟨hsay.trans hsays, ?_, ?_⟩
    · rw [List.foldl_cons, hwire, hsay.cfg]
      unfold Told at htold
      split at htold
      next hd => rw [htold.1]; simp [hd]
      next hd => rw [htold.1]; simp [hd]
    · rw [List.foldl_cons, hsent, hsay.cfg]
      unfold Told at htold
      split at htold
      next hd => rw [htold.2]; simp [hd]
      next hd => rw [htold.2]; simp [hd, fromSwitch]

end Sys2Proof.Machine

/-! Writebacks at a switch (R42, R43). -/

namespace Sys2Proof.Machine

open Sys2Proof Sys2Proof.Claims

/-! ### The bytes of a line -/

theorem range_byteOf (l : Line) : (List.range 128).map (fun j => byteOf l j) = bytesNat 128 l.toNat := by
  refine List.map_congr_left (fun j _ => ?_)
  simp [byteOf, BitVec.extractLsb', Nat.shiftRight_eq_div_pow]

/-- A line is the line of its bytes. -/
theorem lineOfBytes_byteOf {f : Nat → Byte} {l : Line} (h : ∀ j, j < 128 → f j = byteOf l j) : lineOfBytes f = l := by
  have hmap : (List.range 128).map f = bytesNat 128 l.toNat := by
    rw [← range_byteOf]
    exact List.map_congr_left (fun j hj => h j (List.mem_range.1 hj))
  rw [lineOfBytes, hmap, natOfBytes_bytesNat, Nat.mod_eq_of_lt (by have := l.isLt; omega), BitVec.ofNat_toNat, BitVec.setWidth_eq]

/-- A line's bytes, numbered. -/
def lineSpan (l : Line) : List (Nat × Byte) := (List.range 128).map (fun j => (j, byteOf l j))

theorem get_setSpan (f : Nat → Byte) (base n : Nat) (m : SMap Byte) {j : Nat} (hj : j < n) :
    SMap.get 0 (((List.range n).map (fun j => (j, f j))).foldl (fun m e => SMap.set 0 m (base + e.1) e.2) m) (base + j) = f j := by
  induction n with
  | zero => omega
  | succ n ih =>
    rw [List.range_succ, List.map_append, List.foldl_append]
    by_cases hjn : j = n
    · subst hjn
      exact SMap.get_set_same _ _ _ _
    · exact (SMap.get_set_other _ _ _ (show base + j ≠ base + n by omega)).trans (ih (by omega))

theorem get_lineSpan (l : Line) (base : Nat) (m : SMap Byte) {j : Nat} (hj : j < 128) :
    SMap.get 0 ((lineSpan l).foldl (fun m e => SMap.set 0 m (base + e.1) e.2) m) (base + j) = byteOf l j := by
  rw [lineSpan]
  exact get_setSpan (byteOf l) base 128 m hj

theorem setDramBytes_dram (s : State) (k : Nat) (bs : List (Nat × Byte)) :
    (s.setDramBytes k bs).mem.dram = bs.foldl (fun m e => SMap.set 0 m (k + e.1) e.2) s.mem.dram := by
  induction bs generalizing s with
  | nil => rfl
  | cons b bs ih => exact ih (s.setDram (k + b.1) b.2)

/-! ### What leaves memory alone -/

theorem foldl_dram {β : Type} {f : State → β → State} (h : ∀ t x, (f t x).mem.dram = t.mem.dram) (xs : List β) (s : State) :
    (xs.foldl f s).mem.dram = s.mem.dram :=
  List.foldlRecOn (motive := fun t : State => t.mem.dram = s.mem.dram) xs f rfl (fun t ht x _ => (h t x).trans ht)

theorem leaveL2_dram (s : State) (k : Nat) (x : L2Line) : (s.leaveL2 k x).mem.dram = s.mem.dram := rfl

theorem dropApertures_dram (s : State) : s.dropApertures.mem.dram = s.mem.dram := by
  unfold State.dropApertures
  refine (foldl_dram (fun t e => ?_) _ _).trans rfl
  split
  · exact leaveL2_dram t _ _
  · rfl

theorem writeCopies_dram (s : State) (loc die : Nat) (bs : List (Nat × Byte)) (dirties : Bool) :
    (s.writeCopies loc die bs dirties).mem.dram = s.mem.dram := by
  unfold State.writeCopies
  exact foldl_dram (by intros; rfl) _ s

theorem writeNames_dram (s : State) (loc : Nat) (bs : List (Nat × Byte)) : (s.writeNames loc bs).mem.dram = s.mem.dram := by
  unfold State.writeNames
  exact foldl_dram (by intros; rfl) _ s

theorem writeHome_dram (s : State) (loc : Nat) (bs : List (Nat × Byte)) :
    (s.writeHome loc bs).mem.dram = (s.setDramBytes loc bs).mem.dram :=
  (writeNames_dram _ loc bs).trans (writeCopies_dram _ loc (locDie loc) bs false)

/-- What leaves the bare state alone changes of the fabric this device's lines. -/
theorem fab_of_bare {s t : State} (h : t.bare = s.bare) : t.fab = { s.fab with lines := t.fab.lines } := by
  have hf : t.bare.fab = s.bare.fab := by rw [h]
  calc t.fab = { t.bare.fab with lines := t.fab.lines } := rfl
    _ = { s.bare.fab with lines := t.fab.lines } := by rw [hf]

/-! ### The home of a line takes it -/

section
variable (s : State) (g : LineAddr) (l : Line)

/-- Home memory of another device. -/
theorem setHomeLine_remote (h : homeDevice g ≠ s.fab.cfg.devno) : s.setHomeLine g l = { s with fab := { s.fab with
    remote := (lineSpan l).foldl (fun m e => SMap.set 0 m (g.toNat * 128 + e.1) e.2) s.fab.remote } } := by
  rw [State.setHomeLine, if_neg h]
  rfl

/-- Home memory of this device. -/
theorem setHomeLine_home (h : homeDevice g = s.fab.cfg.devno) {k : Nat} (hk : s.homeKey g = some k) :
    s.setHomeLine g l = (s.writeHome k (lineSpan l)).dropApertures := by
  rw [State.setHomeLine, if_pos h]
  simp only [hk, lineSpan]

/-- Of the fabric only the memory of other devices, and this device's own lines, change. -/
theorem setHomeLine_fabric : (s.setHomeLine g l).fab.cfg = s.fab.cfg ∧ (s.setHomeLine g l).fab.wire = s.fab.wire ∧
    ∀ k, (s.setHomeLine g l).fswitch k = s.fswitch k := by
  have hbare : ∀ t : State, t.bare = s.bare → t.fab.cfg = s.fab.cfg ∧ t.fab.wire = s.fab.wire ∧ ∀ k, t.fswitch k = s.fswitch k := by
    intro t h
    have hf := fab_of_bare h
    exact ⟨by rw [hf], by rw [hf], fun k => by rw [State.fswitch, hf]; rfl⟩
  unfold State.setHomeLine
  dsimp only
  split
  · split
    · exact hbare _ ((dropApertures_bare _).trans (writeHome_bare s _ _))
    · exact ⟨rfl, rfl, fun _ => rfl⟩
  · exact ⟨rfl, rfl, fun _ => rfl⟩

end

/-- Of the state only what a switch and the fabric say changes. -/
structure Speaks (s t : State) (slot : Nat) : Prop where
  cfg    : t.fab.cfg = s.fab.cfg
  remote : t.fab.remote = s.fab.remote
  mem    : t.mem = s.mem
  dir    : (t.fswitch slot).dir = (s.fswitch slot).dir
  txns   : (t.fswitch slot).txns = (s.fswitch slot).txns

theorem Speaks.trans {s t u : State} {slot : Nat} (h : Speaks s t slot) (h' : Speaks t u slot) : Speaks s u slot :=
  ⟨h'.cfg.trans h.cfg, h'.remote.trans h.remote, h'.mem.trans h.mem, h'.dir.trans h.dir, h'.txns.trans h.txns⟩

theorem speaks_toDevice (s : State) (slot : Nat) (d : Device) (mtype : Nat) (txn : Word) (g : LineAddr) (body : List Byte) (m : FabMsg) :
    Speaks s (s.toDevice slot d mtype txn g body m) slot := by
  unfold State.toDevice
  split
  · exact ⟨rfl, rfl, rfl, rfl, rfl⟩
  · exact ⟨rfl, rfl, rfl, by rw [fswitch_setSwitch], by rw [fswitch_setSwitch]⟩

theorem noteTo_spec (s : State) (slot : Nat) (g : LineAddr) (own : Device) (st : DirState) : Speaks s (s.noteTo slot g own st) slot ∧
    (s.noteTo slot g own st).fab.wire = s.fab.wire ++ ((s.fab.cfg.alternate g).map (fun a => FabMsg.note a slot g own st)).toList ∧
    ((s.noteTo slot g own st).fswitch slot).sent = (s.fswitch slot).sent := by
  unfold State.noteTo
  cases s.fab.cfg.alternate g with
  | none => exact ⟨⟨rfl, rfl, rfl, rfl, rfl⟩, by simp, rfl⟩
  | some a =>
    simp only [State.sendNote]
    refine ⟨⟨rfl, rfl, rfl, ?_, ?_⟩, rfl, ?_⟩ <;> rw [fswitch_carry, fswitch_setSwitch]

/-- The line that home memory holds, once a line has been written back to it. -/
theorem homeLine_written {s t : State} {g : LineAddr} {l : Line} (h : homeDevice g ≠ s.fab.cfg.devno)
    (hr : t.fab.remote = (s.setHomeLine g l).fab.remote) (hc : t.fab.cfg = s.fab.cfg) : t.homeLine g = l := by
  have hremote : t.fab.remote = (lineSpan l).foldl (fun m e => SMap.set 0 m (g.toNat * 128 + e.1) e.2) s.fab.remote := by
    rw [hr, setHomeLine_remote s g l h]
  rw [State.homeLine, if_neg (by rw [hc]; exact h), hremote]
  exact lineOfBytes_byteOf (fun _ hj => get_lineSpan l _ _ hj)

theorem dramByte_written {s t : State} {g : LineAddr} {l : Line} (h : homeDevice g = s.fab.cfg.devno) {k : Nat} (hk : s.homeKey g = some k)
    (hm : t.mem = (s.setHomeLine g l).mem) {j : Nat} (hj : j < 128) : t.dramByte (k + j) = byteOf l j := by
  rw [State.dramByte, hm, setHomeLine_home s g l h hk, dropApertures_dram, writeHome_dram, setDramBytes_dram]
  exact get_lineSpan l k s.mem.dram hj

/-! ### WRITEBACK -/

/-- An entry whose dirty copy has come home. -/
def DirEntry.cleaned (e : DirEntry) : DirEntry := { e with st := if e.st = .m then .i else .s }

section
variable (s : State) (slot : Nat) (r : FabReq) (l : Line) (k : Nat) (e : DirEntry)

/-- The writeback at home memory and in the directory. -/
def State.takenHome (s : State) (slot : Nat) (r : FabReq) (l : Line) (k : Nat) (e : DirEntry) : State :=
  (s.setHomeLine r.g l).setSwitch slot ((s.fswitch slot).setEntry k (if e.st = .m ∧ e.busy = false then none else some e.cleaned))

theorem swWriteback_eq {s : State} {slot : Nat} {r : FabReq} {k : Nat} {e : DirEntry} (l : Line)
    (hf : (s.fswitch slot).find r.g = some (k, e)) (ho : e.own = r.dev) (hst : e.st = .m ∨ e.st = .o) :
    s.swWriteback slot r l = (((((s.countWritten r.g).takenHome slot r l k e).noteTo slot r.g e.own e.cleaned.st).toDevice slot r.dev 0x18
      r.txn r.g [] (.wbAck r.g)).settleTxn slot r.g) := by
  have hx : ((s.countWritten r.g).fswitch slot).find r.g = some (k, e) := by
    unfold State.countWritten
    split <;> exact hf
  have hwb : (e.st == DirState.m || e.st == DirState.o) = true := by obtain h | h := hst <;> simp [h]
  have hgone : ((if e.st = .m then DirState.i else .s) == DirState.i && !e.busy) = decide (e.st = .m ∧ e.busy = false) := by
    cases e.busy <;> by_cases h : e.st = .m <;> simp [h]
  simp only [State.swWriteback, hx, ho, beq_self_eq_true, hwb, Bool.and_self, if_true, hgone, decide_eq_true_eq, State.takenHome,
    DirEntry.cleaned]

theorem countWritten_fabric (s : State) (g : LineAddr) : (s.countWritten g).fab.cfg = s.fab.cfg ∧
    (s.countWritten g).fab.wire = s.fab.wire ∧ (∀ k, (s.countWritten g).fswitch k = s.fswitch k) ∧
    (s.countWritten g).homeKey g = s.homeKey g := by
  unfold State.countWritten
  split <;> exact ⟨rfl, rfl, fun _ => rfl, rfl⟩

end

section
variable {s : State} {slot : Nat} {r : FabReq} {k : Nat} {e : DirEntry} (l : Line)

/-- A writeback with nothing in progress on its line goes home, is noted and acknowledged. -/
theorem swWriteback_idle (hf : (s.fswitch slot).find r.g = some (k, e)) (ho : e.own = r.dev) (hst : e.st = .m ∨ e.st = .o)
    (hidle : (s.fswitch slot).txnOf r.g = none) : s.swWriteback slot r l =
      (((s.countWritten r.g).takenHome slot r l k e).noteTo slot r.g e.own e.cleaned.st).toDevice slot r.dev 0x18 r.txn r.g [] (.wbAck r.g) := by
  rw [swWriteback_eq l hf ho hst]
  obtain ⟨-, -, hsw, -⟩ := countWritten_fabric s r.g
  set u := (s.countWritten r.g).takenHome slot r l k e with hu
  have htx : (((u.noteTo slot r.g e.own e.cleaned.st).toDevice slot r.dev 0x18 r.txn r.g [] (.wbAck r.g)).fswitch slot).txnOf r.g = none := by
    rw [Switch.txnOf, (speaks_toDevice _ slot _ _ _ _ _ _).txns, (noteTo_spec u slot r.g e.own _).1.txns, hu, State.takenHome,
      fswitch_setSwitch]
    rw [← hsw] at hidle
    exact hidle
  rw [State.settleTxn, State.onTxn, htx]

/-- The state that home memory and the directory are left in. -/
theorem takenHome_spec (s : State) (slot : Nat) (r : FabReq) (l : Line) (k : Nat) (e : DirEntry) :
    Hushed s (s.takenHome slot r l k e) slot ∧ (s.takenHome slot r l k e).fab.remote = (s.setHomeLine r.g l).fab.remote ∧
    (s.takenHome slot r l k e).mem = (s.setHomeLine r.g l).mem ∧
    (s.takenHome slot r l k e).fswitch slot =
      (s.fswitch slot).setEntry k (if e.st = .m ∧ e.busy = false then none else some e.cleaned) := by
  obtain ⟨hcfg, hwire, hsw⟩ := setHomeLine_fabric s r.g l
  exact ⟨⟨hcfg, hwire, by rw [State.takenHome, fswitch_setSwitch]; rfl⟩, rfl, rfl, by rw [State.takenHome, fswitch_setSwitch]⟩

theorem entryIs_cleaned {x : Switch} (hk : OnlyWay x r.g k) (hg : e.gla = r.g) :
    EntryIs (x.setEntry k (if e.st = .m ∧ e.busy = false then none else some e.cleaned)) r.g
      (if e.st = .m ∧ e.busy = false then none else some e.cleaned) := by
  split
  · exact entryIs_freed hk
  · exact entryIs_setEntry hk hg

/-- What a writeback leaves: the line at home, the entry, the note and the acknowledgement. -/
theorem swWriteback_spec (he : EntryIs (s.fswitch slot) r.g (some e)) (ho : e.own = r.dev) (hst : e.st = .m ∨ e.st = .o)
    (hidle : (s.fswitch slot).txnOf r.g = none) :
    let t := s.swWriteback slot r l
    let note := ((s.fab.cfg.alternate r.g).map (fun a => FabMsg.note a slot r.g e.own e.cleaned.st)).toList
    (homeDevice r.g ≠ s.fab.cfg.devno → t.homeLine r.g = l) ∧
    (homeDevice r.g = s.fab.cfg.devno → ∀ k, s.homeKey r.g = some k → ∀ j, j < 128 → t.dramByte (k + j) = byteOf l j) ∧
    EntryIs (t.fswitch slot) r.g (if e.st = .m ∧ e.busy = false then none else some e.cleaned) ∧
    (if r.dev = s.fab.cfg.devno then t.fab.wire = s.fab.wire ++ note ++ [.wbAck r.g]
      else t.fab.wire = s.fab.wire ++ note ∧ (t.fswitch slot).sent = (s.fswitch slot).sent ++ [(r.dev, fromSwitch slot 0x18 r [])]) := by
  obtain ⟨hg, k, hk, hget⟩ := entryIs_some.1 he
  have heq := swWriteback_idle l (find_only hk hget hg (by obtain h | h := hst <;> simp [h])) ho hst hidle
  obtain ⟨hccfg, hcwire, hcsw, hckey⟩ := countWritten_fabric s r.g
  set c := s.countWritten r.g with hc
  obtain ⟨hhush, hremote, hmem, hx⟩ := takenHome_spec c slot r l k e
  set u := c.takenHome slot r l k e with hu
  obtain ⟨hspeak, hnwire, hnsent⟩ := noteTo_spec u slot r.g e.own e.cleaned.st
  set v := u.noteTo slot r.g e.own e.cleaned.st with hv
  have htold := told_toDevice v slot r.dev 0x18 r.txn r.g [] (.wbAck r.g)
  have hspeaks := hspeak.trans (speaks_toDevice v slot r.dev 0x18 r.txn r.g [] (.wbAck r.g))
  have hcfg : v.fab.cfg = s.fab.cfg := (hspeak.cfg.trans hhush.cfg).trans hccfg
  have hwire : v.fab.wire = s.fab.wire ++ ((s.fab.cfg.alternate r.g).map (fun a => FabMsg.note a slot r.g e.own e.cleaned.st)).toList := by
    rw [hnwire, hhush.wire, hcwire, hhush.cfg, hccfg]
  have hsent : (v.fswitch slot).sent = (s.fswitch slot).sent := by rw [hnsent, hhush.sent, hcsw]
  rw [heq]
  refine ⟨fun hne => ?_, fun hhome k' hk' j hj => ?_, ?_, ?_⟩
  · exact homeLine_written (s := c) (by rw [hccfg]; exact hne) (hspeaks.remote.trans hremote) (hspeaks.cfg.trans hhush.cfg)
  · exact dramByte_written (s := c) (by rw [hccfg]; exact hhome) (by rw [hckey]; exact hk') (hspeaks.mem.trans hmem) hj
  · refine entryIs_congr hspeaks.dir ?_
    rw [hx]
    exact entryIs_cleaned (hk.congr (by rw [hcsw])) hg
  · unfold Told at htold
    rw [hcfg, hwire, hsent] at htold
    split at htold
    next hd => rw [if_pos hd]; exact htold.1
    next hd => rw [if_neg hd]; exact htold

end

end Sys2Proof.Machine

/-! The fabric at this device: grants, invalidations, forwards (R40, R42, R43, R45, R47). -/

namespace Sys2Proof.Machine

open Sys2Proof Sys2Proof.Claims

/-! ### What wakes groups leaves the fabric alone -/

theorem foldl_fab {β : Type} {f : State → β → State} (h : ∀ t x, (f t x).fab = t.fab) (xs : List β) (s : State) :
    (xs.foldl f s).fab = s.fab :=
  List.foldlRecOn (motive := fun t : State => t.fab = s.fab) xs f rfl (fun t ht x _ => (h t x).trans ht)

theorem postOnce_fab (s : State) (e : Instr) : (s.postOnce e).fab = s.fab := by
  unfold State.postOnce
  split <;> rfl

theorem wake_fab (s : State) (gid : Nat) : (s.wake gid).fab = s.fab := by
  unfold State.wake
  split
  · rfl
  · refine (foldl_fab postOnce_fab _ _).trans ?_
    split
    · exact postOnce_fab s _
    · rfl

theorem wakeAll_fab (s : State) : s.wakeAll.fab = s.fab :=
  (foldl_fab (fun t _ => postOnce_fab t _) _ _).trans (foldl_fab wake_fab _ s)

theorem sysLine_wakeAll (s : State) (g : LineAddr) : s.wakeAll.sysLine g = s.sysLine g := by
  rw [State.sysLine, wakeAll_fab]
  rfl

/-! ### Grants -/

section
variable (s : State) (g : LineAddr)

theorem sysLine_devGrant (st : DirState) (l : Line) (h : (s.sysLine g).miss ≠ none) :
    (s.devGrant g st l).sysLine g = { s.sysLine g with st := st, data := l, miss := none } := by
  rw [State.devGrant, if_pos (Option.isSome_iff_ne_none.2 h), sysLine_wakeAll, sysLine_setSysLine]

theorem devGrant_idle (st : DirState) (l : Line) (h : (s.sysLine g).miss = none) : s.devGrant g st l = s := by
  rw [State.devGrant, if_neg (by simp [h])]

theorem devGrantBare_idle (h : (s.sysLine g).miss = none) : s.devGrantBare g = s := by
  rw [State.devGrantBare, if_pos (by simp [h])]

theorem sysLine_devGrantBare (h : (s.sysLine g).miss ≠ none) (hi : (s.sysLine g).st ≠ .i) :
    (s.devGrantBare g).sysLine g = { s.sysLine g with st := .m, miss := none } := by
  rw [State.devGrantBare, if_neg (by simpa using h), if_neg hi, sysLine_wakeAll, sysLine_setSysLine]

theorem devGrantBare_again (h : (s.sysLine g).miss ≠ none) (hi : (s.sysLine g).st = .i) {k : Nat} (hk : s.fab.cfg.primary g = some k) :
    (s.devGrantBare g).fab.wire = s.fab.wire ++ [.own k (s.asRequester g)] := by
  rw [State.devGrantBare, if_neg (by simpa using h), if_pos hi]
  simp only [State.request, hk]
  rfl

end

/-! ### Copies that other devices ask for -/

section
variable (s : State) (slot : Nat) (g : LineAddr)

/-- The line that a device asks for, which this device gives up: nothing else of the fabric changes than its own lines. -/
theorem forgetSys_fabric : (s.forgetSys g).fab.wire = s.fab.wire ∧ (s.forgetSys g).fab.cfg = s.fab.cfg ∧
    (s.forgetSys g).fab.nextTxn = s.fab.nextTxn := by
  have h := fab_of_bare (forgetSys_bare s g)
  exact ⟨by rw [h], by rw [h], by rw [h]⟩

theorem sendBack_spec (l : Line) : (s.sendBack slot g l).fab.cfg = s.fab.cfg ∧ (s.sendBack slot g l).l2 = s.l2 ∧
    (s.sendBack slot g l).fab.wire = s.fab.wire ++ [.writeback slot (s.asRequester g) l] := ⟨rfl, rfl, rfl⟩

theorem sysLine_carry (m : FabMsg) (h : LineAddr) : (s.carry m).sysLine h = s.sysLine h := rfl

theorem sysLine_sendBack (l : Line) : (s.sendBack slot g l).sysLine = s.sysLine := rfl

theorem sendBack_frame (l : Line) : (s.sendBack slot g l).fab.frame = s.fab.frame := rfl

/-- The acknowledgement of an invalidation, to the peer where the port is shared. -/
def State.invalAck (s : State) (slot : Nat) (g : LineAddr) : FabMsg :=
  if s.sharedPort then .peerAck slot g else .invAck slot g (portOf s.fab.cfg.devno).val

theorem invalAck_eq : [s.invalAck slot g] = if (s.portDevices (portOf s.fab.cfg.devno).val).length ≤ 1 then
    [FabMsg.invAck slot g (portOf s.fab.cfg.devno).val] else [FabMsg.peerAck slot g] := by
  by_cases h : (s.portDevices (portOf s.fab.cfg.devno).val).length ≤ 1
  · simp [State.invalAck, State.sharedPort, h, Nat.not_le.2 (Nat.lt_succ_of_le h)]
  · simp [State.invalAck, State.sharedPort, h]

theorem devInvalidate_absent (h : (s.sysLine g).st = .i) : s.devInvalidate slot g = s.carry (s.invalAck slot g) := by
  simp only [State.devInvalidate, SysLine.dirty, h, if_true, State.invalAck]
  rfl

/-- The line has been written back where it was dirty, and is gone. -/
def State.yielded (s : State) (slot : Nat) (g : LineAddr) : State :=
  if (s.sysLine g).dirty then ((s.setSysLine g { s.sysLine g with
    wbWait := true
    waited := s.clk }).forgetSys g).sendBack slot g (s.sysLine g).data
  else s.forgetSys g

theorem devInvalidate_held (h : (s.sysLine g).st ≠ .i) : s.devInvalidate slot g = (s.yielded slot g).carry (s.invalAck slot g) := by
  have hcfg : (s.yielded slot g).fab.cfg = s.fab.cfg := by
    unfold State.yielded
    split
    · rw [(sendBack_spec _ slot g _).1, (forgetSys_fabric _ g).2.1]; rfl
    · exact (forgetSys_fabric s g).2.1
  have hshared : (s.yielded slot g).sharedPort = s.sharedPort := by
    rw [State.sharedPort, State.sharedPort, State.portDevices, State.portDevices, hcfg]
  have hack : State.invalAck (s.yielded slot g) slot g = s.invalAck slot g := by
    rw [State.invalAck, State.invalAck, hshared, hcfg]
  rw [← hack]
  simp only [State.devInvalidate, if_neg h, State.yielded, State.invalAck]

theorem yielded_spec : ((s.yielded slot g).sysLine g).st = .i ∧ ((s.yielded slot g).sysLine g).miss = (s.sysLine g).miss ∧
    (s.yielded slot g).l2At (l2Key (homeDie (fabricVa g)) 0 (fabricVa g)) = none ∧
    (s.yielded slot g).fab.wire = s.fab.wire ++
      (if (s.sysLine g).dirty then [.writeback slot (s.asRequester g) (s.sysLine g).data] else []) := by
  unfold State.yielded
  split
  next h =>
    set t := s.setSysLine g { s.sysLine g with
      wbWait := true
      waited := s.clk } with ht
    obtain ⟨hw, hc, hn⟩ := forgetSys_fabric t g
    obtain ⟨-, hl2, hwire⟩ := sendBack_spec (t.forgetSys g) slot g (s.sysLine g).data
    have hreq : (t.forgetSys g).asRequester g = s.asRequester g := by rw [State.asRequester, hc, hn, ht, State.asRequester]; rfl
    rw [sysLine_sendBack, sysLine_forgetSys, State.l2At, hl2, hwire, hreq, hw, ht, sysLine_setSysLine]
    exact ⟨rfl, rfl, forgetSys_l2At t g, rfl⟩
  next h =>
    refine ⟨?_, ?_, forgetSys_l2At s g, ?_⟩
    · rw [sysLine_forgetSys]
    · rw [sysLine_forgetSys]
    · rw [(forgetSys_fabric s g).1, List.append_nil]

theorem devForwardRead_held (h : (s.sysLine g).st ≠ .i) : s.devForwardRead slot g =
    (s.setSysLine g { s.sysLine g with st := if (s.sysLine g).dirty then .o else .s }).carry
      (.ownerData slot g s.fab.cfg.devno (s.sysLine g).dirty (s.sysLine g).data) := by
  simp only [State.devForwardRead, if_neg h]

theorem devForwardInvalidate_held (h : (s.sysLine g).st ≠ .i) : s.devForwardInvalidate slot g =
    (s.forgetSys g).carry (.ownerData slot g s.fab.cfg.devno (s.sysLine g).dirty (s.sysLine g).data) := by
  simp only [State.devForwardInvalidate, if_neg h]

theorem dirty_iff (y : SysLine) : y.dirty = true ↔ y.st = .m ∨ y.st = .o := by simp [SysLine.dirty]

/-- This device has no copy of the line any more; a pending miss is untouched. -/
def State.gone (s t : State) (g : LineAddr) : Prop :=
  (t.sysLine g).st = .i ∧ (t.sysLine g).miss = (s.sysLine g).miss ∧ t.l2At (l2Key (homeDie (fabricVa g)) 0 (fabricVa g)) = none

theorem devInvalidate_spec (h : (s.sysLine g).st ≠ .i) : s.gone (s.devInvalidate slot g) g ∧ (s.devInvalidate slot g).fab.wire =
    s.fab.wire ++ (if (s.sysLine g).st = .m ∨ (s.sysLine g).st = .o then [.writeback slot (s.asRequester g) (s.sysLine g).data] else []) ++
      (if (s.portDevices (portOf s.fab.cfg.devno).val).length ≤ 1 then [FabMsg.invAck slot g (portOf s.fab.cfg.devno).val]
        else [FabMsg.peerAck slot g]) := by
  obtain ⟨hst, hmiss, hl2, hwire⟩ := yielded_spec s slot g
  rw [devInvalidate_held s slot g h]
  refine ⟨⟨hst, hmiss, hl2⟩, ?_⟩
  rw [← invalAck_eq, State.carry, hwire]
  simp only [dirty_iff]

theorem devForwardInvalidate_spec (h : (s.sysLine g).st ≠ .i) : s.gone (s.devForwardInvalidate slot g) g ∧
    (s.devForwardInvalidate slot g).fab.wire =
      s.fab.wire ++ [.ownerData slot g s.fab.cfg.devno ((s.sysLine g).st == .m || (s.sysLine g).st == .o) (s.sysLine g).data] := by
  rw [devForwardInvalidate_held s slot g h]
  refine ⟨⟨?_, ?_, by rw [carry_l2At, forgetSys_l2At]⟩, ?_⟩
  · rw [sysLine_carry, sysLine_forgetSys]
  · rw [sysLine_carry, sysLine_forgetSys]
  · rw [State.carry, (forgetSys_fabric s g).1]
    rfl

theorem devForwardRead_spec (h : (s.sysLine g).st ≠ .i) : (s.devForwardRead slot g).sysLine g =
      { s.sysLine g with st := if (s.sysLine g).st = .m ∨ (s.sysLine g).st = .o then .o else .s } ∧
    (s.devForwardRead slot g).fab.wire =
      s.fab.wire ++ [.ownerData slot g s.fab.cfg.devno ((s.sysLine g).st == .m || (s.sysLine g).st == .o) (s.sysLine g).data] := by
  rw [devForwardRead_held s slot g h]
  refine ⟨(sysLine_setSysLine s g _).trans ?_, rfl⟩
  simp only [dirty_iff]

theorem devForward_absent (h : (s.sysLine g).st = .i) : s.devForwardRead slot g = s.carry (.noCopy slot g s.fab.cfg.devno) ∧
    s.devForwardInvalidate slot g = s.carry (.noCopy slot g s.fab.cfg.devno) := by
  simp only [State.devForwardRead, State.devForwardInvalidate, if_pos h, and_self]

end

/-! ### What a dead switch asks for does not arrive (R50) -/

section
variable (s : State) (slot : Slot) (g : LineAddr)

theorem exec_invalidation : exec (.invalidation slot g) s =
    .next (if s.fab.cfg.isDead slot.val = true then s else s.devInvalidate slot.val g) := rfl

theorem exec_forwardRead : exec (.forwardRead slot g) s =
    .next (if s.fab.cfg.isDead slot.val = true then s else s.devForwardRead slot.val g) := rfl

theorem exec_forwardInvalidate : exec (.forwardInvalidate slot g) s =
    .next (if s.fab.cfg.isDead slot.val = true then s else s.devForwardInvalidate slot.val g) := rfl

end

end Sys2Proof.Machine

/-! A recovery sweep at this device (R51), and its acknowledgements (R52). -/

namespace Sys2Proof.Machine

open Sys2Proof Sys2Proof.Claims

/-! ### Lines of an L2 that hold nothing to write back -/

/-- No line of an L2 has a byte that its home has not. -/
def State.L2Clean (s : State) : Prop := ∀ k x, (k, some x) ∈ s.l2 → x.dirty = 0

theorem dirtyBytes_clean {x : L2Line} (h : x.dirty = 0) : x.dirtyBytes = [] := by simp [L2Line.dirtyBytes, h]

theorem l2Clean_setL2 {s : State} (h : s.L2Clean) {k : Nat} {x : L2Line} (hx : x.dirty = 0) : (s.setL2 k (some x)).L2Clean := by
  intro j y hy
  obtain h' | h' := mem_set (show (j, some y) ∈ SMap.set none s.l2 k (some x) from hy)
  · obtain ⟨-, rfl⟩ := Prod.mk.inj h' |>.imp id Option.some.inj
    exact hx
  · exact h j y h'

theorem l2Clean_setSysLine {s : State} (h : s.L2Clean) (g : LineAddr) (x : SysLine) : (s.setSysLine g x).L2Clean := h

/-- Copies that have no dirty byte stay so. -/
theorem cleanCopies_clean {s : State} (h : s.L2Clean) (loc die : Nat) (m : BitVec 128) :
    (s.cleanCopies loc die m).L2Clean ∧ (s.cleanCopies loc die m).fab = s.fab := by
  refine List.foldlRecOn (motive := fun t : State => t.L2Clean ∧ t.fab = s.fab) _ _ ⟨h, rfl⟩ (fun t ht e he => ?_)
  exact ⟨l2Clean_setL2 ht.1 (by simp [h _ _ (mem_copiesOf he).1]), ht.2⟩

theorem dieWriteback_fab (s : State) (loc die : Nat) (st : DirState) : (s.dieWriteback loc die st).fab = s.fab := by
  unfold State.dieWriteback
  dsimp only
  split
  · rfl
  · split <;> rfl

/-- A line without dirty bytes leaves the L2 and nothing else of the fabric changes. -/
theorem dropL2_clean {s : State} (h : s.L2Clean) (k : Nat) : (s.dropL2 k).L2Clean ∧ (s.dropL2 k).fab = s.fab := by
  unfold State.dropL2
  cases hx : s.l2At k with
  | none => exact ⟨h, rfl⟩
  | some x =>
    have hclean : x.dirty = 0 := h k x (mem_of_get_eq_some hx)
    have hleft : (s.leaveL2 k x).L2Clean := fun j y hy => h j y (List.mem_of_mem_filter (leaveL2_l2 s k x ▸ hy))
    have hhome : (s.leaveL2 k x).toHome x.loc x.dirtyBytes = s.leaveL2 k x := by simp [State.toHome, dirtyBytes_clean hclean]
    obtain ⟨hl2, hfab⟩ := cleanCopies_clean hleft x.loc (l2KeyDie k) x.dirty
    dsimp only
    rw [hhome]
    refine ⟨fun j y hy => hl2 j y ?_, ?_⟩
    · rwa [dieWriteback_l2] at hy
    · rw [dieWriteback_fab, hfab]
      rfl

/-! ### Lines that the sweep takes from this device -/

/-- The sweep has taken lines: messages have been added, and nothing of the fabric but lines has changed otherwise. -/
structure Swept (s t : State) : Prop where
  clean : t.L2Clean
  frame : t.fab.frame = s.fab.frame
  wire  : s.fab.wire ⊆ t.fab.wire

/-- The line has been given up, to its new primary where it was dirty. -/
def State.gaveUp (s t : State) (g : LineAddr) : Prop :=
  (t.sysLine g).st = .i ∧ ((s.sysLine g).dirty = true → ∀ k, s.fab.cfg.primary g = some k →
    ∃ n, .writeback k { s.asRequester g with txn := n } (s.sysLine g).data ∈ t.fab.wire)

section
variable {s t u : State} {g h : LineAddr}

theorem Swept.refl (hs : s.L2Clean) : Swept s s := ⟨hs, rfl, List.Subset.refl _⟩

theorem Swept.trans (h : Swept s t) (h' : Swept t u) : Swept s u := ⟨h'.clean, h'.frame.trans h.frame, List.Subset.trans h.wire h'.wire⟩

theorem Swept.cfg (h : Swept s t) : t.fab.cfg = s.fab.cfg := by
  have hf : t.fab.frame.cfg = s.fab.frame.cfg := by rw [h.frame]
  exact hf

theorem Swept.abroad (h : Swept s t) : t.fab.abroad = s.fab.abroad := by
  have hf : t.fab.frame.abroad = s.fab.frame.abroad := by rw [h.frame]
  exact hf

/-- A line that this device forgets. -/
theorem forgetSys_swept (hs : s.L2Clean) (g : LineAddr) : Swept s (s.forgetSys g) ∧ ∀ h, h ≠ g → (s.forgetSys g).sysLine h = s.sysLine h := by
  obtain ⟨hl2, hfab⟩ := dropL2_clean hs (l2Key (homeDie (fabricVa g)) 0 (fabricVa g))
  have hframe : (s.forgetSys g).fab.frame = s.fab.frame :=
    (Flows.of_bare (quiet := False) (P := fun _ => True) (forgetSys_bare s g) (fun _ _ => trivial)).fab
  refine ⟨⟨by rw [State.forgetSys]; exact l2Clean_setSysLine hl2 _ _, hframe, ?_⟩, fun h hne => ?_⟩
  · rw [(forgetSys_fabric s g).1]
    exact List.Subset.refl _
  · rw [State.forgetSys, sysLine_setSysLine_other _ _ hne, State.sysLine, State.sysLine, hfab]

/-- A line that this device writes back. -/
theorem yielded_swept (hs : s.L2Clean) (k : Nat) (g : LineAddr) : Swept s (s.yielded k g) ∧
    ∀ h, h ≠ g → (s.yielded k g).sysLine h = s.sysLine h := by
  unfold State.yielded
  split
  · set t := s.setSysLine g { s.sysLine g with
      wbWait := true
      waited := s.clk } with ht
    have htl : Swept s t := ⟨hs, rfl, List.Subset.refl _⟩
    obtain ⟨hsw, hother⟩ := forgetSys_swept htl.clean g
    obtain ⟨-, hl2, hwire⟩ := sendBack_spec (t.forgetSys g) k g (s.sysLine g).data
    have hback : Swept (t.forgetSys g) ((t.forgetSys g).sendBack k g (s.sysLine g).data) :=
      ⟨fun j y hy => hsw.clean j y (hl2 ▸ hy), sendBack_frame _ k g _,
        by rw [hwire]; exact List.subset_append_left ..⟩
    refine ⟨(htl.trans hsw).trans hback, fun h hne => ?_⟩
    rw [sysLine_sendBack, hother h hne, ht, sysLine_setSysLine_other _ _ hne]
  · exact forgetSys_swept hs g

/-- An eviction of a system-scope line, by the line. -/
theorem evictSys_cases (s : State) (g : LineAddr) : ((s.sysLine g).st = .i ∧ s.evictSys g = s) ∨
    ((s.sysLine g).st ≠ .i ∧ ((∃ k, s.fab.cfg.primary g = some k ∧ s.evictSys g = s.yielded k g) ∨
      (s.fab.cfg.primary g = none ∧ s.evictSys g = s.forgetSys g))) := by
  by_cases hi : (s.sysLine g).st = .i
  · exact .inl ⟨hi, by simp only [State.evictSys, if_pos hi]⟩
  · refine .inr ⟨hi, ?_⟩
    cases hp : s.fab.cfg.primary g with
    | none => exact .inr ⟨rfl, by simp only [State.evictSys, if_neg hi, hp, ite_self]⟩
    | some k => exact .inl ⟨k, rfl, by simp only [State.evictSys, if_neg hi, hp, State.yielded]⟩

theorem evictSys_swept (hs : s.L2Clean) (g : LineAddr) : Swept s (s.evictSys g) ∧ ∀ h, h ≠ g → (s.evictSys g).sysLine h = s.sysLine h := by
  obtain ⟨-, heq⟩ | ⟨-, ⟨k, -, heq⟩ | ⟨-, heq⟩⟩ := evictSys_cases s g <;> rw [heq]
  · exact ⟨.refl hs, fun _ _ => rfl⟩
  · exact yielded_swept hs k g
  · exact forgetSys_swept hs g

theorem evictSys_gaveUp (s : State) (g : LineAddr) : s.gaveUp (s.evictSys g) g := by
  obtain ⟨hi, heq⟩ | ⟨-, ⟨k, hk, heq⟩ | ⟨hp, heq⟩⟩ := evictSys_cases s g <;> rw [heq]
  · exact ⟨hi, fun hd => by simp [SysLine.dirty, hi] at hd⟩
  · obtain ⟨hst, -, -, hwire⟩ := yielded_spec s k g
    refine ⟨hst, fun hd j hj => ⟨s.fab.nextTxn, ?_⟩⟩
    obtain rfl : k = j := Option.some.inj (hk.symm.trans hj)
    rw [hwire, if_pos hd]
    simp [State.asRequester]
  · exact ⟨by rw [sysLine_forgetSys], fun _ j hj => by simp [hp] at hj⟩

/-- Either the line is as it was, or it has been given up. -/
def State.stillOrGaveUp (s t : State) (g : LineAddr) : Prop := t.sysLine g = s.sysLine g ∨ s.gaveUp t g

theorem gaveUp_later (h : s.gaveUp t g) (hst : (u.sysLine g).st = .i) (hw : t.fab.wire ⊆ u.fab.wire) : s.gaveUp u g :=
  ⟨hst, fun hd k hk => by
    obtain ⟨n, hn⟩ := h.2 hd k hk
    exact ⟨n, hw hn⟩⟩

/-- An eviction leaves a line that has been given up so. -/
theorem gaveUp_evict (ht : t.L2Clean) (h : s.gaveUp t g) (j : LineAddr) : s.gaveUp (t.evictSys j) g := by
  obtain ⟨hsw, hother⟩ := evictSys_swept ht j
  by_cases hj : g = j
  · subst hj
    have hidle : t.evictSys g = t := by simp only [State.evictSys, if_pos h.1]
    rwa [hidle]
  · exact gaveUp_later h (by rw [hother g hj]; exact h.1) hsw.wire

/-- The eviction of a line that is as it was gives it up. -/
theorem gaveUp_of_still (hsw : Swept s t) (h : s.stillOrGaveUp t g) : s.gaveUp (t.evictSys g) g := by
  obtain h | h := h
  · obtain ⟨hst, hwb⟩ := evictSys_gaveUp t g
    refine ⟨hst, fun hd k hk => ?_⟩
    obtain ⟨n, hn⟩ := hwb (by rw [h]; exact hd) k (by rw [hsw.cfg]; exact hk)
    refine ⟨n, ?_⟩
    rw [h] at hn
    simp only [State.asRequester, hsw.cfg] at hn ⊢
    exact hn
  · exact gaveUp_evict hsw.clean h g

/-- Evictions of a list of lines give up each of them. -/
theorem evictAll_swept (hs : s.L2Clean) (hit : List LineAddr) : Swept s (hit.foldl (fun s g => s.evictSys g) s) ∧
    ∀ g, s.stillOrGaveUp (hit.foldl (fun s g => s.evictSys g) s) g ∧ (g ∈ hit → s.gaveUp (hit.foldl (fun s g => s.evictSys g) s) g) := by
  have hstep : ∀ t, Swept s t → ∀ j, Swept s (t.evictSys j) := fun t ht j => ht.trans (evictSys_swept ht.clean j).1
  refine ⟨List.foldlRecOn (motive := fun t => Swept s t) hit _ (.refl hs) (fun t ht j _ => hstep t ht j), fun g => ?_⟩
  have hkeep : ∀ t, (Swept s t ∧ s.stillOrGaveUp t g) → ∀ j ∈ hit, Swept s (t.evictSys j) ∧ s.stillOrGaveUp (t.evictSys j) g := by
    rintro t ⟨ht, hg⟩ j -
    refine ⟨hstep t ht j, ?_⟩
    by_cases hj : g = j
    · exact .inr (hj ▸ gaveUp_of_still ht hg)
    · obtain hg | hg := hg
      · exact .inl (((evictSys_swept ht.clean j).2 g hj).trans hg)
      · exact .inr (gaveUp_evict ht.clean hg j)
  refine ⟨(List.foldlRecOn (motive := fun t => Swept s t ∧ s.stillOrGaveUp t g) hit _ ⟨.refl hs, .inl rfl⟩ hkeep).2, fun hg => ?_⟩
  exact foldl_brings (I := fun t => Swept s t ∧ s.stillOrGaveUp t g) hg hkeep (fun t ht => gaveUp_of_still ht.1 ht.2)
    (fun t ht h j _ => gaveUp_evict ht.1.clean h j) ⟨.refl hs, .inl rfl⟩

end

/-! ### INVALIDATE_AND_WRITEBACK_SWEEP -/

/-- The lines that the sweep takes. -/
def State.hits (s : State) (first last : LineAddr) (lost : Nat) : List LineAddr :=
  s.fab.lines.filterMap (fun (e : Nat × Option SysLine) =>
    let g : LineAddr := BitVec.ofNat 41 e.1
    if first.toNat ≤ e.1 ∧ e.1 ≤ last.toNat ∧ s.fab.cfg.wasPrimary g lost = true ∧ e.2.any (fun y => y.st != .i) then some g
    else none)

theorem mem_hits {s : State} {first last g : LineAddr} {lost : Nat} (hf : first ≤ g) (hl : g ≤ last)
    (hw : s.fab.cfg.wasPrimary g lost = true) (hi : (s.sysLine g).st ≠ .i) : g ∈ s.hits first last lost := by
  cases hy : SMap.get none s.fab.lines g.toNat with
  | none => simp [State.sysLine, hy, SysLine.none] at hi
  | some y =>
    have hst : y.st ≠ .i := by simpa [State.sysLine, hy] using hi
    refine List.mem_filterMap.2 ⟨_, mem_of_get_eq_some hy, ?_⟩
    have hg : BitVec.ofNat 41 g.toNat = g := by simp
    simp [hg, hw, hst, BitVec.le_def.1 hf, BitVec.le_def.1 hl]

section
variable {s : State} (hs : s.L2Clean) (first last : LineAddr) (lost : Nat) (x : Word)
include hs

/-- The lines of the chunk whose primary was the lost switch are gone from this device, the dirty ones to their new primaries. -/
theorem devSweep_gaveUp {g : LineAddr} (hf : first ≤ g) (hl : g ≤ last) (hw : s.fab.cfg.wasPrimary g lost = true) :
    s.gaveUp (s.devSweep first last lost x) g := by
  set u := (s.hits first last lost).foldl (fun s g => s.evictSys g) s with hu
  have hgone : s.gaveUp u g := by
    obtain ⟨-, hall⟩ := evictAll_swept hs (s.hits first last lost)
    by_cases hi : (s.sysLine g).st = .i
    · obtain h | h := (hall g).1
      · exact ⟨(congrArg SysLine.st h).trans hi, fun hd => by simp [SysLine.dirty, hi] at hd⟩
      · exact h
    · exact (hall g).2 (mem_hits hf hl hw hi)
  have hline : (s.devSweep first last lost x).sysLine g = u.sysLine g ∧ u.fab.wire ⊆ (s.devSweep first last lost x).fab.wire := by
    unfold State.devSweep
    dsimp only
    rw [← State.hits, ← hu]
    split
    · exact ⟨rfl, List.subset_append_left ..⟩
    · exact ⟨rfl, List.Subset.refl _⟩
  exact gaveUp_later hgone (by rw [hline.1]; exact hgone.1) hline.2

/-- The acknowledgement, and what this device notes of a sweep of another. -/
theorem devSweep_answers : if homeDevice first = s.fab.cfg.devno then .sweepAck s.fab.cfg.devno x ∈ (s.devSweep first last lost x).fab.wire
    else message 0x25 s.fab.cfg.devno.toNat x 0 [] ∈ (s.devSweep first last lost x).fab.sent ∧
      ∀ a ∈ s.fab.abroad, a.slot = lost →
        { a with swept := a.swept ++ [(first, last)], ended := false } ∈ (s.devSweep first last lost x).fab.abroad := by
  obtain ⟨hsw, -⟩ := evictAll_swept hs (s.hits first last lost)
  unfold State.devSweep
  dsimp only
  rw [← State.hits]
  set u := (s.hits first last lost).foldl (fun s g => s.evictSys g) s with hu
  rw [hsw.cfg]
  split
  · simp [State.carry]
  · refine ⟨by simp, fun a ha hslot => List.mem_map.2 ⟨a, ?_, by rw [if_pos hslot]⟩⟩
    rw [hsw.abroad]
    exact ha

end

theorem sweepTxn_spec (s : State) (first last : LineAddr) (lost : Nat) : ∃ n c, s.sweepTxn first last lost = (n, { s with freeCtr := c }) ∧
    ∀ w, s.fab.sweeps.find? (fun w => w.slot == lost && w.chunks.head? == some (first, last)) = some w → n = w.txn := by
  unfold State.sweepTxn
  split
  next w hw => exact ⟨w.txn, s.freeCtr, rfl, fun v hv => congrArg Sweep.txn (Option.some.inj (hw.symm.trans hv))⟩
  next hnone => exact ⟨_, _, rfl, fun v hv => by rw [hnone] at hv; simp at hv⟩

/-! ### SWEEP_ACKNOWLEDGEMENT -/

/-- The sweep of a list that began first, after `b`. -/
def Fabric.older (f : Fabric) (b : Option Sweep) (w : Sweep) : Option Sweep :=
  match b with
  | some v => if f.txnAge v.txn < f.txnAge w.txn then some w else b
  | none => some w

theorem foldl_older (f : Fabric) (ws : List Sweep) (b : Option Sweep) {w : Sweep} (h : ws.foldl f.older b = some w) :
    (w ∈ ws ∨ b = some w) ∧ (∀ v ∈ ws, f.txnAge v.txn ≤ f.txnAge w.txn) ∧ ∀ v, b = some v → f.txnAge v.txn ≤ f.txnAge w.txn := by
  induction ws generalizing b with
  | nil =>
    obtain rfl : b = some w := h
    exact ⟨.inr rfl, by simp, fun v hv => by rw [Option.some.inj hv]⟩
  | cons x ws ih =>
    obtain ⟨hmem, hall, hb⟩ := ih (f.older b x) h
    have hx : ∃ v, f.older b x = some v ∧ (v = x ∨ b = some v) ∧ f.txnAge x.txn ≤ f.txnAge v.txn ∧
        ∀ u, b = some u → f.txnAge u.txn ≤ f.txnAge v.txn := by
      cases b with
      | none => exact ⟨x, rfl, .inl rfl, Nat.le_refl _, by simp⟩
      | some u =>
        by_cases hlt : f.txnAge u.txn < f.txnAge x.txn
        · exact ⟨x, if_pos hlt, .inl rfl, Nat.le_refl _, fun v hv => Option.some.inj hv ▸ Nat.le_of_lt hlt⟩
        · exact ⟨u, if_neg hlt, .inr rfl, Nat.le_of_not_lt hlt, fun v hv => Option.some.inj hv ▸ Nat.le_refl _⟩
    obtain ⟨v, hv, hfrom, hxv, hbv⟩ := hx
    have hvw := hb v hv
    refine ⟨?_, fun y hy => ?_, fun u hu => (hbv u hu).trans hvw⟩
    · obtain hm | hm := hmem
      · exact .inl (List.mem_cons_of_mem _ hm)
      · obtain rfl : v = w := Option.some.inj (hv.symm.trans hm)
        obtain rfl | hb' := hfrom
        · exact .inl (by simp)
        · exact .inr hb'
    · obtain rfl | hy := List.mem_cons.1 hy
      · exact hxv.trans hvw
      · exact hall y hy

theorem oldestSweep_spec {s : State} {dev : Device} {w : Sweep} (h : s.oldestSweep dev = some w) :
    w ∈ s.fab.sweeps ∧ w.awaited.getLsbD dev.toNat = true ∧
    ∀ v ∈ s.fab.sweeps, v.awaited.getLsbD dev.toNat = true → s.fab.txnAge v.txn ≤ s.fab.txnAge w.txn := by
  obtain ⟨hmem, hall, -⟩ := foldl_older s.fab (s.fab.sweeps.filter (fun w => w.awaited.getLsbD dev.toNat)) none h
  obtain ⟨hin, hdue⟩ := List.mem_filter.1 (hmem.resolve_right (by simp))
  exact ⟨hin, hdue, fun v hv hvdue => hall v (List.mem_filter.2 ⟨hv, hvdue⟩)⟩

theorem exec_sweepAcknowledgement_none {s : State} {dev : Device} (h : s.oldestSweep dev = none) :
    exec (.sweepAcknowledgement dev) s = .next s := by
  show execSweepAcknowledgement dev s = _
  rw [execSweepAcknowledgement, h]

theorem exec_sweepAcknowledgement_some {s : State} {dev : Device} {w : Sweep} (h : s.oldestSweep dev = some w) :
    exec (.sweepAcknowledgement dev) s = .next (s.sweepAcked dev w.txn) := by
  show execSweepAcknowledgement dev s = _
  rw [execSweepAcknowledgement, h]
  rfl

end Sys2Proof.Machine

/-! The end of a chunk and of a recovery sweep (R51, R52). -/

namespace Sys2Proof.Machine

open Sys2Proof Sys2Proof.Claims

theorem flows_retrySwitches {quiet : Prop} (s : State) : Flows quiet (fun _ => True) s s.retrySwitches :=
  .foldl (fun t k _ => flows_retryAll (slot := k) trivial t) s

/-! ### Lines that nobody can write back any more -/

theorem hwEvent_hold (s : State) (e : Event) : (s.hwEvent e).host.hold.length ≤ s.host.hold.length + 1 := by
  unfold State.hwEvent
  split <;> simp [State.holdEvent]

theorem loseRange_hold (s : State) (g : LineAddr) (own : Device) : (s.loseRange g own).host.hold.length ≤ s.host.hold.length + 1 := by
  unfold State.loseRange
  dsimp only
  split
  · split
    · exact hwEvent_hold s _
    · exact hwEvent_hold s _
  · exact Nat.le_succ _

theorem onceEach_length (xs : List (LineAddr × Device)) : (onceEach xs).length ≤ xs.length := by
  suffices h : ∀ acc : List (LineAddr × Device), (xs.foldl (fun (acc : List (LineAddr × Device)) e =>
      if acc.any (fun a => a.1 == e.1) then acc else acc ++ [e]) acc).length ≤ acc.length + xs.length from
    (h []).trans (by simp)
  induction xs with
  | nil => simp
  | cons x xs ih =>
    intro acc
    refine (ih _).trans ?_
    dsimp only
    split <;> simp only [List.length_append, List.length_cons, List.length_nil] <;> omega

theorem loseRanges_hold (xs : List (LineAddr × Device)) (s : State) :
    (xs.foldl (fun s e => s.loseRange e.1 e.2) s).host.hold.length ≤ s.host.hold.length + xs.length := by
  induction xs generalizing s with
  | nil => simp
  | cons x xs ih =>
    have hstep := loseRange_hold s x.1 x.2
    have hrest := ih (s.loseRange x.1 x.2)
    simp only [List.foldl_cons, List.length_cons]
    omega

/-- Each lost page range tells the host once. -/
theorem loseLines_hold (s : State) (xs : List (LineAddr × Device)) : (s.loseLines xs).host.hold.length ≤ s.host.hold.length + xs.length := by
  refine (loseRanges_hold _ s).trans (Nat.add_le_add_left ((onceEach_length _).trans ?_) _)
  simp

theorem loseLines_fab (s : State) (xs : List (LineAddr × Device)) : (s.loseLines xs).fab = s.fab := by
  unfold State.loseLines
  refine foldl_fab (fun t e => ?_) _ s
  exact loseRange_fab t e.1 e.2

theorem loseLines_clk (s : State) (xs : List (LineAddr × Device)) : (s.loseLines xs).clk = s.clk := by
  have h : Flow False (fun _ => True) s (s.loseLines xs) := flows_loseLines s xs (fun _ _ => trivial)
  exact h.clk

/-! ### SWEEP_COMPLETE -/

section
variable {s : State} {slot : Nat} {w : Sweep}

/-- The lines of the chunk that has ended. -/
def State.chunkLost (s : State) (slot : Nat) (w : Sweep) : List (LineAddr × Device) := w.chunks.head?.elim [] (s.stranded slot)

/-- RECOVERY_DONE. -/
def doneEvent (slot : Nat) (clk : Nat) (w : Sweep) : Event :=
  { kind := 0x15, src := srcLink, body := [(16, bytesNat 1 slot), (20, bytesNat 4 ((clk - w.started) / 1400)), (24, bytesNat 8 w.written)] }

/-- The sweep has ended, and the notes of the lost switch have gone. -/
def State.sweepOver (s : State) (slot : Nat) (w : Sweep) : State :=
  State.dropNotes { s with fab := { s.fab with sweeps := s.fab.sweeps.erase w } } slot (fun g => homeDevice g == s.fab.cfg.devno)

theorem endSweep_last (hw : s.fab.sweeps.find? (fun w => w.slot == slot && w.awaited == 0) = some w) (hl : w.chunks.length ≤ 1) :
    s.endSweep slot = ((((s.loseLines (s.chunkLost slot w)).sweepOver slot w).hwEvent (doneEvent slot
      ((s.loseLines (s.chunkLost slot w)).sweepOver slot w).clk w)).retrySwitches).wakeAll := by
  simp only [State.endSweep, hw, if_neg (by omega : ¬ 2 ≤ w.chunks.length), State.chunkLost, State.sweepOver, doneEvent]

theorem endSweep_next (hw : s.fab.sweeps.find? (fun w => w.slot == slot && w.awaited == 0) = some w) (hl : 2 ≤ w.chunks.length) :
    s.endSweep slot = (s.loseLines (s.chunkLost slot w)).nextChunk w := by
  simp only [State.endSweep, hw, if_pos hl, State.chunkLost]

/-- With the last chunk the sweep is over, and the host is told. -/
theorem endSweep_over (hw : s.fab.sweeps.find? (fun w => w.slot == slot && w.awaited == 0) = some w) (hl : w.chunks.length ≤ 1) :
    (s.endSweep slot).fab.sweeps = s.fab.sweeps.erase w ∧
    Reported s (s.endSweep slot) (s.chunkLost slot w).length (doneEvent slot s.clk w) := by
  rw [endSweep_last hw hl]
  set u := s.loseLines (s.chunkLost slot w) with hu
  have hover : (u.sweepOver slot w).host = u.host ∧ (u.sweepOver slot w).clk = u.clk ∧ (u.sweepOver slot w).fab.sweeps = u.fab.sweeps.erase w :=
    ⟨rfl, rfl, rfl⟩
  set v := u.sweepOver slot w with hv
  obtain ⟨hhost, hclk, hsweeps⟩ := hover
  have hflow : Flow False (fun _ => True) (v.hwEvent (doneEvent slot v.clk w)) (v.hwEvent (doneEvent slot v.clk w)).retrySwitches.wakeAll :=
    ((flows_retrySwitches _).trans (flows_wakeAll _)) (fun _ _ => trivial)
  have hev : Flow False (fun _ => True) v (v.hwEvent (doneEvent slot v.clk w)) := flows_hwEvent v _ (fun _ _ => trivial)
  refine ⟨?_, ?_⟩
  · rw [hflow.sweeps, hev.sweeps, hsweeps, hu, loseLines_fab]
  · have hsame : v.clk = s.clk := by rw [hclk, hu, loseLines_clk]
    rw [← hsame]
    exact reported_of_hold (by rw [hhost]; exact loseLines_hold s _) hflow.edge.host

/-- Otherwise its next chunk is swept. -/
theorem endSweep_goesOn (hw : s.fab.sweeps.find? (fun w => w.slot == slot && w.awaited == 0) = some w) {c d : LineAddr × LineAddr}
    {rest : List (LineAddr × LineAddr)} (hc : w.chunks = c :: d :: rest) :
    .sweep d.1 d.2 w.slot s.fab.nextTxn ∈ (s.endSweep slot).fab.wire ∧
    (s.endSweep slot).fab.sweeps = s.fab.sweeps.map (fun v => if v = w then
      { w with chunks := d :: rest, awaited := s.fab.cfg.members &&& ~~~s.fab.away, txn := s.fab.nextTxn } else v) := by
  rw [endSweep_next hw (by simp [hc])]
  have hfab := loseLines_fab s (s.chunkLost slot w)
  set u := s.loseLines (s.chunkLost slot w) with hu
  set w' : Sweep := { w with
    chunks := d :: rest
    awaited := u.sweepers
    txn := u.fab.nextTxn } with hw'
  set v : State := { u with fab := { u.fab with sweeps := u.fab.sweeps.map (fun x => if x = w then w' else x) } } with hv
  have hnext : u.nextChunk w = (v.broadcastChunk w').retrySwitches.wakeAll := by simp only [State.nextChunk, hc, List.tail_cons, hv, hw']
  have hflow : Flow False (fun _ => True) (v.broadcastChunk w') (v.broadcastChunk w').retrySwitches.wakeAll :=
    ((flows_retrySwitches _).trans (flows_wakeAll _)) (fun _ _ => trivial)
  have hcast : .sweep d.1 d.2 w.slot u.fab.nextTxn ∈ (v.broadcastChunk w').fab.wire ∧
      (v.broadcastChunk w').fab.sweeps = u.fab.sweeps.map (fun x => if x = w then w' else x) := by
    refine ⟨?_, rfl⟩
    simp [State.broadcastChunk, hw', State.carry, hv]
  rw [hnext]
  refine ⟨?_, ?_⟩
  · rw [← hfab]
    exact hflow.wire hcast.1
  · rw [hflow.sweeps, hcast.2, hw', State.sweepers, hfab]

end

end Sys2Proof.Machine

/-! The loss of a switch (R50, R51, R53, R54, R158). -/

namespace Sys2Proof.Machine

open Sys2Proof Sys2Proof.Claims

/-! ### The next slot that lives -/

theorem firstFrom_isSome {p : Nat → Bool} {k n i : Nat} (hi : i < n) (hp : p (k + i) = true) : ∃ j, firstFrom p k n = some j := by
  induction n generalizing k i with
  | zero => omega
  | succ n ih =>
    unfold firstFrom
    split
    · exact ⟨k, rfl⟩
    next hk =>
      cases i with
      | zero => exact absurd hp hk
      | succ i => exact ih (i := i) (by omega) (by rwa [Nat.add_right_comm, Nat.add_assoc])

theorem live_lt {c : PartCfg} {k : Nat} (h : c.live k = true) : k < c.n := by
  simp only [PartCfg.live, Bool.and_eq_true, decide_eq_true_eq] at h
  exact h.1.1

/-- Every slot is reached from any, round the table. -/
theorem exists_steps {n k : Nat} (hk : k < n) (i : Nat) : ∃ d, d < n ∧ (i + d) % n = k := by
  have hi := Nat.mod_lt i (by omega : 0 < n)
  have hdiv := Nat.div_add_mod i n
  have hsum : i + (k + n - i % n) = k + n * (i / n + 1) := by rw [Nat.mul_add]; omega
  refine ⟨(k + n - i % n) % n, Nat.mod_lt _ (by omega), ?_⟩
  rw [Nat.add_mod_mod, hsum, Nat.add_mul_mod_self_left, Nat.mod_eq_of_lt hk]

/-- A slot that lives is found, unless it is the one passed over. -/
theorem nextLive_isSome {c : PartCfg} {k : Nat} {past : Option Nat} (h : c.live k = true) (hp : past ≠ some k) (i : Nat) :
    ∃ j, c.nextLive i past = some j := by
  obtain ⟨d, hd, hmod⟩ := exists_steps (live_lt h) i
  obtain ⟨j, hj⟩ := firstFrom_isSome (p := fun j => c.live (j % c.n) && past != some (j % c.n)) (k := i) hd (by simp [hmod, h, hp])
  exact ⟨j % c.n, by rw [PartCfg.nextLive, hj]; rfl⟩

/-! ### What a lost switch would have taken -/

/-- No message is on its way to or from the switch of a slot. -/
def State.NoneTo (s : State) (slot : Nat) : Prop := ∀ m ∈ s.fab.wire, m.toSlot slot = false

/-- The home table stays, no event is gone, and what has been sent since is not the business of the slot's switch. -/
structure Cut (slot : Nat) (s t : State) : Prop where
  edge : KeepsEdge s t
  cfg  : t.fab.cfg = s.fab.cfg
  wire : ∀ m ∈ t.fab.wire, m ∈ s.fab.wire ∨ m.toSlot slot = false
  sent : s.fab.sent ⊆ t.fab.sent
  seq  : t.fab.seqSlot = s.fab.seqSlot ∨ t.fab.cfg.live t.fab.seqSlot = true

section
variable {slot : Nat} {s t u : State}

theorem Cut.refl (s : State) : Cut slot s s := ⟨.refl s, rfl, fun _ hm => .inl hm, List.Subset.refl _, .inl rfl⟩

theorem Cut.trans (h : Cut slot s t) (h' : Cut slot t u) : Cut slot s u :=
  ⟨h.edge.trans h'.edge, h'.cfg.trans h.cfg, fun m hm => (h'.wire m hm).elim (h.wire m) .inr, List.Subset.trans h.sent h'.sent,
    h'.seq.elim (fun he => he ▸ h.seq.imp id (fun hl => h'.cfg ▸ hl)) .inr⟩

theorem Cut.noneTo (h : Cut slot s t) (hs : s.NoneTo slot) : t.NoneTo slot := fun m hm => (h.wire m hm).elim (hs m) id

/-- The work of the switches that live sends a dead slot nothing. -/
theorem Cut.of_flow {quiet : Prop} (hdead : s.fab.cfg.live slot = false) (h : Flows quiet (fun k => k ≠ slot) s t) : Cut slot s t := by
  have hf : Flow quiet (fun k => k ≠ slot) s t := h (fun k hk hs => by rw [hs, hdead] at hk; simp at hk)
  refine ⟨hf.edge, hf.cfg, fun m hm => (hf.fresh m hm).imp id (fun hto => ?_), by rw [hf.sent]; exact List.Subset.refl _,
    .inl hf.seqSlot⟩
  cases hm : m.toSlot slot with
  | false => rfl
  | true => exact absurd rfl (hto slot hm)

end

/-- Messages that are left once a slot has died have nothing to do with it. -/
theorem reroute_toSlot {c : PartCfg} {slot : Nat} (hdead : c.live slot = false) {m m' : FabMsg} (h : m.reroute c slot = some m') :
    m'.toSlot slot = false := by
  unfold FabMsg.reroute at h
  split at h
  next j r l =>
    split at h
    · obtain ⟨p, hp, rfl⟩ := Option.map_eq_some_iff.1 h
      have hlive := primary_live hp
      have hne : p ≠ slot := fun hs => by rw [hs, hdead] at hlive; simp at hlive
      simpa [FabMsg.toSlot] using hne
    next hj =>
      obtain rfl := Option.some.inj h
      simpa [FabMsg.toSlot] using hj
  next j g =>
    split at h
    · simp at h
    next hj =>
      obtain rfl := Option.some.inj h
      simpa [FabMsg.toSlot] using fun hs => hj (.inl hs)
  next m =>
    split at h
    · simp at h
    next hto =>
      obtain rfl := Option.some.inj h
      simpa using hto

section
variable (s : State) (slot : Nat)

theorem markDead_spec : (SMap.get HomeSlot.reset (s.markDead slot).fab.cfg.homes slot).dead = true ∧
    (s.markDead slot).fab.cfg.live slot = false ∧ (∀ k, k ≠ slot → (s.markDead slot).fab.cfg.live k = s.fab.cfg.live k) ∧
    (s.markDead slot).NoneTo slot := by
  have hdead : (SMap.get HomeSlot.reset (s.markDead slot).fab.cfg.homes slot).dead = true := by simp [State.markDead]
  have hlive : (s.markDead slot).fab.cfg.live slot = false := by simp [PartCfg.live, hdead]
  refine ⟨hdead, hlive, fun k hk => ?_, fun m hm => ?_⟩
  · simp [PartCfg.live, State.markDead, SMap.get_set_other _ _ _ hk]
  · obtain ⟨m', -, hm'⟩ := List.mem_filterMap.1 hm
    exact reroute_toSlot hlive hm'

/-! ### The steps of a loss -/

theorem lossTold_fab (bySwitch : Bool) (by_ : Nat) : (s.lossTold slot bySwitch by_).fab = (s.markDead slot).fab := by
  unfold State.lossTold State.hwEvent
  split <;> rfl

theorem moveSequencer_fab {k : Nat} (h : s.fab.cfg.nextLive s.fab.seqSlot none = some k) :
    s.moveSequencer.fab = { s.fab with seqSlot := k } := by
  obtain ⟨gs, e, he⟩ := moveSequencer_some h
  rw [he, wakeAll_fab]
  unfold State.hwEvent
  split <;> rfl

theorem cut_moveSequencer : Cut slot s s.moveSequencer := by
  have hedge := keepsEdge_moveSequencer s
  cases h : s.fab.cfg.nextLive s.fab.seqSlot none with
  | none =>
    simp only [State.moveSequencer, h]
    exact .refl s
  | some k =>
    have hf := moveSequencer_fab s h
    exact ⟨hedge, by rw [hf], fun m hm => .inl (by rwa [hf] at hm), by rw [hf]; exact List.Subset.refl _,
      .inr (by rw [hf]; exact nextLive_live h)⟩

theorem cut_sequencerLeaves : Cut slot s (s.sequencerLeaves slot) := by
  unfold State.sequencerLeaves
  split
  · exact cut_moveSequencer s slot
  · exact .refl s

/-- The sequencer leaves the slot for one that lives, if any does. -/
theorem sequencerLeaves_live (h : ∃ k, s.fab.cfg.live k = true) (hseq : s.fab.seqSlot = slot) :
    (s.sequencerLeaves slot).fab.cfg.live (s.sequencerLeaves slot).fab.seqSlot = true := by
  obtain ⟨k, hk⟩ := h
  obtain ⟨j, hj⟩ := nextLive_isSome (past := none) hk (by simp) s.fab.seqSlot
  rw [State.sequencerLeaves, if_pos hseq, moveSequencer_fab s hj]
  exact nextLive_live hj

/-- Nothing of the fabric but the devices in reach, the sweeps of this device and of others, and the transactions changes. -/
theorem cut_setAway (a : BitVec 256) : Cut slot s { s with fab := { s.fab with away := a } } :=
  ⟨keepsEdge_setFab s _, rfl, fun _ hm => .inl hm, List.Subset.refl _, .inl rfl⟩

theorem cut_setAbroad (a : List Abroad) : Cut slot s { s with fab := { s.fab with abroad := a } } :=
  ⟨keepsEdge_setFab s _, rfl, fun _ hm => .inl hm, List.Subset.refl _, .inl rfl⟩

theorem cut_setSweeps (ws : List Sweep) : Cut slot s { s with fab := { s.fab with sweeps := ws } } :=
  ⟨keepsEdge_setFab s _, rfl, fun _ hm => .inl hm, List.Subset.refl _, .inl rfl⟩

theorem cut_free : Cut slot s s.free.2 := ⟨keepsEdge_free s, rfl, fun _ hm => .inl hm, List.Subset.refl _, .inl rfl⟩

theorem hwEvent_fab (e : Event) : (s.hwEvent e).fab = s.fab := by
  unfold State.hwEvent
  split <;> rfl

theorem cut_hwEvent (e : Event) : Cut slot s (s.hwEvent e) := by
  have hf := hwEvent_fab s e
  exact ⟨keepsEdge_hwEvent s e, by rw [hf], fun m hm => .inl (by rwa [hf] at hm), by rw [hf]; exact List.Subset.refl _, .inl (by rw [hf])⟩

theorem cut_broadcastChunk (w : Sweep) : Cut slot s (s.broadcastChunk w) := by
  have hfab : (s.broadcastChunk w).fab.cfg = s.fab.cfg ∧ (∀ m ∈ (s.broadcastChunk w).fab.wire, m ∈ s.fab.wire ∨ m.toSlot slot = false) ∧
      s.fab.sent ⊆ (s.broadcastChunk w).fab.sent ∧ (s.broadcastChunk w).fab.seqSlot = s.fab.seqSlot := by
    unfold State.broadcastChunk
    split
    · exact ⟨rfl, fun _ hm => .inl hm, List.Subset.refl _, rfl⟩
    · exact ⟨rfl, fun m hm => (List.mem_append.1 hm).imp id (fun h => by rw [List.mem_singleton.1 h]; rfl), List.subset_append_left .., rfl⟩
  obtain ⟨hcfg, hwire, hsent, hseq⟩ := hfab
  exact ⟨keepsEdge_broadcastChunk s w, hcfg, hwire, hsent, .inl hseq⟩

theorem broadcastChunk_frame (w : Sweep) : (s.broadcastChunk w).fab.sweeps = s.fab.sweeps ∧ (s.broadcastChunk w).fab.abroad = s.fab.abroad ∧
    (s.broadcastChunk w).fab.away = s.fab.away := by
  unfold State.broadcastChunk
  split <;> exact ⟨rfl, rfl, rfl⟩

theorem cut_strand (hdead : s.fab.cfg.live slot = false) : Cut slot s s.strand := by
  unfold State.strand
  have hset := (cut_free s slot).trans (cut_setAway s.free.2 slot
    (s.free.2.fab.away ||| (s.free.1.setWidth 256 &&& s.free.2.fab.cfg.members &&& ~~~((1#256) <<< s.free.2.fab.cfg.devno.toNat))))
  exact hset.trans (.of_flow hdead (flows_releaseAway (fun k hk hs => by
    rw [hs] at hk
    have hd : s.fab.cfg.live slot = true := hk
    simp [hdead] at hd)))

/-- The sweep of this home device. -/
theorem beginSweep_spec : Cut slot s (s.beginSweep slot) ∧ (s.beginSweep slot).fab.abroad = s.fab.abroad ∧
    (s.beginSweep slot).fab.away = s.fab.away ∧ ∃ w ∈ (s.beginSweep slot).fab.sweeps, w.slot = slot ∧ w.written = 0 ∧
      w.awaited = if w.chunks.isEmpty then 0 else s.fab.cfg.members &&& ~~~s.fab.away := by
  unfold State.beginSweep
  dsimp only
  set w : Sweep := { slot := slot, chunks := s.chunks, awaited := if s.chunks.isEmpty then 0 else s.sweepers, written := 0,
                     started := s.clk, txn := s.fab.nextTxn } with hw
  set v : State := { s with fab := { s.fab with sweeps := s.fab.sweeps ++ [w] } } with hv
  set e : Event := { kind := 0x14, src := srcLink, body := [(16, bytesNat 1 slot), (20, bytesNat 4 v.sweepGiB)] } with he
  have hf := hwEvent_fab v e
  obtain ⟨hsweeps, habroad, haway⟩ := broadcastChunk_frame (v.hwEvent e) w
  rw [hsweeps, habroad, haway, hf]
  refine ⟨((cut_setSweeps s slot _).trans (cut_hwEvent v slot e)).trans (cut_broadcastChunk _ slot w), rfl, rfl, w, ?_, rfl, rfl, ?_⟩
  · exact List.mem_append_right _ (List.mem_singleton.2 rfl)
  · simp only [hw, State.sweepers]

/-- The recovery sweeps begin, here and at the other home devices. -/
theorem sweepBegins_spec (hdead : s.fab.cfg.live slot = false) : Cut slot s (s.sweepBegins slot) ∧
    (∃ w ∈ (s.sweepBegins slot).fab.sweeps, w.slot = slot ∧ w.written = 0 ∧
      w.awaited = if w.chunks.isEmpty then 0 else s.fab.cfg.members &&& ~~~(s.sweepBegins slot).fab.away) ∧
    ∃ a ∈ (s.sweepBegins slot).fab.abroad, a.slot = slot ∧ a.served = [] ∧ a.ended = false := by
  have hstrand := cut_strand s slot hdead
  unfold State.sweepBegins
  set v : State := { s.strand with fab := { s.strand.fab with abroad := s.strand.fab.abroad ++ [Abroad.begun slot] } } with hv
  obtain ⟨hcut, habroad, haway, w, hw, hslot, hwritten, hawaited⟩ := beginSweep_spec v slot
  have hvs : Cut slot s v := hstrand.trans (cut_setAbroad s.strand slot _)
  refine ⟨hvs.trans hcut, ⟨w, hw, hslot, hwritten, ?_⟩, Abroad.begun slot, ?_, rfl, rfl, rfl⟩
  · rw [hawaited, haway, hvs.cfg]
  · rw [habroad]
    exact List.mem_append_right _ (List.mem_singleton.2 rfl)

end

/-! ### SWITCH_LOSS_DECLARATION -/

section
variable {s : State} {slot : Nat} (bySwitch : Bool) (by_ : Nat)

/-- A loss up to its recovery sweeps; the sequencer has found another slot, if there is one. -/
theorem beforeSweep_spec (s : State) (slot : Nat) (bySwitch : Bool) (by_ : Nat) :
    Cut slot (s.lossTold slot bySwitch by_) (s.beforeSweep slot bySwitch by_) ∧
    ((∃ k, k ≠ slot ∧ s.fab.cfg.live k = true) → s.fab.seqSlot = slot →
      (s.beforeSweep slot bySwitch by_).fab.cfg.live (s.beforeSweep slot bySwitch by_).fab.seqSlot = true) := by
  obtain ⟨-, hdead, hother, -⟩ := markDead_spec s slot
  have htold := lossTold_fab s slot bySwitch by_
  set u := s.lossTold slot bySwitch by_ with hu
  have hudead : u.fab.cfg.live slot = false := by rw [htold]; exact hdead
  have hgone : Cut slot u (u.switchGone slot) := .of_flow hudead (flows_switchGone u slot)
  have hseq := cut_sequencerLeaves (u.switchGone slot) slot
  set w := (u.switchGone slot).sequencerLeaves slot with hw
  have hwdead : w.fab.cfg.live slot = false := by rw [hseq.cfg, hgone.cfg]; exact hudead
  have hask : Cut slot w (w.askAgain slot) := .of_flow hwdead (flows_askAgain (quiet := False) w slot)
  have hend : s.beforeSweep slot bySwitch by_ = w.askAgain slot := rfl
  rw [hend]
  refine ⟨(hgone.trans hseq).trans hask, fun ⟨k, hk, hlive⟩ hslot => ?_⟩
  have hexists : ∃ k, (u.switchGone slot).fab.cfg.live k = true := ⟨k, by rw [hgone.cfg, htold, hother k hk]; exact hlive⟩
  have hflow : Flow False (fun _ => True) u (u.switchGone slot) := flows_switchGone u slot (fun _ _ => trivial)
  have hleft := sequencerLeaves_live (u.switchGone slot) slot hexists (by rw [hflow.seqSlot, htold]; exact hslot)
  obtain h | h := hask.seq
  · rw [h, hask.cfg]
    exact hleft
  · exact h

/-- All that a loss leaves: the slot dead, nothing on its way to it, the event, and with another switch the sweeps and the sequencer. -/
theorem loseSwitch_spec (hf : s.fab.inForce = true) (hl : s.fab.cfg.live slot = true) :
    let t := s.loseSwitch slot bySwitch by_
    (SMap.get HomeSlot.reset t.fab.cfg.homes slot).dead = true ∧ t.NoneTo slot ∧ Reported s t 0 (lossEvent slot bySwitch by_) ∧
    s.fab.sent ⊆ t.fab.sent ∧
    ((∃ k, k ≠ slot ∧ s.fab.cfg.live k = true) →
      (∃ w ∈ t.fab.sweeps, w.slot = slot ∧ w.written = 0 ∧
        w.awaited = if w.chunks.isEmpty then 0 else s.fab.cfg.members &&& ~~~t.fab.away) ∧
      (∃ a ∈ t.fab.abroad, a.slot = slot ∧ a.served = [] ∧ a.ended = false) ∧
      (s.fab.seqSlot = slot → t.fab.cfg.live t.fab.seqSlot = true)) := by
  obtain ⟨hmark, hdead, hother, hnone⟩ := markDead_spec s slot
  have htold := lossTold_fab s slot bySwitch by_
  have heq := loseSwitch_eq hf hl bySwitch by_
  obtain ⟨hbefore, hseq⟩ := beforeSweep_spec s slot bySwitch by_
  set u := s.lossTold slot bySwitch by_ with hu
  set w := s.beforeSweep slot bySwitch by_ with hw
  have hcfg : w.fab.cfg = (s.markDead slot).fab.cfg := by rw [hbefore.cfg, htold]
  have hwdead : w.fab.cfg.live slot = false := by rw [hcfg]; exact hdead
  obtain ⟨hsweep, hsw, hab⟩ := sweepBegins_spec w slot hwdead
  have hcommon : ∀ t, Cut slot w t → (SMap.get HomeSlot.reset t.fab.cfg.homes slot).dead = true ∧ t.NoneTo slot ∧
      Reported s t 0 (lossEvent slot bySwitch by_) ∧ s.fab.sent ⊆ t.fab.sent := by
    intro t ht
    have hut := hbefore.trans ht
    refine ⟨?_, hut.noneTo ?_, reported_of_hold (u := s.markDead slot) (Nat.le_refl _) hut.edge.host, ?_⟩
    · rw [hut.cfg, htold]
      exact hmark
    · unfold State.NoneTo
      rw [htold]
      exact hnone
    · have hsent : u.fab.sent = s.fab.sent := by rw [htold]; rfl
      rw [← hsent]
      exact hut.sent
  rw [heq]
  by_cases hlive : (List.range w.fab.cfg.n).any w.fab.cfg.live = true
  · rw [if_pos hlive]
    obtain ⟨h1, h2, h3, h4⟩ := hcommon _ hsweep
    refine ⟨h1, h2, h3, h4, fun hex => ⟨?_, hab, fun hslot => ?_⟩⟩
    · have hmem : w.fab.cfg.members = s.fab.cfg.members := by rw [hcfg]; rfl
      rw [← hmem]
      exact hsw
    · obtain h | h := hsweep.seq
      · rw [h, hsweep.cfg]
        exact hseq hex hslot
      · exact h
  · rw [if_neg hlive]
    obtain ⟨h1, h2, h3, h4⟩ := hcommon w (.refl w)
    refine ⟨h1, h2, h3, h4, fun ⟨k, hk, hkl⟩ => absurd (List.any_eq_true.2 ?_) hlive⟩
    have hwk : w.fab.cfg.live k = true := by rw [hcfg, hother k hk]; exact hkl
    exact ⟨k, List.mem_range.2 (live_lt hwk), hwk⟩

end

/-- A device that declares a switch lost tells the others. -/
theorem declareLost_eq (s : State) (k : Nat) : ∃ u : State, s.declareLost k = u.loseSwitch k false s.fab.cfg.devno.toNat ∧
    u.fab = { s.fab with
      sent := s.fab.sent ++ [message 0x35 s.fab.cfg.devno.toNat s.fab.nextTxn (k + 256 * s.fab.cfg.devno.toNat) []]
      nextTxn := s.fab.nextTxn + 1 } ∧ u.host = s.host := ⟨_, rfl, rfl, rfl⟩

/-- A request, or a writeback, that has had no answer. -/
theorem requestTimedOut_eq {s : State} {g : LineAddr} {k : Nat} (h : (s.sysLine g).miss ≠ none ∨ (s.sysLine g).wbWait = true)
    (hk : s.fab.cfg.primary g = some k) : s.requestTimedOut g = s.declareLost k := by
  have hpend : ((s.sysLine g).miss.isNone && !(s.sysLine g).wbWait) = false := by
    obtain h | h := h
    · simp [h]
    · simp [h]
  simp only [State.requestTimedOut, hpend, Bool.false_eq_true, if_false, hk]

end Sys2Proof.Machine

/-! Notes of ownership that are sent again (R53). -/

namespace Sys2Proof.Machine

open Sys2Proof Sys2Proof.Claims

/-! ### Alternates -/

section
variable {c : PartCfg}

theorem nextLive_ne {k i : Nat} {past : Option Nat} (h : c.nextLive i past = some k) : past ≠ some k := by
  obtain ⟨j, hj, rfl⟩ := Option.map_eq_some_iff.1 h
  exact bne_iff_ne.1 (Bool.and_eq_true_iff.1 (firstFrom_holds hj)).2

/-- With one slot alive, every line has a primary. -/
theorem primary_isSome {k : Nat} (h : c.live k = true) (hn : 2 ≤ c.n) (g : LineAddr) : ∃ j, c.primary g = some j := by
  unfold PartCfg.primary
  rw [if_neg (by omega)]
  split
  · exact ⟨_, rfl⟩
  · rw [if_neg (by omega)]
    exact nextLive_isSome h (by simp) _

/-- A line has an alternate where another one has: two slots live. -/
theorem alternate_isSome {g : LineAddr} {a : Nat} (h : c.alternate g = some a) (g' : LineAddr) : ∃ b, c.alternate g' = some b := by
  have hlive := alternate_live h
  unfold PartCfg.alternate at h ⊢
  split at h
  · simp at h
  next hn =>
    rw [if_neg hn]
    obtain ⟨p, hp⟩ := primary_isSome hlive (by omega) g
    have hne : p ≠ a := fun he => nextLive_ne h (by rw [hp, he])
    by_cases ha : c.primary g' = some a
    · exact nextLive_isSome (primary_live hp) (by rw [ha]; simpa using hne.symm) _
    · exact nextLive_isSome hlive ha _

end

/-! ### OWNERSHIP_NOTES_RESEND -/

section
variable {s : State} {lost : Nat}

/-- The entries of a slot whose notes the lost switch held. -/
def State.unnoted (s : State) (old : PartCfg) (lost k : Nat) : List DirEntry :=
  ((s.fswitch k).owned ++ (s.fswitch k).granting).filter (fun e => old.alternate e.gla == some lost)

/-- The notes of one slot. -/
def State.resendSlot (s : State) (old : PartCfg) (lost k : Nat) : State := (s.unnoted old lost k).foldl (fun s e => s.resendNote k e) s

/-- The notes of every slot that lives. -/
def State.resendAll (s : State) (lost : Nat) : State :=
  ((List.range s.fab.cfg.n).filter s.fab.cfg.live).foldl (fun t k => t.resendSlot (s.fab.cfg.revive lost) lost k) s

theorem resendNotes_eq (h : lost ∈ s.fab.unsent) : s.resendNotes lost =
    State.hwEvent { s.resendAll lost with fab := { (s.resendAll lost).fab with unsent := (s.resendAll lost).fab.unsent.filter (· != lost) } }
      { kind := 0x16, src := srcLink, body := [(16, bytesNat 1 lost)] } := by
  have hc : (!s.fab.unsent.contains lost) = false := by simp [h]
  simp only [State.resendNotes, hc, Bool.false_eq_true, if_false, State.resendAll, State.resendSlot, State.unnoted]

theorem flows_resendAll {quiet : Prop} (s : State) (lost : Nat) : Flows quiet (fun _ => True) s (s.resendAll lost) :=
  .foldl (fun t k _ => .foldl (fun u e _ => flows_resendNote (slot := k) trivial u e) t) s

/-- Notes have been sent: directories and the home table are as they were. -/
structure Noted (s t : State) : Prop where
  cfg  : t.fab.cfg = s.fab.cfg
  dir  : ∀ k, (t.fswitch k).dir = (s.fswitch k).dir
  wire : s.fab.wire ⊆ t.fab.wire

theorem Noted.refl (s : State) : Noted s s := ⟨rfl, fun _ => rfl, List.Subset.refl _⟩

theorem Noted.trans {s t u : State} (h : Noted s t) (h' : Noted t u) : Noted s u :=
  ⟨h'.cfg.trans h.cfg, fun k => (h'.dir k).trans (h.dir k), List.Subset.trans h.wire h'.wire⟩

theorem Noted.owned {s t : State} (h : Noted s t) (k : Nat) : (t.fswitch k).owned = (s.fswitch k).owned := by
  rw [Switch.owned, h.dir, Switch.owned]

theorem noted_sendNote (s : State) (a k : Nat) (g : LineAddr) (own : Device) (st : DirState) : Noted s (s.sendNote a k g own st) ∧
    .note a k g own st ∈ (s.sendNote a k g own st).fab.wire := by
  refine ⟨⟨rfl, fun j => ?_, List.subset_append_left ..⟩, List.mem_append_right _ (List.mem_singleton.2 rfl)⟩
  rw [State.sendNote, fswitch_carry]
  by_cases hj : j = k
  · subst hj
    rw [fswitch_setSwitch]
  · rw [State.fswitch, State.setSwitch, SMap.get_set_other _ _ _ hj, State.fswitch]

/-- Where lines have alternates, to send a note again is to send it. -/
theorem resendNote_alternate {s : State} {e : DirEntry} {a : Nat} (h : s.fab.cfg.alternate e.gla = some a) (k : Nat) :
    s.resendNote k e = s.sendNote a k e.gla e.own e.st := by
  simp only [State.resendNote, h]

section
variable {g : LineAddr} {b : Nat} (hb : s.fab.cfg.alternate g = some b)
include hb

theorem noted_resendNote {t : State} (ht : Noted s t) (k : Nat) (e : DirEntry) : Noted s (t.resendNote k e) := by
  obtain ⟨a, ha⟩ := alternate_isSome hb e.gla
  rw [resendNote_alternate (by rw [ht.cfg]; exact ha)]
  exact ht.trans (noted_sendNote t a k _ _ _).1

theorem noted_resendSlot {t : State} (ht : Noted s t) (old : PartCfg) (k : Nat) : Noted s (t.resendSlot old lost k) :=
  List.foldlRecOn (motive := fun u => Noted s u) _ _ ht (fun _ hu e _ => noted_resendNote hb hu k e)

/-- Every note that the lost switch held is on its way to the line's new alternate. -/
theorem resendAll_notes {k : Nat} (hk : k < s.fab.cfg.n) (hlive : s.fab.cfg.live k = true) {e : DirEntry} (he : e ∈ (s.fswitch k).owned)
    (hold : (s.fab.cfg.revive lost).alternate e.gla = some lost) {a : Nat} (ha : s.fab.cfg.alternate e.gla = some a) :
    .note a k e.gla e.own e.st ∈ (s.resendAll lost).fab.wire := by
  have hslot : ∀ t, Noted s t → FabMsg.note a k e.gla e.own e.st ∈ (t.resendSlot (s.fab.cfg.revive lost) lost k).fab.wire := by
    intro t ht
    have hmem : e ∈ t.unnoted (s.fab.cfg.revive lost) lost k :=
      List.mem_filter.2 ⟨List.mem_append_left _ (by rw [ht.owned]; exact he), by simp [hold]⟩
    refine foldl_brings (I := fun u => Noted s u) (Q := fun u => FabMsg.note a k e.gla e.own e.st ∈ u.fab.wire) hmem
      (fun u hu f _ => noted_resendNote hb hu k f) (fun u hu => ?_) (fun u hu hq f _ => ?_) ht
    · rw [resendNote_alternate (by rw [hu.cfg]; exact ha)]
      exact (noted_sendNote u a k _ _ _).2
    · obtain ⟨c, hc⟩ := alternate_isSome hb f.gla
      rw [resendNote_alternate (by rw [hu.cfg]; exact hc)]
      exact (noted_sendNote u c k _ _ _).1.wire hq
  have hmore : ∀ t, Noted s t → ∀ j, t.fab.wire ⊆ (t.resendSlot (s.fab.cfg.revive lost) lost j).fab.wire := by
    intro t ht j
    have hbt : t.fab.cfg.alternate g = some b := by rw [ht.cfg]; exact hb
    exact (noted_resendSlot hbt (.refl t) _ j).wire
  exact foldl_brings (I := fun u => Noted s u) (Q := fun u => FabMsg.note a k e.gla e.own e.st ∈ u.fab.wire)
    (List.mem_filter.2 ⟨List.mem_range.2 hk, hlive⟩) (fun t ht j _ => noted_resendSlot hb ht _ j) hslot
    (fun t ht hq j _ => hmore t ht j hq) (.refl s)

end

end

end Sys2Proof.Machine

/-! The events of the switches and of the fabric at this device (O50). -/

namespace Sys2Proof.Machine

open Sys2Proof Sys2Proof.Claims

/-- Settles O50, event by event: what a request begins and an answer settles at a switch; at this device grants, copies given up,
sweeps, and the loss of a switch. -/
theorem fabricEvents : Obligations.FabricEvents := by
  unfold Obligations.FabricEvents
  refine ⟨⟨?_, ?_, ?_, ?_, ?_, ?_, ?_⟩, ?_, ?_, ?_, ?_, ?_, ?_, ⟨?_, ?_⟩, ?_⟩
  · intro s slot r h
    refine ⟨_, _, rfl, rfl, fun he hfree => ?_, fun e he hs => ⟨?_, fun h0 => own_alone h he hs h0, fun h0 => ?_⟩,
      fun e he ho ha => read_away h he ho ha, fun e he ho ha => ⟨?_, ?_⟩⟩
    · exact ⟨request_fresh h he hfree false, request_fresh h he hfree true⟩
    · exact read_shared h he hs
    · obtain ⟨hinv, hentry, htxn⟩ := own_sharers h he hs h0
      exact ⟨hinv, hentry, _, htxn, rfl, rfl, rfl, rfl, rfl⟩
    · obtain ⟨htold, hentry, htxn⟩ := read_owner h he ho ha
      exact ⟨htold, hentry, _, htxn, rfl, rfl, rfl, rfl⟩
    · obtain ⟨hfwd, hinv, hentry, htxn⟩ := own_owner h he ho ha
      exact ⟨hfwd, hinv, hentry, _, htxn, rfl, rfl, rfl, rfl⟩
  · intro s slot g x e dirty line h ho hacks hown
    have hdata := owner_answers h ho hacks (f := fun t => if t.owner = some e.own then t.answered line dirty else t) (if_pos hown)
    have hnone := owner_answers h ho hacks (f := fun t => if t.owner = some e.own then { t with owner := none, data := some (s.homeLine g) } else t)
      (d := s.homeLine g) (dirty := false) ((if_pos hown).trans (by simp [Txn.answered, h.clean]))
    refine ⟨_, _, rfl, rfl, ?_⟩
    split
    next how => rw [if_pos how] at hdata hnone; exact ⟨hdata, hnone⟩
    next how => rw [if_neg how] at hdata hnone; exact ⟨hdata, hnone⟩
  · intro s slot g x e port h how hown
    have hport : port.val = (portOf s.fab.cfg.devno).val ↔ port = portOf s.fab.cfg.devno := Fin.ext_iff.symm
    refine ⟨_, rfl, fun hpeer hne => ?_, fun hpeer hleft => ?_, fun hpeer hleft => ?_⟩
    · exact answer_waits h (if_pos ⟨hpeer.1, hport.2 hpeer.2⟩) rfl h.evict (by simpa [Txn.waits] using .inl (.inl hne))
    · exact acked_last h how hown hleft (if_neg (fun hp => hpeer ⟨hp.1, hport.1 hp.2⟩))
    · exact answer_waits (y := x.acked port.val) h (if_neg (fun hp => hpeer ⟨hp.1, hport.1 hp.2⟩)) rfl h.evict
        (by simpa [Txn.waits, Txn.acked, portBit] using .inl (.inl hleft))
  · intro s slot r e line he hown hst hidle
    exact ⟨_, rfl, swWriteback_spec line he hown hst hidle⟩
  · intro s alt prim g own st hlive
    obtain ⟨hwire, hnotes, hdir⟩ := swNote_spec s prim.val g own st hlive
    exact ⟨_, rfl, hwire, hnotes, hdir⟩
  · intro s prim g x e htxn hg hn he hi ha
    refine ⟨s.swNoteAck prim.val g, rfl, noteAck_unacked htxn hg hn he hi ha, fun hdue => ?_, fun hdue => ?_⟩
    · obtain ⟨hgr, hent, htx, -⟩ := noteAck_last htxn hg hn he hi ha hdue
      exact ⟨hgr, hent, htx⟩
    · rw [noteAck_waits htxn hn he hi hdue, fswitch_setSwitch]
      exact ⟨rfl, rfl, entryIs_congr rfl he, htxn⟩
  · intro s slot
    obtain ⟨hsay, hwire, hsent⟩ := notices_spec slot.val (s.fswitch slot.val).waiting s
    exact ⟨_, rfl, hsay.waiting, hwire, hsent⟩
  · intro s g st line
    exact ⟨_, _, rfl, rfl, sysLine_devGrant s g st line, fun h => ⟨devGrant_idle s g st line h, devGrantBare_idle s g h⟩,
      sysLine_devGrantBare s g, fun h hi k hk => devGrantBare_again s g h hi hk⟩
  · intro s slot g
    cases hdead : s.fab.cfg.isDead slot.val with
    | true =>
      exact ⟨s, s, s, by rw [exec_invalidation, if_pos hdead], by rw [exec_forwardRead, if_pos hdead], by rw [exec_forwardInvalidate, if_pos hdead],
        fun _ => ⟨rfl, rfl, rfl⟩, fun h => absurd (hdead.symm.trans h) (by simp), fun h => absurd (hdead.symm.trans h) (by simp)⟩
    | false =>
      have hlive : ¬ s.fab.cfg.isDead slot.val = true := by simp [hdead]
      refine ⟨s.devInvalidate slot.val g, s.devForwardRead slot.val g, s.devForwardInvalidate slot.val g, by rw [exec_invalidation, if_neg hlive],
        by rw [exec_forwardRead, if_neg hlive], by rw [exec_forwardInvalidate, if_neg hlive], fun h => absurd (hdead.symm.trans h) (by simp),
        fun _ hi => ?_, fun _ hi => ?_⟩
      · obtain ⟨hread, hinv⟩ := devForward_absent s slot.val g hi
        rw [devInvalidate_absent s slot.val g hi, hread, hinv, ← invalAck_eq]
        exact ⟨rfl, rfl, rfl⟩
      · obtain ⟨hgone, hwire⟩ := devInvalidate_spec s slot.val g hi
        obtain ⟨hvgone, hvwire⟩ := devForwardInvalidate_spec s slot.val g hi
        obtain ⟨hline, huwire⟩ := devForwardRead_spec s slot.val g hi
        exact ⟨hgone, hvgone, hwire, hline, huwire, hvwire⟩
  · intro s g
    refine ⟨_, _, rfl, rfl, sysLine_setSysLine s g _, fun h => ?_⟩
    show (s.devNotice g).sysLine g = _
    rw [State.devNotice, if_pos (Option.isSome_iff_ne_none.2 h), sysLine_setSysLine]
  · intro s first last lost hclean
    obtain ⟨n, c, hn, hfound⟩ := sweepTxn_spec s first last lost.val
    refine ⟨State.devSweep { s with freeCtr := c } first last lost.val n, ?_, fun g hf hl hw => ?_, n, hfound, ?_⟩
    · show execInvalidateAndWritebackSweep first last lost s = _
      rw [execInvalidateAndWritebackSweep, hn]
      rfl
    · obtain ⟨hst, hwb⟩ := devSweep_gaveUp (s := { s with freeCtr := c }) hclean first last lost.val n hf hl hw
      exact ⟨hst, fun hd => hwb ((dirty_iff _).2 hd)⟩
    · exact devSweep_answers (s := { s with freeCtr := c }) hclean first last lost.val n
  · intro s dev
    cases h : s.oldestSweep dev with
    | none => exact ⟨s, exec_sweepAcknowledgement_none h, fun _ => rfl, fun w hw => by simp at hw⟩
    | some w =>
      obtain ⟨hmem, hdue, hold⟩ := oldestSweep_spec h
      refine ⟨s.sweepAcked dev w.txn, exec_sweepAcknowledgement_some h, fun hno => by simp at hno, fun v hv => ?_⟩
      obtain rfl := Option.some.inj hv
      exact ⟨hmem, hdue, hold, rfl⟩
  · intro s slot w hw
    refine ⟨_, rfl, fun hl => endSweep_over hw hl, fun c d rest hc => ?_⟩
    have hslot : w.slot = slot.val := by
      have h := List.find?_some hw
      simp only [Bool.and_eq_true, beq_iff_eq] at h
      exact h.1
    rw [← hslot] at hw ⊢
    exact endSweep_goesOn hw hc
  · intro s slot bySwitch by_ hf hl
    obtain ⟨hdead, hnone, hrep, -, hsweeps⟩ := loseSwitch_spec bySwitch by_.toNat hf hl
    exact ⟨_, rfl, hdead, hnone, hrep, hsweeps⟩
  · intro s g k hpend hk hf
    obtain ⟨u, heq, hfab, hhost⟩ := declareLost_eq s k
    have hcfg : u.fab.cfg = s.fab.cfg := by rw [hfab]
    obtain ⟨hdead, hnone, hrep, hsent, hsweeps⟩ := loseSwitch_spec (s := u) (slot := k) false s.fab.cfg.devno.toNat
      (by rw [hfab]; exact hf) (by rw [hcfg]; exact primary_live hk)
    refine ⟨u.loseSwitch k false s.fab.cfg.devno.toNat, ?_, ⟨hdead, hnone, ?_, fun ⟨j, hj, hlive⟩ => ?_⟩, ?_⟩
    · rw [← heq]
      exact congrArg _ (requestTimedOut_eq hpend hk)
    · unfold Reported at hrep ⊢
      rw [← hhost]
      exact hrep
    · have hex := hsweeps ⟨j, hj, by rw [hcfg]; exact hlive⟩
      rw [hcfg, hfab] at hex
      exact hex
    · exact hsent (by rw [hfab]; exact List.mem_append_right _ (List.mem_singleton.2 rfl))
  · intro s lost h
    have hflow : Flow True (fun _ => True) s (s.resendAll lost.val) := flows_resendAll s lost.val (fun _ _ => trivial)
    refine ⟨s.resendNotes lost.val, rfl, ?_, fun haway => ?_, fun k hk hlive e he hold a ha => ?_⟩
    · rw [resendNotes_eq h, hwEvent_fab]
      simp
    · rw [resendNotes_eq h]
      refine reported_of_hold (Nat.le_of_eq ?_) (.refl _)
      exact congrArg (fun x => x.hold.length) (hflow.still trivial haway)
    · rw [resendNotes_eq h, hwEvent_fab]
      exact resendAll_notes ha hk hlive he hold ha

end Sys2Proof.Machine

/-! The machine after reset (O8). -/

namespace Sys2Proof.Machine

open Sys2Proof

theorem reset_dramByte (a : Nat) : State.reset.dramByte a = 0 := rfl

theorem reset_hostByte (a : Nat) : State.reset.hostByte a = 0 := rfl

theorem reset_bank (k : Nat) : State.reset.bank k = Bank.reset (k % 64) := rfl

/-- Settles O8: no map of the reset state lists anything, so that every lookup gives its default, which holds the reset values. -/
theorem resetState : Obligations.ResetState := by
  unfold Obligations.ResetState
  refine ⟨reset_memoryOk, fun a => ⟨reset_dramByte a, reset_hostByte a⟩, rfl, rfl, rfl, rfl, rfl, rfl, rfl, fun k => ?_,
    fun _ => ⟨rfl, rfl, rfl⟩, fun _ => rfl, fun _ => ⟨rfl, rfl⟩⟩
  rw [reset_bank]
  exact ⟨rfl, rfl, rfl⟩

end Sys2Proof.Machine

/-! A RESTORE where the map of launches lists one launch twice (O53). -/

namespace Sys2Proof.Machine

open Sys2Proof Sys2Proof.Claims

/-- The kind and the context of an event stand in bytes 4 and 12 of its block (R68). -/
theorem event_kind_ctx (e : Event) (n : Word) (hb : ∀ x ∈ e.body, 16 ≤ x.1 ∧ x.1 + x.2.length ≤ 64) :
    field (e.bytes n) 4 1 = e.kind % 256 ∧ field (e.bytes n) 12 1 = e.ctx % 256 := by
  have hfit : FieldsFit ([(0, bytesOfWord n), (4, bytesNat 1 e.kind), (5, bytesNat 1 e.src), (8, bytesOfWord e.href),
      (12, bytesNat 1 e.ctx)] ++ e.body) := by
    simp only [FieldsFit, List.forall_mem_append]
    exact ⟨by simp, fun x hx => (hb x hx).2⟩
  have hlate : ∀ i < 16, FieldsMiss i e.body := fun i hi x hx => .inl (by have := (hb x hx).1; omega)
  refine ⟨(field_block64 (k := 1) hfit rfl ?_).trans (by simp), (field_block64 (k := 4) hfit rfl ?_).trans (by simp)⟩
  · have := hlate 4 (by omega)
    simpa [FieldsMiss] using this
  · simpa using hlate 12 (by omega)

/-- What has been sent can be seen by its kind and context in the hold or in what waits for it. -/
theorem sends_seen {t : State} {e : Event} (h : Sends t e) (hb : ∀ x ∈ e.body, 16 ≤ x.1 ∧ x.1 + x.2.length ≤ 64) :
    ∃ b ∈ t.host.hold ++ t.host.waitEvts, field b 4 1 = e.kind % 256 ∧ field b 12 1 = e.ctx % 256 := by
  obtain ⟨n, hn⟩ | hw := h
  · exact ⟨_, List.mem_append_left _ hn, event_kind_ctx e n hb⟩
  · exact ⟨_, List.mem_append_right _ hw, event_kind_ctx e 0 hb⟩

/-- A launch of one team of one group in a context. -/
def twiceLaunch (ctx : Ctx) : Launch :=
  { Launch.fresh { entry := 0, tdim := (1, 1, 1), gwc := 0, ngrp := 1, nvr := 8, ntile := 0, scrb := 0, fifon := 0, prio := 0,
                   pair := false, dep := false, ctx := ctx, depva := 0, depval := 0, cmpva := 0, argp := 0 } 0 0 7 with
    queued := false }

def plainContext : Context :=
  { killed := false, resilient := false, safe := 0, safeSize := 0, interval := 0, ckpts := 0, ckptAt := 0, guarded := [], failures := 0,
    saved := none, redo := [], heldEvts := [] }

/-- RESTORE number 1 of a safe-tier area at 0, as large as the header's area and 1 TiB. -/
def restoreCueBytes : List Byte := block64 [(0, bytesNat 4 1), (4, bytesNat 1 8), (24, bytesNat 8 (2 ^ 40 + 65536))]

/-- The image's header in host memory (R83): magic, version 1, device bytes, MiB of each die. -/
def restoreHeader : Memory :=
  [(0, 0x50), (1, 0x4B), (2, 0x43), (3, 0x5A), (4, 1), (13, 1), (18, 2), (26, 2), (34, 2), (42, 2), (50, 2), (58, 2), (66, 2), (74, 2)]

/-- A device in service with contexts 1 and 2, the cue next on die 0. Its map of launches is not in canonical form: it lists launch 1
twice, first as one of context 2, which a lookup finds, then as one of context 1. -/
def twiceState : State :=
  { State.reset with
    pkg := { State.reset.pkg with dieReset := false, mode := 3 }
    contexts := [(1, some plainContext), (2, some plainContext)]
    launches := [(1, some (twiceLaunch 2)), (1, some (twiceLaunch 1))]
    dies := [(0, { DieState.reset with cues := [restoreCueBytes] })]
    host := { State.reset.host with mem := restoreHeader } }

theorem twiceState_next : NextCue twiceState 0 0x08 restoreCueBytes [] := by
  constructor <;> decide +kernel

def twiceRestored : State := twiceState.withCue 0 (isKind 0x08) (fun cue => bodyZero cue [(16, 16)]) (fun cue s => s.restoreCue 0 cue)

theorem exec_cueRestore_twice : exec (.cueRestore 0) twiceState = .next twiceRestored := rfl

/-- Failing context 1 took both entries of the launch away, so that no LAUNCH_DONE tells of the launch of context 2. -/
theorem twiceRestored_tells : ∀ b ∈ twiceRestored.host.hold ++ twiceRestored.host.waitEvts, ¬(field b 4 1 = 3 ∧ field b 12 1 = 2) := by
  decide +kernel

/-- Refutes O53 in what a RESTORE reports: that each launch of a context that it ends is answered with LAUNCH_DONE fails in a state whose
map of launches is not in canonical form (`SMap.wf`), which the statement does not exclude. `twiceState` lists launch 1 twice, and the end
of context 1 takes with its own entry the one of context 2. -/
theorem not_cueEvents : ¬ Obligations.CueEvents := by
  unfold Obligations.CueEvents
  rintro ⟨-, -, -, -, -, -, -, hstream, -⟩
  obtain ⟨-, hrestore⟩ := hstream twiceState 0 restoreCueBytes [] (by decide +kernel)
  obtain ⟨t, ht, hdone⟩ := hrestore twiceState_next
  rw [exec_cueRestore_twice] at ht
  obtain rfl : twiceRestored = t := by simpa using ht
  rw [if_pos (by decide +kernel)] at hdone
  obtain ⟨-, -, -, hreports⟩ := hdone.2 2 (by decide) (by decide)
  obtain ⟨-, hsent⟩ := hreports 1 (twiceLaunch 2) rfl rfl
  obtain ⟨b, hb, hkind, hctx⟩ := sends_seen hsent (by simp [bytes64])
  exact twiceRestored_tells b hb ⟨hkind, hctx⟩

end Sys2Proof.Machine

/-! Partition reset where the map of system-scope lines lists a key beyond the 41 bits of a line address (O54). -/

namespace Sys2Proof.Machine

open Sys2Proof Sys2Proof.Claims

/-- The range that is reset begins at the first address of window 10. -/
def wrapBase : VA := 0xA000000000000

/-- A leaf of 1 GiB pages whose frame lies at line 2²¹ of device memory. -/
def wrapLeaf : DWord := 0xC000000040008000

/-- Device memory holds the tables that lead from the root of tag 0 to `wrapLeaf` for window 10. -/
def wrapTables : Memory :=
  [(0, 1), (1, 16), (111669149697, 200), (111669149703, 128), (156766306305, 204), (156766306311, 128), (225485783041, 128),
   (225485783043, 64), (225485783047, 192)]

/-- A copy, dirty in byte 0, of the memory that homes the first line of the range. -/
def wrapCopy : L2Line :=
  { st := .e, wts := 0, rts := 0, attr := leafAttr wrapLeaf, loc := 2 ^ 21, dirty := 1, data := 0, touched := 0 }

/-- A partition in force. Its map of lines lists the key 2⁴¹, which no line address has: a lookup finds no line, and what goes through
the list takes the entry for one of line 0. -/
def wrapState : State :=
  { State.reset with
    fab := { Fabric.reset with inForce := true, lines := [(2 ^ 41, some { SysLine.none with st := .m })] }
    mem := { State.reset.mem with dram := wrapTables }
    l2 := [(0, some wrapCopy)] }

/-- A line of the range is rewritten to zero where this device homes it (R116). -/
def zeroHomed (s : State) (g : LineAddr) : State :=
  if homeDevice g = s.fab.cfg.devno then
    match s.homeKey g with
    | some k => s.zeroLine k
    | none => s
  else s

def wrapLost : List LineAddr := (List.range 512).map (fun i => globalOf wrapBase + BitVec.ofNat 41 i)

def wrapEvent : Event :=
  { kind := 0x23, src := srcIo, body := [(16, bytesNat 8 wrapBase.toNat), (24, bytesNat 1 (homeDevice (globalOf wrapBase)).toNat)] }

/-! ### What comes before the zeroing finds nothing -/

theorem wrap_l2At {va : VA} (hw : windowOf va = 10) (d : Nat) : wrapState.l2At (l2Key d 0 va) = none := by
  have : va.toNat / 2 ^ 48 = 10 := by simpa [windowOf] using hw
  have hk : ¬l2Key d 0#8 va = 0 := by
    simp only [l2Key, lineNo, BitVec.toNat_ofNat]
    omega
  simp [State.l2At, wrapState, SMap.get, hk]

theorem wrap_sysLine (g : LineAddr) : wrapState.sysLine g = .none := by
  have hg : ¬g.toNat = 2199023255552 := by omega
  simp [State.sysLine, wrapState, SMap.get, hg]

/-- No L2 holds a line of window 10, and no lookup finds one in the map of lines. -/
theorem wrap_forgetSys (g : LineAddr) : wrapState.forgetSys g = wrapState := by
  have hw : windowOf (fabricVa g) = 10 := by
    simp only [windowOf, fabricVa]
    bv_omega
  have hg : ¬2199023255552 = g.toNat := by omega
  have hset : wrapState.setSysLine g .none = wrapState := by
    simp [State.setSysLine, wrapState, SMap.set, SMap.erase, hg]
  rw [State.forgetSys, dropL2_absent (wrap_l2At hw _), wrap_sysLine]
  exact hset

theorem wrap_removeSpan : wrapState.removeSpan { ctx := none, first := 10 * 2 ^ 48, len := 2 ^ 48 } = wrapState := rfl

theorem wrap_reset : wrapState.resetPartition wrapBase = (wrapLost.foldl zeroHomed wrapState).hwEvent wrapEvent := by
  have hctx : (wrapState.contextTags.filter (fun c => wrapState.descriptor c 32 1 != 0)) = [] := rfl
  have hbase : rangeBase wrapBase = wrapBase := by decide
  simp only [State.resetPartition, hctx, hbase, List.foldl_nil]
  rw [List.foldl_fixed' wrap_forgetSys, wrap_removeSpan]
  rfl

/-! ### Zeroing the first line revives it -/

/-- The dirty byte of the copy goes home, and with it to every listed line of that memory: so the entry comes to stand for line 0. -/
theorem wrap_first : ((zeroHomed wrapState 0).sysLine 0).st = .m ∧ (zeroHomed wrapState 0).l2 = [] := by
  decide +kernel

/-- Line 0 is held in M, and no L2 holds a line. -/
def Revived (s : State) : Prop := (s.sysLine 0).st = .m ∧ s.l2 = []

theorem Revived.of_eq {s t : State} (h : Revived s) (hfab : t.fab = s.fab) (hl2 : t.l2 = s.l2) : Revived t :=
  ⟨by simpa [State.sysLine, hfab] using h.1, hl2.trans h.2⟩

theorem setDramBytes_fab (s : State) (k : Nat) (bs : List (Nat × Byte)) : (s.setDramBytes k bs).fab = s.fab :=
  foldl_fab (f := fun t (e : Nat × Byte) => t.setDram (k + e.1) e.2) (fun t _ => setDram_fab t _ _) bs s

/-- With no copy left there is none to remove. -/
theorem revived_zeroLine {s : State} (h : Revived s) (k : Nat) : Revived (s.zeroLine k) := by
  have hcopies : s.removeCopies k = s.setDieEntry k { st := .i, sharers := 0, owner := 0, touched := 0 } := by
    simp [State.removeCopies, State.copiesOf, h.2]
  refine h.of_eq ?_ (by simp [State.zeroLine, hcopies])
  simp only [State.zeroLine, hcopies, setDramBytes_fab, setDieEntry_fab]

theorem revived_zeroHomed {s : State} (h : Revived s) (g : LineAddr) : Revived (zeroHomed s g) := by
  unfold zeroHomed
  split
  · split
    · exact revived_zeroLine h _
    · exact h
  · exact h

theorem hwEvent_l2 (s : State) (e : Event) : (s.hwEvent e).l2 = s.l2 := by unfold State.hwEvent; split <;> rfl

theorem wrap_revived : Revived (wrapState.resetPartition wrapBase) := by
  have hlost : wrapLost = 0 :: ((List.range 511).map Nat.succ).map (fun i => globalOf wrapBase + BitVec.ofNat 41 i) := by
    rw [wrapLost, show 512 = 511 + 1 from rfl, List.range_succ_eq_map, List.map_cons]
    congr 1
  rw [wrap_reset, hlost, List.foldl_cons]
  have hzeroed := List.foldlRecOn (motive := Revived) (((List.range 511).map Nat.succ).map (fun i => globalOf wrapBase + BitVec.ofNat 41 i))
    zeroHomed wrap_first (fun _ hs g _ => revived_zeroHomed hs g)
  exact hzeroed.of_eq (hwEvent_fab _ _) (hwEvent_l2 _ _)

theorem exec_partitionReset (base : VA) (s : State) : exec (.partitionReset base) s = .next (s.resetPartition base) := rfl

/-- Refutes O54 in what a partition reset leaves: that this device holds no line of the range fails in a state whose map of
system-scope lines lists a key that is no line address, which the statement does not exclude. The entry at 2⁴¹ of `wrapState` is met as
line 0 when the copy's dirty byte is written home, and this device then holds line 0 in M. -/
theorem not_streamAndContainmentEvents : ¬ Obligations.StreamAndContainmentEvents := by
  unfold Obligations.StreamAndContainmentEvents
  rintro ⟨-, -, -, -, -, hreset, -⟩
  obtain ⟨t, ht, -, hgone, -⟩ := hreset wrapState wrapBase
  rw [exec_partitionReset] at ht
  obtain rfl : wrapState.resetPartition wrapBase = t := by simpa using ht
  have hline : globalOf (wrapBase &&& ~~~0xFFFF) + BitVec.ofNat 41 0 = 0 := by decide
  have hi := hgone 0 (by decide)
  rw [hline, wrap_revived.1] at hi
  exact absurd hi (by decide)

end Sys2Proof.Machine

/-! A placement where the map of groups lists a removed group before a listed one of the same key (O59). -/

namespace Sys2Proof.Machine

open Sys2Proof Sys2Proof.Claims

/-- A launch of one team of one group on a pair of cores, in context 1. -/
def pairBlock : LaunchBlock :=
  { entry := 0, tdim := (1, 1, 1), gwc := 0, ngrp := 1, nvr := 8, ntile := 0, scrb := 0, fifon := 0, prio := 0, pair := true, dep := false,
    ctx := 1, depva := 0, depval := 0, cmpva := 0, argp := 0 }

def pairLaunch : Launch := { Launch.fresh pairBlock 0 0 7 with ready := true }

/-- A group of context 1, in the shadow of core 0 in slot 0 of quarter 0. -/
def shadowGroup : Group :=
  { Group.start { die := 0, core := 0, quarter := 0, slot := 0 } pairBlock 9 0 0 0 0 0 with place := .pending }

/-- Launch 1 is queued on die 0, and core 0 keeps a shadow of its context. The map of groups is not in canonical form: it lists the key of
slot 0 twice, first with no group, so that a lookup finds the slot free while the list still shows the shadow's group. -/
def hiddenState : State :=
  { State.reset with
    cores := [(0, { Core.reset with shadows := [{ ctx := 1, since := 0 }] })]
    groups := [(0, none), (0, some shadowGroup)]
    launches := [(1, some pairLaunch)]
    dies := [(0, { DieState.reset with queues := [(0, [1])] })] }

theorem hidden_urgency : hiddenState.urgency 0 = [(1, pairLaunch)] := by rfl

/-- A lookup finds no group in any slot. -/
theorem hidden_group (k : Nat) : hiddenState.group? k = none := by
  simp only [State.group?, hiddenState, SMap.get]
  split <;> rfl

/-- The shadow's group, met in the list, comes first into slot 0, and the team's group takes slot 1. -/
theorem hidden_placed :
    ((hiddenState.stage 0).team? (teamKey (BitVec.ofNat 32 1) pairLaunch.nextTeam)).map (fun tm => tm.groups) = some [1] := by
  decide +kernel

theorem exec_placement (die : Die) (s : State) : exec (.placement die) s = .next (s.stage die.val) := rfl

/-- Refutes O59 in the slot that a placed group takes: that it is the lowest of the quarter, every slot being free to a lookup, fails in a
state whose map of groups is not in canonical form (`SMap.wf`), which the statement does not exclude. In `hiddenState` the shadow's group
comes back to slot 0 before the group of the team is placed. -/
theorem not_launchAndPlacementEvents : ¬ Obligations.LaunchAndPlacementEvents := by
  unfold Obligations.LaunchAndPlacementEvents
  rintro ⟨-, -, -, -, -, -, -, hplace, -⟩
  obtain ⟨-, -, t, tm, ht, -, -, -, hteam, -, -, -, -, -, -, -, -, hgroups⟩ := hplace hiddenState 0 1 0 pairLaunch [] (by decide)
    hidden_urgency (fun e he => by
      obtain rfl : e = (1, pairLaunch) := by simpa [hidden_urgency] using he
      decide)
    rfl (by decide +kernel) (by decide +kernel) (fun _ _ _ _ _ _ => hidden_group _)
  rw [exec_placement] at ht
  obtain rfl : hiddenState.stage 0 = t := by simpa using ht
  have hone := hidden_placed
  rw [hteam, Option.map_some, Option.some.injEq] at hone
  obtain ⟨hslot, -⟩ := hgroups 0 (by decide)
  rw [hone] at hslot
  exact absurd hslot (by decide)

end Sys2Proof.Machine

/-! The host interface: what an access of the management window, a write of a ring register and the events of the ring do (R57 to R61,
R70 to R73). -/

namespace Sys2Proof.Machine

open Sys2Proof Sys2Proof.Claims

/-! ### While the package has power, an access goes through -/

theorem ifPowered_on {s : State} (h : s.pkg.powered = true) (f : State → State) : s.ifPowered f = f s := if_pos h

theorem ifPowered_off {s : State} (h : s.pkg.powered = false) (f : State → State) : s.ifPowered f = s := by simp [State.ifPowered, h]

section
variable {s : State} (hp : s.pkg.powered = true)
include hp

theorem exec_managementAccess (write : Bool) (o : BitVec 16) (v : Word) :
    exec (.managementAccess write o v) s = .next (s.manage write o.toNat v 0) := congrArg _ (ifPowered_on hp _)

theorem exec_evtAckWrite (v : Word) : exec (.evtAckWrite v) s = .next (s.ackEvents v) := congrArg _ (ifPowered_on hp _)

theorem exec_evtReplayWrite (v : Word) : exec (.evtReplayWrite v) s = .next (s.replayFrom v) := congrArg _ (ifPowered_on hp _)

theorem exec_eventRingConfig (r : RingReg) (v : Word) : exec (.eventRingConfig r v) s = .next (s.ringConfig r v) :=
  congrArg _ (ifPowered_on hp _)

theorem exec_hmwSelWrite (v : Word) : exec (.hmwSelWrite v) s = .next (s.selectWindow v) := congrArg _ (ifPowered_on hp _)

theorem exec_mscmodeWrite (v : Word) : exec (.mscmodeWrite v) s = .next (s.writeMscmode v) := congrArg _ (ifPowered_on hp _)

theorem exec_plimWrite (d : Die) (v : Word) : exec (.plimWrite d v) s = .next (s.writePlim d.val v.toNat) :=
  congrArg _ (ifPowered_on hp _)

theorem exec_hostMemoryRead (off : BitVec 48) : exec (.hostMemoryRead off) s = .next (s.hostAsks (.read (s.hostVa off) 0)) :=
  congrArg _ (ifPowered_on hp _)

theorem exec_hostMemoryWrite (off : BitVec 48) (en : BitVec 128) (line : Line) :
    exec (.hostMemoryWrite off en line) s = .next (s.hostAsks (.write (s.hostVa off) (enabledBytes en line) 0)) :=
  congrArg _ (ifPowered_on hp _)

end

/-! ### The management window -/

/-- A register that the host only writes, and an offset with none, read as zero. -/
theorem manageRead_none (s : State) {o : Nat}
    (h : o % 4 ≠ 0 ∨ o ∈ [0x04, 0x18, 0x1C, 0x2C, 0x34, 0x38, 0x3C, 0x4C] ∨ 0x3400 ≤ o) : s.manageRead o = 0 := by
  obtain h | h | h := h
  · simp [State.manageRead, h]
  · simp only [List.mem_cons, List.not_mem_nil, or_false] at h
    obtain rfl | rfl | rfl | rfl | rfl | rfl | rfl | rfl := h <;> simp [State.manageRead]
  · have hlow : ∀ k, k < 0x3400 → o ≠ k := fun k hk he => by omega
    have hspan : ∀ a b, b ≤ 0x3400 → ¬(a ≤ o ∧ o < b) := fun a b hb he => by omega
    simp [State.manageRead, hlow, hspan]

/-- A write of a register that the host only reads, or of none, changes nothing. -/
theorem manageWrite_none (s : State) {o : Nat} (v : Word)
    (h : o ∈ [0x00, 0x04, 0x08, 0x0C, 0x10, 0x1C, 0x50, 0x140] ∨ (0x120 ≤ o ∧ o < 0x140) ∨ 0x144 ≤ o) : s.manageWrite o v = s := by
  obtain h | h := h
  · simp only [List.mem_cons, List.not_mem_nil, or_false] at h
    obtain rfl | rfl | rfl | rfl | rfl | rfl | rfl | rfl := h <;> simp [State.manageWrite]
  · have ho : 0x120 ≤ o := by omega
    have hlow : ∀ k, k < 0x120 → o ≠ k := fun k hk he => by omega
    simp [State.manageWrite, hlow, Nat.not_lt.2 ho]

/-- A write of a limit register writes the limit of its die. -/
theorem manageWrite_plim (s : State) (d : Die) (v : Word) : s.manageWrite (0x100 + 4 * d.val) v = s.writePlim d.val v.toNat := by
  have hd := d.isLt
  have hlow : ∀ k, k < 0x100 → 0x100 + 4 * d.val ≠ k := fun k hk he => by omega
  have hn : (0x100 + 4 * d.val - 0x100) / 4 = d.val := by omega
  simp only [State.manageWrite, hlow, hn, if_false, Nat.reduceLT]
  rw [if_pos (by omega)]


/-! ### The registers of the ring (R70 to R73) -/

@[simp] theorem postOnce_host (s : State) (e : Instr) : (s.postOnce e).host = s.host := by unfold State.postOnce; split <;> rfl

/-- What is posted once stands in the agenda. -/
theorem mem_postOnce (s : State) (e : Instr) : e ∈ (s.postOnce e).agenda := by
  unfold State.postOnce
  split
  next h => exact List.contains_iff_mem.1 h
  next => simp [State.post]

theorem writesDue_postOnce (s : State) : WritesDue (s.postOnce .eventWrite) := mem_postOnce s _

/-- EVENTS_DROPPED (R70). -/
def droppedEvent (n : Nat) : Event := { kind := 0x0D, src := srcIo, body := [(16, bytesNat 4 n)] }

/-- The count of dropped events is told where there is one and the hold has room. -/
theorem tellDropped_told {s : State} (h : 0 < s.host.dropped ∧ s.host.hold.length < holdSize) : s.tellDropped.host = { s.host with
    dropped := 0
    evtNext := s.host.evtNext + 1
    hold := s.host.hold ++ [(droppedEvent s.host.dropped).bytes s.host.evtNext] } := by
  rw [State.tellDropped, if_pos h]
  rfl

theorem tellDropped_kept {s : State} (h : ¬(0 < s.host.dropped ∧ s.host.hold.length < holdSize)) : s.tellDropped = s := if_neg h

/-- The host has consumed events up to `v`, which may make room for that count. -/
theorem ackEvents_told {s : State} (v : Word) (h : 0 < s.host.dropped ∧ s.host.hold.length < holdSize) : (s.ackEvents v).host =
    { s.host with
      evtAck := v
      dropped := 0
      evtNext := s.host.evtNext + 1
      hold := s.host.hold ++ [(droppedEvent s.host.dropped).bytes s.host.evtNext] } :=
  (postOnce_host _ _).trans (tellDropped_told (s := s.mapHost _) h)

theorem ackEvents_kept {s : State} (v : Word) (h : ¬(0 < s.host.dropped ∧ s.host.hold.length < holdSize)) :
    (s.ackEvents v).host = { s.host with evtAck := v } :=
  (postOnce_host _ _).trans (congrArg State.host (tellDropped_kept (s := s.mapHost (fun x => { x with evtAck := v })) h))

/-- REPLAY_GAP: the host asked for event `n`, and the oldest that is kept is `old` (R73). -/
def gapEvent (old n : Word) : Event := { kind := 0x0C, src := srcIo, body := [(16, bytesOfWord old), (20, bytesOfWord n)] }

/-- Which event the store keeps under a number. -/
theorem stored_isSome {s : State} {n : Word} (h : ∃ x ∈ s.host.store, BitVec.ofNat 32 (field x 0 4) = n) :
    (s.host.stored n).isSome = true := by
  obtain ⟨x, hx, hn⟩ := h
  rw [HostIf.stored, List.find?_isSome]
  exact ⟨x, hx, beq_iff_eq.2 hn⟩

theorem stored_isNone {s : State} {n : Word} (h : ∀ x ∈ s.host.store, BitVec.ofNat 32 (field x 0 4) ≠ n) :
    (s.host.stored n).isSome = false := by
  rw [Option.isSome_eq_false_iff, HostIf.stored, Option.isNone_iff_eq_none, List.find?_eq_none]
  exact fun x hx hn => h x hx (beq_iff_eq.1 hn)

section
variable {s : State} {n : Word}

theorem replayFrom_ahead (h : 1 < (n - s.host.evtSent).toInt) : s.replayFrom n = s := if_pos h

theorem replayFrom_next (h : (n - s.host.evtSent).toInt = 1) :
    (s.replayFrom n).host = { s.host with evtAck := s.host.evtSent, replayAt := none } := by
  rw [State.replayFrom, if_neg (by omega), if_pos h, postOnce_host]
  rfl

theorem replayFrom_stored (h : (n - s.host.evtSent).toInt ≤ 0) (hx : (s.host.stored n).isSome = true) :
    s.replayFrom n = (s.mapHost (fun h => { h with evtAck := n - 1, replayAt := some n })).postOnce .eventWrite := by
  rw [State.replayFrom, if_neg (by omega), if_neg (by omega), if_pos hx]

/-- The events from the oldest kept on are written again, behind word of the gap. -/
theorem replayFrom_gap {x : List Byte} {xs : List (List Byte)} (h : (n - s.host.evtSent).toInt ≤ 0) (hx : (s.host.stored n).isSome = false)
    (hs : s.host.store = x :: xs) : s.replayFrom n =
      ((s.mapHost (fun h => { h with evtAck := eventNo x - 1, replayAt := some (eventNo x) })).hwEvent (gapEvent (eventNo x) n)).postOnce
        .eventWrite := by
  rw [State.replayFrom, if_neg (by omega), if_neg (by omega), if_neg (by simp [hx]), hs]
  rfl

end

/-- What a hardware event does to the hold (R70). -/
theorem hwEvent_host_room {s : State} (e : Event) (h : s.host.hold.length < holdSize) : (s.hwEvent e).host = { s.host with
    evtNext := s.host.evtNext + 1
    hold := s.host.hold ++ [e.bytes s.host.evtNext] } := by
  rw [State.hwEvent, if_pos h]
  rfl

theorem hwEvent_host_full {s : State} (e : Event) (h : holdSize ≤ s.host.hold.length) :
    (s.hwEvent e).host = { s.host with dropped := s.host.dropped + 1 } := by
  rw [State.hwEvent, if_neg (by omega)]

theorem ringConfig_size {s : State} {v : Word} (h : ¬(v.toNat < 6 ∨ 16 < v.toNat)) :
    s.ringConfig .size v = (s.mapHost (fun h => { h with size := v, ringOk := true })).postOnce .eventWrite := if_neg h

theorem ringConfig_size_bad {s : State} {v : Word} (h : v.toNat < 6 ∨ 16 < v.toNat) : s.ringConfig .size v = s := if_pos h

theorem ringConfig_base {s : State} {v : Word} (h : v.toNat % 64 = 0) :
    s.ringConfig .baseLo v = { s with host := { s.host with baseLo := v, ringOk := false } } := if_neg (by simpa using h)

theorem ringConfig_base_bad {s : State} {v : Word} (h : v.toNat % 64 ≠ 0) : s.ringConfig .baseLo v = s := if_pos h

/-! ### Bytes written at consecutive places -/

/-- Where what is written at each offset is one function of it, a place written to reads so. -/
theorem get_foldl_set {f : Nat → Byte} {bs : List (Nat × Byte)} (hf : ∀ e ∈ bs, e.2 = f e.1) (base : Nat) (m : SMap Byte) {j : Nat}
    (hj : (∃ e ∈ bs, e.1 = j) ∨ SMap.get 0 m (base + j) = f j) :
    SMap.get 0 (bs.foldl (fun m e => SMap.set 0 m (base + e.1) e.2) m) (base + j) = f j := by
  induction bs generalizing m with
  | nil => simpa using hj
  | cons e bs ih =>
    refine ih (fun x hx => hf x (List.mem_cons_of_mem _ hx)) _ ?_
    by_cases he : e.1 = j
    · right
      show SMap.get 0 (SMap.set 0 m (base + e.1) e.2) (base + j) = f j
      rw [he, SMap.get_set_same, hf e (List.mem_cons_self ..), he]
    · obtain ⟨x, hx, hxj⟩ | hm := hj
      · exact .inl ⟨x, (List.mem_cons.1 hx).resolve_left (fun h => he (h ▸ hxj)), hxj⟩
      · exact .inr ((SMap.get_set_other _ _ _ (by omega)).trans hm)

theorem setHostBytes_eq (s : State) (a : Nat) (bs : List (Nat × Byte)) : s.setHostBytes a bs =
    { s with host := { s.host with mem := bs.foldl (fun m e => SMap.set 0 m (a + e.1) e.2) s.host.mem } } := by
  induction bs generalizing s with
  | nil => rfl
  | cons e bs ih => exact ih (s.setHost (a + e.1) e.2)

/-- The place of event `n` in host memory (R72). -/
def HostIf.slot (h : HostIf) (n : Word) : Nat := h.baseLo.toNat + 2 ^ 32 * h.baseHi.toNat + n.toNat % 2 ^ h.size.toNat * 64

/-- Host memory with the bytes of an event in its slot. -/
def HostIf.withEvent (h : HostIf) (n : Word) (x : List Byte) : Memory :=
  (x.zipIdx.map (fun e => (e.2, e.1))).foldl (fun m e => SMap.set 0 m (h.slot n + e.1) e.2) h.mem

theorem putRing_eq (s : State) (n : Word) (x : List Byte) :
    s.putRing n x = { s with host := { s.host with mem := s.host.withEvent n x } } := setHostBytes_eq s _ _

theorem withEvent_byte (h : HostIf) (n : Word) (x : List Byte) {j : Nat} (hj : j < x.length) :
    SMap.get 0 (h.withEvent n x) (h.slot n + j) = x.getD j 0 := by
  refine get_foldl_set (f := fun j => x.getD j 0) (fun e he => ?_) (h.slot n) h.mem (.inl ⟨(j, x[j]), ?_, rfl⟩)
  · obtain ⟨⟨b, i⟩, hb, rfl⟩ := List.mem_map.1 he
    rw [List.mem_zipIdx_iff_getElem?] at hb
    simp [hb]
  · exact List.mem_map.2 ⟨(x[j], j), by simp [List.mem_zipIdx_iff_getElem?], rfl⟩

/-! ### Writing an event (R70, R73) -/

/-- The ring is configured, the IHL is up, the host has accepted every write, and no read or atomic of the ring is under way. -/
def RingReady (s : State) : Prop :=
  s.host.ringOk = true ∧ s.ihlUp = true ∧ s.ringBusy = false ∧ ∀ r ∈ s.host.inFlight, r.write = false

theorem ringReady_iff (s : State) :
    (!s.host.ringOk || !s.ihlUp || s.host.inFlight.any (fun r => r.write) || s.ringBusy) = false ↔ RingReady s := by
  simp only [Bool.or_eq_false_iff, Bool.not_eq_false', List.any_eq_false, Bool.not_eq_true, RingReady]
  tauto

theorem room_iff (h : HostIf) (n : Word) : h.room n = true ↔ (n - h.evtAck).toNat < 2 ^ h.size.toNat := decide_eq_true_iff

theorem eventWrite_idle {s : State} (h : ¬RingReady s) : s.eventWrite = s := by
  rw [← ringReady_iff, Bool.not_eq_false] at h
  exact if_pos h

/-- What enters the hold leaves the ring, the replay store and host memory as they are. -/
def RingKept (h h' : HostIf) : Prop := h'.evtSent = h.evtSent ∧ h'.intr = h.intr ∧ h'.mem = h.mem ∧ h'.store = h.store

theorem RingKept.trans {h h' h'' : HostIf} (a : RingKept h h') (b : RingKept h' h'') : RingKept h h'' := by
  obtain ⟨a1, a2, a3, a4⟩ := a
  obtain ⟨b1, b2, b3, b4⟩ := b
  exact ⟨b1.trans a1, b2.trans a2, b3.trans a3, b4.trans a4⟩

theorem ringKept_tellDropped (s : State) : RingKept s.host s.tellDropped.host := by
  unfold State.tellDropped
  split <;> exact ⟨rfl, rfl, rfl, rfl⟩

theorem ringKept_letIn (n : Nat) (s : State) : RingKept s.host (s.letIn n).host := by
  induction n generalizing s with
  | zero => exact ⟨rfl, rfl, rfl, rfl⟩
  | succ n ih =>
    unfold State.letIn
    split
    · exact ⟨rfl, rfl, rfl, rfl⟩
    · split
      · exact RingKept.trans ⟨rfl, rfl, rfl, rfl⟩ (ih _)
      · exact ⟨rfl, rfl, rfl, rfl⟩

theorem ringKept_refill (s : State) : RingKept s.host s.refill.host := (ringKept_tellDropped s).trans (ringKept_letIn _ _)

/-- Nothing waits for room in the hold. -/
theorem refill_none {s : State} (hd : s.host.dropped = 0) (hw : s.host.waitEvts = []) : s.refill = s := by
  rw [State.refill, tellDropped_kept (by omega), hw]
  rfl

/-- The state when the oldest event has been written, before what waits for its place in the hold. -/
def State.eventPut (s : State) (x : List Byte) : State := { s with host := { s.host with
  mem := s.host.withEvent (eventNo x) x
  intr := true
  hold := s.host.hold.drop 1
  evtSent := eventNo x
  store := (s.host.store ++ [x]).drop (s.host.store.length + 1 - storeSize) } }

theorem writeEvent_host (s : State) (x : List Byte) : (s.writeEvent x).host = (s.eventPut x).refill.host := by
  rw [State.writeEvent, postOnce_host, putRing_eq]
  rfl

/-- The replayed flag of an event is bit 0 of its byte 6 (R68, R73). -/
theorem getD_replayed {x : List Byte} (hx : x.length = 64) (b : Byte) {j : Nat} (hj : j < 64) :
    (overlay x 6 [b]).getD j 0 = if j = 6 then b else x.getD j 0 := by
  have h := getElem?_overlay (bs := x) (xs := [b]) (off := 6) (by simp [hx]) j
  rw [List.getD_eq_getElem?_getD, h]
  by_cases h6 : j = 6
  · simp [h6]
  · rw [if_neg (by simp; omega), if_neg h6, List.getD_eq_getElem?_getD]

theorem replayEvent_host {s : State} {n : Word} {x : List Byte} (hx : s.host.stored n = some x) : (s.replayEvent n).host = { s.host with
    mem := s.host.withEvent n (overlay x 6 [BitVec.ofNat 8 (field x 6 1 ||| 1)])
    intr := true
    replayAt := if n = s.host.evtSent then none else some (n + 1) } := by
  rw [State.replayEvent, postOnce_host]
  simp only [hx, putRing_eq]
  rfl

section
variable {s : State} (h : RingReady s)
include h

theorem eventWrite_hold {x : List Byte} {xs : List (List Byte)} (hr : s.host.replayAt = none) (hx : s.host.hold = x :: xs) :
    s.eventWrite = if s.host.room (eventNo x) then s.writeEvent x else s := by
  rw [State.eventWrite, if_neg (by rw [(ringReady_iff s).2 h]; decide), hr, hx]

theorem eventWrite_full {x : List Byte} {xs : List (List Byte)} (hr : s.host.replayAt = none) (hx : s.host.hold = x :: xs)
    (hroom : ¬(eventNo x - s.host.evtAck).toNat < 2 ^ s.host.size.toNat) : s.eventWrite = s := by
  rw [eventWrite_hold h hr hx, if_neg (mt (room_iff _ _).1 hroom)]

theorem eventWrite_writes {x : List Byte} {xs : List (List Byte)} (hr : s.host.replayAt = none) (hx : s.host.hold = x :: xs)
    (hroom : (eventNo x - s.host.evtAck).toNat < 2 ^ s.host.size.toNat) : s.eventWrite = s.writeEvent x := by
  rw [eventWrite_hold h hr hx, if_pos ((room_iff _ _).2 hroom)]

theorem eventWrite_replays {n : Word} (hr : s.host.replayAt = some n) (hroom : (n - s.host.evtAck).toNat < 2 ^ s.host.size.toNat) :
    s.eventWrite = s.replayEvent n := by
  rw [State.eventWrite, if_neg (by rw [(ringReady_iff s).2 h]; decide), hr]
  exact if_pos ((room_iff _ _).2 hroom)

end

/-! ### Interrupts (R70) -/

theorem sendIntr_due {s : State} (hi : s.host.intr = true) (ht : s.host.intrAt ≤ s.clk) :
    s.sendIntr = { s with host := { s.host with intr := false, intrs := s.host.intrs + 1, intrAt := s.clk + 2800 } } := by
  rw [State.sendIntr, if_pos (by simp [hi, ht])]
  rfl

theorem sendIntr_early {s : State} (h : s.host.intr = false ∨ s.clk < s.host.intrAt) : s.sendIntr = s := by
  refine if_neg ?_
  obtain h | h := h
  · simp [h]
  · simp [Nat.not_le.2 h]

/-! ### Requests of the memory window wait in their order (R61, R63) -/

theorem hostAsks_behind {s : State} (r : HostReq) (h : s.host.window ≠ []) : s.hostAsks r = s.waitReq r := by
  simp [State.hostAsks, h]

section
variable {s : State} (hw : s.host.window = [])
include hw

theorem waitReq_first (r : HostReq) : s.waitReq r = { s with host := { s.host with window := [r] } } := by
  simp [State.waitReq, State.mapHost, hw]

/-- A thermal trip has stopped the clocks of the core dies (R27). -/
theorem hostAsks_tripped (r : HostReq) (h : s.pkg.tripped ≠ none) : s.hostAsks r = s.waitReq r := by
  simp [State.hostAsks, hw, State.performReq, Option.isSome_iff_ne_none.2 h]

theorem hostAsks_done {r : HostReq} {t : State} (h : s.performReq r = (t, true)) : s.hostAsks r = t := by
  simp [State.hostAsks, hw, h]

theorem hostAsks_wait {r : HostReq} {t : State} (h : s.performReq r = (t, false)) : s.hostAsks r = t.waitReq r := by
  simp [State.hostAsks, hw, h]

end

end Sys2Proof.Machine

/-! A write at a home slice that need not wait is performed: making room for its line moves nothing that has a dirty byte, so that no
sweep begins (R129, R130, R132, R137). -/

namespace Sys2Proof.Machine

open Sys2Proof Sys2Proof.Claims

/-! ### What the memory-side cache does stays in memory (R107, R108) -/

theorem foldl_mscLeave_eq (ys : List MscLine) (s : State) : ∃ m, ys.foldl State.mscLeave s = { s with mem := m } :=
  List.foldlRecOn (motive := fun t : State => ∃ m, t = { s with mem := m }) ys _ ⟨s.mem, rfl⟩ (by
    rintro t ⟨m, rfl⟩ y -
    unfold State.mscLeave
    split <;> exact ⟨_, rfl⟩)

theorem mscPut_eq (s : State) (loc : Nat) (x : MscLine) : ∃ m, s.mscPut loc x = { s with mem := m } := by
  obtain ⟨m, hm⟩ := foldl_mscLeave_eq (((SMap.get [] s.mem.msc (s.mscSet loc)).filter (fun y => y.tag != x.tag)).take
    (((SMap.get [] s.mem.msc (s.mscSet loc)).filter (fun y => y.tag != x.tag)).length - 15)) s
  simp only [State.mscPut, hm]
  exact ⟨_, rfl⟩

theorem mscEvict_eq (s : State) (loc : Nat) (dirty : Bool) : ∃ m, s.mscEvict loc dirty = { s with mem := m } := by
  unfold State.mscEvict
  dsimp only
  split
  · split
    · exact mscPut_eq s loc _
    · exact ⟨s.mem, rfl⟩
  · exact mscPut_eq s loc _

theorem mscRead_eq (s : State) (loc : Nat) : ∃ m, (s.mscRead loc).1 = { s with mem := m } := by
  unfold State.mscRead
  split
  · split <;> exact mscPut_eq s loc _
  · split <;> exact ⟨_, rfl⟩

theorem fillFrom_eq (s : State) (die : Nat) (va : VA) (loc : Nat) (a : PageAttr) :
    ∃ m, (s.fillFrom die va loc a).1 = { s with mem := m } := by
  unfold State.fillFrom
  dsimp only
  split
  · exact mscRead_eq s loc
  · exact ⟨s.mem, rfl⟩

/-! ### Lines without dirty bytes move -/

/-- The host interface is `h`; no line of an L2 has a dirty byte or a lease that is due for a rebase, and what slice `sk` remembers of
those that have left it is not due either (R130, R132, R137). -/
structure Placid (h : HostIf) (sk : Nat) (s : State) : Prop where
  host  : s.host = h
  lines : ∀ k x, (k, some x) ∈ s.l2 → x.rts + 1 < rebaseAt ∧ x.dirty = 0
  mrts  : (s.slice sk).mrts + 1 < rebaseAt

section
variable {h : HostIf} {sk : Nat} {s t : State}

theorem Placid.of_eq (p : Placid h sk s) (hh : t.host = s.host) (hl : t.l2 = s.l2) (hs : t.slices = s.slices) : Placid h sk t := by
  refine ⟨hh.trans p.host, fun k x hx => p.lines k x (hl ▸ hx), ?_⟩
  have := p.mrts
  rwa [State.slice, hs]

theorem Placid.setL2 (p : Placid h sk s) {k : Nat} {x : L2Line} (hx : x.rts + 1 < rebaseAt ∧ x.dirty = 0) :
    Placid h sk (s.setL2 k (some x)) := by
  refine ⟨p.host, fun j y hy => ?_, p.mrts⟩
  obtain h' | h' := mem_set (show (j, some y) ∈ SMap.set none s.l2 k (some x) from hy)
  · obtain ⟨-, rfl⟩ := Prod.mk.inj h' |>.imp id Option.some.inj
    exact hx
  · exact p.lines j y h'

/-- The slice remembers the lease of a line that leaves it. -/
theorem Placid.leaveL2 (p : Placid h sk s) (k : Nat) {x : L2Line} (hx : x.rts + 1 < rebaseAt) : Placid h sk (s.leaveL2 k x) := by
  refine ⟨p.host, fun j y hy => p.lines j y (List.mem_of_mem_filter (leaveL2_l2 s k x ▸ hy)), ?_⟩
  have hslice : (s.leaveL2 k x).slice sk = (s.setSlice (l2KeySlice k) { s.slice (l2KeySlice k) with
    mrts := max (s.slice (l2KeySlice k)).mrts x.rts }).slice sk := rfl
  rw [hslice]
  by_cases hk : sk = l2KeySlice k
  · subst hk
    rw [setSlice_slice_same]
    have := p.mrts
    dsimp only
    omega
  · rw [setSlice_slice_other s _ hk]
    exact p.mrts

theorem Placid.cleanCopies (p : Placid h sk s) (loc die : Nat) (m : BitVec 128) : Placid h sk (s.cleanCopies loc die m) := by
  refine List.foldlRecOn (motive := Placid h sk) _ _ p (fun t ht e he => ht.setL2 ?_)
  obtain ⟨hr, hd⟩ := p.lines _ _ (mem_copiesOf he).1
  exact ⟨hr, by simp [hd]⟩

theorem dieWriteback_slices (s : State) (loc die : Nat) (st : DirState) : (s.dieWriteback loc die st).slices = s.slices := by
  unfold State.dieWriteback
  dsimp only
  split
  · rfl
  · split <;> rfl

theorem dieWriteback_host (s : State) (loc die : Nat) (st : DirState) : (s.dieWriteback loc die st).host = s.host := by
  unfold State.dieWriteback
  dsimp only
  split
  · rfl
  · split <;> rfl

/-- There is nothing to write home, so that no sweep begins. -/
theorem Placid.dropL2 (p : Placid h sk s) (k : Nat) : Placid h sk (s.dropL2 k) := by
  unfold State.dropL2
  cases hx : s.l2At k with
  | none => exact p
  | some x =>
    obtain ⟨hr, hd⟩ := p.lines k x (mem_of_get_eq_some hx)
    have hhome : (s.leaveL2 k x).toHome x.loc x.dirtyBytes = s.leaveL2 k x := by simp [State.toHome, dirtyBytes_clean hd]
    dsimp only
    rw [hhome]
    exact ((p.leaveL2 k hr).cleanCopies _ _ _).of_eq (dieWriteback_host _ _ _ _) (dieWriteback_l2 _ _ _ _) (dieWriteback_slices _ _ _ _)

theorem Placid.dropAll (p : Placid h sk s) (xs : List (Nat × L2Line)) : Placid h sk (xs.foldl (fun s e => s.dropL2 e.1) s) :=
  List.foldlRecOn (motive := Placid h sk) xs _ p (fun _ ht e _ => ht.dropL2 e.1)

theorem Placid.setSysLine (p : Placid h sk s) (g : LineAddr) (x : SysLine) : Placid h sk (s.setSysLine g x) := p.of_eq rfl rfl rfl

theorem Placid.forgetSys (p : Placid h sk s) (g : LineAddr) : Placid h sk (s.forgetSys g) := (p.dropL2 _).setSysLine g _

theorem sendBack_host (s : State) (slot : Nat) (g : LineAddr) (l : Line) : (s.sendBack slot g l).host = s.host := rfl
theorem sendBack_l2 (s : State) (slot : Nat) (g : LineAddr) (l : Line) : (s.sendBack slot g l).l2 = s.l2 := rfl
theorem sendBack_slices (s : State) (slot : Nat) (g : LineAddr) (l : Line) : (s.sendBack slot g l).slices = s.slices := rfl

theorem Placid.evictSys (p : Placid h sk s) (g : LineAddr) : Placid h sk (s.evictSys g) := by
  unfold State.evictSys
  dsimp only
  split
  · exact p
  · split
    · split
      · exact ((p.setSysLine g _).forgetSys g).of_eq (sendBack_host _ _ _ _) (sendBack_l2 _ _ _ _) (sendBack_slices _ _ _ _)
      · exact p.forgetSys g
    · exact p.forgetSys g

theorem Placid.withMem (p : Placid h sk s) (ht : ∃ m, t = { s with mem := m }) : Placid h sk t := by
  obtain ⟨m, rfl⟩ := ht
  exact p.of_eq rfl rfl rfl

theorem Placid.evictL2 (p : Placid h sk s) (k : Nat) : Placid h sk (s.evictL2 k) := by
  unfold State.evictL2
  split
  · exact p
  · dsimp only
    split
    · exact (p.evictSys _).dropL2 k
    · split
      · exact (p.dropL2 k).withMem (mscEvict_eq _ _ _)
      · exact p.dropL2 k

theorem Placid.makeWay (p : Placid h sk s) (n : Nat) : Placid h sk (s.makeWay n) := by
  unfold State.makeWay
  dsimp only
  split
  · exact p
  · split
    · exact p.evictL2 _
    · exact p

theorem l2KeySlice_l2Key (die : Nat) (c : Ctx) (va : VA) : l2KeySlice (l2Key die c va) = sliceKeyOf die (homeSlice va) := by
  have hc := c.isLt
  have hva := va.isLt
  have hdie : l2KeyDie (l2Key die c va) = die := by
    simp only [l2KeyDie, l2Key, lineNo]
    omega
  have hline : l2KeyLine (l2Key die c va) % 512 = lineIndex va := by
    simp only [l2KeyLine, l2Key, lineNo, lineIndex]
    omega
  rw [l2KeySlice, hdie, hline]
  rfl

/-- The line that enters starts with what its slice remembers. -/
theorem Placid.ensureL2 {die : Nat} {c : Ctx} {va : VA} {e : DWord} (p : Placid h (sliceKeyOf die (homeSlice va)) s)
    (hswm : (leafAttr e).swm = false) : Placid h (sliceKeyOf die (homeSlice va)) (s.ensureL2 die c va e).1 := by
  unfold State.ensureL2
  dsimp only
  split
  · exact p
  · have hroom := (p.makeWay (l2KeySlice (l2Key die c va))).withMem (fillFrom_eq _ die va (lineLoc s c va e) (leafAttr e))
    refine hroom.setL2 ⟨?_, by simp [hswm]⟩
    rw [l2KeySlice_l2Key]
    exact l2KeySlice_l2Key die c va ▸ hroom.mrts

/-- The line stands at its location. -/
theorem ensureL2_loc {die : Nat} {c : Ctx} {va : VA} {e : DWord} (hl : ∀ x, s.l2At (l2Key die c va) = some x → x.loc = lineLoc s c va e) :
    (s.ensureL2 die c va e).2.loc = lineLoc s c va e := by
  unfold State.ensureL2
  dsimp only
  split
  next x hx => exact hl x hx
  next => rfl

theorem Placid.makeEntry (p : Placid h sk s) (loc : Nat) : Placid h sk (s.makeEntry loc) := by
  unfold State.makeEntry
  split
  · exact p
  · dsimp only
    split
    · exact p
    · split
      · exact p
      · exact (p.dropAll _).of_eq rfl rfl rfl

theorem Placid.dieOwn (p : Placid h sk s) (loc die home : Nat) : Placid h sk (s.dieOwn loc die home) := by
  unfold State.dieOwn
  dsimp only
  split
  · exact (p.dropAll _).of_eq rfl rfl rfl
  · exact ((p.dropAll _).makeEntry loc).of_eq rfl rfl rfl

/-! ### The store rule lets it through (R129, R132) -/

theorem Placid.storeRule (p : Placid h sk s) (die loc : Nat) : ∃ t wts, s.storeRule die sk loc 0 = .done t wts := by
  have htop : (s.copiesIn loc die).foldl (fun m e => max m e.2.rts) 0 + 1 < rebaseAt := by
    refine List.foldlRecOn (motive := fun m => m + 1 < rebaseAt) _ _ (by decide) (fun m hm e he => ?_)
    have hr := (p.lines _ _ (mem_copiesOf he).1).1
    omega
  have hearly : ¬rebaseAt ≤ max 0 ((s.slice sk).base + (s.copiesIn loc die).foldl (fun m e => max m e.2.rts) 0 + 1) - (s.slice sk).base := by
    omega
  simp only [State.storeRule, if_neg hearly]
  exact ⟨_, _, rfl⟩

/-! ### The write is performed -/

theorem host_of_bare (hb : t.bare = s.bare) : t.host = s.host := (congrArg State.host hb : t.bare.host = s.bare.host)

theorem endLeases_bare (s : State) (loc die : Nat) : (s.endLeases loc die).bare = s.bare := rfl

theorem touched_dram (s : State) (c : Ctx) (va : VA) (loc : Nat) : (s.touched c va loc).mem.dram = s.mem.dram :=
  (foldl_dram (by intros; rfl) _ _).trans rfl

theorem apertures_dram (s : State) (va : VA) : (if s.isSource va then s.dropApertures else s).mem.dram = s.mem.dram := by
  split
  · exact dropApertures_dram s
  · rfl

/-- The bytes stand in device memory, and the host interface is as it was. -/
structure Landed (h : HostIf) (loc : Nat) (bs : List (Nat × Byte)) (t : State) : Prop where
  host : t.host = h
  dram : ∃ m, t.mem.dram = bs.foldl (fun m e => SMap.set 0 m (loc + e.1) e.2) m

/-- A write of a line that is not software-managed, outside window 10, lands in device memory. -/
theorem putBytes_landed {va : VA} {a : PageAttr} (hw : windowOf va ≠ 10) (hswm : a.swm = false) (s : State) (die loc : Nat)
    (bs : List (Nat × Byte)) : Landed s.host loc bs (s.putBytes va a die loc bs) := by
  refine ⟨host_of_bare (putBytes_bare s va a die loc bs), s.mem.dram, ?_⟩
  rw [State.putBytes, if_neg hw, hswm, if_neg Bool.false_ne_true, writeHome_dram, setDramBytes_dram]

theorem Landed.of_bare {loc : Nat} {bs : List (Nat × Byte)} (l : Landed h loc bs s) (hb : t.bare = s.bare)
    (hd : t.mem.dram = s.mem.dram) : Landed h loc bs t :=
  ⟨(host_of_bare hb).trans l.host, by obtain ⟨m, hm⟩ := l.dram; exact ⟨m, hd.trans hm⟩⟩

/-- A write on behalf of no core that need neither ask the fabric nor wait is performed. -/
theorem writeAt_landed {die : Nat} {c : Ctx} {va : VA} {e : DWord} {loc : Nat} (p : Placid h (sliceKeyOf die (homeSlice va)) s)
    (hw : windowOf va ≤ 8) (hswm : (leafAttr e).swm = false) (hloc : lineLoc s (tagFor c va) va e = loc)
    (hl : ∀ x, s.l2At (l2Key die (tagFor c va) va) = some x → x.loc = loc) (hneed : s.fabricNeed va loc true = none)
    (hheld : (s.reconciling (tagFor c va) va e loc || s.lineHeld die die va (leafAttr e) loc true) = false) (bs : List (Nat × Byte)) :
    ∃ t wts, s.writeAt die c va e 0 true bs = .done t wts ∧ Landed h loc bs t := by
  have hx : (s.ensureL2 die (tagFor c va) va e).2.loc = loc := (ensureL2_loc (fun x h => (hl x h).trans hloc.symm)).trans hloc
  have hready : Placid h (sliceKeyOf die (homeSlice va)) (if (s.ensureL2 die (tagFor c va) va e).1.betweenDies va (leafAttr e) = true then
      (s.ensureL2 die (tagFor c va) va e).1.dieOwn loc die (homeDie va) else (s.ensureL2 die (tagFor c va) va e).1) := by
    split
    · exact (p.ensureL2 hswm).dieOwn _ _ _
    · exact p.ensureL2 hswm
  obtain ⟨u, wts, hu⟩ := hready.storeRule die loc
  simp only [State.writeAt, hloc, hneed, hheld, Bool.false_eq_true, if_false, hx, hu, if_true]
  have hput := putBytes_landed (by omega : windowOf va ≠ 10) hswm u die loc bs
  rw [host_of_bare (storeRule_bare hu), hready.host] at hput
  refine ⟨_, wts, rfl, ((hput.of_bare (endLeases_bare _ _ _) rfl).of_bare (touched_bare _ _ _ _) (touched_dram _ _ _ _)).of_bare
    (apertures_bare _ _) (apertures_dram _ _)⟩

end

end Sys2Proof.Machine

/-! The memory window: a host read, a host write (R58, R61, R173). -/

namespace Sys2Proof.Machine

open Sys2Proof Sys2Proof.Claims

/-! ### What is sent to the host -/

@[simp] theorem hwEvent_replies (s : State) (e : Event) : (s.hwEvent e).host.replies = s.host.replies := by
  unfold State.hwEvent; split <;> rfl

@[simp] theorem hwEvent_window (s : State) (e : Event) : (s.hwEvent e).host.window = s.host.window := by
  unfold State.hwEvent; split <;> rfl

theorem missSys_host (s : State) (va : VA) (own : Bool) : (s.missSys va own).host = s.host := by
  simp only [State.missSys, State.request]
  split
  · rfl
  · split <;> rfl

/-! ### What the channel says of a host access (R92, R103) -/

section
variable {s : State} {va : VA} {write : Bool}

theorem hostChannel_error {f : MFault} (h : s.channel 0 true write va = .error f) : s.hostChannel write va = .error f := by
  rw [State.hostChannel, h]

section
variable {e : DWord} (h : s.channel 0 true write va = .ok e)
include h

theorem hostChannel_ok
    (hc : (s.l2At (l2Key (homeDie va) 0 va)).any (fun x => permBad x.attr (if write then .write else .read) true) = false) :
    s.hostChannel write va = .ok e := by
  simp only [State.hostChannel, h, hc, Bool.false_eq_true, if_false]

/-- The copy of the home slice is checked too. -/
theorem hostChannel_denied
    (hc : (s.l2At (l2Key (homeDie va) 0 va)).any (fun x => permBad x.attr (if write then .write else .read) true) = true) :
    s.hostChannel write va = .error (protFault e 0 false) := by
  simp only [State.hostChannel, h, hc, if_true]

/-- The channel lets no access outside scratch through to a poisoned line (R113). -/
theorem channel_whole (hw : windowOf va ≠ 14) : s.poisoned (lineLoc s 0 va e) = false := by
  have hscratch : isScratch va = false := by simpa [isScratch] using hw
  rw [State.channel, hscratch, if_neg Bool.false_ne_true] at h
  split at h
  · simp at h
  · split at h
    · simp at h
    next hp => exact Except.ok.inj h ▸ Bool.eq_false_iff.2 hp

end

end

/-! ### A read -/

section
variable {s : State} {va : VA}

/-- A read that the channel refuses is answered with all ones, and HOST_FAULT tells of it. -/
theorem hostRead_refused {f : MFault} (h : s.hostChannel false va = .error f) (txn : Word) :
    s.hostRead va txn = ((s.reply 0x1B txn 0 (List.replicate 128 0xFF)).hostFault va false, true) := by
  simp only [State.hostRead, h]

section
variable {e : DWord} (h : s.hostChannel false va = .ok e)
include h

theorem hostRead_held (hh : s.hostHeld va e false = true) (txn : Word) : s.hostRead va txn = (s, false) := by
  simp only [State.hostRead, h, hh, if_true]

theorem hostRead_answered (hh : s.hostHeld va e false = false) (hn : s.fabricNeed va (lineLoc s 0 va e) false = none) (txn : Word) :
    s.hostRead va txn = (s.reply 0x1B txn 0 (lineBytes (s.homeCopy (lineLoc s 0 va e))), true) := by
  simp only [State.hostRead, h, hh, hn, Bool.false_eq_true, if_false]

/-- The fabric is asked first. -/
theorem hostRead_asks (hh : s.hostHeld va e false = false) {g : LineAddr} (hn : s.fabricNeed va (lineLoc s 0 va e) false = some g)
    (txn : Word) : s.hostRead va txn = (s.missSys (fabricVa g) false, false) := by
  simp only [State.hostRead, h, hh, hn, Bool.false_eq_true, if_false]

end

/-! ### A write -/

/-- What a refused access leaves: an answer, and HOST_FAULT where the hold has room. -/
structure Refused (s t : State) (answer : List Byte) (va : VA) (code : Nat) : Prop where
  mem     : t.mem = s.mem
  replies : t.host.replies = s.host.replies ++ [answer]
  window  : t.host.window = s.host.window
  told    : Reported s t 0 { kind := 0x0F, src := srcIo, body := [(16, bytesNat 8 va.toNat), (24, bytesNat 1 code)] }

/-- The answer is sent, then the fault is told. -/
theorem hostFault_refused (s : State) (mtype : Nat) (txn : Word) (opd : Nat) (body : List Byte) (va : VA) (write : Bool) :
    Refused s ((s.reply mtype txn opd body).hostFault va write) (message mtype 0 txn opd body) va (if write then 1 else 0) where
  mem     := hwEvent_mem _ _
  replies := hwEvent_replies _ _
  window  := hwEvent_window _ _
  told    := fun hroom => hwEvent_reported (s.reply mtype txn opd body) _ hroom

theorem hostWrite_refused {f : MFault} (h : s.hostChannel true va = .error f) (bs : List (Nat × Byte)) (txn : Word) :
    s.hostWrite va bs txn = (s.refuseWrite va txn, true) := by
  simp only [State.hostWrite, h]

section
variable {e : DWord} (h : s.hostChannel true va = .ok e) (bs : List (Nat × Byte)) (txn : Word)
include h

/-- A line of an engine is not the host's to write (R173). -/
theorem hostWrite_engine (ho : s.engineOwned (lineLoc s 0 va e) = true) : s.hostWrite va bs txn = (s.refuseWrite va txn, true) := by
  simp only [State.hostWrite, h, ho, if_true]

section
variable (ho : s.engineOwned (lineLoc s 0 va e) = false)
include ho

theorem hostWrite_held (hh : s.hostHeld va e true = true) : s.hostWrite va bs txn = (s, false) := by
  simp only [State.hostWrite, h, ho, hh, Bool.false_eq_true, if_false, if_true]

section
variable (hh : s.hostHeld va e true = false)
include hh

theorem hostWrite_done {t : State} (hs : s.storeOutside (homeDie va) 0 va e bs = .done t ()) :
    s.hostWrite va bs txn = (t.reply 0x1C txn 0 [], true) := by
  simp only [State.hostWrite, h, ho, hh, hs, Bool.false_eq_true, if_false]

theorem hostWrite_blocked {t : State} (hs : s.storeOutside (homeDie va) 0 va e bs = .blocked t) : s.hostWrite va bs txn = (t, false) := by
  simp only [State.hostWrite, h, ho, hh, hs, Bool.false_eq_true, if_false]

end

end

end

theorem tagFor_zero (va : VA) : tagFor 0 va = 0 := ite_self _

/-- A store that needs the fabric asks it. -/
theorem storeOutside_asks {e : DWord} {g : LineAddr} (hc : s.channel 0 true true va = .ok e) (ho : s.engineOwned (lineLoc s 0 va e) = false)
    (hn : s.fabricNeed va (lineLoc s 0 va e) true = some g) (bs : List (Nat × Byte)) :
    s.storeOutside (homeDie va) 0 va e bs = .blocked (s.missSys (fabricVa g) true) := by
  have hw : windowOf va = 10 ∨ windowOf va ≤ 8 := by
    by_contra hw
    obtain ⟨h10, h8⟩ := not_or.1 hw
    rw [State.fabricNeed, if_neg h10, if_neg h8] at hn
    simp at hn
  have hwhole := channel_whole hc (by omega)
  have h9 : windowOf va ≠ 9 := by omega
  simp only [State.storeOutside, ho, hwhole, Bool.or_self, Bool.false_eq_true, if_false, h9, State.writeAt, tagFor_zero, hn]

/-! ### A line at its home that need not wait -/

theorem route_dieLinks : ∀ a b : Node, ∀ n ∈ route a b, isDieLink n = true := by decide

section
variable {e : DWord} (l : HomeLine s (homeDie va) 0 va e 0)
include l

theorem homeLine_roundTrip (a b : Nat) : s.roundTrip a b = true := by
  have hopen : ∀ a b, s.pathOpen a b = true := by
    intro a b
    unfold State.pathOpen
    split
    · exact List.all_eq_true.2 (fun n hn => by simp [l.links n (route_dieLinks _ _ n hn)])
    · rfl
  simp [State.roundTrip, hopen]

theorem homeLine_lineHeld (src die loc : Nat) (own : Bool) : s.lineHeld src die va (leafAttr e) loc own = false := by
  simp [State.lineHeld, homeLine_roundTrip l, l.still]

theorem homeLine_reconciling (c : Ctx) (loc : Nat) : s.reconciling c va e loc = false := by simp [State.reconciling, l.calm]

theorem homeLine_hostHeld (own : Bool) : s.hostHeld va e own = false := by
  simp [State.hostHeld, homeLine_reconciling l, homeLine_lineHeld l]

theorem homeLine_placid : Placid s.host (sliceKeyOf (homeDie va) (homeSlice va)) s :=
  ⟨rfl, fun k x hx => ⟨(l.lines k x hx).1, (l.lines k x hx).2.1⟩, l.fresh⟩

theorem homeLine_fabricNeed : s.fabricNeed va (lineLoc s 0 va e) true = none := by
  have hw := l.window
  rw [State.fabricNeed, if_neg (by omega), if_pos hw, l.abroad]

/-- A store to it is performed. -/
theorem homeLine_storeOutside (bs : List (Nat × Byte)) :
    ∃ t, s.storeOutside (homeDie va) 0 va e bs = .done t () ∧ Landed s.host (lineLoc s 0 va e) bs t := by
  have hw := l.window
  have h9 : windowOf va ≠ 9 := by omega
  obtain ⟨t, wts, ht, hland⟩ := writeAt_landed (c := 0) (homeLine_placid l) hw l.plain (by rw [tagFor_zero])
    (fun x hx => ((l.lines _ x (mem_of_get_eq_some hx)).2.2.1 rfl).1) (homeLine_fabricNeed l)
    (by rw [homeLine_reconciling l, homeLine_lineHeld l]; rfl) bs
  refine ⟨t, ?_, hland⟩
  simp only [State.storeOutside, l.owned, l.whole, Bool.or_self, Bool.false_eq_true, if_false, h9, ht]

end

end

/-- A byte that a mask enables is written. -/
theorem Landed.byte {t : State} {h : HostIf} {loc : Nat} {en : BitVec 128} {line : Line} (l : Landed h loc (enabledBytes en line) t) {j : Nat}
    (hj : j < 128) (hen : en.getLsbD j = true) : t.dramByte (loc + j) = byteOf line j := by
  obtain ⟨m, hm⟩ := l.dram
  rw [State.dramByte, hm]
  refine get_foldl_set (f := byteOf line) (fun e he => ?_) loc m (.inl ⟨(j, byteOf line j), ?_, rfl⟩)
  · obtain ⟨i, -, rfl⟩ := List.mem_map.1 he
    rfl
  · exact List.mem_map.2 ⟨j, List.mem_filter.2 ⟨List.mem_range.2 hj, hen⟩, rfl⟩

/-! ### What the host's asking comes to -/

section
variable {s : State} (hw : s.host.window = []) (ht : s.pkg.tripped = none)
include hw ht

/-- A read is asked for: it is performed, or waits. -/
theorem hostAsks_read_done {va : VA} {txn : Word} {t : State} (h : s.hostRead va txn = (t, true)) : s.hostAsks (.read va txn) = t :=
  hostAsks_done hw (by simp [State.performReq, ht, h])

theorem hostAsks_read_wait {va : VA} {txn : Word} {t : State} (h : s.hostRead va txn = (t, false)) :
    s.hostAsks (.read va txn) = t.waitReq (.read va txn) := hostAsks_wait hw (by simp [State.performReq, ht, h])

theorem hostAsks_write_done {va : VA} {bs : List (Nat × Byte)} {txn : Word} {t : State} (h : s.hostWrite va bs txn = (t, true)) :
    s.hostAsks (.write va bs txn) = t := hostAsks_done hw (by simp [State.performReq, ht, h])

theorem hostAsks_write_wait {va : VA} {bs : List (Nat × Byte)} {txn : Word} {t : State} (h : s.hostWrite va bs txn = (t, false)) :
    s.hostAsks (.write va bs txn) = t.waitReq (.write va bs txn) := hostAsks_wait hw (by simp [State.performReq, ht, h])

end

/-- A request that has asked the fabric waits first in the window. -/
theorem missSys_waits {s : State} (hw : s.host.window = []) (va : VA) (own : Bool) (r : HostReq) :
    ((s.missSys va own).waitReq r).host.replies = s.host.replies ∧ ((s.missSys va own).waitReq r).host.window = [r] := by
  have hh : ((s.missSys va own).waitReq r).host = { s.host with window := s.host.window ++ [r] } := by
    rw [← missSys_host s va own]
    rfl
  rw [hh, hw]
  exact ⟨rfl, rfl⟩

end Sys2Proof.Machine

/-! The events of the host interface (O52). -/

namespace Sys2Proof.Machine

open Sys2Proof Sys2Proof.Claims

/-- Settles O52: each event is what its register, the ring or the window does, and a write to a line at its home that need not wait is
performed (`homeLine_storeOutside`), for what makes room for that line begins no sweep. -/
theorem hostEvents : Obligations.HostEvents := by
  unfold Obligations.HostEvents
  refine ⟨fun s write o v hp => congrArg _ (ifPowered_off hp _), fun s o v hp => ?_, fun s v hp => ?_, fun s off en line hp hw => ?_,
    fun s off en line hp hw ht => ?_, fun s off hp hw ht => ?_, fun s off en line hp hw ht => ?_,
    fun s v hp => ?_, fun s n hp => ?_, fun s v hp => ?_, fun s => ?_, fun s => ?_⟩
  -- the management window
  · refine ⟨_, _, exec_managementAccess hp false o v, exec_managementAccess hp true o v, rfl, manageRead_none s, manageWrite_none s v, ?_⟩
    refine ⟨?_, ?_, ?_, ?_, ?_, ?_, ?_, ?_, ?_, ?_, ?_, ?_, ?_, fun d hd => ?_⟩
    · rintro rfl; exact exec_evtAckWrite hp v
    · rintro rfl; exact exec_evtReplayWrite hp v
    · rintro rfl; exact exec_eventRingConfig hp _ v
    · rintro rfl; exact exec_eventRingConfig hp _ v
    · rintro rfl; exact exec_eventRingConfig hp _ v
    · rintro rfl; exact exec_hmwSelWrite hp v
    · rintro rfl; rfl
    · rintro rfl; rfl
    · rintro rfl; rfl
    · rintro rfl rfl; rfl
    · rintro rfl rfl; rfl
    · rintro rfl rfl; rfl
    · rintro rfl; exact exec_mscmodeWrite hp v
    · rw [exec_plimWrite hp, hd]
      exact congrArg _ (manageWrite_plim s d v).symm
  -- `hmw_sel` and `mscmode`
  · refine ⟨_, _, exec_hmwSelWrite hp v, exec_mscmodeWrite hp v, ?_, rfl, rfl⟩
    unfold State.selectWindow
    split <;> rfl
  -- the memory window behind other requests
  · exact ⟨_, _, exec_hostMemoryRead hp off, exec_hostMemoryWrite hp off en line, hostAsks_behind _ hw, hostAsks_behind _ hw⟩
  -- after a trip
  · rw [exec_hostMemoryRead hp, exec_hostMemoryWrite hp, hostAsks_tripped hw _ ht, hostAsks_tripped hw _ ht, waitReq_first hw,
      waitReq_first hw]
    exact ⟨rfl, rfl⟩
  -- a read of the memory window
  · refine ⟨_, exec_hostMemoryRead hp off, ?_⟩
    generalize hu : s.hostAsks _ = u
    intro va copy
    replace hu : s.hostAsks (.read va 0) = u := hu
    clear_value va
    have hrefused : ∀ f, s.hostChannel false va = .error f → Refused s u (message 0x1B 0 0 0 (List.replicate 128 0xFF)) va 0 := by
      intro f hf
      rw [← hu, hostAsks_read_done hw ht (hostRead_refused hf 0)]
      exact hostFault_refused s _ _ _ _ va false
    cases hc : s.channel 0 true false va with
    | error f =>
      obtain ⟨-, hr, hwin, htold⟩ := hrefused f (hostChannel_error hc)
      exact ⟨hr, hwin.trans hw, htold⟩
    | ok e =>
      cases hd : copy.any (fun x => permBad x.attr .read true) with
      | true =>
        obtain ⟨-, hr, hwin, htold⟩ := hrefused _ (hostChannel_denied hc hd)
        exact ⟨hr, hwin.trans hw, htold⟩
      | false =>
        have hok := hostChannel_ok hc hd
        refine ⟨fun hh hn => ?_, fun hh hn => ?_, fun hh => ?_⟩
        · exact hu.symm.trans (hostAsks_read_done hw ht (hostRead_answered hok hh hn 0))
        · obtain ⟨g, hg⟩ := Option.ne_none_iff_exists'.1 hn
          rw [← hu, hostAsks_read_wait hw ht (hostRead_asks hok hh hg 0)]
          exact missSys_waits hw _ _ _
        · rw [← hu, hostAsks_read_wait hw ht (hostRead_held hok hh 0), waitReq_first hw]
  -- a write of it
  · refine ⟨_, exec_hostMemoryWrite hp off en line, ?_⟩
    generalize hu : s.hostAsks _ = u
    intro va copy refused
    replace hu : s.hostAsks (.write va (enabledBytes en line) 0) = u := hu
    clear_value va
    have hrefused : s.hostWrite va (enabledBytes en line) 0 = (s.refuseWrite va 0, true) → refused := by
      intro hf
      have hdone : Refused s u (message 0x1C 0 0 1 []) va 1 := by
        rw [← hu, hostAsks_write_done hw ht hf]
        exact hostFault_refused s _ _ _ _ va true
      obtain ⟨hm, hr, hwin, htold⟩ := hdone
      exact ⟨hm, hr, hwin.trans hw, htold⟩
    cases hc : s.channel 0 true true va with
    | error f => exact hrefused (hostWrite_refused (hostChannel_error hc) _ _)
    | ok e =>
      cases hd : copy.any (fun x => permBad x.attr .write true) with
      | true => exact hrefused (hostWrite_refused (hostChannel_denied hc hd) _ _)
      | false =>
        have hok := hostChannel_ok hc hd
        refine ⟨fun ho => hrefused (hostWrite_engine hok _ _ ho), fun ho hh => ?_, fun ho hh hn => ?_, fun hl => ?_⟩
        · rw [← hu, hostAsks_write_wait hw ht (hostWrite_held hok _ _ ho hh), waitReq_first hw]
        · obtain ⟨g, hg⟩ := Option.ne_none_iff_exists'.1 hn
          rw [← hu, hostAsks_write_wait hw ht (hostWrite_blocked hok _ _ ho hh (storeOutside_asks hc ho hg _))]
          exact missSys_waits hw _ _ _
        · obtain ⟨t, hs, hland⟩ := homeLine_storeOutside hl (enabledBytes en line)
          rw [← hu, hostAsks_write_done hw ht (hostWrite_done hok _ _ hl.owned (homeLine_hostHeld hl true) hs)]
          have hhost : (t.reply 0x1C 0 0 []).host = { s.host with replies := s.host.replies ++ [message 0x1C 0 0 0 []] } := by
            rw [← hland.host]
            rfl
          rw [hhost]
          exact ⟨rfl, hw, fun j hj hen => hland.byte hj hen⟩
  -- the acknowledgement of events
  · by_cases h : 0 < s.host.dropped ∧ s.host.hold.length < 1024
    · have hack := ackEvents_told v h
      refine ⟨_, exec_evtAckWrite hp v, congrArg HostIf.evtAck hack, writesDue_postOnce _, ?_⟩
      rw [if_pos h, hack]
      exact ⟨rfl, rfl⟩
    · have hack := ackEvents_kept v h
      refine ⟨_, exec_evtAckWrite hp v, congrArg HostIf.evtAck hack, writesDue_postOnce _, ?_⟩
      rw [if_neg h, hack]
      exact ⟨rfl, rfl⟩
  -- their replay
  · refine ⟨_, exec_evtReplayWrite hp n, replayFrom_ahead, replayFrom_next, fun hd hx => ?_, fun hd hx x xs hs => ?_⟩
    · rw [replayFrom_stored hd (stored_isSome hx)]
      exact ⟨postOnce_host _ _, writesDue_postOnce _⟩
    · rw [replayFrom_gap hd (stored_isNone hx) hs]
      exact ⟨writesDue_postOnce _, fun h => (postOnce_host _ _).trans (hwEvent_host_room _ h),
        fun h => (postOnce_host _ _).trans (hwEvent_host_full _ h)⟩
  -- the configuration of the ring
  · refine ⟨_, _, _, exec_eventRingConfig hp _ v, exec_eventRingConfig hp _ v, exec_eventRingConfig hp _ v, fun h6 h16 => ?_,
      ringConfig_size_bad, ringConfig_base, ringConfig_base_bad, rfl⟩
    rw [ringConfig_size (by omega)]
    exact ⟨postOnce_host _ _, writesDue_postOnce _⟩
  -- the writing of an event: a new one, then one that is replayed
  · refine ⟨s.eventWrite, rfl, eventWrite_idle, fun hready hr x xs hx hlen => ⟨eventWrite_full hready hr hx, fun hroom => ?_⟩,
      fun hready n hr hroom x hx hlen => ?_⟩
    · obtain ⟨hsent, hintr, hmem, hstore⟩ := ringKept_refill (s.eventPut x)
      simp only [eventWrite_writes hready hr hx hroom, State.hostByte, writeEvent_host, hsent, hintr, hmem, hstore]
      refine ⟨rfl, rfl, fun j hj => withEvent_byte s.host (eventNo x) x (hlen.symm ▸ hj), by simp only [State.eventPut, storeSize],
        fun hd hw => ?_⟩
      rw [refill_none (s := s.eventPut x) hd hw]
      exact congrArg (List.drop 1) hx
    · rw [eventWrite_replays hready hr hroom]
      have hhost := replayEvent_host hx
      simp only [State.hostByte, hhost, true_and]
      refine ⟨writesDue_postOnce _, fun j hj => ?_⟩
      rw [← getD_replayed hlen _ hj]
      exact withEvent_byte s.host n _ (by rw [length_overlay (by simp [hlen]), hlen]; exact hj)
  -- the interrupt
  · exact ⟨_, rfl, sendIntr_due, sendIntr_early⟩

end Sys2Proof.Machine

/-! A step runs the word at the PC of the issuing slot (O5). -/

namespace Sys2Proof.Machine

open Sys2Proof

/-- The four bytes of a word, lowest first, are the word (R303). -/
theorem wordOfBytes_bytesOfWord (w : Word) :
    wordOfBytes (w.extractLsb' 0 8) (w.extractLsb' 8 8) (w.extractLsb' 16 8) (w.extractLsb' 24 8) = w := by
  unfold wordOfBytes
  ext k hk
  simp only [BitVec.getElem_append, BitVec.getElem_extractLsb']
  grind

/-- The bytes of a word without a literal decode to the instruction of that word (R304). -/
theorem decode_bytesOfWord {w : Word} (h : takesLiteral w = false) : decode (bytesOfWord w) = .ok (decodeWord w 0, []) := by
  simp [bytesOfWord, decode, wordOfBytes_bytesOfWord, h]

/-- The bytes of a word with a literal and of that literal decode to the instruction of the two (R304). -/
theorem decode_bytesOfWord_append {w : Word} (lit : Word) (h : takesLiteral w = true) :
    decode (bytesOfWord w ++ bytesOfWord lit) = .ok (decodeWord w lit, []) := by
  simp [bytesOfWord, decode, wordOfBytes_bytesOfWord, h]

section

variable {s : State} {g : Group} {sel : PcSel} {pc : VA} {e : DWord} (hpc : (g.slotOf sel).pc = pc)
  (he : fetchLeaf s g sel pc = .ok e)

include hpc he

/-- A word that takes no literal is all that is fetched (R103, R304). -/
theorem fetch_word (hl : takesLiteral (wordAt (s.cacheLeaf g.ctx pc e) g pc e) = false) :
    fetch s g sel = (s.cacheLeaf g.ctx pc e, .ok (decodeWord (wordAt (s.cacheLeaf g.ctx pc e) g pc e) 0)) := by
  simp [fetch, hpc, he, hl]

/-- A word that takes a literal is fetched with the word after it (R103, R304). -/
theorem fetch_literal {e' : DWord} (hl : takesLiteral (wordAt (s.cacheLeaf g.ctx pc e) g pc e) = true)
    (he' : fetchLeaf (s.cacheLeaf g.ctx pc e) g sel (pc + 4) = .ok e') :
    fetch s g sel = ((s.cacheLeaf g.ctx pc e).cacheLeaf g.ctx (pc + 4) e',
      .ok (decodeWord (wordAt (s.cacheLeaf g.ctx pc e) g pc e) (wordAt (s.cacheLeaf g.ctx pc e) g (pc + 4) e'))) := by
  simp only [fetch, hpc, he, hl, he', ↓reduceIte]

end

/-- A word that is fetched is executed, from the state that its fetch leaves. -/
theorem stepWord_fetched {s s' : State} {c : Cursor} {g : Group} {i : Instr} (hw : s.fetchWaits g c.sel = none)
    (hf : fetch s g c.sel = (s', .ok i)) : stepWord s c g = exec i s' := by
  simp [stepWord, hw, hf]

/-- Settles O5: what a step fetches is what the bytes of the word, and of its literal, decode to. -/
theorem stepRunsWord : Obligations.StepRunsWord := by
  unfold Obligations.StepRunsWord
  intro s c g e ha hc hg hr hw he
  refine ⟨fun i hl hd => ?_, fun e' i hl he' hd => ?_⟩
  · rw [decode_bytesOfWord hl] at hd
    cases hd
    exact (step_run (.inl ha) hc hg hr).trans (stepWord_fetched hw (fetch_word rfl he hl))
  · rw [decode_bytesOfWord_append _ hl] at hd
    cases hd
    exact (step_run (.inl ha) hc hg hr).trans (stepWord_fetched hw (fetch_literal rfl he hl he'))

end Sys2Proof.Machine

/-! NOP, SETM, GETM and HOMEQ (O18). -/

namespace Sys2Proof.Machine

open Sys2Proof Sys2Proof.Claims

/-! ### Words that always complete, on their group alone -/

/-- A word that always completes on its group does, whatever the group, what its effect says. -/
theorem rowIf_of_issueSimple {mk : Fields → Instr} {op : Op} {body : Fields → PcSel → Group → Group}
    {cond : PcSel → Fields → Group → Prop} {eff : PcSel → Fields → Group → Group} (hw : ∀ f, (mk f).word? = some (op, f))
    (he : ∀ f s, exec (mk f) s = issueSimple op f (body f) s) (hb : ∀ sel f g, cond sel f g → body f sel g = eff sel f g) :
    RowIf mk cond eff := by
  intro s c g f op' hop hready hstep hcond
  rw [hw f] at hop
  cases hop
  rw [← hb c.sel f _ hcond]
  exact issueSimple_does hready hstep (he f s)

theorem homeQuery_scalar {g : Group} {sel : PcSel} {f : Fields} (h : 96 ≤ f.d.toNat) :
    g.homeQuery sel f = g.sPut sel f.d (homeWord g.die ((g.spField sel f.b).setWidth 52)) := by
  simp [Group.homeQuery, isS, h, vaOf]

theorem homeQuery_vector {g : Group} {sel : PcSel} {f : Fields} (h : f.d.toNat < 96) :
    g.homeQuery sel f = (g.vWrite f.d.toNat (lanesOf (g.en0 sel))
      (fun l => homeWord g.die ((pair64 (g.vRead (f.b.toNat + 1) l) (g.vRead f.b.toNat l)).setWidth 52))).setTag f.d.toNat 1 := by
  have hs : isS f.d = false := by simp [isS, h]
  simp [Group.homeQuery, hs, vaOf, Group.vPair]

theorem exec_nop (f : Fields) (s : State) : exec (.nop f) s = issueSimple Op.nop f (fun _ g => g) s := rfl

theorem exec_setm (f : Fields) (s : State) :
    exec (.setm f) s = issueSimple Op.setm f (fun sel g => { g with m := g.modeWord (g.sB sel f) }) s := rfl

theorem exec_getm (f : Fields) (s : State) :
    exec (.getm f) s = issueSimple Op.getm f (fun sel g => g.sPut sel f.d (g.modeWord g.m)) s := rfl

theorem exec_homeq (f : Fields) (s : State) :
    exec (.homeq f) s = issueSimple Op.homeq f (fun sel g => g.homeQuery sel f) s := rfl

/-! ### Homes (R91) -/

/-- An exclusive or with a number below 256 leaves the byte above alone. -/
theorem add_xor_of_lt (a : Nat) {b c : Nat} (hb : b < 256) (hc : c < 256) : (256 * a + b) ^^^ c = 256 * a + (b ^^^ c) := by
  have hdiv : ((256 * a + b) ^^^ c) / 2 ^ 8 = a := by
    rw [Nat.xor_div_two_pow, Nat.div_eq_of_lt hc, Nat.xor_zero]
    omega
  have hmod : ((256 * a + b) ^^^ c) % 2 ^ 8 = b ^^^ c := by
    rw [Nat.xor_mod_two_pow, Nat.mod_eq_of_lt hc, Nat.mul_add_mod, Nat.mod_eq_of_lt hb]
  have := Nat.div_add_mod ((256 * a + b) ^^^ c) (2 ^ 8)
  rw [hdiv, hmod] at this
  omega

theorem lineIndex_lt (va : VA) : lineIndex va < 512 := Nat.mod_lt _ (by decide)

theorem windowOf_lt (va : VA) : windowOf va < 16 := by
  have := va.isLt
  unfold windowOf
  omega

/-- The home of an address that has one: the die in the upper byte, and the slice of R91's formula in the lower. -/
theorem homeWord_homed (own : Nat) (va : VA) (h : windowOf va ≤ 11) :
    (homeWord own va).toNat = 256 * homeDie va + lineIndex va % 64 ^^^ (lineIndex va / 64 * 8 + lineIndex va / 64) := by
  have hi := lineIndex_lt va
  have hdie : homeDie va < 8 := by
    unfold homeDie
    split <;> omega
  have hslice : sliceOf (lineIndex va) < 2 ^ 6 := by
    unfold sliceOf
    exact Nat.xor_lt_two_pow (by omega) (by omega)
  unfold homeWord
  rw [if_neg (by omega), if_neg (by omega), add_xor_of_lt _ (by omega) (by omega), BitVec.toNat_ofNat,
    Nat.mod_eq_of_lt (by unfold homeSlice; omega)]
  unfold homeSlice sliceOf
  rw [Nat.mul_succ]

/-- A die-pinned address is homed on the die of its window (R91). -/
theorem homeDie_pinned {va : VA} (h : windowOf va < 8) : homeDie va = windowOf va := if_pos h

/-- Every other address is homed on the die of its line index (R91). -/
theorem homeDie_spread {va : VA} (h : 8 ≤ windowOf va) : homeDie va = lineIndex va / 64 := if_neg (by omega)

theorem homeWord_scratch (own : Nat) {va : VA} (ho : own < 8) (h : windowOf va = 14) :
    (homeWord own va).toNat = 256 * own + 0x7F := by
  unfold homeWord
  rw [if_pos h, BitVec.toNat_ofNat, Nat.mod_eq_of_lt (by omega)]

theorem homeWord_none (own : Nat) {va : VA} (h : windowOf va = 12 ∨ windowOf va = 13 ∨ windowOf va = 15) :
    (homeWord own va).toNat = 0xFF7F := by
  unfold homeWord
  rw [if_neg (by omega), if_pos h]
  rfl

/-- Settles O18: each word completes on its group alone, and homes are R91's formula. -/
theorem modeAndHome : Obligations.ModeAndHome := by
  unfold Obligations.ModeAndHome
  refine ⟨?_, ?_, ?_, ?_, ?_, ?_, by decide⟩
  · exact rowIf_of_issueSimple (fun _ => rfl) exec_nop (fun _ _ _ _ => rfl)
  · exact rowIf_of_issueSimple (fun _ => rfl) exec_setm (fun _ _ _ _ => rfl)
  · exact rowIf_of_issueSimple (fun _ => rfl) exec_getm (fun _ _ _ _ => rfl)
  · exact rowIf_of_issueSimple (fun _ => rfl) exec_homeq (fun _ _ _ => homeQuery_scalar)
  · exact rowIf_of_issueSimple (fun _ => rfl) exec_homeq (fun _ _ _ => homeQuery_vector)
  · intro own va ho
    refine ⟨fun h => ?_, fun h h' => ?_, homeWord_scratch own ho, homeWord_none own⟩
    · rw [homeWord_homed own va (by unfold windowOf; omega), homeDie_pinned h]
      rfl
    · rw [homeWord_homed own va h', homeDie_spread h]
      rfl

end Sys2Proof.Machine

/-! What SYSR reads (O19). -/

namespace Sys2Proof.Machine

open Sys2Proof Sys2Proof.Claims

/-! ### The group as its word finds it -/

/-- The effect of a word finds its group with another PC, and with nothing that holds it back. -/
theorem begun_eq (g : Group) (e : Env) : ∃ a b, g.begun e =
    { g with slotA := a, slotB := b, stalled := [], longStall := false, holdSel := none, draining := [] } := by
  unfold Group.begun Group.setPc Group.setSlot
  cases e.sel with
  | a => exact ⟨_, _, rfl⟩
  | b => exact ⟨_, _, rfl⟩

/-- No register that SYSR reads depends on what the issue of the word has moved. -/
theorem sysRead_begun (s : State) (k : Nat) (g : Group) (e : Env) (n : Nat) :
    (s.setGroup k (g.begun e)).sysRead (g.begun e) n = s.sysRead g n := by
  obtain ⟨a, b, h⟩ := begun_eq g e
  rw [h]
  rfl

/-! ### Halves of addresses -/

theorem lo32_setWidth (x : VA) : lo32 (x.setWidth 64) = x.setWidth 32 := by
  ext k hk
  simp only [lo32, BitVec.getElem_extractLsb', BitVec.getLsbD_setWidth, BitVec.getElem_setWidth]
  simp only [Nat.zero_add, show k < 64 by omega, decide_true, Bool.true_and]

theorem hi32_setWidth (x : VA) : hi32 (x.setWidth 64) = (x.extractLsb' 32 20).setWidth 32 := by
  ext k hk
  simp only [hi32, BitVec.getElem_extractLsb', BitVec.getLsbD_setWidth, BitVec.getElem_setWidth, BitVec.getLsbD_extractLsb']
  by_cases h : k < 20
  · simp only [h, show 32 + k < 64 by omega, decide_true, Bool.true_and]
  · simp only [h, decide_false, BitVec.getLsbD_of_ge x (32 + k) (by omega), Bool.and_false]

/-! ### Registers with fields (R120, R259, R260) -/

/-- `wstat`: entries, those that are no longer pending, and those struck (R259). -/
theorem watchStatus_fields {s : State} {g : Group} (h : (s.watches g).length ≤ 31) :
    (s.watchStatus g).toNat % 2 ^ 8 = (s.watches g).length ∧
    (s.watchStatus g).toNat / 2 ^ 8 % 2 ^ 8 = ((s.watches g).filter (fun x => x.state != .pending)).length ∧
    (s.watchStatus g).toNat / 2 ^ 16 = ((s.watches g).filter (fun x => x.state == .struck)).length := by
  have hp := List.length_filter_le (fun x : Watch => x.state != .pending) (s.watches g)
  have hs := List.length_filter_le (fun x : Watch => x.state == .struck) (s.watches g)
  simp only [State.watchStatus, BitVec.toNat_ofNat]
  omega

/-- `cnt`: the four counters, each at most the number of operations (R241, R259). -/
theorem counters_fields {g : Group} (h : g.ops.length ≤ 63) :
    g.counters.toNat % 64 = g.cnt .ld ∧ g.counters.toNat / 2 ^ 8 % 64 = g.cnt .st ∧
    g.counters.toNat / 2 ^ 16 % 64 = g.cnt .cp ∧ g.counters.toNat / 2 ^ 24 % 64 = g.cnt .xt := by
  have hc : ∀ c, g.cnt c ≤ 63 := fun c => (List.length_filter_le _ _).trans h
  have hl := hc .ld
  have hs := hc .st
  have hp := hc .cp
  have hx := hc .xt
  simp only [Group.counters, BitVec.toNat_ofNat]
  omega

/-- `tlevel` (R260). -/
theorem level_fields {g : Group} (h : g.lvl ≤ 2) :
    g.level.toNat % 4 = g.lvl ∧ g.level.getLsbD 2 = g.pv ∧ g.level.getLsbD 3 = (g.ts == .b) ∧ g.level.toNat < 16 := by
  have key : ∀ l, l ≤ 2 → ∀ (p : Bool) (t : PcSel),
      let w := BitVec.ofNat 32 (l + (if p then 4 else 0) + (if t = .b then 8 else 0))
      w.toNat % 4 = l ∧ w.getLsbD 2 = p ∧ w.getLsbD 3 = (t == .b) ∧ w.toNat < 16 := by
    intro l hl p t
    interval_cases l <;> cases p <;> cases t <;> decide
  exact key g.lvl h g.pv g.ts

/-- `bankst` (R120). -/
theorem bankStatus_status (b : Bank) : BankStatus b b.status := by
  have key : ∀ (m c q : Nat) (lent claimed drains : Bool), m ≤ 2 →
      let w := BitVec.ofNat 32 (m * 2 ^ 30 + c % 2 * 2 ^ 29 + (if lent then 2 ^ 28 else 0) + (if claimed then 2 ^ 27 else 0) +
        (if drains then 2 ^ 26 else 0) + q % 8 * 2 ^ 23)
      w.toNat / 2 ^ 30 = m ∧ w.toNat / 2 ^ 29 % 2 = c % 2 ∧ w.getLsbD 28 = lent ∧ w.getLsbD 27 = claimed ∧ w.getLsbD 26 = drains ∧
        w.toNat / 2 ^ 23 % 8 = q % 8 ∧ w.toNat % 2 ^ 23 = 0 := by
    intro m c q lent claimed drains hm
    simp only [BitVec.toNat_ofNat, BitVec.getLsbD, Nat.testBit_eq_decide_div_mod_eq]
    cases lent <;> cases claimed <;> cases drains <;> simp <;> omega
  exact key _ b.core b.fifo _ _ _ (by cases b.mode <;> decide)

/-- `llctl`: `thr` above the quarter's limit (R214). -/
theorem llctl_fields (thr : BitVec 8) {limit : Nat} (h : limit < 256) :
    (BitVec.ofNat 32 (thr.toNat * 2 ^ 8 + limit)).toNat = thr.toNat * 256 + limit := by
  have := thr.isLt
  rw [BitVec.toNat_ofNat]
  omega

theorem sysRead_trap1 (s : State) (g : Group) {n : Nat} (h : 0x30 ≤ n) (h' : n ≤ 0x30 + 0xB) :
    s.sysRead g n = g.trap1.read (n - 0x30) := by
  interval_cases n <;> rfl

theorem sysRead_trap2 (s : State) (g : Group) {n : Nat} (h : 0x40 ≤ n) (h' : n ≤ 0x40 + 0xB) :
    s.sysRead g n = g.trap2.read (n - 0x40) := by
  interval_cases n <;> rfl

/-- The registers of a trap bank, by their distance from its first one (R259). -/
theorem trapRegs_read (base : Nat) (t : TrapBank) (n : Nat) {w : Word} (h : base ≤ n → n ≤ base + 0xB → w = t.read (n - base)) :
    TrapRegs base t n w := by
  have at_ : ∀ k, k ≤ 0xB → n = base + k → w = t.read k := by
    rintro k hk rfl
    rw [h (by omega) (by omega), Nat.add_sub_cancel_left]
  exact ⟨at_ 0 (by decide), at_ 1 (by decide), at_ 2 (by decide), at_ 3 (by decide), at_ 4 (by decide), at_ 5 (by decide),
    at_ 6 (by decide), at_ 7 (by decide), at_ 8 (by decide), at_ 9 (by decide), at_ 10 (by decide), at_ 11 (by decide)⟩

/-! ### The word -/

theorem exec_sysr (f : Fields) (s : State) : exec (.sysr f) s = issue Op.sysr f readSystem s := rfl

/-- The group with what a read of a half of the clock latches (R243). -/
def Group.latched (g : Group) (n clk : Nat) : Group :=
  if n = 0x0E then { g with clkHi := some (BitVec.ofNat 32 (clk / 2 ^ 32)) }
  else if n = 0x0F then { g with clkHi := none } else g

theorem readSystem_eq (e : Env) (g : Group) (s : State) : readSystem e g s =
    .ok (s.setGroup e.gid ((g.latched e.f.a.toNat s.clk).sPut e.sel e.f.d (s.sysRead g e.f.a.toNat))) := rfl

/-- SYSR completes with the value of the register in D; what the group latches of the clock goes with it (R243, R322). -/
theorem sysr_does {s : State} {c : Cursor} {g : Group} {f : Fields} (h : Ready s c g Op.sysr f) (hs : StepOff g) :
    Does (.sysr f) s c g
      (((g.begun (c.env g Op.sysr f)).latched f.a.toNat s.clk).sPut c.sel f.d (s.sysRead g f.a.toNat)) := by
  refine (issue_completes h hs (exec_sysr f s) (readSystem_eq _ _ _)).congr (fun k => ?_)
    (by simp only [outside_setGroup]) (by simp only [clk_setGroup])
  rw [sysRead_begun]
  by_cases hk : k = c.gid
  · subst hk
    exact (group_setGroup_same _ _ _).trans (group_setGroup_same _ _ _).symm
  · rw [group_setGroup_other _ _ hk]
    exact ((group_setGroup_other _ _ hk).trans (group_setGroup_other _ _ hk)).symm

/-- Settles O19: SYSR writes what `sysRead` gives, which is, number by number, what R259 lists. -/
theorem systemReads : Obligations.SystemReads := by
  unfold Obligations.SystemReads
  intro s c g f hready hstep
  refine ⟨s.sysRead g f.a.toNat, sysr_does hready hstep, ?_⟩
  generalize f.a.toNat = n
  have at_ : ∀ {k : Nat} {w : Word}, s.sysRead g k = w → n = k → s.sysRead g n = w := by
    rintro k w h rfl
    exact h
  refine ⟨at_ rfl, at_ rfl, at_ rfl, at_ rfl, at_ rfl, at_ rfl, at_ rfl, at_ rfl, at_ rfl, at_ rfl, at_ rfl, at_ rfl, at_ rfl,
    at_ (BitVec.ofNat_toNat _ _), at_ rfl, at_ rfl, at_ rfl, ?_, ?_, at_ rfl, at_ rfl, at_ rfl, at_ rfl, at_ rfl, at_ rfl, ?_, at_ (lo32_setWidth _),
    at_ (hi32_setWidth _), at_ rfl, trapRegs_read _ _ _ ?_, trapRegs_read _ _ _ ?_, at_ (lo32_setWidth _), at_ (hi32_setWidth _),
    at_ (lo32_setWidth _), at_ (hi32_setWidth _), at_ rfl, at_ rfl, at_ rfl, at_ rfl, at_ rfl, at_ rfl, at_ rfl, at_ rfl, ?_, ?_,
    at_ (lo32_setWidth _), at_ (hi32_setWidth _), at_ (lo32_setWidth _), at_ (hi32_setWidth _), at_ rfl, at_ rfl⟩
  · exact fun h hl => at_ (w := s.watchStatus g) rfl h ▸ watchStatus_fields hl
  · exact fun h hl => at_ (w := g.counters) rfl h ▸ counters_fields hl
  · exact fun h hl => at_ (w := g.level) rfl h ▸ level_fields hl
  · exact sysRead_trap1 s g
  · exact sysRead_trap2 s g
  · exact fun h => at_ (k := 0x68) rfl h ▸ bankStatus_status _
  · exact fun h hl => at_ (k := 0x69) rfl h ▸ llctl_fields _ hl

end Sys2Proof.Machine

/-! What SYSW writes (O20). -/

namespace Sys2Proof.Machine

open Sys2Proof Sys2Proof.Claims

/-! ### Halves of addresses -/

theorem putVaHalf_low (x : VA) (w : Word) : putVaHalf false x w = x.extractLsb' 32 20 ++ w := by
  unfold putVaHalf putHalf
  rw [if_neg Bool.false_ne_true, hi32_setWidth]
  apply BitVec.eq_of_getLsbD_eq
  intro k hk
  rw [pair64, BitVec.getLsbD_append, BitVec.getLsbD_setWidth, BitVec.getLsbD_append]
  by_cases h : k < 32
  · simp only [if_pos h, hk, decide_true, Bool.true_and]
  · simp [h, hk, show k - 32 < 32 by omega]

theorem putVaHalf_high (x : VA) (w : Word) : putVaHalf true x w = w.setWidth 20 ++ x.setWidth 32 := by
  unfold putVaHalf putHalf
  rw [if_pos rfl, lo32_setWidth]
  apply BitVec.eq_of_getLsbD_eq
  intro k hk
  rw [pair64, BitVec.getLsbD_append, BitVec.getLsbD_setWidth, BitVec.getLsbD_append]
  by_cases h : k < 32
  · simp only [if_pos h, hk, decide_true, Bool.true_and]
  · simp [h, hk, show k - 32 < 20 by omega]

/-- The first word of a mask is written, the others stay. -/
theorem setMaskWord_zero (m : Mask) (w : Word) : setMaskWord m 0 w = m.extractLsb' 32 64 ++ w := by
  have hkeep : ∀ k < 96, (~~~((0xFFFFFFFF#96) <<< (32 * 0))).getLsbD k = !decide (k < 32) := by decide
  unfold setMaskWord
  apply BitVec.eq_of_getLsbD_eq
  intro k hk
  rw [BitVec.getLsbD_append, BitVec.getLsbD_or, BitVec.getLsbD_and, hkeep k hk]
  by_cases h : k < 32
  · simp [h, hk]
  · simp [h, show k - 32 < 64 by omega, show 32 + (k - 32) = k by omega, BitVec.getLsbD_of_ge w k (by omega)]

/-! ### Registers of the group (R258, R259) -/

section

variable {t : TrapBank} (h : t.cause ≠ 0x0B#32) (h' : t.cause ≠ 0x0C#32)

include h h'

/-- Of a cause other than TRANSLATION and PROTECTION no bit of `tinfo` is RW (R104). -/
theorem writable_plain : t.writable = 0#32 := by
  simp [TrapBank.writable, Cause.translation, Cause.protection, h, h']

theorem write_ret_low (full : Mask) (w : Word) : t.write full 1 w = { t with ret := t.ret.extractLsb' 32 20 ++ w } := by
  have hr : t.replays = false := by
    simp [TrapBank.replays, Cause.translation, Cause.protection, h, h']
  simp [TrapBank.write, hr, putVaHalf_low]

theorem write_info_plain (full : Mask) (w : Word) : t.write full 11 w = t := by
  simp only [TrapBank.write, writable_plain h h', BitVec.and_zero, BitVec.or_zero]
  rw [show t.info &&& ~~~0#32 = t.info from BitVec.and_allOnes]

end

theorem write_mask_low (t : TrapBank) (full : Mask) (w : Word) :
    t.write full 3 w = { t with mask := (t.mask.extractLsb' 32 64 ++ w) &&& full } := by
  simp [TrapBank.write, setMaskWord_zero]

theorem begun_die (g : Group) (e : Env) : (g.begun e).die = g.die := by
  obtain ⟨a, b, h⟩ := begun_eq g e
  rw [h]

theorem begun_ops (g : Group) (e : Env) : (g.begun e).ops = g.ops := by
  obtain ⟨a, b, h⟩ := begun_eq g e
  rw [h]

/-! ### The word -/

theorem exec_sysw (f : Fields) (s : State) : exec (.sysw f) s = issue Op.sysw f writeSystem s := rfl

/-- A register below 0x60 is one of the group, which SYSW writes at once (R322). -/
theorem writeSystem_group {e : Env} (g : Group) (s : State) (h : e.f.a.toNat < 0x60) :
    writeSystem e g s = .ok (s.setGroup e.gid (g.sysWrite e.f.a.toNat (g.sB e.sel e.f))) := by
  simp only [writeSystem, Nat.not_le.2 h, ↓reduceIte]

/-- SYSW to a register of the group changes the group alone (R322). -/
theorem sysw_does {s : State} {c : Cursor} {g : Group} {f : Fields} (h : Ready s c g Op.sysw f) (hs : StepOff g)
    (hn : f.a.toNat < 0x60) : Does (.sysw f) s c g
      ((g.begun (c.env g Op.sysw f)).sysWrite f.a.toNat ((g.begun (c.env g Op.sysw f)).sB c.sel f)) := by
  refine (issue_completes h hs (exec_sysw f s) (writeSystem_group _ _ hn)).congr (fun k => ?_)
    (by simp only [outside_setGroup]) (by simp only [clk_setGroup])
  by_cases hk : k = c.gid
  · subst hk
    exact (group_setGroup_same _ _ _).trans (group_setGroup_same _ _ _).symm
  · rw [group_setGroup_other _ _ hk]
    exact ((group_setGroup_other _ _ hk).trans (group_setGroup_other _ _ hk)).symm

/-- What SYSW does to a register of the group is what `sysWrite` does. -/
theorem rowIf_of_sysWrite {cond : PcSel → Fields → Group → Prop} {eff : PcSel → Fields → Group → Group}
    (hn : ∀ sel f g, cond sel f g → f.a.toNat < 0x60 ∧ g.sysWrite f.a.toNat (g.sB sel f) = eff sel f g) :
    RowIf .sysw cond eff := by
  intro s c g f op hop hready hstep hcond
  cases hop
  obtain ⟨hlt, heq⟩ := hn c.sel f _ hcond
  rw [← heq]
  exact sysw_does hready hstep hlt

/-- The same for a register by its number. -/
theorem rowIf_of_sysWrite_at {n : Nat} (hlt : n < 0x60) {eff : PcSel → Fields → Group → Group}
    (h : ∀ sel f g, g.sysWrite n (g.sB sel f) = eff sel f g) : RowIf .sysw (fun _ f _ => f.a.toNat = n) eff :=
  rowIf_of_sysWrite (fun sel f g hf => ⟨hf ▸ hlt, hf ▸ h sel f g⟩)

/-- A machine register is not written while an earlier access of the group is open (R323). -/
theorem writeSystem_open {e : Env} {g : Group} (s : State) (hn : 0x60 ≤ e.f.a.toNat) (h : g.ops.any (fun o => !o.done) = true) :
    writeSystem e g s = .wait s := by
  have hu : g.undone.isEmpty = false := by
    obtain ⟨o, ho, hd⟩ := List.any_eq_true.1 h
    exact List.isEmpty_eq_false_iff.2 (List.ne_nil_of_mem (List.mem_filter.2 ⟨ho, hd⟩))
  simp [writeSystem, hn, hu]

/-- A machine register is written when no earlier access of the group is open, and `xictl` only while no invalidation is in progress
(R99, R323). -/
theorem writeSystem_machine {e : Env} {g : Group} (s : State) (hn : 0x60 ≤ e.f.a.toNat) (h : g.ops.all (fun o => o.done) = true)
    (hx : e.f.a.toNat = 0x65 → s.mem.xiBusy = false) :
    writeSystem e g s = .ok (s.machineWrite g e.f.a.toNat (g.sB e.sel e.f)) := by
  have hu : g.undone.isEmpty = true := by
    simp only [Group.undone, List.isEmpty_iff, List.filter_eq_nil_iff]
    intro o ho
    simpa using List.all_eq_true.1 h o ho
  by_cases h65 : e.f.a.toNat = 0x65
  · simp [writeSystem, hn, hu, hx h65]
  · simp [writeSystem, hn, hu, h65]

section

variable {s : State} {c : Cursor} {g : Group} {f : Fields} (hready : Ready s c g Op.sysw f) (hstep : StepOff g)
  (hn : 0x60 ≤ f.a.toNat)

include hready hn

/-- While an earlier access of the group is open, SYSW of a machine register waits at its address (R323). -/
theorem sysw_waits (h : g.ops.any (fun o => !o.done) = true) : exec (.sysw f) s =
    .next (((s.setGroup c.gid (g.begun (c.env g Op.sysw f))).setGroup c.gid g).stall c.gid c.sel (isLongWait Op.sysw.code)) := by
  rw [exec_sysw, issue_ready hready]
  dsimp only
  rw [writeSystem_open _ hn (by rwa [begun_ops])]

include hstep

/-- SYSW of a machine register completes once no earlier access of the group is open (R323). -/
theorem sysw_completes (h : g.ops.all (fun o => o.done) = true) (hx : f.a.toNat = 0x65 → s.mem.xiBusy = false) :
    Completes (.sysw f) s ((s.setGroup c.gid (g.begun (c.env g Op.sysw f))).machineWrite (g.begun (c.env g Op.sysw f)) f.a.toNat
      ((g.begun (c.env g Op.sysw f)).sB c.sel f)) c g := by
  exact issue_completes hready hstep (exec_sysw f s) (writeSystem_machine _ hn (by rwa [begun_ops]) hx)

end

/-! ### A word that waits -/

/-- The group of a word that waits is as it was, but for bookkeeping. -/
theorem books_stall {s : State} {k : Nat} {g : Group} (sel : PcSel) (long : Bool) (h : s.group? k = some g) :
    ((s.stall k sel long).group? k).map Group.books = some g.books := by
  have h' : ({ s with cur := none, clk := s.clk + 1 } : State).group? k = some g := h
  simp only [State.stall, h', group_setGroup_same, Option.map_some]
  rfl

/-- The others are as they were. -/
theorem group_stall_other (s : State) {k j : Nat} (sel : PcSel) (long : Bool) (hj : j ≠ k) :
    (s.stall k sel long).group? j = s.group? j := by
  unfold State.stall
  dsimp only
  split
  · exact group_setGroup_other _ _ hj
  · rfl

/-! ### What the completion of a word leaves to land -/

theorem mem_post {s : State} {i : Instr} (e : Instr) (h : i ∈ s.agenda) : i ∈ (s.post e).agenda :=
  List.mem_append_left _ h

theorem noteIssue_agenda (s : State) (k : Nat) (sel : PcSel) (lvl : Nat) : (s.noteIssue k sel lvl).agenda = s.agenda := by
  unfold State.noteIssue
  split <;> rfl

theorem noteLoad_agenda (s : State) (e : Env) (c : Option Cursor) : (s.noteLoad e c).agenda = s.agenda := by
  unfold State.noteLoad
  split
  · rfl
  · dsimp only
    split
    · split
      · rw [setGroup_agenda]
        split <;> rfl
      · split <;> rfl
    · split <;> rfl

theorem endReplay_agenda (s : State) (k : Nat) (sel : PcSel) (g0 : Group) : (s.endReplay k sel g0).agenda = s.agenda := by
  unfold State.endReplay
  dsimp only
  split
  · split <;> rfl
  · rfl

/-- With STEP not due, the completion of a word posts events and drops none. -/
theorem mem_retire {s : State} {e : Env} {g0 : Group} {i : Instr} (hs : StepOff g0) (h : i ∈ s.agenda) :
    i ∈ (s.retire e g0).agenda := by
  have hn : (g0.lvl = 0 && g0.troute.getLsbD 16) = false := by
    by_cases hl : g0.lvl = 0
    · rw [hs hl, Bool.and_false]
    · simp [hl]
  have hp : ∀ (t : State) (b : Bool) (x : Instr), i ∈ t.agenda → i ∈ (if b = true then t.post x else t).agenda := by
    intro t b x ht
    split
    · exact mem_post x ht
    · exact ht
  unfold State.retire
  dsimp only
  have h1 : i ∈ (({ s with cur := e.runOn s, clk := s.clk + g0.beats }.noteIssue e.gid e.sel g0.lvl).noteLoad e s.cur).agenda := by
    rw [noteLoad_agenda, noteIssue_agenda]
    exact h
  generalize (({ s with cur := e.runOn s, clk := s.clk + g0.beats }.noteIssue e.gid e.sel g0.lvl).noteLoad e s.cur) = s1 at h1 ⊢
  split
  · exact h1
  · split
    · exact h1
    · rw [if_neg (by simpa using hn)]
      split
      · exact mem_post _ (hp _ _ _ (hp _ _ _ h1))
      · exact hp _ _ _ (hp _ _ _ h1)

/-! ### Machine registers (R98, R99, R214, R259) -/

section

variable (s : State) (g : Group) (w : Word)

theorem machineWrite_ctxtab (h : s.hasContexts = false) :
    s.machineWrite g 0x60 w = { s with mem := { s.mem with ctxtab := s.mem.ctxtab.extractLsb' 32 32 ++ w } } := by
  simp only [State.machineWrite, State.writeCtxtab, h]
  rfl

/-- While a context other than 0 exists, `ctxtab` and `mbound` are fixed (R98). -/
theorem machineWrite_fixed {n : Nat} (hn : n = 0x60 ∨ n = 0x61 ∨ n = 0x62) (h : s.hasContexts = true) :
    s.machineWrite g n w = s := by
  rcases hn with rfl | rfl | rfl <;> simp only [State.machineWrite, State.writeCtxtab, State.writeMbound, h, Bool.true_or, ↓reduceIte]

theorem machineWrite_mbound (h : s.hasContexts = false) (hw : w.toNat ≤ s.channelMiB) :
    s.machineWrite g 0x62 w = { s with mem := { s.mem with mbound := w.toNat } } := by
  simp [State.machineWrite, State.writeMbound, h, hw]

theorem machineWrite_banksel : s.machineWrite g 0x67 w = s.setDie g.die { s.die g.die with banksel := w.setWidth 6 } := rfl

theorem machineWrite_llctl : s.machineWrite g 0x69 w = s.setDie g.die { s.die g.die with llthr := w.extractLsb' 8 8 } := rfl

theorem machineWrite_cimtab_low : s.machineWrite g 0x6E w =
    s.setDie g.die { s.die g.die with cimtab := (s.die g.die).cimtab.extractLsb' 32 32 ++ w } := rfl

theorem machineWrite_cimtab_high : s.machineWrite g 0x6F w =
    s.setDie g.die { s.die g.die with cimtab := w ++ (s.die g.die).cimtab.setWidth 32 } :=
  congrArg (fun x => s.setDie g.die { s.die g.die with cimtab := w ++ x }) (BitVec.setWidth_eq_extractLsb' (by decide)).symm

theorem machineWrite_hvec : s.machineWrite g 0x6A w =
    s.setDie g.die { s.die g.die with hvec := (s.die g.die).hvec.extractLsb' 32 20 ++ w } :=
  congrArg (fun x => s.setDie g.die { s.die g.die with hvec := x }) (putVaHalf_low _ w)

theorem machineWrite_hsav : s.machineWrite g 0x6C w =
    s.setDie g.die { s.die g.die with hsav := (s.die g.die).hsav.extractLsb' 32 20 ++ w } :=
  congrArg (fun x => s.setDie g.die { s.die g.die with hsav := x }) (putVaHalf_low _ w)

/-- The value 0x200 of `xictl` begins the invalidation of everything, which is to land (R99). -/
theorem machineWrite_xictl_all (h : s.mem.xiBusy = false) : s.machineWrite g 0x65 0x200#32 =
    { s with mem := { s.mem with xiBusy := true, xiNow := some .all } }.post .invalidationComplete := by
  have hx : xiSpan 0x200#32 s.mem.xiva = some .all := rfl
  simp only [State.machineWrite, hx, State.startInvalidation, h, Bool.false_eq_true, ↓reduceIte]

end

/-- SYSW of the value 0x200 to `xictl` begins the invalidation of everything (R99). -/
theorem writeSystem_invalidates {e : Env} {g : Group} (s : State) (hn : e.f.a.toNat = 0x65) (h : g.ops.all (fun o => o.done) = true)
    (hx : s.mem.xiBusy = false) (hw : g.sB e.sel e.f = 0x200#32) : writeSystem e g s =
      .ok ({ s with mem := { s.mem with xiBusy := true, xiNow := some .all } }.post .invalidationComplete) := by
  rw [writeSystem_machine s (by omega) h (fun _ => hx), hn, hw, machineWrite_xictl_all s g hx]

/-- What the effect of a word posts is to land once the word has completed. -/
theorem mem_of_issue {i x : Instr} {s sE t : State} {c : Cursor} {g : Group} {op : Op} {f : Fields}
    {body : Env → Group → State → Res} (h : Ready s c g op f) (hs : StepOff g) (hi : exec i s = issue op f body s)
    (hb : body (c.env g op f) (g.begun (c.env g op f)) (s.setGroup c.gid (g.begun (c.env g op f))) = .ok sE)
    (hx : x ∈ sE.agenda) (ht : exec i s = .next t) : x ∈ t.agenda := by
  rw [hi, issue_ready h] at ht
  simp only [hb] at ht
  cases ht
  exact mem_retire hs (by rwa [endReplay_agenda])

/-- Settles O20: below 0x60 SYSW is `sysWrite` on the group; from there on it waits for the group's accesses, then is
`machineWrite`. -/
theorem systemWrites : Obligations.SystemWrites := by
  unfold Obligations.SystemWrites
  refine ⟨⟨?_, ?_, ?_, ?_, ?_, ?_, ?_, ?_, ?_, ?_, ?_, ?_, ?_, ?_⟩, fun s c g f hready hstep hn => ⟨fun hopen => ?_, fun hdone => ?_⟩⟩
  · exact rowIf_of_sysWrite_at (by decide) (fun _ _ _ => rfl)
  · exact rowIf_of_sysWrite_at (by decide) (fun _ _ _ => rfl)
  · exact rowIf_of_sysWrite_at (by decide) (fun _ _ g => congrArg (fun x => { g with tvecUser := x }) (putVaHalf_low _ _))
  · exact rowIf_of_sysWrite_at (by decide) (fun _ _ g => congrArg (fun x => { g with tvecUser := x }) (putVaHalf_high _ _))
  · exact rowIf_of_sysWrite_at (by decide) (fun _ _ _ => rfl)
  · exact rowIf_of_sysWrite_at (by decide) (fun _ _ g => congrArg (fun x => { g with tvecDev := x }) (putVaHalf_low _ _))
  · exact rowIf_of_sysWrite_at (by decide) (fun _ _ g => congrArg (fun x => { g with tvecDev := x }) (putVaHalf_high _ _))
  · exact rowIf_of_sysWrite_at (by decide) (fun _ _ g => congrArg (fun x => { g with tsave := x }) (putVaHalf_low _ _))
  · exact rowIf_of_sysWrite_at (by decide) (fun _ _ g => congrArg (fun x => { g with tsave := x }) (putVaHalf_high _ _))
  · exact rowIf_of_sysWrite_at (by decide) (fun _ _ _ => rfl)
  · exact rowIf_of_sysWrite_at (by decide) (fun _ _ _ => rfl)
  · refine rowIf_of_sysWrite (fun sel f g ⟨hf, h, h'⟩ => ⟨by omega, ?_⟩)
    rw [hf]
    exact congrArg (fun x => { g with trap1 := x }) (write_ret_low h h' g.full (g.sB sel f))
  · refine rowIf_of_sysWrite (fun sel f g ⟨hf, h, h'⟩ => ⟨by omega, ?_⟩)
    rw [hf]
    exact congrArg (fun x => { g with trap1 := x }) (write_info_plain h h' g.full (g.sB sel f))
  · exact rowIf_of_sysWrite_at (by decide) (fun _ _ g => congrArg (fun x => { g with trap1 := x }) (write_mask_low _ _ _))
  · refine ⟨_, sysw_waits hready hn hopen, stall_cur _ _ _ _, ?_, books_stall _ _ (group_setGroup_same _ _ _), fun k hk => ?_⟩
    · simp only [stall_outside, outside_setGroup]
    · rw [group_stall_other _ _ _ hk, group_setGroup_other _ _ hk, group_setGroup_other _ _ hk]
  · have at_ : ∀ {k : Nat} {sE : State}, k ≠ 0x65 → (s.setGroup c.gid (g.begun (c.env g Op.sysw f))).machineWrite
        (g.begun (c.env g Op.sysw f)) k ((g.begun (c.env g Op.sysw f)).sB c.sel f) = sE → f.a.toNat = k → Completes (.sysw f) s sE c g := by
      rintro k sE hk rfl rfl
      exact sysw_completes hready hstep hn hdone (fun h => absurd h hk)
    refine ⟨fun h hc => at_ (by decide) (machineWrite_ctxtab _ _ _ hc) h, fun h hc => ?_,
      fun h hc hw => at_ (by decide) (machineWrite_mbound _ _ _ hc hw) h, at_ (by decide) rfl, at_ (by decide) rfl,
      at_ (by decide) ?_, at_ (by decide) ?_, at_ (by decide) ?_, at_ (by decide) ?_, at_ (by decide) ?_, at_ (by decide) ?_,
      fun h hb hw => ?_⟩
    · exact at_ (by omega) (machineWrite_fixed _ _ _ h hc) rfl
    · rw [machineWrite_banksel, begun_die, setGroup_die]
    · rw [machineWrite_llctl, begun_die, setGroup_die]
    · rw [machineWrite_hvec, begun_die, setGroup_die]
    · rw [machineWrite_hsav, begun_die, setGroup_die]
    · rw [machineWrite_cimtab_low, begun_die, setGroup_die]
    · rw [machineWrite_cimtab_high, begun_die, setGroup_die]
    · have hdo := writeSystem_invalidates (e := c.env g Op.sysw f) (s.setGroup c.gid (g.begun (c.env g Op.sysw f))) h
        (by rwa [begun_ops]) hb hw
      exact ⟨(issue_completes hready hstep (exec_sysw f s) hdo).congr (fun _ => rfl) rfl rfl,
        fun t ht => mem_of_issue hready hstep (exec_sysw f s) hdo (List.mem_append_right _ (List.mem_singleton.2 rfl)) ht⟩

end Sys2Proof.Machine

/-! An invalidation where the map of L2 lines lists one key twice (O60). -/

namespace Sys2Proof.Machine

open Sys2Proof

/-- The state of `doubledState`, which lists the key of CD1's copy twice, with the invalidation of everything in progress. -/
def doubledInvalidation : State :=
  { doubledState with mem := { doubledState.mem with xiBusy := true, xiNow := some .all } }

/-- When the invalidation completes, a lookup finds CD1's copy: its removal met the entry without a line and did nothing, and the
writeback of CD2's copy, which goes by the list, wrote the listed copy to the key. -/
theorem doubledInvalidation_revives :
    (doubledInvalidation.endInvalidation.l2At (l2Key 1 0 doubledVa)).isSome = true := by
  decide +kernel

/-- Everything is covered, that line too. -/
theorem doubledInvalidation_covers :
    (doubledInvalidation.cover .all).has (l2KeyCtx (l2Key 1 0 doubledVa)) (l2KeyLine (l2Key 1 0 doubledVa) * 128) = true := by
  decide +kernel

/-- Refutes O60 where an invalidation completes: that no covered line can be looked up any more fails in a state whose map of L2 lines is
not in canonical form (`SMap.wf`), which the statement does not exclude. In `doubledInvalidation` the copy of CD1, listed behind an entry
without a line, can be looked up after everything has been invalidated. -/
theorem not_invalidationAndRegisterEvents : ¬ Obligations.InvalidationAndRegisterEvents := by
  unfold Obligations.InvalidationAndRegisterEvents
  rintro ⟨-, hcomplete, -⟩
  obtain ⟨t, ht, hl2, -⟩ := hcomplete doubledInvalidation .all rfl
  obtain rfl : doubledInvalidation.endInvalidation = t := Host.Outcome.next.inj ht
  obtain ⟨y, hy⟩ := Option.isSome_iff_exists.1 doubledInvalidation_revives
  exact hl2 _ y hy doubledInvalidation_covers

end Sys2Proof.Machine

/-! What keeps every memory in its canonical form (O7): the form of a state, and of what an operation answers. -/

namespace Sys2Proof.Machine

open Sys2Proof

/-- What leaves the four memories alone keeps their form. -/
theorem State.MemoryOk.same {s t : State} (h : s.MemoryOk)
    (e : (t.mem.dram, t.bankMem, t.host.mem, t.fab.remote) = (s.mem.dram, s.bankMem, s.host.mem, s.fab.remote)) : t.MemoryOk := by
  simp only [Prod.mk.injEq] at e
  obtain ⟨hd, hb, hh, hr⟩ := e
  exact h.congr hd hb hh hr

/-- A step that is taken or not. -/
theorem State.MemoryOk.opt {s t : State} {c : Prop} {_ : Decidable c} (h : s.MemoryOk) (hf : s.MemoryOk → t.MemoryOk) :
    (if c then t else s).MemoryOk := by
  split
  · exact hf h
  · exact h

/-- A step that is left out or not. -/
theorem State.MemoryOk.unless {s t : State} {c : Prop} {_ : Decidable c} (h : s.MemoryOk) (hf : s.MemoryOk → t.MemoryOk) :
    (if c then s else t).MemoryOk := by
  split
  · exact h
  · exact hf h

/-- One of two steps. -/
theorem State.MemoryOk.ite {s t : State} {c : Prop} {_ : Decidable c} (h : s.MemoryOk) (h' : t.MemoryOk) :
    (if c then s else t).MemoryOk := by
  split
  · exact h
  · exact h'

/-- A step that is repeated over a list. -/
theorem State.MemoryOk.foldl {s : State} {α : Type} {f : State → α → State} {xs : List α} (h : s.MemoryOk)
    (hf : ∀ t x, t.MemoryOk → (f t x).MemoryOk) : (xs.foldl f s).MemoryOk := foldl_memoryOk f hf xs s h

theorem State.MemoryOk.fst {α : Type} {p : State × α} {t : State} {x : α} (h : p.1.MemoryOk) (e : p = (t, x)) : t.MemoryOk := by
  rw [e] at h
  exact h

theorem State.MemoryOk.snd {α : Type} {p : α × State} {t : State} {x : α} (h : p.2.MemoryOk) (e : p = (x, t)) : t.MemoryOk := by
  rw [e] at h
  exact h

/-- A fold over what holds a state among other things. -/
theorem foldl_keeps_memoryOk {α β : Type} (p : α → State) {f : α → β → α} {a : α} {xs : List β} (h : (p a).MemoryOk)
    (hf : ∀ b x, (p b).MemoryOk → (p (f b x)).MemoryOk) : (p (xs.foldl f a)).MemoryOk :=
  List.foldlRecOn (motive := fun b => (p b).MemoryOk) xs f h (fun b hb x _ => hf b x hb)

/-- The state that an access leaves, whether it is performed or waits, has its memories in canonical form. -/
def Acc.Ok {α : Type} : Acc α → Prop
  | .done s _ => s.MemoryOk
  | .blocked s => s.MemoryOk

theorem Acc.Ok.done {α : Type} {r : Acc α} {t : State} {x : α} (h : r.Ok) (e : r = .done t x) : t.MemoryOk := by
  rw [e] at h
  exact h

theorem Acc.Ok.blocked {α : Type} {r : Acc α} {t : State} (h : r.Ok) (e : r = .blocked t) : t.MemoryOk := by
  rw [e] at h
  exact h

/-- The state that a step leaves, where the step is due, has its memories in canonical form. -/
inductive DueOk : Option State → Prop
  | idle : DueOk none
  | due {t : State} (h : t.MemoryOk) : DueOk (some t)

theorem DueOk.out {o : Option State} {t : State} (h : DueOk o) (e : o = some t) : t.MemoryOk := by
  subst e
  cases h
  assumption

/-- One step, or the other where the one is not due. -/
theorem DueOk.or {o o' : Option State} (h : DueOk o) (h' : DueOk o') : DueOk (o.or o') := by
  cases h with
  | idle => exact h'
  | due h => exact .due h

theorem DueOk.ite {c : Prop} {_ : Decidable c} {o o' : Option State} (h : DueOk o) (h' : DueOk o') :
    DueOk (if c then o else o') := by
  split
  · exact h
  · exact h'

theorem DueOk.when {c : Prop} {_ : Decidable c} {t : State} (h : t.MemoryOk) : DueOk (if c then some t else none) :=
  .ite (.due h) .idle

theorem DueOk.map {α : Type} {o : Option α} {f : α → State} (h : ∀ x, (f x).MemoryOk) : DueOk (o.map f) := by
  cases o with
  | none => exact .idle
  | some x => exact .due (h x)

theorem DueOk.bind {α : Type} {o : Option α} {f : α → Option State} (h : ∀ x, DueOk (f x)) : DueOk (o.bind f) := by
  cases o with
  | none => exact .idle
  | some x => exact h x

theorem DueOk.findSome {α : Type} {xs : List α} {f : α → Option State} (h : ∀ x, DueOk (f x)) : DueOk (xs.findSome? f) := by
  induction xs with
  | nil => exact .idle
  | cons x xs ih =>
    rw [List.findSome?_cons]
    split
    · exact .due ((h x).out ‹_›)
    · exact ih

/-- The state among what a computation answers, where it completes, has its memories in canonical form. -/
def StopOk {α : Type} (p : α → State) : Except EStop α → Prop
  | .ok x => (p x).MemoryOk
  | .error _ => True

theorem StopOk.out {α : Type} {p : α → State} {r : Except EStop α} {x : α} (h : StopOk p r) (e : r = .ok x) : (p x).MemoryOk := by
  rw [e] at h
  exact h

theorem StopOk.ite {α : Type} {p : α → State} {c : Prop} {_ : Decidable c} {r r' : Except EStop α} (h : StopOk p r)
    (h' : StopOk p r') :
    StopOk p (if c then r else r') := by
  split
  · exact h
  · exact h'

theorem StopOk.bind {α β : Type} {p : α → State} {q : β → State} {r : Except EStop α} {f : α → Except EStop β} (h : StopOk p r)
    (hf : ∀ x, (p x).MemoryOk → StopOk q (f x)) : StopOk q (r >>= f) := by
  cases r with
  | error x => trivial
  | ok x => exact hf x h

/-- The state that the effect of a word leaves has its memories in canonical form. -/
def Res.Ok : Res → Prop
  | .ok s | .trap _ s | .wait s | .waitAll s | .hold s => s.MemoryOk

theorem Res.Ok.of_ok {r : Res} {t : State} (h : r.Ok) (e : r = .ok t) : t.MemoryOk := by
  rw [e] at h
  exact h

theorem Res.Ok.of_trap {r : Res} {t : State} {x : TrapInfo} (h : r.Ok) (e : r = .trap x t) : t.MemoryOk := by
  rw [e] at h
  exact h

/-- The state that an instruction or event leaves, if any, has its memories in canonical form. -/
inductive OutcomeOk : Host.Outcome State Fault Refusal → Prop
  | next {t : State} (h : t.MemoryOk) : OutcomeOk (.next t)
  | fault {x : Fault} : OutcomeOk (.fault x)
  | refused {x : Refusal} : OutcomeOk (.refused x)

theorem OutcomeOk.out {r : Host.Outcome State Fault Refusal} {t : State} (h : OutcomeOk r) (e : r = .next t) : t.MemoryOk := by
  subst e
  cases h
  assumption

end Sys2Proof.Machine

/-! The operations on the state keep every memory in canonical form, in the order of the model's files (named in
brackets). The lemma of an operation `State.f` is `State.MemoryOk.f`, so that a chain `h.f.g` follows the operations of `s.f.g`. -/

namespace Sys2Proof.Machine

open Sys2Proof

/-! ### Updates of the parts of a state, traps, kills (Ops) -/

theorem State.MemoryOk.setGroup {s : State} {gid g} (h : s.MemoryOk) : (s.setGroup gid g).MemoryOk := h.same rfl

theorem State.MemoryOk.removeGroup {s : State} {gid} (h : s.MemoryOk) : (s.removeGroup gid).MemoryOk := h.same rfl

theorem State.MemoryOk.setCore {s : State} {k c} (h : s.MemoryOk) : (s.setCore k c).MemoryOk := h.same rfl

theorem State.MemoryOk.setQuarter {s : State} {k q} (h : s.MemoryOk) : (s.setQuarter k q).MemoryOk := h.same rfl

theorem State.MemoryOk.setDie {s : State} {d x} (h : s.MemoryOk) : (s.setDie d x).MemoryOk := h.same rfl

theorem State.MemoryOk.setContext {s : State} {c x} (h : s.MemoryOk) : (s.setContext c x).MemoryOk := h.same rfl

theorem State.MemoryOk.removeContext {s : State} {c} (h : s.MemoryOk) : (s.removeContext c).MemoryOk := h.same rfl

theorem State.MemoryOk.setLaunch {s : State} {lid x} (h : s.MemoryOk) : (s.setLaunch lid x).MemoryOk := h.same rfl

theorem State.MemoryOk.removeLaunch {s : State} {lid} (h : s.MemoryOk) : (s.removeLaunch lid).MemoryOk := h.same rfl

theorem State.MemoryOk.setTeam {s : State} {k t} (h : s.MemoryOk) : (s.setTeam k t).MemoryOk := h.same rfl

theorem State.MemoryOk.removeTeam {s : State} {k} (h : s.MemoryOk) : (s.removeTeam k).MemoryOk := h.same rfl

theorem State.MemoryOk.setBank {s : State} {k b} (h : s.MemoryOk) : (s.setBank k b).MemoryOk := h.same rfl

theorem State.MemoryOk.free {s : State} (h : s.MemoryOk) : s.free.2.MemoryOk := by
  unfold State.free
  dsimp only
  exact h.same (by dsimp only)

theorem State.MemoryOk.ifPowered {s : State} {f : State → State} (h : s.MemoryOk) (hf : ∀ t, t.MemoryOk → (f t).MemoryOk) :
    (s.ifPowered f).MemoryOk := by
  unfold State.ifPowered
  split
  · exact hf s h
  · exact h

theorem State.MemoryOk.unstall {s : State} {p} (h : s.MemoryOk) : (s.unstall p).MemoryOk := h.same rfl

theorem State.MemoryOk.killGroup {s : State} {gid} (h : s.MemoryOk) : (s.killGroup gid).MemoryOk := by
  unfold State.killGroup
  dsimp only
  split
  · exact h
  · exact (h.same (by rfl)).removeGroup.ite (h.same (by rfl)).setGroup

theorem State.MemoryOk.releaseBanks {s : State} {pair team} (h : s.MemoryOk) : (s.releaseBanks pair team).MemoryOk := h.same rfl

theorem State.MemoryOk.dropTeam {s : State} {k} (h : s.MemoryOk) : (s.dropTeam k).MemoryOk := by
  unfold State.dropTeam
  split
  · exact h
  · exact h.releaseBanks.removeTeam

theorem State.MemoryOk.killContext {s : State} {c} (h : s.MemoryOk) : (s.killContext c).MemoryOk := by
  unfold State.killContext
  dsimp only
  exact ((h.foldl (fun _ _ hx => hx.killGroup)).foldl (fun _ _ hx => hx.dropTeam)).same (by dsimp only)

theorem State.MemoryOk.escalate {s : State} {g record} (h : s.MemoryOk) : (s.escalate g record).MemoryOk := by
  unfold State.escalate
  dsimp only
  split
  · exact post_memoryOk _ _ (h.killContext.same (by dsimp only))
  · split
    · refine post_memoryOk _ _ (.setDie ?_)
      split
      · exact h.killContext.setContext
      · exact h.killContext
    · split
      · exact h.killContext.setContext
      · exact h.killContext

theorem State.MemoryOk.takeTrap {s : State} {gid sel t pc word lit} (h : s.MemoryOk) :
    (s.takeTrap gid sel t pc word lit).MemoryOk := by
  have hf : (if t.free = 0 then (0#1024, s) else s.free).2.MemoryOk := by
    split
    · exact h
    · exact h.free
  unfold State.takeTrap
  generalize (if t.free = 0 then (0#1024, s) else s.free) = p at hf ⊢
  split
  · exact h
  · dsimp only
    split
    · exact (hf.same (by dsimp only)).escalate
    · split
      · exact (hf.same (by dsimp only)).escalate
      · exact (hf.same (by dsimp only)).setGroup

/-! ### What the device tells the host and the Directors (Notify) -/

theorem State.MemoryOk.holdEvent {s : State} {bytes} (h : s.MemoryOk) : (s.holdEvent bytes).MemoryOk := by
  unfold State.holdEvent
  dsimp only
  exact post_memoryOk _ _ (h.same (by dsimp only))

theorem State.MemoryOk.hwEvent {s : State} {e} (h : s.MemoryOk) : (s.hwEvent e).MemoryOk := by
  unfold State.hwEvent
  dsimp only
  exact h.holdEvent.ite (h.same (by dsimp only))

theorem State.MemoryOk.dirBytes {s : State} {bs} (h : s.MemoryOk) : (s.dirBytes bs).MemoryOk := by
  unfold State.dirBytes
  dsimp only
  exact h.holdEvent.ite (h.same (by dsimp only))

theorem State.MemoryOk.dirEvent {s : State} {e} (h : s.MemoryOk) : (s.dirEvent e).MemoryOk := h.dirBytes

theorem State.MemoryOk.letIn {s : State} {n} (h : s.MemoryOk) : (s.letIn n).MemoryOk := by
  induction n generalizing s with
  | zero => exact h
  | succ n ih =>
    unfold State.letIn
    split
    · exact h
    · split
      · exact ih (h.same (by dsimp only)).holdEvent
      · exact h

theorem State.MemoryOk.tellDirector {s : State} {die m} (h : s.MemoryOk) : (s.tellDirector die m).MemoryOk := by
  unfold State.tellDirector
  dsimp only
  exact h.setDie

/-! ### The report of a line that is lost (Place) -/

theorem State.MemoryOk.reportLoss {s : State} {place row c va wher} (h : s.MemoryOk) :
    (s.reportLoss place row c va wher).MemoryOk := by
  unfold State.reportLoss
  dsimp only
  exact h.hwEvent

/-! ### The links (Links) -/

theorem State.MemoryOk.setLink {s : State} {n l} (h : s.MemoryOk) : (s.setLink n l).MemoryOk := h.same rfl

theorem State.MemoryOk.linksUp {s : State} {ns} (h : s.MemoryOk) : (s.linksUp ns).MemoryOk :=
  h.foldl (fun _ _ hx => hx.unless (·.setLink))

/-! ### Leaves that the translation caches hold (Translate) -/

theorem State.MemoryOk.cacheLeaf {s : State} {c va e} (h : s.MemoryOk) : (s.cacheLeaf c va e).MemoryOk := h.same rfl

/-! ### The memory-side caches (BaseDie) -/

theorem State.MemoryOk.mscLeave {s : State} {y} (h : s.MemoryOk) : (s.mscLeave y).MemoryOk := by
  unfold State.mscLeave
  dsimp only
  exact h.opt (·.same (by dsimp only))

theorem State.MemoryOk.mscPut {s : State} {loc x} (h : s.MemoryOk) : (s.mscPut loc x).MemoryOk := by
  unfold State.mscPut
  dsimp only
  exact (h.foldl (fun _ _ hx => hx.mscLeave)).same (by dsimp only)

theorem State.MemoryOk.mscDrop {s : State} {loc} (h : s.MemoryOk) : (s.mscDrop loc).MemoryOk := by
  unfold State.mscDrop
  dsimp only
  exact h.same (by dsimp only)

theorem State.MemoryOk.mscRead {s : State} {loc} (h : s.MemoryOk) : (s.mscRead loc).1.MemoryOk := by
  unfold State.mscRead
  split
  · split <;> exact h.mscPut
  · split
    · exact h.mscDrop
    · exact h

theorem State.MemoryOk.mscEvict {s : State} {loc dirty} (h : s.MemoryOk) : (s.mscEvict loc dirty).MemoryOk := by
  unfold State.mscEvict
  dsimp only
  split
  · split
    · exact h.mscPut
    · exact h
  · exact h.mscPut

/-! ### Copies, leases, the directory between dies, stores at their homes (Mem) -/

theorem State.MemoryOk.setL1 {s : State} {core key x} (h : s.MemoryOk) : (s.setL1 core key x).MemoryOk := by
  unfold State.setL1
  dsimp only
  exact h.setCore

theorem State.MemoryOk.noteVictim {s : State} {y} (h : s.MemoryOk) : (s.noteVictim y).MemoryOk := by
  unfold State.noteVictim
  dsimp only
  split
  · exact h
  · split
    · exact h.setGroup
    · exact h

theorem State.MemoryOk.victimHit {s : State} {gid va} (h : s.MemoryOk) : (s.victimHit gid va).MemoryOk := by
  unfold State.victimHit
  dsimp only
  split
  · exact h.opt (·.setGroup.setQuarter)
  · exact h

theorem State.MemoryOk.installL1 {s : State} {core x va} (h : s.MemoryOk) : (s.installL1 core x va).MemoryOk := by
  unfold State.installL1
  split
  · exact h.setL1
  · split
    · exact h.noteVictim.setL1
    · exact h

theorem State.MemoryOk.expireAll {s : State} {core} (h : s.MemoryOk) : (s.expireAll core).MemoryOk := h.setCore

theorem State.MemoryOk.raiseCt {s : State} {core t} (h : s.MemoryOk) : (s.raiseCt core t).MemoryOk := by
  unfold State.raiseCt
  dsimp only
  split
  · exact post_memoryOk _ _ h.setCore
  · exact h.setCore

theorem State.MemoryOk.setSysLine {s : State} {g x} (h : s.MemoryOk) : (s.setSysLine g x).MemoryOk := h.same rfl

theorem State.MemoryOk.setDieEntry {s : State} {loc x} (h : s.MemoryOk) : (s.setDieEntry loc x).MemoryOk := h.same rfl

theorem State.MemoryOk.makeEntry {s : State} {loc} (h : s.MemoryOk) : (s.makeEntry loc).MemoryOk := by
  unfold State.makeEntry
  dsimp only
  split
  · exact h
  · split
    · exact h
    · split
      · exact h
      · exact (h.foldl (fun _ _ hx => dropL2_memoryOk _ _ hx)).setDieEntry

theorem State.MemoryOk.setCopies {s : State} {loc die st} (h : s.MemoryOk) : (s.setCopies loc die st).MemoryOk := by
  unfold State.setCopies
  dsimp only
  exact h.foldl (fun _ _ hx => setL2_memoryOk _ _ _ hx)

theorem State.MemoryOk.dieRead {s : State} {loc die home} (h : s.MemoryOk) : (s.dieRead loc die home).MemoryOk := by
  unfold State.dieRead
  dsimp only
  split
  · exact h.unless (·.makeEntry.setDieEntry)
  · exact (h.setDieEntry.ite h.setDieEntry).setCopies
  · exact h.unless (fun hx => (hx.setDieEntry.ite hx.setDieEntry).setCopies)
  · exact h.unless (fun hx => (hx.setDieEntry.ite hx.setDieEntry).setCopies.setCopies.ite
      (hx.setDieEntry.ite hx.setDieEntry).setCopies.setCopies)

theorem State.MemoryOk.dieOwn {s : State} {loc die home} (h : s.MemoryOk) : (s.dieOwn loc die home).MemoryOk := by
  unfold State.dieOwn
  dsimp only
  exact (h.foldl (fun _ _ hx => dropL2_memoryOk _ _ hx)).setDieEntry.ite (h.foldl
    (fun _ _ hx => dropL2_memoryOk _ _ hx)).makeEntry.setDieEntry

/-! ### System-scope lines, and lines that enter and leave an L2 (Fabric) -/

theorem State.MemoryOk.carry {s : State} {m} (h : s.MemoryOk) : (s.carry m).MemoryOk := h.same rfl

theorem State.MemoryOk.useTxn {s : State} (h : s.MemoryOk) : s.useTxn.MemoryOk := h.same rfl

theorem State.MemoryOk.request {s : State} {g own} (h : s.MemoryOk) : (s.request g own).MemoryOk := by
  unfold State.request
  split
  · exact h.carry.useTxn
  · exact h

theorem State.MemoryOk.sendBack {s : State} {slot g l} (h : s.MemoryOk) : (s.sendBack slot g l).MemoryOk := h.carry.useTxn

theorem State.MemoryOk.missSys {s : State} {va own} (h : s.MemoryOk) : (s.missSys va own).MemoryOk := by
  unfold State.missSys
  dsimp only
  exact h.unless (·.setSysLine.request)

theorem State.MemoryOk.forgetSys {s : State} {g} (h : s.MemoryOk) : (s.forgetSys g).MemoryOk := by
  unfold State.forgetSys
  dsimp only
  exact (dropL2_memoryOk _ _ h).setSysLine

theorem State.MemoryOk.evictSys {s : State} {g} (h : s.MemoryOk) : (s.evictSys g).MemoryOk := by
  unfold State.evictSys
  dsimp only
  split
  · exact h
  · split
    · split
      · exact h.setSysLine.forgetSys.sendBack
      · exact h.forgetSys
    · exact h.forgetSys

theorem State.MemoryOk.evictL2 {s : State} {k} (h : s.MemoryOk) : (s.evictL2 k).MemoryOk := by
  unfold State.evictL2
  dsimp only
  split
  · exact h
  · exact (dropL2_memoryOk _ _ h.evictSys).ite ((dropL2_memoryOk _ _ h).opt (·.mscEvict))

theorem State.MemoryOk.makeWay {s : State} {sk} (h : s.MemoryOk) : (s.makeWay sk).MemoryOk := by
  unfold State.makeWay
  dsimp only
  split
  · exact h
  · split
    · exact h.evictL2
    · exact h

theorem State.MemoryOk.fillFrom {s : State} {die va loc a} (h : s.MemoryOk) : (s.fillFrom die va loc a).1.MemoryOk := by
  unfold State.fillFrom
  dsimp only
  split
  · exact h.mscRead
  · exact h

theorem State.MemoryOk.ensureL2 {s : State} {die c va e} (h : s.MemoryOk) : (s.ensureL2 die c va e).1.MemoryOk := by
  unfold State.ensureL2
  dsimp only
  split
  · exact h
  · exact setL2_memoryOk _ _ _ h.makeWay.fillFrom

/-! ### Accesses at their lines (Access) -/

theorem State.MemoryOk.sliceRead {s : State} {core c va e} (h : s.MemoryOk) : (s.sliceRead core c va e).Ok := by
  unfold State.sliceRead
  dsimp only
  split
  · exact h
  · split
    · exact h.missSys
    · exact h.ensureL2.opt (·.dieRead)

theorem State.MemoryOk.renew {s : State} {core gid c va e keep} (h : s.MemoryOk) : (s.renew core gid c va e keep).Ok := by
  unfold State.renew
  dsimp only
  split
  · exact h.sliceRead.blocked ‹_›
  · split
    · exact h.sliceRead.done ‹_›
    · split
      · exact (h.sliceRead.done ‹_›).raiseCt
      · exact (setL2_memoryOk _ _ _ (h.sliceRead.done ‹_›)).raiseCt.opt (·.installL1)

theorem State.MemoryOk.loadLine {s : State} {core gid c va e acq keep} (h : s.MemoryOk) :
    (s.loadLine core gid c va e acq keep).Ok := by
  unfold State.loadLine
  dsimp only
  split
  · exact h
  · split
    · split
      · exact h.setL1.opt (·.raiseCt)
      · split
        · exact h.renew.done ‹_›
        · exact h.renew.blocked ‹_›
    · split
      · exact (h.victimHit.renew.done ‹_›).opt (·.expireAll)
      · exact h.victimHit.renew.blocked ‹_›

theorem State.MemoryOk.storeRule {s : State} {die sk loc ct} (h : s.MemoryOk) : (s.storeRule die sk loc ct).Ok := by
  unfold State.storeRule
  dsimp only
  split
  · exact beginRebase_memoryOk _ _ h
  · exact h.foldl (fun _ _ hx => setL2_memoryOk _ _ _ hx)

theorem State.MemoryOk.notifyDeps {s : State} {names} (h : s.MemoryOk) : (s.notifyDeps names).MemoryOk :=
  h.foldl (fun _ _ hx => post_memoryOk _ _ hx)

theorem State.MemoryOk.touched {s : State} {t va loc} (h : s.MemoryOk) : (s.touched t va loc).MemoryOk := by
  unfold State.touched
  dsimp only
  exact (strikeAll_memoryOk _ _ h).notifyDeps

theorem State.MemoryOk.updateL1 {s : State} {core c va bs wts} (h : s.MemoryOk) : (s.updateL1 core c va bs wts).MemoryOk := by
  unfold State.updateL1
  split
  · exact h.setL1
  · exact h

theorem State.MemoryOk.endLeases {s : State} {loc die} (h : s.MemoryOk) : (s.endLeases loc die).MemoryOk := by
  unfold State.endLeases
  dsimp only
  exact leaseEnd_memoryOk _ _ _ h

theorem State.MemoryOk.putBytes {s : State} {va a die loc bs} (h : s.MemoryOk) : (s.putBytes va a die loc bs).MemoryOk := by
  unfold State.putBytes
  dsimp only
  exact (h.setSysLine.opt (writeHome_memoryOk _ _ _)).ite (((writeCopies_memoryOk _ _ _ _ _ h).opt
    (writeNames_memoryOk _ _ _)).ite (writeHome_memoryOk _ _ _ h))

theorem State.MemoryOk.writeAt {s : State} {die c va e ct outside bs} (h : s.MemoryOk) :
    (s.writeAt die c va e ct outside bs).Ok := by
  unfold State.writeAt
  dsimp only
  split
  · exact h.missSys
  · split
    · exact h
    · split
      · exact (h.ensureL2.opt (·.dieOwn)).storeRule.blocked ‹_›
      · exact (((h.ensureL2.opt (·.dieOwn)).storeRule.done ‹_›).putBytes.opt (·.endLeases)).touched.opt (dropApertures_memoryOk _)

theorem State.MemoryOk.storeLine {s : State} {core c va e bs} (h : s.MemoryOk) : (s.storeLine core c va e bs).Ok := by
  unfold State.storeLine
  dsimp only
  split
  · exact h
  · split
    · exact h
    · split
      · exact h
      · split
        · exact h
        · split
          · exact h.writeAt.blocked ‹_›
          · exact (h.writeAt.done ‹_›).unless (·.raiseCt.updateL1)

theorem State.MemoryOk.hostStored {s : State} {core c va e bs} (h : s.MemoryOk) : (s.hostStored core c va e bs).Ok := by
  unfold State.hostStored
  dsimp only
  split
  · exact h
  · split
    · exact h.ensureL2.storeRule.blocked ‹_›
    · exact (h.ensureL2.storeRule.done ‹_›).raiseCt.updateL1.touched

theorem State.MemoryOk.removeCopies {s : State} {loc} (h : s.MemoryOk) : (s.removeCopies loc).MemoryOk := by
  unfold State.removeCopies
  dsimp only
  exact (h.foldl (fun _ _ hx => dropL2_memoryOk _ _ hx)).setDieEntry

theorem State.MemoryOk.baseDieAtomic {s : State} {c va e n f} (h : s.MemoryOk) : (s.baseDieAtomic c va e n f).Ok := by
  unfold State.baseDieAtomic
  dsimp only
  split
  · exact h.missSys
  · exact (h.removeCopies.putBytes.touched.opt (·.evictSys)).opt (dropApertures_memoryOk _)

theorem State.MemoryOk.atomicLine {s : State} {core c va e n f} (h : s.MemoryOk) : (s.atomicLine core c va e n f).Ok := by
  unfold State.atomicLine
  dsimp only
  split
  · exact h
  · split
    · exact h
    · split
      · split
        · exact h.baseDieAtomic.blocked ‹_›
        · exact h.baseDieAtomic.done ‹_›
      · split
        · exact h.writeAt.blocked ‹_›
        · exact (h.writeAt.done ‹_›).unless (·.raiseCt.updateL1)

/-! ### Errors that ECC meets (Ecc) -/

theorem State.MemoryOk.reportCorrected {s : State} {die chan count} (h : s.MemoryOk) :
    (s.reportCorrected die chan count).MemoryOk := by
  unfold State.reportCorrected
  dsimp only
  exact h.unless (fun hx => (hx.same (by dsimp only)).hwEvent)

theorem State.MemoryOk.noteCorrected {s : State} {ch} (h : s.MemoryOk) : (s.noteCorrected ch).MemoryOk := by
  unfold State.noteCorrected
  dsimp only
  exact (h.same (by dsimp only)).reportCorrected

theorem State.MemoryOk.recovered {s : State} {src loc va} (h : s.MemoryOk) : (s.recovered src loc va).MemoryOk := by
  unfold State.recovered
  dsimp only
  exact h.hwEvent

theorem State.MemoryOk.poisonLine {s : State} {loc wher c va} (h : s.MemoryOk) : (s.poisonLine loc wher c va).MemoryOk := by
  unfold State.poisonLine
  dsimp only
  exact post_memoryOk _ _ (h.same (by dsimp only))

theorem State.MemoryOk.passClock {s : State} (h : s.MemoryOk) : s.passClock.MemoryOk := by
  unfold State.passClock
  dsimp only
  exact h.ifPowered (fun _ hx => hx.same (by dsimp only))

theorem State.MemoryOk.loseCopy {s : State} {place loc c va} (h : s.MemoryOk) : (s.loseCopy place loc c va).MemoryOk := by
  unfold State.loseCopy
  dsimp only
  split
  · exact h.unless (fun hx => hx.poisonLine.ite (hx.recovered.ite hx.poisonLine))
  · exact h.unless (fun hx => hx.recovered.ite hx.poisonLine)
  · exact h.recovered.ite h.poisonLine

theorem State.MemoryOk.meetFlaw {s : State} {f c va} (h : s.MemoryOk) : (s.meetFlaw f c va).MemoryOk := by
  unfold State.meetFlaw
  dsimp only
  exact (h.same (by dsimp only)).loseCopy.ite (h.same (by dsimp only)).noteCorrected

theorem State.MemoryOk.meetLine {s : State} {core c va e} (h : s.MemoryOk) : (s.meetLine core c va e).MemoryOk := by
  unfold State.meetLine
  dsimp only
  exact h.unless (fun hx => hx.foldl (fun _ _ hx => hx.meetFlaw))

/-! ### How a word issues, stalls and completes (Issue) -/

theorem State.MemoryOk.noteIssue {s : State} {gid sel lvl} (h : s.MemoryOk) : (s.noteIssue gid sel lvl).MemoryOk := by
  unfold State.noteIssue
  dsimp only
  split
  · exact h
  · exact h.setQuarter.setGroup

theorem State.MemoryOk.noteLoad {s : State} {e c} (h : s.MemoryOk) : (s.noteLoad e c).MemoryOk := by
  unfold State.noteLoad
  dsimp only
  split
  · exact h
  · split
    · exact (h.opt (·.setGroup)).opt (·.setGroup)
    · exact h.opt (·.setGroup)

theorem State.MemoryOk.retire {s : State} {e g0} (h : s.MemoryOk) : (s.retire e g0).MemoryOk := by
  unfold State.retire
  dsimp only
  split
  · exact (h.same (by dsimp only)).noteIssue.noteLoad
  · split
    · exact (h.same (by dsimp only)).noteIssue.noteLoad
    · split
      · refine .takeTrap ?_
        split
        · exact post_memoryOk _ _ (((h.same (by dsimp only)).noteIssue.noteLoad.setGroup.opt (post_memoryOk _ _)).opt
            (post_memoryOk _ _))
        · exact ((h.same (by dsimp only)).noteIssue.noteLoad.setGroup.opt (post_memoryOk _ _)).opt (post_memoryOk _ _)
      · split
        · exact post_memoryOk _ _ (((h.same (by dsimp only)).noteIssue.noteLoad.setGroup.opt (post_memoryOk _ _)).opt
            (post_memoryOk _ _))
        · exact ((h.same (by dsimp only)).noteIssue.noteLoad.setGroup.opt (post_memoryOk _ _)).opt (post_memoryOk _ _)

theorem State.MemoryOk.account {s : State} {e g0} (h : s.MemoryOk) : (s.account e g0).MemoryOk := by
  unfold State.account
  dsimp only
  split
  · exact (h.same (by dsimp only)).noteIssue.setGroup
  · exact (h.same (by dsimp only)).noteIssue

theorem State.MemoryOk.endReplay {s : State} {gid sel g0} (h : s.MemoryOk) : (s.endReplay gid sel g0).MemoryOk := by
  unfold State.endReplay
  dsimp only
  split
  · exact h.opt (·.setGroup)
  · exact h

theorem State.MemoryOk.stall {s : State} {gid sel long} (h : s.MemoryOk) : (s.stall gid sel long).MemoryOk := by
  unfold State.stall
  dsimp only
  split
  · exact (h.same (by dsimp only)).setGroup
  · exact h.same (by dsimp only)

theorem State.MemoryOk.wantToken {s : State} {gid sel} (h : s.MemoryOk) : (s.wantToken gid sel).MemoryOk := by
  unfold State.wantToken
  split
  · exact h.setGroup.stall
  · exact h

theorem State.MemoryOk.backTo {s : State} {e} (h : s.MemoryOk) : (s.backTo e).MemoryOk := by
  unfold State.backTo
  split
  · exact h.setGroup
  · exact h

/-! ### Operations in flight (Requests) -/

theorem State.MemoryOk.postOnce {s : State} {e} (h : s.MemoryOk) : (s.postOnce e).MemoryOk := h.unless (post_memoryOk _ _)

theorem State.MemoryOk.wake {s : State} {gid} (h : s.MemoryOk) : (s.wake gid).MemoryOk := by
  unfold State.wake
  dsimp only
  split
  · exact h
  · exact (h.opt (·.postOnce)).foldl (fun _ _ hx => hx.postOnce)

theorem State.MemoryOk.wakeAll {s : State} (h : s.MemoryOk) : s.wakeAll.MemoryOk := by
  unfold State.wakeAll
  dsimp only
  exact (h.foldl (fun _ _ hx => hx.wake)).foldl (fun _ _ hx => hx.postOnce)

theorem State.MemoryOk.wakeStalled {s : State} {tid} (h : s.MemoryOk) : (s.wakeStalled tid).MemoryOk :=
  h.foldl (fun _ _ hx => hx.postOnce)

theorem State.MemoryOk.postPhases {s : State} {tid} (h : s.MemoryOk) : (s.postPhases tid).MemoryOk := by
  unfold State.postPhases
  split
  · exact h
  · exact h.foldl (fun _ _ hx => hx.opt (·.postOnce))

theorem State.MemoryOk.arriveAt {s : State} {g k} (h : s.MemoryOk) : (s.arriveAt g k).MemoryOk := by
  unfold State.arriveAt
  split
  · exact h
  · exact h.setTeam.postPhases

theorem State.MemoryOk.postEnd {s : State} {gid} (h : s.MemoryOk) : (s.postEnd gid).MemoryOk := by
  unfold State.postEnd
  split
  · exact h.opt (·.postOnce)
  · exact h

theorem State.MemoryOk.settle {s : State} {gid n} (h : s.MemoryOk) : (s.settle gid n).MemoryOk := by
  induction n generalizing s with
  | zero => exact h
  | succ n ih =>
    unfold State.settle
    split
    · exact h
    · split
      · exact h
      · refine ih ?_
        split
        · exact h.setGroup.arriveAt
        · exact h.setGroup.postEnd

theorem State.MemoryOk.bury {s : State} {gid} (h : s.MemoryOk) : (s.bury gid).MemoryOk := by
  unfold State.bury
  split
  · exact h.opt (·.removeGroup)
  · exact h

theorem State.MemoryOk.putOp {s : State} {gid o} (h : s.MemoryOk) : (s.putOp gid o).MemoryOk := by
  unfold State.putOp
  dsimp only
  split
  · exact h
  · exact h.setGroup.opt (·.settle.wake.postEnd.bury)

theorem State.MemoryOk.lateFail {s : State} {gid o cause inner cls lanes addr} (h : s.MemoryOk) :
    (s.lateFail gid o cause inner cls lanes addr).MemoryOk := by
  unfold State.lateFail
  dsimp only
  split
  · exact h
  · exact h.unless (·.setGroup.postOnce)

theorem State.MemoryOk.meetLanes {s : State} {g m addr write} (h : s.MemoryOk) : (s.meetLanes g m addr write).MemoryOk := by
  unfold State.meetLanes
  split
  · exact h
  · refine h.foldl (fun _ _ hx => ?_)
    split
    · exact hx
    · split
      · exact hx.meetLine
      · exact hx

theorem State.MemoryOk.cacheLeaves {s : State} {c xs addr} (h : s.MemoryOk) : (s.cacheLeaves c xs addr).MemoryOk :=
  h.foldl (fun _ _ hx => hx.unless (·.cacheLeaf))

theorem State.MemoryOk.freeLevel {s : State} {g} (h : s.MemoryOk) : (s.freeLevel g).MemoryOk := h.setCore

theorem State.MemoryOk.issueOp {s : State} {gid g o} (h : s.MemoryOk) : (s.issueOp gid g o).MemoryOk := by
  unfold State.issueOp
  dsimp only
  split
  · exact post_memoryOk _ _ h.setGroup
  · exact h.setGroup.settle

theorem State.MemoryOk.issueAccess {e g} {s : State} {r tag} (h : s.MemoryOk) : (issueAccess e g s r tag).Ok := by
  unfold Machine.issueAccess
  dsimp only
  split
  · exact h
  · split
    · split
      · exact h
      · exact h.setGroup
    · split
      · exact h
      · split
        · exact h
        · split <;> exact h.meetLanes.cacheLeaves.unless (·.issueOp)

theorem State.MemoryOk.forgetReply {s : State} {w a} (h : s.MemoryOk) : (s.forgetReply w a).MemoryOk := h.same rfl

theorem State.MemoryOk.useReply {s : State} {gid o a} (h : s.MemoryOk) : (s.useReply gid o a).MemoryOk := h.forgetReply

theorem State.MemoryOk.askFor {s : State} {w a rmw} (h : s.MemoryOk) : (s.askFor w a rmw).MemoryOk := by
  unfold State.askFor
  dsimp only
  exact h.unless (fun hx => post_memoryOk _ _ (hx.same (by dsimp only)))

theorem State.MemoryOk.askHost {s : State} {gid o a} (h : s.MemoryOk) : (s.askHost gid o a).MemoryOk := h.askFor

theorem State.MemoryOk.tellFor {s : State} {w a bs va e} (h : s.MemoryOk) : (s.tellFor w a bs va e).MemoryOk := by
  unfold State.tellFor
  dsimp only
  exact post_memoryOk _ _ (h.same (by dsimp only))

theorem State.MemoryOk.tellHost {s : State} {gid o va e bs} (h : s.MemoryOk) : (s.tellHost gid o va e bs).MemoryOk := h.tellFor

theorem State.MemoryOk.hostRmw {s : State} {w va e n f} (h : s.MemoryOk) : (s.hostRmw w va e n f).Ok := by
  unfold State.hostRmw
  dsimp only
  split
  · exact h.unless (·.askFor)
  · split
    · exact h
    · split
      · exact h.forgetReply.wakeAll.postOnce
      · split
        · exact h
        · exact h.tellFor

theorem State.MemoryOk.dropName {s : State} {core c va stale} (h : s.MemoryOk) : (s.dropName core c va stale).MemoryOk := by
  unfold State.dropName
  dsimp only
  split
  · exact h
  · split
    · exact (dropL2_memoryOk _ _ (dropL2_memoryOk _ _ (h.opt (·.evictSys)))).setL1
    · exact dropL2_memoryOk _ _ (dropL2_memoryOk _ _ (h.opt (·.evictSys)))

theorem State.MemoryOk.loadLane {s : State} {gid g o l n} (h : s.MemoryOk) : (s.loadLane gid g o l n).Ok := by
  unfold State.loadLane
  dsimp only
  split
  · split <;> exact h
  · split
    · split
      · exact h.askHost
      · exact h.useReply
      · split
        · exact (h.useReply.loadLine.done ‹_›).dropName
        · exact h.useReply.loadLine.blocked ‹_›
    · split
      · exact (h.loadLine.done ‹_›).dropName
      · exact h.loadLine.blocked ‹_›

theorem State.MemoryOk.speculate {s : State} {gid g o} (h : s.MemoryOk) : (s.speculate gid g o).MemoryOk := by
  unfold State.speculate
  dsimp only
  exact (h.same (by dsimp only)).setGroup.postOnce.putOp

theorem State.MemoryOk.loadStep {gid n l} {acc : State × MemOp} (h : acc.1.MemoryOk) : (State.loadStep gid n acc l).1.MemoryOk := by
  unfold State.loadStep
  dsimp only
  split
  · exact h
  · split
    · exact h.loadLane.blocked ‹_›
    · split
      · exact h.loadLane.done ‹_›
      · exact (h.loadLane.done ‹_›).setGroup

theorem State.MemoryOk.performLoadNow {s : State} {gid o} (h : s.MemoryOk) : (s.performLoadNow gid o).MemoryOk :=
  (foldl_keeps_memoryOk Prod.fst h (fun _ _ hb => hb.loadStep)).putOp

theorem State.MemoryOk.performLoad {s : State} {gid o} (h : s.MemoryOk) : (s.performLoad gid o).MemoryOk := by
  unfold State.performLoad
  split
  · exact h
  · exact h.unless (fun hx => hx.speculate.ite hx.performLoadNow)

theorem State.MemoryOk.renewCopies {s : State} {gid g o ls same} (h : s.MemoryOk) : (s.renewCopies gid g o ls same).1.MemoryOk := by
  induction ls generalizing s same with
  | nil => exact h
  | cons l ls ih =>
    unfold State.renewCopies
    dsimp only
    split
    · exact h.renew.blocked ‹_›
    · exact ih (h.renew.done ‹_›).dropName

theorem State.MemoryOk.freeSince {s : State} {g gid op} (h : s.MemoryOk) : (s.freeSince g gid op).MemoryOk := by
  unfold State.freeSince
  dsimp only
  exact h.setCore

theorem State.MemoryOk.resolveSpec {s : State} {gid} (h : s.MemoryOk) : (s.resolveSpec gid).MemoryOk := by
  unfold State.resolveSpec
  dsimp only
  split
  · split
    · exact (h.same (by dsimp only)).wake
    · split
      · exact h.renewCopies.fst ‹_›
      · split
        · exact (h.renewCopies.fst ‹_›).same (by dsimp only)
        · split
          · split
            · exact ((h.renewCopies.fst ‹_›).same (by dsimp only)).setGroup.putOp.wake
            · exact ((h.renewCopies.fst ‹_›).same (by dsimp only)).setGroup.wake
          · exact ((h.renewCopies.fst ‹_›).same (by dsimp only)).freeSince.setGroup.unstall.wake
  · exact h.wake

theorem State.MemoryOk.takeWatch {s : State} {gid id} (h : s.MemoryOk) : (s.takeWatch gid id).MemoryOk := by
  unfold State.takeWatch
  split
  · exact h
  · split
    · exact h
    · dsimp only
      split
      · exact h
      · refine ((State.MemoryOk.setCore ?_).foldl (fun _ _ hx => post_memoryOk _ _ hx)).putOp
        refine foldl_keeps_memoryOk Prod.fst h (fun b l hb => ?_)
        split
        · exact hb.setGroup
        · exact hb

theorem State.MemoryOk.lateOwned {s : State} {gid o bad} (h : s.MemoryOk) : (s.lateOwned gid o bad).MemoryOk := by
  unfold State.lateOwned
  dsimp only
  split <;> exact h.lateFail

theorem State.MemoryOk.storeStep {gid n l} {acc : State × MemOp × List Nat} (h : acc.1.MemoryOk) :
    (State.storeStep gid n acc l).1.MemoryOk := by
  unfold State.storeStep
  dsimp only
  split
  · exact h
  · split
    · split
      · exact setScratch_memoryOk _ _ _ _ h
      · exact h
    · split
      · exact h
      · split
        · exact h.storeLine.blocked ‹_›
        · exact (h.storeLine.done ‹_›).dropName
        · exact h.storeLine.done ‹_›
        · exact (h.storeLine.done ‹_›).tellHost

theorem State.MemoryOk.performStore {s : State} {gid o n} (h : s.MemoryOk) : (s.performStore gid o n).MemoryOk :=
  (foldl_keeps_memoryOk Prod.fst h (fun _ _ hb => hb.storeStep)).lateOwned.putOp

/-- The reply of an atomic to the group, where the group still runs. -/
theorem State.MemoryOk.atomicReply {s : State} {gid} {f : Group → Group} {ret : Bool} (h : s.MemoryOk) :
    (if ret then
      match s.group? gid with
      | some g => s.setGroup gid (f g)
      | none => s
    else s).MemoryOk := by
  split
  · split
    · exact h.setGroup
    · exact h
  · exact h

theorem State.MemoryOk.atomicStep {gid fn wide ret l} {acc : State × MemOp × List Nat} (h : acc.1.MemoryOk) :
    (State.atomicStep gid fn wide ret acc l).1.MemoryOk := by
  unfold State.atomicStep
  dsimp only
  split
  · exact h
  · split
    · split
      · exact (setScratch_memoryOk _ _ _ _ h).atomicReply
      · exact h
    · split
      · split
        · exact h.hostRmw.blocked ‹_›
        · exact ((h.hostRmw.done ‹_›).dropName.opt (·.expireAll)).atomicReply
      · split
        · exact h.atomicLine.blocked ‹_›
        · exact (h.atomicLine.done ‹_›).atomicReply
        · exact ((h.atomicLine.done ‹_›).dropName.opt (·.expireAll)).atomicReply

theorem State.MemoryOk.performAtomic {s : State} {gid g o fn wide ret} (h : s.MemoryOk) :
    (s.performAtomic gid g o fn wide ret).MemoryOk := by
  unfold State.performAtomic
  split
  · split
    · exact h.postOnce
    · exact h.putOp
  · dsimp only
    refine State.MemoryOk.putOp (.lateOwned (.opt ?_ (fun hx => hx.foldl (fun _ _ hy => hy.postOnce))))
    refine foldl_keeps_memoryOk (fun acc : (State × MemOp × List Nat) × Bool => acc.1.1) h (fun b l hb => ?_)
    split
    · exact hb
    · exact hb.atomicStep

theorem State.MemoryOk.performReduce {s : State} {gid g o fn wide} (h : s.MemoryOk) :
    (s.performReduce gid g o fn wide).MemoryOk := by
  unfold State.performReduce
  dsimp only
  split
  · split
    · refine .putOp ?_
      split
      · exact h.meetLanes.lateFail
      · exact h.meetLanes
    · refine .performAtomic (.putOp ?_)
      split
      · exact h.meetLanes.lateFail
      · exact h.meetLanes
  · split
    · refine .putOp ?_
      split
      · exact h.meetLanes.lateFail
      · exact h.meetLanes
    · refine .performAtomic (.putOp ?_)
      split
      · exact h.meetLanes.lateFail
      · exact h.meetLanes

/-! ### Atomics and reductions (Atomics) -/

theorem State.MemoryOk.atomic {fn e g} {s : State} (h : s.MemoryOk) : (atomic fn e g s).Ok := by
  unfold Machine.atomic
  dsimp only
  exact h.issueAccess

theorem State.MemoryOk.reduction {fn e g} {s : State} (h : s.MemoryOk) : (reduction fn e g s).Ok := by
  unfold Machine.reduction
  dsimp only
  split
  · exact h
  · split
    · split <;> exact h
    · split
      · exact h
      · split
        · exact h
        · exact h.issueOp

/-! ### Copies (Copies) -/

theorem State.MemoryOk.copyWord {acq rel shape e g} {s : State} (h : s.MemoryOk) : (copyWord acq rel shape e g s).Ok := by
  unfold Machine.copyWord
  dsimp only
  split
  · exact h
  · split
    · exact h
    · split
      · exact h
      · split
        · exact h
        · exact h.issueOp

theorem State.MemoryOk.engineRead {s : State} {gid g o va e} (h : s.MemoryOk) : (s.engineRead gid g o va e).Ok := by
  unfold State.engineRead
  dsimp only
  split
  · split <;> exact h
  · split
    · split
      · exact h.askHost
      · exact h.useReply
    · split
      · exact h.sliceRead.blocked ‹_›
      · exact h.sliceRead.done ‹_›

/-- The state that a chunk of a copy leaves has its memories in canonical form. -/
def Chunk.Ok : Chunk → Prop
  | .moved s | .waits s | .failed s _ _ => s.MemoryOk

theorem Chunk.Ok.moved {r : Chunk} {t : State} (h : r.Ok) (e : r = .moved t) : t.MemoryOk := by
  rw [e] at h
  exact h

theorem Chunk.Ok.waits {r : Chunk} {t : State} (h : r.Ok) (e : r = .waits t) : t.MemoryOk := by
  rw [e] at h
  exact h

theorem Chunk.Ok.failed {r : Chunk} {t : State} {k : Nat} {va : VA} (h : r.Ok) (e : r = .failed t k va) : t.MemoryOk := by
  rw [e] at h
  exact h

theorem State.MemoryOk.engineWrite {s : State} {gid g o va e x} (h : s.MemoryOk) : (s.engineWrite gid g o va e x).Ok := by
  unfold State.engineWrite
  split
  · split
    · exact setScratch_memoryOk _ _ _ _ h
    · exact h
  · split
    · exact h.storeLine.blocked ‹_›
    · exact h.storeLine.done ‹_›
    · exact h.storeLine.done ‹_›
    · exact (h.storeLine.done ‹_›).tellHost

theorem State.MemoryOk.moveChunk {s : State} {gid g o dst src} (h : s.MemoryOk) : (s.moveChunk gid g o dst src).Ok := by
  have hm := (h.meetLanes (g := g) (m := 1) (addr := fun _ => src) (write := false)).meetLanes (g := g) (m := 1)
    (addr := fun _ => dst) (write := true)
  unfold State.moveChunk
  dsimp only
  split
  · exact hm
  · split
    · exact hm
    · split
      · exact hm
      · split
        · exact hm.engineRead.blocked ‹_›
        · exact (hm.engineRead.done ‹_›).engineWrite

theorem State.MemoryOk.moveChunks {s : State} {gid o c n} (h : s.MemoryOk) : (s.moveChunks gid o c n).MemoryOk := by
  induction n generalizing s o with
  | zero => exact h.putOp
  | succ n ih =>
    unfold State.moveChunks
    split
    · exact h
    · dsimp only
      split
      · exact ih (h.moveChunk.moved ‹_›)
      · exact (h.moveChunk.waits ‹_›).putOp
      · exact (h.moveChunk.failed ‹_›).lateFail.putOp

theorem State.MemoryOk.performCopy {s : State} {gid o c} (h : s.MemoryOk) : (s.performCopy gid o c).MemoryOk := h.moveChunks

/-! ### Barriers, watches, maintenance, hints (Sync) -/

theorem State.MemoryOk.arriveWord {e g} {s : State} (h : s.MemoryOk) : (arriveWord e g s).Ok := by
  unfold Machine.arriveWord
  dsimp only
  split
  · exact h
  · split
    · exact h
    · exact h.issueOp

theorem State.MemoryOk.waitPhase {e g} {s : State} (h : s.MemoryOk) : (waitPhase e g s).Ok := by
  unfold Machine.waitPhase
  split
  · exact h.expireAll
  · exact h

theorem State.MemoryOk.arriveWait {e g} {s : State} (h : s.MemoryOk) : (arriveWait e g s).Ok := by
  unfold Machine.arriveWait
  dsimp only
  split
  · split
    · exact h.setGroup.expireAll
    · exact h
  · split
    · exact h
    · split
      · exact h
      · exact h.issueOp

theorem State.MemoryOk.checkWatches {e g} {s : State} (h : s.MemoryOk) : (checkWatches e g s).Ok := by
  unfold Machine.checkWatches
  dsimp only
  split
  · exact h
  · split
    · exact h.freeLevel.setGroup
    · exact h.freeLevel

theorem State.MemoryOk.maintenance {fn e g} {s : State} (h : s.MemoryOk) : (maintenance fn e g s).Ok := by
  unfold Machine.maintenance
  dsimp only
  split
  · exact h
  · exact h.issueOp

theorem State.MemoryOk.maintainLine {s : State} {fn k} (h : s.MemoryOk) : (s.maintainLine fn k).MemoryOk := by
  unfold State.maintainLine
  split
  · exact h
  · exact cleanCopies_memoryOk _ _ _ _ (toHome_memoryOk _ _ _ (setL2_memoryOk _ _ _ h))
  · exact dropL2_memoryOk _ _ (setL2_memoryOk _ _ _ h)
  · exact dropL2_memoryOk _ _ h

theorem State.MemoryOk.performMaintain {s : State} {gid g o fn base count} (h : s.MemoryOk) :
    (s.performMaintain gid g o fn base count).MemoryOk := by
  unfold State.performMaintain
  dsimp only
  exact h.unless (fun hx => (hx.foldl (fun _ _ hx => hx.maintainLine)).putOp)

theorem State.MemoryOk.ask {s : State} {r} (h : s.MemoryOk) : (s.ask r).MemoryOk := h.same rfl

theorem State.MemoryOk.fetchHint {s : State} {core gid c va leaf l1} (h : s.MemoryOk) :
    (s.fetchHint core gid c va leaf l1).1.MemoryOk := by
  unfold State.fetchHint
  split
  · split
    · exact h.renew.done ‹_›
    · exact h.renew.blocked ‹_›
  · split
    · exact h.sliceRead.done ‹_›
    · exact h.sliceRead.blocked ‹_›

theorem State.MemoryOk.hintLine {s : State} {g gid va leaf l1} (h : s.MemoryOk) : (s.hintLine g gid va leaf l1).MemoryOk := by
  unfold State.hintLine
  split
  · exact h.fetchHint.fst ‹_›
  · exact (h.fetchHint.fst ‹_›).ask

theorem State.MemoryOk.prefetch {e g} {s : State} (h : s.MemoryOk) : (prefetch e g s).Ok := by
  unfold Machine.prefetch
  dsimp only
  split
  · exact h.setGroup
  · exact h.unless (·.hintLine)

theorem State.MemoryOk.fetchLines {s : State} {g gid first acc n} (h : s.MemoryOk) :
    (s.fetchLines g gid first acc n).1.MemoryOk := by
  induction n generalizing s first acc with
  | zero => exact h
  | succ n ih =>
    unfold State.fetchLines
    dsimp only
    split
    · exact ih h
    · exact ih (h.unless (·.hintLine))

theorem State.MemoryOk.residency {e g} {s : State} (h : s.MemoryOk) : (residency e g s).Ok := by
  unfold Machine.residency
  dsimp only
  exact h.fetchLines.opt (·.setGroup)

/-! ### System registers (Registers) -/

theorem State.MemoryOk.writeMbound {s : State} {w} (h : s.MemoryOk) : (s.writeMbound w).MemoryOk := by
  unfold State.writeMbound
  dsimp only
  exact h.unless (·.same (by dsimp only))

theorem State.MemoryOk.writeCtxtab {s : State} {high w} (h : s.MemoryOk) : (s.writeCtxtab high w).MemoryOk := by
  unfold State.writeCtxtab
  dsimp only
  exact h.unless (·.same (by dsimp only))

theorem State.MemoryOk.startInvalidation {s : State} {x} (h : s.MemoryOk) : (s.startInvalidation x).MemoryOk := by
  unfold State.startInvalidation
  dsimp only
  exact (h.same (by dsimp only)).ite (post_memoryOk _ _ (h.same (by dsimp only)))

theorem State.MemoryOk.writeLlctl {s : State} {die w} (h : s.MemoryOk) : (s.writeLlctl die w).MemoryOk := by
  unfold State.writeLlctl
  dsimp only
  exact h.setDie

theorem State.MemoryOk.machineWrite {s : State} {g n w} (h : s.MemoryOk) : (s.machineWrite g n w).MemoryOk := by
  unfold State.machineWrite
  dsimp only
  split
  · exact h.writeCtxtab
  · exact h.writeCtxtab
  · exact h.writeMbound
  · exact h.same (by dsimp only)
  · exact h.same (by dsimp only)
  · split
    · exact h.startInvalidation
    · exact h
  · exact h.setDie
  · exact h.writeLlctl
  · exact h.setDie
  · exact h.setDie
  · exact h.setDie
  · exact h.setDie
  · exact h.setDie
  · exact h.setDie
  · exact h

/-! ### System words (System) -/

theorem State.MemoryOk.readSystem {e g} {s : State} (h : s.MemoryOk) : (readSystem e g s).Ok := by
  unfold Machine.readSystem
  dsimp only
  exact h.setGroup

theorem State.MemoryOk.writeSystem {e g} {s : State} (h : s.MemoryOk) : (writeSystem e g s).Ok := by
  unfold Machine.writeSystem
  dsimp only
  split
  · split
    · exact h
    · exact h.machineWrite
  · exact h.setGroup

theorem State.MemoryOk.returnFromTrap {e g} {s : State} (h : s.MemoryOk) : (returnFromTrap e g s).Ok := by
  unfold Machine.returnFromTrap
  dsimp only
  exact h.freeLevel.setGroup.opt (·.postOnce)

theorem State.MemoryOk.exitLanes {e g} {s : State} (h : s.MemoryOk) : (exitLanes e g s).Ok := by
  unfold Machine.exitLanes
  split
  · exact h
  · exact h.issueOp

theorem State.MemoryOk.yieldTurn {e g} {s : State} (h : s.MemoryOk) : (yieldTurn e g s).Ok := by
  unfold Machine.yieldTurn
  dsimp only
  exact h.setGroup

theorem State.MemoryOk.fenceWord {e g} {s : State} (h : s.MemoryOk) : (Machine.fence e g s).Ok := by
  unfold Machine.fence
  split
  · exact h
  · have hs (b : Bool) : (if b then .waitAll s else .ok (s.expireAll g.coreId) : Res).Ok := by
      split
      · exact h
      · exact h.expireAll
    exact hs _

theorem State.MemoryOk.launchWord {e g} {s : State} (h : s.MemoryOk) : (launchWord e g s).Ok := by
  unfold Machine.launchWord
  dsimp only
  split
  · exact h
  · exact h.issueOp

theorem State.MemoryOk.receive {e g} {s : State} (h : s.MemoryOk) : (receive e g s).Ok := by
  unfold Machine.receive
  dsimp only
  split
  · exact h
  · split
    · exact h.setDie.setGroup.opt (·.expireAll)
    · split <;> exact h.setGroup

theorem State.MemoryOk.sendEvent {e g} {s : State} (h : s.MemoryOk) : (sendEvent e g s).Ok := by
  unfold Machine.sendEvent
  dsimp only
  split
  · exact h
  · split
    · exact h
    · split
      · exact h
      · exact h.setGroup.holdEvent

theorem State.MemoryOk.deliverOnly {s : State} {pair bank} (h : s.MemoryOk) : (s.deliverOnly pair bank).MemoryOk := by
  unfold State.deliverOnly
  dsimp only
  exact h.same (by dsimp only)

theorem State.MemoryOk.drainBank {s : State} {pair bank next} (h : s.MemoryOk) : (s.drainBank pair bank next).MemoryOk := by
  unfold State.drainBank
  dsimp only
  split
  · exact post_memoryOk _ _ h.deliverOnly.setBank
  · exact h.deliverOnly.setBank

theorem State.MemoryOk.bankConfig {e g} {s : State} (h : s.MemoryOk) : (bankConfig e g s).Ok := by
  unfold Machine.bankConfig
  dsimp only
  split
  · exact h
  · split
    · exact h
    · exact h.setGroup.foldl (fun _ _ hx => hx.drainBank)

/-! ### TLD and TST (TileMem) -/

theorem State.MemoryOk.tileLoad {e g} {s : State} (h : s.MemoryOk) : (tileLoad e g s).Ok := by
  unfold Machine.tileLoad
  dsimp only
  exact h.issueAccess

theorem State.MemoryOk.tileStore {e g} {s : State} (h : s.MemoryOk) : (tileStore e g s).Ok := by
  unfold Machine.tileStore
  dsimp only
  split
  · exact h
  · split
    · exact h
    · split
      · exact h
      · exact h.issueOp

theorem State.MemoryOk.tileLoadStep {gid l} {acc : State × MemOp} (h : acc.1.MemoryOk) :
    (State.tileLoadStep gid acc l).1.MemoryOk := by
  unfold State.tileLoadStep
  dsimp only
  split
  · exact h
  · split
    · exact h.loadLane.blocked ‹_›
    · split
      · exact h.loadLane.done ‹_›
      · exact (h.loadLane.done ‹_›).setGroup

theorem State.MemoryOk.performTileLoad {s : State} {gid o} (h : s.MemoryOk) : (s.performTileLoad gid o).MemoryOk :=
  (foldl_keeps_memoryOk Prod.fst h (fun _ _ hb => hb.tileLoadStep)).putOp

theorem State.MemoryOk.tileStoreStep {gid l} {a : TileStoring} (h : a.s.MemoryOk) : (TileStoring.step gid a l).s.MemoryOk := by
  unfold TileStoring.step
  split
  · exact h
  · dsimp only
    split
    · exact h
    · split
      · split
        · exact setScratch_memoryOk _ _ _ _ h
        · exact h
      · split
        · exact h
        · split
          · exact h.storeLine.blocked ‹_›
          · exact h.storeLine.done ‹_›
          · exact h.storeLine.done ‹_›
          · exact (h.storeLine.done ‹_›).tellHost

theorem State.MemoryOk.performTileStore {s : State} {gid o} (h : s.MemoryOk) : (s.performTileStore gid o).MemoryOk := by
  have hs := foldl_keeps_memoryOk (a := ⟨s, o, [], []⟩) (f := TileStoring.step gid) (xs := lanesOf o.lanes) TileStoring.s h
    (fun _ _ hb => hb.tileStoreStep)
  unfold State.performTileStore
  dsimp only
  refine State.MemoryOk.putOp (.lateOwned ?_)
  split
  · exact hs.lateFail
  · exact hs

/-! ### What completes an operation (Completions) -/

theorem State.MemoryOk.runOp {s : State} {gid p} {f : State → Group → MemOp → State} (h : s.MemoryOk)
    (hf : ∀ t g o, t.MemoryOk → (f t g o).MemoryOk) : (s.runOp gid p f).MemoryOk := by
  unfold State.runOp
  split
  · exact h
  · split
    · exact hf _ _ _ h
    · exact h

theorem State.MemoryOk.replyLoads {s : State} {gid} (h : s.MemoryOk) : (s.replyLoads gid).MemoryOk := by
  unfold State.replyLoads
  refine h.runOp (fun _ _ _ hx => ?_)
  split
  · exact hx.performTileLoad
  · exact hx.performLoad

theorem State.MemoryOk.replyStores {s : State} {gid} (h : s.MemoryOk) : (s.replyStores gid).MemoryOk := by
  unfold State.replyStores
  dsimp only
  split
  · exact h
  · refine h.runOp (fun _ _ _ hx => ?_)
    split
    · exact hx.performStore
    · exact hx.performReduce
    · exact hx.performMaintain
    · exact hx.performTileStore

theorem State.MemoryOk.runCopies {s : State} {gid} (h : s.MemoryOk) : (s.runCopies gid).MemoryOk := by
  unfold State.runCopies
  dsimp only
  refine h.runOp (fun _ _ _ hx => ?_)
  split
  · exact hx.performCopy
  · exact hx

theorem State.MemoryOk.resolveWatch {s : State} {core entry} (h : s.MemoryOk) : (s.resolveWatch core entry).MemoryOk := by
  unfold State.resolveWatch
  dsimp only
  split
  · exact h
  · exact h.setCore.unstall

theorem State.MemoryOk.countTicket {s : State} {sc} (h : s.MemoryOk) : (s.countTicket sc).MemoryOk := by
  unfold State.countTicket
  dsimp only
  split
  · exact setSlice_memoryOk _ _ _ h
  · exact h.same (by dsimp only)
  · exact h.same (by dsimp only)
  · exact h.same (by dsimp only)

theorem State.MemoryOk.grantTicket {s : State} {sc} (h : s.MemoryOk) : (s.grantTicket sc).MemoryOk := by
  unfold State.grantTicket
  dsimp only
  split
  · exact h
  · exact (h.foldl (fun _ _ hx => hx.countTicket)).setGroup.wake

theorem State.MemoryOk.hostAnswers {s : State} {refused line} (h : s.MemoryOk) : (s.hostAnswers refused line).MemoryOk := by
  unfold State.hostAnswers
  dsimp only
  split
  · exact h
  · refine .postOnce (.wakeAll ?_)
    split
    · exact h.free.same (by dsimp only)
    · exact setHostBytes_memoryOk _ _ _ (h.same (by dsimp only))

theorem State.MemoryOk.hostWritten {s : State} {gid id addr} (h : s.MemoryOk) : (s.hostWritten gid id addr).MemoryOk := by
  unfold State.hostWritten
  dsimp only
  split
  · exact h
  · split
    · exact h
    · split
      · exact h.putOp.postOnce
      · split
        · exact h
        · exact h.putOp.wake

theorem State.MemoryOk.ackStored {s : State} {r} (h : s.MemoryOk) : (s.ackStored r).Ok := by
  unfold State.ackStored
  dsimp only
  split
  · exact h
  · split
    · exact h
    · exact h.hostStored

theorem State.MemoryOk.ackOwner {s : State} {r} (h : s.MemoryOk) : (s.ackOwner r).MemoryOk := by
  unfold State.ackOwner
  dsimp only
  split
  · split
    · exact (h.same (by dsimp only)).wake
    · exact (h.same (by dsimp only)).postOnce
  · split
    · exact h.hostWritten
    · exact h

theorem State.MemoryOk.hostAcks {s : State} {refused} (h : s.MemoryOk) : (s.hostAcks refused).MemoryOk := by
  unfold State.hostAcks
  split
  · exact h
  next r _ =>
    have ha : (if refused then .done s () else s.ackStored r : Acc Unit).Ok := by
      split
      · exact h
      · exact h.ackStored
    split
    · exact post_memoryOk _ _ (ha.blocked ‹_›)
    next u _ hu =>
      have hr := (ha.done hu).same (t := { u with host := { u.host with inFlight := u.host.inFlight.erase r } }) rfl
      exact (State.MemoryOk.unless hr (setHostBytes_memoryOk _ _ _)).ackOwner.wakeAll.postOnce

theorem State.MemoryOk.endPhase {s : State} {tid k} (h : s.MemoryOk) : (s.endPhase tid k).MemoryOk := by
  unfold State.endPhase
  dsimp only
  split
  · exact h
  · exact h.opt (·.setTeam.wakeStalled)

theorem State.MemoryOk.endGroup {s : State} {gid} (h : s.MemoryOk) : (s.endGroup gid).MemoryOk := by
  unfold State.endGroup
  dsimp only
  split
  · exact h
  · split
    · split
      · exact (h.same (by dsimp only)).setCore.removeGroup
      · exact (post_memoryOk _ _ (h.same (by dsimp only)).setCore.removeGroup.setTeam).ite
          (h.same (by dsimp only)).setCore.removeGroup.setTeam.postPhases
    · exact h

theorem State.MemoryOk.takeLate {s : State} {gid} (h : s.MemoryOk) : (s.takeLate gid).MemoryOk := by
  unfold State.takeLate
  split
  · exact h
  · split
    · exact h.setGroup.takeTrap
    · exact h

theorem State.MemoryOk.takeWatchdog {s : State} {gid level} (h : s.MemoryOk) : (s.takeWatchdog gid level).MemoryOk := by
  unfold State.takeWatchdog
  dsimp only
  split
  · exact h
  · split
    · exact h.opt (·.takeTrap)
    · exact h

theorem State.MemoryOk.endDrain {s : State} {pair bank} (h : s.MemoryOk) : (s.endDrain pair bank).MemoryOk := by
  unfold State.endDrain
  dsimp only
  exact h.opt (fun hx => (clearBank_memoryOk _ _ _ hx).setBank.unstall)

theorem State.MemoryOk.zeroOffsets {s : State} {sk} (h : s.MemoryOk) : (s.zeroOffsets sk).MemoryOk := h.same rfl

theorem State.MemoryOk.rebase {s : State} {sk} (h : s.MemoryOk) : (s.rebase sk).MemoryOk := by
  unfold State.rebase
  dsimp only
  exact h.opt (fun hx => (setSlice_memoryOk _ _ _ hx.zeroOffsets).wakeAll)

theorem State.MemoryOk.sweepDie {s : State} {die} (h : s.MemoryOk) : (s.sweepDie die).MemoryOk := by
  unfold State.sweepDie
  dsimp only
  exact h.opt (fun hx =>
    (((strikeAll_memoryOk _ _ (leaseEnd_memoryOk _ _ _ hx)).foldl (fun _ _ hz =>
      setSlice_memoryOk _ _ _ hz.zeroOffsets)).same (by dsimp only)).wakeAll)

/-! ### The arena engine (Arena) -/

theorem State.MemoryOk.unblock {s : State} {c va own} (h : s.MemoryOk) : (s.unblock c va own).MemoryOk := by
  unfold State.unblock
  dsimp only
  split
  · exact h
  · split
    · exact h.meetLine.wakeAll
    · split
      · exact h.missSys
      · exact h.unless (beginRebase_memoryOk _ _)

theorem State.MemoryOk.reclaimMessage {s : State} {c header lid f} (h : s.MemoryOk) :
    (s.reclaimMessage c header lid f).MemoryOk := by
  unfold State.reclaimMessage
  dsimp only
  exact h.unless (·.tellDirector)

theorem State.MemoryOk.paid {s : State} {a} (h : s.MemoryOk) : (s.paid a).MemoryOk := h.same rfl

/-- A computation of the engine keeps every memory in canonical form. -/
def EngOk {α : Type} (m : Eng α) : Prop := ∀ s : State, s.MemoryOk → StopOk Prod.snd (m s)

theorem EngOk.pure {α : Type} {a : α} : EngOk (pure a : Eng α) := fun _ h => h

theorem EngOk.state : EngOk (get : Eng State) := fun _ h => h

theorem EngOk.bind {α β : Type} {m : Eng α} {f : α → Eng β} (hm : EngOk m) (hf : ∀ a, EngOk (f a)) : EngOk (m >>= f) :=
  fun s h => (hm s h).bind (fun x hx => hf x.1 x.2 hx)

theorem EngOk.ite {α : Type} {c : Prop} {_ : Decidable c} {m m' : Eng α} (h : EngOk m) (h' : EngOk m') :
    EngOk (if c then m else m') := by
  split
  · exact h
  · exact h'

theorem EngOk.fail {α : Type} {k : Nat} {va : VA} : EngOk (engFail k va : Eng α) := fun _ _ => trivial

theorem EngOk.step {f : State → State} (hf : ∀ s : State, s.MemoryOk → (f s).MemoryOk) : EngOk (modify f) := hf

theorem EngOk.page {r : ArenaRef} {write : Bool} {va : VA} : EngOk (engPage r write va) := by
  intro s h
  unfold engPage
  split
  · trivial
  · split
    · trivial
    · exact h.unless (·.cacheLeaf)

theorem EngOk.line {r : ArenaRef} {va : VA} : EngOk (engLine r va) := by
  refine .bind .page (fun e s h => ?_)
  change StopOk Prod.snd ((match s.sliceRead (homeDie va * 64) r.ctx va e with
    | .blocked _ => fun _ => .error (.wait va false)
    | .done s (l, _) => fun _ => .ok (l, s) : Eng Line) s)
  cases hs : s.sliceRead (homeDie va * 64) r.ctx va e with
  | blocked _ => trivial
  | done _ _ => exact h.sliceRead.done hs

theorem EngOk.read {r : ArenaRef} {va : VA} {n : Nat} : EngOk (engRead r va n) := .bind .line (fun _ => .pure)

theorem EngOk.put {r : ArenaRef} {va : VA} {bs : List (Nat × Byte)} : EngOk (engPut r va bs) := by
  refine .bind .page (fun e s h => ?_)
  change StopOk Prod.snd ((match s.writeAt (homeDie va) r.ctx va e 0 true bs with
    | .blocked _ => fun _ => .error (.wait va true)
    | .done s _ => fun _ => .ok ((), s) : Eng Unit) s)
  cases hs : s.writeAt (homeDie va) r.ctx va e 0 true bs with
  | blocked _ => trivial
  | done _ _ => exact h.writeAt.done hs

theorem EngOk.write {r : ArenaRef} {va : VA} {n x : Nat} : EngOk (engWrite r va n x) := .put

theorem EngOk.fill {r : ArenaRef} {va : VA} {b : Byte} {n : Nat} : EngOk (engFill r va b n) := by
  induction n generalizing va with
  | zero => exact .pure
  | succ n ih => exact .bind .put (fun _ => ih)

theorem EngOk.hRead {r : ArenaRef} {off n : Nat} : EngOk (hRead r off n) := .read

theorem EngOk.hWrite {r : ArenaRef} {off n x : Nat} : EngOk (hWrite r off n x) := .write

theorem EngOk.grid {r : ArenaRef} : EngOk (gridOf r) := .bind .hRead (fun _ => .pure)

theorem EngOk.arena {r : ArenaRef} : EngOk (engArena r) := by
  intro s h
  unfold engArena
  split
  · exact h
  · trivial

theorem EngOk.hold {r : ArenaRef} {f : Arena → Arena} : EngOk (engHold r f) := .step (fun _ h => h.same (by dsimp only))

theorem EngOk.setStamp {r : ArenaRef} {k : Nat} {x : Option (Nat × Word)} : EngOk (setStamp r k x) := by
  refine .bind .hold (fun _ => .bind .arena (fun _ => .bind .hWrite (fun _ => ?_)))
  cases x with
  | none => exact .bind .hWrite (fun _ => .hWrite)
  | some x => exact .bind .hWrite (fun _ => .bind .hWrite (fun _ => .hWrite))

theorem EngOk.takeNumber {r : ArenaRef} : EngOk (takeNumber r) :=
  .bind .arena (fun _ => .ite .fail (.bind .hold (fun _ => .bind .hWrite (fun _ => .pure))))

theorem EngOk.frameTotal {r : ArenaRef} {fcur w n : Nat} : EngOk (frameTotal r fcur w n) := by
  induction n with
  | zero => exact .pure
  | succ n ih => exact .bind .hRead (fun _ => .bind .hRead (fun _ => .bind .hRead (fun _ => .bind ih (fun _ => .pure))))

theorem EngOk.installSet {r : ArenaRef} {k q rad w fcur npf : Nat} : EngOk (installSet r k q rad w fcur npf) := by
  refine .bind .hWrite (fun _ => .bind .hWrite (fun _ => .bind .hWrite (fun _ => .bind .frameTotal
    (fun _ => .bind .hold (fun _ => ?_)))))
  exact .bind .hWrite (fun _ => .bind .hWrite (fun _ => .bind .hWrite (fun _ => .bind .hWrite (fun _ => .bind .hWrite (fun _ =>
    .bind .hWrite (fun _ => .bind .hWrite (fun _ => .hWrite)))))))

theorem EngOk.headerBad {r : ArenaRef} : EngOk (headerBad r) := by
  refine .bind .hRead (fun _ => .bind .hRead (fun _ => .bind .hRead (fun _ => .bind .hRead (fun _ => .bind .hRead (fun _ => ?_)))))
  refine .bind .hRead (fun _ => .bind .hRead (fun _ => .bind .hRead (fun _ => .bind .hRead (fun _ => .bind .hRead (fun _ => ?_)))))
  exact .bind .hRead (fun _ => .bind .hRead (fun _ => .bind .hRead (fun _ => .pure)))

theorem EngOk.initArena {r : ArenaRef} : EngOk (initArena r) := by
  refine .bind .hWrite (fun _ => .bind .hWrite (fun _ => .bind .hWrite (fun _ => .bind .hWrite
    (fun _ => .bind .hWrite (fun _ => ?_)))))
  refine .bind .hWrite (fun _ => .bind .hWrite (fun _ => .bind .hWrite (fun _ => .bind .fill (fun _ => .bind .fill (fun _ => ?_)))))
  refine .bind .fill (fun _ => .bind .hRead (fun _ => .bind .hRead (fun _ => .bind .hRead (fun _ => .bind .hRead (fun _ => ?_)))))
  exact .bind .installSet (fun _ => .bind .hold (fun _ => .bind .hWrite (fun _ => .bind .hRead (fun _ => .bind .grid (fun _ =>
    .bind .fill (fun _ => .hWrite))))))

theorem EngOk.openArena {r : ArenaRef} : EngOk (openArena r) := by
  refine .bind .state (fun s => .ite .pure (.ite .fail (.bind .headerBad (fun _ => .ite .fail ?_))))
  exact .bind .hRead (fun _ => .bind .hRead (fun _ => .bind .grid (fun _ => .bind (.step (fun _ h => h.same (by dsimp only)))
    (fun _ => .initArena))))

theorem EngOk.writeFront {r : ArenaRef} {firsts : List Nat} : EngOk (writeFront r firsts) := .bind .arena (fun _ => .hWrite)

theorem EngOk.bucketAt {r : ArenaRef} {pos : V3} : EngOk (bucketAt r pos) :=
  .bind .hRead (fun _ => .bind .hRead (fun _ => .bind .hRead (fun _ => .bind .hRead (fun _ => .bind .hRead (fun _ =>
    .bind .grid (fun _ => .pure))))))

theorem EngOk.slotFree {r : ArenaRef} {i : Nat} : EngOk (slotFree r i) :=
  .bind .hRead (fun _ => .ite .pure (.bind .read (fun _ => .pure)))

theorem EngOk.takeSlot {r : ArenaRef} : EngOk (takeSlot r) :=
  .bind .hRead (fun _ => .bind .hRead (fun _ => .bind .hRead (fun _ => .ite
    (.bind .read (fun _ => .bind .hWrite (fun _ => .pure))) (.ite (.bind .hWrite (fun _ => .pure)) .fail))))

theorem EngOk.linkSlot {r : ArenaRef} {i : Nat} {pos : V3} : EngOk (linkSlot r i pos) :=
  .bind .bucketAt (fun _ => .bind .read (fun _ => .ite (.bind .write (fun _ => .write)) (.bind .write (fun _ => .write))))

theorem EngOk.prevIn {r : ArenaRef} {i n k : Nat} : EngOk (prevIn r i n k) := by
  induction n generalizing k with
  | zero => exact .pure
  | succ n ih => exact .ite .pure (.bind .read (fun _ => .ite .pure ih))

theorem EngOk.unlinkSlot {r : ArenaRef} {i : Nat} {pos : V3} : EngOk (unlinkSlot r i pos) := by
  refine .bind .bucketAt (fun _ => .bind .read (fun _ => .bind .read (fun _ => .bind .read
    (fun _ => .bind .hRead (fun _ => .ite ?_ ?_)))))
  · exact .bind .write (fun _ => .ite .write .pure)
  · refine .bind .prevIn (fun p => ?_)
    cases p with
    | none => exact .pure
    | some p => exact .bind .write (fun _ => .ite .write .pure)

theorem EngOk.reclaimOne {r : ArenaRef} : EngOk (reclaimOne r) := by
  refine .bind .hRead (fun i => .ite .pure (.bind .arena (fun _ => .bind .read (fun _ => .ite .pure (.bind .line (fun l => ?_))))))
  refine .ite (.bind .unlinkSlot (fun _ => ?_)) ?_
  all_goals refine .bind .read (fun _ => .bind .hRead (fun _ => .bind .hWrite (fun _ => .ite (.bind .hWrite (fun _ => ?_)) ?_)))
  all_goals exact .bind .hRead (fun _ => .bind .write (fun _ => .bind .write
    (fun _ => .bind .hWrite (fun _ => .bind .hRead (fun _ =>
    .bind .hWrite (fun _ => .pure))))))

theorem EngOk.freeStamps {r : ArenaRef} {ks : List Nat} : EngOk (freeStamps r ks) := by
  induction ks with
  | nil => exact .pure
  | cons k ks ih => exact .bind .setStamp (fun _ => ih)

theorem StopOk.reclaim {r : ArenaRef} {n : Nat} {s : State} (h : s.MemoryOk) : StopOk Prod.fst (reclaim r n s) := by
  induction n generalizing s with
  | zero => exact h
  | succ n ih =>
    unfold Machine.reclaim
    split
    next hr => exact ih ((EngOk.reclaimOne s h).out hr)
    next hr => exact (EngOk.reclaimOne s h).out hr
    · exact h
    · trivial

theorem StopOk.reclaimAll {r : ArenaRef} {s : State} (h : s.MemoryOk) : StopOk Prod.fst (reclaimAll r s) := by
  unfold Machine.reclaimAll
  split
  next hr => exact .reclaim ((EngOk.hRead s h).out hr)
  · exact h
  · trivial

theorem EngOk.append {r : ArenaRef} {ws : Nat → Word} : EngOk (engAppend r ws) := by
  refine .ite .fail (.bind .takeSlot (fun _ => .bind .takeNumber (fun _ => .bind .put
    (fun _ => .bind .hRead (fun _ => .bind .hWrite (fun _ =>
    .bind .line (fun _ => .ite (.bind .linkSlot (fun _ => .pure)) .pure)))))))

theorem EngOk.stamp {r : ArenaRef} {lid : Word} : EngOk (engStamp r lid) := by
  refine .bind .arena (fun a => ?_)
  split
  · exact .pure
  · exact .bind .takeNumber (fun _ => .bind .setStamp (fun _ => .pure))

theorem EngOk.stampLive {r : ArenaRef} {st : Nat} : EngOk (stampLive r st) := .bind .arena (fun _ => .ite .pure .fail)

theorem EngOk.drop {r : ArenaRef} {st : Nat} : EngOk (engDrop r st) := by
  refine .bind .arena (fun a => ?_)
  split
  · exact .fail
  · exact .bind .setStamp (fun _ => .pure)

theorem EngOk.seen {r : ArenaRef} {st i : Nat} : EngOk (seen r st i) :=
  .bind .hRead (fun _ => .bind .slotFree (fun _ => .ite .fail (.bind .line (fun _ => .ite .pure .fail))))

theorem EngOk.get {r : ArenaRef} {st i : Nat} : EngOk (engGet r st i) := .bind .stampLive (fun _ => .bind .seen (fun _ => .pure))

theorem EngOk.seenKind {r : ArenaRef} {st i : Nat} {light : Bool} : EngOk (seenKind r st i light) :=
  .bind .seen (fun _ => .ite .pure .fail)

theorem EngOk.setAt {r : ArenaRef} {st : Nat} : EngOk (setAt r st) := by
  refine .bind .arena (fun a => ?_)
  split
  · exact .pure
  · exact .fail

theorem EngOk.connect {r : ArenaRef} {st iy iz : Nat} : EngOk (engConnect r st iy iz) :=
  .bind .stampLive (fun _ => .bind .seenKind (fun _ => .bind .seenKind (fun _ => .bind .setAt (fun _ => .pure))))

theorem EngOk.chainCandidates {r : ArenaRef} {st n k : Nat} {y : Vertex} {p : ParamSet} : EngOk (chainCandidates r st y p n k) := by
  induction n generalizing k with
  | zero => exact .pure
  | succ n ih => exact .ite .pure (.bind .line (fun _ => .bind ih (fun _ => .pure)))

theorem EngOk.bucketCandidates {r : ArenaRef} {st fuel : Nat} {y : Vertex} {p : ParamSet} {grid : VA} {bs : List Nat} :
    EngOk (bucketCandidates r st y p grid fuel bs) := by
  induction bs with
  | nil => exact .pure
  | cons b bs ih => exact .bind .read (fun _ => .bind .chainCandidates (fun _ => .bind ih (fun _ => .pure)))

theorem EngOk.merge {r : ArenaRef} {st i : Nat} : EngOk (engMerge r st i) := by
  refine .bind .stampLive (fun _ => .bind .setAt (fun _ => .bind .seenKind (fun _ => .ite .pure ?_)))
  refine .bind .hRead (fun _ => .bind .hRead (fun _ => .bind .hRead (fun _ => .bind .hRead (fun _ => .bind .hRead (fun _ => ?_)))))
  exact .bind .hRead (fun _ => .bind .hRead (fun _ => .bind .grid (fun _ => .bind .bucketCandidates (fun _ => .pure))))

theorem EngOk.reweight {r : ArenaRef} {rad w fcur npf : Nat} : EngOk (engReweight r rad w fcur npf) := by
  refine .bind .hRead (fun _ => .ite .fail (.bind .arena (fun a => ?_)))
  dsimp only
  split
  · exact .pure
  · exact .bind .takeNumber (fun _ => .bind .installSet (fun _ => .pure))

theorem EngOk.retire {r : ArenaRef} {i : Nat} : EngOk (engRetire r i) := by
  refine .bind .slotFree (fun _ => .ite .fail (.bind .read (fun _ => .ite .fail (.bind .takeNumber (fun _ => .bind .write (fun _ =>
    .bind .write (fun _ => .bind .write (fun _ => .bind .hRead (fun _ => .ite ?_ ?_)))))))))
  · exact .bind .hWrite (fun _ => .bind .hWrite (fun _ => .pure))
  · exact .bind .write (fun _ => .bind .hWrite (fun _ => .pure))

theorem State.MemoryOk.settleArena {s : State} {a : Arena} (h : s.MemoryOk) : StopOk id (s.settleArena a) := by
  unfold State.settleArena
  split
  · exact h
  dsimp only
  split
  · exact h.paid
  split
  · trivial
  · exact (h.paid.same (by dsimp only)).reclaimMessage
  split
  · trivial
  · exact (h.paid.same (by dsimp only)).reclaimMessage
  next hf =>
    have hp := ((EngOk.freeStamps s h).out hf).paid (a := a)
    split
    · trivial
    next hr => exact (StopOk.reclaimAll hp).out hr
    next hr => exact ((StopOk.reclaimAll hp).out hr).reclaimMessage

theorem State.MemoryOk.dropStamps {s : State} {c : Ctx} {lid : Word} (h : s.MemoryOk) : (s.dropStamps c lid).MemoryOk := by
  unfold State.dropStamps
  dsimp only
  refine (h.same (by dsimp only)).foldl (fun t a ht => ?_)
  split
  · exact ht.settleArena.out ‹_›
  · exact ht.unblock
  · exact ht

/-! ### The engine, Sightline and the Wings words (Wings) -/

theorem State.MemoryOk.wingsWord {fn e g} {s : State} (h : s.MemoryOk) : (wingsWord fn e g s).Ok := by
  unfold Machine.wingsWord
  dsimp only
  split
  · exact h
  · split
    · exact h.setGroup
    · split
      · exact h
      · split
        · exact h
        · exact h.issueOp

theorem State.MemoryOk.wingsFault {s : State} {gid fn o bad} (h : s.MemoryOk) : (s.wingsFault gid fn o bad).MemoryOk := by
  unfold State.wingsFault
  dsimp only
  split
  · exact h
  · exact h.lateFail

theorem State.MemoryOk.wingsReady {s : State} {gid fn o data} (h : s.MemoryOk) : (s.wingsReady gid fn o data).MemoryOk :=
  post_memoryOk _ _ h.putOp

theorem State.MemoryOk.wingsDone {s : State} {gid o fn} (h : s.MemoryOk) : (s.wingsDone gid o fn).MemoryOk := by
  unfold State.wingsDone
  dsimp only
  split
  · exact h
  · exact (h.unless (·.setGroup.opt (·.expireAll))).putOp

theorem State.MemoryOk.wingsReply {s : State} {key} (h : s.MemoryOk) : (s.wingsReply key).MemoryOk := by
  unfold State.wingsReply
  dsimp only
  split
  · exact h
  · split
    · exact h
    · split
      · exact h.wingsDone
      · exact h

theorem State.MemoryOk.sightRead {q : Query} {s : State} {va : VA} {n : Nat} {at_ : VA} (h : s.MemoryOk) :
    StopOk Prod.snd (sightRead q va n at_ s) := by
  unfold Machine.sightRead
  split
  · trivial
  dsimp only
  split
  · trivial
  split
  · trivial
  · trivial
  split
  · split <;> exact h
  split
  · trivial
  split
  · split
    · exact h
    · trivial
  split
  · exact h.loadLine.done ‹_›
  · trivial

theorem State.MemoryOk.readTriangle {q : Query} {s : State} {i : Nat} (h : s.MemoryOk) : StopOk Prod.snd (readTriangle q i s) := by
  refine h.sightRead.bind (fun _ hx => hx.sightRead.bind (fun _ hy => hy.sightRead.bind (fun _ hz => ?_)))
  dsimp only
  split
  · trivial
  · exact hz

theorem State.MemoryOk.testLeaf {q : Query} {s : State} {ray : Ray} {i n : Nat} {w : Walk} (h : s.MemoryOk) :
    StopOk Prod.snd (testLeaf q ray i n w s) := by
  induction n generalizing i w s with
  | zero => exact h
  | succ n ih =>
    unfold Machine.testLeaf
    split
    · trivial
    next hr =>
      have ht := h.readTriangle.out hr
      exact .ite ht (ih ht)

theorem State.MemoryOk.walkBvh {q : Query} {s : State} {ray : Ray} {n : Nat} {w : Walk} (h : s.MemoryOk) :
    StopOk Prod.snd (walkBvh q ray n w s) := by
  induction n generalizing w s with
  | zero => exact h
  | succ n ih =>
    unfold Machine.walkBvh
    split
    · exact h
    dsimp only
    split
    · exact ih h
    split
    · split
      · trivial
      · exact ih (h.testLeaf.out ‹_›)
    split
    · trivial
    split
    · trivial
    next hr =>
      split
      · trivial
      · exact ih (h.sightRead.out hr)

theorem State.MemoryOk.runQuery {q : Query} {s : State} {ray : Ray} (h : s.MemoryOk) : StopOk Prod.snd (runQuery q ray s) := by
  unfold Machine.runQuery
  split
  · exact h
  · split
    · trivial
    · exact h.walkBvh.out ‹_›

theorem StopOk.takeLanes {f : Nat → Eng (List Word)} (hf : ∀ l, EngOk (f l)) {ls : List Nat} {x : EngOut} (h : x.s.MemoryOk) :
    StopOk EngOut.s (takeLanes f ls x) := by
  induction ls generalizing x with
  | nil => exact h
  | cons l ls ih =>
    unfold Machine.takeLanes
    split
    · exact ih ((hf l x.s h).out ‹_›)
    · exact ih h
    · trivial
    · trivial

theorem StopOk.engineLanes {f : Nat → Eng (List Word)} (hf : ∀ l, EngOk (f l)) {ls : List Nat} {s : State} (h : s.MemoryOk) :
    StopOk EngOut.s (engineLanes f ls s) := by
  unfold Machine.engineLanes
  split
  · exact h
  · exact .takeLanes hf h

theorem StopOk.engineReclaim {r : ArenaRef} {ls : List Nat} {x : EngOut} (h : x.s.MemoryOk) :
    StopOk EngOut.s (engineReclaim r ls x) := by
  unfold Machine.engineReclaim
  split
  · exact (StopOk.reclaimAll h).out ‹_›
  · exact (StopOk.reclaimAll h).out ‹_›
  · trivial

theorem StopOk.engineFront {r : ArenaRef} {firsts : List Nat} {x : EngOut} (h : x.s.MemoryOk) :
    StopOk EngOut.s (engineFront r firsts x) := by
  unfold Machine.engineFront
  split
  · exact (EngOk.writeFront x.s h).out ‹_›
  · exact h
  · trivial

theorem State.MemoryOk.settleAll {s : State} {as : List Arena} (h : s.MemoryOk) :
    StopOk id (as.foldlM (fun (t : State) a => t.settleArena a) s) := by
  induction as generalizing s with
  | nil => exact h
  | cons a as ih =>
    rw [List.foldlM_cons]
    exact h.settleArena.bind (fun _ ht => ih ht)

theorem State.MemoryOk.engineWork {s : State} {g o ls} {f : ArenaRef → Nat → Eng (List Word)}
    {after : ArenaRef → EngOut → Except EStop EngOut} (h : s.MemoryOk) (hf : ∀ r l, EngOk (f r l))
    (ha : ∀ r x, x.s.MemoryOk → StopOk EngOut.s (after r x)) : StopOk EngOut.s (s.engineWork g o ls f after) := by
  unfold State.engineWork
  split
  · trivial
  · exact h
  split
  · trivial
  · exact h
  next ho =>
    have hs := (EngOk.openArena s h).out ho
    dsimp only
    split
    · trivial
    next hw =>
      have ht := hs.settleAll.out hw
      split
      · trivial
      next hl => exact ha _ _ ((StopOk.engineLanes (hf _) ht).out hl)

theorem State.MemoryOk.wingsOp {s : State} {key fn taken} {f : State → Nat → Group → MemOp → Except EStop State} (h : s.MemoryOk)
    (hf : ∀ t gid g o, t.MemoryOk → StopOk id (f t gid g o)) : (s.wingsOp key fn taken f).MemoryOk := by
  unfold State.wingsOp
  dsimp only
  split
  · exact h
  · split
    · exact h
    · split
      · exact (hf _ _ _ _ h).out ‹_›
      · exact h.unblock
      · exact h

theorem State.MemoryOk.engineReply {s : State} {key fn} {f : MemOp → ArenaRef → Nat → Eng (List Word)}
    {after : List Nat → ArenaRef → EngOut → Except EStop EngOut} (h : s.MemoryOk) (hf : ∀ o r l, EngOk (f o r l))
    (ha : ∀ ls r x, x.s.MemoryOk → StopOk EngOut.s (after ls r x)) : (s.engineReply key fn f after).MemoryOk := by
  refine h.wingsOp (fun t gid g o ht => ?_)
  dsimp only
  split
  · trivial
  next hw =>
    refine ((ht.engineWork (hf o) (fun r x hx => ?_)).out hw).wingsFault.wingsReady
    split
    · trivial
    next hx' => exact .engineFront ((ha _ r x hx).out hx')

theorem StopOk.noAfter {ls : List Nat} {r : ArenaRef} {x : EngOut} (h : x.s.MemoryOk) : StopOk EngOut.s (noAfter ls r x) := h

theorem State.MemoryOk.engineAppends {s : State} {key} (h : s.MemoryOk) : (s.engineAppends key).MemoryOk := by
  refine h.wingsOp (fun t gid g o ht => ?_)
  dsimp only
  split
  · trivial
  next hw =>
    have hx := (ht.engineWork (fun _ _ => .append) (fun _ _ => .engineFront)).out hw
    split
    · exact hx.wingsFault.wingsReady
    · exact post_memoryOk _ _ hx.wingsFault.putOp

theorem State.MemoryOk.wakeStamps {s : State} {c header} (h : s.MemoryOk) : (s.wakeStamps c header).MemoryOk :=
  h.foldl (fun _ _ hx => hx.foldl (fun _ _ hx => hx.postOnce))

theorem State.MemoryOk.sealAppend {s : State} {key} (h : s.MemoryOk) : (s.sealAppend key).MemoryOk := by
  refine h.wingsOp (fun t gid g o ht => ?_)
  dsimp only
  split
  · trivial
  next hw =>
    have hx := StopOk.out (p := EngOut.s) (by
      split
      · trivial
      · exact ht
      · exact .engineFront ht) hw
    exact hx.wingsReady.wakeStamps

theorem State.MemoryOk.engineStamps {s : State} {key} (h : s.MemoryOk) : (s.engineStamps key).MemoryOk := by
  refine h.wingsOp (fun t gid g o ht => ?_)
  split
  · trivial
  next hw =>
    have hx := (ht.engineWork (fun _ _ => .bind .stamp (fun _ => .pure)) (fun _ _ => .engineFront)).out hw
    dsimp only
    split
    · exact hx.wingsFault.wingsReady
    · exact post_memoryOk _ _ hx.putOp

theorem State.MemoryOk.returnStamp {s : State} {key} (h : s.MemoryOk) : (s.returnStamp key).MemoryOk := by
  refine h.wingsOp (fun t gid g o ht => ?_)
  dsimp only
  split
  · exact ht.wingsReady
  · exact ht

theorem State.MemoryOk.sightWait {s : State} {gid g o va} (h : s.MemoryOk) : (s.sightWait gid g o va).MemoryOk := by
  unfold State.sightWait
  split
  · split
    · exact h.askHost
    · exact h
  · exact h.unblock

theorem State.MemoryOk.runSight {s : State} {key} (h : s.MemoryOk) : (s.runSight key).MemoryOk := by
  unfold State.runSight
  refine State.MemoryOk.wingsOp (.wingsOp h ?_) ?_
  all_goals
    intro t gid g o ht
    dsimp only
    split
    · exact ht.sightWait
    · trivial
    next hx =>
      have hl := (StopOk.engineLanes (fun l u hu => hu.runQuery) ht).out hx
      exact (hl.same (by dsimp only)).wingsFault.wingsReady

/-! ### Launches and teams (Launch) -/

theorem State.MemoryOk.checkDep {s : State} {lid} (h : s.MemoryOk) : (s.checkDep lid).MemoryOk := by
  unfold State.checkDep
  split
  · exact h
  · split
    · split
      · exact h.opt (·.setLaunch)
      · exact h.unless (·.setLaunch.tellDirector)
    · exact h

theorem State.MemoryOk.cueUnit {s : State} {die block href} (h : s.MemoryOk) : (s.cueUnit die block href).1.MemoryOk := by
  unfold State.cueUnit
  dsimp only
  split
  · exact h
  · split
    · exact h
    · split
      · exact h
      · exact h.setDie.setLaunch.checkDep

theorem State.MemoryOk.answerLaunch {s : State} {gid o status w} (h : s.MemoryOk) : (s.answerLaunch gid o status w).MemoryOk := by
  unfold State.answerLaunch
  dsimp only
  split
  · exact h
  · exact h.setGroup.putOp

theorem State.MemoryOk.launchAnswer {s : State} {key} (h : s.MemoryOk) : (s.launchAnswer key).MemoryOk := by
  unfold State.launchAnswer
  dsimp only
  split
  · exact h
  · split
    · split
      · split
        · exact h
        · split
          · exact h.cueUnit.answerLaunch
          · split
            · split
              · exact h.askHost
              · exact h.useReply.cueUnit.answerLaunch
            · split
              · exact h.sliceRead.blocked ‹_›
              · exact (h.sliceRead.done ‹_›).cueUnit.answerLaunch
      · exact h
    · exact h

theorem State.MemoryOk.workEvent {s : State} {c e} (h : s.MemoryOk) : (s.workEvent c e).MemoryOk := by
  unfold State.workEvent
  split
  · exact h.setContext.ite h.dirEvent
  · exact h.dirEvent

theorem State.MemoryOk.sendHeld {s : State} {c} (h : s.MemoryOk) : (s.sendHeld c).MemoryOk := by
  unfold State.sendHeld
  dsimp only
  split
  · exact h.setContext.foldl (fun _ _ hx => hx.dirBytes)
  · exact h

theorem State.MemoryOk.completeLaunch {s : State} {lid} (h : s.MemoryOk) : (s.completeLaunch lid).MemoryOk := by
  unfold State.completeLaunch
  dsimp only
  split
  · exact h
  · split
    · refine .tellDirector ?_
      split
      · exact h.dropStamps.removeLaunch.opt (·.setContext)
      · exact h.dropStamps.removeLaunch
    · refine .workEvent (.tellDirector ?_)
      split
      · exact h.dropStamps.removeLaunch.opt (·.setContext)
      · exact h.dropStamps.removeLaunch

theorem State.MemoryOk.endLaunches {s : State} {c status} (h : s.MemoryOk) : (s.endLaunches c status).MemoryOk :=
  h.foldl (fun _ _ hx => hx.dropStamps.removeLaunch.dirEvent)

theorem State.MemoryOk.addOutside {s : State} {lid die c va e n} (h : s.MemoryOk) : (s.addOutside lid die c va e n).Ok := by
  unfold State.addOutside
  dsimp only
  split
  · exact h
  · split
    · split
      · exact h.hostRmw.blocked ‹_›
      · exact (leaseEnd_memoryOk _ _ _ (h.hostRmw.done ‹_›)).touched
    · split
      · exact h
      · split
        · split
          · exact h.baseDieAtomic.blocked ‹_›
          · exact h.baseDieAtomic.done ‹_›
        · split
          · exact h.writeAt.blocked ‹_›
          · exact h.writeAt.done ‹_›

theorem State.MemoryOk.increment {s : State} {lid l} (h : s.MemoryOk) : (s.increment lid l).Ok := by
  unfold State.increment
  dsimp only
  split
  · exact h
  · split
    · exact h
    · split
      · exact h.addOutside.blocked ‹_›
      · exact h.addOutside.done ‹_›
      · exact h.addOutside.done ‹_›

theorem State.MemoryOk.afterIncrement {s : State} {lid l} (h : s.MemoryOk) : (s.afterIncrement lid l).MemoryOk := by
  unfold State.afterIncrement
  dsimp only
  exact h.setLaunch.completeLaunch.ite (h.setLaunch.postOnce.ite (h.setLaunch.opt (·.postOnce)))

theorem State.MemoryOk.completionIncrement {s : State} {lid} (h : s.MemoryOk) : (s.completionIncrement lid).MemoryOk := by
  unfold State.completionIncrement
  dsimp only
  split
  · exact h
  · split
    · exact h
    · split
      · exact h.afterIncrement
      · split
        · exact h.increment.blocked ‹_›
        · exact (h.increment.done ‹_›).afterIncrement
        · exact (h.increment.done ‹_›).tellDirector.afterIncrement

theorem State.MemoryOk.endTeam {s : State} {tid} (h : s.MemoryOk) : (s.endTeam tid).MemoryOk := by
  unfold State.endTeam
  dsimp only
  split
  · exact h
  · split
    · split
      · exact h.dropTeam
      · exact (h.dropTeam.setLaunch.opt (·.completeLaunch)).ite h.dropTeam.setLaunch.postOnce
    · exact h

theorem State.MemoryOk.deliverKill {s : State} {die} (h : s.MemoryOk) : (s.deliverKill die).MemoryOk := by
  unfold State.deliverKill
  dsimp only
  split
  · exact h
  · exact (h.same (by dsimp only)).tellDirector.sendHeld.dirEvent.endLaunches

/-! ### Placement, switches and shadows (Placement) -/

theorem State.MemoryOk.claimBanks {s : State} {pair tid scratch fifos} (h : s.MemoryOk) :
    (s.claimBanks pair tid scratch fifos).MemoryOk := by
  unfold State.claimBanks
  dsimp only
  refine (h.foldl (fun _ _ hx => hx.setBank)).foldl (fun _ _ hx => ?_)
  split
  · exact hx.setBank
  · split
    · exact post_memoryOk _ _ hx.setBank.setBank
    · exact hx.setBank.setBank

theorem State.MemoryOk.placeGroup {s : State} {b lid team die core gidx drains} (h : s.MemoryOk) :
    (s.placeGroup b lid team die core gidx drains).1.MemoryOk := by
  unfold State.placeGroup
  dsimp only
  exact h.setQuarter.setCore.setGroup

theorem State.MemoryOk.promote {s : State} {core c} (h : s.MemoryOk) : (s.promote core c).MemoryOk := by
  unfold State.promote
  dsimp only
  exact h.foldl (fun _ _ hx => hx.setGroup.ite hx.setGroup)

theorem State.MemoryOk.takeCore {s : State} {core c} (h : s.MemoryOk) : (s.takeCore core c).MemoryOk := by
  unfold State.takeCore
  dsimp only
  exact h.setCore.expireAll.opt (·.promote)

/-- The groups of a team are placed one after another. -/
theorem State.MemoryOk.placeGroups {s : State} {b : LaunchBlock} {w t die core drains} {is : List Nat} (h : s.MemoryOk) :
    (is.foldl (fun (acc : State × List Nat) i =>
      let (s, gid) := acc.1.placeGroup b w t die core i drains
      (s, acc.2 ++ [gid])) (s, [])).1.MemoryOk :=
  foldl_keeps_memoryOk Prod.fst h (fun _ _ hb => hb.placeGroup)

theorem State.MemoryOk.placeTeam {s : State} {lid l core} (h : s.MemoryOk) : (s.placeTeam lid l core).MemoryOk :=
  (h.claimBanks.foldl (fun _ _ hx => hx.takeCore)).placeGroups.setTeam

theorem State.MemoryOk.requeue {s : State} {lid l} (h : s.MemoryOk) : (s.requeue lid l).MemoryOk := by
  unfold State.requeue
  dsimp only
  exact h.setDie.setLaunch

theorem State.MemoryOk.age {s : State} {lid} (h : s.MemoryOk) : (s.age lid).MemoryOk := by
  unfold State.age
  dsimp only
  split
  · exact h
  · exact h.opt (·.setDie.setLaunch)

theorem State.MemoryOk.preempt {s : State} {die} (h : s.MemoryOk) : (s.preempt die).MemoryOk := by
  unfold State.preempt
  dsimp only
  split
  · exact h
  · split
    · exact h
    · exact h.foldl (fun _ _ hx => hx.setCore)

theorem State.MemoryOk.dropClaims {s : State} {die} (h : s.MemoryOk) : (s.dropClaims die).MemoryOk := by
  unfold State.dropClaims
  dsimp only
  refine h.foldl (fun _ _ hx => ?_)
  split
  · exact hx
  · exact hx.unless (·.setCore)

theorem State.MemoryOk.stage {s : State} {die} (h : s.MemoryOk) : (s.stage die).MemoryOk := by
  unfold State.stage
  dsimp only
  split
  · exact h
  · refine .preempt ?_
    split
    · exact (h.setDie.foldl (fun _ _ hx => hx.age)).dropClaims.placeTeam.requeue
    · exact (h.setDie.foldl (fun _ _ hx => hx.age)).dropClaims

theorem State.MemoryOk.switchOut {s : State} {core} (h : s.MemoryOk) : (s.switchOut core).MemoryOk := by
  unfold State.switchOut
  dsimp only
  exact h.opt (·.setCore)

theorem State.MemoryOk.shadowCopy {s : State} {core} (h : s.MemoryOk) : (s.shadowCopy core).MemoryOk := by
  unfold State.shadowCopy
  dsimp only
  split
  · exact h
  · exact h.opt (fun hx => hx.setCore.foldl (fun _ _ hx => hx.setGroup))

theorem State.MemoryOk.switchIn {s : State} {core} (h : s.MemoryOk) : (s.switchIn core).MemoryOk := by
  unfold State.switchIn
  dsimp only
  split
  · exact h
  · split
    · exact h
    · exact h.setCore.promote

/-! ### The image of a context (Image) -/

theorem State.MemoryOk.physWrite {s : State} {d bs} (h : s.MemoryOk) : (s.physWrite d bs).MemoryOk := by
  unfold State.physWrite
  dsimp only
  exact setPhys_memoryOk _ _ _ (h.foldl (fun _ _ hx => hx.foldl (fun _ _ hx => hx.unless (dropL2_memoryOk _ _))))

theorem State.MemoryOk.writeImage {s : State} {core c} (h : s.MemoryOk) : (s.writeImage core c).MemoryOk := by
  unfold State.writeImage
  dsimp only
  exact h.physWrite.foldl (fun _ _ hx => (hx.physWrite.foldl (fun _ _ hx => hx.physWrite)).physWrite.physWrite)

theorem State.MemoryOk.streamOut {s : State} {core c} (h : s.MemoryOk) : (s.streamOut core c).MemoryOk := by
  unfold State.streamOut
  dsimp only
  exact h.opt (·.writeImage.setCore)

theorem State.MemoryOk.loadGroup {s : State} {base gs e} (h : s.MemoryOk) : (s.loadGroup base gs e).MemoryOk := by
  unfold State.loadGroup
  dsimp only
  exact h.free.free.setGroup

theorem State.MemoryOk.refuseImage {s : State} {gs} (h : s.MemoryOk) : (s.refuseImage gs).MemoryOk := by
  unfold State.refuseImage
  split
  · exact h.escalate
  · exact h

theorem State.MemoryOk.streamIn {s : State} {core c} (h : s.MemoryOk) : (s.streamIn core c).MemoryOk := by
  unfold State.streamIn
  dsimp only
  exact h.opt (fun hx => hx.refuseImage.ite (hx.foldl (fun _ _ hx => hx.loadGroup)).setCore)

/-! ### Invalidations (Invalidate) -/

theorem State.MemoryOk.reconcile {s : State} {loc xs} (h : s.MemoryOk) : (s.reconcile loc xs).MemoryOk := by
  unfold State.reconcile
  dsimp only
  split
  · exact (toHome_memoryOk _ _ _ (h.free.foldl (fun _ _ hx => setL2_memoryOk _ _ _ hx))).unless (·.hwEvent)
  · exact toHome_memoryOk _ _ _ (h.free.foldl (fun _ _ hx => setL2_memoryOk _ _ _ hx))

theorem State.MemoryOk.reconcileSpan {s : State} {x} (h : s.MemoryOk) : (s.reconcileSpan x).MemoryOk := by
  unfold State.reconcileSpan
  dsimp only
  exact h.foldl (fun _ _ hx => hx.reconcile)

theorem State.MemoryOk.setCores {s : State} {c} (h : s.MemoryOk) : ({ s with cores := c } : State).MemoryOk := h.same rfl

theorem State.MemoryOk.setTcache {s : State} {c} (h : s.MemoryOk) : ({ s with mem :=
  { s.mem with tcache := c } } : State).MemoryOk := h.same rfl

theorem State.MemoryOk.removeSpan {s : State} {x} (h : s.MemoryOk) : (s.removeSpan x).MemoryOk := by
  unfold State.removeSpan
  refine State.MemoryOk.setTcache (.foldl (.setCores (.foldl h.reconcileSpan ?_)) ?_)
  · exact fun _ _ hx => dropL2_memoryOk _ _ hx
  · exact fun _ _ hx => hx.evictSys

theorem State.MemoryOk.rereadDeps {s : State} {x} (h : s.MemoryOk) : (s.rereadDeps x).MemoryOk :=
  h.foldl (fun _ _ hx => hx.checkDep)

theorem State.MemoryOk.invalidate {s : State} {x} (h : s.MemoryOk) : (s.invalidate x).MemoryOk := by
  unfold State.invalidate
  dsimp only
  exact h.removeSpan.rereadDeps

theorem State.MemoryOk.endInvalidation {s : State} (h : s.MemoryOk) : s.endInvalidation.MemoryOk := by
  unfold State.endInvalidation
  dsimp only
  split
  · exact h
  · refine .wakeAll (.unstall ?_)
    split
    · exact (h.invalidate.same (by dsimp only)).startInvalidation
    · exact h.invalidate.same (by dsimp only)

theorem State.MemoryOk.leaseRenewal {s : State} {core c va} (h : s.MemoryOk) : (s.leaseRenewal core c va).MemoryOk := by
  unfold State.leaseRenewal
  split
  · exact h
  · split
    · exact h
    · split
      · exact h.renew.done ‹_›
      · exact h.renew.blocked ‹_›

theorem State.MemoryOk.storeOutside {s : State} {die c va e bs} (h : s.MemoryOk) : (s.storeOutside die c va e bs).Ok := by
  unfold State.storeOutside
  dsimp only
  split
  · exact h
  · split
    · exact (leaseEnd_memoryOk _ _ _ (setHostBytes_memoryOk _ _ _ h)).touched
    · split
      · exact h.writeAt.blocked ‹_›
      · exact h.writeAt.done ‹_›

theorem State.MemoryOk.sliceStore {s : State} {core c va bs} (h : s.MemoryOk) : (s.sliceStore core c va bs).1.MemoryOk := by
  unfold State.sliceStore
  dsimp only
  split
  · exact h
  · split
    · exact h
    · split
      · split
        · exact h.storeOutside.done ‹_›
        · exact h.storeOutside.blocked ‹_›
      · split
        · split
          · exact setHostBytes_memoryOk _ _ _ ((h.storeLine.done ‹_›).hostStored.done ‹_›)
          · exact (h.storeLine.done ‹_›).hostStored.blocked ‹_›
        · exact h.storeLine.done ‹_›
        · exact h.storeLine.blocked ‹_›

theorem State.MemoryOk.dieRequest {s : State} {die own c va} (h : s.MemoryOk) : (s.dieRequest die own c va).1.MemoryOk := by
  unfold State.dieRequest
  dsimp only
  split
  · exact h
  · split
    · split
      · exact h
      · exact h.ensureL2.dieOwn.ite h.ensureL2.dieRead
    · exact h

theorem State.MemoryOk.serve {s : State} {r} (h : s.MemoryOk) : (s.serve r).1.MemoryOk := by
  unfold State.serve
  split
  · split
    · exact h
    · exact h.fetchHint
  · exact h.dieRequest
  · exact h.sliceStore

theorem State.MemoryOk.askNext {s : State} (h : s.MemoryOk) : DueOk s.askNext := by
  refine .findSome (fun r => ?_)
  have ha : ({ s with asks := s.asks.erase r } : State).MemoryOk := h.same rfl
  split
  · exact .due (ha.serve.fst ‹_›)
  · exact .when ((ha.serve.fst ‹_›).same (by dsimp only))

/-! ### The Director (Director) -/

theorem State.MemoryOk.newFrame {s : State} (h : s.MemoryOk) : s.newFrame.1.MemoryOk := by
  unfold State.newFrame
  dsimp only
  split
  · exact zeroFrame_memoryOk _ _ _ (h.same (by dsimp only))
  · exact h

theorem State.reuse_memoryOk {s t : State} {pool f} (h : s.MemoryOk) (e : s.reuse pool = some (t, f)) : t.MemoryOk := by
  obtain ⟨x, -, hx⟩ := Option.map_eq_some_iff.mp e
  rw [← (Prod.mk.inj hx).1]
  exact zeroFrame_memoryOk _ _ _ (h.same (by dsimp only))

theorem State.MemoryOk.takeFrame {s : State} (h : s.MemoryOk) : s.takeFrame.1.MemoryOk := by
  unfold State.takeFrame
  split
  · exact State.reuse_memoryOk h ‹_›
  · exact h.newFrame

theorem State.MemoryOk.newDieFrame {s : State} {n} (h : s.MemoryOk) : (s.newDieFrame n).1.MemoryOk := by
  unfold State.newDieFrame
  dsimp only
  split
  · exact zeroFrame_memoryOk _ _ _ (h.same (by dsimp only))
  · exact h

theorem State.MemoryOk.takeDieFrame {s : State} {n} (h : s.MemoryOk) : (s.takeDieFrame n).1.MemoryOk := by
  unfold State.takeDieFrame
  split
  · exact State.reuse_memoryOk h ‹_›
  · exact h.newDieFrame

theorem State.MemoryOk.retireFrame {s : State} {line} (h : s.MemoryOk) : (s.retireFrame line).MemoryOk := by
  unfold State.retireFrame
  dsimp only
  exact (h.same (by dsimp only)).hwEvent

theorem State.MemoryOk.physWord {s : State} {d x} (h : s.MemoryOk) : (s.physWord d x).MemoryOk := h.physWrite

theorem State.MemoryOk.entryAt {s : State} {va make level table n} (h : s.MemoryOk) :
    (s.entryAt va make level table n).1.MemoryOk := by
  induction n generalizing s table with
  | zero => exact h
  | succ n ih =>
    unfold State.entryAt
    dsimp only
    split
    · split
      · exact ih h
      · exact h
    · split
      · split
        · exact ih (h.takeFrame.fst ‹_›).physWord
        · exact h.takeFrame.fst ‹_›
      · exact h

theorem State.MemoryOk.entryOf {s : State} {c va make psz} (h : s.MemoryOk) : (s.entryOf c va make psz).1.MemoryOk := by
  unfold State.entryOf
  dsimp only
  split
  · exact h
  · exact h.entryAt

theorem State.MemoryOk.mapPage {s : State} {c va psz leaf} (h : s.MemoryOk) : (s.mapPage c va psz leaf).1.MemoryOk := by
  refine foldl_keeps_memoryOk Prod.fst h (fun b a hb => ?_)
  split
  · exact (hb.entryOf.fst ‹_›).physWord
  · exact hb.entryOf.fst ‹_›

theorem State.MemoryOk.unmapPage {s : State} {c va psz} (h : s.MemoryOk) : (s.unmapPage c va psz).MemoryOk := by
  unfold State.unmapPage
  refine h.foldl (fun _ _ hx => ?_)
  split
  · exact (hx.entryOf.fst ‹_›).physWord
  · exact hx.entryOf.fst ‹_›

theorem State.MemoryOk.mapFresh {s : State} {c va} (h : s.MemoryOk) : (s.mapFresh c va).MemoryOk := by
  unfold State.mapFresh
  dsimp only
  split
  · split
    · exact h.takeDieFrame.mapPage
    · split
      · exact h.takeFrame.mapPage
      · exact h.mapPage
  · split
    · exact h.takeDieFrame
    · split
      · exact h.takeFrame
      · exact h

theorem State.MemoryOk.answer {s : State} {die kind cue body} (h : s.MemoryOk) : (s.answer die kind cue body).MemoryOk := by
  unfold State.answer
  dsimp only
  exact h.workEvent.ite h.dirEvent

theorem State.MemoryOk.cueDone {s : State} {die cue} (h : s.MemoryOk) : (s.cueDone die cue).MemoryOk := h.answer

theorem State.MemoryOk.cueBad {s : State} {die cue reason} (h : s.MemoryOk) : (s.cueBad die cue reason).MemoryOk := h.answer

theorem State.MemoryOk.directorReason {s : State} (h : s.MemoryOk) : s.directorReason.2.MemoryOk := by
  unfold State.directorReason
  dsimp only
  exact h.same (by dsimp only)

theorem State.MemoryOk.cueBadOwn {s : State} {die cue} (h : s.MemoryOk) : (s.cueBadOwn die cue).MemoryOk := by
  unfold State.cueBadOwn
  dsimp only
  exact h.directorReason.cueBad

theorem State.MemoryOk.mapHandlers {s : State} {c die} (h : s.MemoryOk) : (s.mapHandlers c die).MemoryOk := by
  unfold State.mapHandlers
  dsimp only
  exact h.foldl (fun _ _ hx => hx.unless (·.mapFresh))

theorem State.MemoryOk.mapCode {s : State} {c die} (h : s.MemoryOk) : (s.mapCode c die).MemoryOk := by
  unfold State.mapCode
  dsimp only
  split
  · exact h
  · split
    · exact h.mapPage
    · split
      · split
        · exact h.takeDieFrame.mapPage
        · split
          · exact h.takeFrame.mapPage
          · exact h.mapPage
      · split
        · exact h.takeDieFrame
        · split
          · exact h.takeFrame
          · exact h

theorem State.MemoryOk.createContext {s : State} {c cue} (h : s.MemoryOk) : (s.createContext c cue).MemoryOk :=
  (h.physWrite.unless (·.physWrite)).setContext.foldl (fun _ _ hx => hx.mapHandlers.mapCode)

theorem State.MemoryOk.endWork {s : State} {c status} (h : s.MemoryOk) : (s.endWork c status).MemoryOk := by
  unfold State.endWork
  dsimp only
  split
  · exact (h.sendHeld.killContext.endLaunches.same (by dsimp only)).setContext
  · exact h.sendHeld.killContext.endLaunches.same (by dsimp only)

theorem State.MemoryOk.freeFrames {s : State} {c} (h : s.MemoryOk) : (s.freeFrames c).MemoryOk := by
  unfold State.freeFrames
  dsimp only
  exact h.same (by dsimp only)

theorem State.MemoryOk.setMapping {s : State} {ps} (h : s.MemoryOk) : (s.setMapping ps).MemoryOk := h.same rfl

theorem State.MemoryOk.dropContext {s : State} {c} (h : s.MemoryOk) : (s.dropContext c).MemoryOk := by
  unfold State.dropContext
  dsimp only
  exact h.freeFrames.setMapping.physWrite.invalidate.removeContext

theorem State.MemoryOk.destroyContext {s : State} {c} (h : s.MemoryOk) : (s.destroyContext c).MemoryOk := h.endWork.dropContext

theorem State.MemoryOk.failContext {s : State} {c reason} (h : s.MemoryOk) : (s.failContext c reason).MemoryOk := by
  unfold State.failContext
  dsimp only
  exact (h.sendHeld.hwEvent.opt (fun hx => hx.killContext.foldl (fun _ _ hx => hx.removeLaunch))).endWork.dropContext

theorem State.MemoryOk.setRo {s : State} {c pg ro} (h : s.MemoryOk) : (s.setRo c pg ro).MemoryOk := by
  unfold State.setRo
  dsimp only
  refine h.foldl (fun _ _ hx => ?_)
  split
  · exact (hx.entryOf.fst ‹_›).physWord
  · exact hx.entryOf.fst ‹_›

theorem State.MemoryOk.guardPages {s : State} {c} (h : s.MemoryOk) : (s.guardPages c).MemoryOk := by
  unfold State.guardPages
  dsimp only
  split
  · exact h
  · exact h.unless (fun hx => (hx.foldl (fun _ _ hx => hx.setRo)).setContext.invalidate)

theorem State.MemoryOk.unguard {s : State} {c va} (h : s.MemoryOk) : (s.unguard c va).MemoryOk := by
  unfold State.unguard
  split
  · exact h
  · split
    · exact h
    · exact h.setRo.setContext.invalidate

theorem State.MemoryOk.clearReq {s : State} {g} (h : s.MemoryOk) : DueOk (s.clearReq g) := by
  -- the equation of the function itself: an applied one would have the kernel evaluate the translation
  rw [show State.clearReq = _ from by delta State.clearReq; rfl]
  split
  · split
    · exact .due (h.storeOutside.done ‹_›)
    · exact .when (h.storeOutside.blocked ‹_›)
  · exact .idle

theorem State.MemoryOk.mailboxNext {s : State} {gid} (h : s.MemoryOk) : DueOk (s.mailboxNext gid) := by
  unfold State.mailboxNext
  split
  · exact .idle
  next g _ =>
    have hf := h.mapFresh (c := g.ctx) (va := g.tsave &&& ~~~0xFFFF)
    dsimp only
    generalize s.mapFresh _ _ = t at hf ⊢
    exact .ite .idle (.ite (.ite .idle h.setMapping.clearReq)
      (.ite h.clearReq (.when hf.setMapping.invalidate)))

/-! ### Power-up and boot (Boot) -/

theorem State.MemoryOk.mapPkg {s : State} {h'} (h : s.MemoryOk) : (s.mapPkg h').MemoryOk := h.same rfl

theorem State.MemoryOk.bootRecord {s : State} {cause} (h : s.MemoryOk) : (s.bootRecord cause).MemoryOk := by
  unfold State.bootRecord
  dsimp only
  exact h.hwEvent

theorem State.MemoryOk.discardCue {s : State} {href ctx} (h : s.MemoryOk) : (s.discardCue href ctx).MemoryOk := h.hwEvent

theorem State.MemoryOk.dropStream {s : State} (h : s.MemoryOk) : s.dropStream.MemoryOk := by
  unfold State.dropStream
  split
  · exact h.mapPkg.discardCue
  · exact h

theorem State.MemoryOk.failStart {s : State} {code} (h : s.MemoryOk) : (s.failStart code).MemoryOk := h.dropStream.mapPkg.bootRecord

theorem State.MemoryOk.beginStart {s : State} {cause} (h : s.MemoryOk) : (s.beginStart cause).MemoryOk := by
  unfold State.beginStart
  dsimp only
  exact h.mapPkg.mapPkg.linksUp.bootRecord.ite h.mapPkg.linksUp.mapPkg

theorem State.MemoryOk.railsUp {s : State} (h : s.MemoryOk) : s.railsUp.MemoryOk := by
  unfold State.railsUp
  dsimp only
  exact h.mapPkg.opt (·.beginStart)

theorem State.MemoryOk.restart {s : State} {cause} (h : s.MemoryOk) : (s.restart cause).MemoryOk :=
  h.unless (fun hx => hx.beginStart.ite hx.mapPkg)

theorem State.MemoryOk.bootGo {s : State} (h : s.MemoryOk) : s.bootGo.MemoryOk := h.opt (·.mapPkg)

theorem State.MemoryOk.readImage {s : State} (h : s.MemoryOk) : s.readImage.MemoryOk := by
  unfold State.readImage
  refine .opt h (fun _ => ?_)
  generalize s.imageBytes = x
  exact .ite (.ite h.mapPkg.failStart h.mapPkg.mapPkg) h.failStart

theorem State.MemoryOk.loadImage {s : State} {die} (h : s.MemoryOk) : (s.loadImage die).MemoryOk := by
  unfold State.loadImage
  dsimp only
  exact h.setDie

theorem State.MemoryOk.bringUpDone {s : State} {r} (h : s.MemoryOk) : (s.bringUpDone r).MemoryOk := by
  unfold State.bringUpDone
  dsimp only
  exact h.opt (fun hx => hx.failStart.ite (hx.failStart.ite (hx.failStart.ite (hx.failStart.ite
    (hx.linksUp.foldl (fun _ _ hx => hx.loadImage)).mapPkg))))

theorem State.MemoryOk.layOut {s : State} (h : s.MemoryOk) : s.layOut.MemoryOk := by
  unfold State.layOut
  dsimp only
  exact (bulkWrite_memoryOk _ _ ((h.foldl (fun _ _ hx => zeroFrame_memoryOk _ _ _ hx)).same (by dsimp only))).physWrite

theorem State.MemoryOk.directorUp {s : State} {die} (h : s.MemoryOk) : (s.directorUp die).MemoryOk := by
  unfold State.directorUp
  dsimp only
  exact h.opt (·.mapPkg.opt (·.mapPkg.layOut.bootRecord))

theorem State.MemoryOk.bootClr {s : State} (h : s.MemoryOk) : s.bootClr.MemoryOk := by
  unfold State.bootClr
  dsimp only
  exact h.opt (·.mapPkg)

theorem State.MemoryOk.discard {s : State} {cue} (h : s.MemoryOk) : (s.discard cue).MemoryOk := h.discardCue

theorem State.MemoryOk.refuseQueued {s : State} (h : s.MemoryOk) : s.refuseQueued.MemoryOk := by
  unfold State.refuseQueued
  dsimp only
  exact (h.same (by dsimp only)).foldl (fun _ _ hx => hx.setDie.foldl (fun _ _ hx => hx.discard))

theorem State.MemoryOk.resetDevice {s : State} (h : s.MemoryOk) : s.resetDevice.MemoryOk := by
  unfold State.resetDevice
  dsimp only
  exact h.unless (fun hx => (clearDies_memoryOk _ (hx.foldl (fun _ _ hx => hx.failContext)).dropStream.refuseQueued).restart)

theorem State.MemoryOk.sendAllHeld {s : State} (h : s.MemoryOk) : s.sendAllHeld.MemoryOk := h.foldl (fun _ _ hx => hx.sendHeld)

theorem State.MemoryOk.bootRst {s : State} (h : s.MemoryOk) : s.bootRst.MemoryOk :=
  h.opt (fun hx => (clearDies_memoryOk _ hx.sendAllHeld.refuseQueued).restart)

/-! ### The switches and what they exchange with the device (Flyloft) -/

theorem State.MemoryOk.setSwitch {s : State} {k x} (h : s.MemoryOk) : (s.setSwitch k x).MemoryOk := h.same rfl

theorem State.MemoryOk.toDevice {s : State} {slot d mtype txn g body m} (h : s.MemoryOk) :
    (s.toDevice slot d mtype txn g body m).MemoryOk := by
  unfold State.toDevice
  dsimp only
  exact h.carry.ite h.setSwitch

theorem State.MemoryOk.invalidatePorts {s : State} {slot txn g ports but} (h : s.MemoryOk) :
    (s.invalidatePorts slot txn g ports but).MemoryOk :=
  h.foldl (fun _ _ hx => hx.foldl (fun _ _ hx => hx.toDevice))

theorem State.MemoryOk.waitAt {s : State} {slot own r} (h : s.MemoryOk) : (s.waitAt slot own r).MemoryOk := by
  unfold State.waitAt
  dsimp only
  exact h.setSwitch

theorem State.MemoryOk.loseRange {s : State} {g own} (h : s.MemoryOk) : (s.loseRange g own).MemoryOk := by
  unfold State.loseRange
  dsimp only
  split
  · split
    · exact post_memoryOk _ _ (h.hwEvent.same (by dsimp only))
    · exact h.hwEvent
  · exact h

theorem State.MemoryOk.ownerLost {s : State} {g e} (h : s.MemoryOk) : (s.ownerLost g e).MemoryOk := h.opt (·.loseRange)

theorem State.MemoryOk.sendNote {s : State} {alt prim g own st} (h : s.MemoryOk) : (s.sendNote alt prim g own st).MemoryOk := by
  unfold State.sendNote
  dsimp only
  exact h.setSwitch.carry

theorem State.MemoryOk.noteTo {s : State} {prim g own st} (h : s.MemoryOk) : (s.noteTo prim g own st).MemoryOk := by
  unfold State.noteTo
  split
  · exact h.sendNote
  · exact h

theorem State.MemoryOk.beginTxn {s : State} {slot own r k e} (h : s.MemoryOk) : (s.beginTxn slot own r k e).MemoryOk := by
  unfold State.beginTxn
  dsimp only
  split
  · exact h.setSwitch
  · exact h.setSwitch
  · exact h.setSwitch.ownerLost.ite h.setSwitch.toDevice
  · exact h.setSwitch
  · exact h.setSwitch.invalidatePorts
  · exact (h.setSwitch.ownerLost.ite h.setSwitch.toDevice).invalidatePorts

theorem State.MemoryOk.beginEvict {s : State} {slot own r k e} (h : s.MemoryOk) : (s.beginEvict slot own r k e).MemoryOk := by
  unfold State.beginEvict
  dsimp only
  exact ((h.opt (·.ownerLost)).setSwitch.opt (·.noteTo)).invalidatePorts

theorem State.MemoryOk.takeRequest {s : State} {slot own r} (h : s.MemoryOk) : (s.takeRequest slot own r).MemoryOk := by
  unfold State.takeRequest
  dsimp only
  split
  · exact h.waitAt
  · split
    · exact h.beginTxn
    · split
      · exact h.beginTxn
      · split
        · exact h.waitAt
        · exact h.beginEvict

theorem State.MemoryOk.swRequest {s : State} {slot own r} (h : s.MemoryOk) : (s.swRequest slot own r).MemoryOk :=
  h.opt (·.takeRequest)

theorem State.MemoryOk.sendGrant {s : State} {slot t e} (h : s.MemoryOk) : (s.sendGrant slot t e).MemoryOk := by
  unfold State.sendGrant
  dsimp only
  split <;> exact h.toDevice

theorem State.MemoryOk.finishTxn {s : State} {slot t k e} (h : s.MemoryOk) : (s.finishTxn slot t k e).MemoryOk :=
  h.setSwitch.sendGrant

theorem State.MemoryOk.settleLine {s : State} {slot t} (h : s.MemoryOk) : (s.settleLine slot t).MemoryOk := by
  unfold State.settleLine
  dsimp only
  split
  · exact h.setSwitch
  · split
    · exact h.setSwitch
    · split
      · exact h.setSwitch.sendNote
      · exact h.finishTxn

theorem State.MemoryOk.freeWay {s : State} {slot t old} (h : s.MemoryOk) : DueOk (s.freeWay slot t old) := by
  unfold State.freeWay
  dsimp only
  split
  · exact .due h.setSwitch
  · split
    · exact .idle
    · exact .due (h.setSwitch.opt (·.noteTo))

theorem State.MemoryOk.advance {s : State} {slot t} (h : s.MemoryOk) : (s.advance slot t).MemoryOk := by
  unfold State.advance
  dsimp only
  split
  · exact h.settleLine
  · split
    · exact h.setSwitch
    · split
      · exact (h.freeWay.out ‹_›).takeRequest.opt (·.settleLine)
      · exact (h.freeWay.out ‹_›).takeRequest

theorem State.MemoryOk.advanceLine {s : State} {slot g} (h : s.MemoryOk) : (s.advanceLine slot g).MemoryOk := by
  unfold State.advanceLine
  split
  · exact h.advance
  · exact h

theorem State.MemoryOk.takeWaiting {s : State} {slot set n} (h : s.MemoryOk) : (s.takeWaiting slot set n).MemoryOk := by
  induction n generalizing s with
  | zero => exact h
  | succ n ih =>
    unfold State.takeWaiting
    dsimp only
    split
    · exact h
    · exact ih h.setSwitch.swRequest.advanceLine

theorem State.MemoryOk.retryWaiting {s : State} {slot g} (h : s.MemoryOk) : (s.retryWaiting slot g).MemoryOk := h.takeWaiting

theorem State.MemoryOk.onTxn {s : State} {slot g h'} (h : s.MemoryOk) : (s.onTxn slot g h').MemoryOk := by
  unfold State.onTxn
  split
  · exact h.advance.retryWaiting
  · exact h

theorem State.MemoryOk.settleTxn {s : State} {slot g} (h : s.MemoryOk) : (s.settleTxn slot g).MemoryOk := h.onTxn

theorem State.MemoryOk.swInvAck {s : State} {slot g port} (h : s.MemoryOk) : (s.swInvAck slot g port).MemoryOk := h.onTxn

theorem State.MemoryOk.swPeerAck {s : State} {slot g} (h : s.MemoryOk) : (s.swPeerAck slot g).MemoryOk := by
  unfold State.swPeerAck
  dsimp only
  exact h.onTxn

theorem State.MemoryOk.swOwnerData {s : State} {slot g dev dirty l} (h : s.MemoryOk) :
    (s.swOwnerData slot g dev dirty l).MemoryOk :=
  h.onTxn

theorem State.MemoryOk.swNoCopy {s : State} {slot g dev} (h : s.MemoryOk) : (s.swNoCopy slot g dev).MemoryOk := h.onTxn

theorem State.MemoryOk.countWritten {s : State} {g} (h : s.MemoryOk) : (s.countWritten g).MemoryOk := by
  unfold State.countWritten
  dsimp only
  exact h.opt (·.same (by dsimp only))

theorem State.MemoryOk.swWriteback {s : State} {slot r l} (h : s.MemoryOk) : (s.swWriteback slot r l).MemoryOk := by
  unfold State.swWriteback
  dsimp only
  refine .settleTxn (.toDevice ?_)
  split
  · exact setHomeLine_memoryOk _ _ _ h.countWritten
  · exact (setHomeLine_memoryOk _ _ _ h.countWritten).setSwitch.noteTo.ite (h.countWritten.opt (setHomeLine_memoryOk _ _ _))

theorem State.MemoryOk.swNote {s : State} {alt prim g own st} (h : s.MemoryOk) : (s.swNote alt prim g own st).MemoryOk := by
  unfold State.swNote
  dsimp only
  exact h.opt (·.setSwitch.carry)

theorem State.MemoryOk.swNoteAck {s : State} {prim g} (h : s.MemoryOk) : (s.swNoteAck prim g).MemoryOk := by
  unfold State.swNoteAck
  dsimp only
  split
  · exact h.setSwitch.opt (·.finishTxn.retryWaiting)
  · exact h.setSwitch

theorem State.MemoryOk.swNotices {s : State} {slot} (h : s.MemoryOk) : (s.swNotices slot).MemoryOk :=
  h.foldl (fun _ _ hx => hx.toDevice)

theorem State.MemoryOk.devInvalidate {s : State} {slot g} (h : s.MemoryOk) : (s.devInvalidate slot g).MemoryOk := by
  unfold State.devInvalidate
  dsimp only
  exact (h.setSysLine.forgetSys.sendBack.ite (h.unless (·.forgetSys))).carry

theorem State.MemoryOk.devForwardRead {s : State} {slot g} (h : s.MemoryOk) : (s.devForwardRead slot g).MemoryOk := by
  unfold State.devForwardRead
  dsimp only
  exact h.carry.ite h.setSysLine.carry

theorem State.MemoryOk.devForwardInvalidate {s : State} {slot g} (h : s.MemoryOk) : (s.devForwardInvalidate slot g).MemoryOk := by
  unfold State.devForwardInvalidate
  dsimp only
  exact h.carry.ite h.forgetSys.carry

theorem State.MemoryOk.devGrant {s : State} {g st l} (h : s.MemoryOk) : (s.devGrant g st l).MemoryOk := by
  unfold State.devGrant
  dsimp only
  exact h.opt (·.setSysLine.wakeAll)

theorem State.MemoryOk.devGrantBare {s : State} {g} (h : s.MemoryOk) : (s.devGrantBare g).MemoryOk := by
  unfold State.devGrantBare
  dsimp only
  exact h.unless (fun hx => hx.request.ite hx.setSysLine.wakeAll)

theorem State.MemoryOk.devWbAck {s : State} {g} (h : s.MemoryOk) : (s.devWbAck g).MemoryOk := by
  unfold State.devWbAck
  dsimp only
  exact h.setSysLine

theorem State.MemoryOk.devNotice {s : State} {g} (h : s.MemoryOk) : (s.devNotice g).MemoryOk := by
  unfold State.devNotice
  dsimp only
  exact h.opt (·.setSysLine)

theorem State.MemoryOk.devSweep {s : State} {first last lost txn} (h : s.MemoryOk) : (s.devSweep first last lost txn).MemoryOk := by
  unfold State.devSweep
  dsimp only
  exact (h.foldl (fun _ _ hx => hx.evictSys)).carry.ite ((h.foldl (fun _ _ hx => hx.evictSys)).same (by dsimp only))

theorem State.MemoryOk.sweepAcked {s : State} {dev txn} (h : s.MemoryOk) : (s.sweepAcked dev txn).MemoryOk := by
  unfold State.sweepAcked
  dsimp only
  exact h.same (by dsimp only)

theorem State.MemoryOk.sweepTxn {s : State} {first last lost} (h : s.MemoryOk) : (s.sweepTxn first last lost).2.MemoryOk := by
  unfold State.sweepTxn
  split
  · exact h
  · exact h.free

theorem State.MemoryOk.retryAll {s : State} {slot} (h : s.MemoryOk) : (s.retryAll slot).MemoryOk := by
  unfold State.retryAll
  dsimp only
  exact h.setSwitch.foldl (fun _ _ hx => hx.swRequest.settleTxn)

theorem State.MemoryOk.retrySwitches {s : State} (h : s.MemoryOk) : s.retrySwitches.MemoryOk := h.foldl (fun _ _ hx => hx.retryAll)

theorem State.MemoryOk.dropNotes {s : State} {slot swept} (h : s.MemoryOk) : (s.dropNotes slot swept).MemoryOk := by
  unfold State.dropNotes
  dsimp only
  exact h.same (by dsimp only)

theorem State.MemoryOk.broadcastChunk {s : State} {w} (h : s.MemoryOk) : (s.broadcastChunk w).MemoryOk := by
  unfold State.broadcastChunk
  dsimp only
  split
  · exact h
  · exact (h.same (by dsimp only)).useTxn.carry

theorem State.MemoryOk.loseLines {s : State} {xs} (h : s.MemoryOk) : (s.loseLines xs).MemoryOk :=
  h.foldl (fun _ _ hx => hx.loseRange)

theorem State.MemoryOk.nextChunk {s : State} {w} (h : s.MemoryOk) : (s.nextChunk w).MemoryOk := by
  unfold State.nextChunk
  dsimp only
  exact (h.same (by dsimp only)).broadcastChunk.retrySwitches.wakeAll

theorem State.MemoryOk.endSweep {s : State} {slot} (h : s.MemoryOk) : (s.endSweep slot).MemoryOk := by
  unfold State.endSweep
  dsimp only
  split
  · exact h
  · exact h.loseLines.nextChunk.ite (h.loseLines.same (by dsimp only)).dropNotes.hwEvent.retrySwitches.wakeAll

theorem State.MemoryOk.endAbroad {s : State} (h : s.MemoryOk) : s.endAbroad.MemoryOk := by
  unfold State.endAbroad
  dsimp only
  split
  · exact h
  · split
    · exact (h.same (by dsimp only)).dropNotes.retrySwitches.wakeAll
    · exact h.same (by dsimp only)

theorem State.MemoryOk.deliver {s : State} {m} (h : s.MemoryOk) : (s.deliver m).MemoryOk := by
  unfold State.deliver
  split
  · exact h.swRequest.settleTxn
  · exact h.swRequest.settleTxn
  · exact h.swWriteback
  · exact h.swNote
  · exact h.swNoteAck
  · exact h.swInvAck
  · exact h.swPeerAck
  · exact h.swOwnerData
  · exact h.swNoCopy
  · exact h.devGrant
  · exact h.devGrantBare
  · exact h.unless (·.devInvalidate)
  · exact h.unless (·.devForwardRead)
  · exact h.unless (·.devForwardInvalidate)
  · exact h.devWbAck
  · exact h.devNotice
  · exact h.devSweep
  · exact h.sweepAcked

theorem State.MemoryOk.deliverNext {s : State} (h : s.MemoryOk) : DueOk (s.deliverNext) := by
  unfold State.deliverNext
  dsimp only
  split
  · exact .idle
  · exact .due (h.same (by dsimp only)).deliver

theorem State.MemoryOk.moveSequencer {s : State} (h : s.MemoryOk) : s.moveSequencer.MemoryOk := by
  unfold State.moveSequencer
  dsimp only
  split
  · exact h
  · exact (h.same (by dsimp only)).hwEvent.wakeAll

theorem State.MemoryOk.askAgain {s : State} {lost} (h : s.MemoryOk) : (s.askAgain lost).MemoryOk := by
  unfold State.askAgain
  dsimp only
  refine h.foldl (fun _ _ hx => ?_)
  split
  · split
    · split
      · exact hx.setSysLine.request
      · exact hx
    · exact hx
  · exact hx

/-! ### Containment and the scrubber (Contain) -/

theorem State.MemoryOk.zeroLine {s : State} {line} (h : s.MemoryOk) : (s.zeroLine line).MemoryOk := by
  unfold State.zeroLine
  dsimp only
  exact (setDramBytes_memoryOk _ _ _ h.removeCopies).same (by dsimp only)

theorem State.MemoryOk.copyFrame {s : State} {pool f f'} (h : s.MemoryOk) : (s.copyFrame pool f f').MemoryOk := by
  unfold State.copyFrame
  dsimp only
  exact h.foldl (fun _ _ hx => setDramBytes_memoryOk _ _ _ hx)

theorem State.MemoryOk.moveLeaf {s : State} {f f' m} (h : s.MemoryOk) : (s.moveLeaf f f' m).MemoryOk := by
  unfold State.moveLeaf
  -- what the kernel would compute stands as a variable: the list of 512, the frame taken, the frames of the leaf
  generalize List.range 512 = ks
  split
  extract_lets ap psz leaf
  split
  · exact h.entryOf.fst ‹_›
  next he =>
    have hs := h.entryOf.fst he
    split
    · have ht := hs.takeFrame
      generalize State.takeFrame _ = p at ht ⊢
      obtain ⟨u, _ | t⟩ := p
      · exact ht
      · generalize leafFrames _ _ = q
        obtain ⟨f0, _⟩ := q
        exact (State.MemoryOk.foldl ht (fun _ _ hx => hx.physWord)).physWord.invalidate
    · exact hs.physWord.invalidate

theorem State.MemoryOk.movePages {s : State} {p} (h : s.MemoryOk) : (s.movePages p).MemoryOk := by
  have hf : (if p.pool = 8 then s.takeFrame else s.takeDieFrame p.pool).1.MemoryOk := by
    split
    · exact h.takeFrame
    · exact h.takeDieFrame
  unfold State.movePages
  dsimp only
  split
  · exact h
  · split
    · exact hf
    · exact (hf.foldl (fun _ _ hx => hx.invalidate)).copyFrame.foldl (fun _ _ hx => hx.moveLeaf)

theorem State.MemoryOk.containKill {s : State} {c die} (h : s.MemoryOk) : (s.containKill c die).MemoryOk := by
  unfold State.containKill
  dsimp only
  refine .endLaunches (.dirEvent ?_)
  split
  · exact h.free.killContext.sendHeld.setContext
  · exact h.free.killContext.sendHeld

theorem State.MemoryOk.streamPages {s : State} {c x} (h : s.MemoryOk) : (s.streamPages c x).MemoryOk := by
  unfold State.streamPages
  dsimp only
  exact h.foldl (fun _ _ hx => hx.unless (putHostRange_memoryOk _ _ _ _))

theorem State.MemoryOk.commitCheckpoint {s : State} {c} (h : s.MemoryOk) : (s.commitCheckpoint c).MemoryOk := by
  unfold State.commitCheckpoint
  dsimp only
  split
  · exact h.opt (·.streamPages.setContext.guardPages.sendHeld)
  · exact h

theorem State.MemoryOk.relaunch {s : State} {lid l} (h : s.MemoryOk) : (s.relaunch lid l).MemoryOk := by
  unfold State.relaunch
  dsimp only
  exact h.setDie.setLaunch.checkDep

theorem State.MemoryOk.restoreContext {s : State} {c x k} (h : s.MemoryOk) : (s.restoreContext c x k).MemoryOk := by
  unfold State.restoreContext
  dsimp only
  exact ((loadCheckpoint_memoryOk _ _ _ h.killContext.invalidate.setContext).foldl (fun _ _ hx => hx.relaunch)).dirEvent

theorem State.MemoryOk.contextRestore {s : State} {c failed} (h : s.MemoryOk) : (s.contextRestore c failed).MemoryOk := by
  unfold State.contextRestore
  dsimp only
  split
  · exact h
  · split
    · exact h
    · split
      · exact h.containKill
      · exact (h.setContext.containKill.ite (post_memoryOk _ _ h.setContext)).ite h.restoreContext

theorem State.MemoryOk.resetPartition {s : State} {va} (h : s.MemoryOk) : (s.resetPartition va).MemoryOk := by
  unfold State.resetPartition
  generalize List.range 512 = ks
  refine State.MemoryOk.hwEvent (.foldl (.removeSpan (.foldl (.foldl h ?_) ?_)) ?_)
  · exact fun _ _ hx => hx.failContext
  · exact fun _ _ hx => hx.forgetSys
  intro t g ht
  refine .opt ht (fun _ => ?_)
  split
  · exact ht.zeroLine
  · exact ht

theorem State.MemoryOk.restartTeam {s : State} {tid t l} (h : s.MemoryOk) : (s.restartTeam tid t l).MemoryOk :=
  (h.claimBanks.foldl (fun _ _ hx => hx.expireAll)).placeGroups.setTeam.hwEvent

theorem State.MemoryOk.restartNext {s : State} (h : s.MemoryOk) : DueOk s.restartNext :=
  .findSome (fun _ => .bind (fun _ => .when h.restartTeam))

theorem State.MemoryOk.relaunchTeam {s : State} {tid t l} (h : s.MemoryOk) : (s.relaunchTeam tid t l).MemoryOk := by
  unfold State.relaunchTeam
  dsimp only
  exact (h.foldl (fun _ _ hx => hx.killGroup)).restartTeam.ite (h.foldl (fun _ _ hx => hx.killGroup)).setTeam

theorem State.MemoryOk.contextRow {s : State} {line die c} (h : s.MemoryOk) : (s.contextRow line die c).MemoryOk := by
  unfold State.contextRow
  dsimp only
  split
  · exact h.zeroLine.unless (fun hx => (post_memoryOk _ _ hx).ite hx.containKill)
  · exact h.zeroLine

theorem State.MemoryOk.teamRow {s : State} {line die c} (h : s.MemoryOk) : (s.teamRow line die c).MemoryOk := by
  unfold State.teamRow
  dsimp only
  split
  · exact h.free.contextRow
  · split
    · exact h.free.contextRow.ite h.free.zeroLine.relaunchTeam
    · exact h.free.contextRow

/-- A line is poisoned, or no longer. -/
theorem State.MemoryOk.setPoison {s : State} {p} (h : s.MemoryOk) : ({ s with mem :=
  { s.mem with poison := p } } : State).MemoryOk := h.same rfl

theorem State.MemoryOk.containAbroad {s : State} {line q} (h : s.MemoryOk) : (s.containAbroad line q).MemoryOk :=
  h.reportLoss.resetPartition.setPoison

theorem State.MemoryOk.contain {s : State} {line} (h : s.MemoryOk) : (s.contain line).MemoryOk := by
  unfold State.contain
  dsimp only
  split
  · exact h.resetDevice
  · split
    · exact h
    · split
      · exact h.containAbroad
      · split
        · exact h.retireFrame
        · split
          · exact h.reportLoss.zeroLine
          · split
            · exact h.reportLoss.teamRow
            · exact h.reportLoss.contextRow
            · exact h.reportLoss.resetPartition
            · exact h.reportLoss.resetDevice

theorem State.MemoryOk.loseLine {s : State} {line} (h : s.MemoryOk) : (s.loseLine line).MemoryOk := by
  unfold State.loseLine
  split
  · exact h.contain.retireFrame.movePages
  · split
    exact h.loseCopy

theorem State.MemoryOk.scrub {s : State} {die chan addr r} (h : s.MemoryOk) : (s.scrub die chan addr r).MemoryOk := by
  unfold State.scrub
  dsimp only
  split
  · exact h.foldl (fun _ _ hx => hx.meetFlaw)
  · exact (h.foldl (fun _ _ hx => hx.meetFlaw)).noteCorrected
  · exact (h.foldl (fun _ _ hx => hx.meetFlaw)).opt (·.loseLine)

/-! ### Events of the fabric (FabricEvents) -/

theorem State.MemoryOk.markDead {s : State} {slot} (h : s.MemoryOk) : (s.markDead slot).MemoryOk := by
  unfold State.markDead
  dsimp only
  exact h.same (by dsimp only)

theorem State.MemoryOk.beginSweep {s : State} {slot} (h : s.MemoryOk) : (s.beginSweep slot).MemoryOk := by
  unfold State.beginSweep
  dsimp only
  exact (h.same (by dsimp only)).hwEvent.broadcastChunk

theorem State.MemoryOk.releaseEvicted {s : State} {slot t} (h : s.MemoryOk) : (s.releaseEvicted slot t).MemoryOk := by
  unfold State.releaseEvicted
  dsimp only
  split
  · exact h.opt (·.setSwitch.ownerLost.noteTo)
  · exact h

theorem State.MemoryOk.releaseTxn {s : State} {slot g} (h : s.MemoryOk) : (s.releaseTxn slot g).MemoryOk := by
  unfold State.releaseTxn
  split
  · exact h
  next t _ =>
    have hr := h.releaseEvicted (slot := slot) (t := t)
    dsimp only
    split
    · split
      · refine State.MemoryOk.retryWaiting (.advance ?_)
        split
        · exact hr.ownerLost
        · exact hr
      · exact hr.advance.retryWaiting
    · exact hr.advance.retryWaiting

theorem State.MemoryOk.releaseAway {s : State} (h : s.MemoryOk) : s.releaseAway.MemoryOk :=
  h.foldl (fun _ _ hx => hx.foldl (fun _ _ hx => hx.releaseTxn))

theorem State.MemoryOk.strand {s : State} (h : s.MemoryOk) : s.strand.MemoryOk := by
  unfold State.strand
  dsimp only
  exact (h.free.same (by dsimp only)).releaseAway

theorem State.MemoryOk.loseSwitch {s : State} {slot bySwitch by_} (h : s.MemoryOk) : (s.loseSwitch slot bySwitch by_).MemoryOk := by
  unfold State.loseSwitch
  dsimp only
  exact h.unless (fun hx => (hx.markDead.hwEvent.setSwitch.loseLines.opt (·.moveSequencer)).askAgain.opt
    (fun hx => (hx.strand.same (by dsimp only)).beginSweep))

theorem State.MemoryOk.declareLost {s : State} {k} (h : s.MemoryOk) : (s.declareLost k).MemoryOk := by
  unfold State.declareLost
  dsimp only
  exact (h.same (by dsimp only)).useTxn.loseSwitch

theorem State.MemoryOk.requestTimedOut {s : State} {g} (h : s.MemoryOk) : (s.requestTimedOut g).MemoryOk := by
  unfold State.requestTimedOut
  dsimp only
  split
  · exact h
  · split
    · exact h.declareLost
    · exact h

theorem State.MemoryOk.resendNote {s : State} {slot e} (h : s.MemoryOk) : (s.resendNote slot e).MemoryOk := by
  unfold State.resendNote
  split
  · exact h.sendNote
  · exact h.swNoteAck

theorem State.MemoryOk.resendNotes {s : State} {lost} (h : s.MemoryOk) : (s.resendNotes lost).MemoryOk := by
  unfold State.resendNotes
  dsimp only
  exact h.unless (fun hx => ((hx.foldl (fun _ _ hx => hx.foldl (fun _ _ hx => hx.resendNote))).same (by dsimp only)).hwEvent)

/-! ### Events of a link (LinkEvents) -/

theorem State.MemoryOk.onLink {s : State} {n h'} (h : s.MemoryOk) : (s.onLink n h').MemoryOk := h.opt (·.setLink)

theorem State.MemoryOk.dropLanes {s : State} {n lanes} (h : s.MemoryOk) : (s.dropLanes n lanes).MemoryOk := by
  unfold State.dropLanes
  dsimp only
  exact h.foldl (fun _ _ hx => hx.setLink.hwEvent)

theorem State.MemoryOk.fence {s : State} (h : s.MemoryOk) : (State.fence s).MemoryOk :=
  ⟨h.removeSpan.dram, h.removeSpan.banks, h.removeSpan.host, h.remote⟩

theorem State.MemoryOk.suspect {s : State} {slot} (h : s.MemoryOk) : (s.suspect slot).MemoryOk := by
  unfold State.suspect
  dsimp only
  split
  · exact h.opt (·.declareLost)
  · exact h.free.opt (·.declareLost)

theorem State.MemoryOk.suspectAll {s : State} {n} (h : s.MemoryOk) : (s.suspectAll n).MemoryOk := h.foldl (fun _ _ hx => hx.suspect)

theorem State.MemoryOk.linkDown {s : State} {n} (h : s.MemoryOk) : (s.linkDown n).MemoryOk := by
  unfold State.linkDown
  dsimp only
  exact (h.setLink.hwEvent.failStart.ite h.setLink.hwEvent.resetDevice).ite
    (h.setLink.hwEvent.opt (fun hx => hx.fence.ite hx.suspectAll))

theorem State.MemoryOk.linkResumes {s : State} {n} (h : s.MemoryOk) : (s.linkResumes n).MemoryOk := by
  unfold State.linkResumes
  dsimp only
  exact (post_memoryOk _ _ h.setLink.hwEvent).ite (h.setLink.hwEvent.opt (·.wakeAll))

theorem State.MemoryOk.retrained {s : State} {n ok dropped} (h : s.MemoryOk) : (s.retrained n ok dropped).MemoryOk := by
  unfold State.retrained
  refine .unless h (fun hx => ?_)
  have hd := hx.dropLanes (n := n) (lanes := dropped)
  exact hd.linkDown.ite (hd.linkResumes.ite (hd.linkDown.ite hd.setLink))

theorem State.MemoryOk.linkReturns {s : State} {n} (h : s.MemoryOk) : (s.linkReturns n).MemoryOk := by
  unfold State.linkReturns
  dsimp only
  exact h.unless (fun hx => hx.setLink.opt (post_memoryOk _ _))

/-! ### Words of memory (MemWords) -/

theorem State.MemoryOk.vectorLoad {n kind order at_ e g} {s : State} (h : s.MemoryOk) : (vectorLoad n kind order at_ e g s).Ok := by
  unfold Machine.vectorLoad
  dsimp only
  exact h.issueAccess

theorem State.MemoryOk.plainLoad {n x x'} {s : State} (h : s.MemoryOk) : (plainLoad n x x' s).Ok := h.vectorLoad

theorem State.MemoryOk.understudyLoad {n e g} {s : State} (h : s.MemoryOk) : (understudyLoad n e g s).Ok := by
  unfold Machine.understudyLoad
  split
  · exact h
  · split
    · exact State.MemoryOk.takeWatch (h.vectorLoad.of_ok ‹_›)
    · exact State.MemoryOk.takeWatch (h.vectorLoad.of_trap ‹_›)
    · exact h.vectorLoad

theorem State.MemoryOk.scratchLoad {n x x'} {s : State} (h : s.MemoryOk) : (scratchLoad n x x' s).Ok := h.vectorLoad

theorem State.MemoryOk.vectorStore {n at_ e g} {s : State} (h : s.MemoryOk) : (vectorStore n at_ e g s).Ok := by
  unfold Machine.vectorStore
  dsimp only
  exact h.issueAccess

theorem State.MemoryOk.scalarAccess {e g} {s : State} {r} (h : s.MemoryOk) : (scalarAccess e g s r).Ok := by
  unfold Machine.scalarAccess
  split
  next ht => exact h.issueAccess.of_trap ht
  · exact h.issueAccess

theorem State.MemoryOk.scalarLoad {n e g} {s : State} (h : s.MemoryOk) : (scalarLoad n e g s).Ok := by
  unfold Machine.scalarLoad
  dsimp only
  exact h.scalarAccess

theorem State.MemoryOk.scalarStore {n e g} {s : State} (h : s.MemoryOk) : (scalarStore n e g s).Ok := by
  unfold Machine.scalarStore
  dsimp only
  exact h.scalarAccess

theorem State.MemoryOk.fifoWord {enq : Bool} {e : Env} {g : Group} {s : State}
    {f : Group → Team → Mask → List Nat → State → State} (h : s.MemoryOk)
    (hf : ∀ g t m bs u, u.MemoryOk → (f g t m bs u).MemoryOk) : (Machine.fifoWord enq e g s f).Ok := by
  unfold Machine.fifoWord
  dsimp only
  split
  · exact h
  · split
    · exact h
    next t _ =>
      split
      · exact h
      · have hr (c : Bool) (g' : Group) (m bs) : (if c then .ok (f g' t m bs (s.setGroup e.gid g')) else .wait s : Res).Ok := by
          split
          · exact hf _ _ _ _ _ h.setGroup
          · exact h
        exact hr _ _ _ _

theorem State.MemoryOk.enqueue {e g} {s : State} (h : s.MemoryOk) : (enqueue e g s).Ok := by
  unfold Machine.enqueue
  dsimp only
  exact h.fifoWord (fun _ _ _ _ _ hx => hx.setTeam.wakeStalled)

theorem State.MemoryOk.dequeue {e g} {s : State} (h : s.MemoryOk) : (dequeue e g s).Ok := by
  unfold Machine.dequeue
  dsimp only
  exact h.fifoWord (fun _ _ _ _ _ hx => hx.setTeam.setGroup.wakeStalled)

/-! ### Power, the clock and the limits (Power) -/

theorem State.MemoryOk.railOut {s : State} {rail} (h : s.MemoryOk) : (s.railOut rail).MemoryOk := by
  unfold State.railOut
  dsimp only
  split
  · exact h.mapPkg
  · split
    · exact h.mapPkg
    · exact h.mapPkg
    · exact h.mapPkg
    · exact h.mapPkg
    · exact h.mapPkg.failStart

theorem State.MemoryOk.sample {s : State} {xs} (h : s.MemoryOk) : (s.sample xs).MemoryOk := by
  unfold State.sample
  refine .unless h (fun _ => ?_)
  dsimp only
  generalize (List.range 8).foldl Package.capDie _ = p
  split
  · exact .unless (h.same (by dsimp only)) (fun _ => post_memoryOk _ _ (post_memoryOk _ _ (h.same (by dsimp only))))
  · exact h.same (by dsimp only)

theorem State.MemoryOk.capPower {s : State} {watts} (h : s.MemoryOk) : (s.capPower watts).MemoryOk := by
  have hp (f : Package → Package) (n : Nat) : ({ s.mapPkg f with freeCtr := n } : State).MemoryOk := h.same rfl
  exact h.unless (fun _ => hp _ _)

theorem State.MemoryOk.writePlim {s : State} {n w} (h : s.MemoryOk) : (s.writePlim n w).MemoryOk := by
  unfold State.writePlim
  dsimp only
  exact h.unless (fun hx => hx.mapPkg.ite hx.hwEvent)

/-! ### The host: event ring, windows, interrupts (Host) -/

theorem State.MemoryOk.mapHost {s : State} {f : HostIf → HostIf} (h : s.MemoryOk) (hf : (f s.host).mem = s.host.mem) :
    (s.mapHost f).MemoryOk :=
  h.congr rfl rfl hf rfl

theorem State.MemoryOk.putRing {s : State} {n e} (h : s.MemoryOk) : (s.putRing n e).MemoryOk := by
  unfold State.putRing
  dsimp only
  exact setHostBytes_memoryOk _ _ _ h

theorem State.MemoryOk.wantIntr {s : State} (h : s.MemoryOk) : s.wantIntr.MemoryOk := h.mapHost (by rfl)

theorem State.MemoryOk.tellDropped {s : State} (h : s.MemoryOk) : s.tellDropped.MemoryOk := by
  unfold State.tellDropped
  dsimp only
  exact h.opt (fun hx => (hx.mapHost (by rfl)).holdEvent)

theorem State.MemoryOk.refill {s : State} (h : s.MemoryOk) : s.refill.MemoryOk := h.tellDropped.letIn

theorem State.MemoryOk.freeSenders {s : State} (h : s.MemoryOk) : s.freeSenders.MemoryOk := h.unstall

theorem State.MemoryOk.replayEvent {s : State} {n} (h : s.MemoryOk) : (s.replayEvent n).MemoryOk := by
  unfold State.replayEvent
  dsimp only
  refine .postOnce (.mapHost (.wantIntr ?_) (by rfl))
  split
  · exact h.putRing
  · exact h

theorem State.MemoryOk.writeEvent {s : State} {e} (h : s.MemoryOk) : (s.writeEvent e).MemoryOk := by
  unfold State.writeEvent
  dsimp only
  exact (h.putRing.wantIntr.mapHost (by rfl)).refill.freeSenders.postOnce

theorem State.MemoryOk.eventWrite {s : State} (h : s.MemoryOk) : s.eventWrite.MemoryOk := by
  unfold State.eventWrite
  dsimp only
  split
  · exact h
  · split
    · exact h.opt (·.replayEvent)
    · exact h.opt (·.writeEvent)
    · exact h

theorem State.MemoryOk.sendIntr {s : State} (h : s.MemoryOk) : s.sendIntr.MemoryOk := h.opt (·.mapHost (by rfl))

theorem State.MemoryOk.ackEvents {s : State} {v} (h : s.MemoryOk) : (s.ackEvents v).MemoryOk :=
  (h.mapHost (by rfl)).tellDropped.postOnce

theorem State.MemoryOk.replayFrom {s : State} {n} (h : s.MemoryOk) : (s.replayFrom n).MemoryOk := by
  unfold State.replayFrom
  dsimp only
  split
  · exact h
  · split
    · exact (h.mapHost (by rfl)).postOnce
    · split
      · exact (h.mapHost (by rfl)).postOnce
      · split
        · exact h
        · exact (h.mapHost (by rfl)).hwEvent.postOnce

theorem State.MemoryOk.ringConfig {s : State} {reg v} (h : s.MemoryOk) : (s.ringConfig reg v).MemoryOk := by
  unfold State.ringConfig
  split
  · exact h.unless (·.mapHost (by rfl))
  · exact h.mapHost (by rfl)
  · exact h.unless (fun hx => (hx.mapHost (by rfl)).postOnce)

theorem State.MemoryOk.selectWindow {s : State} {v} (h : s.MemoryOk) : (s.selectWindow v).MemoryOk := h.opt (·.mapHost (by rfl))

theorem State.MemoryOk.hostFault {s : State} {va write} (h : s.MemoryOk) : (s.hostFault va write).MemoryOk := h.hwEvent

theorem State.MemoryOk.sendHost {s : State} {bs} (h : s.MemoryOk) : (s.sendHost bs).MemoryOk := h.mapHost (by rfl)

theorem State.MemoryOk.reply {s : State} {mtype txn opd body} (h : s.MemoryOk) : (s.reply mtype txn opd body).MemoryOk := h.sendHost

theorem State.MemoryOk.hostRead {s : State} {va txn} (h : s.MemoryOk) : (s.hostRead va txn).1.MemoryOk := by
  unfold State.hostRead
  dsimp only
  split
  · exact h.reply.hostFault
  · split
    · exact h
    · split
      · exact h.missSys
      · exact h.reply

theorem State.MemoryOk.refuseWrite {s : State} {va txn} (h : s.MemoryOk) : (s.refuseWrite va txn).MemoryOk := h.reply.hostFault

theorem State.MemoryOk.hostWrite {s : State} {va bs txn} (h : s.MemoryOk) : (s.hostWrite va bs txn).1.MemoryOk := by
  unfold State.hostWrite
  split
  · exact h.refuseWrite
  · split
    · exact h.refuseWrite
    · split
      · exact h
      · split
        · exact (h.storeOutside.done ‹_›).reply
        · exact h.storeOutside.blocked ‹_›

theorem State.MemoryOk.queueCue {s : State} {die cue} (h : s.MemoryOk) : (s.queueCue die cue).MemoryOk := by
  unfold State.queueCue
  dsimp only
  exact h.setDie

theorem State.MemoryOk.performReq {s : State} {r} (h : s.MemoryOk) : (s.performReq r).1.MemoryOk := by
  unfold State.performReq
  split
  · exact h
  · split
    · exact h.hostRead
    · exact h.hostWrite
    · split
      · exact h.queueCue
      · exact h

theorem State.MemoryOk.waitReq {s : State} {r} (h : s.MemoryOk) : (s.waitReq r).MemoryOk := h.mapHost (by rfl)

theorem State.MemoryOk.hostAsks {s : State} {r} (h : s.MemoryOk) : (s.hostAsks r).MemoryOk := by
  unfold State.hostAsks
  split
  · split
    · exact h.performReq.fst ‹_›
    · exact (h.performReq.fst ‹_›).waitReq
  · exact h.waitReq

theorem State.MemoryOk.windowNext {s : State} (h : s.MemoryOk) : DueOk s.windowNext := by
  unfold State.windowNext
  split
  · exact .idle
  next r rest _ =>
    have hm : (s.mapHost (fun h => { h with window := rest })).MemoryOk := h.mapHost (by rfl)
    split
    · exact .due (hm.performReq.fst ‹_›)
    · exact .when ((hm.performReq.fst ‹_›).mapHost (by rfl))

theorem State.MemoryOk.cuePortRead {s : State} (h : s.MemoryOk) : s.cuePortRead.MemoryOk := h.sendHost

theorem State.MemoryOk.writeMscmode {s : State} {v} (h : s.MemoryOk) : (s.writeMscmode v).MemoryOk := h.mapPkg

theorem State.MemoryOk.writeBootCtl {s : State} {v} (h : s.MemoryOk) : (s.writeBootCtl v).MemoryOk := by
  unfold State.writeBootCtl
  dsimp only
  exact ((h.opt (·.bootGo)).opt (·.bootClr)).opt (·.bootRst)

theorem State.MemoryOk.manageWrite {s : State} {o v} (h : s.MemoryOk) : (s.manageWrite o v).MemoryOk :=
  h.ackEvents.ite (h.replayFrom.ite (h.ringConfig.ite (h.ringConfig.ite (h.ringConfig.ite (h.selectWindow.ite
    ((h.mapHost (by rfl)).ite ((h.mapHost (by rfl)).ite ((h.mapHost (by rfl)).ite
      (h.writeBootCtl.ite (h.writeMscmode.ite (h.opt (·.writePlim))))))))))))

theorem State.MemoryOk.manage {s : State} {write o v txn} (h : s.MemoryOk) : (s.manage write o v txn).MemoryOk :=
  h.manageWrite.ite h.reply

theorem State.MemoryOk.refuseCue {s : State} {cue reason} (h : s.MemoryOk) : (s.refuseCue cue reason).MemoryOk := by
  unfold State.refuseCue
  dsimp only
  exact (h.mapHost (by rfl)).hwEvent

theorem State.MemoryOk.acceptCue {s : State} {cue} (h : s.MemoryOk) : (s.acceptCue cue).MemoryOk := h.mapHost (by rfl)

theorem State.MemoryOk.takeCue {s : State} {cue} (h : s.MemoryOk) : (s.takeCue cue).MemoryOk := by
  unfold State.takeCue
  generalize field cue 4 1 = k
  refine .ite (post_memoryOk _ _ (h.acceptCue.mapHost (by rfl))) (.ite h.refuseCue ?_)
  split
  · exact h.refuseCue
  · exact .ite h.refuseCue h.acceptCue.hostAsks

theorem State.MemoryOk.cueArrives {s : State} {off cue} (h : s.MemoryOk) : (s.cueArrives off cue).MemoryOk := by
  unfold State.cueArrives
  dsimp only
  exact (h.mapHost (by rfl)).unless (·.ite (h.takeCue.ite (h.unless (·.refuseCue))))

theorem State.MemoryOk.attest {s : State} (h : s.MemoryOk) : s.attest.MemoryOk := by
  unfold State.attest
  split
  · exact h
  · exact .ite (h.mapHost (by rfl)).hwEvent (State.MemoryOk.hwEvent (setHostBytes_memoryOk _ _ _ (h.mapHost (by rfl))))

/-! ### Messages (Messages) -/

theorem State.MemoryOk.iflMessage {s : State} {m} (h : s.MemoryOk) : (s.iflMessage m).MemoryOk := by
  unfold State.iflMessage
  dsimp only
  split
  · exact h.deliver
  · exact h.deliver
  · exact h.deliver
  · exact h.deliver
  · exact h.deliver
  · exact h.deliver
  · exact h.deliver
  · exact h.deliver
  · exact h.deliver
  · exact h.deliver
  · exact h.deliver
  · exact h.loseSwitch
  · exact h

theorem State.MemoryOk.ihlMessage {s : State} {m} (h : s.MemoryOk) : (s.ihlMessage m).MemoryOk := by
  unfold State.ihlMessage
  dsimp only
  split
  · exact h.hostAsks
  · exact h.hostAsks
  · exact h.unless (·.hostAnswers)
  · exact h.unless (·.hostAcks)
  · exact h.cueArrives
  · exact h.manage
  · exact h

theorem State.MemoryOk.linkMessage {s : State} {n m} (h : s.MemoryOk) : (s.linkMessage n m).MemoryOk :=
  h.ihlMessage.ite (h.opt (·.iflMessage))

theorem State.MemoryOk.takeUp {s : State} {n l} (h : s.MemoryOk) : DueOk (s.takeUp n l) := by
  unfold State.takeUp
  split
  · exact .idle
  · split
    · exact .idle
    · exact .due h.setLink.linkMessage

/-! ### The scheduler (Sched) -/

theorem State.MemoryOk.swap {s : State} {a p} (h : s.MemoryOk) : (s.swap a p).MemoryOk := by
  unfold State.swap
  split
  · exact h.setGroup.setGroup
  · exact h

theorem State.MemoryOk.exchange {s : State} {a p} (h : s.MemoryOk) : (s.exchange a p).MemoryOk := h.opt (·.swap)

theorem State.MemoryOk.promoteOverdue {s : State} {p} (h : s.MemoryOk) : (s.promoteOverdue p).MemoryOk := by
  unfold State.promoteOverdue
  split
  · split
    · split
      · exact h.swap
      · exact h
    · exact h
  · exact h

theorem State.MemoryOk.placesDue {s : State} {q} (h : s.MemoryOk) : DueOk (s.placesDue q) := by
  unfold State.placesDue
  split
  · exact .idle
  · refine .ite (.map (fun _ => h.setGroup)) ?_
    split
    · exact .due h.exchange
    · exact .when h.promoteOverdue

theorem State.MemoryOk.limitWindow {s : State} {q} (h : s.MemoryOk) : (s.limitWindow q).MemoryOk := by
  unfold State.limitWindow
  dsimp only
  exact h.setQuarter

theorem State.MemoryOk.releaseToken {s : State} {gid} (h : s.MemoryOk) : (s.releaseToken gid).MemoryOk := by
  unfold State.releaseToken
  split
  · exact h.opt (·.setGroup)
  · exact h

theorem State.MemoryOk.tokenDue {s : State} {q} (h : s.MemoryOk) : DueOk (s.tokenDue q) := by
  refine .ite .idle ?_
  split
  · exact .idle
  · exact .map (fun _ => h.setGroup)

theorem State.MemoryOk.beginRun {s : State} {gid} (h : s.MemoryOk) : (s.beginRun gid).MemoryOk := by
  unfold State.beginRun
  dsimp only
  split
  · exact h
  · split
    · exact h
    · exact (h.same (by rfl)).same rfl

theorem State.MemoryOk.arbitrateQuarter {s : State} {q} (h : s.MemoryOk) : (s.arbitrateQuarter q).MemoryOk := by
  unfold State.arbitrateQuarter
  split
  · exact h
  · split
    · exact h
    · exact h.takeLate.ite h.beginRun

theorem State.MemoryOk.bootDue {s : State} (h : s.MemoryOk) : DueOk (s.bootDue) := by
  unfold State.bootDue
  split
  · exact .due h.readImage
  · split
    · exact .due h.failStart
    · exact .idle
  · split
    · exact .due h.failStart
    · exact .idle
  · exact .idle

theorem State.MemoryOk.sweepDue {s : State} (h : s.MemoryOk) : DueOk (s.sweepDue) := by
  unfold State.sweepDue
  split
  · exact .due h.endSweep
  · split
    · exact .idle
    · split
      · exact .due (h.same (by dsimp only)).endAbroad
      · exact .idle

theorem State.MemoryOk.inboxDue {s : State} (h : s.MemoryOk) : DueOk s.inboxDue := .findSome (fun _ => h.takeUp)

theorem State.MemoryOk.windowDue {s : State} {q} (h : s.MemoryOk) : DueOk (s.windowDue q) := by
  unfold State.windowDue
  split
  · exact .due h.limitWindow
  · exact .idle

theorem State.MemoryOk.groupDue {s : State} {e} (h : s.MemoryOk) : DueOk (s.groupDue e) :=
  .ite (.due h.releaseToken) (.ite (.due h.takeLate) (.ite (.map (fun _ => h.takeWatchdog)) (.ite (.due h.setGroup)
    (.ite (.map (fun _ => h.unguard)) (.ite h.mailboxNext .idle)))))

theorem State.MemoryOk.ckptNext {s : State} (h : s.MemoryOk) : DueOk s.ckptNext := .map (fun _ => h.commitCheckpoint)

theorem State.MemoryOk.guardNext {s : State} (h : s.MemoryOk) : DueOk s.guardNext := by
  unfold State.guardNext
  split
  · exact .due h.unguard.postOnce
  · exact .findSome (fun _ => .bind (fun _ => .map (fun _ => h.unguard)))

theorem State.MemoryOk.makeShadow {s : State} {core} (h : s.MemoryOk) : DueOk (s.makeShadow core) := by
  unfold State.makeShadow
  split
  · exact .when h.streamOut
  · exact .idle

theorem State.MemoryOk.claimDue {s : State} {core lid} (h : s.MemoryOk) : DueOk (s.claimDue core lid) := by
  unfold State.claimDue
  dsimp only
  split
  · exact .idle
  · split
    · exact .idle
    · split
      · exact .due h.setCore
      · split
        · exact .due h.streamIn
        · split
          · exact h.makeShadow
          · exact .due h.setCore

theorem State.MemoryOk.coreDue {s : State} {core} (h : s.MemoryOk) : DueOk (s.coreDue core) := by
  refine .ite ?_ (.ite (.when h.switchOut) (.ite (.bind (fun _ => h.claimDue)) (.ite (.due h.switchIn) (.ite ?_ .idle))))
  · split
    · exact .idle
    · exact .ite .idle (.ite (.due h.shadowCopy) h.makeShadow)
  · split
    · exact .due h.streamIn
    · exact .idle

theorem State.MemoryOk.dieDue {s : State} {die} (h : s.MemoryOk) : DueOk (s.dieDue die) := by
  unfold State.dieDue
  dsimp only
  split
  · exact .due h.stage
  · exact .idle

theorem State.MemoryOk.due {s : State} (h : s.MemoryOk) : DueOk s.due :=
  .or (.ite h.deliverNext .idle) (.or h.inboxDue (.or (.when h.sendIntr) (.or h.windowNext (.or h.bootDue (.ite .idle
    (.or (.findSome (fun _ => h.windowDue)) (.or (.findSome (fun _ => h.groupDue)) (.or h.ckptNext (.or h.guardNext
      (.or h.askNext (.or h.restartNext (.or (.findSome (fun _ => h.placesDue)) (.or (.findSome (fun _ => h.tokenDue))
        (.or (.findSome (fun _ => h.coreDue)) (.or (.findSome (fun _ => h.dieDue)) h.sweepDue)))))))))))))))

theorem State.MemoryOk.arbitrate {s : State} (h : s.MemoryOk) : (arbitrate s).MemoryOk := by
  unfold Machine.arbitrate
  dsimp only
  split
  · exact h.due.out ‹_›
  · split
    · exact h.arbitrateQuarter
    · exact h.passClock
    · split
      · split
        · split
          · exact h.free.arbitrateQuarter
          · exact h.free
        · split
          · exact h.free.setGroup
          · exact h.free
      · split
        · split
          · exact h.free.arbitrateQuarter
          · exact h.free
        · split
          · exact h.free.setGroup
          · exact h.free

/-! ### Cues (Cues) -/

theorem State.MemoryOk.withCue {s : State} {die is layout} {f : List Byte → State → State} (h : s.MemoryOk)
    (hf : ∀ cue t, t.MemoryOk → (f cue t).MemoryOk) : (s.withCue die is layout f).MemoryOk := by
  unfold State.withCue
  split
  · exact h
  · refine .opt h (fun _ => ?_)
    dsimp only
    split
    · exact h.setDie.cueBad
    · exact hf _ _ h.setDie

theorem State.MemoryOk.launchCue {s : State} {die cue} (h : s.MemoryOk) : (s.launchCue die cue).MemoryOk := by
  unfold State.launchCue
  dsimp only
  exact h.cueBadOwn.ite h.cueUnit.workEvent

theorem State.MemoryOk.mapRange {s : State} {c va loc psz attr n} (h : s.MemoryOk) :
    (s.mapRange c va loc psz attr n).1.MemoryOk := by
  induction n generalizing s va loc with
  | zero => exact h
  | succ n ih =>
    unfold State.mapRange
    dsimp only
    split
    · exact ih (h.mapPage.fst ‹_›).invalidate
    · exact h.mapPage.fst ‹_›

theorem State.MemoryOk.mapCue {s : State} {die cue} (h : s.MemoryOk) : (s.mapCue die cue).MemoryOk := by
  unfold State.mapCue
  dsimp only
  split
  · exact h.cueBadOwn
  · split
    · exact (h.mapRange.fst ‹_›).cueDone
    · exact (h.mapRange.fst ‹_›).cueBadOwn

theorem State.MemoryOk.unmapCue {s : State} {die cue} (h : s.MemoryOk) : (s.unmapCue die cue).MemoryOk := by
  unfold State.unmapCue
  dsimp only
  exact h.cueBadOwn.ite (h.foldl (fun _ _ hx => hx.unmapPage.invalidate)).cueDone

theorem State.MemoryOk.createCue {s : State} {die cue} (h : s.MemoryOk) : (s.createCue die cue).MemoryOk := by
  unfold State.createCue
  dsimp only
  exact h.cueBadOwn.ite h.createContext.cueDone

theorem State.MemoryOk.destroyCue {s : State} {die cue} (h : s.MemoryOk) : (s.destroyCue die cue).MemoryOk :=
  h.destroyContext.cueDone.ite h.cueBadOwn

theorem State.MemoryOk.killCue {s : State} {die cue} (h : s.MemoryOk) : (s.killCue die cue).MemoryOk :=
  h.endWork.dirEvent.ite h.cueBadOwn

theorem State.MemoryOk.ownCue {s : State} {die cue} (h : s.MemoryOk) : (s.ownCue die cue).MemoryOk := h.cueDone.ite h.cueBadOwn

theorem State.MemoryOk.stageCfg {s : State} {h'} (h : s.MemoryOk) : (s.stageCfg h').MemoryOk := h.same rfl

theorem State.MemoryOk.applyCfg {s : State} (h : s.MemoryOk) : s.applyCfg.MemoryOk := by
  unfold State.applyCfg
  dsimp only
  exact h.same (by dsimp only)

theorem State.MemoryOk.commitCue {s : State} {die cue} (h : s.MemoryOk) : (s.commitCue die cue).MemoryOk :=
  .ite h.cueBad (.ite h.cueBad (.ite h.cueBad (.ite h.cueBad h.applyCfg.cueDone)))

/-! ### Checkpoint and restore (Stream) -/

theorem State.MemoryOk.putHeader {s : State} {a bs} (h : s.MemoryOk) : (s.putHeader a bs).MemoryOk :=
  putHostRange_memoryOk _ _ _ _ h

theorem State.MemoryOk.settleFabric {s : State} (h : s.MemoryOk) : s.settleFabric.MemoryOk := by
  unfold State.settleFabric
  dsimp only
  exact (h.foldl (fun _ _ hx => hx.evictSys)).foldl (fun _ _ hx => hx.missSys)

theorem State.MemoryOk.checkpointCue {s : State} {die cue} (h : s.MemoryOk) : (s.checkpointCue die cue).MemoryOk := by
  unfold State.checkpointCue
  dsimp only
  exact h.cueBadOwn.ite (h.cueBad.ite h.mapPkg.settleFabric.putHeader)

theorem State.MemoryOk.streamOver {s : State} (h : s.MemoryOk) : s.streamOver.MemoryOk := h.mapPkg

theorem State.MemoryOk.streamAnswer {s : State} {x kind body} (h : s.MemoryOk) : (s.streamAnswer x kind body).MemoryOk :=
  h.streamOver.dirEvent

theorem State.MemoryOk.finishCheckpoint {s : State} {x} (h : s.MemoryOk) : (s.finishCheckpoint x).MemoryOk := by
  unfold State.finishCheckpoint
  dsimp only
  exact (streamTo_memoryOk _ _ _ (h.foldl (fun _ _ hx => hx.writeImage))).putHeader.streamAnswer

theorem State.MemoryOk.checkpointStops {s : State} {w} (h : s.MemoryOk) : (s.checkpointStops w).MemoryOk := by
  unfold State.checkpointStops
  dsimp only
  split
  · exact h.unless (fun hx => (streamTo_memoryOk _ _ _ hx.free.putHeader).streamAnswer)
  · exact h

theorem State.MemoryOk.checkpointComplete {s : State} (h : s.MemoryOk) : s.checkpointComplete.MemoryOk := by
  unfold State.checkpointComplete
  split
  · exact h
  · exact h.unless (fun hx => hx.checkpointStops.ite (hx.checkpointStops.ite (hx.settleFabric.ite hx.finishCheckpoint)))

theorem State.MemoryOk.restoreCue {s : State} {die cue} (h : s.MemoryOk) : (s.restoreCue die cue).MemoryOk := by
  unfold State.restoreCue
  dsimp only
  exact h.cueBad.ite (h.mapPkg.foldl (fun _ _ hx => hx.failContext))

theorem State.MemoryOk.recreate {s : State} {c} (h : s.MemoryOk) : (s.recreate c).MemoryOk := h.setContext

theorem State.MemoryOk.joinTeam {s : State} {g} (h : s.MemoryOk) : (s.joinTeam g).MemoryOk := by
  unfold State.joinTeam
  dsimp only
  split <;> exact h.setTeam

theorem State.MemoryOk.resumeImage {s : State} {c core} (h : s.MemoryOk) : (s.resumeImage c core).MemoryOk := by
  unfold State.resumeImage
  dsimp only
  exact h.unless (fun hx => (hx.foldl (fun _ _ hx => hx.setGroup.joinTeam)).setCore)

theorem State.MemoryOk.resumeImages {s : State} {c} (h : s.MemoryOk) : (s.resumeImages c).MemoryOk :=
  h.foldl (fun _ _ hx => hx.resumeImage)

theorem State.MemoryOk.loadStream {s : State} {x} (h : s.MemoryOk) : (s.loadStream x).MemoryOk := by
  unfold State.loadStream
  dsimp only
  exact streamFrom_memoryOk _ _ _ _ h

theorem State.MemoryOk.finishRestore {s : State} {x} (h : s.MemoryOk) : (s.finishRestore x).MemoryOk := by
  unfold State.finishRestore
  dsimp only
  exact ((h.loadStream.same (by dsimp only)).foldl (fun _ _ hx =>
    hx.recreate.resumeImages)).streamAnswer.ite h.loadStream.streamAnswer

theorem State.MemoryOk.restoreComplete {s : State} (h : s.MemoryOk) : s.restoreComplete.MemoryOk := by
  unfold State.restoreComplete
  split
  · exact h.opt (·.finishRestore)
  · exact h

theorem State.MemoryOk.restoreStops {s : State} {w n} (h : s.MemoryOk) : (s.restoreStops w n).MemoryOk := by
  unfold State.restoreStops
  dsimp only
  split
  · exact h.unless (fun hx => hx.retireFrame.ite (streamFrom_memoryOk _ _ _ _ hx).streamAnswer)
  · exact h

/-! ### The fetch of a word (Fetch) -/

theorem State.MemoryOk.fetchHeld {s : State} {g va} (h : s.MemoryOk) : DueOk (s.fetchHeld g va) := by
  unfold State.fetchHeld
  split
  · exact .idle
  · exact .ite (.due h) (.map (fun _ => h.missSys))

theorem State.MemoryOk.fetchWaits {s : State} {g sel} (h : s.MemoryOk) : DueOk (s.fetchWaits g sel) :=
  .or h.fetchHeld (.ite .idle h.fetchHeld)

theorem State.MemoryOk.fetch {s : State} {g sel} (h : s.MemoryOk) : (fetch s g sel).1.MemoryOk := by
  unfold Machine.fetch
  dsimp only
  split
  · exact h
  · split
    · split
      · exact h.cacheLeaf
      · exact h.cacheLeaf.cacheLeaf
    · exact h.cacheLeaf

end Sys2Proof.Machine

/-! An instruction keeps every memory in canonical form. -/

namespace Sys2Proof.Machine

open Sys2Proof

/-! ### How a word issues -/

theorem State.MemoryOk.issue {s : State} {op f} {body : Env → Group → State → Res} (h : s.MemoryOk)
    (hb : ∀ e g t, t.MemoryOk → (body e g t).Ok) : OutcomeOk (issue op f body s) := by
  unfold Machine.issue
  split
  · exact .fault
  split
  · exact .refused
  split
  · exact .refused
  next c _ _ g _ =>
    dsimp only
    split
    · exact .next h.stall
    split
    · exact .next h.wantToken
    split
    · exact .next (h.stall.ite h.noteIssue.endReplay.takeTrap)
    have hs := hb (c.env g op f) (g.begun (c.env g op f)) _ (h.setGroup (gid := c.gid) (g := g.begun (c.env g op f)))
    generalize body _ _ _ = r at hs ⊢
    cases r with
    | ok u => exact .next (State.MemoryOk.endReplay hs).retire
    | trap t u => exact .next (h.stall.ite (State.MemoryOk.endReplay hs).account.takeTrap)
    | wait u => exact .next (State.MemoryOk.setGroup hs).stall
    | waitAll u => exact .next (State.MemoryOk.setGroup hs).stall
    | hold u => exact .next (State.MemoryOk.backTo hs).stall

theorem State.MemoryOk.issueReg {s : State} {op f body} (h : s.MemoryOk) : OutcomeOk (issueReg op f body s) := by
  refine h.issue (fun e g t ht => ?_)
  split
  · exact ht.setGroup
  · exact ht.setGroup
  · exact ht

theorem State.MemoryOk.issueSimple {s : State} {op f body} (h : s.MemoryOk) : OutcomeOk (issueSimple op f body s) := h.issueReg

theorem State.MemoryOk.issueControl {s : State} {op f body} (h : s.MemoryOk) : OutcomeOk (issueControl op f body s) := by
  refine h.issue (fun e g t ht => ?_)
  split
  · exact ht.setGroup
  · exact ht.setGroup
  · exact ht

theorem State.MemoryOk.issueTile {s : State} {op f body} (h : s.MemoryOk) : OutcomeOk (issueTile op f body s) := by
  refine h.issue (fun e g t ht => ?_)
  dsimp only
  split
  · exact post_memoryOk _ _ ht.setGroup.setQuarter
  · exact post_memoryOk _ _ ht.setGroup.setQuarter
  · exact ht

theorem State.MemoryOk.issueUnassigned {s : State} {w} (h : s.MemoryOk) : OutcomeOk (issueUnassigned w s) := by
  unfold Machine.issueUnassigned
  split
  · exact .fault
  split
  · exact .refused
  split
  · exact .refused
  split
  · exact .next h.stall
  · exact .next h.noteIssue.endReplay.takeTrap

/-- A word that completes or waits, and touches nothing. -/
theorem Res.Ok.waits {s : State} {c : Prop} {_ : Decidable c} (h : s.MemoryOk) : (if c then .ok s else .waitAll s : Res).Ok := by
  split <;> exact h

/-! ### Events that more than one operation makes up -/

/-- A group changes, where it still runs. -/
theorem State.MemoryOk.onGroup {s : State} {gid} {f : Group → Group} (h : s.MemoryOk) :
    (match s.group? gid with | some g => s.setGroup gid (f g) | none => s).MemoryOk := by
  split
  · exact h.setGroup
  · exact h

theorem State.MemoryOk.atomicEvent {s : State} {gid} (h : s.MemoryOk) : OutcomeOk (execAtomicReply gid s) := by
  refine .next (h.runOp (fun t g o ht => ?_))
  split
  · exact ht.performAtomic
  · exact ht

theorem State.MemoryOk.tileUnitDone {s : State} {gid} (h : s.MemoryOk) : OutcomeOk (execTileUnitDone gid s) :=
  .next (h.opt (·.setQuarter)).unstall

theorem State.MemoryOk.lateFault {s : State} {gid} (h : s.MemoryOk) : OutcomeOk (execLateFault gid s) := by
  refine .next ?_
  split
  · exact h.opt (·.takeLate)
  · exact h

theorem State.MemoryOk.spinDemotion {s : State} {gid sel} (h : s.MemoryOk) : OutcomeOk (execSpinDemotion gid sel s) := by
  refine .next ?_
  split
  · exact h.same rfl
  · exact h

theorem State.MemoryOk.thermalTripEvent {s : State} (h : s.MemoryOk) : OutcomeOk (execThermalTripEvent s) := by
  refine .next ?_
  split
  · exact h.unless (·.mapPkg.hwEvent)
  · exact h

theorem State.MemoryOk.sweepAcknowledgement {s : State} {dev} (h : s.MemoryOk) : OutcomeOk (execSweepAcknowledgement dev s) := by
  unfold execSweepAcknowledgement
  split
  · exact .next h.deliver
  · exact .next h

theorem State.MemoryOk.ownSweep {s : State} {first last lost} (h : s.MemoryOk) :
    OutcomeOk (execInvalidateAndWritebackSweep first last lost s) := by
  unfold execInvalidateAndWritebackSweep
  split
  exact .next (h.sweepTxn.snd ‹_›).deliver

theorem State.MemoryOk.sliceStoreEvent {s : State} {core ctx va en line} (h : s.MemoryOk) :
    OutcomeOk (execSliceStore core ctx va en line s) := by
  refine .next ?_
  split
  · exact h
  · dsimp only
    split
    · exact h.sliceStore.fst ‹_›
    · exact (h.sliceStore.fst ‹_›).ask

theorem State.MemoryOk.dieRequestEvent {s : State} {die own ctx va} (h : s.MemoryOk) :
    OutcomeOk (execInterdieCoherenceRequest die own ctx va s) := by
  refine .next ?_
  split
  · exact h
  · split
    · exact h.dieRequest.fst ‹_›
    · exact (h.dieRequest.fst ‹_›).ask

theorem State.MemoryOk.mailboxService {s : State} {gid} (h : s.MemoryOk) : OutcomeOk (execMailboxService gid s) := by
  refine .next ?_
  cases hm : s.mailboxNext gid with
  | none => exact h
  | some t => exact h.mailboxNext.out hm

/-! ### Every instruction -/

/-- An instruction keeps every memory in canonical form: a word by what its body leaves, an event by what it does. -/
theorem State.MemoryOk.exec {s : State} (i : Instr) (h : s.MemoryOk) : OutcomeOk (exec i s) := by
  unfold Machine.exec
  cases i with
  | nop | setm | getm | homeq | smov | sadd | ssub | smul | smulh | sand | sor | sxor | sshl | sshr | ssra | smin | smax | sceq | sclt |
  scltu | ssel | sadd64 | ssub64 | spopc | sclz | sbfe | vmov | vbcast | vlane | vand | vor | vxor | vnot | vshl | vshr | vsra | vsel |
  vpopc | vclz | vbfe | vbfi | vpand | vpor | vpnot | vclass | vpset | vunpk | idot4 | shfl | shflx | voteany | voteall | ballot =>
    exact h.issueSimple
  | sysr => exact h.issue (fun _ _ _ ht => ht.readSystem)
  | sysw => exact h.issue (fun _ _ _ ht => ht.writeSystem)
  | trap | brkpt | sdivu | sremu | vadd | vsub | vmul | vfma | vmin | vmax | vabs | vneg | vdiv | vrem | vmulh | vceq | vcne | vclt | vcle
  | vcun | vrcp | vrsq | vsqrt | vex2 | vlg2 | vsin | vcos | vflr | vceil | vrnd | vmovi | cvt | vpk2 | vpk4 | vpk8 | dot4 | dot8 | qblk |
  qblkn | vscl | gred | gscan =>
    exact h.issueReg
  | rtt => exact h.issue (fun _ _ _ ht => ht.returnFromTrap)
  | exit => exact h.issue (fun _ _ _ ht => ht.exitLanes)
  | yield => exact h.issue (fun _ _ _ ht => ht.yieldTurn)
  | wait | waitx => exact h.issue (fun _ _ _ ht => .waits ht)
  | fence => exact h.issue (fun _ _ _ ht => ht.fenceWord)
  | launch => exact h.issue (fun _ _ _ ht => ht.launchWord)
  | recv => exact h.issue (fun _ _ _ ht => ht.receive)
  | send => exact h.issue (fun _ _ _ ht => ht.sendEvent)
  | bankcfg => exact h.issue (fun _ _ _ ht => ht.bankConfig)
  | bara => exact h.issue (fun _ _ _ ht => ht.arriveWord)
  | barw => exact h.issue (fun _ _ _ ht => ht.waitPhase)
  | baraw => exact h.issue (fun _ _ _ ht => ht.arriveWait)
  | chkw => exact h.issue (fun _ _ _ ht => ht.checkWatches)
  | wclr => exact h.issue (fun _ _ _ ht => ht.freeLevel)
  | clnr | invr | flsr => exact h.issue (fun _ _ _ ht => ht.maintenance)
  | pref => exact h.issue (fun _ _ _ ht => ht.prefetch)
  | resid => exact h.issue (fun _ _ _ ht => ht.residency)
  | bra | brz | brnz | call | ret | jmpr | condIf | condElse | condEndif | loop | brk | cont | endl | split | join =>
    exact h.issueControl
  | mma | mmaz | tzero | tfrag | tfill | tmaxr | texps | tnorm | tfft | tfstg | tbrev | twid | tscl | tcvt =>
    exact h.issueTile
  | tld => exact h.issue (fun _ _ _ ht => ht.tileLoad)
  | tst => exact h.issue (fun _ _ _ ht => ht.tileStore)
  | ldb | ldh | ldw | ldd | ldq => exact h.issue (fun _ _ _ ht => ht.plainLoad)
  | stb | sth | stw | std | stq | lstw | lstq =>
    exact h.issue (fun _ _ _ ht => ht.vectorStore)
  | ldsw | ldsd => exact h.issue (fun _ _ _ ht => ht.scalarLoad)
  | stsw | stsd => exact h.issue (fun _ _ _ ht => ht.scalarStore)
  | lduw | ldud | lduq => exact h.issue (fun _ _ _ ht => ht.understudyLoad)
  | lldw | lldq => exact h.issue (fun _ _ _ ht => ht.scratchLoad)
  | qenq => exact h.issue (fun _ _ _ ht => ht.enqueue)
  | qdeq => exact h.issue (fun _ _ _ ht => ht.dequeue)
  | aadd | amin | amax | aand | aor | axor | axch | acas | afadd =>
    exact h.issue (fun _ _ _ ht => ht.atomic)
  | radd | rfadd | rmin | rmax => exact h.issue (fun _ _ _ ht => ht.reduction)
  | cpy | cpya | cpyr | cpyar | cpy2d => exact h.issue (fun _ _ _ ht => ht.copyWord)
  | vapp | vstamp | vdrop | vget | vconn | vmrg | vrwt | vret | sight | sighta =>
    exact h.issue (fun _ _ _ ht => ht.wingsWord)
  | unassignedOpcode => exact h.issueUnassigned
  | loadReply => exact .next h.replyLoads
  | storePerformed => exact .next h.replyStores
  | atomicReply => exact h.atomicEvent
  | copyComplete => exact .next h.runCopies
  | tileUnitDone => exact h.tileUnitDone
  | fifoReady | demotionEnd | recvTimeout => exact .next h.onGroup
  | launchAnswer => exact .next h.launchAnswer
  | wingsReply => exact .next h.wingsReply
  | engineAppend => exact .next h.engineAppends
  | appendSealed => exact .next h.sealAppend
  | engineStamp => exact .next h.engineStamps
  | stampReturn => exact .next h.returnStamp
  | engineDrop => exact .next (h.engineReply (fun _ _ _ => .drop) (fun _ _ _ hx => .ite (.engineReclaim hx) hx))
  | engineGet => exact .next (h.engineReply (fun _ _ _ => .get) (fun _ _ _ hx => .noAfter hx))
  | engineConnect => exact .next (h.engineReply (fun _ _ _ => .connect) (fun _ _ _ hx => .noAfter hx))
  | engineMerge => exact .next (h.engineReply (fun _ _ _ => .merge) (fun _ _ _ hx => .noAfter hx))
  | engineReweight => exact .next (h.engineReply (fun _ _ _ => .reweight) (fun _ _ _ hx => .noAfter hx))
  | engineRetire => exact .next (h.engineReply (fun _ _ _ => .retire) (fun _ _ _ hx => .engineReclaim hx))
  | sightlineQuery => exact .next h.runSight
  | uwtResolution => exact .next h.resolveWatch
  | renewalReply => exact .next h.resolveSpec
  | ticketGrant => exact .next h.grantTicket
  | dependenceNotify => exact .next h.checkDep
  | teamEnd => exact .next h.endTeam
  | completionIncrement => exact .next h.completionIncrement
  | groupEnd => exact .next h.endGroup
  | barrierPhaseComplete => exact .next h.endPhase
  | killRecordDelivery => exact .next h.deliverKill
  | lateFault => exact h.lateFault
  | watchdogExpiry => exact .next h.takeWatchdog
  | spinDemotion => exact h.spinDemotion
  | bankDrainComplete => exact .next h.endDrain
  | rebaseComplete => exact .next h.rebase
  | containmentAction => exact .next h.contain
  | contextRestore => exact .next h.contextRestore
  | directorReady => exact .next h.directorUp
  | ihlReadReply => exact .next h.hostAnswers
  | ihlWriteAck => exact .next h.hostAcks
  | ctLimitSweep => exact .next h.sweepDie
  | railsInRange => exact .next h.railsUp
  | powerRemoval => exact .next (unpower_memoryOk s h)
  | sensorSample => exact .next h.sample
  | thermalTripEvent => exact h.thermalTripEvent
  | thermTripNAssert => exact .next (h.opt (·.mapPkg))
  | powerCapEvaluation => exact .next h.capPower
  | plimWrite => exact .next (h.ifPowered (fun _ ht => ht.writePlim))
  | railOutOfRange => exact .next h.railOut
  | linkRetrain | flitSend | flitReceive | retryRequest => exact .next h.onLink
  | retrainComplete => exact .next h.retrained
  | readRequest | ownershipRequest | writeback | ownershipNote | ownershipNoteAck | invalidationAcknowledgement | ownerData | noCopyReply
  | dataGrant | grantWithoutData | invalidation | forwardRead | forwardInvalidate | writebackAcknowledgement | waitingNotice =>
    exact .next h.deliver
  | sweepAcknowledgement => exact h.sweepAcknowledgement
  | waitingNoticeTimer => exact .next h.swNotices
  | invalidateAndWritebackSweep => exact h.ownSweep
  | switchLossDeclaration => exact .next h.loseSwitch
  | switchLossTimeout => exact .next h.requestTimedOut
  | sweepComplete => exact .next h.endSweep
  | ownershipNotesResend => exact .next h.resendNotes
  | hostMemoryRead | hostMemoryWrite => exact .next (h.ifPowered (fun _ ht => ht.hostAsks))
  | managementAccess => exact .next (h.ifPowered (fun _ ht => ht.manage))
  | evtAckWrite => exact .next (h.ifPowered (fun _ ht => ht.ackEvents))
  | evtReplayWrite => exact .next (h.ifPowered (fun _ ht => ht.replayFrom))
  | eventRingConfig => exact .next (h.ifPowered (fun _ ht => ht.ringConfig))
  | hmwSelWrite => exact .next (h.ifPowered (fun _ ht => ht.selectWindow))
  | bootCtlGo => exact .next h.bootGo
  | bootCtlClr => exact .next h.bootClr
  | bootCtlRst => exact .next h.bootRst
  | mscmodeWrite => exact .next (h.ifPowered (fun _ ht => ht.writeMscmode))
  | cueArrival => exact .next (h.ifPowered (fun _ ht => ht.cuePortRead.ite ht.cueArrives))
  | cueLaunch => exact .next (h.withCue (fun _ _ ht => ht.launchCue))
  | cueMap => exact .next (h.withCue (fun _ _ ht => ht.mapCue))
  | cueUnmap => exact .next (h.withCue (fun _ _ ht => ht.unmapCue))
  | cueCtxCreate => exact .next (h.withCue (fun _ _ ht => ht.createCue))
  | cueCtxDestroy => exact .next (h.withCue (fun _ _ ht => ht.destroyCue))
  | cueKill => exact .next (h.withCue (fun _ _ ht => ht.killCue))
  | cueCheckpoint => exact .next (h.withCue (fun _ _ ht => ht.checkpointCue))
  | cueRestore => exact .next (h.withCue (fun _ _ ht => ht.restoreCue))
  | cueAttest => exact .next h.attest
  | partitionHeader | partitionMembers | partitionHomeTable | partitionPortMap => exact .next (h.withCue (fun _ _ ht => ht.stageCfg.cueDone))
  | partitionCommit => exact .next (h.withCue (fun _ _ ht => ht.commitCue))
  | cueDirectorDefined => exact .next (h.withCue (fun _ _ ht => ht.ownCue))
  | eventWrite => exact .next h.eventWrite
  | ihlInterrupt => exact .next h.sendIntr
  | goTimeout | readyTimeout => exact .next (h.opt (·.failStart))
  | bootImageRead => exact .next h.readImage
  | dieBringUpDone => exact .next h.bringUpDone
  | checkpointComplete => exact .next h.checkpointComplete
  | checkpointInterrupt => exact .next h.checkpointStops
  | restoreStreamComplete => exact .next h.restoreComplete
  | restoreInterrupt => exact .next h.restoreStops
  | incrementalCheckpoint => exact .next h.commitCheckpoint
  | invalidatePage | invalidateContext | invalidateAll => exact .next h.startInvalidation
  | invalidationComplete => exact .next h.endInvalidation
  | mboundWrite => exact .next h.writeMbound
  | ctxtabWrite => exact .next h.writeCtxtab
  | llctlWrite => exact .next h.writeLlctl
  | memCorrectedReport => exact .next h.reportCorrected
  | patrolScrub => exact .next h.scrub
  | partitionReset => exact .next h.resetPartition
  | leaseRenewal => exact .next h.leaseRenewal
  | sliceStore => exact h.sliceStoreEvent
  | interdieCoherenceRequest => exact h.dieRequestEvent
  | priorityAging => exact .next h.age
  | placement => exact .next h.stage
  | switchOut => exact .next h.switchOut
  | shadowCopy => exact .next h.shadowCopy
  | shadowStreamOut => exact .next h.streamOut
  | switchIn => exact .next h.switchIn
  | shadowStreamIn => exact .next h.streamIn
  | groupExchange => exact .next h.exchange
  | pendingPromotionTimeout => exact .next h.promoteOverdue
  | runArbitration => exact .next (h.opt (·.arbitrateQuarter))
  | loadLimitWindow => exact .next h.limitWindow
  | tokenRelease => exact .next h.releaseToken
  | mailboxService => exact h.mailboxService
  | linkReturn => exact .next h.linkReturns
  | arenaClose => exact .next (h.same (by dsimp only))

end Sys2Proof.Machine

/-! Every step keeps every memory in canonical form (R93, R95). -/

namespace Sys2Proof.Machine

open Sys2Proof

theorem State.MemoryOk.stepWord {s : State} {c g} (h : s.MemoryOk) : OutcomeOk (stepWord s c g) := by
  unfold Machine.stepWord
  split
  · exact .next (h.fetchWaits.out ‹_›).stall
  · split
    next hf => exact .next ((h.fetch.fst hf).stall.ite (h.fetch.fst hf).takeTrap)
    next hf => exact (h.fetch.fst hf).exec _

theorem State.MemoryOk.stepRun {s : State} {c} (h : s.MemoryOk) : OutcomeOk (stepRun s c) := by
  obtain ⟨-, e⟩ | ⟨g, -, -, e⟩ := stepRun_cases s c
  · exact e ▸ .next (h.same (by dsimp only))
  · exact e ▸ h.stepWord

theorem State.MemoryOk.stepEvent {s : State} {i rest} (h : s.MemoryOk) : OutcomeOk (stepEvent s i rest) := by
  have ht : ({ s with agenda := rest } : State).MemoryOk := h.same rfl
  obtain ⟨-, e⟩ | ⟨-, -, e⟩ | ⟨-, -, e⟩ := stepEvent_cases s i rest
  · exact e ▸ .refused
  · exact e ▸ ht.exec i
  · exact e ▸ .next ht

/-- Settles O7: whichever event, word or arbitration a step is, what it leaves has every memory in canonical form. -/
theorem memoryCanonical : Obligations.MemoryCanonical := by
  intro s t h hs
  obtain ⟨i, rest, -, -, e⟩ | ⟨c, -, -, e⟩ | ⟨-, -, e⟩ := step_cases s
  · exact h.stepEvent.out (e ▸ hs)
  · exact h.stepRun.out (e ▸ hs)
  · exact (OutcomeOk.next h.arbitrate).out (e ▸ hs)

end Sys2Proof.Machine
